-- ==== Sys2Proof/Word.lean ====
section
/-! DEFINITION. The word types of the VQ-24 and their plainest arithmetic (R4, R119). -/

namespace Sys2Proof

/-- A byte. -/
abbrev Byte := BitVec 8
/-- A 32-bit word. -/
abbrev W32 := BitVec 32
/-- An x or f register, an address, a doubleword (R119). -/
abbrev Word := BitVec 64
/-- A vector register: 128 bytes (R119). -/
abbrev VReg := BitVec 1024
/-- A predicate: one bit per byte of a vector register (R119). -/
abbrev PReg := BitVec 128
/-- The number of an x, f or v register. -/
abbrev RegNo := BitVec 5
/-- The number of a predicate. -/
abbrev PredNo := BitVec 2

end Sys2Proof
end

