-- ==== Sys2Proof/Syntax/Types.lean ====
section
/-! DEFINITION. The operand types of the instructions and of the device's events: codes turned into names. -/

namespace Sys2Proof

/-- Scope (R3). Codes 110 and 111 are reserved and have no name. -/
inductive Scope | core | twig | grove | die | pkg | sys
deriving DecidableEq, Repr

/-- Command queue (R286): MQ, CQ, GQ. -/
inductive Queue | mq | cq | gq
deriving DecidableEq, Repr

/-- Cache hint (R145, R286). -/
inductive Hint | dflt | nt | l2only | once
deriving DecidableEq, Repr

/-- Access size of LDACQ and STREL (R286), and element width of custom-1 (R289). -/
inductive Size | b | h | w | d
deriving DecidableEq, Repr

/-- Integer element type, or element width, of custom-2 (R291). -/
inductive VTy | i8 | i16 | i32 | i64
deriving DecidableEq, Repr

/-- Floating element type of custom-2 (R291). -/
inductive FTy | fp16 | bf16 | fp32
deriving DecidableEq, Repr

/-- VCMP conditions (R293); the n forms are unsigned. -/
inductive Cond | eq | ne | lt | le | ltn | len
deriving DecidableEq, Repr

/-- VFCMP conditions (R293). -/
inductive FCond | eq | lt | le | un
deriving DecidableEq, Repr

/-- PLOGIC operations (R293). -/
inductive POp | and | or | xor | andn | orn | xnor
deriving DecidableEq, Repr

/-- VRED and VSCAN operations (R293). -/
inductive RedOp | add | min | max | minn | maxn | and | or | xor
deriving DecidableEq, Repr

/-- VFRED and VFSCAN operations (R293). -/
inductive FRedOp | add | min | max
deriving DecidableEq, Repr

/-- Integer conversion codes (R294). -/
inductive IFmt | i8 | i16 | i32 | i64 | n8 | n16 | n32
deriving DecidableEq, Repr

/-- Float conversion codes (R294). -/
inductive FFmt | fp16 | bf16 | fp32 | e4m3n | e5m2 | e8m0
deriving DecidableEq, Repr

/-- Format pairs of custom-3 (R295). -/
inductive Pair | e4e4 | e4e5 | e5e4 | e5e5 | bf | fp | i8
deriving DecidableEq, Repr

/-- AMOX operations (R287). -/
inductive AmoxOp
  | addI32 | addI64 | addF32 | addBf16x2 | minI32 | minI64 | maxI32 | maxI64
  | and64 | or64 | xor64 | swap32 | swap64 | cas64 | fminF32 | fmaxF32
deriving DecidableEq, Repr

/-- VAMO operations (R290). -/
inductive VamoOp | add | min | max | and | or | xor | swap | faddF32
deriving DecidableEq, Repr

/-! ### Standard RISC-V (R279) -/

/-- Scalar load kinds. -/
inductive LoadKind | lb | lh | lw | ld | lbu | lhu | lwu | flw | fld
deriving DecidableEq, Repr

/-- Scalar store kinds. -/
inductive StoreKind | sb | sh | sw | sd | fsw | fsd
deriving DecidableEq, Repr

/-- Standard AMO operations. -/
inductive AmoOp | swap | add | xor | and | or | min | max | minu | maxu
deriving DecidableEq, Repr

/-- Branches. -/
inductive BrOp | eq | ne | lt | ge | ltu | geu
deriving DecidableEq, Repr

/-- OP-IMM with a 12-bit immediate. -/
inductive ImmOp | addi | slti | sltiu | xori | ori | andi
deriving DecidableEq, Repr

/-- OP-IMM shifts with a 6-bit amount (I, Zbb). -/
inductive ShOp | slli | srli | srai | rori
deriving DecidableEq, Repr

/-- OP-IMM-32 shifts with a 5-bit amount (I, Zbb). -/
inductive ShOpW | slliw | srliw | sraiw | roriw
deriving DecidableEq, Repr

/-- Register operations of OP and OP-32 (I, M, Zba, Zbb, Zicond). -/
inductive AluOp
  | add | sub | sll | slt | sltu | xor | srl | sra | or | and
  | mul | mulh | mulhsu | mulhu | div | divu | rem | remu
  | addw | subw | sllw | srlw | sraw | mulw | divw | divuw | remw | remuw
  | adduw | sh1add | sh2add | sh3add | sh1adduw | sh2adduw | sh3adduw
  | andn | orn | xnor | max | maxu | min | minu | rol | ror | rolw | rorw
  | czeroEqz | czeroNez
deriving DecidableEq, Repr

/-- One-operand Zbb instructions. -/
inductive UnOp
  | clz | ctz | cpop | clzw | ctzw | cpopw | sextb | sexth | zexth | rev8 | orcb
deriving DecidableEq, Repr

/-- Floating precision of F and D. -/
inductive Prec | s | d
deriving DecidableEq, Repr

/-- Two-operand arithmetic of F and D. -/
inductive FpOp | add | sub | mul | div
deriving DecidableEq, Repr

/-- Fused operations of F and D. -/
inductive FmaOp | fmadd | fmsub | fnmsub | fnmadd
deriving DecidableEq, Repr

/-- Sign injection of F and D. -/
inductive SgnOp | sgnj | sgnjn | sgnjx
deriving DecidableEq, Repr

/-- Comparison of F and D. -/
inductive FpCmp | le | lt | eq
deriving DecidableEq, Repr

/-- Integer side of a conversion of F and D: w, wu, l, lu. -/
inductive CvtInt | w | wu | l | lu
deriving DecidableEq, Repr

/-- Zicsr operations. -/
inductive CsrOp | rw | rs | rc
deriving DecidableEq, Repr

/-- The source of a CSR instruction: a register, or a 5-bit immediate. -/
inductive CsrSrc | reg (r : RegNo) | imm (u : BitVec 5)
deriving DecidableEq, Repr

/-- A CSR instruction's operation, destination and source. -/
structure CsrArgs where
  op : CsrOp
  rd : RegNo
  src : CsrSrc
deriving DecidableEq, Repr

/-- The instructions of the row RV64_INSTRUCTION (R279): RV64I, M, F, D, Zicsr, Zba, Zbb, Zicond and the
privileged returns. Their meaning is the RISC-V specifications' (log 10). -/
inductive Rv
  | lui (rd : RegNo) (imm : BitVec 20)
  | auipc (rd : RegNo) (imm : BitVec 20)
  | jal (rd : RegNo) (off : BitVec 20)
  | jalr (rd rs1 : RegNo) (imm : BitVec 12)
  | branch (op : BrOp) (rs1 rs2 : RegNo) (off : BitVec 12)
  | opImm (op : ImmOp) (rd rs1 : RegNo) (imm : BitVec 12)
  | shift (op : ShOp) (rd rs1 : RegNo) (sh : BitVec 6)
  | shiftW (op : ShOpW) (rd rs1 : RegNo) (sh : BitVec 5)
  | addiw (rd rs1 : RegNo) (imm : BitVec 12)
  | slliUw (rd rs1 : RegNo) (sh : BitVec 6)
  | alu (op : AluOp) (rd rs1 rs2 : RegNo)
  | unary (op : UnOp) (rd rs1 : RegNo)
  | fp (op : FpOp) (p : Prec) (rd rs1 rs2 : RegNo) (rm : BitVec 3)
  | fsqrt (p : Prec) (rd rs1 : RegNo) (rm : BitVec 3)
  | fma (op : FmaOp) (p : Prec) (rd rs1 rs2 rs3 : RegNo) (rm : BitVec 3)
  | fsgn (op : SgnOp) (p : Prec) (rd rs1 rs2 : RegNo)
  | fminmax (isMax : Bool) (p : Prec) (rd rs1 rs2 : RegNo)
  | fcmp (op : FpCmp) (p : Prec) (rd rs1 rs2 : RegNo)
  | fclass (p : Prec) (rd rs1 : RegNo)
  | fcvtToInt (t : CvtInt) (p : Prec) (rd rs1 : RegNo) (rm : BitVec 3)
  | fcvtFromInt (t : CvtInt) (p : Prec) (rd rs1 : RegNo) (rm : BitVec 3)
  | fcvtSD (rd rs1 : RegNo) (rm : BitVec 3)
  | fcvtDS (rd rs1 : RegNo) (rm : BitVec 3)
  | fmvToInt (p : Prec) (rd rs1 : RegNo)
  | fmvFromInt (p : Prec) (rd rs1 : RegNo)
  | csr (a : CsrArgs) (csr : BitVec 12)
  | mret
  | wfi
deriving DecidableEq, Repr

/-! ### Operands of the device's events -/

/-- The result of checking a firmware image (R84): each test as its outcome (log 17). -/
structure FwImage where
  keyOk : Bool
  sigOk : Bool
  digestOk : Bool
  version : W32
  digest : BitVec 256
deriving DecidableEq, Repr

/-- The three kinds of firmware image (R84). -/
inductive FwKind | serlar | mmode | walker
deriving DecidableEq, Repr

/-- Where an uncorrectable ECC error of R155, R157 or R253 lies: a register slot, the constant bank, a queue side buffer; a
word of the core's scratchpad or lane slices at a pool offset; a line of its L1; a line of slice scratch or of DRAM, in its slice's
sector store or in a DRAM sector, by memory key. -/
inductive EccPlace
  | slot (bank : Bool) (ctx : Nat)
  | constBank (bank : Bool)
  | sideBuffer (q : Queue) (bank : Bool) (seq : Nat)
  | pool (off : Nat)
  | l1 (line : Nat)
  | line (key : Nat)
deriving DecidableEq, Repr

/-- An entry of a storage extent table (R76). -/
structure Extent where
  drive : Nat
  nsid : Nat
  first : Nat
  count : Nat
  lba : Nat
  read : Bool
  write : Bool
deriving DecidableEq, Repr

/-- A region granted to a peer connection (R79). -/
structure Grant where
  key : W32
  addr : Word
  size : Nat
  read : Bool
  write : Bool
deriving DecidableEq, Repr

/-- What the root kernel enters when it opens a peer table entry (R79). -/
structure PeerOpen where
  asid : Nat
  connId : W32
  key : W32
  grants : List Grant
deriving DecidableEq, Repr

/-- One beat of a timed schedule (R39, R272), by core index within the stage. -/
structure Beat where
  frame : Nat
  slot : Nat
  src : Nat
  dst : Nat
  entry : Nat
deriving DecidableEq, Repr

/-- A timed schedule of a kernel of an image, bound to a stage record (R272). -/
structure Sched where
  kernel : Nat
  stage : Nat
  frame : Nat
  beats : List Beat
deriving DecidableEq, Repr

/-- A stage record of a kernel of a finalised image (R115, R268, R269). -/
structure StageRec where
  kernel : Nat
  entry : W32
  pool0 : Nat
  pool1 : Nat
  pool2 : Nat
  hstack : Word
  hstksz : Word
  maxc : Nat
  blevel : Nat
deriving DecidableEq, Repr

/-- Instructions whose queue a portable image leaves symbolic (R277). -/
inductive QueueIns | cmdq | cmdqw | cmdcan | cmdst | loopset | loopget
deriving DecidableEq, Repr

/-- Instructions whose format pair a portable image leaves symbolic (R277). -/
inductive PairIns | vdotp | vmulp | vqnt | vdqnt
deriving DecidableEq, Repr

/-- An instruction of the text of a portable image (R277): linked, or with a symbolic queue or format pair. -/
inductive PortIns
  | word (w : W32)
  | queue (op : QueueIns) (q : Queue) (a b : BitVec 5)
  | pair (op : PairIns) (p : Pair) (fs3 vs2 vs1 vd : RegNo)
deriving DecidableEq, Repr

/-- Operations of tile statements, whose OPC values a portable image leaves symbolic (R277). -/
inductive TileOp
  | mzero | mma | mmas | mlda | msta | mtrn | cpy | cpys | cpyk | cfill | gath | scat | srd | swr | nrd | nwr | cdec | ccnt
  | geval | gfetch | gpref | gexp | gmv | gvm | grot | gcon | qnop | qstamp | qarr | qwait | qsig
deriving DecidableEq, Repr

/-- A tile statement of a portable image (R270, R277): its operation, and its other fields with the OPC byte zero. -/
structure PortTile where
  op : TileOp
  fields : BitVec 256
deriving DecidableEq, Repr

/-- A portable image as the finaliser reads it (R277, R278): the base at which it is linked, which is that of its text segment, the
contents of its four segments (R265), its stage records and schedules, and the sizes of its kernels' slice sections (R267). -/
structure ImageRec where
  digest : BitVec 256
  textVa : Word
  text : List PortIns
  tiles : List PortTile
  const : List Byte
  data : List Byte
  stages : List StageRec
  scheds : List Sched
  sliceBytes : List Nat
deriving DecidableEq, Repr

/-- What the root kernel writes into device memory, at physical addresses, to place or map something for a process: its firmware's
choice (R83, R144). -/
abbrev KernelWrites := List (Nat × List Byte)

/-- The halt area that the root kernel gives a launch (R257): where it lies, where the process sees it, and what the root kernel
writes to map it. -/
structure HaltArea where
  pa : Nat
  va : Word
  writes : KernelWrites
deriving DecidableEq, Repr

/-- A transport header and payload of the peer transport (R78). -/
structure PeerPkt where
  ver : Nat
  op : Nat
  last : Bool
  refused : Bool
  conn : W32
  seq : W32
  key : W32
  addr : Word
  len : Nat
  ackseq : W32
  data : List Byte
deriving DecidableEq, Repr

/-- An offer-tree node: its level (1 to 7) and the twig of its router (R43). -/
structure NodeId where
  level : Nat
  twig : Nat
deriving DecidableEq, Repr

/-- The traffic classes of R28. -/
inductive TClass | req | rsp | msg | ext
deriving DecidableEq, Repr

/-- A mailbox request: the port that it comes through, and what it is about (R423). -/
structure Mail (α : Type) where
  port : Bool
  what : α
deriving DecidableEq, Repr

/-- An admission: the ring, and the halt area that the firmware places for the launch (R88, R257; log 85). -/
structure AdmitAt where
  ring : Nat
  area : HaltArea
deriving DecidableEq, Repr

/-- An image and what the root kernel writes to map it (R265; log 85). -/
structure ImageLoad where
  img : ImageRec
  writes : KernelWrites
deriving DecidableEq, Repr

/-- An address of a process. -/
structure AsidVa where
  asid : Nat
  va : Word
deriving DecidableEq, Repr

/-- What a checkpoint takes, of a process or of all device memory, the port that asks for it, and where firmware puts it: a drive, a
namespace, the first LBA (R86; log 64). -/
structure CkptAsk where
  port : Bool
  what : Option Nat
  drive : Nat
  nsid : Nat
  lba : Nat
deriving DecidableEq, Repr

/-- Where a piece of a checkpoint goes, the drive it comes from and the port that asked for it, and whether it is in raw-bark form
(R86). -/
structure CkptAt where
  port : Bool
  drive : Nat
  rawb : Bool
  pa : Nat
deriving DecidableEq, Repr

end Sys2Proof
end

