-- ==== Sys2Proof/Syntax.lean ====
section
/-! DEFINITION. The instructions and events of the VQ-24: one constructor per row of the opcode table. -/

namespace Sys2Proof

/-- One step of the device (opcode table). Instructions of a core carry their decoded fields; a tile command
names the queue entry that the engine carries out (pushing bank, sequence value); an event of the device carries
what its agent supplies. -/
inductive Instr
  /-- ENTER_S3 (R23). -/
  | enterS3
  /-- DESCRIPTOR_COPY (R68). -/
  | descriptorCopy (port : Bool) (ring : Nat)
  /-- ADMISSION (R88). -/
  | admission (port : Bool) (ring : AdmitAt)
  /-- CHECKPOINT_REQUEST (R86): of a process's memory, or of all device memory. -/
  | checkpointRequest (ask : CkptAsk)
  /-- LAUNCH_GATE_PASS (R89). -/
  | launchGatePass (launch : Nat)
  /-- PLACEMENT (R91). -/
  | placement (launch : Nat) (groves groups : List Nat)
  /-- STAGE_START (R95). -/
  | stageStart (launch : Nat)
  /-- LAUNCH_END (R96). -/
  | launchEnd (launch : Nat)
  /-- BALANCER_EVALUATION (R107). -/
  | balancerEvaluation (part : Nat)
  /-- SHADOW_SWAP (R101). -/
  | shadowSwap
  /-- SWAP_COMPLETE (R102). -/
  | swapComplete
  /-- YIELD_EVENT (R104). -/
  | yieldEvent
  /-- SPILL_COMPLETE (R104). -/
  | spillComplete
  /-- FILL_COMPLETE (R104). -/
  | fillComplete
  /-- QUANTUM_EXPIRY (R98). -/
  | quantumExpiry
  /-- REMOTE_DATA_RETURN (R99). -/
  | remoteDataReturn (bank : Bool) (ctx : Nat) (err : BitVec 128) (host : List (Nat × Byte))
  /-- PACKET_ARRIVAL (R27). -/
  | packetArrival (cls : TClass) (src dst : Nat)
  /-- GOVERNOR_CHANGE (R33). -/
  | governorChange (grove : Nat)
  /-- RELOCK_END (R33). -/
  | relockEnd (grove : Nat)
  /-- OFFER_STEER (R48). -/
  | offerSteer (node : NodeId)
  /-- OFFER_DELIVER (R48). -/
  | offerDeliver
  /-- READINESS_UPDATE (R47). -/
  | readinessUpdate (node : NodeId)
  /-- OFFER_RETURN (R52). -/
  | offerReturn (group : Nat)
  /-- RESEND_TIMER (R52). -/
  | resendTimer (twig : Nat)
  /-- ORDERED_SEND_RELEASE (R54). -/
  | orderedSendRelease (twig : Nat)
  /-- RELEASING_SEND_RELEASE (R216). -/
  | releasingSendRelease (twig : Nat)
  /-- OFFER_RECEIPT (R49). -/
  | offerReceipt
  /-- GROUP_RECORD_UPDATE (R53). -/
  | groupRecordUpdate (group : Nat)
  /-- MSEND_COPY_DELIVER (R57). -/
  | msendCopyDeliver
  /-- BARRIER_TOP_RELEASE (R58). -/
  | barrierTopRelease (dom : Nat)
  /-- BARRIER_RELEASE_ARRIVE (R312). -/
  | barrierReleaseArrive (ch : BitVec 3)
  /-- HALT_WIRE (R64). -/
  | haltWire
  /-- LAUNCH_HALT (R254). -/
  | launchHalt (launch : Nat)
  /-- BEAT_ARRIVE (R40). -/
  | beatArrive
  /-- STORE_FAULT_RECORD (R249). -/
  | storeFaultRecord (bank : Bool) (ctx : Nat) (err : BitVec 128)
  /-- ASYNC_STORE_FAULT_TRAP (R250). -/
  | asyncStoreFaultTrap
  /-- L1_FILL (R140). -/
  | l1Fill
  /-- SLICE_ACCESS (R148). -/
  | sliceAccess (slice : Nat)
  /-- SLICE_FILL (R151). -/
  | sliceFill (slice : Nat)
  /-- FLUSH_REQUEST (R141). -/
  | flushRequest
  /-- FLUSH_ACK (R141). -/
  | flushAck (slice line : Nat)
  /-- WRITEBACK_MERGE (R141): write-back `i` of those under way. -/
  | writebackMerge
  /-- REPLICA_INVALIDATE_ACK (R154). -/
  | replicaInvalidateAck (line die : Nat)
  /-- PAGE_MODE_SWITCH (R154). -/
  | pageModeSwitch (frame : Nat)
  /-- PAGE_WALK_COMPLETE (R144). -/
  | pageWalkComplete
  /-- MONITOR_WAKE (R314). -/
  | monitorWake (bank : Bool) (ctx : Nat)
  /-- RESERVATION_EXPIRE (R281). -/
  | reservationExpire (bank : Bool) (ctx : Nat)
  /-- METADATA_FETCH (R158): the fetch that an access to an address of a process makes. -/
  | metadataFetch (line : AsidVa) (ok : Bool)
  /-- SEQUENCER_DISPATCH (R127). -/
  | sequencerDispatch (q : Queue)
  /-- COMMAND_RETIRE (R125). -/
  | commandRetire (q : Queue)
  /-- WALKER_RECORD_POLL (R167). -/
  | walkerRecordPoll
  /-- WALKER_RECORD_TIMEOUT (R167). -/
  | walkerRecordTimeout
  /-- NVME_PIECE_COMPLETE (R77). -/
  | nvmePieceComplete (piece : Nat) (ok : Bool) (data : List Byte)
  /-- NVME_PIECE_TIMEOUT (R77). -/
  | nvmePieceTimeout (piece : Nat)
  /-- DTVEC_WRITE (R242). -/
  | dtvecWrite (a : CsrArgs)
  /-- DCKSUM_WRITE (R339). -/
  | dcksumWrite (a : CsrArgs)
  /-- DINJECT_WRITE (R340). -/
  | dinjectWrite (a : CsrArgs)
  /-- DBANK_YEV_CLEAR (R341). -/
  | dbankYevClear (a : CsrArgs)
  /-- DPOOLB_WRITE (R116). -/
  | dpoolbWrite (a : CsrArgs) (n : BitVec 2)
  /-- DMEMB_WRITE (R59). -/
  | dmembWrite (a : CsrArgs)
  /-- SCHED_CSR_WRITE (R97). -/
  | schedCsrWrite (a : CsrArgs) (n : BitVec 2)
  /-- CSR_WRITE (R337). -/
  | csrWrite (a : CsrArgs) (csr : BitVec 12)
  /-- RV64_INSTRUCTION (R279). -/
  | rv64Instruction (i : Rv)
  /-- LOAD (R247). -/
  | load (k : LoadKind) (rd rs1 : RegNo) (imm : BitVec 12)
  /-- STORE (R247). -/
  | store (k : StoreKind) (rs2 rs1 : RegNo) (imm : BitVec 12)
  /-- AMO (R280). -/
  | amo (op : AmoOp) (dbl aq rl : Bool) (rd rs1 rs2 : RegNo)
  /-- LR (R281). -/
  | lr (dbl aq rl : Bool) (rd rs1 : RegNo)
  /-- SC (R281). -/
  | sc (dbl aq rl : Bool) (rd rs1 rs2 : RegNo)
  /-- FENCE (R211). -/
  | fence (fm pred succ : BitVec 4) (rs1 rd : RegNo)
  /-- FENCE_TSO (R211). -/
  | fenceTso (rs1 rd : RegNo)
  /-- FENCE_I (R211). -/
  | fenceI (imm : BitVec 12) (rs1 rd : RegNo)
  /-- ECALL (R279). -/
  | ecall
  /-- EBREAK (R279). -/
  | ebreak
  /-- HSTART (R307). -/
  | hstart (rs2 rs1 rd : RegNo)
  /-- HJOIN (R308). -/
  | hjoin (rs1 rd : RegNo)
  /-- HEXIT (R251). -/
  | hexit
  /-- HLIVE (R309). -/
  | hlive (rd : RegNo)
  /-- YIELD (R309). -/
  | yield
  /-- STGEND (R113). -/
  | stgend
  /-- STGBIND (R109). -/
  | stgbind
  /-- SHSWAP (R310). -/
  | shswap
  /-- BARR (R312). -/
  | barr (c : BitVec 3) (rs1 : RegNo)
  /-- BWAIT (R312). -/
  | bwait (c : BitVec 3) (rd : RegNo)
  /-- BARW (R312). -/
  | barw (c : BitVec 3) (rs1 rd : RegNo)
  /-- BTEST (R312). -/
  | btest (c : BitVec 3) (rd : RegNo)
  /-- MWAITGE (R314). -/
  | mwaitge (rs2 rs1 rd : RegNo)
  /-- MWAITEQ (R314). -/
  | mwaiteq (rs2 rs1 rd : RegNo)
  /-- MWAITNE (R314). -/
  | mwaitne (rs2 rs1 rd : RegNo)
  /-- PHCOMM (R313). -/
  | phcomm (c : BitVec 3)
  /-- PHCOMP (R313). -/
  | phcomp (c : BitVec 3)
  /-- FENCES (R316). -/
  | fences (pred succ : BitVec 2) (s : Scope)
  /-- LDACQ (R317). -/
  | ldacq (z : Size) (s : Scope) (rs1 rd : RegNo)
  /-- STREL (R317). -/
  | strel (z : Size) (s : Scope) (rs2 rs1 : RegNo)
  /-- DRAINS (R318). -/
  | drains
  /-- CFLUSH (R319). -/
  | cflush (s : Scope) (rs1 : RegNo)
  /-- CINV (R319). -/
  | cinv (s : Scope) (rs1 : RegNo)
  /-- CPREF (R320). -/
  | cpref (h : Hint) (rs1 : RegNo)
  /-- RLQ (R321). -/
  | rlq (rs2 rs1 rd : RegNo)
  /-- CMDQ (R323). -/
  | cmdq (q : Queue) (rs1 rd : RegNo)
  /-- CMDQW (R324). -/
  | cmdqw (q : Queue) (rs1 rd : RegNo)
  /-- CMDCAN (R325). -/
  | cmdcan (q : Queue) (rs1 rd : RegNo)
  /-- CMDST (R326). -/
  | cmdst (q : Queue) (rd : RegNo)
  /-- LOOPSET (R326). -/
  | loopset (q : Queue) (l : BitVec 3) (rs1 : RegNo)
  /-- LOOPGET (R326). -/
  | loopget (q : Queue) (l : BitVec 3) (rd : RegNo)
  /-- OSEND (R328). -/
  | osend (vs rs1 rd : RegNo)
  /-- OSEND_O (R328). -/
  | osendO (vs rs1 rd : RegNo)
  /-- OSEND_R (R328). -/
  | osendR (vs rs1 rd : RegNo)
  /-- OSEND_OR (R328). -/
  | osendOr (vs rs1 rd : RegNo)
  /-- OREADY (R329). -/
  | oready (rs2 rs1 rd : RegNo)
  /-- OUNREADY (R329). -/
  | ounready (rs2 rs1 rd : RegNo)
  /-- OTAKE (R330). -/
  | otake (vd rs1 rd : RegNo)
  /-- OTAKE_A (R330). -/
  | otakeA (vd rs1 rd : RegNo)
  /-- OPOLL (R330). -/
  | opoll (vd rs1 rd : RegNo)
  /-- OFENCE (R331). -/
  | ofence (rs1 : RegNo)
  /-- MSEND (R332). -/
  | msend (vs rd : RegNo)
  /-- WTX (R333). -/
  | wtx (vs rs1 : RegNo)
  /-- WSEL (R333). -/
  | wsel (rs1 : RegNo)
  /-- WRX (R333). -/
  | wrx (vd rs1 : RegNo)
  /-- AMOX (R334). -/
  | amox (op : AmoxOp) (s : Scope) (rs2 rs1 rd : RegNo)
  /-- IDGET (R335). -/
  | idget (sel : BitVec 12) (rd : RegNo)
  /-- HRET (R244). -/
  | hret
  /-- FLTPOP (R336). -/
  | fltpop (vd rd : RegNo)
  /-- FLTCNT (R336). -/
  | fltcnt (rd : RegNo)
  /-- GSTOP (R336). -/
  | gstop (c : BitVec 3)
  /-- VLD (R348). -/
  | vld (e : Size) (rs1 : RegNo) (h : Hint) (z : Bool) (vd : RegNo)
  /-- VST (R348). -/
  | vst (e : Size) (rs1 : RegNo) (h : Hint) (z : Bool) (vs3 : RegNo)
  /-- VLDS (R348). -/
  | vlds (e : Size) (rs2 rs1 : RegNo) (h : Hint) (z : Bool) (vd : RegNo)
  /-- VSTS (R348). -/
  | vsts (e : Size) (rs2 rs1 : RegNo) (h : Hint) (z : Bool) (vs3 : RegNo)
  /-- VLDX (R351). -/
  | vldx (e : Size) (vs2 rs1 : RegNo) (z : Bool) (vd : RegNo)
  /-- VSTX (R351). -/
  | vstx (e : Size) (vs2 rs1 : RegNo) (z : Bool) (vs3 : RegNo)
  /-- VLDL (R353). -/
  | vldl (e : Size) (rs1 : RegNo) (z : Bool) (vd : RegNo)
  /-- VSTL (R353). -/
  | vstl (e : Size) (rs1 : RegNo) (z : Bool) (vs3 : RegNo)
  /-- VLDB (R352). -/
  | vldb (e : Size) (rs1 : RegNo) (h : Hint) (vd : RegNo)
  /-- VSTM (R352). -/
  | vstm (e : Size) (p : PredNo) (rs1 : RegNo) (h : Hint) (vs3 : RegNo)
  /-- VAMO (R354). -/
  | vamo (e : Size) (op : VamoOp) (vs2 rs1 vs3 : RegNo)
  /-- VPREF (R355). -/
  | vpref (e : Size) (rs1 : RegNo) (h : Hint)
  /-- VADD (R356). -/
  | vadd (t : VTy) (vs2 vs1 : RegNo) (pg : PredNo) (vd : RegNo)
  /-- VSUB (R356). -/
  | vsub (t : VTy) (vs2 vs1 : RegNo) (pg : PredNo) (vd : RegNo)
  /-- VMUL (R356). -/
  | vmul (t : VTy) (vs2 vs1 : RegNo) (pg : PredNo) (vd : RegNo)
  /-- VMULH (R356). -/
  | vmulh (t : VTy) (vs2 vs1 : RegNo) (pg : PredNo) (vd : RegNo)
  /-- VMULHN (R356). -/
  | vmulhn (t : VTy) (vs2 vs1 : RegNo) (pg : PredNo) (vd : RegNo)
  /-- VMAC (R356). -/
  | vmac (t : VTy) (vs2 vs1 : RegNo) (pg : PredNo) (vd : RegNo)
  /-- VADDS (R356). -/
  | vadds (t : VTy) (vs2 vs1 : RegNo) (pg : PredNo) (vd : RegNo)
  /-- VADDSN (R356). -/
  | vaddsn (t : VTy) (vs2 vs1 : RegNo) (pg : PredNo) (vd : RegNo)
  /-- VSUBS (R356). -/
  | vsubs (t : VTy) (vs2 vs1 : RegNo) (pg : PredNo) (vd : RegNo)
  /-- VSUBSN (R356). -/
  | vsubsn (t : VTy) (vs2 vs1 : RegNo) (pg : PredNo) (vd : RegNo)
  /-- VMIN (R356). -/
  | vmin (t : VTy) (vs2 vs1 : RegNo) (pg : PredNo) (vd : RegNo)
  /-- VMINN (R356). -/
  | vminn (t : VTy) (vs2 vs1 : RegNo) (pg : PredNo) (vd : RegNo)
  /-- VMAX (R356). -/
  | vmax (t : VTy) (vs2 vs1 : RegNo) (pg : PredNo) (vd : RegNo)
  /-- VMAXN (R356). -/
  | vmaxn (t : VTy) (vs2 vs1 : RegNo) (pg : PredNo) (vd : RegNo)
  /-- VAND (R356). -/
  | vand (t : VTy) (vs2 vs1 : RegNo) (pg : PredNo) (vd : RegNo)
  /-- VOR (R356). -/
  | vor (t : VTy) (vs2 vs1 : RegNo) (pg : PredNo) (vd : RegNo)
  /-- VXOR (R356). -/
  | vxor (t : VTy) (vs2 vs1 : RegNo) (pg : PredNo) (vd : RegNo)
  /-- VSLL (R356). -/
  | vsll (t : VTy) (vs2 vs1 : RegNo) (pg : PredNo) (vd : RegNo)
  /-- VSRL (R356). -/
  | vsrl (t : VTy) (vs2 vs1 : RegNo) (pg : PredNo) (vd : RegNo)
  /-- VSRA (R356). -/
  | vsra (t : VTy) (vs2 vs1 : RegNo) (pg : PredNo) (vd : RegNo)
  /-- VCMP (R357). -/
  | vcmp (t : VTy) (k : Cond) (vs2 vs1 : RegNo) (pg pd : PredNo)
  /-- VSEL (R357). -/
  | vsel (t : VTy) (vs2 vs1 : RegNo) (pg : PredNo) (vd : RegNo)
  /-- VFADD (R358). -/
  | vfadd (t : FTy) (vs2 vs1 : RegNo) (pg : PredNo) (vd : RegNo)
  /-- VFSUB (R358). -/
  | vfsub (t : FTy) (vs2 vs1 : RegNo) (pg : PredNo) (vd : RegNo)
  /-- VFMUL (R358). -/
  | vfmul (t : FTy) (vs2 vs1 : RegNo) (pg : PredNo) (vd : RegNo)
  /-- VFMA (R358). -/
  | vfma (t : FTy) (vs2 vs1 : RegNo) (pg : PredNo) (vd : RegNo)
  /-- VFMS (R358). -/
  | vfms (t : FTy) (vs2 vs1 : RegNo) (pg : PredNo) (vd : RegNo)
  /-- VFNMA (R358). -/
  | vfnma (t : FTy) (vs2 vs1 : RegNo) (pg : PredNo) (vd : RegNo)
  /-- VFDIV (R358). -/
  | vfdiv (t : FTy) (vs2 vs1 : RegNo) (pg : PredNo) (vd : RegNo)
  /-- VFSQRT (R358). -/
  | vfsqrt (t : FTy) (vs1 : RegNo) (pg : PredNo) (vd : RegNo)
  /-- VFMIN (R358). -/
  | vfmin (t : FTy) (vs2 vs1 : RegNo) (pg : PredNo) (vd : RegNo)
  /-- VFMAX (R358). -/
  | vfmax (t : FTy) (vs2 vs1 : RegNo) (pg : PredNo) (vd : RegNo)
  /-- VFCMP (R359). -/
  | vfcmp (t : FTy) (k : FCond) (vs2 vs1 : RegNo) (pg pd : PredNo)
  /-- VFSGN (R359). -/
  | vfsgn (t : FTy) (vs2 vs1 : RegNo) (pg : PredNo) (vd : RegNo)
  /-- VFCLASS (R359). -/
  | vfclass (t : FTy) (vs1 : RegNo) (pg : PredNo) (vd : RegNo)
  /-- VCVTF (R362). -/
  | vcvtf (dst : FFmt) (src : IFmt) (sat : Bool) (vs1 : RegNo) (pg : PredNo) (vd : RegNo)
  /-- VCVTI (R362). -/
  | vcvti (dst : IFmt) (src : FFmt) (sat : Bool) (vs1 : RegNo) (pg : PredNo) (vd : RegNo)
  /-- VCVTX (R362). -/
  | vcvtx (dst src : FFmt) (sat : Bool) (vs1 : RegNo) (pg : PredNo) (vd : RegNo)
  /-- VRED (R363). -/
  | vred (t : VTy) (op : RedOp) (vs1 : RegNo) (pg : PredNo) (vd : RegNo)
  /-- VFRED (R363). -/
  | vfred (t : FTy) (op : FRedOp) (vs1 : RegNo) (pg : PredNo) (vd : RegNo)
  /-- VSCAN (R364). -/
  | vscan (t : VTy) (op : RedOp) (vs1 : RegNo) (pg : PredNo) (vd : RegNo)
  /-- VFSCAN (R364). -/
  | vfscan (t : FTy) (op : FRedOp) (vs1 : RegNo) (pg : PredNo) (vd : RegNo)
  /-- VPERM (R365). -/
  | vperm (t : VTy) (vs2 vs1 : RegNo) (pg : PredNo) (vd : RegNo)
  /-- VSLIDEUP (R365). -/
  | vslideup (t : VTy) (rs2 vs1 : RegNo) (pg : PredNo) (vd : RegNo)
  /-- VSLIDEDN (R365). -/
  | vslidedn (t : VTy) (rs2 vs1 : RegNo) (pg : PredNo) (vd : RegNo)
  /-- VROTL (R356). -/
  | vrotl (t : VTy) (vs2 vs1 : RegNo) (pg : PredNo) (vd : RegNo)
  /-- VZIP (R365). -/
  | vzip (t : VTy) (vs2 vs1 : RegNo) (pg : PredNo) (vd : RegNo)
  /-- VUNZIP (R365). -/
  | vunzip (t : VTy) (vs2 vs1 : RegNo) (pg : PredNo) (vd : RegNo)
  /-- VBCAST (R365). -/
  | vbcast (t : VTy) (rs1 : RegNo) (pg : PredNo) (vd : RegNo)
  /-- VEXT (R365). -/
  | vext (t : VTy) (rs2 vs1 : RegNo) (pg : PredNo) (rd : RegNo)
  /-- VINS (R365). -/
  | vins (t : VTy) (rs2 rs1 : RegNo) (pg : PredNo) (vd : RegNo)
  /-- VCMUL (R360). -/
  | vcmul (t : FTy) (vs2 vs1 : RegNo) (pg : PredNo) (vd : RegNo)
  /-- PLOGIC (R366). -/
  | plogic (t : VTy) (op : POp) (pb pa pg pd : PredNo)
  /-- PPOPC (R366). -/
  | ppopc (t : VTy) (pa pg : PredNo) (rd : RegNo)
  /-- PFIRST (R366). -/
  | pfirst (t : VTy) (pa pg : PredNo) (rd : RegNo)
  /-- PSETN (R366). -/
  | psetn (t : VTy) (rs1 : RegNo) (pg pd : PredNo)
  /-- VID (R365). -/
  | vid (t : VTy) (pg : PredNo) (vd : RegNo)
  /-- VPOPC (R356). -/
  | vpopc (t : VTy) (vs1 : RegNo) (pg : PredNo) (vd : RegNo)
  /-- VCLZ (R356). -/
  | vclz (t : VTy) (vs1 : RegNo) (pg : PredNo) (vd : RegNo)
  /-- VDOTP (R368). -/
  | vdotp (fs3 vs2 vs1 : RegNo) (p : Pair) (vd : RegNo)
  /-- VMULP (R369). -/
  | vmulp (fs3 vs2 vs1 : RegNo) (p : Pair) (vd : RegNo)
  /-- VQNT (R370). -/
  | vqnt (fs3 vs1 : RegNo) (p : Pair) (vd : RegNo)
  /-- VDQNT (R371). -/
  | vdqnt (fs3 vs1 : RegNo) (p : Pair) (vd : RegNo)
  /-- MZERO (R381). -/
  | mzero (bank : Bool) (seq : Nat)
  /-- MMA (R380). -/
  | mma (bank : Bool) (seq : Nat)
  /-- MMAS (R380). -/
  | mmas (bank : Bool) (seq : Nat)
  /-- MLDA (R381). -/
  | mlda (bank : Bool) (seq : Nat)
  /-- MSTA (R381). -/
  | msta (bank : Bool) (seq : Nat)
  /-- MTRN (R381). -/
  | mtrn (bank : Bool) (seq : Nat)
  /-- CPY (R382). -/
  | cpy (bank : Bool) (seq : Nat)
  /-- CPY_GRAIN (R383). -/
  | cpyGrain (bank : Bool) (seq : Nat)
  /-- CPYS (R384). -/
  | cpys (bank : Bool) (seq : Nat)
  /-- CPYK (R385). -/
  | cpyk (bank : Bool) (seq : Nat)
  /-- CFILL (R386). -/
  | cfill (bank : Bool) (seq : Nat)
  /-- GATH (R387). -/
  | gath (bank : Bool) (seq : Nat)
  /-- SCAT (R388). -/
  | scat (bank : Bool) (seq : Nat)
  /-- SRD (R389). -/
  | srd (bank : Bool) (seq : Nat)
  /-- SWR (R389). -/
  | swr (bank : Bool) (seq : Nat)
  /-- NRD (R390). -/
  | nrd (bank : Bool) (seq : Nat)
  /-- NWR (R390). -/
  | nwr (bank : Bool) (seq : Nat)
  /-- CDEC (R391). -/
  | cdec (bank : Bool) (seq : Nat)
  /-- CCNT (R392). -/
  | ccnt (bank : Bool) (seq : Nat)
  /-- GEVAL (R394). -/
  | geval (bank : Bool) (seq : Nat)
  /-- GFETCH (R395). -/
  | gfetch (bank : Bool) (seq : Nat)
  /-- GPREF (R395). -/
  | gpref (bank : Bool) (seq : Nat)
  /-- GEXP (R395). -/
  | gexp (bank : Bool) (seq : Nat)
  /-- GMV (R396). -/
  | gmv (bank : Bool) (seq : Nat)
  /-- GVM (R396). -/
  | gvm (bank : Bool) (seq : Nat)
  /-- GROT (R397). -/
  | grot (bank : Bool) (seq : Nat)
  /-- GCON (R398). -/
  | gcon (bank : Bool) (seq : Nat)
  /-- QNOP (R401). -/
  | qnop (bank : Bool) (seq : Nat)
  /-- QSTAMP (R401). -/
  | qstamp (bank : Bool) (seq : Nat)
  /-- QARR (R401). -/
  | qarr (bank : Bool) (seq : Nat)
  /-- QWAIT (R401). -/
  | qwait (bank : Bool) (seq : Nat)
  /-- QSIG (R401). -/
  | qsig (bank : Bool) (seq : Nat)
  /-- ILLEGAL_INSTRUCTION (R301). -/
  | illegalInstruction (bits : W32)
  /-- INSTRUCTION_FETCH_FAULT (R246). -/
  | instructionFetchFault (cause : BitVec 8)
  /-- ENGINE_CHAIN_EVENT (R129). -/
  | engineChainEvent (q : Queue) (bank : Bool) (seq : Nat) (ev : BitVec 2)
  /-- TIMED_SLOT_START (R40). -/
  | timedSlotStart (bank : Bool) (ctx : Nat)
  /-- DEVICE_RESET (R82). -/
  | deviceReset (img : FwImage) (half dead : List Nat)
  /-- HOST_LINKS_TRAINED (R20). -/
  | hostLinksTrained (mmode walker : FwImage)
  /-- DRAM_TRAINING_DONE (R21). -/
  | dramTrainingDone (die : Nat) (ok : Bool)
  /-- THERMAL_SAMPLE (R13). -/
  | thermalSample (die : Nat) (hot : Nat) (layers : List Nat)
  /-- CHANNEL_RETIREMENT (R15). -/
  | channelRetirement (twig : Nat)
  /-- ECC_FATAL_ERROR (R253). -/
  | eccFatalError (place : EccPlace)
  /-- RTAIL_DOORBELL (R67). -/
  | rtailDoorbell (port : Bool) (ring : Nat) (tail : W32)
  /-- RERR_CLEAR (R67). -/
  | rerrClear (port : Bool) (ring : Nat) (val : Word)
  /-- HOST_REGISTER_WRITE (R67). -/
  | hostRegisterWrite (port : Bool) (off : Nat) (val : Word)
  /-- WINDOW_WRITE (R66). -/
  | windowWrite (port : Bool) (off : Nat) (data : List Byte)
  /-- WINDOW_READ (R66). -/
  | windowRead (port : Bool) (off len : Nat)
  /-- MAILBOX_PARTITION_CREATE (R138). -/
  | mailboxPartitionCreate (part : Mail Nat) (groves : BitVec 96) (scratch : List (Nat × Nat))
  /-- MAILBOX_RING_BIND (R67). -/
  | mailboxRingBind (port : Bool) (ring asid part root : Nat)
  /-- MAILBOX_WINDOW_BASE (R65). -/
  | mailboxWindowBase (port : Bool) (base : Nat)
  /-- MAILBOX_IMAGE_LOAD (R278). -/
  | mailboxImageLoad (asid : Mail Nat) (handle : Word) (img : ImageLoad)
  /-- MAILBOX_FIRMWARE_UPDATE (R84). -/
  | mailboxFirmwareUpdate (kind : Mail FwKind) (img : FwImage)
  /-- ROLLBACK_COUNTER_RAISE (R84). -/
  | rollbackCounterRaise (kind : Mail FwKind) (val : W32)
  /-- ATTESTATION_REQUEST (R85). -/
  | attestationRequest (port : Bool) (nonce : BitVec 256)
  /-- EXTENT_TABLE_FILL (R76). -/
  | extentTableFill (asid : Mail Nat) (exts : List Extent)
  /-- PEER_TABLE_OPEN (R79). -/
  | peerTableOpen (conn : Mail Nat) (o : PeerOpen)
  /-- CONNECTION_CLOSE (R81). -/
  | connectionClose (conn : Mail Nat)
  /-- KILL_PROCESS (R259). -/
  | killProcess (asid : Nat)
  /-- CHECKPOINT_RESTORE (R86): as it stands, or in raw-bark form. -/
  | checkpointRestore (place : CkptAt) (data : List Byte)
  /-- CHECKPOINT_TIMEOUT (R256). -/
  | checkpointTimeout (launch : Nat)
  /-- RESUME_LAUNCH (R255). -/
  | resumeLaunch (launch : Nat)
  /-- RCLK_TARGET_WRITE (R33). -/
  | rclkTargetWrite (grove : Nat) (mhz : BitVec 11)
  /-- RCLK_JOIN (R35). -/
  | rclkJoin (grove : Nat) (grp : BitVec 7)
  /-- RCLK_LEAVE (R35). -/
  | rclkLeave (grove : Nat)
  /-- PEER_WRITE (R78). -/
  | peerWrite (conn : Nat) (pkt : PeerPkt)
  /-- PEER_READREQ (R78). -/
  | peerReadreq (conn : Nat) (pkt : PeerPkt)
  /-- PEER_READRESP (R80). -/
  | peerReadresp (conn : Nat) (pkt : PeerPkt)
  /-- PEER_ACK (R79). -/
  | peerAck (conn : Nat) (pkt : PeerPkt)
  /-- PEER_NAK (R79). -/
  | peerNak (conn : Nat) (pkt : PeerPkt)
  /-- PEER_CLOSE (R81). -/
  | peerClose (conn : Nat) (pkt : PeerPkt)
  /-- PEER_RETRY_TIMEOUT (R79). -/
  | peerRetryTimeout (conn : Nat)
  /-- DESCRIPTOR_SLOT_WRITE (R68). -/
  | descriptorSlotWrite (port : Bool) (ring slot : Nat) (desc : BitVec 2048)
  /-- CORE_CLOCK_TARGET_WRITE (R83). -/
  | coreClockTargetWrite (die mhz : Nat)
  /-- POWER_LOSS (R18). -/
  | powerLoss
deriving DecidableEq, Repr

end Sys2Proof
end

