-- ==== Sys2Proof/WellFormed.lean ====
section
/-! DEFINITION. Which terms of `Instr` an encoding of the spec can produce (R279 to R295), and which event operands
name something that exists (R8, R24, R43). -/

namespace Sys2Proof

/-- The source of a CSR instruction that writes (R337): CSRRW always, CSRRS and CSRRC but for x0 or an immediate of 0. -/
def CsrArgs.writes (a : CsrArgs) : Bool :=
  match a.op, a.src with
  | .rw, _ => true
  | _, .reg r => r != 0
  | _, .imm u => u != 0

/-- The device CSRs whose write is an opcode-table row of its own (R59, R97, R116, R242, R339, R340, R341). -/
def csrOwnRow (n : BitVec 12) : Bool :=
  [0x7C0#12, 0x800#12, 0x801#12, 0x802#12, 0x805#12, 0x806#12, 0x807#12, 0x808#12, 0x809#12, 0x80A#12, 0x810#12].contains n

/-- The device CSRs that the row CSR_WRITE covers (R337). -/
def csrOther (n : BitVec 12) : Bool :=
  [0x803#12, 0x804#12, 0x80B#12, 0x811#12, 0x812#12, 0x813#12, 0x814#12, 0x7C1#12, 0x7C2#12].contains n

/-- Static rounding modes that RISC-V does not reserve (R279). -/
def rmOk (rm : BitVec 3) : Bool := rm != 5 && rm != 6

/-- Well-formed standard instructions (R279). -/
def Rv.wf : Rv → Bool
  | .fp _ _ _ _ _ rm | .fsqrt _ _ _ rm | .fma _ _ _ _ _ _ rm | .fcvtToInt _ _ _ _ rm
  | .fcvtFromInt _ _ _ _ rm | .fcvtSD _ _ rm | .fcvtDS _ _ rm => rmOk rm
  | .csr a n => !(a.writes && (csrOwnRow n || csrOther n))
  | _ => true

/-- VAMO's operations and widths (R290). -/
def vamoOk (e : Size) (op : VamoOp) : Bool :=
  match e, op with
  | .b, _ => false
  | .h, _ => false
  | .d, .min => false
  | .d, .max => false
  | .d, .faddF32 => false
  | _, _ => true

/-- An offer-tree node that exists (R25, R43): the router of its extent. -/
def NodeId.wf (n : NodeId) : Bool := 1 ≤ n.level && n.level ≤ 7 && n.twig < 6144

/-- Well-formed instructions and events. -/
def Instr.wf : Instr → Bool
  | .rv64Instruction i => i.wf
  | .dtvecWrite a | .dcksumWrite a | .dinjectWrite a | .dbankYevClear a | .dmembWrite a => a.writes
  | .dpoolbWrite a n | .schedCsrWrite a n => a.writes && n != 3
  | .csrWrite a n => a.writes && csrOther n
  | .fence fm p q rs1 rd => fm == 0 && ((rs1 == 0 && rd == 0) || ((p == 0 || q == 0) && (rs1 == 0 || rd == 0)))
  | .fenceTso rs1 rd => rs1 == 0 && rd == 0
  | .fenceI imm rs1 rd => imm == 0 && rs1 == 0 && rd == 0
  | .idget sel _ => sel.ult 14
  | .vamo e op _ _ _ => vamoOk e op
  | .vcvtx dst src _ _ _ _ => dst != src
  | .dramTrainingDone die _ | .thermalSample die _ _ | .coreClockTargetWrite die _ => die < 24
  | .channelRetirement twig | .resendTimer twig | .orderedSendRelease twig | .releasingSendRelease twig => twig < 6144
  | .rtailDoorbell _ ring _ | .rerrClear _ ring _ | .mailboxRingBind _ ring _ _ _ | .descriptorCopy _ ring => ring < 32
  | .admission _ a => a.ring < 32
  | .descriptorSlotWrite _ ring slot _ => ring < 32 && slot < 64
  | .rclkTargetWrite g _ | .rclkJoin g _ | .rclkLeave g | .governorChange g | .relockEnd g => g < 96
  | .offerSteer n | .readinessUpdate n => n.wf
  | .sliceAccess s | .sliceFill s | .flushAck s _ => s < 6144
  | _ => true

end Sys2Proof
end

