-- ==== Sys2Proof/Decode.lean ====
section
/-! DEFINITION. From the bytes of an instruction to the instruction or the reason it is none (R279 to R301), and
back. Both directions read one set of code tables, written from R284 to R295 and, for the standard profile of R279,
from the RISC-V unprivileged specification (log 10). -/

namespace Sys2Proof

/-- Why bytes are no instruction (R301). -/
inductive Reject
  /-- fewer than 4 bytes -/
  | short
  /-- major opcode of R284 marked illegal -/
  | major
  /-- unassigned funct value -/
  | unassigned
  /-- nonzero bit in a must-be-zero field -/
  | mustBeZero
  /-- queue code 11 -/
  | queueCode
  /-- scope 110 or 111 -/
  | scopeCode
  /-- type 11 of a class F instruction -/
  | typeCode
  /-- unlisted selector -/
  | selector
  /-- unlisted conversion code -/
  | conversion
  /-- pair code 111 -/
  | pairCode
  /-- reserved encoding of the standard profile -/
  | standard
deriving DecidableEq, Repr

/-! ### Fields (R285, R289, R291, R295) -/

/-- Bits [6:0]. -/
def opcOf (w : W32) : BitVec 7 := w.extractLsb' 0 7
/-- Bits [11:7]. -/
def rdOf (w : W32) : BitVec 5 := w.extractLsb' 7 5
/-- Bits [14:12]. -/
def f3Of (w : W32) : BitVec 3 := w.extractLsb' 12 3
/-- Bits [19:15]. -/
def rs1Of (w : W32) : BitVec 5 := w.extractLsb' 15 5
/-- Bits [24:20]. -/
def rs2Of (w : W32) : BitVec 5 := w.extractLsb' 20 5
/-- Bits [31:25]. -/
def f7Of (w : W32) : BitVec 7 := w.extractLsb' 25 7
/-- Bits [31:20]. -/
def immIOf (w : W32) : BitVec 12 := w.extractLsb' 20 12

/-- Six fields of the register shape as one word. -/
def wordR (f7 : BitVec 7) (rs2 rs1 : BitVec 5) (f3 : BitVec 3) (rd : BitVec 5) (opc : BitVec 7) : W32 :=
  f7 ++ rs2 ++ rs1 ++ f3 ++ rd ++ opc

/-- Five fields of the immediate shape as one word. -/
def wordI (imm : BitVec 12) (rs1 : BitVec 5) (f3 : BitVec 3) (rd : BitVec 5) (opc : BitVec 7) : W32 :=
  imm ++ rs1 ++ f3 ++ rd ++ opc

/-- The fields of custom-2 as one word (R291). -/
def wordV (f6 : BitVec 6) (ty : BitVec 2) (vs2 vs1 : BitVec 5) (pg : BitVec 2) (vd : BitVec 5) : W32 :=
  f6 ++ ty ++ vs2 ++ vs1 ++ pg ++ vd ++ 0x5B#7

/-! ### Code tables -/

/-- The scope codes of R3. -/
def Scope.code : Scope → BitVec 3
  | .core => 0 | .twig => 1 | .grove => 2 | .die => 3 | .pkg => 4 | .sys => 5

/-- Reads a scope code (R3). -/
def Scope.ofCode (b : BitVec 3) : Option Scope :=
  [Scope.core, .twig, .grove, .die, .pkg, .sys].find? fun s => s.code == b

/-- The queue codes of R286. -/
def Queue.code : Queue → BitVec 2
  | .mq => 0 | .cq => 1 | .gq => 2

/-- Reads a queue code (R286). -/
def Queue.ofCode (b : BitVec 2) : Option Queue := [Queue.mq, .cq, .gq].find? fun q => q.code == b

/-- The hint codes of R286. -/
def Hint.code : Hint → BitVec 2
  | .dflt => 0 | .nt => 1 | .l2only => 2 | .once => 3

/-- Reads a hint code (R286). -/
def Hint.ofCode (b : BitVec 2) : Hint :=
  if b = 0 then .dflt else if b = 1 then .nt else if b = 2 then .l2only else .once

/-- The size codes of R286, which are also the element widths of R289. -/
def Size.code : Size → BitVec 2
  | .b => 0 | .h => 1 | .w => 2 | .d => 3

/-- Reads a size code (R286, R289). -/
def Size.ofCode (b : BitVec 2) : Size :=
  if b = 0 then .b else if b = 1 then .h else if b = 2 then .w else .d

/-- The integer type codes of R291. -/
def VTy.code : VTy → BitVec 2
  | .i8 => 0 | .i16 => 1 | .i32 => 2 | .i64 => 3

/-- Reads an integer type code (R291). -/
def VTy.ofCode (b : BitVec 2) : VTy :=
  if b = 0 then .i8 else if b = 1 then .i16 else if b = 2 then .i32 else .i64

/-- The floating type codes of R291. -/
def FTy.code : FTy → BitVec 2
  | .fp16 => 0 | .bf16 => 1 | .fp32 => 2

/-- Reads a floating type code (R291). -/
def FTy.ofCode (b : BitVec 2) : Option FTy := [FTy.fp16, .bf16, .fp32].find? fun t => t.code == b

/-- VCMP conditions (R293). -/
def Cond.code : Cond → BitVec 3
  | .eq => 0 | .ne => 1 | .lt => 2 | .le => 3 | .ltn => 4 | .len => 5

/-- Reads a VCMP condition (R293). -/
def Cond.ofCode (b : BitVec 3) : Option Cond := [Cond.eq, .ne, .lt, .le, .ltn, .len].find? fun t => t.code == b

/-- VFCMP conditions (R293). -/
def FCond.code : FCond → BitVec 3
  | .eq => 0 | .lt => 1 | .le => 2 | .un => 3

/-- Reads a VFCMP condition (R293). -/
def FCond.ofCode (b : BitVec 3) : Option FCond := [FCond.eq, .lt, .le, .un].find? fun t => t.code == b

/-- PLOGIC operations (R293). -/
def POp.code : POp → BitVec 3
  | .and => 0 | .or => 1 | .xor => 2 | .andn => 3 | .orn => 4 | .xnor => 5

/-- Reads a PLOGIC operation (R293). -/
def POp.ofCode (b : BitVec 3) : Option POp := [POp.and, .or, .xor, .andn, .orn, .xnor].find? fun t => t.code == b

/-- VRED and VSCAN operations (R293). -/
def RedOp.code : RedOp → BitVec 3
  | .add => 0 | .min => 1 | .max => 2 | .minn => 3 | .maxn => 4 | .and => 5 | .or => 6 | .xor => 7

/-- Reads a VRED or VSCAN operation (R293). -/
def RedOp.ofCode (b : BitVec 3) : Option RedOp :=
  [RedOp.add, .min, .max, .minn, .maxn, .and, .or, .xor].find? fun t => t.code == b

/-- VFRED and VFSCAN operations (R293). -/
def FRedOp.code : FRedOp → BitVec 3
  | .add => 0 | .min => 1 | .max => 2

/-- Reads a VFRED or VFSCAN operation (R293). -/
def FRedOp.ofCode (b : BitVec 3) : Option FRedOp := [FRedOp.add, .min, .max].find? fun t => t.code == b

/-- Integer conversion codes (R294). -/
def IFmt.code : IFmt → BitVec 3
  | .i8 => 0 | .i16 => 1 | .i32 => 2 | .i64 => 3 | .n8 => 4 | .n16 => 5 | .n32 => 6

/-- Reads an integer conversion code (R294). -/
def IFmt.ofCode (b : BitVec 3) : Option IFmt :=
  [IFmt.i8, .i16, .i32, .i64, .n8, .n16, .n32].find? fun t => t.code == b

/-- Float conversion codes (R294). -/
def FFmt.code : FFmt → BitVec 3
  | .fp16 => 0 | .bf16 => 1 | .fp32 => 2 | .e4m3n => 3 | .e5m2 => 4 | .e8m0 => 5

/-- Reads a float conversion code (R294). -/
def FFmt.ofCode (b : BitVec 3) : Option FFmt :=
  [FFmt.fp16, .bf16, .fp32, .e4m3n, .e5m2, .e8m0].find? fun t => t.code == b

/-- Pair codes (R295). -/
def Pair.code : Pair → BitVec 3
  | .e4e4 => 0 | .e4e5 => 1 | .e5e4 => 2 | .e5e5 => 3 | .bf => 4 | .fp => 5 | .i8 => 6

/-- Reads a pair code (R295). -/
def Pair.ofCode (b : BitVec 3) : Option Pair :=
  [Pair.e4e4, .e4e5, .e5e4, .e5e5, .bf, .fp, .i8].find? fun t => t.code == b

/-- AMOX operation codes (R287). -/
def AmoxOp.code : AmoxOp → BitVec 4
  | .addI32 => 0 | .addI64 => 1 | .addF32 => 2 | .addBf16x2 => 3 | .minI32 => 4 | .minI64 => 5 | .maxI32 => 6
  | .maxI64 => 7 | .and64 => 8 | .or64 => 9 | .xor64 => 10 | .swap32 => 11 | .swap64 => 12 | .cas64 => 13
  | .fminF32 => 14 | .fmaxF32 => 15

/-- Reads an AMOX operation code (R287). -/
def AmoxOp.ofCode (b : BitVec 4) : Option AmoxOp :=
  [AmoxOp.addI32, .addI64, .addF32, .addBf16x2, .minI32, .minI64, .maxI32, .maxI64, .and64, .or64, .xor64,
    .swap32, .swap64, .cas64, .fminF32, .fmaxF32].find? fun t => t.code == b

/-- VAMO operation codes (R290). -/
def VamoOp.code : VamoOp → BitVec 3
  | .add => 0 | .min => 1 | .max => 2 | .and => 3 | .or => 4 | .xor => 5 | .swap => 6 | .faddF32 => 7

/-- Reads a VAMO operation code (R290). -/
def VamoOp.ofCode (b : BitVec 3) : Option VamoOp :=
  [VamoOp.add, .min, .max, .and, .or, .xor, .swap, .faddF32].find? fun t => t.code == b

/-! ### Code tables of the standard profile (RISC-V, log 10) -/

/-- funct3 of a scalar load, with the opcode 0000011 or, for f registers, 0000111. -/
def LoadKind.code : LoadKind → BitVec 7 × BitVec 3
  | .lb => (0x03, 0) | .lh => (0x03, 1) | .lw => (0x03, 2) | .ld => (0x03, 3) | .lbu => (0x03, 4) | .lhu => (0x03, 5)
  | .lwu => (0x03, 6) | .flw => (0x07, 2) | .fld => (0x07, 3)

/-- Reads a load's opcode and funct3. -/
def LoadKind.ofCode (c : BitVec 7 × BitVec 3) : Option LoadKind :=
  [LoadKind.lb, .lh, .lw, .ld, .lbu, .lhu, .lwu, .flw, .fld].find? fun t => t.code == c

/-- Opcode and funct3 of a scalar store. -/
def StoreKind.code : StoreKind → BitVec 7 × BitVec 3
  | .sb => (0x23, 0) | .sh => (0x23, 1) | .sw => (0x23, 2) | .sd => (0x23, 3) | .fsw => (0x27, 2) | .fsd => (0x27, 3)

/-- Reads a store's opcode and funct3. -/
def StoreKind.ofCode (c : BitVec 7 × BitVec 3) : Option StoreKind :=
  [StoreKind.sb, .sh, .sw, .sd, .fsw, .fsd].find? fun t => t.code == c

/-- funct5 of a standard AMO. -/
def AmoOp.code : AmoOp → BitVec 5
  | .add => 0 | .swap => 1 | .xor => 4 | .or => 8 | .and => 12 | .min => 16 | .max => 20 | .minu => 24 | .maxu => 28

/-- Reads a standard AMO's funct5. -/
def AmoOp.ofCode (b : BitVec 5) : Option AmoOp :=
  [AmoOp.add, .swap, .xor, .or, .and, .min, .max, .minu, .maxu].find? fun t => t.code == b

/-- funct3 of a branch. -/
def BrOp.code : BrOp → BitVec 3
  | .eq => 0 | .ne => 1 | .lt => 4 | .ge => 5 | .ltu => 6 | .geu => 7

/-- Reads a branch's funct3. -/
def BrOp.ofCode (b : BitVec 3) : Option BrOp := [BrOp.eq, .ne, .lt, .ge, .ltu, .geu].find? fun t => t.code == b

/-- funct3 of an immediate operation. -/
def ImmOp.code : ImmOp → BitVec 3
  | .addi => 0 | .slti => 2 | .sltiu => 3 | .xori => 4 | .ori => 6 | .andi => 7

/-- Reads an immediate operation's funct3. -/
def ImmOp.ofCode (b : BitVec 3) : Option ImmOp :=
  [ImmOp.addi, .slti, .sltiu, .xori, .ori, .andi].find? fun t => t.code == b

/-- Bits [31:26] and funct3 of a 64-bit immediate shift. -/
def ShOp.code : ShOp → BitVec 6 × BitVec 3
  | .slli => (0x00, 1) | .srli => (0x00, 5) | .srai => (0x10, 5) | .rori => (0x18, 5)

/-- Reads a 64-bit immediate shift. -/
def ShOp.ofCode (c : BitVec 6 × BitVec 3) : Option ShOp :=
  [ShOp.slli, .srli, .srai, .rori].find? fun t => t.code == c

/-- funct7 and funct3 of a 32-bit immediate shift. -/
def ShOpW.code : ShOpW → BitVec 7 × BitVec 3
  | .slliw => (0x00, 1) | .srliw => (0x00, 5) | .sraiw => (0x20, 5) | .roriw => (0x30, 5)

/-- Reads a 32-bit immediate shift. -/
def ShOpW.ofCode (c : BitVec 7 × BitVec 3) : Option ShOpW :=
  [ShOpW.slliw, .srliw, .sraiw, .roriw].find? fun t => t.code == c

/-- Opcode, funct7 and funct3 of a register operation. -/
def AluOp.code : AluOp → BitVec 7 × BitVec 7 × BitVec 3
  | .add => (0x33, 0x00, 0) | .sub => (0x33, 0x20, 0) | .sll => (0x33, 0x00, 1) | .slt => (0x33, 0x00, 2)
  | .sltu => (0x33, 0x00, 3) | .xor => (0x33, 0x00, 4) | .srl => (0x33, 0x00, 5) | .sra => (0x33, 0x20, 5)
  | .or => (0x33, 0x00, 6) | .and => (0x33, 0x00, 7)
  | .mul => (0x33, 0x01, 0) | .mulh => (0x33, 0x01, 1) | .mulhsu => (0x33, 0x01, 2) | .mulhu => (0x33, 0x01, 3)
  | .div => (0x33, 0x01, 4) | .divu => (0x33, 0x01, 5) | .rem => (0x33, 0x01, 6) | .remu => (0x33, 0x01, 7)
  | .addw => (0x3B, 0x00, 0) | .subw => (0x3B, 0x20, 0) | .sllw => (0x3B, 0x00, 1) | .srlw => (0x3B, 0x00, 5)
  | .sraw => (0x3B, 0x20, 5) | .mulw => (0x3B, 0x01, 0) | .divw => (0x3B, 0x01, 4) | .divuw => (0x3B, 0x01, 5)
  | .remw => (0x3B, 0x01, 6) | .remuw => (0x3B, 0x01, 7)
  | .adduw => (0x3B, 0x04, 0) | .sh1add => (0x33, 0x10, 2) | .sh2add => (0x33, 0x10, 4) | .sh3add => (0x33, 0x10, 6)
  | .sh1adduw => (0x3B, 0x10, 2) | .sh2adduw => (0x3B, 0x10, 4) | .sh3adduw => (0x3B, 0x10, 6)
  | .andn => (0x33, 0x20, 7) | .orn => (0x33, 0x20, 6) | .xnor => (0x33, 0x20, 4)
  | .max => (0x33, 0x05, 6) | .maxu => (0x33, 0x05, 7) | .min => (0x33, 0x05, 4) | .minu => (0x33, 0x05, 5)
  | .rol => (0x33, 0x30, 1) | .ror => (0x33, 0x30, 5) | .rolw => (0x3B, 0x30, 1) | .rorw => (0x3B, 0x30, 5)
  | .czeroEqz => (0x33, 0x07, 5) | .czeroNez => (0x33, 0x07, 7)

/-- Every register operation. -/
def AluOp.all : List AluOp :=
  [.add, .sub, .sll, .slt, .sltu, .xor, .srl, .sra, .or, .and, .mul, .mulh, .mulhsu, .mulhu, .div, .divu, .rem, .remu,
   .addw, .subw, .sllw, .srlw, .sraw, .mulw, .divw, .divuw, .remw, .remuw]
  ++ [.adduw, .sh1add, .sh2add, .sh3add, .sh1adduw, .sh2adduw, .sh3adduw, .andn, .orn, .xnor, .max, .maxu, .min,
   .minu, .rol, .ror, .rolw, .rorw, .czeroEqz, .czeroNez]

/-- Reads a register operation. -/
def AluOp.ofCode (c : BitVec 7 × BitVec 7 × BitVec 3) : Option AluOp := AluOp.all.find? fun t => t.code == c

/-- Opcode, bits [31:20] and funct3 of a one-operand operation. -/
def UnOp.code : UnOp → BitVec 7 × BitVec 12 × BitVec 3
  | .clz => (0x13, 0x600, 1) | .ctz => (0x13, 0x601, 1) | .cpop => (0x13, 0x602, 1)
  | .clzw => (0x1B, 0x600, 1) | .ctzw => (0x1B, 0x601, 1) | .cpopw => (0x1B, 0x602, 1)
  | .sextb => (0x13, 0x604, 1) | .sexth => (0x13, 0x605, 1) | .zexth => (0x3B, 0x080, 4)
  | .rev8 => (0x13, 0x6B8, 5) | .orcb => (0x13, 0x287, 5)

/-- Reads a one-operand operation. -/
def UnOp.ofCode (c : BitVec 7 × BitVec 12 × BitVec 3) : Option UnOp :=
  [UnOp.clz, .ctz, .cpop, .clzw, .ctzw, .cpopw, .sextb, .sexth, .zexth, .rev8, .orcb].find? fun t => t.code == c

/-- The fmt field of F and D. -/
def Prec.code : Prec → BitVec 2
  | .s => 0 | .d => 1

/-- Reads the fmt field. -/
def Prec.ofCode (b : BitVec 2) : Option Prec := [Prec.s, .d].find? fun t => t.code == b

/-- funct5 of the arithmetic of F and D. -/
def FpOp.code : FpOp → BitVec 5
  | .add => 0 | .sub => 1 | .mul => 2 | .div => 3

/-- Reads the funct5 of the arithmetic of F and D. -/
def FpOp.ofCode (b : BitVec 5) : Option FpOp := [FpOp.add, .sub, .mul, .div].find? fun t => t.code == b

/-- Opcode of a fused operation. -/
def FmaOp.code : FmaOp → BitVec 7
  | .fmadd => 0x43 | .fmsub => 0x47 | .fnmsub => 0x4B | .fnmadd => 0x4F

/-- Reads a fused operation's opcode. -/
def FmaOp.ofCode (b : BitVec 7) : Option FmaOp :=
  [FmaOp.fmadd, .fmsub, .fnmsub, .fnmadd].find? fun t => t.code == b

/-- funct3 of a sign injection. -/
def SgnOp.code : SgnOp → BitVec 3
  | .sgnj => 0 | .sgnjn => 1 | .sgnjx => 2

/-- Reads a sign injection's funct3. -/
def SgnOp.ofCode (b : BitVec 3) : Option SgnOp := [SgnOp.sgnj, .sgnjn, .sgnjx].find? fun t => t.code == b

/-- funct3 of a floating comparison. -/
def FpCmp.code : FpCmp → BitVec 3
  | .le => 0 | .lt => 1 | .eq => 2

/-- Reads a floating comparison's funct3. -/
def FpCmp.ofCode (b : BitVec 3) : Option FpCmp := [FpCmp.le, .lt, .eq].find? fun t => t.code == b

/-- rs2 field of a conversion with an integer. -/
def CvtInt.code : CvtInt → BitVec 5
  | .w => 0 | .wu => 1 | .l => 2 | .lu => 3

/-- Reads the rs2 field of a conversion with an integer. -/
def CvtInt.ofCode (b : BitVec 5) : Option CvtInt := [CvtInt.w, .wu, .l, .lu].find? fun t => t.code == b

/-- funct3 of a CSR instruction. -/
def CsrArgs.f3 (a : CsrArgs) : BitVec 3 :=
  match a.op, a.src with
  | .rw, .reg _ => 1 | .rs, .reg _ => 2 | .rc, .reg _ => 3
  | .rw, .imm _ => 5 | .rs, .imm _ => 6 | .rc, .imm _ => 7

/-- The rs1 field of a CSR instruction. -/
def CsrArgs.srcBits (a : CsrArgs) : BitVec 5 :=
  match a.src with
  | .reg r => r
  | .imm u => u

/-- Reads the fields of a CSR instruction. -/
def CsrArgs.ofFields (f3 : BitVec 3) (src rd : BitVec 5) : Option CsrArgs :=
  if f3 = 1 then some ⟨.rw, rd, .reg src⟩ else if f3 = 2 then some ⟨.rs, rd, .reg src⟩
  else if f3 = 3 then some ⟨.rc, rd, .reg src⟩ else if f3 = 5 then some ⟨.rw, rd, .imm src⟩
  else if f3 = 6 then some ⟨.rs, rd, .imm src⟩ else if f3 = 7 then some ⟨.rc, rd, .imm src⟩ else none

/-! ### custom-0 (R285 to R288) -/

/-- Answers an instruction when a must-be-zero condition holds (R286). -/
def needZero (z : Bool) (i : Instr) : Except Reject Instr := if z then .ok i else .error .mustBeZero

/-- The C field of R286: [24:23] zero, [22:20] the channel. -/
def chanOf (w : W32) (k : BitVec 3 → Except Reject Instr) : Except Reject Instr :=
  if w.extractLsb' 23 2 = 0 then k (w.extractLsb' 20 3) else .error .mustBeZero

/-- The Q field of R286: [24:22] zero, [21:20] the queue. -/
def queueOf (w : W32) (k : Queue → Except Reject Instr) : Except Reject Instr :=
  match Queue.ofCode (w.extractLsb' 20 2) with
  | none => .error .queueCode
  | some q => if w.extractLsb' 22 3 = 0 then k q else .error .mustBeZero

/-- The QL field of R286: a queue in [21:20] and a loop register in [24:22]. -/
def queueLoopOf (w : W32) (k : Queue → BitVec 3 → Except Reject Instr) : Except Reject Instr :=
  match Queue.ofCode (w.extractLsb' 20 2) with
  | none => .error .queueCode
  | some q => k q (w.extractLsb' 22 3)

/-- A scope field at bit `n` (R286). -/
def scopeOf (w : W32) (n : Nat) (k : Scope → Except Reject Instr) : Except Reject Instr :=
  match Scope.ofCode (w.extractLsb' n 3) with
  | none => .error .scopeCode
  | some s => k s

/-- funct3 = 000: contexts (R286, R306). -/
def decodeContexts (w : W32) : Except Reject Instr :=
  let d := rdOf w; let a := rs1Of w; let b := rs2Of w
  match f7Of w with
  | 0 => .ok (.hstart b a d)
  | 1 => needZero (b == 0) (.hjoin a d)
  | 2 => needZero (b == 0 && a == 0 && d == 0) .hexit
  | 3 => needZero (b == 0 && a == 0) (.hlive d)
  | 4 => needZero (b == 0 && a == 0 && d == 0) .yield
  | 5 => needZero (b == 0 && a == 0 && d == 0) .stgend
  | 6 => needZero (b == 0 && a == 0 && d == 0) .stgbind
  | 7 => needZero (b == 0 && a == 0 && d == 0) .shswap
  | _ => .error .unassigned

/-- funct3 = 001: barriers and monitor waits (R286, R311). -/
def decodeSync (w : W32) : Except Reject Instr :=
  let d := rdOf w; let a := rs1Of w; let b := rs2Of w
  match f7Of w with
  | 0 => chanOf w fun c => needZero (d == 0) (.barr c a)
  | 1 => chanOf w fun c => needZero (a == 0) (.bwait c d)
  | 2 => chanOf w fun c => .ok (.barw c a d)
  | 3 => chanOf w fun c => needZero (a == 0) (.btest c d)
  | 4 => .ok (.mwaitge b a d)
  | 5 => .ok (.mwaiteq b a d)
  | 6 => .ok (.mwaitne b a d)
  | 7 => chanOf w fun c => needZero (a == 0 && d == 0) (.phcomm c)
  | 8 => chanOf w fun c => needZero (a == 0 && d == 0) (.phcomp c)
  | _ => .error .unassigned

/-- funct3 = 010: ordering and cache operations (R286, R315). -/
def decodeOrder (w : W32) : Except Reject Instr :=
  let d := rdOf w; let a := rs1Of w; let b := rs2Of w
  match f7Of w with
  | 0 => scopeOf w 7 fun s =>
      needZero (w.extractLsb' 10 2 == 0 && w.extractLsb' 17 3 == 0 && w.extractLsb' 22 3 == 0)
        (.fences (w.extractLsb' 15 2) (w.extractLsb' 20 2) s)
  | 1 => scopeOf w 20 fun s => .ok (.ldacq (Size.ofCode (w.extractLsb' 23 2)) s a d)
  | 2 => scopeOf w 7 fun s => .ok (.strel (Size.ofCode (w.extractLsb' 10 2)) s b a)
  | 3 => needZero (b == 0 && a == 0 && d == 0) .drains
  | 4 => scopeOf w 7 fun s => needZero (b == 0 && w.extractLsb' 10 2 == 0) (.cflush s a)
  | 5 => scopeOf w 7 fun s => needZero (b == 0 && w.extractLsb' 10 2 == 0) (.cinv s a)
  | 6 => needZero (b == 0 && w.extractLsb' 9 3 == 0) (.cpref (Hint.ofCode (w.extractLsb' 7 2)) a)
  | 7 => .ok (.rlq b a d)
  | _ => .error .unassigned

/-- funct3 = 011: queues and loop registers (R286, R322). -/
def decodeQueues (w : W32) : Except Reject Instr :=
  let d := rdOf w; let a := rs1Of w
  match f7Of w with
  | 0 => queueOf w fun q => .ok (.cmdq q a d)
  | 1 => queueOf w fun q => .ok (.cmdqw q a d)
  | 2 => queueOf w fun q => .ok (.cmdcan q a d)
  | 3 => queueOf w fun q => needZero (a == 0) (.cmdst q d)
  | 4 => queueLoopOf w fun q l => needZero (d == 0) (.loopset q l a)
  | 5 => queueLoopOf w fun q l => needZero (a == 0) (.loopget q l d)
  | _ => .error .unassigned

/-- funct3 = 100: offers, multicast and the timed fabric (R286, R327). -/
def decodeOffers (w : W32) : Except Reject Instr :=
  let d := rdOf w; let a := rs1Of w; let b := rs2Of w
  match f7Of w with
  | 0 => .ok (.osend b a d)
  | 1 => .ok (.osendO b a d)
  | 2 => .ok (.osendR b a d)
  | 3 => .ok (.osendOr b a d)
  | 4 => .ok (.oready b a d)
  | 5 => .ok (.ounready b a d)
  | 6 => .ok (.otake b a d)
  | 7 => .ok (.otakeA b a d)
  | 8 => .ok (.opoll b a d)
  | 9 => needZero (b == 0 && d == 0) (.ofence a)
  | 10 => needZero (a == 0) (.msend b d)
  | 11 => needZero (d == 0) (.wtx b a)
  | 12 => needZero (b == 0 && d == 0) (.wsel a)
  | 13 => needZero (d == 0) (.wrx b a)
  | _ => .error .unassigned

/-- funct3 = 101: AMOX (R287). -/
def decodeAmox (w : W32) : Except Reject Instr :=
  scopeOf w 25 fun s =>
    match AmoxOp.ofCode (w.extractLsb' 28 4) with
    | none => .error .selector
    | some op => .ok (.amox op s (rs2Of w) (rs1Of w) (rdOf w))

/-- funct3 = 110: IDGET (R288). -/
def decodeIdget (w : W32) : Except Reject Instr :=
  if (immIOf w).ult 14 then needZero (rs1Of w == 0) (.idget (immIOf w) (rdOf w)) else .error .selector

/-- funct3 = 111: trap instructions (R286, R336). -/
def decodeTraps (w : W32) : Except Reject Instr :=
  let d := rdOf w; let a := rs1Of w; let b := rs2Of w
  match f7Of w with
  | 0 => needZero (b == 0 && a == 0 && d == 0) .hret
  | 1 => needZero (a == 0) (.fltpop b d)
  | 2 => needZero (b == 0 && a == 0) (.fltcnt d)
  | 3 => chanOf w fun c => needZero (a == 0 && d == 0) (.gstop c)
  | _ => .error .unassigned

/-- custom-0 (R285). -/
def decodeCustom0 (w : W32) : Except Reject Instr :=
  match f3Of w with
  | 0 => decodeContexts w
  | 1 => decodeSync w
  | 2 => decodeOrder w
  | 3 => decodeQueues w
  | 4 => decodeOffers w
  | 5 => decodeAmox w
  | 6 => decodeIdget w
  | _ => decodeTraps w

/-! ### custom-1 (R289, R290) -/

/-- custom-1. -/
def decodeCustom1 (w : W32) : Except Reject Instr :=
  let e := Size.ofCode (w.extractLsb' 25 2)
  let b := rs2Of w; let a := rs1Of w; let d := rdOf w
  let h := Hint.ofCode (w.extractLsb' 13 2)
  let h0 := w.extractLsb' 13 2 == 0
  let z := w.getLsbD 12
  match w.extractLsb' 27 5 with
  | 0 => needZero (b == 0) (.vld e a h z d)
  | 1 => needZero (b == 0) (.vst e a h z d)
  | 2 => .ok (.vlds e b a h z d)
  | 3 => .ok (.vsts e b a h z d)
  | 4 => needZero h0 (.vldx e b a z d)
  | 5 => needZero h0 (.vstx e b a z d)
  | 6 => needZero (b == 0 && h0) (.vldl e a z d)
  | 7 => needZero (b == 0 && h0) (.vstl e a z d)
  | 8 => needZero (b == 0 && !z) (.vldb e a h d)
  | 9 => needZero (w.extractLsb' 22 3 == 0 && !z) (.vstm e (w.extractLsb' 20 2) a h d)
  | 10 =>
    match VamoOp.ofCode (f3Of w) with
    | none => .error .selector
    | some op => if vamoOk e op then .ok (.vamo e op b a d) else .error .selector
  | 11 => needZero (b == 0 && !z && d == 0) (.vpref e a h)
  | _ => .error .unassigned

/-! ### custom-2 (R291 to R294) -/

/-- Bits [18:14]. -/
def vs1Of (w : W32) : BitVec 5 := w.extractLsb' 14 5
/-- Bits [23:19]. -/
def vs2Of (w : W32) : BitVec 5 := w.extractLsb' 19 5
/-- Bits [13:12]. -/
def pgOf (w : W32) : BitVec 2 := w.extractLsb' 12 2
/-- Bits [8:7], the Pd field. -/
def pdOf (w : W32) : BitVec 2 := w.extractLsb' 7 2
/-- Bits [11:9], the condition or operation of a predicate result. -/
def kdOf (w : W32) : BitVec 3 := w.extractLsb' 9 3
/-- Bits [21:19], the operation or source code in the vs2 field. -/
def ksOf (w : W32) : BitVec 3 := w.extractLsb' 19 3
/-- The destination code of a conversion: [23] followed by the type bits (R294). -/
def kcOf (w : W32) : BitVec 3 := w.extractLsb' 23 1 ++ w.extractLsb' 24 2

/-- A class F form: type 11 is illegal (R291). -/
def withFTy (w : W32) (k : FTy → Except Reject Instr) : Except Reject Instr :=
  match FTy.ofCode (w.extractLsb' 24 2) with
  | none => .error .typeCode
  | some t => k t

/-- A selector that must be listed (R293, R294). -/
def withCode {α : Type} (r : Reject) (o : Option α) (k : α → Except Reject Instr) : Except Reject Instr :=
  match o with
  | none => .error r
  | some x => k x

/-- funct6 0 to 21: integer arithmetic (R292). -/
def decodeVInt (w : W32) : Except Reject Instr :=
  let t := VTy.ofCode (w.extractLsb' 24 2)
  let b := vs2Of w; let a := vs1Of w; let p := pgOf w; let d := rdOf w
  match w.extractLsb' 26 6 with
  | 0 => .ok (.vadd t b a p d) | 1 => .ok (.vsub t b a p d) | 2 => .ok (.vmul t b a p d)
  | 3 => .ok (.vmulh t b a p d) | 4 => .ok (.vmulhn t b a p d) | 5 => .ok (.vmac t b a p d)
  | 6 => .ok (.vadds t b a p d) | 7 => .ok (.vaddsn t b a p d) | 8 => .ok (.vsubs t b a p d)
  | 9 => .ok (.vsubsn t b a p d) | 10 => .ok (.vmin t b a p d) | 11 => .ok (.vminn t b a p d)
  | 12 => .ok (.vmax t b a p d) | 13 => .ok (.vmaxn t b a p d) | 14 => .ok (.vand t b a p d)
  | 15 => .ok (.vor t b a p d) | 16 => .ok (.vxor t b a p d) | 17 => .ok (.vsll t b a p d)
  | 18 => .ok (.vsrl t b a p d) | 19 => .ok (.vsra t b a p d)
  | 20 => withCode .selector (Cond.ofCode (kdOf w)) fun k => .ok (.vcmp t k b a p (pdOf w))
  | 21 => .ok (.vsel t b a p d)
  | _ => .error .unassigned

/-- funct6 22 to 41: floating arithmetic, conversions, reductions and scans (R292). -/
def decodeVFloat (w : W32) : Except Reject Instr :=
  let ty := VTy.ofCode (w.extractLsb' 24 2)
  let b := vs2Of w; let a := vs1Of w; let p := pgOf w; let d := rdOf w
  let sat := w.getLsbD 22
  match w.extractLsb' 26 6 with
  | 22 => withFTy w fun t => .ok (.vfadd t b a p d)
  | 23 => withFTy w fun t => .ok (.vfsub t b a p d)
  | 24 => withFTy w fun t => .ok (.vfmul t b a p d)
  | 25 => withFTy w fun t => .ok (.vfma t b a p d)
  | 26 => withFTy w fun t => .ok (.vfms t b a p d)
  | 27 => withFTy w fun t => .ok (.vfnma t b a p d)
  | 28 => withFTy w fun t => .ok (.vfdiv t b a p d)
  | 29 => withFTy w fun t => needZero (b == 0) (.vfsqrt t a p d)
  | 30 => withFTy w fun t => .ok (.vfmin t b a p d)
  | 31 => withFTy w fun t => .ok (.vfmax t b a p d)
  | 32 => withFTy w fun t => withCode .selector (FCond.ofCode (kdOf w)) fun k => .ok (.vfcmp t k b a p (pdOf w))
  | 33 => withFTy w fun t => .ok (.vfsgn t b a p d)
  | 34 => withFTy w fun t => needZero (b == 0) (.vfclass t a p d)
  | 35 => withCode .conversion (FFmt.ofCode (kcOf w)) fun x =>
      withCode .conversion (IFmt.ofCode (ksOf w)) fun y => .ok (.vcvtf x y sat a p d)
  | 36 => withCode .conversion (IFmt.ofCode (kcOf w)) fun x =>
      withCode .conversion (FFmt.ofCode (ksOf w)) fun y => .ok (.vcvti x y sat a p d)
  | 37 => withCode .conversion (FFmt.ofCode (kcOf w)) fun x =>
      withCode .conversion (FFmt.ofCode (ksOf w)) fun y =>
        if x = y then .error .conversion else .ok (.vcvtx x y sat a p d)
  | 38 => withCode .selector (RedOp.ofCode (ksOf w)) fun k => needZero (w.extractLsb' 22 2 == 0) (.vred ty k a p d)
  | 39 => withFTy w fun t => withCode .selector (FRedOp.ofCode (ksOf w)) fun k =>
      needZero (w.extractLsb' 22 2 == 0) (.vfred t k a p d)
  | 40 => withCode .selector (RedOp.ofCode (ksOf w)) fun k => needZero (w.extractLsb' 22 2 == 0) (.vscan ty k a p d)
  | 41 => withFTy w fun t => withCode .selector (FRedOp.ofCode (ksOf w)) fun k =>
      needZero (w.extractLsb' 22 2 == 0) (.vfscan t k a p d)
  | _ => .error .unassigned

/-- funct6 42 to 58: moves and predicates (R292). -/
def decodeVMove (w : W32) : Except Reject Instr :=
  let t := VTy.ofCode (w.extractLsb' 24 2)
  let b := vs2Of w; let a := vs1Of w; let p := pgOf w; let d := rdOf w
  let pa : BitVec 2 := w.extractLsb' 14 2; let a0 := w.extractLsb' 16 3 == 0
  let pb : BitVec 2 := w.extractLsb' 19 2; let b0 := w.extractLsb' 21 3 == 0
  match w.extractLsb' 26 6 with
  | 42 => .ok (.vperm t b a p d) | 43 => .ok (.vslideup t b a p d) | 44 => .ok (.vslidedn t b a p d)
  | 45 => .ok (.vrotl t b a p d) | 46 => .ok (.vzip t b a p d) | 47 => .ok (.vunzip t b a p d)
  | 48 => needZero (b == 0) (.vbcast t a p d)
  | 49 => .ok (.vext t b a p d) | 50 => .ok (.vins t b a p d)
  | 51 => withFTy w fun t => .ok (.vcmul t b a p d)
  | 52 => withCode .selector (POp.ofCode (kdOf w)) fun k => needZero (a0 && b0) (.plogic t k pb pa p (pdOf w))
  | 53 => needZero (b == 0 && a0) (.ppopc t pa p d)
  | 54 => needZero (b == 0 && a0) (.pfirst t pa p d)
  | 55 => needZero (b == 0 && kdOf w == 0) (.psetn t a p (pdOf w))
  | 56 => needZero (b == 0 && a == 0) (.vid t p d)
  | 57 => needZero (b == 0) (.vpopc t a p d)
  | 58 => needZero (b == 0) (.vclz t a p d)
  | _ => .error .unassigned

/-- custom-2. -/
def decodeCustom2 (w : W32) : Except Reject Instr :=
  let f6 := (w.extractLsb' 26 6).toNat
  if f6 ≤ 21 then decodeVInt w else if f6 ≤ 41 then decodeVFloat w else decodeVMove w

/-! ### custom-3 (R295) -/

/-- custom-3. -/
def decodeCustom3 (w : W32) : Except Reject Instr :=
  withCode .pairCode (Pair.ofCode (f3Of w)) fun p =>
    let s := w.extractLsb' 27 5; let b := rs2Of w; let a := rs1Of w; let d := rdOf w
    match w.extractLsb' 25 2 with
    | 0 => .ok (.vdotp s b a p d)
    | 1 => .ok (.vmulp s b a p d)
    | 2 => needZero (b == 0) (.vqnt s a p d)
    | _ => needZero (b == 0) (.vdqnt s a p d)

/-! ### The standard profile (R279, RISC-V) -/

/-- A standard instruction, or the reason there is none. -/
def rvOf (o : Option Rv) : Except Reject Instr :=
  match o with
  | some i => .ok (.rv64Instruction i)
  | none => .error .standard

/-- A standard instruction whose rounding mode must not be reserved. -/
def rvRm (rm : BitVec 3) (i : Rv) : Except Reject Instr :=
  if rmOk rm then .ok (.rv64Instruction i) else .error .standard

/-- SYSTEM: ECALL, EBREAK, MRET, WFI and the CSR instructions, by the CSR they write (R337). -/
def decodeSystem (w : W32) : Except Reject Instr :=
  if f3Of w = 0 then
    if w = 0x00000073 then .ok .ecall
    else if w = 0x00100073 then .ok .ebreak
    else if w = 0x30200073 then .ok (.rv64Instruction .mret)
    else if w = 0x10500073 then .ok (.rv64Instruction .wfi)
    else .error .standard
  else
    match CsrArgs.ofFields (f3Of w) (rs1Of w) (rdOf w) with
    | none => .error .standard
    | some a =>
      let n := immIOf w
      if !a.writes then .ok (.rv64Instruction (.csr a n))
      else if n = 0x810 then .ok (.dtvecWrite a)
      else if n = 0x809 then .ok (.dcksumWrite a)
      else if n = 0x80A then .ok (.dinjectWrite a)
      else if n = 0x7C0 then .ok (.dbankYevClear a)
      else if n = 0x808 then .ok (.dmembWrite a)
      else if n = 0x800 then .ok (.dpoolbWrite a 0)
      else if n = 0x801 then .ok (.dpoolbWrite a 1)
      else if n = 0x802 then .ok (.dpoolbWrite a 2)
      else if n = 0x805 then .ok (.schedCsrWrite a 0)
      else if n = 0x806 then .ok (.schedCsrWrite a 1)
      else if n = 0x807 then .ok (.schedCsrWrite a 2)
      else if csrOther n then .ok (.csrWrite a n)
      else .ok (.rv64Instruction (.csr a n))

/-- MISC-MEM: FENCE, FENCE.TSO and FENCE.I (R211). A FENCE with an empty set and one of rd and rs1 not 0 is a HINT; every other fm, and
every other nonzero rd, rs1 or FENCE.I immediate, is reserved by the RISC-V unprivileged specification and so illegal (R284, log 11). -/
def decodeMiscMem (w : W32) : Except Reject Instr :=
  let fm := w.extractLsb' 28 4; let p := w.extractLsb' 24 4; let q := w.extractLsb' 20 4
  let i := match f3Of w with
    | 0 => if fm = 8 ∧ p = 3 ∧ q = 3 then some (Instr.fenceTso (rs1Of w) (rdOf w)) else some (.fence fm p q (rs1Of w) (rdOf w))
    | 1 => some (.fenceI (immIOf w) (rs1Of w) (rdOf w))
    | _ => none
  match i with
  | some i => if i.wf then .ok i else .error .standard
  | none => .error .standard

/-- AMO: LR, SC and the AMOs (R280, R281). -/
def decodeAmo (w : W32) : Except Reject Instr :=
  let aq := w.getLsbD 26; let rl := w.getLsbD 25
  let b := rs2Of w; let a := rs1Of w; let d := rdOf w
  if f3Of w = 2 ∨ f3Of w = 3 then
    let dbl := f3Of w == 3
    if w.extractLsb' 27 5 = 2 then (if b = 0 then .ok (.lr dbl aq rl d a) else .error .standard)
    else if w.extractLsb' 27 5 = 3 then .ok (.sc dbl aq rl d a b)
    else match AmoOp.ofCode (w.extractLsb' 27 5) with
      | some op => .ok (.amo op dbl aq rl d a b)
      | none => .error .standard
  else .error .standard

/-- OP-IMM and OP-IMM-32. -/
def decodeOpImm (w : W32) : Except Reject Instr :=
  let a := rs1Of w; let d := rdOf w; let f3 := f3Of w; let imm := immIOf w
  match UnOp.ofCode (opcOf w, imm, f3) with
  | some u => .ok (.rv64Instruction (.unary u d a))
  | none =>
    if opcOf w = 0x13 then
      match ImmOp.ofCode f3 with
      | some op => .ok (.rv64Instruction (.opImm op d a imm))
      | none => rvOf ((ShOp.ofCode (w.extractLsb' 26 6, f3)).map fun op => .shift op d a (w.extractLsb' 20 6))
    else if f3 = 0 then .ok (.rv64Instruction (.addiw d a imm))
    else if w.extractLsb' 26 6 = 2 ∧ f3 = 1 then .ok (.rv64Instruction (.slliUw d a (w.extractLsb' 20 6)))
    else rvOf ((ShOpW.ofCode (f7Of w, f3)).map fun op => .shiftW op d a (rs2Of w))

/-- OP and OP-32. -/
def decodeOp (w : W32) : Except Reject Instr :=
  match UnOp.ofCode (opcOf w, immIOf w, f3Of w) with
  | some u => .ok (.rv64Instruction (.unary u (rdOf w) (rs1Of w)))
  | none =>
    rvOf ((AluOp.ofCode (opcOf w, f7Of w, f3Of w)).map fun op => .alu op (rdOf w) (rs1Of w) (rs2Of w))

/-- OP-FP. -/
def decodeOpFp (w : W32) : Except Reject Instr :=
  let a := rs1Of w; let b := rs2Of w; let d := rdOf w; let rm := f3Of w
  match Prec.ofCode (w.extractLsb' 25 2) with
  | none => .error .standard
  | some p =>
    match w.extractLsb' 27 5 with
    | 0x00 => rvRm rm (.fp .add p d a b rm)
    | 0x01 => rvRm rm (.fp .sub p d a b rm)
    | 0x02 => rvRm rm (.fp .mul p d a b rm)
    | 0x03 => rvRm rm (.fp .div p d a b rm)
    | 0x0B => if b = 0 then rvRm rm (.fsqrt p d a rm) else .error .standard
    | 0x04 => rvOf ((SgnOp.ofCode rm).map fun op => .fsgn op p d a b)
    | 0x05 => if rm = 0 then rvOf (some (.fminmax false p d a b))
              else if rm = 1 then rvOf (some (.fminmax true p d a b)) else .error .standard
    | 0x08 => match p with
              | .s => if b = 1 then rvRm rm (.fcvtSD d a rm) else .error .standard
              | .d => if b = 0 then rvRm rm (.fcvtDS d a rm) else .error .standard
    | 0x14 => rvOf ((FpCmp.ofCode rm).map fun op => .fcmp op p d a b)
    | 0x18 => match CvtInt.ofCode b with
              | some t => rvRm rm (.fcvtToInt t p d a rm)
              | none => .error .standard
    | 0x1A => match CvtInt.ofCode b with
              | some t => rvRm rm (.fcvtFromInt t p d a rm)
              | none => .error .standard
    | 0x1C => if b = 0 ∧ rm = 0 then rvOf (some (.fmvToInt p d a))
              else if b = 0 ∧ rm = 1 then rvOf (some (.fclass p d a)) else .error .standard
    | 0x1E => if b = 0 ∧ rm = 0 then rvOf (some (.fmvFromInt p d a)) else .error .standard
    | _ => .error .standard

/-- The opcodes of the standard profile (R279, R284). -/
def decodeStandard (w : W32) : Except Reject Instr :=
  let a := rs1Of w; let b := rs2Of w; let d := rdOf w
  match opcOf w with
  | 0x37 => .ok (.rv64Instruction (.lui d (w.extractLsb' 12 20)))
  | 0x17 => .ok (.rv64Instruction (.auipc d (w.extractLsb' 12 20)))
  | 0x6F => .ok (.rv64Instruction (.jal d
      (w.extractLsb' 31 1 ++ w.extractLsb' 12 8 ++ w.extractLsb' 20 1 ++ w.extractLsb' 21 10)))
  | 0x67 => if f3Of w = 0 then .ok (.rv64Instruction (.jalr d a (immIOf w))) else .error .standard
  | 0x63 => rvOf ((BrOp.ofCode (f3Of w)).map fun op => .branch op a b
      (w.extractLsb' 31 1 ++ w.extractLsb' 7 1 ++ w.extractLsb' 25 6 ++ w.extractLsb' 8 4))
  | 0x03 | 0x07 =>
    match LoadKind.ofCode (opcOf w, f3Of w) with
    | some k => .ok (.load k d a (immIOf w))
    | none => .error .standard
  | 0x23 | 0x27 =>
    match StoreKind.ofCode (opcOf w, f3Of w) with
    | some k => .ok (.store k b a (f7Of w ++ rdOf w))
    | none => .error .standard
  | 0x13 | 0x1B => decodeOpImm w
  | 0x33 | 0x3B => decodeOp w
  | 0x53 => decodeOpFp w
  | 0x43 | 0x47 | 0x4B | 0x4F =>
    match FmaOp.ofCode (opcOf w), Prec.ofCode (w.extractLsb' 25 2) with
    | some op, some p => rvRm (f3Of w) (.fma op p d a b (w.extractLsb' 27 5) (f3Of w))
    | _, _ => .error .standard
  | 0x0F => decodeMiscMem w
  | 0x2F => decodeAmo w
  | 0x73 => decodeSystem w
  | _ => .error .major

/-! ### The decoder -/

/-- The instruction a 32-bit word stands for (R284). -/
def decodeWord (w : W32) : Except Reject Instr :=
  match opcOf w with
  | 0x0B => decodeCustom0 w
  | 0x2B => decodeCustom1 w
  | 0x5B => decodeCustom2 w
  | 0x7B => decodeCustom3 w
  | _ => decodeStandard w

/-- Four bytes, the first at the lowest address, as a little-endian word. -/
def wordLE (b0 b1 b2 b3 : Byte) : W32 := b3 ++ b2 ++ b1 ++ b0

/-- The bytes of a word as memory holds them: little-endian (chapter 13). -/
def bytesLE (w : W32) : List Byte :=
  [w.extractLsb' 0 8, w.extractLsb' 8 8, w.extractLsb' 16 8, w.extractLsb' 24 8]

/-- The instruction at the head of a list of bytes, and the bytes after it. -/
def decode : List Byte → Except Reject (Instr × List Byte)
  | b0 :: b1 :: b2 :: b3 :: rest => (decodeWord (wordLE b0 b1 b2 b3)).map fun i => (i, rest)
  | _ => .error .short

/-- The instruction whose bits are `w` as the opcode table numbers them; bits above `nbits` are zero. -/
def decodeTableWord (nbits w : Nat) : Option Instr :=
  match decode (bytesLE (BitVec.ofNat 32 (w % 2 ^ nbits))) with
  | .ok (i, _) => some i
  | .error _ => none

/-! ### The encoder -/

/-- The C field of R286. -/
def encC (c : BitVec 3) : BitVec 5 := 0#2 ++ c
/-- The Q field of R286. -/
def encQ (q : Queue) : BitVec 5 := 0#3 ++ q.code
/-- The Z bit of R289. -/
def encZ (z : Bool) : BitVec 1 := BitVec.ofBool z

/-- A word of custom-1 (R289). -/
def encM (f5 : BitVec 5) (e : Size) (rs2 rs1 : BitVec 5) (h : Hint) (z : Bool) (vd : BitVec 5) : W32 :=
  f5 ++ e.code ++ rs2 ++ rs1 ++ h.code ++ encZ z ++ vd ++ 0x2B#7

/-- A three-register word of custom-2 with an integer type. -/
def encVI (f6 : BitVec 6) (t : VTy) (vs2 vs1 : BitVec 5) (pg : BitVec 2) (vd : BitVec 5) : W32 :=
  wordV f6 t.code vs2 vs1 pg vd

/-- A three-register word of custom-2 with a floating type. -/
def encVF (f6 : BitVec 6) (t : FTy) (vs2 vs1 : BitVec 5) (pg : BitVec 2) (vd : BitVec 5) : W32 :=
  wordV f6 t.code vs2 vs1 pg vd

/-- A conversion (R294). -/
def encCvt (f6 : BitVec 6) (dst src : BitVec 3) (sat : Bool) (vs1 : BitVec 5) (pg : BitVec 2) (vd : BitVec 5) : W32 :=
  wordV f6 (dst.extractLsb' 0 2) (dst.extractLsb' 2 1 ++ BitVec.ofBool sat ++ src) vs1 pg vd

/-- A word of custom-3 (R295). -/
def encP (fs3 : BitVec 5) (op : BitVec 2) (vs2 vs1 : BitVec 5) (p : Pair) (vd : BitVec 5) : W32 :=
  fs3 ++ op ++ vs2 ++ vs1 ++ p.code ++ vd ++ 0x7B#7

/-- A CSR instruction. -/
def encCsr (a : CsrArgs) (n : BitVec 12) : W32 := wordI n a.srcBits a.f3 a.rd 0x73

/-- An AMO, LR or SC. -/
def encA (f5 : BitVec 5) (dbl aq rl : Bool) (rd rs1 rs2 : BitVec 5) : W32 :=
  f5 ++ BitVec.ofBool aq ++ BitVec.ofBool rl ++ rs2 ++ rs1 ++ (if dbl then 3#3 else 2#3) ++ rd ++ 0x2F#7

/-- A word of OP-FP. -/
def encF (f5 : BitVec 5) (p : Prec) (rs2 rs1 : BitVec 5) (rm : BitVec 3) (rd : BitVec 5) : W32 :=
  f5 ++ p.code ++ rs2 ++ rs1 ++ rm ++ rd ++ 0x53#7

/-- The words of the standard profile. -/
def encodeRv : Rv → W32
  | .lui rd imm => imm ++ rd ++ 0x37#7
  | .auipc rd imm => imm ++ rd ++ 0x17#7
  | .jal rd off => off.extractLsb' 19 1 ++ off.extractLsb' 0 10 ++ off.extractLsb' 10 1 ++ off.extractLsb' 11 8 ++ rd ++ 0x6F#7
  | .jalr rd rs1 imm => wordI imm rs1 0 rd 0x67
  | .branch op rs1 rs2 off =>
      off.extractLsb' 11 1 ++ off.extractLsb' 4 6 ++ rs2 ++ rs1 ++ op.code ++ off.extractLsb' 0 4 ++ off.extractLsb' 10 1 ++ 0x63#7
  | .opImm op rd rs1 imm => wordI imm rs1 op.code rd 0x13
  | .shift op rd rs1 sh => wordI (op.code.1 ++ sh) rs1 op.code.2 rd 0x13
  | .shiftW op rd rs1 sh => wordI (op.code.1 ++ sh) rs1 op.code.2 rd 0x1B
  | .addiw rd rs1 imm => wordI imm rs1 0 rd 0x1B
  | .slliUw rd rs1 sh => wordI (2#6 ++ sh) rs1 1 rd 0x1B
  | .alu op rd rs1 rs2 => wordR op.code.2.1 rs2 rs1 op.code.2.2 rd op.code.1
  | .unary op rd rs1 => wordI op.code.2.1 rs1 op.code.2.2 rd op.code.1
  | .fp op p rd rs1 rs2 rm => encF op.code p rs2 rs1 rm rd
  | .fsqrt p rd rs1 rm => encF 0x0B p 0 rs1 rm rd
  | .fma op p rd rs1 rs2 rs3 rm => rs3 ++ p.code ++ rs2 ++ rs1 ++ rm ++ rd ++ op.code
  | .fsgn op p rd rs1 rs2 => encF 0x04 p rs2 rs1 op.code rd
  | .fminmax m p rd rs1 rs2 => encF 0x05 p rs2 rs1 (if m then 1 else 0) rd
  | .fcmp op p rd rs1 rs2 => encF 0x14 p rs2 rs1 op.code rd
  | .fclass p rd rs1 => encF 0x1C p 0 rs1 1 rd
  | .fcvtToInt t p rd rs1 rm => encF 0x18 p t.code rs1 rm rd
  | .fcvtFromInt t p rd rs1 rm => encF 0x1A p t.code rs1 rm rd
  | .fcvtSD rd rs1 rm => encF 0x08 .s 1 rs1 rm rd
  | .fcvtDS rd rs1 rm => encF 0x08 .d 0 rs1 rm rd
  | .fmvToInt p rd rs1 => encF 0x1C p 0 rs1 0 rd
  | .fmvFromInt p rd rs1 => encF 0x1E p 0 rs1 0 rd
  | .csr a n => encCsr a n
  | .mret => 0x30200073
  | .wfi => 0x10500073

/-- A word of custom-0 (R285). -/
def enc0 (f3 : BitVec 3) (f7 : BitVec 7) (rs2 rs1 rd : BitVec 5) : W32 := wordR f7 rs2 rs1 f3 rd 0x0B

/-- The word of an instruction; none for an event of the device and for a tile command, which have no such word. -/
def encode : Instr → Option W32
  | .rv64Instruction i => some (encodeRv i)
  | .dtvecWrite a => some (encCsr a 0x810)
  | .dcksumWrite a => some (encCsr a 0x809)
  | .dinjectWrite a => some (encCsr a 0x80A)
  | .dbankYevClear a => some (encCsr a 0x7C0)
  | .dmembWrite a => some (encCsr a 0x808)
  | .dpoolbWrite a n => some (encCsr a (0x200#10 ++ n))
  | .schedCsrWrite a n => some (encCsr a (0x805 + (0#10 ++ n)))
  | .csrWrite a n => some (encCsr a n)
  | .load k rd rs1 imm => some (wordI imm rs1 k.code.2 rd k.code.1)
  | .store k rs2 rs1 imm => some (wordR (imm.extractLsb' 5 7) rs2 rs1 k.code.2 (imm.extractLsb' 0 5) k.code.1)
  | .amo op dbl aq rl rd rs1 rs2 => some (encA op.code dbl aq rl rd rs1 rs2)
  | .lr dbl aq rl rd rs1 => some (encA 2 dbl aq rl rd rs1 0)
  | .sc dbl aq rl rd rs1 rs2 => some (encA 3 dbl aq rl rd rs1 rs2)
  | .fence fm p q rs1 rd => some (wordI (fm ++ p ++ q) rs1 0 rd 0x0F)
  | .fenceTso rs1 rd => some (wordI 0x833 rs1 0 rd 0x0F)
  | .fenceI imm rs1 rd => some (wordI imm rs1 1 rd 0x0F)
  | .ecall => some (0x00000073)
  | .ebreak => some (0x00100073)
  | .hstart b a d => some (enc0 0 0 b a d)
  | .hjoin a d => some (enc0 0 1 0 a d)
  | .hexit => some (enc0 0 2 0 0 0)
  | .hlive d => some (enc0 0 3 0 0 d)
  | .yield => some (enc0 0 4 0 0 0)
  | .stgend => some (enc0 0 5 0 0 0)
  | .stgbind => some (enc0 0 6 0 0 0)
  | .shswap => some (enc0 0 7 0 0 0)
  | .barr c a => some (enc0 1 0 (encC c) a 0)
  | .bwait c d => some (enc0 1 1 (encC c) 0 d)
  | .barw c a d => some (enc0 1 2 (encC c) a d)
  | .btest c d => some (enc0 1 3 (encC c) 0 d)
  | .mwaitge b a d => some (enc0 1 4 b a d)
  | .mwaiteq b a d => some (enc0 1 5 b a d)
  | .mwaitne b a d => some (enc0 1 6 b a d)
  | .phcomm c => some (enc0 1 7 (encC c) 0 0)
  | .phcomp c => some (enc0 1 8 (encC c) 0 0)
  | .fences p q s => some (enc0 2 0 (0#3 ++ q) (0#3 ++ p) (0#2 ++ s.code))
  | .ldacq z s a d => some (enc0 2 1 (z.code ++ s.code) a d)
  | .strel z s b a => some (enc0 2 2 b a (z.code ++ s.code))
  | .drains => some (enc0 2 3 0 0 0)
  | .cflush s a => some (enc0 2 4 0 a (0#2 ++ s.code))
  | .cinv s a => some (enc0 2 5 0 a (0#2 ++ s.code))
  | .cpref h a => some (enc0 2 6 0 a (0#3 ++ h.code))
  | .rlq b a d => some (enc0 2 7 b a d)
  | .cmdq q a d => some (enc0 3 0 (encQ q) a d)
  | .cmdqw q a d => some (enc0 3 1 (encQ q) a d)
  | .cmdcan q a d => some (enc0 3 2 (encQ q) a d)
  | .cmdst q d => some (enc0 3 3 (encQ q) 0 d)
  | .loopset q l a => some (enc0 3 4 (l ++ q.code) a 0)
  | .loopget q l d => some (enc0 3 5 (l ++ q.code) 0 d)
  | .osend b a d => some (enc0 4 0 b a d)
  | .osendO b a d => some (enc0 4 1 b a d)
  | .osendR b a d => some (enc0 4 2 b a d)
  | .osendOr b a d => some (enc0 4 3 b a d)
  | .oready b a d => some (enc0 4 4 b a d)
  | .ounready b a d => some (enc0 4 5 b a d)
  | .otake b a d => some (enc0 4 6 b a d)
  | .otakeA b a d => some (enc0 4 7 b a d)
  | .opoll b a d => some (enc0 4 8 b a d)
  | .ofence a => some (enc0 4 9 0 a 0)
  | .msend b d => some (enc0 4 10 b 0 d)
  | .wtx b a => some (enc0 4 11 b a 0)
  | .wsel a => some (enc0 4 12 0 a 0)
  | .wrx b a => some (enc0 4 13 b a 0)
  | .amox op s b a d => some (enc0 5 (op.code ++ s.code) b a d)
  | .idget sel d => some (wordI sel 0 6 d 0x0B)
  | .hret => some (enc0 7 0 0 0 0)
  | .fltpop b d => some (enc0 7 1 b 0 d)
  | .fltcnt d => some (enc0 7 2 0 0 d)
  | .gstop c => some (enc0 7 3 (encC c) 0 0)
  | .vld e a h z d => some (encM 0 e 0 a h z d)
  | .vst e a h z d => some (encM 1 e 0 a h z d)
  | .vlds e b a h z d => some (encM 2 e b a h z d)
  | .vsts e b a h z d => some (encM 3 e b a h z d)
  | .vldx e b a z d => some (encM 4 e b a .dflt z d)
  | .vstx e b a z d => some (encM 5 e b a .dflt z d)
  | .vldl e a z d => some (encM 6 e 0 a .dflt z d)
  | .vstl e a z d => some (encM 7 e 0 a .dflt z d)
  | .vldb e a h d => some (encM 8 e 0 a h false d)
  | .vstm e p a h d => some (encM 9 e (0#3 ++ p) a h false d)
  | .vamo e op b a d => some (10#5 ++ e.code ++ b ++ a ++ op.code ++ d ++ 0x2B#7)
  | .vpref e a h => some (encM 11 e 0 a h false 0)
  | .vadd t b a p d => some (encVI 0 t b a p d)
  | .vsub t b a p d => some (encVI 1 t b a p d)
  | .vmul t b a p d => some (encVI 2 t b a p d)
  | .vmulh t b a p d => some (encVI 3 t b a p d)
  | .vmulhn t b a p d => some (encVI 4 t b a p d)
  | .vmac t b a p d => some (encVI 5 t b a p d)
  | .vadds t b a p d => some (encVI 6 t b a p d)
  | .vaddsn t b a p d => some (encVI 7 t b a p d)
  | .vsubs t b a p d => some (encVI 8 t b a p d)
  | .vsubsn t b a p d => some (encVI 9 t b a p d)
  | .vmin t b a p d => some (encVI 10 t b a p d)
  | .vminn t b a p d => some (encVI 11 t b a p d)
  | .vmax t b a p d => some (encVI 12 t b a p d)
  | .vmaxn t b a p d => some (encVI 13 t b a p d)
  | .vand t b a p d => some (encVI 14 t b a p d)
  | .vor t b a p d => some (encVI 15 t b a p d)
  | .vxor t b a p d => some (encVI 16 t b a p d)
  | .vsll t b a p d => some (encVI 17 t b a p d)
  | .vsrl t b a p d => some (encVI 18 t b a p d)
  | .vsra t b a p d => some (encVI 19 t b a p d)
  | .vcmp t k b a p pd => some (encVI 20 t b a p (k.code ++ pd))
  | .vsel t b a p d => some (encVI 21 t b a p d)
  | .vfadd t b a p d => some (encVF 22 t b a p d)
  | .vfsub t b a p d => some (encVF 23 t b a p d)
  | .vfmul t b a p d => some (encVF 24 t b a p d)
  | .vfma t b a p d => some (encVF 25 t b a p d)
  | .vfms t b a p d => some (encVF 26 t b a p d)
  | .vfnma t b a p d => some (encVF 27 t b a p d)
  | .vfdiv t b a p d => some (encVF 28 t b a p d)
  | .vfsqrt t a p d => some (encVF 29 t 0 a p d)
  | .vfmin t b a p d => some (encVF 30 t b a p d)
  | .vfmax t b a p d => some (encVF 31 t b a p d)
  | .vfcmp t k b a p pd => some (encVF 32 t b a p (k.code ++ pd))
  | .vfsgn t b a p d => some (encVF 33 t b a p d)
  | .vfclass t a p d => some (encVF 34 t 0 a p d)
  | .vcvtf x y s a p d => some (encCvt 35 x.code y.code s a p d)
  | .vcvti x y s a p d => some (encCvt 36 x.code y.code s a p d)
  | .vcvtx x y s a p d => some (encCvt 37 x.code y.code s a p d)
  | .vred t k a p d => some (encVI 38 t (0#2 ++ k.code) a p d)
  | .vfred t k a p d => some (encVF 39 t (0#2 ++ k.code) a p d)
  | .vscan t k a p d => some (encVI 40 t (0#2 ++ k.code) a p d)
  | .vfscan t k a p d => some (encVF 41 t (0#2 ++ k.code) a p d)
  | .vperm t b a p d => some (encVI 42 t b a p d)
  | .vslideup t b a p d => some (encVI 43 t b a p d)
  | .vslidedn t b a p d => some (encVI 44 t b a p d)
  | .vrotl t b a p d => some (encVI 45 t b a p d)
  | .vzip t b a p d => some (encVI 46 t b a p d)
  | .vunzip t b a p d => some (encVI 47 t b a p d)
  | .vbcast t a p d => some (encVI 48 t 0 a p d)
  | .vext t b a p d => some (encVI 49 t b a p d)
  | .vins t b a p d => some (encVI 50 t b a p d)
  | .vcmul t b a p d => some (encVF 51 t b a p d)
  | .plogic t k b a p pd => some (encVI 52 t (0#3 ++ b) (0#3 ++ a) p (k.code ++ pd))
  | .ppopc t a p d => some (encVI 53 t 0 (0#3 ++ a) p d)
  | .pfirst t a p d => some (encVI 54 t 0 (0#3 ++ a) p d)
  | .psetn t a p pd => some (encVI 55 t 0 a p (0#3 ++ pd))
  | .vid t p d => some (encVI 56 t 0 0 p d)
  | .vpopc t a p d => some (encVI 57 t 0 a p d)
  | .vclz t a p d => some (encVI 58 t 0 a p d)
  | .vdotp s b a p d => some (encP s 0 b a p d)
  | .vmulp s b a p d => some (encP s 1 b a p d)
  | .vqnt s a p d => some (encP s 2 0 a p d)
  | .vdqnt s a p d => some (encP s 3 0 a p d)
  | .deviceReset _ _ _ | .hostLinksTrained _ _ | .dramTrainingDone _ _ | .enterS3 | .thermalSample _ _ _ 
  | .channelRetirement _ | .eccFatalError _ | .rtailDoorbell _ _ _ | .rerrClear _ _ _ | .hostRegisterWrite _ _ _ 
  | .windowWrite _ _ _ | .windowRead _ _ _ | .mailboxPartitionCreate _ _ _ | .mailboxRingBind _ _ _ _ _ 
  | .mailboxWindowBase _ _ | .mailboxImageLoad _ _ _ | .mailboxFirmwareUpdate _ _ | .rollbackCounterRaise _ _ 
  | .attestationRequest _ _ | .extentTableFill _ _ | .peerTableOpen _ _ | .connectionClose _ | .killProcess _ 
  | .checkpointRequest _ | .checkpointRestore _ _ | .checkpointTimeout _ | .resumeLaunch _ | .descriptorCopy _ _ 
  | .admission _ _ | .launchGatePass _ | .placement _ _ _ | .stageStart _ | .launchEnd _ | .balancerEvaluation _ 
  | .shadowSwap | .swapComplete | .yieldEvent | .spillComplete | .fillComplete | .quantumExpiry 
  | .remoteDataReturn _ _ _ _ | .packetArrival _ _ _ | .rclkTargetWrite _ _ | .rclkJoin _ _ | .rclkLeave _ 
  | .governorChange _ | .relockEnd _ | .offerSteer _ | .offerDeliver | .readinessUpdate _ | .offerReturn _ 
  | .resendTimer _ | .orderedSendRelease _ | .releasingSendRelease _ | .offerReceipt | .groupRecordUpdate _ 
  | .msendCopyDeliver | .barrierTopRelease _ | .barrierReleaseArrive _ | .haltWire | .launchHalt _ | .beatArrive 
  | .storeFaultRecord _ _ _ | .asyncStoreFaultTrap | .l1Fill | .sliceAccess _ | .sliceFill _ | .flushRequest 
  | .flushAck _ _ | .writebackMerge | .replicaInvalidateAck _ _ | .pageModeSwitch _ | .pageWalkComplete 
  | .monitorWake _ _ | .reservationExpire _ _ | .metadataFetch _ _ | .sequencerDispatch _ | .commandRetire _ 
  | .walkerRecordPoll | .walkerRecordTimeout | .nvmePieceComplete _ _ _ | .nvmePieceTimeout _ | .peerWrite _ _ 
  | .peerReadreq _ _ | .peerReadresp _ _ | .peerAck _ _ | .peerNak _ _ | .peerClose _ _ | .peerRetryTimeout _ 
  | .mzero _ _ | .mma _ _ | .mmas _ _ | .mlda _ _ | .msta _ _ | .mtrn _ _ | .cpy _ _ | .cpyGrain _ _ | .cpys _ _ 
  | .cpyk _ _ | .cfill _ _ | .gath _ _ | .scat _ _ | .srd _ _ | .swr _ _ | .nrd _ _ | .nwr _ _ | .cdec _ _ 
  | .ccnt _ _ | .geval _ _ | .gfetch _ _ | .gpref _ _ | .gexp _ _ | .gmv _ _ | .gvm _ _ | .grot _ _ | .gcon _ _ 
  | .qnop _ _ | .qstamp _ _ | .qarr _ _ | .qwait _ _ | .qsig _ _ | .illegalInstruction _ 
  | .instructionFetchFault _ | .engineChainEvent _ _ _ _ | .timedSlotStart _ _ | .descriptorSlotWrite _ _ _ _ 
  | .coreClockTargetWrite _ _ | .powerLoss => none

end Sys2Proof
end

