-- ==== Sys2Proof/Config.lean ====
section
/-! DEFINITION. What an implementation fixes, and the free values (log 12, log 13): constants without a
body, so that nothing proved about the model can rest on what they are. -/

namespace Sys2Proof.Config

/-- A byte the spec leaves open (log 12), one for each value of the counter `State.free`. -/
opaque freeByte : Nat → Byte

/-- A doubleword the spec leaves open (log 12). -/
opaque freeWord : Nat → Word

/-- The set of an L1 line among `n` sets: R140 gives no index function (log 13). -/
opaque l1Set : (line n : Nat) → Nat

/-- The largest NVMe command that a drive takes, in bytes (MDTS of R76); 0 for no limit. -/
opaque maxTransfer : (drive : Nat) → Nat

/-- Whether the host completes an engine's access to a line of host space with an error, at a core cycle (R74, R378; log 74). -/
opaque hostError : (cycle line : Nat) → Bool

/-- What a drive answers when one of its namespaces is identified (R75): the bytes of an LBA and those of its metadata; 0 and 0 where
it has no such namespace. -/
opaque lbaFormat : (drive nsid : Nat) → Nat × Nat

/-- Scheduling policy of the root kernel for a stage of a launch (R97): dquantum, dyield and dbalwin as 0, 1 and 2. -/
opaque schedPolicy : (launch stage which : Nat) → W32

/-- Balancer record of a stage of a launch, as the firmware's policy sets it (R106). -/
opaque balPolicy : (launch stage : Nat) → Word

/-- The timeout that the root kernel sets for an NVMe command, in ticks of the time base (R77). -/
opaque nvmePolicy : (drive : Nat) → Nat

/-- The checkpoint timeout that firmware sets, in ticks of the time base (R256). -/
opaque ckptPolicy : (launch : Nat) → Nat

/-- Replies, beyond one, that a slice holds RSP credit for (R28). -/
opaque rspCredit : (slice : Nat) → Nat

/-- The signature that the device identity key makes of the bytes of a report (R85). -/
opaque identitySign : List Byte → BitVec 3072

/-- Cores per twig (R8). -/
def coresPerTwig : Nat := 4
/-- Twigs of the package (R8, R24). -/
def twigs : Nat := 6144
/-- Cores of the package (R8). -/
def cores : Nat := 24576
/-- Groves of the package (R8). -/
def groves : Nat := 96
/-- Dies of the package (R8). -/
def dies : Nat := 24
/-- Bytes of a core's pool: 1,536 KiB (R8). -/
def poolBytes : Nat := 1572864
/-- Bytes of one register-region slot (R118). -/
def slotBytes : Nat := 5120
/-- Entries of each command queue (R114, R120). -/
def queueEntries : Nat := 32
/-- Entries of the range-lock table (R133). -/
def lockEntries : Nat := 32
/-- Slots of an inbox (R46). -/
def inboxSlots : Nat := 32
/-- Records of a store-fault record queue (R249). -/
def recordSlots : Nat := 8

end Sys2Proof.Config
end

