-- ==== Sys2Proof/Machine/State.lean ====
section
/-! DEFINITION. The state of the device as plain data, the reasons a step stops, and the state after reset.
Every field cites the rule that names it; a field marked MODEL is the model's own (log 1, log 12). -/

namespace Sys2Proof.Machine

/-- Reasons the machine stops. -/
inductive Fault
  /-- Raised by `step` when the device is unpowered (R18): nothing runs any more. Safe: the device makes no step either. -/
  | unpowered
deriving DecidableEq, Repr

/-- Reasons an instruction has no meaning in the model. -/
inductive Refusal
  /-- Raised by an arm of `exec` that has no meaning yet. Safe: the model stops. -/
  | notModelled (mnemonic : String)
deriving DecidableEq, Repr

/-! ### A context (R118, R119, R242) -/

/-- What a waiting context waits for (R98, R99, R304). -/
inductive Wait
  /-- data or an answer from off the core (R99) -/
  | remote
  /-- the answer of the host to a read of host space (R74, R99) -/
  | host
  /-- a write to the monitored line (R314) -/
  | monitor (line : Nat)
  /-- the release of a barrier channel (R312, R62) -/
  | barrier (ch : BitVec 3)
  /-- a message of a group, or a rebind (R330) -/
  | take (g : Nat)
  /-- a completion counter (R324) -/
  | cmd (q : Queue) (target : Word)
  /-- a full receive entry (R333) -/
  | recv (e : Nat)
  /-- the exit of a helper (R308) -/
  | join (id : Nat)
  /-- the receipts of a group (R331) -/
  | receipts (g : Nat)
  /-- one of the 8 entries of the sent-message tracker (R54) -/
  | tracker
  /-- an entry of the twig's resend buffer (R52) -/
  | resend
  /-- the twig router's multicast place (R332) -/
  | msend
  /-- the exit of every helper (R109, R113) -/
  | helpers
  /-- a slot of the timed fabric, to send a vector register as a beat; the context stays current (R40, R304) -/
  | slot (beat : Nat) (vs : RegNo)
  /-- the flush requests for a line in a slice's directory (R141) -/
  | flush (line : Nat)
  /-- delivery of the core's own traffic before a PHCOMP arrival (R62) -/
  | delivery (ch : BitVec 3)
  /-- every earlier store performed or recorded (R210, R250) -/
  | stores
  /-- a page-table walk for an address, or the twig TLB's answer (R144, R424) -/
  | walk (va : Word)
deriving DecidableEq, Repr

/-- State of a context (R111). -/
inductive CtxSt | free | ready | waiting (w : Wait)
deriving DecidableEq, Repr

/-- A store-fault record (R248), ICOUNT as counted so far. -/
structure Rec where
  va : Word
  data : Word
  pc : Word
  cause : BitVec 8
  size : BitVec 4
  src : BitVec 2
  queue : BitVec 2
  status : BitVec 8
  icount : W32
  /-- ICOUNT has been taken: a 0x23 has been taken since the record arrived (R248) -/
  fixed : Bool
deriving DecidableEq, Repr

/-- An element of a store that is under way to host space (R74): its number, the record it makes if the host refuses it, and
its bytes. -/
structure HostElem where
  idx : Nat
  fail : Rec
  cells : List Host.Cell
deriving DecidableEq, Repr

/-- A store that is not yet recorded or performed (R247, R74): its lowest element that failed in the device, and its elements
under way to host space. -/
structure Late where
  bad : Option (Nat × Rec)
  host : List HostElem
deriving DecidableEq, Repr

/-- One context: its register slot (R118) and its place in the issue order (R111). -/
structure Ctx where
  id : Nat
  st : CtxSt
  x : Vector Word 32
  f : Vector Word 32
  v : Vector VReg 32
  p : Vector PReg 4
  pc : Word
  fflags : BitVec 5
  frm : BitVec 3
  dtvec : Word
  dtpc : Word
  dtcause : Word
  dtval : Word
  /-- the stored bits of dtstat: PE, FRM and the bits above them (R242) -/
  dtstat : Word
  hm : Bool
  pe : Bool
  recs : List Rec
  lost : BitVec 16
  /-- store failures not yet recorded, and stores under way to host space (R74, R247, R250) -/
  late : List Late
  /-- 0x23 is due at the next boundary (R250) -/
  must23 : Bool
  /-- arrival marks of BARW, PHCOMM, PHCOMP, by the pc of the instruction (R305) -/
  marks : List Word
  /-- what the instruction at the pc waited for from off the core has come: the elements that the host answered with an error
  (R74, R99) -/
  ans : Option (BitVec 128)
  /-- MODEL: number of the context's last access that went off the core, 0 where its answer is wanted no longer; an answer to an
  earlier one is stale (log 6) -/
  asks : Nat
  /-- lines that slices have sent for that access, as they stood when the slice served it (R151) -/
  got : List (Nat × BitVec 1024)
  /-- stores of its starter to host space that come before what a helper does there: how many of the starter's late stores have to
  end first (R218, R307) -/
  behind : Nat
  /-- core cycle at which the context began to wait (R104) -/
  since : Nat
  instret : Word
deriving DecidableEq, Repr

/-! ### A bank (R114) -/

/-- The stage a bank is bound to (R95, R288). -/
structure Bound where
  launch : Nat
  stage : Nat
  index : Nat
  count : Nat
  lid : W32
  const : Word
  entry : Word
  group : Option Nat
  prio : Nat
  helpers : Nat
  chan : Option (BitVec 3)
  haltVa : Word
  haltPa : Nat
  /-- the core has left the stage, and only commands of the bank remain (R96, R113) -/
  left : Bool
deriving DecidableEq, Repr

/-- A rebind of the stage balancer (R107 to R109). -/
inductive Rebind | none | posted (stage : Nat) | delivered (stage : Nat)
deriving DecidableEq, Repr

/-- dinject (R340). -/
structure Inject where
  arm : Bool
  fired : Bool
  bit : BitVec 3
  off : BitVec 24
deriving DecidableEq, Repr

/-- Traffic counters of a halt record (R257), from the stage bind on. -/
structure Counts where
  osent : W32
  otaken : W32
  psent : W32
  precv : W32
  bsent : BitVec 16
  brecv : BitVec 16
  barr : BitVec 16
deriving DecidableEq, Repr

/-- One register bank (R114). -/
structure Bank where
  num : Bool
  bound : Option Bound
  /-- contexts that are not the core's current one, in increasing id (R111) -/
  ctxs : List Ctx
  cur : Nat
  used : Nat
  /-- no context was ready at the last switch event: the core selects the first that becomes ready, in ring order (R98) -/
  seek : Bool
  /-- completion counters of MQ, CQ, GQ (R125) -/
  doneMq : Word
  doneCq : Word
  doneGq : Word
  /-- last sequence values assigned (R324) -/
  seqMq : Word
  seqCq : Word
  seqGq : Word
  /-- loop registers l0 to l7 of the three queues, l0 unused (R126) -/
  loopMq : Vector W32 8
  loopCq : Vector W32 8
  loopGq : Vector W32 8
  acc : Vector (BitVec 8192) 4
  /-- release sets: tag and whether the release is cancelling (R130, R131) -/
  relMq : List (BitVec 8 × Bool)
  relCq : List (BitVec 8 × Bool)
  relGq : List (BitVec 8 × Bool)
  const : BitVec 16384
  dhstack : Word
  dhstksz : Word
  dquantum : W32
  dyield : W32
  dbalwin : W32
  dcksum : W32
  /-- start value that the next CPYK pushed takes, when it is known: a CSR write or the bind value (R385) -/
  ckStart : Option W32
  dinject : Inject
  sched : Option Nat
  rebind : Rebind
  stopped : Bool
  dead : Bool
  spilled : Bool
  slotsFreed : Bool
  counts : Counts
  bindCycle : Nat
  /-- lost counts of helpers that have exited (R249) -/
  lost : List (Nat × BitVec 16)
  /-- core cycle of the last take from the stage's group, since the bank was bound to the stage (R107) -/
  lastTake : Option Nat
deriving DecidableEq, Repr

/-! ### Engines (R122 to R136) -/

/-- A captured tile command (R124, R296, R374): A to F are the captured values. -/
structure Cmd where
  opc : BitVec 8
  sw : Bool
  ch : Bool
  sq : BitVec 2
  ev : BitVec 4
  stag : BitVec 8
  otag : BitVec 8
  a : Word
  b : Word
  c : Word
  d : Word
  e : Word
  f : Word
  vpat : Option VReg
  c1 : Nat
  c2 : Nat
  fmtA : BitVec 8
  fmtB : BitVec 8
  scope : Scope
  flags : BitVec 5
deriving DecidableEq, Repr

/-- Where a queued command stands (R127, R130). -/
inductive EntrySt | held | queued | flight | worked
deriving DecidableEq, Repr

/-- The wait of the walker for a record (R167): the symbol, and the core cycles of the first and of the last read. -/
structure RecWait where
  sym : Nat
  since : Nat
  polled : Nat
deriving DecidableEq, Repr

/-- A queue entry (R123, R129 to R131). -/
structure Entry where
  bank : Bool
  seq : Nat
  ord : Nat
  cmd : Cmd
  st : EntrySt
  cancelled : Bool
  landed : Bool
  released : Bool
  consumed : Bool
  status : BitVec 8
  tval : Word
  /-- a source read failed (R384) -/
  srcBad : Bool
  /-- SEQ of the stamp where the description names another value (R391) -/
  seqField : Option Word
  /-- captured OFF and BIT of dinject (R340) -/
  inject : Option (BitVec 24 × BitVec 3)
  /-- start value of a CPYK, when a CSR write or the bind fixed it (R385) -/
  ckStart : Option W32
  /-- result of a CPYK (R385) -/
  ck : W32
  /-- pieces or packets still outstanding (R77, R80) -/
  outstanding : Nat
  /-- the walker waits for a record (R167) -/
  recWait : Option RecWait
  /-- rules, rows or queries of a walker command that are done (R178, R395) -/
  prog : Nat
  pc : Word
  ctx : Nat
  /-- instret of the pushing context just after the CMDQ, while that context lives (R248) -/
  icBase : Option Word
  /-- instructions counted before the helper that pushed it exited (R248) -/
  icDone : W32
  /-- addresses [lo, hi) whose data the command reads as unspecified: a free run has dispatched it with a command that it
  conflicts with (R128) -/
  loose : List (Nat × Nat) := []
  /-- what a walker command has read before its first unit: the parameter block of a GCON and A's header (R398); else a grammar's header
  and a rotary block, so that a refusal or a fault of theirs comes before any write (R178, R397) -/
  frozen : Option (Nat × Nat) := none
  /-- push number of the GCON whose internal entry this is (R400) -/
  inner : Option Nat := none
deriving DecidableEq, Repr

/-- A range-lock entry (R133): the bytes [lo, hi). -/
structure Lock where
  lo : Nat
  hi : Nat
  dst : Bool
  bank : Bool
  q : Queue
  seq : Nat
  ord : Nat
deriving DecidableEq, Repr

/-! ### Messages, L1 and translation -/

/-- An offer or multicast message (R300). -/
structure Msg where
  payload : BitVec 448
  group : Nat
  sender : Nat
  seq : BitVec 16
  bounce : Nat
  ord : Bool
  rel : Bool
deriving DecidableEq, Repr

/-- L1 line classes (R140). -/
inductive L1Cls | priv | readOnly | shared
deriving DecidableEq, Repr

/-- A store whose bytes have left the context that made it: that context, the record it makes if the bytes are dropped (R157, R158),
and the context's instret after it, from which ICOUNT counts (R248). -/
structure StoreOf where
  bank : Bool
  ctx : Nat
  fail : Rec
  base : Word
deriving DecidableEq, Repr

/-- An L1 line (R140, R141); `line` is the memory key divided by 128, `owed` the line of the release it is owed to. -/
structure L1Line where
  line : Nat
  data : BitVec 1024
  valid : BitVec 128
  dirty : BitVec 128
  cls : L1Cls
  owed : Option Nat
  /-- the line is POISON in L1 (R157, R253) -/
  poison : Bool
  /-- its page is in bark form (R143, R155) -/
  bark : Bool
  /-- an NT access brought it in: it is placed at the place of least recent use (R145) -/
  nt : Bool
  /-- the last store that left dirty bytes in it -/
  last : Option StoreOf
deriving DecidableEq, Repr

/-- A line fill under way (R140). -/
structure Fill where
  line : Nat
  cls : L1Cls
  lru : Bool
  bark : Bool
deriving DecidableEq, Repr

/-- How an access is placed in the slice of its line (R145, R350): whether the slice may hold the line, in its ONCE class, and at
the place of least recent use; whether its page is in bark form (R143). -/
structure Placing where
  held : Bool
  once : Bool
  lru : Bool
  bark : Bool
deriving DecidableEq, Repr

/-- A write-back of L1 bytes, or a store that is performed at a slice, under way (R140, R208, R319); `dev` for a store to a
DEVICE page (R145), `bad` for bytes of an L1 line that is POISON (R157), `who` for the store it comes from. -/
structure WriteBack where
  line : Nat
  data : BitVec 1024
  mask : BitVec 128
  how : Placing
  dev : Bool
  bad : Bool
  who : Option StoreOf
deriving DecidableEq, Repr

/-- Who asks for a line or a place off the core: a context, and the number of its access; none for a prefetch, whose answer is not
kept (R99, R320). -/
structure Asker where
  core : Nat
  bank : Bool
  ctx : Nat
  tag : Option Nat
deriving DecidableEq, Repr

/-- How far a translation that a core lacks has come (R144, R424): the twig TLB holds it, the walk stands in a walker of its die, or
waits for one. -/
inductive WalkSt | twig | walker | queued
deriving DecidableEq, Repr

/-- A translation on its way to the core's TLB (R144). -/
structure WalkReq where
  va : Word
  st : WalkSt
deriving DecidableEq, Repr

/-- A flush request that has reached a core (R141): the synchronisation line, its slice, and the lines whose write-backs must
perform before the core acknowledges it. -/
structure Ack where
  line : Nat
  slice : Nat
  wait : List Nat
deriving DecidableEq, Repr

/-- Page types (R143). -/
inductive PageTy | cached | stream | uncached | device
deriving DecidableEq, Repr

/-- A translation (R143): the page of `2^bits` bytes at `va`, mapped at `pa`. -/
structure Tlb where
  asid : Nat
  va : Nat
  pa : Nat
  bits : Nat
  r : Bool
  w : Bool
  x : Bool
  u : Bool
  d : Bool
  ty : PageTy
  bark : Bool
  priv : Bool
deriving DecidableEq, Repr

/-- A receive entry of the timed fabric (R40). -/
structure Recv where
  data : VReg
  lo : Bool
  hi : Bool
deriving DecidableEq, Repr

/-- Barrier state of one channel at a core (R61, R312). -/
structure Chan where
  a : Bool
  f : Bool
  parity : Bool
  owner : Option Bool
deriving DecidableEq, Repr

/-- Privilege (R240). -/
inductive Priv | m | u
deriving DecidableEq, Repr

/-- The M-mode CSRs of the RISC-V privileged specification (R279, log 9). -/
structure MCsrs where
  mie : Bool
  mpie : Bool
  mpp : Priv
  mtvec : Word
  mepc : Word
  mcause : Word
  mtval : Word
  mscratch : Word
  miereg : Word
  mcounteren : Word
  /-- MPRV and TW of mstatus, FIOM of menvcfg -/
  mprv : Bool
  tw : Bool
  fiom : Bool
  /-- what writes of mcycle and minstret have added to the counts -/
  cycleOff : Word
  instOff : Word
deriving DecidableEq, Repr

/-- A halt travelling to a core (R64, R254, R255): the launch it stops and what the record takes. -/
structure HaltMsg where
  launch : Nat
  chan : Option (BitVec 3)
  reason : BitVec 4
  cause : BitVec 8
  entry : BitVec 8
  pcflt : Word
  terminal : Bool
deriving DecidableEq, Repr

/-- Why a bank stops, as its halt record says it (R257, R421, R422). -/
structure Stop where
  reason : BitVec 4
  cause : BitVec 8
  entry : BitVec 8
  pcflt : Word
  swapped : Bool
deriving DecidableEq, Repr

/-- A swap under way (R102): a fill of a spilled bank goes before it (R104); the halts and the fatal stops of a bank that
arrived since, which take effect when it is complete. -/
structure Swap where
  mwait : Bool
  fill : Bool
  halts : List HaltMsg
  fatal : List (Bool × Stop)
deriving DecidableEq, Repr

/-- One core (R114): the current context is held apart from its bank's other contexts. -/
structure Core where
  num : Nat
  cx : Ctx
  bank : Bank
  shadow : Bank
  priv : Priv
  asid : Nat
  dpoolb0 : Nat
  dpoolb1 : Nat
  dpoolb2 : Nat
  dmemb : Word
  chans : Vector Chan 8
  phase : Option (BitVec 3)
  mq : List Entry
  cq : List Entry
  gq : List Entry
  parkMq : Bool
  parkCq : Bool
  parkGq : Bool
  pushes : Nat
  locks : List Lock
  inbox : List Msg
  ready : List (Nat × Nat)
  arrivals : List Msg
  recv : Vector Recv 16
  msgSeq : BitVec 16
  /-- the sent-message tracker: a group and the messages without a receipt, oldest first (R54) -/
  track : List (Nat × List (BitVec 16))
  msendBusy : Bool
  l1 : List L1Line
  fills : List Fill
  relTab : List Nat
  acks : List Ack
  tlb : List Tlb
  walks : List WalkReq
  /-- MODEL: number of the last access of the core's contexts that went off the core (log 6) -/
  askNo : Nat
  swap : Option Swap
  /-- the bank that received a stage last, until it has been active (R101) -/
  fresh : Option Bool
  mwsw : Bool
  /-- core cycle at which the bank entered by a swap of R103 became active (R103) -/
  mwFrom : Nat
  yev : Bool
  /-- a spill under way after SHSWAP (R104) -/
  spilling : Option Bool
  dsave0 : Word
  dsave1 : Word
  cycles : Nat
  mcsr : MCsrs
  halts : List HaltMsg
deriving DecidableEq, Repr

/-! ### Memory beside the bytes (R155, R281, R314) -/

/-- A reservation at a home slice (R281): 128 B granule and the cycle of its LR. -/
structure Resv where
  core : Nat
  bank : Bool
  ctx : Nat
  line : Nat
  cycle : Nat
deriving DecidableEq, Repr

/-- An armed monitor (R314); `hit` once a write has performed on its line. -/
structure Mon where
  core : Nat
  bank : Bool
  ctx : Nat
  line : Nat
  hit : Bool
deriving DecidableEq, Repr

/-! ### Package (R8 to R23) -/

/-- A compute die (R10, R13, R20, R21). -/
structure Die where
  trained : Bool
  failed : Bool
  clock : Nat
  target : Nat
  hot : Nat
  fastRefresh : Bool
  /-- time of the last sample (R13) -/
  sampled : Option Nat
deriving DecidableEq, Repr

/-- The package: power, service level, dies and firmware (R14 to R23, R84). `absent` is the fused map of absent cores. -/
structure Pkg where
  power : Bool
  sl : BitVec 2
  err : Bool
  fwerr : Bool
  online : BitVec 24
  throt : BitVec 24
  dies : Vector Die 24
  absent : List Nat
  halfLinks : List Nat
  deadLinks : List Nat
  retired : List Nat
  serlar : Option FwImage
  mmode : Option FwImage
  walker : Option FwImage
  rbSerlar : W32
  rbMmode : W32
  rbWalker : W32
  time : Nat
  nclk : Nat
deriving DecidableEq, Repr

/-! ### Fabric and trees (R24 to R64) -/

/-- RCLK of a grove (R34): DEFER is computed from the others (`deferOf`); `joining` is a join that has been requested and
not begun, `inJoin` one whose relock is under way, `goal` the frequency that the change under way leads to, `began` the time of the
last change's start, `lastEnd` that of its end (R33); `left` is the group that the region has asked to leave, and `leaving` names the phases of it, by
domain and start, that have opened before it has left (R35). -/
structure Rclk where
  target : Nat
  current : Nat
  lockgrp : BitVec 7
  relock : Bool
  joined : Bool
  joining : Bool
  inJoin : Bool
  left : BitVec 7
  leaving : List (Nat × Nat)
  goal : Nat
  began : Nat
  lastEnd : Option Nat
deriving DecidableEq, Repr

/-- What a packet carries (R28, R48 to R57): a message to a node (from its parent, or climbing), to a core, bounced to a
parent with the bouncer's total, returned to its sender's twig; a receipt; a flush request; what a context's access off the core
sends, with the line it wants of a slice, and is answered; a write on its way to a slice or an owning bank and its acknowledgment; the
acknowledgment of a flush request; a store to host space; a storage transfer handed to its drive's agent; a packet for a peer (R420). -/
inductive Payload
  | toNode (n : NodeId) (down : Bool) (m : Msg)
  | toCore (core : Nat) (m : Msg)
  | bounce (n : NodeId) (child total : Nat) (m : Msg)
  | returned (core : Nat) (m : Msg)
  | receipt (core group : Nat) (seq : BitVec 16)
  | flush (core line slice : Nat)
  | ask (who : Asker) (want : Option (Nat × Placing))
  | reply (who : Asker) (got : Option (Nat × BitVec 1024))
  | write (core : Nat) (w : WriteBack)
  | wrote (core : Nat)
  | flushed (core line slice : Nat)
  | hostStore (core : Nat) (bank : Bool) (ctx pa : Nat)
  | piece (id : Nat)
  | peer (conn : Nat) (pkt : PeerPkt)
deriving DecidableEq, Repr

/-- A packet under way (R27) between two routers; 6,144 and 6,145 stand for the west and the east I/O die (R420). -/
structure Packet where
  cls : TClass
  src : Nat
  dst : Nat
  body : Payload
deriving DecidableEq, Repr

/-- Entry of a node's group table (R44, R47, R48). -/
structure GroupEnt where
  group : Nat
  counts : List Nat
  rrptr : Nat
deriving DecidableEq, Repr

/-- What waits at a node: a message from its parent or climbing, or a bounced message with the bouncer's child number and
total (R48, R50). -/
structure NodeIn where
  msg : Msg
  down : Bool
  bounced : Option (Nat × Nat)
deriving DecidableEq, Repr

/-- An offer-tree node (R43 to R51); `rings` names the groups of the messages in the home rings of its groups, in the order
in which they were appended. -/
structure Node where
  id : NodeId
  ents : List GroupEnt
  inq : List NodeIn
  parks : List Msg
  rings : List Nat
deriving DecidableEq, Repr

/-- A readiness total under way to a node (R47). -/
structure Update where
  node : NodeId
  group : Nat
  child : Nat
  total : Nat
deriving DecidableEq, Repr

/-- A message in a twig's resend buffer (R52, R54): whether it was returned, and the network cycle of its entry. -/
structure Resend where
  twig : Nat
  core : Nat
  msg : Msg
  returned : Bool
  since : Nat
deriving DecidableEq, Repr

/-- An offer group (R44, R51, R53): the counters of its record, its home and its home ring. -/
structure Group where
  num : Nat
  level : Nat
  root : NodeId
  launch : Nat
  stage : Nat
  part : Nat
  members : List Nat
  slice : Nat
  home : Nat
  size : Nat
  sent : Nat
  taken : Nat
  head : Nat
  tail : Nat
  bounces : Nat
  resends : Nat
  dropped : Nat
  ring : List Msg
  waiting : List Msg
deriving DecidableEq, Repr

/-- Phase tag of an arrival (R312, R313). -/
inductive PhTag | plain | opening | closing
deriving DecidableEq, Repr

/-- A barrier domain (R58 to R63), its arrivals (core, flag, tag) and its communication phase (R38, R256). -/
structure Dom where
  id : Nat
  chan : BitVec 3
  launch : Nat
  stage : Nat
  level : Nat
  members : List Nat
  left : List Nat
  arrived : List (Nat × Bool × PhTag)
  phase : Bool
  start : Nat
  heldHalt : Bool
  stopNew : Bool
deriving DecidableEq, Repr

/-- A release under way to a member (R312, R313). -/
structure Release where
  core : Nat
  chan : BitVec 3
  flag : Bool
  tag : PhTag
deriving DecidableEq, Repr

/-- A timed beat under way (R40): which half, the network cycle at which it lands. -/
structure BeatMsg where
  launch : Nat
  core : Nat
  src : Nat
  beat : Nat
  entry : Nat
  hi : Bool
  data : BitVec 512
  lands : Nat
deriving DecidableEq, Repr

/-- The fabric and the trees. -/
structure Fab where
  rclk : List (Nat × Rclk)
  net : List Packet
  nodes : List Node
  updates : List Update
  resend : List Resend
  groups : List Group
  doms : List Dom
  releases : List Release
  beats : List BeatMsg
  /-- MODEL: the ways of the requests whose whole journey lies in the move under way; empty between moves (log 88) -/
  trips : List (TClass × Nat × Nat)
deriving DecidableEq, Repr

/-! ### L2 slices and DRAM (R146 to R158) -/

/-- A line resident in a slice (R148 to R150); most recently used first in its slice. -/
structure L2Line where
  line : Nat
  code : Nat
  sectors : Nat
  once : Bool
  dirty : Bool
  /-- its page is in bark form (R143, R155) -/
  bark : Bool
  /-- the write that closed the line's miss register has not performed yet (R148, R151) -/
  wr : Bool
deriving DecidableEq, Repr

/-- A read request at a slice (R148, R151), and who is to be answered. -/
structure SliceReq where
  line : Nat
  how : Placing
  who : Option Asker
deriving DecidableEq, Repr

/-- A miss register (R151): `opened` on the time base, `attached` the reads that its reply answers, `who` those of them that wait for
it. -/
structure Miss where
  line : Nat
  opened : Nat
  attached : Nat
  closed : Bool
  once : Bool
  lru : Bool
  bark : Bool
  who : List Asker
deriving DecidableEq, Repr

/-- Entry of the owed-release directory (R141): a line and the cores recorded against it. -/
structure DirEnt where
  line : Nat
  cores : List Nat
deriving DecidableEq, Repr

/-- A flush of a directory entry under way (R141): the cores that have not acknowledged. -/
structure Flush where
  line : Nat
  cores : List Nat
deriving DecidableEq, Repr

/-- Counters of a slice (R153). -/
structure SliceCnt where
  fillcmp : Word
  wexp : Word
  expevict : Word
  merged : Word
  mcast : Word
deriving DecidableEq, Repr

/-- A slice (R141, R148 to R153). -/
structure Slice where
  num : Nat
  lines : List L2Line
  reqs : List SliceReq
  misses : List Miss
  dir : List DirEnt
  flushes : List Flush
  cnt : SliceCnt
deriving DecidableEq, Repr

/-- A 64 KiB frame of DRAM (R154): the time of its last change of mode, whether it is in REPL, and the reads and writes that
have arrived from other dies. -/
structure Frame where
  num : Nat
  since : Option Nat
  repl : Bool
  reads : Nat
  writes : Nat
deriving DecidableEq, Repr

/-- A write of a core held until every replica is invalidated (R154). -/
structure HeldWrite where
  core : Nat
  line : Nat
  data : BitVec 1024
  mask : BitVec 128
  how : Placing
  wait : List Nat
  who : Option StoreOf
deriving DecidableEq, Repr

/-- An entry of a channel's poison list (R158): block (`blockOf`) and lines written since. -/
structure PoisonEnt where
  block : Nat
  written : BitVec 4
deriving DecidableEq, Repr

/-- A die pair's sharers of a REPL line (R154). -/
structure Sharers where
  line : Nat
  dies : List Nat
deriving DecidableEq, Repr

/-- The memory system beyond the bytes. -/
structure MemSys where
  slices : List Slice
  frames : List Frame
  sharers : List Sharers
  heldW : List HeldWrite
  twigTlb : List (Nat × Tlb)
  poisonList : List PoisonEnt
deriving DecidableEq, Repr

/-! ### Host, storage, peers (R65 to R81) -/

/-- A launch ring (R67). -/
structure Ring where
  key : Nat
  enable : Bool
  /-- the ring has been bound to a process (R65, R67) -/
  bound : Bool
  msien : Bool
  headien : Bool
  asid : Nat
  head : W32
  tail : W32
  badtail : Bool
  badstamp : Bool
  badlid : W32
  slots : List (Nat × BitVec 2048)
deriving DecidableEq, Repr

/-- What the reply to an image load names (R278): a stage record, a beat of a schedule, the offset of an instruction in the text, or
a tile statement. -/
inductive Offence | record (i : Nat) | beat (sched i : Nat) | sched (i : Nat) | instruction (off : Nat) | tile (i : Nat)
deriving DecidableEq, Repr

/-- What the host sees beside memory (MODEL log). -/
inductive HostOut
  | msi (port : Bool) (vector : Nat)
  /-- the address of a block, with the notification of R158 -/
  | lostBlock (pa : Nat)
  | read (port : Bool) (data : List Byte) (abort : Bool)
  | handle (asid : Nat) (h : Word)
  /-- an image refused, with what is at fault in it (R278) -/
  | badImage (asid : Nat) (o : Offence)
  | refused
  | report (port : Bool) (nonce : BitVec 256) (digests : List (BitVec 256)) (versions : List W32) (absent : List Nat) (svc : Word)
    (sig : BitVec 3072)
deriving DecidableEq, Repr

/-- State of a peer table entry (R79, R81). -/
inductive PeerSt | closed | opened | failed
deriving DecidableEq, Repr

/-- A packet sent on a connection and not acknowledged (R79); `cmd` names core, bank and sequence value of its command. -/
structure PeerOut where
  pkt : PeerPkt
  core : Nat
  bank : Bool
  seq : Nat
deriving DecidableEq, Repr

/-- A read of a peer under way (R80): where its next bytes go, how many have not come, and those that have come and not been written:
they are written up to multiples of 128 B of the transfer (R378). -/
structure PeerRead where
  core : Nat
  bank : Bool
  seq : Nat
  dest : Word
  left : Nat
  held : List Byte
deriving DecidableEq, Repr

/-- An entry of a peer table (R79 to R81). -/
structure Peer where
  conn : Nat
  st : PeerSt
  closing : Bool
  info : PeerOpen
  nextSeq : W32
  expect : W32
  retries : Nat
  /-- time at which the unacknowledged packets were last sent (R79) -/
  since : Nat
  unacked : List PeerOut
  reads : List PeerRead
deriving DecidableEq, Repr

/-- An NVMe piece under way (R76, R77). -/
structure Piece where
  id : Nat
  core : Nat
  q : Queue
  bank : Bool
  seq : Nat
  read : Bool
  off : Nat
  len : Nat
  drive : Nat
  nsid : Nat
  lba : Nat
  addr : Word
  data : List Byte
  fua : Bool
  rawb : Bool
  since : Nat
  /-- a piece of the checkpoint under way, and of no command (R86) -/
  ckpt : Bool
deriving DecidableEq, Repr

/-- The I/O dies. -/
structure Io where
  rings : List Ring
  winWest : Nat
  winEast : Nat
  outs : List HostOut
  /-- requests to host space that have reached an I/O die and are not answered (R74, R420) -/
  asked : List (Asker × Nat)
  peers : List Peer
  sentPkts : List (Nat × PeerPkt)
  pieces : List Piece
  nextPiece : Nat
deriving DecidableEq, Repr

/-! ### Root kernel (R83 to R110) -/

/-- A process (R72, R76, R83, log 8). -/
structure Proc where
  asid : Nat
  root : Nat
  part : Nat
  killed : Bool
  extents : List Extent
  remembered : List (W32 × BitVec 8)
deriving DecidableEq, Repr

/-- A partition (R36, R138): its groves and the scratch bytes of each slice named. -/
structure Part where
  id : Nat
  groves : BitVec 96
  scratch : List (Nat × Nat)
  posted : List Nat
  /-- time of the balancer's last evaluation (R107) -/
  evaluated : Option Nat
deriving DecidableEq, Repr

/-- The finaliser's result for an image, cached under its digest until device reset (R278). -/
structure Final where
  handle : Word
  img : ImageRec
deriving DecidableEq, Repr

/-- Package core numbers to which the core indices of a stage are bound, cached under the digest and the aligned extent, which its
level and north-west twig name (R278). -/
structure BoundCores where
  digest : BitVec 256
  record : Nat
  level : Nat
  extent : Nat
  cores : List Nat
deriving DecidableEq, Repr

/-- The checkpoint under way (R86): what was asked, whether its memory is on its way to the drive, and whether a piece of it has
failed. -/
structure Ckpt where
  ask : CkptAsk
  streaming : Bool
  failed : Bool
deriving DecidableEq, Repr

/-- A finalised image of a process (R278, R423). -/
structure Image where
  handle : Word
  asid : Nat
  img : ImageRec
deriving DecidableEq, Repr

/-- A stage of a descriptor (R70). -/
structure StageDesc where
  entry : W32
  minc : Nat
  maxc : Nat
  helpers : Nat
  homesz : Nat
  offen : Bool
  blevel : Nat
  bchan : BitVec 3
deriving DecidableEq, Repr

/-- A stage's balancer record (R106). -/
structure BalRec where
  thresh : W32
  noreb : Bool
deriving DecidableEq, Repr

/-- State of a launch (R88 to R96, R254). -/
inductive LaunchSt | gate | placing | bound | running | halting
deriving DecidableEq, Repr

/-- A core given to a stage (R93). -/
structure Placed where
  core : Nat
  bank : Bool
  stage : Nat
  index : Nat
  gone : Bool
deriving DecidableEq, Repr

/-- The origin of a terminal halt (R421). -/
structure Origin where
  core : Option Nat
  reason : BitVec 4
  cause : BitVec 8
deriving DecidableEq, Repr

/-- A launch the root kernel has admitted and that has not ended (R69, R88 to R96): the prerequisites with the status of
their stamps, the place in the order of the gate, the cores that started a terminal halt. -/
structure Launch where
  id : Nat
  asid : Nat
  ring : Nat
  lid : W32
  stamp : Word
  const : Word
  image : Word
  groves : Nat
  prio : Nat
  prereqs : List (Option (BitVec 8) × Nat)
  stages : List StageDesc
  bal : List BalRec
  st : LaunchSt
  placed : List Placed
  origin : Option Origin
  starters : List Nat
  resumable : Bool
  passed : Nat
  haltPa : Nat
  haltVa : Word
  /-- where STAMP leads, kept mapped until it has been written (R73) -/
  stampKey : Nat
  /-- admitted at S2 before every die had come online or failed (R23) -/
  early : Bool
  /-- time of the checkpoint stop (R256) -/
  haltedAt : Nat
deriving DecidableEq, Repr

/-- A descriptor copied from a ring and not yet admitted (R68). -/
structure Copied where
  ring : Nat
  desc : BitVec 2048
deriving DecidableEq, Repr

/-- The root kernel's tables. -/
structure Root where
  procs : List Proc
  parts : List Part
  images : List Image
  finals : List Final
  bounds : List BoundCores
  launches : List Launch
  nextLaunch : Nat
  copied : List Copied
  ckpt : Option Ckpt
deriving DecidableEq, Repr

/-! ### The whole machine -/

/-- Whose turn it is (MODEL, log 1): the core that acts, the core cycles, time-base ticks and network cycles that
pass before it acts, the event it makes (none: it issues an instruction), and the choice that it takes. -/
structure Turn where
  core : Nat
  cycles : Nat
  ticks : Nat
  nets : Nat
  ev : Option Instr
  /-- which of several writes on their way merges next -/
  pick : Nat
deriving DecidableEq, Repr

/-- The device. `core` is the core whose turn it is; `cores` holds the others that differ from a core at reset. -/
structure State where
  core : Core
  cores : List Core
  mem : List Host.Cell
  poison : List Nat
  resv : List Resv
  mons : List Mon
  pkg : Pkg
  fab : Fab
  ms : MemSys
  io : Io
  root : Root
  agenda : List Turn
  free : Nat
  /-- which of several writes on their way merges next (R208): the model's own, set by the agenda (log 1) -/
  pick : Nat
deriving DecidableEq, Repr

/-! ### Reset -/

/-- A free context: every register zero (log 2), p0 all ones, PE set (R118, R242). -/
def Ctx.reset (id : Nat) : Ctx :=
  { id := id, st := .free, x := Vector.replicate 32 0, f := Vector.replicate 32 0,
    v := Vector.replicate 32 0, p := #v[-1, 0, 0, 0], pc := 0, fflags := 0, frm := 0,
    dtvec := 0, dtpc := 0, dtcause := 0, dtval := 0, dtstat := 0, hm := false, pe := true,
    recs := [], lost := 0, late := [], must23 := false, marks := [], ans := none, asks := 0, got := [], behind := 0, since := 0,
    instret := 0 }

/-- A bank with no launch (R97, R116, R125, R126, R339, R340; log 2). -/
def Bank.reset (num : Bool) : Bank :=
  { num := num, bound := none, ctxs := [], cur := 0, used := 0, seek := false,
    doneMq := 0, doneCq := 0, doneGq := 0, seqMq := 0, seqCq := 0, seqGq := 0,
    loopMq := Vector.replicate 8 0, loopCq := Vector.replicate 8 0, loopGq := Vector.replicate 8 0,
    acc := Vector.replicate 4 0, relMq := [], relCq := [], relGq := [], const := 0,
    dhstack := 0, dhstksz := 0, dquantum := 4096, dyield := 0, dbalwin := 65536,
    dcksum := 1, ckStart := some 1, dinject := ⟨false, false, 0, 0⟩, sched := none, rebind := .none,
    stopped := false, dead := false, spilled := false, slotsFreed := false,
    counts := ⟨0, 0, 0, 0, 0, 0, 0⟩, bindCycle := 0, lost := [], lastTake := none }

/-- M-mode CSRs at reset (log 9). -/
def MCsrs.reset : MCsrs :=
  { mie := false, mpie := false, mpp := .u, mtvec := 0, mepc := 0, mcause := 0, mtval := 0,
    mscratch := 0, miereg := 0, mcounteren := 0, mprv := false, tw := false, fiom := false, cycleOff := 0, instOff := 0 }

/-- Core `n` at reset (R59, R116, R312, R328). -/
def Core.reset (n : Nat) : Core :=
  { num := n, cx := Ctx.reset 0, bank := Bank.reset false, shadow := Bank.reset true,
    priv := .u, asid := 0, dpoolb0 := 0x1B800, dpoolb1 := 0x1B800, dpoolb2 := 0xE0000, dmemb := 0,
    chans := Vector.replicate 8 ⟨false, false, false, none⟩, phase := none,
    mq := [], cq := [], gq := [], parkMq := false, parkCq := false, parkGq := false, pushes := 0, locks := [],
    inbox := [], ready := [], arrivals := [], recv := Vector.replicate 16 ⟨0, false, false⟩, msgSeq := 0,
    track := [], msendBusy := false, l1 := [], fills := [], relTab := [], acks := [], tlb := [], walks := [], askNo := 0,
    swap := none, fresh := none, mwsw := false, mwFrom := 0, yev := false, spilling := none, dsave0 := 0, dsave1 := 0, cycles := 0,
    mcsr := MCsrs.reset, halts := [] }

/-- A die before training (log 20). -/
def Die.reset : Die :=
  { trained := false, failed := false, clock := 600, target := 1000, hot := 0, fastRefresh := false, sampled := none }

/-- The package at reset (R19, R82). -/
def Pkg.reset : Pkg :=
  { power := true, sl := 0, err := false, fwerr := false, online := 0, throt := 0,
    dies := Vector.replicate 24 Die.reset, absent := [], halfLinks := [], deadLinks := [], retired := [],
    serlar := none, mmode := none, walker := none, rbSerlar := 0, rbMmode := 0, rbWalker := 0, time := 0, nclk := 0 }

/-- The fabric at reset: nothing under way, every RCLK at its reset value (R34). -/
def Fab.reset : Fab :=
  { rclk := [], net := [], nodes := [], updates := [], resend := [], groups := [], doms := [], releases := [], beats := [], trips := [] }

/-- The memory system at reset (R153, R154). -/
def MemSys.reset : MemSys :=
  { slices := [], frames := [], sharers := [], heldW := [], twigTlb := [], poisonList := [] }

/-- The I/O dies at reset (R67, R81). -/
def Io.reset : Io :=
  { rings := [], winWest := 0, winEast := 0, outs := [], asked := [], peers := [], sentPkts := [], pieces := [], nextPiece := 0 }

/-- The root kernel's tables at reset. -/
def Root.reset : Root :=
  { procs := [], parts := [], images := [], finals := [], bounds := [], launches := [], nextLaunch := 0, copied := [], ckpt := none }

/-- The device right after reset (R19, R82): service level S0, no launch, memory with nothing listed (log 3), core 0
first in turn (log 1). -/
def State.reset : State :=
  { core := Core.reset 0, cores := [], mem := [], poison := [], resv := [], mons := [], pkg := Pkg.reset,
    fab := Fab.reset, ms := MemSys.reset, io := Io.reset, root := Root.reset, agenda := [], free := 0, pick := 0 }

end Sys2Proof.Machine
end

