-- ==== Sys2Proof/Machine/Bytes.lean ====
section
/-! DEFINITION. Byte order, bit fields and the elements of a vector register (R4, R6, R119): every multi-byte value is
little-endian. -/

namespace Sys2Proof.Machine

/-- The value of bytes, the first the least significant (R4). -/
def natOfBytes : List Byte → Nat
  | [] => 0
  | b :: bs => b.toNat + 256 * natOfBytes bs

/-- The `n` low bytes of a value, least significant first (R4). -/
def bytesOfNat : Nat → Nat → List Byte
  | 0, _ => []
  | n + 1, v => BitVec.ofNat 8 v :: bytesOfNat n (v / 256)

/-- Bits [hi:lo] of a number, as `lo` and a width. -/
def bits (v lo w : Nat) : Nat := v / 2 ^ lo % 2 ^ w

/-- `sext(v, n)` of R6: the low `n` bits of `v`, sign-extended to 64 bits. -/
def sextN (v n : Nat) : Word := (BitVec.ofNat n v).signExtend 64

/-- `v` read as signed on `n` bits. -/
def sintN (v n : Nat) : Int := (BitVec.ofNat n v).toInt

/-- A signed integer wrapped to 64 bits. -/
def wordOfInt (i : Int) : Word := BitVec.ofInt 64 i

/-- Element `i` of a register of elements of `w` bits (R119). -/
def elemAt (w : Nat) {n : Nat} (v : BitVec n) (i : Nat) : Nat := (v.toNat >>> (w * i)) % 2 ^ w

/-- The elements of `w` bits of the low `k * w` bits, lowest first. -/
def elemsOf (w k : Nat) {n : Nat} (v : BitVec n) : List Nat := (List.range k).map (elemAt w v)

/-- The number whose elements of `w` bits, lowest first, are given. -/
def natOfElems (w : Nat) : List Nat → Nat
  | [] => 0
  | e :: es => e % 2 ^ w + 2 ^ w * natOfElems w es

/-- A register from elements of `w` bits, lowest first; missing ones are zero. -/
def ofElems (n w : Nat) (es : List Nat) : BitVec n := BitVec.ofNat n (natOfElems w es)

/-- The 1,024-bit mask of a byte mask (R7). -/
def byteMask (m : PReg) : VReg :=
  ofElems 1024 8 ((List.range 128).map fun b => if m.getLsbD b then 255 else 0)

/-- The byte positions of `pm` take `v`, the others keep `old` (WriteV, R7). -/
def mergeV (old v : VReg) (pm : PReg) : VReg :=
  let m := byteMask pm
  (v &&& m) ||| (old &&& ~~~m)

/-- Byte `b` of a vector register. -/
def vbyte (v : VReg) (b : Nat) : Byte := BitVec.ofNat 8 (elemAt 8 v b)

/-- A vector register from its bytes; missing ones are zero. -/
def vOfBytes (bs : List Byte) : VReg := BitVec.ofNat 1024 (natOfBytes bs)

/-- The first `n` bytes of a vector register. -/
def vBytes (n : Nat) (v : VReg) : List Byte := (List.range n).map (vbyte v)

end Sys2Proof.Machine
end

