-- ==== Sys2Proof/Machine/Mem.lean ====
section
/-! DEFINITION. The device's memory as one list of cells in canonical form (log 3, log 4): addresses strictly rising
and no entry equal to what an unlisted address reads as. A cell's address is a memory key: the physical address of
device DRAM and host space (R139, R74), or the tagged offset of a pool byte or a slice scratch byte (R137). -/

namespace Sys2Proof.Machine

/-- Offset in a die at which its bark metadata begins (R139). -/
def metaOffset : Nat := 0x1FE0000000

/-- A byte of a die's bark metadata (R139, R155). -/
def isMetaKey (a : Nat) : Bool := a < 24 * 2 ^ 37 && metaOffset ≤ a % 2 ^ 37

/-- What a byte that nothing has written reads as: 0x77 in the bark metadata, as entering S3 leaves it (R155), and 0 elsewhere
(log 3). -/
def memDefault (a : Nat) : Byte := if isMetaKey a then 0x77 else 0

/-- The canonical form, `lo` being the least address the first entry may have. -/
def Memory.wfFrom (lo : Nat) : List Host.Cell → Bool
  | [] => true
  | (a, b) :: m => lo ≤ a && b != memDefault a && Memory.wfFrom (a + 1) m

/-- The canonical form of memory. -/
def Memory.wf (m : List Host.Cell) : Bool := Memory.wfFrom 0 m

/-- One byte of memory. -/
def memGet (m : List Host.Cell) (a : Nat) : Byte :=
  match m with
  | [] => memDefault a
  | (k, b) :: m => if k = a then b else if a < k then memDefault a else memGet m a

/-- One byte of memory written; writing what an unlisted address reads as removes the entry. -/
def memSet (m : List Host.Cell) (a : Nat) (v : Byte) : List Host.Cell :=
  match m with
  | [] => if v = memDefault a then [] else [(a, v)]
  | (k, b) :: m =>
    if k = a then (if v = memDefault a then m else (a, v) :: m)
    else if a < k then (if v = memDefault a then (k, b) :: m else (a, v) :: (k, b) :: m)
    else (k, b) :: memSet m a v

/-- `n` bytes of memory from an address up. -/
def memRead (m : List Host.Cell) (a n : Nat) : List Byte := (List.range n).map fun i => memGet m (a + i)

/-- Bytes written from an address up. -/
def memWrite (m : List Host.Cell) (a : Nat) : List Byte → List Host.Cell
  | [] => m
  | b :: bs => memWrite (memSet m a b) (a + 1) bs

/-- The bytes of one 128 B line written where a mask bit is set (R141). -/
def memMerge (m : List Host.Cell) (a : Nat) (bs : List Byte) (mask : BitVec 128) : List Host.Cell :=
  (List.range 128).foldl (fun m i => if mask.getLsbD i then memSet m (a + i) (bs.getD i 0) else m) m

/-- The little-endian value of `n` bytes of memory. -/
def memNat (m : List Host.Cell) (a n : Nat) : Nat := natOfBytes (memRead m a n)

/-! ### Memory keys (log 4) -/

/-- Key of a byte of a core's pool. -/
def poolKey (core off : Nat) : Nat := 2 ^ 60 + core * 2 ^ 21 + off
/-- Key of a byte of slice scratch. -/
def scratchKey (slice off : Nat) : Nat := 2 ^ 61 + slice * 2 ^ 20 + off
/-- The 128 B line of a key. -/
def lineOf (k : Nat) : Nat := k / 128
/-- Host space (R74). -/
def isHostKey (k : Nat) : Bool := 2 ^ 51 ≤ k && k < 2 ^ 52
/-- Device DRAM (R139). -/
def isDramKey (k : Nat) : Bool := k < 2 ^ 51
/-- A pool byte. -/
def isPoolKey (k : Nat) : Bool := 2 ^ 60 ≤ k && k < 2 ^ 61
/-- A slice scratch byte. -/
def isScratchKey (k : Nat) : Bool := 2 ^ 61 ≤ k

/-- Whether a physical address names host space or device DRAM (R74, R139). -/
def paExists (pa : Nat) : Bool :=
  if 2 ^ 52 ≤ pa then false
  else if pa / 2 ^ 51 % 2 = 1 then pa / 2 ^ 48 % 4 == 0
  else pa / 2 ^ 42 % 2 ^ 9 == 0 && pa / 2 ^ 37 % 32 ≤ 23

/-- The die of a device DRAM address (R139). -/
def dieOfPa (pa : Nat) : Nat := pa / 2 ^ 37 % 32

/-- Package slice index of the home slice of a device DRAM address (R24, R139). -/
def homeSlice (pa : Nat) : Nat :=
  let i := (pa / 2 ^ 7 % 256) ^^^ (pa / 2 ^ 15 % 256)
  let d := dieOfPa pa
  96 * (16 * (d / 6) + i / 16) + 16 * (d % 6) + i % 16

/-- The channel-local block of a DRAM line (R155): die and PA[36:17], then the channel. -/
def blockOf (line : Nat) : Nat :=
  let pa := line * 128
  (pa / 2 ^ 17) * 256 + ((pa / 2 ^ 7 % 256) ^^^ (pa / 2 ^ 15 % 256))

/-- The place j of a DRAM line in its block (R155): PA[16:15]. -/
def lineInBlock (line : Nat) : Nat := line * 128 / 2 ^ 15 % 4

/-- Line `j` of a block. -/
def blockLine (block j : Nat) : Nat :=
  let n := block / 256 * 4 + j
  n * 256 + (block % 256 ^^^ n % 256)

/-- Key of the metadata entry of a block (R155): 2 B each in the order of the blocks, in the channel of the block (DEDUCED, log 69). -/
def metaKey (block : Nat) : Nat :=
  let n := 4177920 + block / 256 % 2 ^ 20 / 64
  block / 2 ^ 28 * 2 ^ 37 + n * 2 ^ 15 + (block % 256 ^^^ n % 256) * 2 ^ 7 + block / 256 % 64 * 2

/-- The slice at which a key is performed (R138, R139); a pool or host byte has none. -/
def sliceOfKey (k : Nat) : Option Nat :=
  if isDramKey k then some (homeSlice k)
  else if isScratchKey k then some ((k - 2 ^ 61) / 2 ^ 20)
  else none

/-- The slice or owning pool bank at which a key is performed (R208): slices, then the cores' pools. -/
def bankOfKey (k : Nat) : Option Nat :=
  match sliceOfKey k with
  | some i => some i
  | none => if isPoolKey k then some (6144 + (k - 2 ^ 60) / 2 ^ 21) else none

/-! ### Numbers of the fabric (R24, R25) -/

/-- Twig of a core. -/
def twigOf (core : Nat) : Nat := core / 4
/-- x coordinate of a twig. -/
def twigX (t : Nat) : Nat := t % 96
/-- y coordinate of a twig. -/
def twigY (t : Nat) : Nat := t / 96
/-- Grove of a twig. -/
def groveOfTwig (t : Nat) : Nat := 12 * (twigY t / 8) + twigX t / 8
/-- Grove of a core. -/
def groveOf (core : Nat) : Nat := groveOfTwig (twigOf core)
/-- Core-in-grove index. -/
def inGrove (core : Nat) : Nat :=
  let t := twigOf core
  4 * (8 * (twigY t % 8) + twigX t % 8) + core % 4
/-- The core of a grove with a core-in-grove index. -/
def coreInGrove (g i : Nat) : Nat :=
  let t := i / 4
  4 * (96 * (8 * (g / 12) + t / 8) + 8 * (g % 12) + t % 8) + i % 4
/-- Die of a twig, as 6·dy + dx. -/
def dieOfTwig (t : Nat) : Nat := 6 * (twigY t / 16) + twigX t / 16
/-- Die of a core. -/
def dieOf (core : Nat) : Nat := dieOfTwig (twigOf core)

end Sys2Proof.Machine
end

