-- ==== Sys2Proof/Machine/Access.lean ====
section
/-! DEFINITION. The one way to every register, bank, core and slice of the state. -/

namespace Sys2Proof.Machine

/-- What a step answers. -/
abbrev Out := Host.Outcome State Fault Refusal
/-- Why an instruction does not complete. -/
inductive Brk
  /-- it raises a precise trap with a cause and a value, and changes nothing else (RaiseTrap, R7, R247) -/
  | trap (cause : BitVec 8) (tval : Word)
  /-- it waits, and starts again from its beginning (R304, R305); `t` is the state with what the wait has set going -/
  | wait (w : Wait) (t : State)
  /-- it keeps the issue slot and starts again: a store never causes a switch (R99) -/
  | stall
/-- A result, or why there is none. -/
abbrev Res (α : Type) := Except Brk α

/-! ### Updates of the parts -/

/-- Changes the core whose turn it is. -/
def modCore (f : Core → Core) (s : State) : State := { s with core := f s.core }
/-- Another context becomes the current one; minstret, a count of the core, goes on from where it stands (R279, R283). -/
def Core.withCx (x : Ctx) (c : Core) : Core :=
  { c with cx := x, mcsr := { c.mcsr with instOff := c.mcsr.instOff + c.cx.instret - x.instret } }
/-- Changes the current context. -/
def modCx (f : Ctx → Ctx) (s : State) : State := { s with core := { s.core with cx := f s.core.cx } }
/-- Changes the active bank. -/
def modBank (f : Bank → Bank) (s : State) : State := { s with core := { s.core with bank := f s.core.bank } }
/-- Changes the fabric. -/
def modFab (f : Fab → Fab) (s : State) : State := { s with fab := f s.fab }
/-- Changes the memory system. -/
def modMs (f : MemSys → MemSys) (s : State) : State := { s with ms := f s.ms }
/-- Changes the package. -/
def modPkg (f : Pkg → Pkg) (s : State) : State := { s with pkg := f s.pkg }
/-- Changes the I/O dies. -/
def modIo (f : Io → Io) (s : State) : State := { s with io := f s.io }
/-- Changes the root kernel's tables. -/
def modRoot (f : Root → Root) (s : State) : State := { s with root := f s.root }

/-! ### Registers (R7, R119) -/

/-- ReadX (R7): x0 reads 0. -/
def readX (s : State) (r : RegNo) : Word := if r = 0 then 0 else s.core.cx.x[r.toNat]'r.isLt

/-- WriteX (R7): a write to x0 is discarded. -/
def writeX (r : RegNo) (v : Word) (s : State) : State :=
  if r = 0 then s else modCx (fun c => { c with x := c.x.set r.toNat v r.isLt }) s

/-- An f register (R119). -/
def readF (s : State) (r : RegNo) : Word := s.core.cx.f[r.toNat]'r.isLt

/-- Writes an f register. -/
def writeF (r : RegNo) (v : Word) (s : State) : State :=
  modCx (fun c => { c with f := c.f.set r.toNat v r.isLt }) s

/-- ReadV (R7). -/
def readV (s : State) (r : RegNo) : VReg := s.core.cx.v[r.toNat]'r.isLt

/-- WriteV (R7): only the byte positions of the mask. -/
def writeV (r : RegNo) (v : VReg) (pm : PReg) (s : State) : State :=
  modCx (fun c => { c with v := c.v.set r.toNat (if pm = -1 then v else mergeV (c.v[r.toNat]'r.isLt) v pm) r.isLt }) s

/-- ReadP (R7): p0 reads all ones. -/
def readP (s : State) (p : PredNo) : PReg := if p = 0 then -1 else s.core.cx.p[p.toNat]'p.isLt

/-- Writes a predicate; a write to p0 is discarded (R119). -/
def writeP (p : PredNo) (v : PReg) (s : State) : State :=
  if p = 0 then s else modCx (fun c => { c with p := c.p.set p.toNat v p.isLt }) s

/-- The governing predicate: while PE = 0 every pg field names p0 (R242). -/
def governing (s : State) (p : PredNo) : PReg := if s.core.cx.pe then readP s p else -1

/-! ### Fields held per queue (R114, R125, R126, R130) -/

/-- Completion counter of a queue (R125). -/
def Bank.done (b : Bank) : Queue → Word
  | .mq => b.doneMq | .cq => b.doneCq | .gq => b.doneGq

/-- Sets a completion counter. -/
def Bank.setDone (b : Bank) (q : Queue) (v : Word) : Bank :=
  match q with
  | .mq => { b with doneMq := v } | .cq => { b with doneCq := v } | .gq => { b with doneGq := v }

/-- Last sequence value assigned in a queue (R123). -/
def Bank.seq (b : Bank) : Queue → Word
  | .mq => b.seqMq | .cq => b.seqCq | .gq => b.seqGq

/-- Sets the last sequence value assigned. -/
def Bank.setSeq (b : Bank) (q : Queue) (v : Word) : Bank :=
  match q with
  | .mq => { b with seqMq := v } | .cq => { b with seqCq := v } | .gq => { b with seqGq := v }

/-- Loop registers of a queue (R126). -/
def Bank.loops (b : Bank) : Queue → Vector W32 8
  | .mq => b.loopMq | .cq => b.loopCq | .gq => b.loopGq

/-- A loop register; l0 reads 1 (R126). -/
def Bank.loop (b : Bank) (q : Queue) (l : BitVec 3) : W32 := if l = 0 then 1 else (b.loops q)[l.toNat]'l.isLt

/-- Writes a loop register; a write to l0 is ignored (R126). -/
def Bank.setLoop (b : Bank) (q : Queue) (l : BitVec 3) (v : W32) : Bank :=
  if l = 0 then b else
  match q with
  | .mq => { b with loopMq := b.loopMq.set l.toNat v l.isLt }
  | .cq => { b with loopCq := b.loopCq.set l.toNat v l.isLt }
  | .gq => { b with loopGq := b.loopGq.set l.toNat v l.isLt }

/-- Release set of a queue (R130). -/
def Bank.rel (b : Bank) : Queue → List (BitVec 8 × Bool)
  | .mq => b.relMq | .cq => b.relCq | .gq => b.relGq

/-- Sets a release set. -/
def Bank.setRel (b : Bank) (q : Queue) (v : List (BitVec 8 × Bool)) : Bank :=
  match q with
  | .mq => { b with relMq := v } | .cq => { b with relCq := v } | .gq => { b with relGq := v }

/-- The entries of a queue, oldest first (R123). -/
def Core.queue (c : Core) : Queue → List Entry
  | .mq => c.mq | .cq => c.cq | .gq => c.gq

/-- Sets the entries of a queue. -/
def Core.setQueue (c : Core) (q : Queue) (v : List Entry) : Core :=
  match q with
  | .mq => { c with mq := v } | .cq => { c with cq := v } | .gq => { c with gq := v }

/-- Whether a queue is parked (R128). -/
def Core.parked (c : Core) : Queue → Bool
  | .mq => c.parkMq | .cq => c.parkCq | .gq => c.parkGq

/-- Parks or unparks a queue. -/
def Core.setParked (c : Core) (q : Queue) (v : Bool) : Core :=
  match q with
  | .mq => { c with parkMq := v } | .cq => { c with parkCq := v } | .gq => { c with parkGq := v }

/-! ### Banks and contexts of a core -/

/-- The bank with a number. -/
def Core.bankOf (c : Core) (b : Bool) : Bank := if c.bank.num = b then c.bank else c.shadow

/-- Changes the bank with a number. -/
def Core.modBankOf (b : Bool) (f : Bank → Bank) (c : Core) : Core :=
  if c.bank.num = b then { c with bank := f c.bank } else { c with shadow := f c.shadow }

/-- A context put in its place by id. -/
def insertCtx (x : Ctx) : List Ctx → List Ctx
  | [] => [x]
  | y :: ys => if x.id < y.id then x :: y :: ys else if x.id = y.id then x :: ys else y :: insertCtx x ys

/-- Every context of a bank that has a slot, the current one of the active bank among them. -/
def Core.ctxsOf (c : Core) (b : Bool) : List Ctx :=
  if c.bank.num = b then insertCtx c.cx c.bank.ctxs else c.shadow.ctxs

/-- A context by bank and id. -/
def Core.ctx? (c : Core) (b : Bool) (id : Nat) : Option Ctx := (c.ctxsOf b).find? fun x => x.id == id

/-- Changes a context by bank and id. -/
def Core.modCtx (b : Bool) (id : Nat) (f : Ctx → Ctx) (c : Core) : Core :=
  let g := fun (x : Ctx) => if x.id = id then f x else x
  if c.bank.num = b then
    if c.cx.id = id then { c with cx := f c.cx } else { c with bank := { c.bank with ctxs := c.bank.ctxs.map g } }
  else { c with shadow := { c.shadow with ctxs := c.shadow.ctxs.map g } }

/-- Changes every context of both banks, given the bank's number. -/
def Core.mapCtxs (f : Bool → Ctx → Ctx) (c : Core) : Core :=
  { c with cx := f c.bank.num c.cx, bank := { c.bank with ctxs := c.bank.ctxs.map (f c.bank.num) },
           shadow := { c.shadow with ctxs := c.shadow.ctxs.map (f c.shadow.num) } }

/-- Live contexts (R111). -/
def Ctx.live (c : Ctx) : Bool := c.st != .free

/-! ### Other cores -/

/-- A core put in its place by number. -/
def insertCore (c : Core) : List Core → List Core
  | [] => [c]
  | d :: ds => if c.num < d.num then c :: d :: ds else if c.num = d.num then c :: ds else d :: insertCore c ds

/-- The core with a number; one that nothing has touched is as reset left it. -/
def getCore (s : State) (n : Nat) : Core :=
  if s.core.num = n then s.core else (s.cores.find? fun c => c.num == n).getD (Core.reset n)

/-- Changes the core with a number. -/
def modCoreAt (n : Nat) (f : Core → Core) (s : State) : State :=
  if s.core.num = n then { s with core := f s.core } else { s with cores := insertCore (f (getCore s n)) s.cores }

/-- Changes every core that differs from one at reset. -/
def mapCores (f : Core → Core) (s : State) : State := { s with core := f s.core, cores := s.cores.map f }

/-- Gives a core the turn. -/
def turnTo (n : Nat) (s : State) : State :=
  if s.core.num = n then s
  else { s with core := getCore s n, cores := insertCore s.core (s.cores.filter fun c => c.num != n) }

/-- A step made on another core, after which the turn comes back. -/
def atCore (n : Nat) (f : State → State) (s : State) : State := turnTo s.core.num (f (turnTo n s))

/-- Core present: not absent in the populated-core map, and its die not marked failed (R14, R21). -/
def present (s : State) (n : Nat) : Bool :=
  n < Config.cores && !s.pkg.absent.contains n && !(s.pkg.dies[dieOf n]?.map (·.failed)).getD false

/-! ### Waits that end -/

/-- Ends the waits of a core that `p` picks, given the bank and the context id. -/
def wakeCore (p : Bool → Nat → Wait → Bool) (c : Core) : Core :=
  c.mapCtxs fun b x =>
    match x.st with
    | .waiting w => if p b x.id w then { x with st := .ready } else x
    | _ => x

/-- Ends waits of the core whose turn it is. -/
def wake (p : Bool → Nat → Wait → Bool) (s : State) : State := modCore (wakeCore p) s

/-- Ends waits on every core. -/
def wakeAll (p : Wait → Bool) (s : State) : State := mapCores (wakeCore fun _ _ w => p w) s

/-- A wait for stores to have been performed or recorded. -/
def Wait.forStores : Wait → Bool
  | .stores | .delivery _ => true
  | _ => false

/-- Contexts of a core that wait for its stores test again (R62, R250). -/
def wakeStores (n : Nat) (s : State) : State := modCoreAt n (wakeCore fun _ _ w => w.forStores) s

/-! ### Packets (R27, R28) -/

/-- A packet enters the mesh (R27). -/
def inject (p : Packet) (s : State) : State := modFab (fun f => { f with net := f.net ++ [p] }) s

/-- A request whose whole journey lies in the move under way: its class, and the routers it goes between (log 88). -/
def visit (cls : TClass) (src dst : Nat) (s : State) : State := modFab (fun f => { f with trips := f.trips ++ [(cls, src, dst)] }) s

/-- Whether a packet is a write of a core on its way to a slice or an owning bank (R208). -/
def isWriteOf (n : Nat) (p : Packet) : Bool :=
  match p.body with
  | .write c _ => c == n
  | _ => false

/-- The writes of a core on their way, in the order in which they left (R27). -/
def writesOf (s : State) (n : Nat) : List WriteBack :=
  s.fab.net.filterMap fun p => match p.body with
    | .write c w => if c = n then some w else none
    | _ => none

/-- Some write of a core is under way, or its acknowledgment (R210, R318). -/
def writesOut (s : State) (n : Nat) : Bool :=
  s.fab.net.any fun p => match p.body with
    | .write c _ | .wrote c => c == n
    | _ => false

/-! ### Slices -/

/-- A slice that nothing has touched. -/
def sliceReset (n : Nat) : Slice :=
  { num := n, lines := [], reqs := [], misses := [], dir := [], flushes := [], cnt := ⟨0, 0, 0, 0, 0⟩ }

/-- The slice with a number. -/
def getSlice (s : State) (n : Nat) : Slice := (s.ms.slices.find? fun x => x.num == n).getD (sliceReset n)

/-- A slice put in its place by number. -/
def insertSlice (x : Slice) : List Slice → List Slice
  | [] => [x]
  | y :: ys => if x.num < y.num then x :: y :: ys else if x.num = y.num then x :: ys else y :: insertSlice x ys

/-- Changes the slice with a number. -/
def modSlice (n : Nat) (f : Slice → Slice) (s : State) : State :=
  modMs (fun m => { m with slices := insertSlice (f (getSlice s n)) m.slices }) s

/-! ### Retiring an instruction (R98, R248, R283) -/

/-- 32-bit saturating increment (R248). -/
def satInc32 (v : W32) : W32 := if v = -1 then v else v + 1

/-- A record counts one retired instruction until its count has been taken (R248). -/
def Rec.tick (r : Rec) : Rec := if r.fixed then r else { r with icount := satInc32 r.icount }

/-- The records that a late store may make count as well (R248). -/
def Late.tick (l : Late) : Late :=
  { bad := l.bad.map fun x => (x.1, x.2.tick), host := l.host.map fun e => { e with fail := e.fail.tick } }

/-- An instruction of the context retires: instret and the counts of its records rise (R248, R283). -/
def Ctx.retire (c : Ctx) : Ctx :=
  { c with instret := c.instret + 1, ans := none, got := [], recs := c.recs.map Rec.tick,
           late := c.late.map Late.tick }

/-- The instruction retires and the next one follows it. -/
def adv (s : State) : State := modCx (fun c => { c.retire with pc := c.pc + 4 }) s

/-- The instruction retires and `t` follows. -/
def jumpTo (t : Word) (s : State) : State := modCx (fun c => { c.retire with pc := t }) s

/-! ### Free values (log 12) -/

/-- A fresh free doubleword, and the state whose counter has moved on. -/
def freeW (s : State) : Word × State := (Config.freeWord s.free, { s with free := s.free + 1 })

/-- Fresh free bytes, and the state whose counter has moved on. -/
def freeBytes (n : Nat) (s : State) : List Byte × State :=
  ((List.range n).map fun i => Config.freeByte (s.free + i), { s with free := s.free + n })

end Sys2Proof.Machine
end

