-- ==== Sys2Proof/Machine/Bark.lean ====
section
/-! DEFINITION. Bark coding (R146, R147): the code of a line, its sectors, its stored bytes, and their decoding. -/

namespace Sys2Proof.Machine

/-- Little-endian groups of `w` bytes of a line. -/
def lineWords (w : Nat) (bs : List Byte) : List Nat :=
  (List.range (128 / w)).map fun i => natOfBytes ((bs.drop (w * i)).take w)

/-- Every delta from the first of values of `w` bits, read as signed, fits `k` bits. -/
def deltasFit (w k : Nat) (ws : List Nat) : Bool :=
  let b := ws.getD 0 0
  ws.all fun x =>
    let d := (BitVec.ofInt w ((x : Int) - b)).toInt
    decide (-(2 ^ (k - 1) : Int) ≤ d ∧ d < 2 ^ (k - 1))

/-- Sectors of a ZR line with `nz` nonzero words; none where ZR does not apply (R146). -/
def zrSectors (nz : Nat) : Option Nat :=
  if nz ≤ 7 then some 1 else if nz ≤ 15 then some 2 else if nz ≤ 23 then some 3 else none

/-- The codes that apply to a line, in the order of R147, with their sectors (R146). -/
def barkForms (bs : List Byte) : List (Nat × Nat) :=
  let w := lineWords 4 bs
  let d := lineWords 8 bs
  let nz := (w.filter fun x => x != 0).length
  let on := fun (b : Bool) (x : Nat × Nat) => if b then [x] else []
  on (nz == 0) (0, 0) ++ on (d.all fun x => x == d.getD 0 0) (1, 1) ++ on (deltasFit 64 8 d) (2, 1)
    ++ ((zrSectors nz).map fun n => (3, n)).toList ++ on (deltasFit 32 8 w) (4, 2) ++ on (deltasFit 64 16 d) (5, 2)
    ++ on (deltasFit 32 16 w) (6, 3) ++ [(7, 4)]

/-- The applicable code with the fewest sectors, ties to the first (R147). -/
def barkCode (bs : List Byte) : Nat × Nat :=
  (barkForms bs).foldl (fun b x => if x.2 < b.2 then x else b) (7, 5)

/-- The stored bytes of a line in a code, without the zeros that fill its sectors (R146). -/
def barkStored (code : Nat) (bs : List Byte) : List Byte :=
  let w := lineWords 4 bs
  let d := lineWords 8 bs
  let rel := fun (k : Nat) (ws : List Nat) (m : Nat) =>
    (ws.drop 1).flatMap fun x => bytesOfNat k ((x + m - ws.getD 0 0) % m)
  match code with
  | 1 => bytesOfNat 8 (d.getD 0 0)
  | 2 => bytesOfNat 8 (d.getD 0 0) ++ rel 1 d (2 ^ 64)
  | 3 =>
    let map := (List.range 32).foldl (fun a i => if w.getD i 0 != 0 then a + 2 ^ i else a) 0
    bytesOfNat 4 map ++ (w.filter fun x => x != 0).flatMap (bytesOfNat 4)
  | 4 => bytesOfNat 4 (w.getD 0 0) ++ rel 1 w (2 ^ 32)
  | 5 => bytesOfNat 8 (d.getD 0 0) ++ rel 2 d (2 ^ 64)
  | 6 => bytesOfNat 4 (w.getD 0 0) ++ rel 2 w (2 ^ 32)
  | 7 => bs
  | _ => []

/-- A line in bark form: its code, and its stored bytes filled to whole sectors (R146). -/
def barkEncode (bs : List Byte) : Nat × List Byte :=
  let c := barkCode bs
  let st := barkStored c.1 bs
  (c.1, st ++ List.replicate (32 * c.2 - st.length) 0)

/-- Sectors that stored bytes occupy in a code; none where the code is invalid (R147). -/
def barkSectors (code : Nat) (st : List Byte) : Option Nat :=
  match code with
  | 0 | 15 => some 0
  | 1 | 2 => some 1
  | 3 => zrSectors (((List.range 32).filter fun i => (natOfBytes (st.take 4)).testBit i).length)
  | 4 | 5 => some 2
  | 6 => some 3
  | 7 => some 4
  | _ => none

/-- Words of a ZR line, from its map and its nonzero words. -/
def zrWords (map : Nat) : (i n : Nat) → List Nat → List Nat
  | _, 0, _ => []
  | i, n + 1, ws =>
    if map.testBit i then ws.getD 0 0 :: zrWords map (i + 1) n (ws.drop 1) else 0 :: zrWords map (i + 1) n ws

/-- A base of `w` bytes and signed deltas of `k` bytes. -/
def fromDeltas (w k n : Nat) (st : List Byte) : List Byte :=
  let b := natOfBytes (st.take w)
  let ds := (List.range (n - 1)).map fun i => sintN (natOfBytes ((st.drop (w + k * i)).take k)) (8 * k)
  bytesOfNat w b ++ ds.flatMap fun d => bytesOfNat w (BitVec.ofInt (8 * w) (b + d)).toNat

/-- The 128 bytes of a line from its code and stored bytes; none is POISON (R146, R147). -/
def barkDecode (code : Nat) (st : List Byte) : Option (List Byte) :=
  match code with
  | 0 => some (List.replicate 128 0)
  | 1 => some ((List.range 16).flatMap fun _ => bytesOfNat 8 (natOfBytes (st.take 8)))
  | 2 => some (fromDeltas 8 1 16 st)
  | 3 =>
    let map := natOfBytes (st.take 4)
    let ws := (List.range 23).map fun i => natOfBytes ((st.drop (4 + 4 * i)).take 4)
    some ((zrWords map 0 32 ws).flatMap (bytesOfNat 4))
  | 4 => some (fromDeltas 4 1 32 st)
  | 5 => some (fromDeltas 8 2 16 st)
  | 6 => some (fromDeltas 4 2 32 st)
  | 7 => some (st.take 128)
  | _ => none

/-- One 512 B block as the raw-bark transfer writes it (R86): its metadata, then the sectors in use; `poison` says which
lines are POISON, `plain` which are stored RAW whatever they hold (R155). -/
def rawBlock (bs : List Byte) (poison plain : Nat → Bool) : List Byte :=
  let ls := (List.range 4).map fun j =>
    let l := (bs.drop (128 * j)).take 128
    if poison j then (15, []) else if plain j then (7, l) else barkEncode l
  bytesOfNat 2 (natOfElems 4 (ls.map (·.1))) ++ ls.flatMap (·.2)

/-- A line read from a raw-bark stream: none is POISON. -/
abbrev RawLine := Option (List Byte)

/-- Lines of a block from a raw-bark stream: the lines, whether all were valid, and the rest (R147, R389). -/
def rawLines : (codes : List Nat) → List Byte → List RawLine × Bool × List Byte
  | [], st => ([], true, st)
  | c :: cs, st =>
    match barkSectors c st with
    | none =>
      let r := rawLines cs st
      (none :: r.1, false, r.2.2)
    | some n =>
      let r := rawLines cs (st.drop (32 * n))
      (barkDecode c (st.take (32 * n)) :: r.1, r.2.1 && decide (32 * n ≤ st.length), r.2.2)

/-- `n` blocks of a raw-bark stream. -/
def rawBlocks : (n : Nat) → List Byte → List RawLine × Bool
  | 0, _ => ([], true)
  | n + 1, st =>
    let m := natOfBytes (st.take 2)
    let r := rawLines ((List.range 4).map fun j => bits m (4 * j) 4) (st.drop 2)
    let q := rawBlocks n r.2.2
    (r.1 ++ q.1, r.2.1 && q.2 && decide (2 ≤ st.length))

end Sys2Proof.Machine
end

