-- ==== Sys2Proof/Machine/Perform.lean ====
section
/-! DEFINITION. Performing a write at its place: the home slice of a DRAM line, the owning pool bank, the slice's SRAM
or the host (R139, R149, R154, R157, R281, R314); the lines of the slices, and the requests that they see (R148 to R151, R154). -/

namespace Sys2Proof.Machine

/-! ### Partitions and slice scratch (R36, R138) -/

/-- The partition that owns a grove (R36). -/
def partOfGrove (s : State) (g : Nat) : Option Part := s.root.parts.find? fun p => p.groves.getLsbD g

/-- Configured scratch bytes of a slice (R138). -/
def scratchSize (s : State) (slice : Nat) : Nat :=
  match partOfGrove s (groveOfTwig slice) with
  | none => 0
  | some p => ((p.scratch.find? fun x => x.1 == slice).map (·.2)).getD 0

/-- Sectors of every set that hold lines (R138). -/
def setSectors (s : State) (slice : Nat) : Nat := 128 - scratchSize s slice / 16384

/-! ### Replicas and held writes (R154) -/

/-- The frame of a number, as it stands. -/
def frameOf (s : State) (n : Nat) : Frame := (s.ms.frames.find? fun f => f.num == n).getD ⟨n, none, false, 0, 0⟩

/-- Changes the frame of a number. -/
def modFrame (n : Nat) (f : Frame → Frame) (s : State) : State :=
  modMs (fun m => { m with frames := f (frameOf s n) :: m.frames.filter fun x => x.num != n }) s

/-- The REPL mode of the 64 KiB frame of a line (R154). -/
def isRepl (s : State) (line : Nat) : Bool := s.ms.frames.any fun f => f.num == line / 512 && f.repl

/-- The dies that hold a replica of a line (R154). -/
def sharersOf (s : State) (line : Nat) : List Nat :=
  ((s.ms.sharers.find? fun x => x.line == line).map (·.dies)).getD []

/-- Whether two lines are performed at one slice or owning bank (R208). -/
def sameSlice (a b : Nat) : Bool := a == b || ((bankOfKey (a * 128)).isSome && bankOfKey (a * 128) == bankOfKey (b * 128))

/-- Some write is held at the line's slice (R154): a later access of the line stands behind it (R208). -/
def writeHeld (s : State) (line : Nat) : Bool := s.ms.heldW.any fun h => sameSlice h.line line

/-- A write to the line waits for replicas, or stands behind one that does (R154). -/
def lineHeld (s : State) (line : Nat) : Bool := !(sharersOf s line).isEmpty || writeHeld s line

/-- A die recorded as a sharer of a line (R154); a read that stands behind a held write makes no replica yet. -/
def addSharer (line die : Nat) (s : State) : State :=
  let ds := sharersOf s line
  if ds.contains die || writeHeld s line then s
  else modMs (fun m => { m with sharers := ⟨line, ds ++ [die]⟩ :: m.sharers.filter (fun x => x.line != line) }) s

/-- The slice of the same local index on another die (R24, R154). -/
def replicaSlice (slice die : Nat) : Nat := 96 * (16 * (die / 6) + twigY slice % 16) + 16 * (die % 6) + twigX slice % 16

/-- The slice that serves a read of a DRAM line for a core: a replica's slice for a REPL frame of another die (R154). -/
def readSliceFor (s : State) (core line : Nat) : Nat :=
  let home := homeSlice (line * 128)
  if isRepl s line && dieOfPa (line * 128) != dieOf core then replicaSlice home (dieOf core) else home

/-- The slice that serves a read of a DRAM line for the core. -/
def readSlice (s : State) (line : Nat) : Nat := readSliceFor s s.core.num line

/-- A read from a REPL frame on another die is served by a replica, and the home slice records the die (R154). -/
def shareRead (line : Nat) (s : State) : State :=
  let d := dieOf s.core.num
  if isRepl s line && dieOfPa (line * 128) != d then addSharer line d s else s

/-- A read or write that reaches a line's home die from another die counts for its frame (R154); `die` is where it comes from, 24 for
an I/O die. -/
def countFrame (line die : Nat) (write : Bool) (s : State) : State :=
  if die = dieOfPa (line * 128) then s
  else modFrame (line / 512) (fun f => if write then { f with writes := f.writes + 1 } else { f with reads := f.reads + 1 }) s

/-! ### Bark metadata (R155, R158) -/

/-- The bark metadata of a block (R155), 2 B of the metadata region. -/
def metaOf (s : State) (block : Nat) : Nat := memNat s.mem (metaKey block) 2

/-- Sets the metadata of a block. -/
def setMeta (block v : Nat) (s : State) : State := { s with mem := memWrite s.mem (metaKey block) (bytesOfNat 2 v) }

/-- Whether a block is listed (R158). -/
def listed (s : State) (block : Nat) : Bool := s.ms.poisonList.any fun e => e.block == block

/-- A block's metadata with a code at place `j`. -/
def withCode (v j code : Nat) : Nat := v + code * 16 ^ j - v / 16 ^ j % 16 * 16 ^ j

/-- The metadata of the block of a line in a bark page takes the line's code; below S3 there is none, and a line of a listed block is
RAW (R20, R155, R158). -/
def noteCode (line code : Nat) (s : State) : State :=
  if s.pkg.sl != 3 then s
  else
    let b := blockOf line
    setMeta b (withCode (metaOf s b) (lineInBlock line) (if listed s b then 7 else code)) s

/-- Lines that become POISON (R157); one that a slice holds has code 0xF and no sectors there (R146). -/
def poisonLines (ls : List Nat) (s : State) : State :=
  let hurt := fun (x : Slice) => { x with lines := x.lines.map fun y => if ls.contains y.line then { y with code := 15, sectors := 0 } else y }
  { s with poison := ls.foldl (fun p l => if p.contains l then p else l :: p) s.poison
           ms := { s.ms with slices := s.ms.slices.map hurt } }

/-- A resident line. -/
def resident (x : Slice) (line : Nat) : Option L2Line := x.lines.find? fun y => y.line == line

/-- Whether a line stands in its home slice. -/
def inHomeSlice (s : State) (line : Nat) : Bool := (resident (getSlice s (homeSlice (line * 128))) line).isSome

/-- The other blocks of a block's metadata sector: 16 entries of 2 B of one channel (R155). -/
def sectorBlocks (block : Nat) : List Nat :=
  let n := block / 256 / 16 * 16
  ((List.range 16).map fun i => (n + i) * 256 + block % 256).filter fun b => b != block

/-- A block's metadata sector is written whole, with 0xFFFF for every other unlisted entry: their lines that no slice holds
are POISON (R158). -/
def loseSector (block : Nat) (s : State) : State :=
  let lost := (sectorBlocks block).filter fun b => !listed s b
  let s := lost.foldl (fun s b => setMeta b 0xFFFF s) s
  poisonLines ((lost.flatMap fun b => (List.range 4).map (blockLine b)).filter fun l => !inHomeSlice s l) s

/-- Line `j` of a listed block is written whole; a block whose four lines are written leaves the list (R158). -/
def markWritten (line : Nat) (s : State) : State :=
  let mark := fun (e : PoisonEnt) => if e.block = blockOf line then { e with written := e.written ||| (1#4 <<< lineInBlock line) } else e
  let list := s.ms.poisonList.map mark
  let t := modMs (fun m => { m with poisonList := list.filter (fun e => e.written != 15) }) s
  if list.any fun e => e.block == blockOf line && e.written == 15 then loseSector (blockOf line) (setMeta (blockOf line) 0x7777 t) else t

/-! ### Sets of a slice (R148, R149) -/

/-- The placing of an access without a hint (R145). -/
def Placing.dflt : Placing := ⟨true, false, false, false⟩

/-- A line's code and sectors as it stands (R147, R157). -/
def lineCode (s : State) (line : Nat) : Nat × Nat :=
  if s.poison.contains line then (15, 0) else barkCode (memRead s.mem (line * 128) 128)

/-- The bytes of a line as memory holds them. -/
def lineNow (s : State) (line : Nat) : BitVec 1024 := BitVec.ofNat 1024 (memNat s.mem (line * 128) 128)

/-- The set of a line (R148). -/
def setOf (line : Nat) : Nat := (line * 128 / 2 ^ 15 % 512) ^^^ (line * 128 / 2 ^ 24 % 512)

/-- Whether a line may be a victim (R148): no open miss register, no write in progress, not the line itself. -/
def mayEvict (x : Slice) (line : Nat) (y : L2Line) : Bool :=
  y.line != line && !y.wr && !(x.misses.any fun m => m.line == y.line)

/-- The victim in the set of a line: ONCE lines first, least recently used first (R148). -/
def victim (x : Slice) (line : Nat) : Option L2Line :=
  let set := (x.lines.filter fun y => setOf y.line == setOf line && mayEvict x line y).reverse
  match set.find? (·.once) with
  | some y => some y
  | none => set.head?

/-- Whether the set of a line has a tag and sectors for it. -/
def fitsSet (x : Slice) (line sectors cap : Nat) : Bool :=
  let set := x.lines.filter fun y => setOf y.line == setOf line && y.line != line
  set.length < 128 && (set.map (·.sectors)).foldl (· + ·) 0 + sectors ≤ cap

/-- Victims evicted until a line fits: the slice and their number; none where every candidate is excluded (R148). -/
def makeRoom (line sectors cap : Nat) : (fuel : Nat) → Slice → Nat → Option (Slice × Nat)
  | 0, x, n => if fitsSet x line sectors cap then some (x, n) else none
  | fuel + 1, x, n =>
    if fitsSet x line sectors cap then some (x, n)
    else match victim x line with
      | none => none
      | some v => makeRoom line sectors cap fuel { x with lines := x.lines.filter fun y => y.line != v.line } (n + 1)

/-- A line that stays at its place in the order of use. -/
def keepPlace (y : L2Line) (x : Slice) : Slice := { x with lines := x.lines.map fun z => if z.line = y.line then y else z }

/-- A line at the place of most recent use. -/
def toFront (y : L2Line) (x : Slice) : Slice := { x with lines := y :: x.lines.filter fun z => z.line != y.line }

/-- Lines that leave a slice. One of a bark page that is POISON leaves code 0xF in its block's metadata (R157). Of a listed block, a
dirty one is written whole to its channel, and a clean one that has not been written there reads as POISON from then on (R158). -/
def leaveSlice (x y : Slice) (s : State) : State :=
  let gone := x.lines.filter fun l => !(y.lines.any fun m => m.line == l.line)
  gone.foldl (fun s l =>
    let s := if l.bark && l.code = 15 && x.num = homeSlice (l.line * 128) then noteCode l.line 15 s else s
    match s.ms.poisonList.find? fun e => e.block == blockOf l.line with
    | none => s
    | some e =>
      if x.num != homeSlice (l.line * 128) then s
      else if l.dirty then markWritten l.line s
      else if e.written.getLsbD (lineInBlock l.line) then s else poisonLines [l.line] s) s

/-- A slice as it stands after serving something. -/
def setSlice (x y : Slice) (s : State) : State := leaveSlice x y (modSlice x.num (fun _ => y) s)

/-- Marks a move that cannot take place, since a write of it must wait at its slice for sectors, a victim or a miss register (R148, R149,
R151, log 88). -/
def noRoom : TClass × Nat × Nat := (.req, 6146, 6146)

/-- The move under way waits. -/
def waitRoom (s : State) : State := modFab (fun f => { f with trips := f.trips ++ [noRoom] }) s

/-! ### Fills (R148, R150, R151, R153) -/

/-- A request answered with the line as it stands at the slice (R151). -/
def answer (slice line : Nat) (who : Asker) (s : State) : State :=
  inject ⟨.rsp, slice, twigOf who.core, .reply who (some (line, lineNow s line))⟩ s

/-- A fetched line installed, in the ONCE class where every request asked for it so (R148, R150, R153). A replica that has been
invalidated meanwhile is not installed (R154). -/
def installLine (s : State) (slice : Nat) (x : Slice) (m : Miss) : Option Slice :=
  let x := { x with misses := x.misses.filter fun n => n.line != m.line }
  let c := lineCode s m.line
  let cnt := if m.attached ≥ 2 then { x.cnt with mcast := x.cnt.mcast + 1 } else x.cnt
  if slice != homeSlice (m.line * 128) && !(sharersOf s m.line).contains (dieOfTwig slice) then some { x with cnt := cnt }
  else match makeRoom m.line c.2 (setSectors s slice) 128 x 0 with
    | none => none
    | some (x, _) =>
      let cnt := if c.1 = 7 then cnt else { cnt with fillcmp := cnt.fillcmp + 1 }
      let was := resident x m.line
      let y : L2Line := ⟨m.line, c.1, c.2, m.once && (was.map (·.once)).getD true, (was.map (·.dirty)).getD false, m.bark, m.closed⟩
      let rest := x.lines.filter fun z => z.line != m.line
      some { x with lines := if m.lru then rest ++ [y] else y :: rest, cnt := cnt }

/-- The line of a miss register arrives: it is installed, and one multicast reply answers every attached request (R151). -/
def fillMiss (slice : Nat) (m : Miss) (s : State) : Option State :=
  let x := getSlice s slice
  (installLine s slice x m).map fun y => m.who.foldl (fun s w => answer slice m.line w s) (setSlice x y s)

/-- A line that a write finds in no slice is fetched to its home slice before the write performs (R149, R151); where it cannot be, the
move waits. -/
def fetchNow (line : Nat) (how : Placing) (s : State) : State :=
  if !isDramKey (line * 128) || !how.held || inHomeSlice s line then s
  else
    let home := homeSlice (line * 128)
    let x := getSlice s home
    match x.misses.find? fun m => m.line == line with
    | some m => (fillMiss home { m with once := m.once && how.once } s).getD (waitRoom s)
    | none => if 32 ≤ x.misses.length then waitRoom s
        else (fillMiss home ⟨line, s.pkg.time, 0, false, how.once, how.lru, how.bark, []⟩ s).getD (waitRoom s)

/-! ### Writes performed (R147, R149, R150, R157, R158, R281, R314) -/

/-- What a write at a line ends and wakes: reservations of the granule (R281) and monitors of the line (R314). -/
def disturb (line : Nat) (s : State) : State :=
  { s with resv := s.resv.filter (fun r => r.line != line),
           mons := s.mons.map (fun m => if m.line = line then { m with hit := true } else m) }

/-- A line written whole: its poison clears (R157). -/
def wholeLine (line : Nat) (s : State) : State :=
  let t := { s with poison := s.poison.filter (fun l => l != line) }
  if isDramKey (line * 128) then markWritten line t else t

/-- A line that a write changes takes its new code: it grows only as sectors allow, after victims have left, and each growth counts
(R147, R149, R153); without them the move waits. A write hit moves a ONCE line to the normal class; the write that fetched the line leaves it in its class (R150). -/
def recode (line : Nat) (how : Placing) (fetched : Bool) (s : State) : State :=
  let home := homeSlice (line * 128)
  let x := getSlice s home
  match resident x line with
  | none => s
  | some y =>
    let c := lineCode s line
    let grows := y.sectors < c.2
    match (if grows then makeRoom line c.2 (setSectors s home) 128 x 0 else some (x, 0)) with
    | none => waitRoom s
    | some (z, n) =>
      let y := { y with code := c.1, sectors := c.2, dirty := true, once := (y.wr || fetched) && y.once && how.once, wr := false }
      let cnt := if grows then { z.cnt with wexp := z.cnt.wexp + 1, expevict := z.cnt.expevict + BitVec.ofNat 64 n } else z.cnt
      setSlice x { (if how.lru then keepPlace y z else toFront y z) with cnt := cnt } s

/-- A write of one line performed: `f` is what it does to memory, `die` where it comes from. -/
def writeLine (how : Placing) (die line : Nat) (whole : Bool) (f : List Host.Cell → List Host.Cell) (s : State) : State :=
  let there := inHomeSlice s line
  let s := fetchNow line how s
  let t := disturb line { s with mem := f s.mem }
  let t := if whole then wholeLine line t else t
  if !isDramKey (line * 128) then t
  else
    let t := countFrame line die true t
    let t := if how.bark then noteCode line (lineCode t line).1 t else t
    recode line how (!there) t

/-- Bytes of one line performed at their place, from a die. -/
def performFrom (how : Placing) (die k : Nat) (bs : List Byte) (s : State) : State :=
  writeLine how die (lineOf k) (bs.length = 128) (fun m => memWrite m k bs) s

/-- Bytes of one line performed at their place. -/
def performNow (how : Placing) (k : Nat) (bs : List Byte) (s : State) : State := performFrom how (dieOf s.core.num) k bs s

/-- Whether a write of part of a line finds POISON at its home: it is dropped (R157). -/
def mergeBad (s : State) (line : Nat) (mask : BitVec 128) : Bool := s.poison.contains line && mask != -1

/-- Bytes of one line performed where a mask bit is set, from a core's die (R141). -/
def mergeNow (core line : Nat) (data : BitVec 1024) (mask : BitVec 128) (how : Placing) (s : State) : State :=
  if mask = 0 || mergeBad s line mask then s
  else writeLine how (dieOf core) line (mask = -1) (fun m => memMerge m (line * 128) (vBytes 128 data) mask) s

/-- The mask of `n` bytes from byte `off` of a line. -/
def spanMask (off n : Nat) : BitVec 128 := BitVec.ofNat 128 ((2 ^ n - 1) * 2 ^ off)

/-- Bytes from a key up, at their place in the line. -/
def lineData (k : Nat) (bs : List Byte) : BitVec 1024 := BitVec.ofNat 1024 (natOfBytes bs * 256 ^ (k % 128))

/-- A write held until every replica of its line is invalidated (R154). -/
def holdWrite (core line : Nat) (data : BitVec 1024) (mask : BitVec 128) (how : Placing) (who : Option StoreOf) (s : State) : State :=
  modMs (fun m => { m with heldW := m.heldW ++ [⟨core, line, data, mask, how, sharersOf s line, who⟩] }) s

/-- Bytes of one line written: performed, or held until every replica is invalidated (R154). -/
def performChunk (how : Placing) (k : Nat) (bs : List Byte) (s : State) : State :=
  if lineHeld s (lineOf k) then holdWrite s.core.num (lineOf k) (lineData k bs) (spanMask (k % 128) bs.length) how none s
  else performNow how k bs s

/-- Bytes cut at the bounds of 128 B lines, with `fuel` at least their number. -/
def chunksF : (fuel k : Nat) → List Byte → List (Nat × List Byte)
  | 0, _, _ => []
  | _ + 1, _, [] => []
  | fuel + 1, k, b :: bs =>
    let n := 128 - k % 128
    (k, (b :: bs).take n) :: chunksF fuel (k + n) ((b :: bs).drop n)

/-- A write performed at its place, with the placing of its lines. -/
def performHow (how : Placing) (k : Nat) (bs : List Byte) (s : State) : State :=
  (chunksF bs.length k bs).foldl (fun s c => performChunk how c.1 c.2 s) s

/-- A write performed at its place. -/
def perform (k : Nat) (bs : List Byte) (s : State) : State := performHow Placing.dflt k bs s

/-- A write-back or a store of a core merged at its slice by a byte mask, or held until every replica is invalidated (R141, R154). -/
def performMask (core : Nat) (w : WriteBack) (s : State) : State :=
  if w.mask = 0 then s
  else if lineHeld s w.line then holdWrite core w.line w.data w.mask w.how w.who s
  else mergeNow core w.line w.data w.mask w.how s

/-- Whether any byte of a range lies in a poisoned line (R157). -/
def poisoned (s : State) (k n : Nat) : Bool :=
  s.poison.any fun l => lineOf k ≤ l && l ≤ lineOf (k + n - 1)

/-- StampWrite (R7, R299): one doubleword, written whole. -/
def stampWord (seq : Word) (status : BitVec 8) : Word := status ++ seq.extractLsb' 0 56

/-! ### Reads at slices (R148, R151, R154) -/

/-- A read request for a line of DRAM enters the slice that is to serve it, if slices may hold the line; one for another line is
performed at the home slice at once (R145, R148); `die` is where it comes from, 24 for an I/O die. -/
def enterReadAt (slice line : Nat) (how : Placing) (die : Nat) (who : Option Asker) (s : State) : State :=
  if !isDramKey (line * 128) then s
  else
    let t := if slice = homeSlice (line * 128) then countFrame line die false s else s
    if how.held then modSlice slice (fun x => { x with reqs := x.reqs ++ [⟨line, how, who⟩] }) t
    else match who with
      | some w => answer slice line w t
      | none => t

/-- A read of a DRAM line that nothing waits for enters the bookkeeping of the slice that serves it (R148, R154). -/
def enterRead (line : Nat) (how : Placing) (s : State) : State := enterReadAt (readSlice s line) line how (dieOf s.core.num) none s

end Sys2Proof.Machine
end

