-- ==== Sys2Proof/Machine/Routes.lean ====
section
/-! DEFINITION. The routes of the mesh (R26, R30, R31, R33, R420) and the packets on them (R27, R28). A packet is held while a region on
its route relocks, and none crosses a dead link. -/

namespace Sys2Proof.Machine

/-! ### Routes (R24, R26, R420) -/

/-- Number of a twig from its coordinates (R24). -/
def twigAt (x y : Nat) : Nat := 96 * y + x

/-- Links of a route, along x first and then along y (R26). -/
def routeFrom : (fuel a b : Nat) → List (Nat × Nat)
  | 0, _, _ => []
  | n + 1, a, b =>
    let next :=
      if twigX a < twigX b then a + 1 else if twigX b < twigX a then a - 1
      else if twigY a < twigY b then a + 96 else a - 96
    if a = b then [] else (a, next) :: routeFrom n next b

/-- The route between two twigs. -/
def route (a b : Nat) : List (Nat × Nat) := routeFrom 160 a b

/-- The west or the east I/O die as an end of a route. -/
def ioNode (east : Bool) : Nat := 6144 + east.toNat

/-- Whether an end of a route is an I/O die. -/
def isIoNode (n : Nat) : Bool := 6144 ≤ n

/-- The twig through whose link a twig's row reaches an I/O die (R30, R420). -/
def edgeTwig (io t : Nat) : Nat := twigAt (if io = 6144 then 0 else 95) (twigY t)

/-- The links of a packet's route. One from or to an I/O die stays in its row (R420). -/
def pathLinks (a b : Nat) : List (Nat × Nat) :=
  if isIoNode b then route a (edgeTwig b a) ++ [(edgeTwig b a, b)]
  else if isIoNode a then (a, edgeTwig a b) :: route (edgeTwig a b) b
  else route a b

/-- The I/O die of host space (R74, R420): bit 50 of the physical address. -/
def hostNode (pa : Nat) : Nat := ioNode (pa.testBit 50)

/-- The I/O die of a drive (R75, R420): 0 to 7 west, 8 to 15 east. -/
def driveNode (drive : Nat) : Nat := ioNode (8 ≤ drive)

/-- The I/O die of a connection (R81, R420): bit 8 of its value. -/
def peerNode (conn : Nat) : Nat := ioNode (conn.testBit 8)

/-! ### Links and regions (R30, R31, R33) -/

/-- Number of a link: 2t leads from twig t to the east, from x = 95 into the east I/O die; 2t + 1 leads to the south; 12,288 + y leads
from twig (0, y) into the west I/O die. -/
def linkNo (l : Nat × Nat) : Nat :=
  let lo := min l.1 l.2
  let hi := max l.1 l.2
  if hi = 6144 then 12288 + twigY lo
  else if hi = 6145 || hi = lo + 1 then 2 * lo
  else 2 * lo + 1

/-- Compute dies of a die-to-die link (R30). -/
def linkDies (l : Nat) : List Nat :=
  if 12288 ≤ l then (if l < 12352 then [dieOfTwig (twigAt 0 (l - 12288))] else [])
  else
    let t := l / 2
    if l % 2 = 0 && twigX t = 95 then [dieOfTwig t]
    else
      let u := if l % 2 = 0 then t + 1 else t + 96
      if 6144 ≤ u || dieOfTwig t = dieOfTwig u then [] else [dieOfTwig t, dieOfTwig u]

/-- RCLK of a grove, as reset leaves it until something changes it (R34). -/
def rclkOf (s : State) (grove : Nat) : Rclk :=
  ((s.fab.rclk.find? fun x => x.1 == grove).map (·.2)).getD ⟨1250, 1250, 0, false, false, false, false, 0, [], 1250, 0, none⟩

/-- Whether a region has asked to leave a group of which a phase that was open then is still open: it has not left yet (R35). -/
def leavingOpen (s : State) (r : Rclk) : Bool :=
  s.fab.doms.any fun d => d.phase && r.leaving.contains (d.id, d.start)

/-- Whether the routers of a twig's region are held by a change of its clock (R33). -/
def relocking (s : State) (t : Nat) : Bool := !isIoNode t && (rclkOf s (groveOfTwig t)).relock

/-- Whether packets move from one end of a route to the other: no link of it is dead (R31), and no region of it relocks (R33). -/
def pathOpen (s : State) (a b : Nat) : Bool :=
  (s.pkg.deadLinks.isEmpty && !(s.fab.rclk.any fun x => x.2.relock)) ||
    (!relocking s a && (pathLinks a b).all fun l => !s.pkg.deadLinks.contains (linkNo l) && !relocking s l.2)

/-! ### Packets (R27, R28) -/

/-- Whether a packet is the first of its class and route (R27). -/
def routeHead (s : State) (p : Packet) : Bool :=
  (s.fab.net.find? fun q => q.cls == p.cls && q.src == p.src && q.dst == p.dst) == some p

/-- Whether a packet may leave the mesh at its destination. -/
def mayArrive (s : State) (p : Packet) : Bool := routeHead s p && pathOpen s p.src p.dst

/-- Whether a request or its answer may make its whole journey at once: its way is open, and no earlier packet of its class and route is
under way (R27, R31, R33). -/
def clearWay (s : State) (cls : TClass) (a b : Nat) : Bool :=
  pathOpen s a b && !(s.fab.net.any fun q => q.cls == cls && q.src == a && q.dst == b)

/-- The class of the answers to a class of requests (R28): RSP carries the replies of slices and cores, EXT both ways of the I/O dies'
traffic. -/
def answerCls : TClass → TClass
  | .req | .rsp | .msg => .rsp
  | .ext => .ext

/-- Whether a request and its answer may travel. -/
def tripOpen (s : State) (t : TClass × Nat × Nat) : Bool := t != noRoom && clearWay s t.1 t.2.1 t.2.2 && clearWay s (answerCls t.1) t.2.2 t.2.1

/-- A move whose requests and answers travel within it takes place once all their ways are open and its writes have room at their slices
(R26 to R28, R31, R33, R148, R149, R420, log 88); `t` is the state after it. -/
def travel (s t : State) : State :=
  if t.fab.trips.isEmpty then t
  else if t.fab.trips.all (tripOpen s) then modFab (fun f => { f with trips := [] }) t else s

/-- What a move answers, `s` being the state before it. -/
def commit (s : State) (o : Out) : Out :=
  match o with
  | .next t => .next (travel s t)
  | o => o

/-- A packet leaves the mesh. -/
def takePacket (p : Packet) (s : State) : State := modFab (fun f => { f with net := f.net.erase p }) s

/-- The router of a line's slice, of its owning bank or of its host port. -/
def lineRouter (line : Nat) : Nat :=
  match bankOfKey (line * 128) with
  | some b => if b < 6144 then b else twigOf (b - 6144)
  | none => hostNode (line * 128)

/-- The class in which a core's requests for a line travel (R28): REQ to a slice, MSG to a core of the grove, EXT to the host. -/
def lineCls (line : Nat) : TClass :=
  if isPoolKey (line * 128) then .msg else if isHostKey (line * 128) then .ext else .req

/-- The way of a request of the core for a line (log 88); one to its own pool makes none. -/
def visitLine (line : Nat) (s : State) : State :=
  if bankOfKey (line * 128) = some (6144 + s.core.num) then s
  else visit (lineCls line) (twigOf s.core.num) (lineRouter line) s

/-- The way of a request of an I/O die for a line (R420, log 88). -/
def visitFrom (io line : Nat) (s : State) : State := if isHostKey (line * 128) then s else visit .ext io (lineRouter line) s

/-- Whether a packet carries an access of a context off the core, or its answer; one of an earlier access that the context no longer
waits for does not count (R99, log 6). -/
def carries (core : Nat) (bank : Bool) (ctx tag : Nat) (p : Packet) : Bool :=
  match p.body with
  | .ask w _ | .reply w _ => w == ⟨core, bank, ctx, some tag⟩
  | _ => false

/-- Whether something that a context asked for off the core is under way, or at a slice, or its answer is (R99, R151). -/
def askedOut (s : State) (core : Nat) (bank : Bool) (ctx : Nat) : Bool :=
  match (getCore s core).ctx? bank ctx with
  | none => false
  | some x =>
    let me : Asker := ⟨core, bank, ctx, some x.asks⟩
    s.fab.net.any (carries core bank ctx x.asks)
      || s.ms.slices.any fun y => y.reqs.any (fun r => r.who == some me) || y.misses.any fun m => m.who.contains me

/-- Whether an element of a context's store to host space has not reached the I/O die (R420). -/
def hostOut (s : State) (core : Nat) (bank : Bool) (ctx : Nat) (l : Late) : Bool :=
  l.host.any fun e => s.fab.net.any fun p => p.body == .hostStore core bank ctx ((e.cells.map (·.1)).headD 0)

end Sys2Proof.Machine
end

