-- ==== Sys2Proof/Machine/Ops.lean ====
section
/-! DEFINITION. The core's shared operations: waiting and the ring (R98, R304), store-fault records (R248, R249), taking
an exception and returning from one (R241, R243, R244), the fatal stop and the halt record (R254, R257), and the L1
line table with its write-backs (R140, R141). -/

namespace Sys2Proof.Machine

/-! ### Waiting and the ring (R98, R304) -/

/-- Ids in ring order after `cur`: cur + 1, …, 10, 0, …, cur (R98). -/
def ringFrom (cur : Nat) : List Nat := (List.range 11).map fun i => (cur + 1 + i) % 11

/-- The next ready context of the active bank in ring order (R98). Core firmware in M-mode is no context and gives the core to none (log 9). -/
def ringNext (c : Core) : Option Nat :=
  if c.priv = .m then (if c.cx.st == .ready then some c.cx.id else none)
  else (ringFrom c.cx.id).find? fun id =>
    if id = c.cx.id then c.cx.st == .ready else c.bank.ctxs.any fun x => x.id == id && x.st == .ready

/-- The current context given back to its bank; a free context keeps no slot. -/
def putBack (x : Ctx) (l : List Ctx) : List Ctx := if x.live then insertCtx x l else l

/-- Makes a context of the active bank the current one. -/
def selectCtx (id : Nat) (c : Core) : Core :=
  if c.cx.id = id then { c with bank := { c.bank with used := 0, seek := false } }
  else match c.bank.ctxs.find? fun x => x.id == id with
    | none => c
    | some x =>
      { c.withCx x with
               cycles := c.cycles + 1,
               bank := { c.bank with ctxs := putBack c.cx (c.bank.ctxs.filter fun y => y.id != id), cur := id, used := 0,
                                     seek := false } }

/-- A switch event: the next ready context in ring order is selected, after one bubble if it is another one; with none ready
the core goes on looking for one (R98). -/
def switchEvent (s : State) : State :=
  match ringNext s.core with
  | none => modBank (fun b => { b with seek := true }) s
  | some id => modCore (selectCtx id) s

/-- The core looks for a context that has become ready since the switch event that found none: the first in ring order is
selected, after one bubble (R98). -/
def seekCtx (s : State) : State :=
  match ringNext s.core with
  | none => s
  | some id => if s.core.cx.id = id then modCore (fun c => { selectCtx id c with cycles := c.cycles + 1 }) s else modCore (selectCtx id) s

/-- Whether an answer that has come stays while the context waits: what it waits for stands before its access (R208, R141). -/
def keepsAns : Wait → Bool
  | .stores | .flush _ => true
  | _ => false

/-- The current context begins to wait and gives up its place (R304). -/
def waitFor (w : Wait) (s : State) : State :=
  switchEvent (modCx (fun c => { c with st := .waiting w, since := s.core.cycles, ans := if keepsAns w then c.ans else none, got := if keepsAns w then c.got else [] }) s)

/-! ### Store-fault records (R247 to R250, R258) -/

/-- PEND (R242). -/
def Ctx.pend (c : Ctx) : Bool := !c.recs.isEmpty

/-- dtstat as it reads (R242): CTX, HM, PEND, and the stored bits. -/
def dtstatOf (c : Ctx) : Word :=
  (c.dtstat &&& ~~~(0x3F#64)) ||| BitVec.ofNat 64 (c.id % 16 + 16 * c.hm.toNat + 32 * c.pend.toNat)

/-- The 32 bytes of a store-fault record (R248). -/
def recBytes (r : Rec) : List Byte :=
  bytesOfNat 8 r.va.toNat ++ bytesOfNat 8 r.data.toNat ++ bytesOfNat 8 r.pc.toNat
    ++ bytesOfNat 4 (r.cause.toNat + 2 ^ 8 * r.size.toNat + 2 ^ 12 * r.src.toNat + 2 ^ 14 * r.queue.toNat
        + 2 ^ 16 * r.status.toNat)
    ++ bytesOfNat 4 r.icount.toNat

/-- Appends a record; with a full queue the lost count rises instead, saturating (R249). -/
def appendRec (r : Rec) (c : Ctx) : Ctx :=
  if c.recs.length < Config.recordSlots then { c with recs := c.recs ++ [r] }
  else { c with lost := if c.lost = -1 then c.lost else c.lost + 1 }

/-- The save area of a bank (R342). -/
def saveArea (c : Core) (b : Bool) : Nat := (if b then c.dsave1 else c.dsave0).toNat

/-- The slot of a context in the save area: slot `id` (DESIGN CHOICE, log 55: the spec gives no order). -/
def saveSlot (base id : Nat) : Nat := base + 5120 * id

/-- Whether a save area lies in device DRAM (R342). -/
def saveOk (base : Nat) : Bool := paExists base && isDramKey base && paExists (base + 112639)

/-- The record queue of a slot in a save area, from byte 4,672 on, with empty places 0 (R118). -/
def recsImage (c : Ctx) : List Byte :=
  let recs := c.recs.flatMap recBytes
  recs ++ List.replicate (256 - recs.length) 0

/-- The save area of a spilled bank shows the records of a context, its PEND and their number (R258). -/
def saveRecs (b : Bool) (id : Nat) (s : State) : State :=
  let base := saveArea s.core b
  if b = s.core.bank.num || !s.core.shadow.spilled || !saveOk base then s
  else match s.core.ctx? b id with
    | none => s
    | some x => perform (saveSlot base id + 4976) (bytesOfNat 8 (dtstatOf x).toNat ++ bytesOfNat 8 x.recs.length)
        (perform (saveSlot base id + 4672) (recsImage x) s)

/-- A record appended to the queue of a context of a bank (R249, R258). -/
def pushRec (b : Bool) (id : Nat) (r : Rec) (s : State) : State := saveRecs b id (modCore (·.modCtx b id (appendRec r)) s)

/-- The lower of two failing elements. -/
def lowerFail (a : Option (Nat × Rec)) (b : Nat × Rec) : Option (Nat × Rec) :=
  match a with
  | none => some b
  | some x => if b.1 < x.1 then some b else some x

/-- A late store of the context ends: the elements to host space that the host takes perform (R74), and the lowest failing
element makes the store's one record (R247). -/
def endLate (l : Late) (err : BitVec 128) (b : Bool) (id : Nat) (s : State) : State :=
  let t := (l.host.filter fun e => !err.getLsbD e.idx).foldl (fun s e => e.cells.foldl (fun s c => perform c.1 [c.2] s) s) s
  match ((l.host.filter fun e => err.getLsbD e.idx).map fun e => (e.idx, e.fail)).foldl lowerFail l.bad with
  | none => t
  | some x => pushRec b id x.2 t

/-! ### Held writes (R154) -/

/-- The first held write that waits for no replica and stands behind no earlier one of its slice (R154, R208). -/
def heldReady (s : State) : Option (Nat × HeldWrite) :=
  (List.range s.ms.heldW.length).findSome? fun i => match s.ms.heldW[i]? with
    | none => none
    | some h => if h.wait.isEmpty && !((s.ms.heldW.take i).any fun g => sameSlice g.line h.line) then some (i, h) else none

/-- The saturated number of instructions from one count to another (R248). -/
def icDiff (now base : Word) : W32 := BitVec.ofNat 32 (min (now - base).toNat 0xFFFFFFFF)

/-- A store of a core whose bytes are dropped at the slice makes its record, with cause 0x25 (R157, R158). -/
def recordDropped (core : Nat) (who : Option StoreOf) (s : State) : State :=
  match who with
  | none => s
  | some w => atCore core (fun s =>
      let now := ((s.core.ctx? w.bank w.ctx).map (·.instret)).getD w.base
      pushRec w.bank w.ctx { w.fail with cause := 0x25, icount := icDiff now w.base } s) s

/-- Held writes that may perform do so in order, and the contexts that wait for them test again; one that finds POISON is dropped with
its record (R157). -/
def performHeld : (fuel : Nat) → State → State
  | 0, s => s
  | fuel + 1, s =>
    match heldReady s with
    | none => s
    | some (i, h) =>
      let t := modMs (fun m => { m with heldW := m.heldW.eraseIdx i }) s
      let t := if mergeBad s h.line h.mask && h.mask != 0 then recordDropped h.core h.who t else mergeNow h.core h.line h.data h.mask h.how t
      performHeld fuel (wakeAll (fun w => w == .flush h.line || w.forStores) t)

/-- Dies hold no replica of the lines that `p` picks any more: their slices, told by invalidations, drop the lines, and the held writes
that waited for them go on (R154). -/
def dropSharer (p : Nat → Bool) (gone : Nat → Bool) (s : State) : State :=
  let lost := (s.ms.sharers.filter fun x => p x.line).flatMap fun x => (x.dies.filter gone).map fun d => (x.line, d)
  let t := lost.foldl (fun s x =>
    let home := homeSlice (x.1 * 128)
    let there := replicaSlice home x.2
    visit .req home there (modSlice there (fun y => { y with lines := y.lines.filter fun z => z.line != x.1 }) s)) s
  let t := modMs (fun m => { m with
    sharers := (m.sharers.map fun x => if p x.line then { x with dies := x.dies.filter fun d => !gone d } else x).filter fun x => !x.dies.isEmpty
    heldW := m.heldW.map fun h => if p h.line then { h with wait := h.wait.filter fun d => !gone d } else h }) t
  performHeld t.ms.heldW.length t

/-- A write of an I/O die, or of the root kernel through one: the replicas of its lines are invalidated and have acknowledged before it
performs, in its own step (R154, log 6). `io` is the die it comes from. -/
def performIo (how : Placing) (io : Nat) (k : Nat) (bs : List Byte) (s : State) : State :=
  (chunksF bs.length k bs).foldl (fun s c =>
    let line := lineOf c.1
    performFrom how 24 c.1 c.2 (visitFrom io line (dropSharer (fun l => l == line) (fun _ => true) s))) s

/-- A read of an I/O die goes to the line's home slice (R66, R154, R420). -/
def readFrom (io line : Nat) (s : State) : State := countFrame line 24 false (visitFrom io line s)

/-- Such a write without a hint. -/
def performAll (io : Nat) (k : Nat) (bs : List Byte) (s : State) : State := performIo Placing.dflt io k bs s

/-- Some earlier store of the context is neither performed nor recorded, or a write of the core is under way to a slice
(R250, R318). -/
def storesOut (s : State) : Bool := !s.core.cx.late.isEmpty || writesOut s s.core.num || !s.ms.heldW.isEmpty

/-- The wait that DRAINS, a release, HEXIT and STGEND make (R210, R250, R251). -/
def drained (s : State) : Res Unit := if storesOut s then .error (.wait .stores s) else .ok ()

/-! ### Counters of a halt record (R257) -/

/-- A packet injected for the core's active bank. -/
def countSent (s : State) : State :=
  modBank (fun b => { b with counts := { b.counts with psent := b.counts.psent + 1 } }) s

/-- A packet delivered to the core. -/
def countRecv (s : State) : State :=
  modBank (fun b => { b with counts := { b.counts with precv := b.counts.precv + 1 } }) s

/-! ### The halt record (R257) -/

/-- Live mask of a bank (R309). -/
def liveMask (c : Core) (b : Bool) : Nat :=
  (c.ctxsOf b).foldl (fun m x => if x.live then m + 2 ^ x.id else m) 0

/-- The 64 bytes of a halt record (R257). -/
def haltRecord (c : Core) (b : Bool) (st : Stop) (time : Nat) : List Byte :=
  let bk := c.bankOf b
  let cur := if c.bank.num = b then c.cx.id else bk.cur
  let pc := ((c.ctx? b cur).map (·.pc)).getD 0
  bytesOfNat 8 (c.cycles - bk.bindCycle) ++ bytesOfNat 4 bk.counts.osent.toNat ++ bytesOfNat 4 bk.counts.otaken.toNat
    ++ bytesOfNat 4 bk.counts.psent.toNat ++ bytesOfNat 4 bk.counts.precv.toNat
    ++ bytesOfNat 2 bk.counts.bsent.toNat ++ bytesOfNat 2 bk.counts.brecv.toNat ++ bytesOfNat 2 bk.counts.barr.toNat
    ++ bytesOfNat 1 st.cause.toNat ++ bytesOfNat 1 (st.reason.toNat + 16 * (cur % 16))
    ++ bytesOfNat 8 pc.toNat ++ bytesOfNat 8 st.pcflt.toNat ++ bytesOfNat 1 st.entry.toNat
    ++ bytesOfNat 7 (b.toNat + 2 * st.swapped.toNat + 4 * liveMask c b) ++ bytesOfNat 8 time

/-- An undispatched entry of the bank cancelled by a terminal halt (R255). -/
def cancelEntry (b : Bool) (e : Entry) : Entry :=
  if e.bank = b && e.inner.isNone && (e.st = .held || e.st = .queued) then { e with st := .queued, cancelled := true } else e

/-- A QARR that waits for a release under a terminal halt does not arrive and retires with status 0x40 (R255, R401). -/
def cancelQarr (b : Bool) (e : Entry) : Entry :=
  if e.bank = b && e.st = .flight && e.cmd.opc = 0xC2 then { e with st := .worked, status := 0x40 } else e

/-- What a terminal halt does to the engine commands of the bank (R255): undispatched entries are cancelled, and
their range locks are released at once (R325). -/
def cancelBank (b : Bool) (c : Core) : Core :=
  let f := fun e => cancelQarr b (cancelEntry b e)
  let ords := ((c.mq ++ c.cq ++ c.gq).filter fun e => e.bank = b && e.inner.isNone && (e.st = .held || e.st = .queued)).map (·.ord)
  { c with mq := c.mq.map f, cq := c.cq.map f, gq := c.gq.map f, locks := c.locks.filter fun l => !ords.contains l.ord }

/-- A halt record written in the halt area, in the step of the stop, whether or not its way is open (R257, log 6). -/
def writeRecord (pa : Nat) (bs : List Byte) (s : State) : State :=
  let t := performAll (ioNode false) pa bs s
  modFab (fun f => { f with trips := s.fab.trips ++ f.trips.filter (· == noRoom) }) t

/-- Core `n` stops a bank: it is marked stopped, its record is written to the halt area of its launch and, under a
terminal halt, its undispatched commands are cancelled (R254, R255, R257). `again` for a fatal stop of a bank that the checkpoint
stop has stopped already, whose record it replaces (R254, R421). -/
def stopBank (n : Nat) (b : Bool) (st : Stop) (terminal again : Bool) (s : State) : State :=
  let c := getCore s n
  let bk := c.bankOf b
  if bk.stopped && !again then s else
  let s := match bk.bound with
    | none => s
    | some bd => writeRecord (bd.haltPa + 64 * n) (haltRecord c b st s.pkg.time) s
  modCoreAt n (fun c =>
    let c := c.modBankOf b fun k => { k with stopped := true }
    if terminal then cancelBank b c else c) s

/-! ### HALT wires and the root kernel's notice (R64, R254) -/

/-- ENk of dmemb (R59). -/
def enOf (c : Core) (k : BitVec 3) : Bool := c.dmemb.getLsbD (4 * k.toNat + 3)

/-- TOPk of dmemb; 0 with ENk = 1 is treated as 1 (R59). -/
def topOf (c : Core) (k : BitVec 3) : Nat :=
  let t := bits c.dmemb.toNat (4 * k.toNat) 3
  if t = 0 then 1 else t

/-- The channels on which the core is a member for a bank (R61). -/
def chansOf (c : Core) (b : Bool) : List (BitVec 3) :=
  ((List.range 8).map (BitVec.ofNat 3)).filter fun k => enOf c k && (c.chans[k.toNat]'k.isLt).owner == some b

/-- A halt is sent to the members of the core's domain on a channel, other than the core itself (R64). -/
def driveHalt (n : Nat) (k : BitVec 3) (m : HaltMsg) (s : State) : State :=
  match s.fab.doms.find? fun d => d.chan == k && d.members.contains n && d.launch == m.launch with
  | none => s
  | some d =>
    (d.members.filter fun j => j != n).foldl
      (fun s j => modCoreAt j (fun c => { c with halts := c.halts ++ [{ m with chan := some k, pcflt := 0, entry := 0 }] }) s) s

/-- The root kernel is notified of a terminal halt that some cores started: it takes the first notification as origin, and the
launch halts (R254, R421). -/
def notifyRoot (launch : Nat) (o : Origin) (starters : List Nat) (s : State) : State :=
  modRoot (fun r => { r with launches := r.launches.map fun l =>
    if l.id = launch then
      { l with origin := some (if l.resumable then o else l.origin.getD o), starters := l.starters ++ starters,
               st := .halting, resumable := false } else l }) s

/-- Whether the launch of a bank stands under a checkpoint stop (R255). -/
def underCheckpoint (s : State) (k : Bank) : Bool :=
  (k.bound.map fun bd => s.root.launches.any fun l => l.id == bd.launch && l.resumable).getD false

/-- The fatal stop of a bank of a core (R254), also that of a timed-slot violation found by an instruction (R41). -/
def fatalStopAt (n : Nat) (b : Bool) (st : Stop) (s : State) : State :=
  let c := getCore s n
  let s1 := stopBank n b st true (underCheckpoint s (c.bankOf b)) s
  match (c.bankOf b).bound with
  | none => s1
  | some bd =>
    let m : HaltMsg := ⟨bd.launch, none, st.reason, st.cause, 0, 0, true⟩
    notifyRoot bd.launch ⟨some n, st.reason, st.cause⟩ [n] ((chansOf c b).foldl (fun s k => driveHalt n k m s) s1)

/-- The fatal stop of a bank of the core whose turn it is; during a swap it takes effect when the swap is complete, and its
record carries SWAP (R102, R258). -/
def fatalOrLater (b : Bool) (st : Stop) (s : State) : State :=
  match s.core.swap with
  | none => fatalStopAt s.core.num b st s
  | some w => modCore (fun c => { c with swap := some { w with fatal := w.fatal ++ [(b, { st with swapped := true })] } }) s

/-- The fatal path (R241, R254): REASON 2, or 1 for cause 0x21. -/
def fatalStop (cause : BitVec 8) (entry : BitVec 8) (s : State) : State :=
  fatalStopAt s.core.num s.core.bank.num
    ⟨if cause = 0x21 then 1 else 2, cause, entry, s.core.cx.pc, false⟩ s

/-! ### Taking an exception and returning from one -/

/-- Whether a trap takes the handler path (R241). -/
def handlerPath (c : Ctx) (cause : BitVec 8) : Bool := c.dtvec.extractLsb' 0 2 == 1 && !c.hm && cause != 0x21

/-- The two low bits cleared. -/
def clear2 (w : Word) : Word := w &&& ~~~3#64

/-- dtstat as it is stored: PE and FRM saved, the reserved bits as they stand (R242, R243). -/
def savedStat (c : Ctx) : Word :=
  (c.dtstat &&& ~~~(0x3C0#64)) ||| ((BitVec.ofBool c.pe).zeroExtend 64 <<< 6) ||| (c.frm.zeroExtend 64 <<< 7)

/-- dtcause of a trap (R243): SRC is set for cause 0x23 alone. -/
def causeWord (cause : BitVec 8) : Word := (if cause = 0x23 then 0x100#64 else 0) ||| cause.zeroExtend 64

/-- Entry to the handler (R243). Taking 0x23 also takes the counts of the records in the queue (R248). -/
def enterHandler (cause : BitVec 8) (tval : Word) (c : Ctx) : Ctx :=
  { c with
    dtpc := clear2 c.pc
    dtcause := causeWord cause
    dtval := tval
    dtstat := savedStat c
    hm := true
    pe := false
    pc := clear2 c.dtvec
    st := .ready
    ans := none
    got := []
    must23 := if cause = 0x23 then false else c.must23
    recs := if cause = 0x23 then c.recs.map fun r => { r with fixed := true } else c.recs }

/-- A trap taken in M-mode goes to mtvec as the RISC-V privileged specification says (log 9). -/
def enterM (cause : Word) (tval : Word) (c : Core) : Core :=
  { c with
    priv := .m
    mcsr := { c.mcsr with mepc := clear2 c.cx.pc, mcause := cause, mtval := tval, mpie := c.mcsr.mie, mie := false, mpp := c.priv }
    cx := { c.cx with pc := clear2 c.mcsr.mtvec, st := .ready, ans := none, got := [] } }

/-- TAKING AN EXCEPTION (RaiseTrap, R7, R240, R241): the handler path, the fatal path, or in M-mode its own vector; dtcause and dtval
take the cause and its value on either path of a context (R7). -/
def takeTrap (cause : BitVec 8) (tval : Word) (s : State) : State :=
  if s.core.priv = .m then modCore (enterM (cause.zeroExtend 64) tval) s
  else if handlerPath s.core.cx cause then modCx (enterHandler cause tval) s
  else fatalStop cause 0 (modCx (fun c => { c with dtcause := causeWord cause, dtval := tval }) s)

/-- RETURN FROM AN EXCEPTION (R244): PE, FRM and the pc are restored and handler mode ends. -/
def leaveHandler (c : Ctx) : Ctx :=
  { c.retire with pe := c.dtstat.getLsbD 6, frm := c.dtstat.extractLsb' 7 3, hm := false, pc := c.dtpc }

/-- MRET of the RISC-V privileged specification (log 9). -/
def leaveM (c : Core) : Core :=
  { c with
    priv := c.mcsr.mpp
    mcsr := { c.mcsr with mie := c.mcsr.mpie, mpie := true, mpp := .u, mprv := c.mcsr.mprv && c.mcsr.mpp == .m }
    cx := { c.cx.retire with pc := c.mcsr.mepc } }

/-- The state an instruction leaves: its own, or that of the trap it raises in the state before it (R247), or that in
which its context waits (R304), or the state before it where it keeps the issue slot (R99). -/
def orTrap (r : Res State) (s : State) : State :=
  match r with
  | .ok t => t
  | .error (.trap cause tval) => takeTrap cause tval s
  | .error (.wait w t) => waitFor w t
  | .error .stall => s

/-- An illegal instruction: cause 2 with the instruction bits (R245). -/
def illegal (w : Option W32) (s : State) : State := takeTrap 2 ((w.getD 0).zeroExtend 64) s

/-! ### The L1 line table (R140, R141) -/

/-- The L1 line with a line number. -/
def l1Find (c : Core) (line : Nat) : Option L1Line := c.l1.find? fun l => l.line == line

/-- Replaces an L1 line where it stands; one without valid bytes leaves the table. -/
def l1Replace (x : L1Line) (l : List L1Line) : List L1Line :=
  (l.map fun y => if y.line = x.line then x else y).filter fun y => y.valid != 0

/-- Whether a context waits for a line of a slice, or has it already (R151). -/
def wantsLine (s : State) (b : Bool) (x : Ctx) (line : Nat) : Bool :=
  let me : Asker := ⟨s.core.num, b, x.id, some x.asks⟩
  let ofLine := fun (p : Packet) => match p.body with
    | .ask w (some q) => w == me && q.1 == line
    | .reply w (some q) => w == me && q.1 == line
    | _ => false
  x.got.any (fun q => q.1 == line) || s.fab.net.any ofLine
    || s.ms.slices.any fun y => y.reqs.any (fun r => r.line == line && r.who == some me) || y.misses.any fun m => m.line == line && m.who.contains me

/-- Bytes of a line leave the core: what a context of the core has asked for of that line is asked for again, behind them (R219). -/
def staleAsks (line : Nat) (s : State) : State :=
  modCore (fun c => c.mapCtxs fun b x => if wantsLine s b x line then { x with asks := 0, got := [] } else x) s

/-- A write is sent to the slice or the owning bank of its line (R27, R28, R208). -/
def sendWrite (w : WriteBack) (s : State) : State :=
  let n := s.core.num
  countSent (inject ⟨lineCls w.line, twigOf n, lineRouter w.line, .write n w⟩ (staleAsks w.line s))

/-- Bytes of an L1 line that a mask picks leave for the home slice. -/
def sendBytes (x : L1Line) (mask : BitVec 128) (s : State) : State :=
  if mask = 0 then s else sendWrite ⟨x.line, x.data, mask, ⟨true, false, x.nt, x.bark⟩, false, x.poison, x.last⟩ s

/-- Dirty bytes of a line leave for its home slice and are clean; the line is owed no longer (R141). -/
def writeBackLine (line : Nat) (s : State) : State :=
  match l1Find s.core line with
  | none => s
  | some x => sendBytes x x.dirty (modCore (fun c => { c with l1 := l1Replace { x with dirty := 0, owed := none } c.l1 }) s)

/-- Lines of the L1 that `p` picks are written back. -/
def writeBackWhere (p : L1Line → Bool) (s : State) : State :=
  ((s.core.l1.filter fun l => p l && l.dirty != 0).map (·.line)).foldl (fun s l => writeBackLine l s) s

/-- Every dirty byte of a shared line is written back (R210, R217). -/
def writeBackShared (s : State) : State := writeBackWhere (fun l => l.cls == .shared) s

/-- The lines owed to a release entry written back (R141). -/
def writeBackOwed (sync : Nat) (s : State) : State := writeBackWhere (fun l => l.owed == some sync) s

/-- An acquire of scope TWIG or wider: every clean byte of every shared line loses its valid bit (R140). -/
def invalidateShared (s : State) : State :=
  let drop := fun (l : L1Line) => if l.cls = .shared then { l with valid := l.valid &&& l.dirty } else l
  modCore (fun c => { c with l1 := (c.l1.map drop).filter (fun l => l.valid != 0) }) s

/-- Bytes of a line that stand in L1 take new values: all of them, or only the clean ones. -/
def patchL1 (clean : Bool) (k : Nat) (bs : List Byte) (s : State) : State :=
  match l1Find s.core (lineOf k) with
  | none => s
  | some x =>
    let m := spanMask (k % 128) bs.length &&& x.valid &&& (if clean then ~~~x.dirty else -1)
    modCore (fun c => { c with l1 := l1Replace { x with data := mergeV x.data (lineData k bs) m } c.l1 }) s

/-- Clean bytes of a line that stand in L1 take the values an access of the core saw or left at the home slice
(R219, R317). -/
def refreshL1 (k : Nat) (bs : List Byte) (s : State) : State := patchL1 true k bs s

/-- Bytes of a line that stand in L1 take a store's values without being marked dirty (R350). A byte that was dirty is clean from then
on: the store that leaves for the slice overwrites what it held (R219). -/
def updateL1 (k : Nat) (bs : List Byte) (s : State) : State :=
  let clean := fun (x : L1Line) => { x with dirty := x.dirty &&& ~~~spanMask (k % 128) bs.length }
  let t := patchL1 false k bs s
  match l1Find t.core (lineOf k) with
  | none => t
  | some x => modCore (fun c => { c with l1 := l1Replace (clean x) c.l1 }) t

/-- Clean bytes of a line that stand in L1 lose their valid bits: an engine of the core writes them (R215, R221). -/
def dropL1 (k n : Nat) (s : State) : State :=
  match l1Find s.core (lineOf k) with
  | none => s
  | some x => modCore (fun c => { c with l1 := l1Replace { x with valid := x.valid &&& (~~~(spanMask (k % 128) n) ||| x.dirty) } c.l1 }) s

/-- Ways of the L1 region: 8 per set; its sets are the region's lines divided by 8 (R116, R140). -/
def l1Sets (c : Core) : Nat := (Config.poolBytes - c.dpoolb2) / 1024

/-- A victim leaves the set of a line that is to be installed: the least recently used line of a full set (R140, R141).
Its dirty bytes start on their way to the home slice. -/
def l1Evict (line : Nat) (s : State) : State :=
  let c := s.core
  if c.l1.length < 8 then s else
  let n := l1Sets c
  let set := c.l1.filter fun l => Config.l1Set l.line n == Config.l1Set line n
  if set.length < 8 then s else
  match set.getLast? with
  | none => s
  | some v => sendBytes v v.dirty (modCore (fun c => { c with l1 := c.l1.filter fun l => l.line != v.line }) s)

/-- A line becomes the most recently used one. -/
def l1Touch (line : Nat) (s : State) : State :=
  match l1Find s.core line with
  | none => s
  | some x => modCore (fun c => { c with l1 := x :: c.l1.filter fun l => l.line != line }) s

/-! ### Owed-release directory (R141) -/

/-- Flush requests for a directory entry are sent to every core recorded against it; a core that releases again meanwhile is recorded
anew (R141). -/
def startFlush (slice line : Nat) (s : State) : State :=
  match ((getSlice s slice).dir.find? fun d => d.line == line) with
  | none => s
  | some d =>
    if (getSlice s slice).flushes.any fun f => f.line == line then s
    else
      let s := modSlice slice (fun x => { x with
        flushes := x.flushes ++ [⟨line, d.cores⟩]
        dir := x.dir.map fun e => if e.line = line then { e with cores := [] } else e }) s
      d.cores.foldl (fun s c => inject ⟨.req, slice, twigOf c, .flush c line slice⟩ s) s

/-- The slice records a releasing core against a line; a 65th entry sends flush requests for the oldest and frees it. DESIGN
CHOICE: an entry that is freed so holds up no acquire of its line, although its flush requests are not yet acknowledged; the spec
does not say whether it does (log 22). -/
def recordRelease (line core : Nat) (s : State) : State :=
  match sliceOfKey (line * 128) with
  | none => s
  | some sl =>
  let x := getSlice s sl
  if x.dir.any fun d => d.line == line then
    modSlice sl (fun x => { x with dir := x.dir.map fun d =>
      if d.line = line && !d.cores.contains core then { d with cores := d.cores ++ [core] } else d }) s
  else
    let s := match x.dir with
      | d :: ds => if x.dir.length < 64 then s
          else modSlice sl (fun x => { x with dir := ds }) (startFlush sl d.line s)
      | [] => s
    modSlice sl (fun x => { x with dir := x.dir ++ [⟨line, [core]⟩] }) s

/-- Whether an acquire or a monitor read of a line must wait for a flush (R141). -/
def needsFlush (s : State) (line : Nat) : Bool :=
  match sliceOfKey (line * 128) with
  | none => false
  | some sl => (getSlice s sl).dir.any fun d => d.line == line

/-- Dirty shared lines become owed to the release's line; a ninth entry writes back the oldest entry's lines (R141). -/
def oweTo (line : Nat) (s : State) : State :=
  let s := if s.core.relTab.contains line then s
    else match s.core.relTab with
      | o :: rest => if s.core.relTab.length < 8 then modCore (fun c => { c with relTab := c.relTab ++ [line] }) s
          else modCore (fun c => { c with relTab := rest ++ [line] }) (writeBackOwed o s)
      | [] => modCore (fun c => { c with relTab := [line] }) s
  modCore (fun c => { c with l1 := c.l1.map fun l =>
    if l.cls = .shared && l.dirty != 0 then { l with owed := some line } else l }) s

/-- Whether a release of a scope leaves the dirty lines owed to its line: one at GROVE scope or wider (R141); a line that no
slice holds has no directory (log 22). -/
def lazyAt (sc : Scope) (line : Nat) : Bool := sc != .core && sc != .twig && (sliceOfKey (line * 128)).isSome

/-- The eager release (R216, R217): every dirty shared byte is written back, and every earlier store has been performed or
recorded before the state goes on. -/
def eagerRelease (s : State) : Res State := do
  let t := writeBackShared s
  drained t
  return t

/-- What a release does before it is sent (R210): it waits as DRAINS does, at TWIG scope with every dirty shared byte written
back. At SYS the earlier host writes have completed with that wait. -/
def releaseGate (sc : Scope) (line : Nat) (s : State) : Res State := do
  if sc == .core || lazyAt sc line then
    drained s
    return s
  else eagerRelease s

/-- What a lazy release does as it performs: the dirty shared lines become owed to its line (R141). -/
def releaseOwe (sc : Scope) (line : Nat) (s : State) : State := if lazyAt sc line then oweTo line s else s

/-- Acquire actions (R210). -/
def acquireActs (sc : Scope) (s : State) : State := if sc = .core then s else invalidateShared s

end Sys2Proof.Machine
end

