-- ==== Sys2Proof/Machine/Translate.lean ====
section
/-! DEFINITION. Where an address leads: the untranslated windows (R117, R137, R36), Sv48 (R143, R144), the physical map
(R74, R139), and the range-lock check (R133, R135). -/

namespace Sys2Proof.Machine

/-- The kind of an access (Translate, R7). -/
inductive Acc | read | write | exec | amo
deriving DecidableEq, Repr

/-- The kind of place an address leads to. -/
inductive Loc
  /-- the issuing core's own pool -/
  | own
  /-- another core's scratchpad, through the grove window -/
  | grove (core : Nat)
  /-- slice scratch -/
  | scratch (slice : Nat)
  /-- device DRAM -/
  | dram
  /-- host space -/
  | host
deriving DecidableEq, Repr

/-- A place: memory key, kind, page type, PRIV, write permission and bark form of its page, the last honoured on large leaves of device
DRAM at S3 (R140, R143). -/
structure Place where
  key : Nat
  loc : Loc
  ty : PageTy
  priv : Bool
  wr : Bool
  bark : Bool
deriving DecidableEq, Repr

/-- Access-fault cause (R139). -/
def accessCause : Acc → BitVec 8
  | .read => 5 | .write => 7 | .amo => 7 | .exec => 1

/-- Page-fault cause (R245). -/
def pageCause : Acc → BitVec 8
  | .read => 13 | .write => 15 | .amo => 15 | .exec => 12

/-- Cause of a window access that fails: an AMO takes cause 5 as a load does (R117, R137). -/
def windowCause : Acc → BitVec 8
  | .read => 5 | .write => 7 | .amo => 5 | .exec => 1

/-! ### Windows (R137) -/

/-- Base of the own pool window. -/
def ownWindow : Nat := 0xFFFFFF0000000000
/-- Base of the grove window. -/
def groveWindow : Nat := 0xFFFFFE0000000000
/-- Base of the slice scratch window. -/
def scratchWindow : Nat := 0xFFFFFD0000000000

/-- The 1 TiB region of an address. -/
def regionOf (va : Word) : Nat := va.toNat / 2 ^ 40

/-- Whether an address lies in one of the three windows. -/
def inWindow (va : Word) : Bool := 0xFFFFFD ≤ regionOf va

/-- Whether a grove lies in the partition mask of the core's router (R36). -/
def groveAllowed (s : State) (core g : Nat) : Bool :=
  match partOfGrove s (groveOf core) with
  | none => false
  | some p => p.groves.getLsbD g

/-- Whether a scratch byte lies in the home of an offer group (R51, R53). -/
def inHome (s : State) (slice off n : Nat) : Bool :=
  s.fab.groups.any fun g => g.slice == slice && off < g.home + 4096 * (g.size + 1) && g.home < off + n

/-- Resolves an access of `n` bytes in a window (R36, R53, R117, R137). -/
def resolveWindow (s : State) (va : Word) (n : Nat) (acc : Acc) : Except (BitVec 8) Place :=
  let a := va.toNat
  let bad : Except (BitVec 8) Place := .error (windowCause acc)
  if regionOf va = 0xFFFFFF then
    let off := a % 2 ^ 21
    if a / 2 ^ 21 % 2 ^ 19 != 0 || off + n > Config.poolBytes then bad
    else if off < s.core.dpoolb1 || off + n > s.core.dpoolb2 then bad
    else .ok ⟨poolKey s.core.num off, .own, .uncached, false, true, false⟩
  else if regionOf va = 0xFFFFFE then
    let off := a % 2 ^ 21
    let i := a / 2 ^ 24 % 256
    let t := coreInGrove (groveOf s.core.num) i
    let c := getCore s t
    if a / 2 ^ 32 % 256 != 0 || a / 2 ^ 21 % 8 != 0 || off + n > Config.poolBytes || !present s t then bad
    else if off < c.dpoolb1 || off + n > c.dpoolb2 then bad
    else .ok ⟨poolKey t off, if t = s.core.num then .own else .grove t, .uncached, false, true, false⟩
  else
    let off := a % 2 ^ 20
    let sl := a / 2 ^ 22 % 2 ^ 13
    if a / 2 ^ 35 % 32 != 0 || a / 2 ^ 20 % 4 != 0 || sl ≥ 6144 then bad
    else if !groveAllowed s s.core.num (groveOfTwig sl) then .error 0x22
    else if off + n > scratchSize s sl then bad
    else if (acc = .write || acc = .amo) && inHome s sl off n then .error 0x22
    else .ok ⟨scratchKey sl off, .scratch sl, .uncached, false, true, false⟩

/-! ### Sv48 (R143) -/

/-- A page type from bits [62:61] of a leaf (R143). -/
def pageTyOf (n : Nat) : PageTy :=
  if n = 0 then .cached else if n = 1 then .stream else if n = 2 then .uncached else .device

/-- The translation that a leaf at level `lvl` gives (R143): 4 KiB, 64 KiB, 2 MiB or 1 GiB pages; none is a page fault. -/
def leafOf (asid : Nat) (va pte lvl : Nat) : Option Tlb :=
  let ppn := bits pte 10 44
  let napot := bits pte 63 1 == 1
  if bits pte 54 5 != 0 || lvl > 2 then none
  else if napot && (lvl != 0 || bits ppn 0 4 != 8) then none
  else
    let sz := if napot then 16 else 12 + 9 * lvl
    let pa := if napot then ppn / 16 * 16 * 4096 else ppn * 4096
    if pa % 2 ^ sz != 0 then none
    else if bits pte 6 1 = 0 then none
    else some { asid := asid, va := va / 2 ^ sz * 2 ^ sz, pa := pa, bits := sz,
                r := bits pte 1 1 == 1, w := bits pte 2 1 == 1, x := bits pte 3 1 == 1, u := bits pte 4 1 == 1,
                d := bits pte 7 1 == 1, ty := pageTyOf (bits pte 61 2), bark := bits pte 60 1 == 1, priv := bits pte 59 1 == 1 }

/-- A page-table walk from level `lvl` down (R143, R144): a translation, a page fault (none), or an access fault on the
table itself (RISC-V privileged specification). -/
def walkFrom (s : State) (asid va : Nat) : (lvl table : Nat) → Except Bool Tlb
  | lvl, table =>
    let pa := table + 8 * bits va (12 + 9 * lvl) 9
    if !paExists pa || isHostKey pa then .error true
    else
      let pte := memNat s.mem pa 8
      let r := bits pte 1 1; let w := bits pte 2 1; let x := bits pte 3 1
      if bits pte 0 1 = 0 || (r = 0 && w = 1) then .error false
      else if r = 1 || x = 1 then
        match leafOf asid va pte lvl with
        | some t => .ok t
        | none => .error false
      else if bits pte 54 10 != 0 || bits pte 6 2 != 0 || bits pte 4 1 != 0 then .error false
      else match lvl with
        | 0 => .error false
        | l + 1 => walkFrom s asid va l (bits pte 10 44 * 4096)

/-- The memory keys of the entries that a walk from level `lvl` down reads (R144). -/
def ptesFrom (s : State) (va : Nat) : (lvl table : Nat) → List Nat
  | lvl, table =>
    let pa := table + 8 * bits va (12 + 9 * lvl) 9
    if !paExists pa || isHostKey pa then []
    else
      let pte := memNat s.mem pa 8
      if bits pte 0 1 = 0 || bits pte 1 1 = 1 || bits pte 3 1 = 1 then [pa]
      else match lvl with
        | 0 => [pa]
        | l + 1 => pa :: ptesFrom s va l (bits pte 10 44 * 4096)

/-- The lines of the page-table entries that a walk of a process reads (R144). -/
def walkLines (s : State) (asid va : Nat) : List Nat :=
  match s.root.procs.find? fun p => p.asid == asid with
  | none => []
  | some p => (ptesFrom s va 3 p.root).map lineOf

/-- A page-table walk of a process (R143, log 8). -/
def walk (s : State) (asid va : Nat) : Except Bool Tlb :=
  match s.root.procs.find? fun p => p.asid == asid with
  | none => .error false
  | some p => walkFrom s asid va 3 p.root

/-- Whether a translation covers an address. -/
def Tlb.covers (t : Tlb) (asid va : Nat) : Bool := t.asid == asid && va / 2 ^ t.bits * 2 ^ t.bits == t.va

/-- The translation of an address: the core's TLB, the twig's, or a walk (R144). -/
def lookup (s : State) (asid va : Nat) : Except Bool Tlb :=
  match s.core.tlb.find? fun t => t.covers asid va with
  | some t => .ok t
  | none =>
    match s.ms.twigTlb.find? fun t => t.1 == twigOf s.core.num && t.2.covers asid va with
    | some t => .ok t.2
    | none => walk s asid va

/-- Canonical Sv48 addresses: bits [63:48] equal bit 47. -/
def canonical (va : Nat) : Bool := va / 2 ^ 47 == 0 || va / 2 ^ 47 == 2 ^ 17 - 1

/-- Whether a translation permits an access; `user` is U-mode (R143, R240). -/
def permits (t : Tlb) (acc : Acc) (user : Bool) : Bool :=
  (t.u == user) && match acc with
    | .read => t.r
    | .write => t.w && t.d
    | .exec => t.x
    | .amo => t.r && t.w && t.d

/-- A physical address as a place at a service level (R74, R139, R143). -/
def placeOfPa (sl : BitVec 2) (pa : Nat) (t : Tlb) (acc : Acc) : Except (BitVec 8) Place :=
  if !paExists pa then .error (accessCause acc)
  else if isHostKey pa then
    if acc = .exec then .error 1
    else if acc = .amo then .error 7
    else .ok { key := pa, loc := .host, ty := if t.ty = .device then .device else .uncached, priv := false, wr := t.w, bark := false }
  else .ok { key := pa, loc := .dram, ty := t.ty, priv := t.priv, wr := t.w, bark := t.bark && 21 ≤ t.bits && sl == 3 }

/-- An access through Sv48 in an address space (R143). -/
def resolvePage (s : State) (asid : Nat) (va : Word) (acc : Acc) : Except (BitVec 8) Place :=
  let a := va.toNat
  if !canonical a then .error (pageCause acc) else
  match lookup s asid a with
  | .error true => .error (accessCause acc)
  | .error false => .error (pageCause acc)
  | .ok t => if permits t acc true then placeOfPa s.pkg.sl (t.pa + a % 2 ^ t.bits) t acc else .error (pageCause acc)

/-- A physical address in M-mode, which translates nothing (log 9). -/
def resolveM (sl : BitVec 2) (va : Word) (acc : Acc) : Except (BitVec 8) Place :=
  if va.toNat ≥ 2 ^ 52 then .error (accessCause acc)
  else placeOfPa sl va.toNat ⟨0, 0, 0, 0, true, true, true, true, true, .uncached, false, false⟩ acc

/-- Whether an access is not translated (log 9): one of M-mode, but for a load or store with MPRV set and MPP = U. -/
def untranslated (s : State) (acc : Acc) : Bool :=
  s.core.priv == .m && !(acc != .exec && s.core.mcsr.mprv && s.core.mcsr.mpp == .u)

/-- Translate (R7): where an access of `n` bytes that stay in one page leads, or its cause. -/
def resolve (s : State) (va : Word) (n : Nat) (acc : Acc) : Except (BitVec 8) Place :=
  if inWindow va then resolveWindow s va n acc
  else if untranslated s acc then resolveM s.pkg.sl va acc
  else resolvePage s s.core.asid va acc

/-- Whether the core's TLB lacks the translation of an address: its access waits for the twig's TLB or for a walk (R144, R424). -/
def tlbMiss (s : State) (va : Word) (acc : Acc) : Bool :=
  !inWindow va && !untranslated s acc && canonical va.toNat && !(s.core.tlb.any fun t => t.covers s.core.asid va.toNat)

/-- Whether the twig's TLB holds the translation of an address. -/
def twigHolds (s : State) (va : Word) : Bool :=
  s.ms.twigTlb.any fun t => t.1 == twigOf s.core.num && t.2.covers s.core.asid va.toNat

/-- Walkers in use on a die (R144). -/
def walksOnDie (s : State) (die : Nat) : Nat :=
  ((s.core :: s.cores).filter fun c => dieOf c.num == die).foldl (fun n c => n + (c.walks.filter fun w => w.st == .walker).length) 0

/-- Page-table walkers of a die (R144). -/
def walkers : Nat := 32

/-- Whether a translation that neither TLB holds would have to wait for a walker (R144, R320). -/
def walkersBusy (s : State) (va : Word) : Bool := !twigHolds s va && walkers ≤ walksOnDie s (dieOf s.core.num)

/-- The translation of an address is asked for, if it is not on its way: of the twig's TLB, or of a walk, which takes a free walker of
the die or waits for one (R144, R424). -/
def enterWalk (va : Word) (s : State) : State :=
  let st : WalkSt := if twigHolds s va then .twig else if walkersBusy s va then .queued else .walker
  modCore (fun c => if c.walks.any fun w => w.va == va then c else { c with walks := c.walks ++ [⟨va, st⟩] }) s

/-- The translation of an address that the core's TLB lacks is asked for; nothing waits for it (R144). -/
def walkBehind (va : Word) (acc : Acc) (s : State) : State := if tlbMiss s va acc then enterWalk va s else s

/-! ### Range locks (R133, R135) -/

/-- A grove-window address that names the core itself, as its own-pool-window address (R133, R321). -/
def lockAddr (core : Nat) (va : Word) : Nat :=
  let a := va.toNat
  if regionOf va = 0xFFFFFE && a / 2 ^ 24 % 256 == inGrove core && a / 2 ^ 32 % 256 == 0 && a / 2 ^ 21 % 8 == 0
  then ownWindow + a % 2 ^ 21 else a

/-- Whether [a, a + n), modulo 2^64, touches [lo, hi). -/
def touches (a n lo hi : Nat) : Bool :=
  n != 0 && lo < hi && ((a < hi && lo < a + n) || (lo + 2 ^ 64 < a + n))

/-- Whether a byte of an access lies in a held range (R135). -/
def locked (c : Core) (va : Word) (n : Nat) : Bool :=
  let a := lockAddr c.num va
  c.locks.any fun l => touches a n l.lo l.hi

/-- RangeLockCheck (R7). -/
def rangeLockCheck (s : State) (va : Word) (n : Nat) : Res Unit :=
  if locked s.core va n then .error (.trap 0x20 va) else .ok ()

/-- A resolution whose failure traps with the address (R247). A miss in the core's TLB is a remote reference, whether the twig's TLB
holds the translation or a walk must find it (R99, R144, R424): the access waits, and a walk that has failed lets it go on to its
trap. -/
def resolveT (s : State) (va : Word) (n : Nat) (acc : Acc) : Res Place :=
  if tlbMiss s va acc && s.core.cx.ans.isNone then .error (.wait (.walk va) (enterWalk va s))
  else match resolve s va n acc with
    | .error c => .error (.trap c va)
    | .ok p => if tlbMiss s va acc then .error (.wait (.walk va) (enterWalk va s)) else .ok p

end Sys2Proof.Machine
end

