-- ==== Sys2Proof/Machine/Thread.lean ====
section
/-! DEFINITION. The memory accesses of a context (R99, R135, R140 to R142, R145, R208, R247, R280 to R282): loads, stores,
read-modify-writes, and reads made at the home slice. An access that goes off the core is made in two passes (log 6): the first
sends it and waits, and the second, once the answer has come (`ans`), performs it and completes the instruction. -/

namespace Sys2Proof.Machine

/-! ### L1 (R140, R145) -/

/-- The class of a line, fixed at fill (R140). -/
def classOf (p : Place) : L1Cls := if p.priv then .priv else if p.wr then .shared else .readOnly

/-- Whether a slice may hold the line (R145): no line of an UNCACHED or DEVICE page. -/
def inSlice (p : Place) : Bool := p.ty == .cached || p.ty == .stream

/-- Whether the page type and the hint let a line enter L1 (R145). -/
def entersL1 (p : Place) (h : Hint) : Bool := p.ty == .cached && (h == .dflt || h == .nt)

/-- How an access is placed in the slice of its line (R145, R350). -/
def placing (p : Place) (h : Hint) : Placing := ⟨inSlice p, h == .once, h == .nt, p.bark⟩

/-- Whether every byte of an access stands in L1. -/
def l1Hit (s : State) (k n : Nat) : Bool :=
  match l1Find s.core (lineOf k) with
  | none => false
  | some x => spanMask (k % 128) n &&& ~~~x.valid == 0

/-- Whether the L1 line of a key is POISON (R157, R253). -/
def l1Poison (s : State) (k : Nat) : Bool := ((l1Find s.core (lineOf k)).map (·.poison)).getD false

/-- The dirty bytes of a key's L1 line over others (R140). -/
def underDirty (s : State) (k n : Nat) (f : Nat → Byte) : List Byte :=
  match l1Find s.core (lineOf k) with
  | none => (List.range n).map f
  | some x => (List.range n).map fun i => if x.dirty.getLsbD ((k + i) % 128) then vbyte x.data ((k + i) % 128) else f i

/-- Bytes of a line that all stand in L1 (R140). -/
def l1Bytes (s : State) (k n : Nat) : List Byte :=
  match l1Find s.core (lineOf k) with
  | none => []
  | some x => (List.range n).map fun i => vbyte x.data ((k + i) % 128)

/-- A fill of a line is entered, if none is under way (R140). -/
def enterFill (line : Nat) (cls : L1Cls) (lru bark : Bool) (s : State) : State :=
  modCore (fun c => if c.fills.any (fun f => f.line == line) then c else { c with fills := c.fills ++ [⟨line, cls, lru, bark⟩] }) s

/-- A store's bytes enter the core's L1, where they are valid and dirty; a line that hint NT brings in stands at the place of
least recent use, and a hit of such a store leaves its line where it stands (R140, R145). DESIGN CHOICE (log 77): a store through a
writable alias to a line whose class was fixed Read-only keeps the class, so no release writes the bytes back. -/
def l1Store (p : Place) (h : Hint) (bs : List Byte) (who : StoreOf) (s : State) : State :=
  let line := lineOf p.key
  let m := spanMask (p.key % 128) bs.length
  match l1Find s.core line with
  | some x =>
    let y := { x with data := mergeV x.data (lineData p.key bs) m, valid := x.valid ||| m, dirty := x.dirty ||| m,
                      poison := x.poison && m != -1, last := some who }
    modCore (fun c => { c with l1 := if h == .nt then l1Replace y c.l1 else y :: c.l1.filter (fun l => l.line != line) }) s
  | none =>
    let y : L1Line := ⟨line, lineData p.key bs, m, m, classOf p, none, false, p.bark, h == .nt, some who⟩
    modCore (fun c => { c with l1 := if h == .nt then c.l1 ++ [y] else y :: c.l1 }) (l1Evict line s)

/-! ### Requests and their order (R99, R142, R208) -/

/-- Whether an access goes off the core (R99). -/
def leaves (s : State) (p : Place) (n : Nat) : Bool :=
  match p.loc with
  | .own => false
  | .dram => !(p.ty == .cached && l1Hit s p.key n)
  | _ => true

/-- Some write of the core to the line's slice, or a write held there, comes before an access of the line (R142, R208). -/
def behind (s : State) (line : Nat) : Bool := (writesOf s s.core.num).any (fun w => sameSlice w.line line) || writeHeld s line

/-- A store of the context to host space is under way, or one that its starter made before it (R74, R218, R307). -/
def hostBusy (s : State) : Bool := s.core.cx.behind != 0 || s.core.cx.late.any fun l => !l.host.isEmpty

/-- Some access of the context to a DEVICE page or to host space is under way (R145). -/
def devBusy (s : State) : Bool := (writesOf s s.core.num).any (·.dev) || !s.ms.heldW.isEmpty || hostBusy s

/-- An access waits until the earlier accesses that must be performed first have been (R145, R208). -/
def inOrder (p : Place) (s : State) : Res Unit :=
  if ((bankOfKey p.key).isSome && behind s (lineOf p.key)) || (p.ty == .device && devBusy s) ||
      (p.loc == .host && hostBusy s) then .error (.wait .stores s)
  else .ok ()

/-- A request of the current context enters the mesh (R28, R99, R420); `keep` for one whose answer the context waits for. -/
def sendAsk (keep : Bool) (cls : TClass) (dst : Nat) (want : Option (Nat × Placing)) (s : State) : State :=
  let c := s.core
  countSent (inject ⟨cls, twigOf c.num, dst, .ask ⟨c.num, c.bank.num, c.cx.id, if keep then some c.cx.asks else none⟩ want⟩ s)

/-- A request to a place that is neither the core's own pool nor DRAM (R28): a core of the grove, a slice's scratch, the host. -/
def askFar (p : Place) (s : State) : State :=
  match p.loc with
  | .grove c => sendAsk true .msg (twigOf c) none s
  | .host => sendAsk true .ext (hostNode p.key) none s
  | .scratch i => sendAsk true .req i none s
  | _ => s

/-- What a load sends off the core (R140, R145, R154), or a prefetch, which keeps no answer (R320). -/
def askLoad (keep : Bool) (p : Place) (h : Hint) (s : State) : State :=
  let line := lineOf p.key
  match p.loc with
  | .own => s
  | .dram =>
    let t := sendAsk keep .req (readSlice s line) (some (line, placing p h)) s
    let t := if inSlice p then shareRead line t else t
    if entersL1 p h then enterFill line (classOf p) (h == .nt) p.bark t else t
  | _ => askFar p s

/-- What an access made at the home slice sends there, never to a replica (R210). -/
def askHome (p : Place) (s : State) : State :=
  match p.loc with
  | .own => s
  | .dram => sendAsk true .req (homeSlice p.key) (some (lineOf p.key, placing p .dflt)) s
  | _ => askFar p s

/-- An element of an access: its number, its address and its place. -/
abbrev Elem := Nat × Word × Place

/-- The context sends the requests of a new access off the core and waits for their answers (R99, R304). -/
def sendAll (els : List Elem) (ask : Place → State → State) (s : State) : Res Unit :=
  let t := els.foldl (fun t e => ask e.2.2 t) (modCore (fun c => { c with askNo := c.askNo + 1, cx := { c.cx with asks := c.askNo + 1, got := [] } }) s)
  .error (.wait (if els.any fun e => e.2.2.loc == .host then .host else .remote) t)

/-- Whether the host has answered an element of the access with an error (R74). -/
def hostErr (s : State) (i : Nat) : Bool := (s.core.cx.ans.map (·.getLsbD i)).getD false

/-- The accesses of an instruction whose data must come from off the core: on the first pass they are sent and the context waits
(R99, R304); a host that answers an element with an error raises cause 5 there (R74). -/
def remoteGate (els : List Elem) (ask : Place → State → State) (s : State) : Res Unit :=
  match s.core.cx.ans with
  | none => if els.isEmpty then .ok () else sendAll els ask s
  | some _ =>
    match els.find? fun e => e.2.2.loc == .host && hostErr s e.1 with
    | some e => .error (.trap 5 e.2.1)
    | none => .ok ()

/-- The line of a DRAM address as its slice sent it, for the access that the context makes (R151). -/
def gotLine (s : State) (line : Nat) : Option (BitVec 1024) := (s.core.cx.got.find? fun q => q.1 == line).map (·.2)

/-- The elements of a load that leave the core are asked for together (R99, R348); one whose line has left the core meanwhile is asked
for again. -/
def loadGate (n : Nat) (h : Hint) (els : List Elem) (s : State) : Res Unit :=
  let out := els.filter fun e => leaves s e.2.2 n
  let lost := out.filter fun e => e.2.2.loc == .dram && (gotLine s (lineOf e.2.2.key)).isNone
  if s.core.cx.ans.isNone then
    if out.isEmpty then .ok ()
    else do
      out.forM fun e => inOrder e.2.2 s
      sendAll out (fun p t => askLoad true p h t) s
  else if lost.isEmpty then .ok () else sendAll out (fun p t => askLoad true p h t) s

/-- A load's bytes and the state after it. -/
structure Got where
  bytes : List Byte
  st : State

/-- A load of `n` bytes of one line performed at its place (R137, R140, R145, R151, R157): in L1, else with the line that the slice
has sent under the core's own dirty bytes, else at the place itself; `i` numbers the element. A hit under hint NT leaves its line where
it stands. -/
def loadAt (i : Nat) (p : Place) (va : Word) (n : Nat) (h : Hint) (s : State) : Res Got :=
  if p.loc == .dram && p.ty == .cached && l1Hit s p.key n then
    if l1Poison s p.key then .error (.trap 0x25 va)
    else .ok ⟨l1Bytes s p.key n, if h == .nt then s else l1Touch (lineOf p.key) s⟩
  else do
    if p.loc == .host && hostErr s i then throw (.trap 5 va)
    if poisoned s p.key n || (p.loc == .dram && p.ty == .cached && l1Poison s p.key) then throw (.trap 0x25 va)
    match p.loc, gotLine s (lineOf p.key) with
    | .dram, some d =>
      let at_ := fun j => vbyte d ((p.key + j) % 128)
      return ⟨if p.ty == .cached then underDirty s p.key n at_ else (List.range n).map at_, s⟩
    | _, _ =>
      inOrder p s
      return ⟨memRead s.mem p.key n, s⟩

/-- MemLoad (R7): the range-lock check, the translation, the load. -/
def memLoad (va : Word) (n : Nat) (h : Hint) (s : State) : Res Got := do
  rangeLockCheck s va n
  let p ← resolveT s va n .read
  loadGate n h [(0, va, p)] s
  loadAt 0 p va n h s

/-! ### Stores -/

/-- The record a store makes if it fails (R248). -/
def storeRec (s : State) (va : Word) (n : Nat) (data : Word) (cause : BitVec 8) (src : BitVec 2) : Rec :=
  ⟨va, data, s.core.cx.pc, cause, BitVec.ofNat 4 n, src, 0, 0, 0, false⟩

/-- The current context as the maker of a store that has retired, with the record it makes if its bytes are dropped. -/
def storeOf (r : Rec) (s : State) : StoreOf := ⟨s.core.bank.num, s.core.cx.id, r, s.core.cx.instret⟩

/-- A store of bytes of one line at a place that takes it; one whose placement excludes L1 leaves for its home slice (R145, R208,
R350). `r` is the record that it makes if they are dropped there. -/
def storeAt (p : Place) (bs : List Byte) (h : Hint) (r : Rec) (s : State) : State :=
  let w := storeOf r s
  let send := sendWrite ⟨lineOf p.key, lineData p.key bs, spanMask (p.key % 128) bs.length, placing p h, p.ty == .device, false, some w⟩
  match p.loc with
  | .own => perform p.key bs s
  | .host => s
  | .grove _ | .scratch _ => send s
  | .dram => if entersL1 p h then l1Store p h bs w s else send (updateL1 p.key bs s)

/-- A store that is to be recorded or taken by the host later (R247, R74). -/
def addLate (l : Late) (s : State) : State := modCx (fun c => { c with late := c.late ++ [l] }) s

/-- RecordStoreFault (R7): the failing bytes are dropped; the record follows (STORE_FAULT_RECORD, log 6). -/
def recordStoreFault (r : Rec) (s : State) : State := addLate ⟨some (0, r), []⟩ s

/-- A store to host space leaves in an EXT packet (R420). -/
def sendHost (pa : Nat) (s : State) : State :=
  let c := s.core
  countSent (inject ⟨.ext, twigOf c.num, hostNode pa, .hostStore c.num c.bank.num c.cx.id pa⟩ s)

/-- A store to host space under way (R74). -/
def addHostStore (l : Late) (pa : Nat) (s : State) : State := addLate l (sendHost pa s)

/-- An element on its way to host space, with the record that it makes if the host refuses it (R74). -/
def hostElem (i : Nat) (r : Rec) (p : Place) (bs : List Byte) : HostElem :=
  ⟨i, r, (List.range bs.length).map fun j => (p.key + j, bs.getD j 0)⟩

/-- Whether a store of part of a line meets poison at its home or in L1 (R157). -/
def storePoison (s : State) (p : Place) (n : Nat) : Bool :=
  n < 128 && (poisoned s p.key n || (p.loc == .dram && p.ty == .cached && l1Poison s p.key))

/-- Where a store leads, or the cause under which it fails late (R117, R137, R157, R247). -/
def storePlace (s : State) (va : Word) (n : Nat) : Except (BitVec 8) Place :=
  match resolve s va n .write with
  | .error c => .error c
  | .ok p => if storePoison s p n then .error 0x25 else .ok p

/-- A store to a DEVICE page or to host space keeps the program order of such stores (R145): one to host space waits for those
that are under way to slices, and the other way about, without giving up the issue slot (R99). -/
def deviceGate (p : Place) (s : State) : Res Unit :=
  if p.ty == .device && (if p.loc == .host then (writesOf s s.core.num).any (·.dev) || !s.ms.heldW.isEmpty
      else hostBusy s) then .error .stall else .ok ()

/-- MemStore (R7) after the instruction has retired: the range-lock check is precise, every other failure is recorded. A
store to host space is under way until the host has taken it (R74). `s` is the state before, `t` the one after `adv`. -/
def memStore (va : Word) (n : Nat) (data : Nat) (h : Hint) (src : BitVec 2) (s t : State) : Res State := do
  rangeLockCheck s va n
  let r := fun c => storeRec s va n (BitVec.ofNat 64 (data % 256 ^ n)) c src
  match storePlace s va n with
  | .error c => return recordStoreFault (r c) t
  | .ok p =>
    deviceGate p s
    let bs := bytesOfNat n data
    if p.loc == .host then return addHostStore ⟨none, [hostElem 0 (r 7) p bs]⟩ p.key t
    else return storeAt p bs h (r 0x25) (walkBehind va .write t)

/-! ### Accesses at the home slice (R142, R154, R208) -/

/-- The core's own dirty bytes of a line of DRAM leave for the home slice before its access (R142). -/
def flushOwn (p : Place) (s : State) : State := if p.loc == .dram then writeBackLine (lineOf p.key) s else s

/-- A write of a REPL line that must be performed in one step with what goes with it is held until every replica is invalidated
(R154). -/
def holdRmw (line : Nat) (s : State) : State :=
  if writeHeld s line then s
  else holdWrite s.core.num line 0 0 Placing.dflt none s

/-- Such a write waits until every replica is invalidated (R154). -/
def replicaGate (p : Place) (s : State) : Res Unit :=
  if lineHeld s (lineOf p.key) then .error (.wait (.flush (lineOf p.key)) (holdRmw (lineOf p.key) s)) else .ok ()

/-- An acquire or a monitor read whose line a release is recorded against waits for the flush (R141). -/
def acquireGate (p : Place) (s : State) : Res Unit :=
  let line := lineOf p.key
  if needsFlush s line then
    match sliceOfKey p.key with
    | none => .ok ()
    | some sl => .error (.wait (.flush line) (startFlush sl line s))
  else .ok ()

/-- A read of `n` bytes at the place itself, never from L1 or a replica (R210, R314, R317); `acq` for an acquire or a monitor
read. -/
def homeLoad (acq : Bool) (p : Place) (va : Word) (n : Nat) (s : State) : Res Got := do
  let s := flushOwn p s
  if p.loc != .own then remoteGate [(0, va, p)] askHome s
  if acq then acquireGate p s
  inOrder p s
  if poisoned s p.key n then throw (.trap 0x25 va)
  let bs := memRead s.mem p.key n
  return ⟨bs, if p.loc == .dram then refreshL1 p.key bs s else s⟩

/-- Everything that comes before a read-modify-write performs: its release's waits, the core's own bytes of the line, the way to
its place, an acquire's flush, the accesses and replicas before it (R141, R142, R154, R208, R210). -/
def rmwReady (p : Place) (va : Word) (acq : Bool) (rel : Option Scope) (s : State) : Res State := do
  let s ← match rel, s.core.cx.ans with
    | some sc, none => releaseGate sc (lineOf p.key) s
    | _, _ => pure s
  let s := flushOwn p s
  if p.loc != .own then remoteGate [(0, va, p)] askHome s
  if acq then acquireGate p s
  inOrder p s
  replicaGate p s
  return s

/-- The old value of a read-modify-write and the state after it. -/
structure Old where
  old : Nat
  st : State

/-- Amo (R7): one indivisible read-modify-write of `n` bytes at its place (R142, R280). -/
def rmwAt (p : Place) (va : Word) (n : Nat) (f : Nat → Nat) (s : State) : Res Old :=
  if poisoned s p.key n then .error (.trap 0x25 va)
  else
    let old := memNat s.mem p.key n
    let bs := bytesOfNat n (f old)
    let t := performNow (placing p .dflt) p.key bs s
    .ok ⟨old, if p.loc == .dram then refreshL1 p.key bs t else t⟩

/-- A release store at its place (R317): performed there, the core's own L1 bytes updated and not marked dirty. -/
def homeStore (p : Place) (bs : List Byte) (s : State) : State :=
  match p.loc with
  | .own => perform p.key bs s
  | .dram => refreshL1 p.key bs (performNow (placing p .dflt) p.key bs (countSent (visitLine (lineOf p.key) s)))
  | _ => perform p.key bs (countSent (visitLine (lineOf p.key) s))

/-- Bytes of an access cross a 128 B line (R282). -/
def crossesLine (va : Word) (n : Nat) : Bool := va.toNat % 128 + n > 128

/-- Not naturally aligned (R282). -/
def misaligned (va : Word) (n : Nat) : Bool := va.toNat % n != 0

end Sys2Proof.Machine
end

