-- ==== Sys2Proof/Machine/Contexts.lean ====
section
/-! DEFINITION. Contexts and banks (R95, R96, R101 to R105, R108, R109, R111 to R113, R251, R306 to R310). -/

namespace Sys2Proof.Machine

/-! ### Register-region slots (R105, R115, R118) -/

/-- Slots a bank holds: one for its control context, one for each live helper, none once a spill has freed them. -/
def slotsUsed (c : Core) (b : Bool) : Nat :=
  let k := c.bankOf b
  if k.slotsFreed then 0
  else ((c.ctxsOf b).filter fun x => x.id != 0 && x.live).length + k.bound.isSome.toNat

/-- Whether the active bank may hold slots beyond its stage's reservation: the other bank is spilled or empty (R105). -/
def slotsSpare (c : Core) : Bool := c.shadow.bound.isNone || c.shadow.slotsFreed

/-- Helpers that the active bank's stage reserved and has not started (R92, R105). -/
def slotsReserved (c : Core) : Bool :=
  ((c.ctxsOf c.bank.num).filter fun x => x.id != 0 && x.live).length < (c.bank.bound.map (·.helpers)).getD 0

/-- Whether a register-region slot is free for a helper of the active bank (R105). DESIGN CHOICE (log 75): helpers that were
started beyond the reservation while the other bank was empty keep their slots when a launch binds there, so that an HSTART within
that launch's reservation can fail; the spec says nothing of the case. -/
def slotFree (c : Core) : Bool :=
  slotsUsed c false + slotsUsed c true < c.dpoolb0 / Config.slotBytes && (slotsReserved c || slotsSpare c)

/-- The top of a context's stack area (R112). -/
def stackTop (b : Bank) (id : Nat) : Word := (b.dhstack + BitVec.ofNat 64 (id + 1) * b.dhstksz) &&& ~~~15#64

/-- The lowest free helper id of the active bank (R112). -/
def freeHelper (c : Core) : Option Nat :=
  ((List.range 10).map (· + 1)).find? fun id => !((c.ctxsOf c.bank.num).any fun x => x.id == id && x.live)

/-- Late stores of a context up to its last one to host space. -/
def hostDepth (l : List Late) : Nat := (l.reverse.dropWhile fun x => x.host.isEmpty).length

/-- The lost count that a context of a bank goes on with (R249): it clears only at stage bind. -/
def lostOf (b : Bank) (id : Nat) : BitVec 16 := ((b.lost.find? fun x => x.1 == id).map (·.2)).getD 0

/-- A helper as HSTART starts it (R307), with its lost count as it stands (R249), behind its starter's stores to host space (R218). -/
def helperCtx (id : Nat) (entry arg sp dtvec : Word) (lost : BitVec 16) (behind : Nat) : Ctx :=
  { Ctx.reset id with
    st := .ready, pc := entry, dtvec := dtvec, lost := lost, behind := behind
    x := ((Vector.replicate 32 (0 : Word)).set 10 arg).set 2 sp }

/-- HSTART (R307, R112). -/
def hstartStep (rs2 rs1 rd : RegNo) (w : Option W32) (s : State) : Res State :=
  let c := s.core
  if c.cx.id ≠ 0 then .error (.trap 2 ((w.getD 0).zeroExtend 64))
  else
    let e := readX s rs1
    if e.extractLsb' 0 2 ≠ 0 then .error (.trap 0 e)
    else match freeHelper c with
      | none => .ok (adv (writeX rd (-1) s))
      | some id =>
        if !slotFree c then .ok (adv (writeX rd (-1) s))
        else
          let h := helperCtx id e (readX s rs2) (stackTop c.bank id) c.cx.dtvec (lostOf c.bank id) (hostDepth c.cx.late)
          .ok (adv (writeX rd (BitVec.ofNat 64 id) (modBank (fun b => { b with ctxs := insertCtx h b.ctxs }) s)))

/-- HSTART (R307). -/
def execHstart (rs2 rs1 rd : RegNo) (s : State) : Out :=
  .next (orTrap (hstartStep rs2 rs1 rd (encode (.hstart rs2 rs1 rd)) s) s)

/-- Whether a helper of the active bank is live. -/
def helperLive (c : Core) (id : Nat) : Bool := (c.ctxsOf c.bank.num).any fun x => x.id == id && x.live

/-- Whether any helper of the active bank is live. -/
def anyHelper (c : Core) : Bool := (c.ctxsOf c.bank.num).any fun x => x.id != 0 && x.live

/-- HJOIN (R308). -/
def hjoinStep (rs1 rd : RegNo) (w : Option W32) (s : State) : Res State :=
  if s.core.cx.id ≠ 0 then .error (.trap 2 ((w.getD 0).zeroExtend 64))
  else
    let id := (readX s rs1).toNat
    if id < 1 ∨ 10 < id then .ok (adv (writeX rd (-1) s))
    else if helperLive s.core id then .error (.wait (.join id) s)
    else .ok (adv (writeX rd 0 s))

/-- HJOIN (R308). -/
def execHjoin (rs1 rd : RegNo) (s : State) : Out := .next (orTrap (hjoinStep rs1 rd (encode (.hjoin rs1 rd)) s) s)

/-- HLIVE (R309). -/
def execHlive (rd : RegNo) (s : State) : Out :=
  .next (adv (writeX rd (BitVec.ofNat 64 (liveMask s.core s.core.bank.num)) s))

/-- YIELD (R309): a switch event of R98. -/
def execYield (s : State) : Out := .next (switchEvent (adv s))

/-- What a context leaves behind when it ends: its reservation and its monitor (R281, R314). -/
def forgetCtx (core : Nat) (b : Bool) (id : Nat) (s : State) : State :=
  { s with resv := s.resv.filter (fun r => !(r.core == core && r.bank == b && r.ctx == id)),
           mons := s.mons.filter (fun m => !(m.core == core && m.bank == b && m.ctx == id)) }

/-- Commands of a helper that exits go on under the control context, with the count so far (R248, R252). -/
def orphan (b : Bool) (id : Nat) (now : Word) (e : Entry) : Entry :=
  if e.bank = b && e.ctx = id then
    { e with ctx := 0, icBase := none, icDone := match e.icBase with
      | some v => icDiff now v
      | none => e.icDone }
  else e

/-- HEXIT (R251): it waits as DRAINS does, moves the records to the control context, where their counts go on (R248), and frees
the helper, whose lost count stays (R249). -/
def hexitStep (w : Option W32) (s : State) : Res State := do
  let id := s.core.cx.id
  if id = 0 then .error (.trap 2 ((w.getD 0).zeroExtend 64))
  else
    drained s
    let s := adv s
    let b := s.core.bank.num
    let s := s.core.cx.recs.foldl (fun s r => modCore (·.modCtx b 0 (appendRec { r with fixed := false })) s) s
    let lost := s.core.cx.lost
    let s := modBank (fun k => { k with lost := (id, lost) :: k.lost.filter fun x => x.1 != id }) s
    let s := forgetCtx s.core.num b id (modCx (fun c => { c with st := .free, recs := [] }) s)
    let now := s.core.cx.instret
    let s := modCore (fun c => { c with
      mq := c.mq.map (orphan b id now), cq := c.cq.map (orphan b id now), gq := c.gq.map (orphan b id now) }) s
    let s := wake (fun k _ w => k == b && (w == .join id || w == .helpers)) s
    .ok (switchEvent s)

/-- HEXIT (R251). -/
def execHexit (s : State) : Out := .next (orTrap (hexitStep (encode .hexit) s) s)

/-! ### Swaps (R101 to R104) -/

/-- Priority class of a bank's launch. -/
def prioOf (b : Bank) : Nat := (b.bound.map (·.prio)).getD 0

/-- Whether a bank holds a launch that its core has not left (R92, R96). -/
def holdsLaunch (b : Bank) : Bool := ((b.bound.map fun d => !d.left).getD false) && !b.dead

/-- A swap begins at an instruction boundary (R102), of U-mode code (log 9): owed lines start on their way home (R141); a spilled bank is filled
before it becomes active (R104). -/
def beginSwap (mwait : Bool) (s : State) : State :=
  if s.core.swap.isSome || !s.core.shadow.bound.isSome || s.core.priv == .m then s
  else
    let s := writeBackWhere (fun l => l.owed.isSome) s
    modCore (fun c => { c with relTab := [], swap := some ⟨mwait, c.shadow.spilled, [], []⟩ }) s

/-- A context of a bank that becomes active starts its waiting instruction again (R305). -/
def restartCtx (x : Ctx) : Ctx :=
  match x.st with
  | .waiting _ => { x with st := .ready, ans := none, got := [] }
  | _ => { x with ans := none, got := [] }

/-- The two banks change places (R102): the outgoing bank's reservations are lost (R281), and the incoming bank goes on
with the context that was current when it left, or its lowest id where that one has ended: R101 does not name it
(DESIGN CHOICE, log 101). -/
def exchangeBanks (s : State) : State :=
  let c := s.core
  let outB := { c.bank with ctxs := putBack c.cx c.bank.ctxs, cur := c.cx.id, used := 0 }
  let inB := c.shadow
  let s := { s with resv := s.resv.filter fun r => !(r.core == c.num && r.bank == outB.num) }
  let ctxs := inB.ctxs.map restartCtx
  let cur := (ctxs.find? fun x => x.id == inB.cur).getD (ctxs.headD (Ctx.reset 0))
  modCore (fun c => { c.withCx cur with
    bank := { inB with ctxs := ctxs.filter (fun x => x.id != cur.id), cur := cur.id, used := 0, seek := false }, shadow := outB }) s

/-- SHSWAP (R104, R310): in M-mode the swap of R104, with a spill of the outgoing bank where its save area is set; the
firmware's episode ends and the interrupted context resumes in its turn (log 9). -/
def shswapStep (w : Option W32) (s : State) : Res State :=
  if s.core.priv ≠ .m then .error (.trap 2 ((w.getD 0).zeroExtend 64))
  else if !holdsLaunch s.core.shadow then .ok (adv s)
  else
    let save := if s.core.bank.num then s.core.dsave1 else s.core.dsave0
    let s := modCore (fun c => { leaveM c with priv := .u }) s
    let s := modCore (fun c => { c with spilling := if save = 0 then none else some c.bank.num }) s
    .ok (beginSwap false s)

/-- SHSWAP (R310). -/
def execShswap (s : State) : Out := .next (orTrap (shswapStep (encode .shswap) s) s)

/-! ### Leaving and changing a stage (R61, R96, R109, R113) -/

/-- A core withdraws from the domains of a channel up to their top nodes (R61). -/
def withdraw (n : Nat) (k : BitVec 3) (launch : Nat) (s : State) : State :=
  modFab (fun f => { f with doms := f.doms.map fun d =>
    if d.chan = k && d.launch = launch && d.members.contains n && !d.left.contains n then { d with left := d.left ++ [n] } else d }) s

/-- A bank's core leaves a channel: its fields clear and it belongs to no bank (R61). -/
def leaveChannel (k : BitVec 3) (c : Core) : Core :=
  { c with dmemb := c.dmemb &&& ~~~(0xF#64 <<< (4 * k.toNat)),
           chans := c.chans.set k.toNat ⟨false, false, false, none⟩ k.isLt,
           phase := if c.phase = some k then none else c.phase }

/-- The bank of a core leaves its channel, if its stage is a domain (R61). -/
def leaveStageChannel (n : Nat) (b : Bool) (s : State) : State :=
  match ((getCore s n).bankOf b).bound with
  | none => s
  | some bd => match bd.chan with
    | none => s
    | some k => withdraw n k bd.launch (modCoreAt n (leaveChannel k) s)

/-- Entries of a bank in the three queues. -/
def bankEntries (c : Core) (b : Bool) : List Entry := (c.mq ++ c.cq ++ c.gq).filter fun e => e.bank == b

/-- A bank whose core has left its stage and whose commands have all retired is free for placement (R113). -/
def freeIfDone (b : Bool) (c : Core) : Core :=
  let k := c.bankOf b
  let gone := (k.bound.map (·.left)).getD false || k.dead
  if gone && (bankEntries c b).isEmpty then
    c.modBankOf b fun k => { k with bound := none, stopped := false, dead := false, spilled := false, slotsFreed := false, rebind := .none }
  else c

/-- The launch's table shows that a core has left (R96). -/
def markGone (launch n : Nat) (s : State) : State :=
  modRoot (fun r => { r with launches := r.launches.map fun l =>
    if l.id = launch then { l with placed := l.placed.map fun p => if p.core = n then { p with gone := true } else p } else l }) s

/-- The active bank's core leaves its stage (R61, R96, R101, R113, R140, R141). -/
def leaveStage (s : State) : State :=
  let c := s.core
  let b := c.bank.num
  let s := writeBackWhere (fun l => l.cls == .priv || l.owed.isSome) s
  let s := modCore (fun c => { c with relTab := [] }) s
  let s := leaveStageChannel c.num b s
  let s := match c.bank.bound with
    | none => s
    | some bd => markGone bd.launch c.num s
  let s := forgetCtx c.num b 0 s
  let s := modCx (fun x => { x with st := .free }) s
  let s := modBank (fun k => { k with bound := k.bound.map fun d => { d with left := true } }) s
  let s := if holdsLaunch s.core.shadow then beginSwap false s else s
  modCore (freeIfDone b) s

/-- VA of the oldest record, the value of cause 0x23 (R245). -/
def oldestVa (c : Ctx) : Word := (c.recs.head?.map (·.va)).getD 0

/-- STGEND (R113, R250, R251, R309). -/
def stgendStep (w : Option W32) (s : State) : Res State :=
  if s.core.cx.id ≠ 0 then .error (.trap 2 ((w.getD 0).zeroExtend 64))
  else if anyHelper s.core then .error (.wait .helpers s)
  else if storesOut s then .error (.wait .stores s)
  else if s.core.cx.pend then .ok (takeTrap 0x23 (oldestVa s.core.cx) s)
  else .ok (leaveStage (modCx Ctx.retire s))

/-- STGEND (R113). -/
def execStgend (s : State) : Out := .next (orTrap (stgendStep (encode .stgend) s) s)

/-! ### Readiness, as the trees see it (R46, R47, R56) -/

/-- Readiness of a core for a group. -/
def readinessOf (c : Core) (g : Nat) : Nat := ((c.ready.find? fun x => x.1 == g).map (·.2)).getD 0

/-- Sum of a core's readiness counts. -/
def readySum (c : Core) : Nat := (c.ready.map (·.2)).sum

/-- Sets a core's readiness for a group. -/
def setReadyOf (g v : Nat) (c : Core) : Core :=
  { c with ready := if v = 0 then c.ready.filter (fun x => x.1 != g) else (g, v) :: c.ready.filter (fun x => x.1 != g) }

/-- A core's total for a group leaves for its twig node; several within the time of an update arrive as one (R47). -/
def sendTotal (n g : Nat) (s : State) : State :=
  let u : Update := ⟨⟨1, twigOf n⟩, g, n % 4, readinessOf (getCore s n) g⟩
  modFab (fun f =>
    let old := f.updates.filter (fun x => !(x.node == u.node && x.group == g && x.child == u.child))
    { f with updates := old ++ [u] }) s

/-- Changes a core's readiness and sends the total upward. -/
def setReadiness (n g v : Nat) (s : State) : State := sendTotal n g (modCoreAt n (setReadyOf g v) s)

/-- A message returns to the twig node of a core, with the core's total (R50, R56). -/
def bounceFrom (n : Nat) (m : Msg) (s : State) : State :=
  let p : Packet := ⟨.msg, twigOf n, twigOf n, .bounce ⟨1, twigOf n⟩ (n % 4) (readinessOf (getCore s n) m.group) m⟩
  modFab (fun f => { f with net := f.net ++ [p] }) s

/-! ### STGBIND (R56, R109) -/

/-- The launch with an id. -/
def launch? (s : State) (id : Nat) : Option Launch := s.root.launches.find? fun l => l.id == id

/-- The finalised image of a launch. -/
def imageOf (s : State) (l : Launch) : Option Image := s.root.images.find? fun i => i.handle == l.image && i.asid == l.asid

/-- Entry address of a stage: its offset into the image's text (R70). -/
def stageEntry (s : State) (l : Launch) (k : Nat) : Word :=
  let base : Word := match imageOf s l with
    | some i => i.img.textVa
    | none => 0
  let off : Word := match l.stages[k]? with
    | some d => d.entry.zeroExtend 64
    | none => 0
  base + off

/-- Cores of a stage that have not left it. -/
def stageCores (l : Launch) (k : Nat) : List Placed := l.placed.filter fun p => p.stage == k && !p.gone

/-- The offer group of a stage (R44). -/
def stageGroup (s : State) (launch k : Nat) : Option Nat :=
  (s.fab.groups.find? fun g => g.launch == launch && g.stage == k).map (·.num)

/-- Moves a core from stage `d` to stage `r` of its launch: it takes the index of R's previous core count, and the core
with D's highest index takes the vacated one (R109). DESIGN CHOICE (log 99): a core that has left by STGEND counts in neither stage, so
its index in R may be one that a core of R still holds. -/
def rebindPlaced (n d r : Nat) (l : Launch) : Launch :=
  let top := ((stageCores l d).map (·.index)).foldl max 0
  let nr := (stageCores l r).length
  let old := ((l.placed.find? fun p => p.core == n).map (·.index)).getD 0
  { l with placed := l.placed.map fun p =>
      if p.core = n then { p with stage := r, index := nr }
      else if p.stage = d && !p.gone && p.index = top then { p with index := old } else p }

/-- Every core of two stages takes its index and the stage's count from the launch's table (R109, R288). -/
def refreshBound (l : Launch) (s : State) : State :=
  l.placed.foldl (fun s p =>
    if p.gone then s
    else modCoreAt p.core (fun c => c.modBankOf p.bank fun k =>
      match k.bound with
      | none => k
      | some bd => if bd.launch = l.id && bd.stage = p.stage
          then { k with bound := some { bd with index := p.index, count := (stageCores l p.stage).length } } else k) s) s

/-- A core belongs to group B instead of group A (R56, R109). -/
def joinGroup (n : Nat) (a b : Option Nat) (s : State) : State :=
  modFab (fun f => { f with groups := f.groups.map fun g =>
    let ms := if a == some g.num then g.members.filter fun m => m != n else g.members
    { g with members := if b == some g.num then ms.filter (fun m => m != n) ++ [n] else ms } }) s

/-- Readiness and inbox move from group A to group B in one step (R56). -/
def moveGroups (a b : Option Nat) (s : State) : State :=
  let n := s.core.num
  let old := match a with
    | none => 0
    | some g => readinessOf s.core g
  let s := match a with
    | none => s
    | some g =>
      let s := setReadiness n g 0 s
      let ms := s.core.inbox.filter fun m => m.group == g
      let s := modCore (fun c => { c with inbox := c.inbox.filter fun m => m.group != g }) s
      ms.foldl (fun s m => bounceFrom n m s) s
  match b with
  | none => s
  | some g =>
    let room := Config.inboxSlots - readySum s.core - s.core.inbox.length
    setReadiness n g (min old room) s

/-- STGBIND once every helper has ended (R56, R109). -/
def doStgbind (bd : Bound) (l : Launch) (r : Nat) (s : State) : State :=
  let s := joinGroup s.core.num bd.group (stageGroup s bd.launch r) (moveGroups bd.group (stageGroup s bd.launch r) s)
  let l2 := rebindPlaced s.core.num bd.stage r l
  let s := modRoot (fun t => { t with launches := t.launches.map fun x => if x.id = l.id then l2 else x }) s
  let nr := (stageCores l2 r).length
  let e := stageEntry s l r
  let s := modBank (fun b => { b with rebind := .none, lastTake := none, bound := some { bd with
    stage := r, index := nr - 1, count := nr, entry := e, group := stageGroup s bd.launch r,
    helpers := ((l.stages[r]?).map (·.helpers)).getD 0 } }) s
  let s := refreshBound l2 s
  jumpTo e (writeX 11 (BitVec.ofNat 64 nr) (writeX 10 (BitVec.ofNat 64 (nr - 1)) s))

/-- STGBIND (R109, R113). -/
def stgbindStep (w : Option W32) (s : State) : Res State :=
  let bad : Res State := .error (.trap 2 ((w.getD 0).zeroExtend 64))
  if s.core.cx.id ≠ 0 then bad
  else match s.core.bank.rebind, s.core.bank.bound with
    | .delivered r, some bd =>
      match launch? s bd.launch with
      | none => bad
      | some l => if anyHelper s.core then .error (.wait .helpers s) else .ok (doStgbind bd l r s)
    | _, _ => bad

/-- STGBIND (R109). -/
def execStgbind (s : State) : Out := .next (orTrap (stgbindStep (encode .stgbind) s) s)

end Sys2Proof.Machine
end

