-- ==== Sys2Proof/Machine/Flags.lean ====
section
/-! DEFINITION. Floating formats, rounding and flags (R181 to R189): exact values, Round, Sat, the conversions, and the
flag computation of every floating operation. -/

namespace Sys2Proof.Machine

/-- The flags of fcsr: NV [4], DZ [3], OF [2], UF [1], NX [0] (R187). -/
abbrev Flags := BitVec 5

/-- Invalid. -/
def fNV : Flags := 16
/-- Division by zero. -/
def fDZ : Flags := 8
/-- Overflow. -/
def fOF : Flags := 4
/-- Underflow. -/
def fUF : Flags := 2
/-- Inexact. -/
def fNX : Flags := 1

/-- Rounding modes (R188). -/
inductive RMode | rne | rtz | rdn | rup | rmm
deriving DecidableEq, Repr

/-- A floating format (R181): fraction bits, exponent bits, bias, and whether it is e4m3n (R182). -/
structure FF where
  frac : Nat
  ebits : Nat
  bias : Nat
  narrow : Bool
deriving DecidableEq, Repr

/-- binary64 (RISC-V D). -/
def ff64 : FF := ⟨52, 11, 1023, false⟩
/-- fp32. -/
def ff32 : FF := ⟨23, 8, 127, false⟩
/-- fp16. -/
def ff16 : FF := ⟨10, 5, 15, false⟩
/-- bf16. -/
def ffbf : FF := ⟨7, 8, 127, false⟩
/-- e5m2. -/
def ffe5 : FF := ⟨2, 5, 15, false⟩
/-- e4m3n. -/
def ffe4 : FF := ⟨3, 4, 7, true⟩

/-- Width of a format in bits. -/
def FF.width (f : FF) : Nat := 1 + f.ebits + f.frac

/-- The sign bit's weight. -/
def FF.signW (f : FF) : Nat := 2 ^ (f.ebits + f.frac)

/-- The canonical NaN (R185). -/
def FF.nan (f : FF) : Nat :=
  if f.narrow then 0x80 else (2 ^ f.ebits - 1) * 2 ^ f.frac + 2 ^ (f.frac - 1)

/-- An infinity; e4m3n has none and gives its NaN (R186). -/
def FF.inf (f : FF) (neg : Bool) : Nat :=
  if f.narrow then 0x80 else (if neg then f.signW else 0) + (2 ^ f.ebits - 1) * 2 ^ f.frac

/-- The largest finite value (R181). -/
def FF.largest (f : FF) (neg : Bool) : Nat :=
  (if neg then f.signW else 0) + (if f.narrow then 0x7E else (2 ^ f.ebits - 1) * 2 ^ f.frac - 1)

/-- A value: a NaN, an infinity, or (−1)^neg · m · 2^e, a little more in magnitude when `st` (a quotient or a root cut
off well below its last kept bit). -/
inductive Fv
  | nan (signalling : Bool)
  | inf (neg : Bool)
  | fin (neg : Bool) (m : Nat) (e : Int) (st : Bool)
deriving DecidableEq, Repr

/-- Decode (R7, R181, R182). -/
def decodeF (f : FF) (b : Nat) : Fv :=
  let neg := b / f.signW % 2 == 1
  let e := b / 2 ^ f.frac % 2 ^ f.ebits
  let m := b % 2 ^ f.frac
  if f.narrow then
    if b % 256 = 0x80 then .nan false
    else if b % 128 = 0x7F then .fin neg 7 6 false
    else if e = 0 then .fin neg m (1 - f.bias - f.frac) false
    else .fin neg (m + 2 ^ f.frac) (e - f.bias - f.frac) false
  else if e = 2 ^ f.ebits - 1 then
    if m = 0 then .inf neg else .nan (m / 2 ^ (f.frac - 1) == 0)
  else if e = 0 then .fin neg m (1 - f.bias - f.frac) false
  else .fin neg (m + 2 ^ f.frac) (e - f.bias - f.frac) false

/-- Bits of a number. -/
def blen (m : Nat) : Nat := if m = 0 then 0 else Nat.log2 m + 1

/-- Rounds m · 2^e (a little more when `st`) to a multiple of 2^q: the multiple, and whether it is inexact. -/
def roundAt (mode : RMode) (neg : Bool) (m : Nat) (e : Int) (st : Bool) (q : Int) : Nat × Bool :=
  if q ≤ e then (m * 2 ^ (e - q).toNat, st)
  else
    let sh := (q - e).toNat
    let quo := m >>> sh
    let rem := m % 2 ^ sh
    let half := 2 ^ (sh - 1)
    let inexact := rem != 0 || st
    let up := match mode with
      | .rne => rem > half || (rem == half && (st || quo % 2 == 1))
      | .rmm => rem ≥ half
      | .rtz => false
      | .rdn => neg && inexact
      | .rup => !neg && inexact
    (if up then quo + 1 else quo, inexact)

/-- What an overflow delivers (R186). -/
def overflowTo (f : FF) (mode : RMode) (sat neg : Bool) : Nat :=
  let big := match mode with
    | .rne | .rmm => false
    | .rtz => true
    | .rdn => !neg
    | .rup => neg
  if sat || big then f.largest neg else f.inf neg

/-- A magnitude cut or padded to `p` bits; what is cut is zero after a rounding to `p` bits. -/
def normBits (p quo : Nat) : Nat :=
  if blen quo ≤ p then quo * 2 ^ (p - blen quo) else quo / 2 ^ (blen quo - p)

/-- A magnitude quo · 2^q as a finite number of the format. -/
def encodeF (f : FF) (neg : Bool) (quo : Nat) (q : Int) : Nat :=
  let s := if neg then f.signW else 0
  let emin : Int := 1 - f.bias
  let top := q + blen quo - 1
  if quo = 0 then (if f.narrow then 0 else s)
  else if top < emin then s + quo * 2 ^ (q - (emin - f.frac)).toNat
  else
    s + (top + f.bias).toNat * 2 ^ f.frac + (normBits (f.frac + 1) quo - 2 ^ f.frac)

/-- Round of R186 for a finite value, with R183 for e4m3n: the bits and the flags. -/
def roundFin (f : FF) (mode : RMode) (sat : Bool) (neg : Bool) (m : Nat) (e : Int) (st : Bool) : Nat × Flags :=
  if m = 0 && !st then
    if f.narrow && neg then (0, fUF ||| fNX) else (if neg && !f.narrow then f.signW else 0, 0)
  else
    let emin : Int := 1 - f.bias
    let qu := e + blen m - (f.frac + 1)
    let un := roundAt mode neg m e st qu
    let q := max qu (emin - f.frac)
    let r := roundAt mode neg m e st q
    let tiny := qu + blen un.1 - 1 < emin
    let top := q + blen r.1 - 1
    let emax : Int := if f.narrow then 8 else f.bias
    let ovf := top > emax || (f.narrow && top == emax && normBits (f.frac + 1) r.1 == 15)
    if ovf then (overflowTo f mode sat neg, fOF ||| fNX)
    else (encodeF f neg r.1 q, (if r.2 then fNX else 0) ||| (if r.2 && tiny then fUF else 0))

/-- A value rounded to a format (R183, R185, R186): its bits and the flags of the rounding. -/
def roundF (f : FF) (mode : RMode) (sat : Bool) : Fv → Nat × Flags
  | .nan _ => (f.nan, 0)
  | .inf neg =>
    if f.narrow then (overflowTo f mode sat neg, fOF ||| fNX)
    else (if sat then f.largest neg else f.inf neg, 0)
  | .fin neg m e st => roundFin f mode sat neg m e st

/-! ### Exact arithmetic -/

/-- Signed magnitude of a finite value in units of 2^q. -/
def unitsOf (neg : Bool) (m : Nat) (e q : Int) : Int :=
  let v : Int := (m * 2 ^ (e - q).toNat : Nat)
  if neg then -v else v

/-- NV for a signalling operand (R185). -/
def snan : Fv → Flags
  | .nan true => fNV
  | _ => 0

/-- Whether a value is a NaN. -/
def Fv.isNan : Fv → Bool
  | .nan _ => true
  | _ => false

/-- Whether a value is a zero. -/
def Fv.isZero : Fv → Bool
  | .fin _ m _ st => m == 0 && !st
  | _ => false

/-- Sign changed. -/
def Fv.neg : Fv → Fv
  | .nan s => .nan s
  | .inf n => .inf (!n)
  | .fin n m e st => .fin (!n) m e st

/-- A value times 2^k. -/
def Fv.scale (k : Int) : Fv → Fv
  | .fin n m e st => .fin n m (e + k) st
  | v => v

/-- The exact product and its NV (R185, IEEE 754). -/
def mulF (a b : Fv) : Fv × Flags :=
  match a, b with
  | .nan s, y => (.nan false, (if s then fNV else 0) ||| snan y)
  | x, .nan s => (.nan false, (if s then fNV else 0) ||| snan x)
  | .inf n, .inf k => (.inf (n != k), 0)
  | .inf n, .fin k m _ _ => if m = 0 then (.nan false, fNV) else (.inf (n != k), 0)
  | .fin n m _ _, .inf k => if m = 0 then (.nan false, fNV) else (.inf (n != k), 0)
  | .fin n m e _, .fin k l d _ => (.fin (n != k) (m * l) (e + d) false, 0)

/-- The least exponent among finite values. -/
def minExp : List Fv → Int → Int
  | [], q => q
  | .fin _ _ e _ :: l, q => minExp l (min q e)
  | _ :: l, q => minExp l q

/-- The sum of the finite values in units of 2^q. -/
def sumUnits (q : Int) : List Fv → Int
  | [] => 0
  | .fin n m e _ :: l => unitsOf n m e q + sumUnits q l
  | _ :: l => sumUnits q l

/-- The exact sum of values and its NV (R185, IEEE 754): an exact zero is +0, −0 under RDN, unless every term is a zero
of one sign. -/
def addF (mode : RMode) (l : List Fv) : Fv × Flags :=
  let sn := l.foldl (fun a v => a ||| snan v) 0
  if l.any Fv.isNan then (.nan false, sn)
  else
    let pi := l.contains (.inf false); let ni := l.contains (.inf true)
    if pi && ni then (.nan false, fNV)
    else if pi then (.inf false, 0)
    else if ni then (.inf true, 0)
    else
      let q := minExp l 0
      let t := sumUnits q l
      if t = 0 then
        let allNeg := l.all fun v => match v with | .fin n m _ _ => m == 0 && n | _ => false
        let allPos := l.all fun v => match v with | .fin n m _ _ => m == 0 && !n | _ => false
        (.fin (if allNeg then true else if allPos then false else mode == .rdn) 0 0 false, 0)
      else (.fin (decide (t < 0)) t.natAbs q false, 0)

/-- a·b + c as one exact value; an invalid product sets NV whatever c holds (R358). -/
def fmaF (mode : RMode) (a b c : Fv) : Fv × Flags :=
  let p := mulF a b
  let r := addF mode [p.1, c]
  (r.1, p.2 ||| r.2 ||| snan c)

/-- The quotient, to well below the last bit of any format, and NV or DZ (R185, R358). -/
def divF (a b : Fv) : Fv × Flags :=
  match a, b with
  | .nan s, y => (.nan false, (if s then fNV else 0) ||| snan y)
  | x, .nan s => (.nan false, (if s then fNV else 0) ||| snan x)
  | .inf _, .inf _ => (.nan false, fNV)
  | .inf n, .fin k _ _ _ => (.inf (n != k), 0)
  | .fin n _ _ _, .inf k => (.fin (n != k) 0 0 false, 0)
  | .fin n m e _, .fin k l d _ =>
    if l = 0 then (if m = 0 then (.nan false, fNV) else (.inf (n != k), fDZ))
    else if m = 0 then (.fin (n != k) 0 0 false, 0)
    else
      let sh := 64 + blen l
      let num := m * 2 ^ sh
      (.fin (n != k) (num / l) (e - d - sh) (num % l != 0), 0)

/-- Integer square root, bit by bit from 2^k down. -/
def isqrtFrom (n : Nat) : (k r : Nat) → Nat
  | 0, r => if (r + 1) * (r + 1) ≤ n then r + 1 else r
  | k + 1, r =>
    let t := r + 2 ^ (k + 1)
    isqrtFrom n k (if t * t ≤ n then t else r)

/-- The largest r with r·r ≤ n. -/
def isqrt (n : Nat) : Nat := isqrtFrom n (blen n / 2 + 1) 0

/-- The square root, to well below the last bit of any format, and NV (R185, R358). -/
def sqrtF : Fv → Fv × Flags
  | .nan s => (.nan false, if s then fNV else 0)
  | .inf true => (.nan false, fNV)
  | .inf false => (.inf false, 0)
  | .fin n m e _ =>
    if m = 0 then (.fin n 0 0 false, 0)
    else if n then (.nan false, fNV)
    else
      let sh : Nat := 128 + (if (e % 2 = 0) then 0 else 1)
      let v := m * 2 ^ sh
      let r := isqrt v
      (.fin false r ((e - sh) / 2) (r * r != v), 0)

/-- Comparison of two numbers; none when one is a NaN. -/
def cmpF (a b : Fv) : Option Ordering :=
  match a, b with
  | .nan _, _ | _, .nan _ => none
  | .inf n, .inf k => some (if n = k then .eq else if n then .lt else .gt)
  | .inf n, .fin _ _ _ _ => some (if n then .lt else .gt)
  | .fin _ _ _ _, .inf k => some (if k then .gt else .lt)
  | .fin n m e _, .fin k l d _ =>
    let q := min e d
    some (compare (unitsOf n m e q) (unitsOf k l d q))

/-- minimumNumber (or maximumNumber) of two encoded numbers, −0 below +0 (R358): the bits and NV for a signalling operand. -/
def minmaxF (f : FF) (isMax : Bool) (a b : Nat) : Nat × Flags :=
  let x := decodeF f a; let y := decodeF f b
  let fl := snan x ||| snan y
  if x.isNan && y.isNan then (f.nan, fl)
  else if x.isNan then (b, fl)
  else if y.isNan then (a, fl)
  else
    let aNeg := a / f.signW % 2 == 1
    let less := match cmpF x y with
      | some .lt => true
      | some .eq => aNeg
      | _ => false
    (if less != isMax then a else b, fl)

/-- The ten classes of R359. -/
def classF (f : FF) (b : Nat) : Nat :=
  let neg := b / f.signW % 2 == 1
  match decodeF f b with
  | .nan s => if s then 2 ^ 8 else 2 ^ 9
  | .inf n => if n then 1 else 2 ^ 7
  | .fin _ m _ _ =>
    if m = 0 then (if neg then 2 ^ 3 else 2 ^ 4)
    else if m < 2 ^ f.frac then (if neg then 2 ^ 2 else 2 ^ 5)
    else if neg then 2 else 2 ^ 6

/-! ### Conversions (R184, R189, R362) -/

/-- A float rounded to an integer in [lo, hi] (R189, R279): the integer and the flags; a NaN gives `nanTo`. -/
def toIntF (mode : RMode) (lo hi nanTo : Int) (v : Fv) : Int × Flags :=
  match v with
  | .nan _ => (nanTo, fNV)
  | .inf n => (if n then lo else hi, fNV)
  | .fin n m e st =>
    let r := roundAt mode n m e st 0
    let i : Int := if n then -(r.1 : Int) else r.1
    if i < lo then (lo, fNV) else if hi < i then (hi, fNV) else (i, if r.2 then fNX else 0)

/-- A device conversion to an integer (R189): a finite value that rounding changes sets NX, out of range too (log 87). -/
def toIntX (mode : RMode) (lo hi nanTo : Int) (v : Fv) : Int × Flags :=
  let r := toIntF mode lo hi nanTo v
  match v with
  | .fin n m e st => (r.1, r.2 ||| if (roundAt mode n m e st 0).2 then fNX else 0)
  | _ => r

/-- An integer as an exact value (R189). -/
def ofIntF (i : Int) : Fv := .fin (decide (i < 0)) i.natAbs 0 false

/-- The value of an E8M0 scale (R184): 2^(e − 127), or a quiet NaN for 0xFF. -/
def decodeE8 (b : Nat) : Fv := if b % 256 = 255 then .nan false else .fin false 1 ((b % 256 : Nat) - 127) false

/-- Conversion of an exact value to E8M0 (R184): the byte and the flags. -/
def toE8 (mode : RMode) (sat : Bool) (v : Fv) : Nat × Flags :=
  match v with
  | .nan _ => (0xFF, fNV)
  | .inf n => (if sat then (if n then 0 else 0xFE) else 0xFF, fNV)
  | .fin neg m e _ =>
    if m = 0 || neg then (if sat then 0 else 0xFF, fNV)
    else
      let k := e + blen m - 1
      let exact := m == 2 ^ (blen m - 1)
      if k < -127 then (if sat then 0 else 0xFF, fNV)
      else if k > 127 || (k == 127 && !exact) then (if sat then 0xFE else 0xFF, fNV)
      else
        let b := (k + 127).toNat
        if exact then (b, 0)
        else
          let twice := 2 * m; let three := 3 * 2 ^ (blen m - 1)
          let up := match mode with
            | .rne => twice > three || (twice == three && b % 2 == 1)
            | .rmm => twice ≥ three
            | .rup => true
            | _ => false
          (if up then b + 1 else b, fNX)

/-! ### fcsr (R187, R188) -/

/-- fcsr as software reads it: frm in [7:5], fflags in [4:0]. -/
def fcsrOf (c : Ctx) : BitVec 8 := c.frm ++ c.fflags

/-- Sticky flags (R187). -/
def raiseFlags (f : Flags) (s : State) : State := modCx (fun c => { c with fflags := c.fflags ||| f }) s

/-- The mode a device instruction takes from fcsr.frm; none where it is illegal (R188). -/
def devMode (frm : BitVec 3) : Option RMode :=
  if frm = 0 then some .rne else if frm = 1 then some .rtz else if frm = 2 then some .rdn
  else if frm = 3 then some .rup else none

/-- The mode of a standard instruction: its rm field, or fcsr.frm where that is 111; none where it is illegal (R188). -/
def stdMode (rm frm : BitVec 3) : Option RMode :=
  let r := if rm = 7 then frm else rm
  if r = 4 then some .rmm else devMode r

/-- Rounds an exact result to a format, with the flags of the operation and of the rounding. -/
def finishF (f : FF) (mode : RMode) (r : Fv × Flags) : Nat × Flags :=
  let q := roundF f mode false r.1
  (q.1, r.2 ||| q.2)

end Sys2Proof.Machine
end

