-- ==== Sys2Proof/Machine/Csr.lean ====
section
/-! DEFINITION. Reading and writing CSRs (R59, R97, R116, R242, R279, R283, R337 to R342; the M-mode CSRs are those of the
RISC-V privileged specification, log 9). -/

namespace Sys2Proof.Machine

/-- dnclk (R338). -/
def dnclkOf (s : State) : Word :=
  let r := rclkOf s (groveOf s.core.num)
  BitVec.ofNat 64 (r.current % 2 ^ 11 + 2 ^ 11 * r.relock.toNat)

/-- dinject as it reads (R340). -/
def dinjectOf (i : Inject) : Word :=
  BitVec.ofNat 64 (i.arm.toNat + 2 * i.fired.toNat + 4 * i.bit.toNat + 256 * i.off.toNat)

/-- dbank (R341). -/
def dbankOf (c : Core) : Word :=
  let b0 := c.bankOf false; let b1 := c.bankOf true
  BitVec.ofNat 64 (c.bank.num.toNat + 2 * b0.bound.isSome.toNat + 4 * b1.bound.isSome.toNat + 8 * b0.spilled.toNat
    + 16 * b1.spilled.toNat + 32 * c.yev.toNat + 64 * c.mwsw.toNat)

/-- mstatus (log 9): MIE, MPIE, MPP, FS dirty, MPRV, TW, UXL 64. -/
def mstatusOf (m : MCsrs) : Word :=
  BitVec.ofNat 64 (8 * m.mie.toNat + 128 * m.mpie.toNat + (if m.mpp = .m then 0x1800 else 0) + 0x6000 + 2 ^ 17 * m.mprv.toNat
    + 2 ^ 21 * m.tw.toNat + 2 ^ 33 + 2 ^ 63)

/-- mhpmcounter3 to 31 and mhpmevent3 to 31, which read 0, and mcountinhibit, none of whose bits is writable (log 9). -/
def csrZero (n : Nat) : Bool := (0xB03 ≤ n && n ≤ 0xB1F) || (0x323 ≤ n && n ≤ 0x33F) || n == 0x320 || n == 0x344

/-- A read of a CSR in a mode; none is an illegal instruction (R279, R337). -/
def csrRead (s : State) (n : BitVec 12) : Option Word :=
  let c := s.core; let b := c.bank; let x := c.cx
  let m := c.priv == .m
  match n.toNat with
  | 0x001 => some (x.fflags.zeroExtend 64)
  | 0x002 => some (x.frm.zeroExtend 64)
  | 0x003 => some ((fcsrOf x).zeroExtend 64)
  | 0xC00 => some (BitVec.ofNat 64 (c.cycles - b.bindCycle))
  | 0xC01 => some (BitVec.ofNat 64 s.pkg.time)
  | 0xC02 => some x.instret
  | 0x800 => some (BitVec.ofNat 64 c.dpoolb0)
  | 0x801 => some (BitVec.ofNat 64 c.dpoolb1)
  | 0x802 => some (BitVec.ofNat 64 c.dpoolb2)
  | 0x803 => some b.dhstack
  | 0x804 => some b.dhstksz
  | 0x805 => some (b.dquantum.zeroExtend 64)
  | 0x806 => some (b.dyield.zeroExtend 64)
  | 0x807 => some (b.dbalwin.zeroExtend 64)
  | 0x808 => some c.dmemb
  | 0x809 => some (b.dcksum.zeroExtend 64)
  | 0x80A => some (dinjectOf b.dinject)
  | 0x80B => some (dnclkOf s)
  | 0x810 => some x.dtvec
  | 0x811 => some x.dtpc
  | 0x812 => some x.dtcause
  | 0x813 => some x.dtval
  | 0x814 => some (dtstatOf x)
  | 0x7C0 => if m then some (dbankOf c) else none
  | 0x7C1 => if m then some c.dsave0 else none
  | 0x7C2 => if m then some c.dsave1 else none
  | 0x300 => if m then some (mstatusOf c.mcsr) else none
  | 0x301 => if m then some (BitVec.ofNat 64 (2 ^ 63 + 2 ^ 20 + 2 ^ 12 + 2 ^ 8 + 2 ^ 5 + 2 ^ 3 + 1)) else none
  | 0x304 => if m then some c.mcsr.miereg else none
  | 0x305 => if m then some c.mcsr.mtvec else none
  | 0x306 => if m then some c.mcsr.mcounteren else none
  | 0x340 => if m then some c.mcsr.mscratch else none
  | 0x341 => if m then some c.mcsr.mepc else none
  | 0x342 => if m then some c.mcsr.mcause else none
  | 0x343 => if m then some c.mcsr.mtval else none
  | 0x30A => if m then some (BitVec.ofNat 64 c.mcsr.fiom.toNat) else none
  | 0xB00 => if m then some (BitVec.ofNat 64 c.cycles + c.mcsr.cycleOff) else none
  | 0xB02 => if m then some (x.instret + c.mcsr.instOff) else none
  | 0xF11 | 0xF12 | 0xF13 | 0xF15 => if m then some 0 else none
  | 0xF14 => if m then some (BitVec.ofNat 64 c.num) else none
  | k => if m && csrZero k then some 0 else none

/-- A write of a standard CSR (R188, R279); none is an illegal instruction. What is written to minstret is what the next instruction reads,
since the write takes the place of its own count. -/
def csrWriteStd (n : BitVec 12) (v : Word) (s : State) : Option State :=
  let m := s.core.priv == .m
  let mm := fun (f : MCsrs → MCsrs) => if m then some (modCore (fun c => { c with mcsr := f c.mcsr }) s) else none
  match n.toNat with
  | 0x001 => some (modCx (fun c => { c with fflags := v.setWidth 5 }) s)
  | 0x002 => some (modCx (fun c => { c with frm := v.setWidth 3 }) s)
  | 0x003 => some (modCx (fun c => { c with fflags := v.setWidth 5, frm := v.extractLsb' 5 3 }) s)
  | 0x300 => mm fun k => { k with mie := v.getLsbD 3, mpie := v.getLsbD 7, mpp := if v.extractLsb' 11 2 = 3 then .m else .u,
                                  mprv := v.getLsbD 17, tw := v.getLsbD 21 }
  | 0x301 => mm id
  | 0x304 => mm fun k => { k with miereg := v }
  | 0x305 => mm fun k => { k with mtvec := clear2 v }
  | 0x306 => mm fun k => { k with mcounteren := v &&& 0xFFFFFFFF }
  | 0x340 => mm fun k => { k with mscratch := v }
  | 0x341 => mm fun k => { k with mepc := clear2 v }
  | 0x342 => mm fun k => { k with mcause := v }
  | 0x343 => mm fun k => { k with mtval := v }
  | 0x30A => mm fun k => { k with fiom := v.getLsbD 0 }
  | 0xB00 => mm fun k => { k with cycleOff := v - BitVec.ofNat 64 s.core.cycles }
  | 0xB02 => mm fun k => { k with instOff := v - s.core.cx.instret - 1 }
  | k => if csrZero k then mm id else none

/-- The source value of a CSR instruction. -/
def csrSrc (s : State) (a : CsrArgs) : Word :=
  match a.src with
  | .reg r => readX s r
  | .imm u => u.zeroExtend 64

/-- The value a CSR instruction writes (Zicsr). A CSRRS or CSRRC that names another bit writes a W1C bit back as it reads it, and so
clears one that reads 1 (FIRED, YEV): R5 is silent on this (DEDUCED, log 96). -/
def csrNew (op : CsrOp) (old src : Word) : Word :=
  match op with
  | .rw => src
  | .rs => old ||| src
  | .rc => old &&& ~~~src

/-- A CSR instruction that writes through `f`: rd takes the old value; a read or a write that the mode may not make is an
illegal instruction. -/
def csrRmw (a : CsrArgs) (n : BitVec 12) (f : Word → State → Option State) (w : Option W32) (s : State) : State :=
  match csrRead s n with
  | none => illegal w s
  | some old =>
    match f (csrNew a.op old (csrSrc s a)) s with
    | none => illegal w s
    | some t => adv (writeX a.rd old t)

/-- A write that only M-mode may make (R337). -/
def mOnly (f : Word → State → State) (v : Word) (s : State) : Option State :=
  if s.core.priv = .m then some (f v s) else none

/-! ### The fields of the device CSRs -/

/-- dtvec (R242): a MODE of 2 or 3 stores 0. -/
def dtvecField (v : Word) : Word := if v.extractLsb' 0 2 = 2 ∨ v.extractLsb' 0 2 = 3 then clear2 v else v

/-- dcksum (R339): VALUE, and the starting value of the next CPYK pushed. -/
def setDcksum (v : Word) (s : State) : State :=
  modBank (fun b => { b with dcksum := v.setWidth 32, ckStart := some (v.setWidth 32) }) s

/-- dinject (R340): ARM, BIT and OFF take the written bits; a 1 clears FIRED. -/
def setDinject (v : Word) (s : State) : State :=
  modBank (fun b => { b with dinject :=
    { arm := v.getLsbD 0, fired := b.dinject.fired && !v.getLsbD 1, bit := v.extractLsb' 2 3, off := v.extractLsb' 8 24 } }) s

/-- dbank (R341): a 1 clears YEV. -/
def clearYev (v : Word) (s : State) : State := modCore (fun c => { c with yev := c.yev && !v.getLsbD 5 }) s

/-- Whether three pool boundaries obey R115. -/
def poolOk (b0 b1 b2 : Nat) : Bool :=
  b0 % 5120 == 0 && 2 ≤ b0 / 5120 && b0 / 5120 ≤ 22
    && b0 ≤ b1 && [0, 1024, 2048, 3072, 4096].any (fun ls => b1 == b0 + 32 * ls)
    && b2 % 65536 == 0 && 393216 ≤ b2 && b2 ≤ 917504

/-- dpoolb0 to dpoolb2 (R116): a write that breaks R115 leaves the register unchanged. -/
def setDpoolb (n : Nat) (v : Word) (s : State) : State :=
  let c := s.core
  let k := v.toNat % 2 ^ 21
  let b0 := if n = 0 then k else c.dpoolb0
  let b1 := if n = 1 then k else c.dpoolb1
  let b2 := if n = 2 then k else c.dpoolb2
  if poolOk b0 b1 b2 then modCore (fun c => { c with dpoolb0 := b0, dpoolb1 := b1, dpoolb2 := b2 }) s else s

/-- dmemb (R59): TOPk and ENk; bits [63:32] read 0. -/
def setDmemb (v : Word) (s : State) : State := modCore (fun c => { c with dmemb := v &&& 0xFFFFFFFF }) s

/-- dquantum, dyield and dbalwin (R97): a write below the floor is clamped to it. -/
def setSched (n : Nat) (v : Word) (s : State) : State :=
  let w : W32 := v.setWidth 32
  let fl : W32 := if w.ult 1024 then 1024 else w
  modBank (fun b => if n = 0 then { b with dquantum := fl } else if n = 1 then { b with dyield := w } else { b with dbalwin := fl }) s

/-- dtstat (R242): CTX, HM and PEND are read only. -/
def dtstatField (old v : Word) : Word := (old &&& 0x3F) ||| (v &&& ~~~(0x3F#64))

/-- The device CSRs without a row of their own (R116, R242, R342); none is an illegal instruction. -/
def setOther (n : BitVec 12) (v : Word) (s : State) : Option State :=
  match n.toNat with
  | 0x803 => some (modBank (fun b => { b with dhstack := v &&& ~~~(15#64) }) s)
  | 0x804 => some (modBank (fun b => { b with dhstksz := v &&& 0xFFFFFFF0 }) s)
  | 0x811 => some (modCx (fun c => { c with dtpc := clear2 v }) s)
  | 0x812 => some (modCx (fun c => { c with dtcause := v &&& 0x1FF }) s)
  | 0x813 => some (modCx (fun c => { c with dtval := v }) s)
  | 0x814 => some (modCx (fun c => { c with dtstat := dtstatField c.dtstat v }) s)
  | 0x7C1 => mOnly (fun v => modCore fun c => { c with dsave0 := v &&& 0xFFFFFFFFFFF80 }) v s
  | 0x7C2 => mOnly (fun v => modCore fun c => { c with dsave1 := v &&& 0xFFFFFFFFFFF80 }) v s
  | _ => none

/-! ### The rows of the opcode table -/

/-- DTVEC_WRITE (R242). -/
def execDtvecWrite (a : CsrArgs) (s : State) : Out :=
  .next (csrRmw a 0x810 (fun v s => some (modCx (fun c => { c with dtvec := dtvecField v }) s)) (encode (.dtvecWrite a)) s)

/-- DCKSUM_WRITE (R339). -/
def execDcksumWrite (a : CsrArgs) (s : State) : Out :=
  .next (csrRmw a 0x809 (fun v s => some (setDcksum v s)) (encode (.dcksumWrite a)) s)

/-- DINJECT_WRITE (R340). -/
def execDinjectWrite (a : CsrArgs) (s : State) : Out :=
  .next (csrRmw a 0x80A (fun v s => some (setDinject v s)) (encode (.dinjectWrite a)) s)

/-- DBANK_YEV_CLEAR (R341). -/
def execDbankYevClear (a : CsrArgs) (s : State) : Out :=
  .next (csrRmw a 0x7C0 (mOnly clearYev) (encode (.dbankYevClear a)) s)

/-- DPOOLB_WRITE (R116). -/
def execDpoolbWrite (a : CsrArgs) (n : BitVec 2) (s : State) : Out :=
  .next (csrRmw a (0x200#10 ++ n) (mOnly (setDpoolb n.toNat)) (encode (.dpoolbWrite a n)) s)

/-- DMEMB_WRITE (R59). -/
def execDmembWrite (a : CsrArgs) (s : State) : Out :=
  .next (csrRmw a 0x808 (mOnly setDmemb) (encode (.dmembWrite a)) s)

/-- SCHED_CSR_WRITE (R97). -/
def execSchedCsrWrite (a : CsrArgs) (n : BitVec 2) (s : State) : Out :=
  .next (csrRmw a (0x805 + (0#10 ++ n)) (mOnly (setSched n.toNat)) (encode (.schedCsrWrite a n)) s)

/-- CSR_WRITE (R337). -/
def execCsrWrite (a : CsrArgs) (n : BitVec 12) (s : State) : Out :=
  .next (csrRmw a n (setOther n) (encode (.csrWrite a n)) s)

/-- A CSR instruction that only reads, or that writes a standard CSR (R279, R337). -/
def csrPlain (a : CsrArgs) (n : BitVec 12) (w : Option W32) (s : State) : State :=
  if a.writes then csrRmw a n (csrWriteStd n) w s
  else match csrRead s n with
    | none => illegal w s
    | some old => adv (writeX a.rd old s)

end Sys2Proof.Machine
end

