-- ==== Sys2Proof/Machine/Traps.lean ====
section
/-! DEFINITION. Trap instructions and the events that raise, record or stop (R244, R245 to R257, R301, R336, R98, R99). -/

namespace Sys2Proof.Machine

/-- The cause-2 trap of an instruction (R245). -/
def illegalT {α : Type} (w : Option W32) : Res α := .error (.trap 2 ((w.getD 0).zeroExtend 64))

/-- ILLEGAL_INSTRUCTION (R301). -/
def execIllegalInstruction (bits : W32) (s : State) : Out := .next (illegal (some bits) s)

/-- INSTRUCTION_FETCH_FAULT (R246): cause 1 or 12 with the fetch address. -/
def execInstructionFetchFault (cause : BitVec 8) (s : State) : Out := .next (takeTrap cause s.core.cx.pc s)

/-- HRET (R244). While a record is held, 0x23 is due at the boundary after the return. -/
def hretStep (w : Option W32) (s : State) : Res State :=
  let c := s.core.cx
  if !c.hm then illegalT w
  else if dtstatOf c >>> 10 ≠ 0 then .error (.trap 0x27 (dtstatOf c))
  else .ok (modCx (fun c => { leaveHandler c with must23 := c.pend }) s)

/-- HRET (R244). -/
def execHret (s : State) : Out := .next (orTrap (hretStep (encode .hret) s) s)

/-- FLTPOP (R249, R336). -/
def execFltpop (vd rd : RegNo) (s : State) : Out :=
  match s.core.cx.recs with
  | [] => .next (adv (writeX rd (-1) s))
  | r :: rs =>
    let s := modCx (fun c => { c with recs := rs, must23 := c.must23 && !rs.isEmpty }) s
    .next (adv (writeX rd (BitVec.ofNat 64 rs.length) (writeV vd (vOfBytes (recBytes r)) (-1) s)))

/-- FLTCNT (R249, R336). -/
def execFltcnt (rd : RegNo) (s : State) : Out :=
  let c := s.core.cx
  .next (adv (writeX rd (BitVec.ofNat 64 (c.recs.length % 16 + 2 ^ 16 * c.lost.toNat)) s))

/-- Whether the barrier instructions and GSTOP are legal on a channel: enabled, and held by the active bank (R61, R312). -/
def channelOk (c : Core) (k : BitVec 3) : Bool := enOf c k && (c.chans[k.toNat]'k.isLt).owner == some c.bank.num

/-- GSTOP (R254, R255, R336): it retires, the issuing core stops, the domain's HALT wire is driven and the root kernel
is notified. -/
def gstopStep (k : BitVec 3) (w : Option W32) (s : State) : Res State :=
  let c := s.core
  if !channelOk c k then illegalT w
  else
    let t := stopBank c.num c.bank.num ⟨0, 0, 0, c.cx.pc, false⟩ true false (adv s)
    match c.bank.bound with
    | none => .ok t
    | some bd =>
      .ok (notifyRoot bd.launch ⟨some c.num, 0, 0⟩ [c.num] (driveHalt c.num k ⟨bd.launch, none, 0, 0, 0, 0, true⟩ t))

/-- GSTOP (R336). -/
def execGstop (k : BitVec 3) (s : State) : Out := .next (orTrap (gstopStep k (encode (.gstop k)) s) s)

/-! ### Events that raise or record -/

/-- ECC_FATAL_ERROR (R155, R157, R253): in a register slot, the constant bank or a side buffer, where the place named is in use,
the fatal path with cause 0x25 for the bank concerned; in the pool, the L1 region, the sector store or a DRAM sector the line
becomes POISON. -/
def execEccFatalError (place : EccPlace) (s : State) : Out :=
  let stop := fun (b : Bool) (pc : Word) => fatalOrLater b ⟨2, 0x25, 0, pc, false⟩ s
  .next (match place with
    | .slot b id => match s.core.ctx? b id with
      | some x => if x.live then stop b x.pc else s
      | none => s
    | .constBank b => if (s.core.bankOf b).bound.isSome then stop b 0 else s
    | .sideBuffer q b seq => if (s.core.queue q).any (fun e => e.bank == b && e.seq == seq) then stop b 0 else s
    | .pool off => if off < Config.poolBytes then poisonLines [lineOf (poolKey s.core.num off)] s else s
    | .l1 line => modCore (fun c => { c with l1 := c.l1.map fun l => if l.line = line then { l with poison := true } else l }) s
    | .line k => if isScratchKey k || (isDramKey k && paExists k) then poisonLines [lineOf k] s else s)

/-- Cause 0x23 may be taken by a context (R250). -/
def may23 (c : Ctx) : Bool := c.live && c.pend && !c.hm

/-- The bank that holds a launch. -/
def bankOfLaunch (c : Core) (launch : Nat) : Option Bool :=
  let holds := fun (b : Bool) => (((c.bankOf b).bound.map (·.launch)) == some launch)
  if holds false then some false else if holds true then some true else none

/-- Whether the active bank stops at this boundary: a resumable halt has been sent to it, and the release that comes before it has
arrived (R256). -/
def haltDue (s : State) : Bool :=
  (s.core.halts.any fun m => !m.terminal && bankOfLaunch s.core m.launch == some s.core.bank.num)
    && !(s.fab.releases.any fun r => r.core == s.core.num)

/-- ASYNC_STORE_FAULT_TRAP (R250): the current context takes 0x23; else the first one in ring order that waits with a
record has its wait ended, and takes it when it is next selected (R305). -/
def execAsyncStoreFaultTrap (s : State) : Out :=
  let c := s.core
  if c.priv = .m || c.bank.stopped || c.bank.dead || c.swap.isSome || haltDue s then .next s
  else if may23 c.cx then .next (takeTrap 0x23 (oldestVa c.cx) s)
  else
    match (ringFrom c.cx.id).find? fun id => c.bank.ctxs.any fun x => x.id == id && may23 x with
    | none => .next s
    | some id => .next (modCore (·.modCtx c.bank.num id fun x => { x with st := .ready, ans := none, got := [], must23 := true }) s)

/-- A late store of a context has ended: its helpers' accesses to host space stand behind one less (R307). -/
def oneLess (ctx : Nat) (b : Bool) (c : Core) : Core :=
  if ctx != 0 then c else c.mapCtxs fun k x => if k = b then { x with behind := x.behind - 1 } else x

/-- STORE_FAULT_RECORD (R247, R249): the oldest late store of a context ends; its elements to host space perform, but for those to
which the host answers with an error (R74), and its lowest failing element is recorded. One to host space has reached the I/O
die, and a helper's comes after those of its starter (R307). -/
def execStoreFaultRecord (bank : Bool) (ctx : Nat) (err : BitVec 128) (s : State) : Out :=
  match s.core.ctx? bank ctx with
  | none => .next s
  | some x =>
    match x.late with
    | [] => .next s
    | l :: ls =>
      if hostOut s s.core.num bank ctx l || (x.behind != 0 && !l.host.isEmpty) then .next s
      else
        let t := modCore (fun c => oneLess ctx bank (c.modCtx bank ctx fun x => { x with late := ls })) s
        .next (wakeStores s.core.num (endLate l err bank ctx t))

/-- Whether the shadow bank that a monitor wait let run has had its own QUANT cycles, so that the core swaps back (R103). -/
def mwaitOver (c : Core) : Bool :=
  c.mwsw && c.priv == .u && c.swap.isNone && c.shadow.bound.isSome && c.cycles - c.mwFrom ≥ c.bank.dquantum.toNat

/-- QUANTUM_EXPIRY (R98): the current context has issued for QUANT cycles; under R103 the swap back after the bank's own
QUANT cycles. The quantum of a bank that R103 did not bring in ends in no swap: R98 and R103's rule give it none, against the last
sentence of R103's example (DESIGN CHOICE, log 100). -/
def execQuantumExpiry (s : State) : Out :=
  let c := s.core
  if mwaitOver c then .next (beginSwap false s)
  else if c.bank.used ≥ c.bank.dquantum.toNat then .next (switchEvent s)
  else .next s

/-- The bytes of host space that a host's answer brings (R74). -/
def hostBytes (l : List (Nat × Byte)) (s : State) : State :=
  { s with mem := l.foldl (fun m c => if isHostKey c.1 then memSet m c.1 c.2 else m) s.mem }

/-- Requests of a context that stand at the I/O dies, each with its die. -/
def hostAsked (s : State) (bank : Bool) (ctx : Nat) : List (Asker × Nat) :=
  s.io.asked.filter fun a => a.1.core == s.core.num && a.1.bank == bank && a.1.ctx == ctx

/-- REMOTE_DATA_RETURN (R99, R74, R420): every answer has arrived, and the waiting context becomes ready. The host's answers leave
their I/O dies in this step, along open ways (log 88); `err` picks the elements to which the host answers with an error. -/
def execRemoteDataReturn (bank : Bool) (ctx : Nat) (err : BitVec 128) (host : List (Nat × Byte)) (s : State) : Out :=
  if askedOut s s.core.num bank ctx then .next s
  else match (s.core.ctx? bank ctx).map (fun x => x.st) with
  | some (CtxSt.waiting Wait.remote) =>
    .next (modCore (fun c => c.modCtx bank ctx fun x => { x with st := .ready, ans := some 0 }) s)
  | some (CtxSt.waiting Wait.host) =>
    let l := hostAsked s bank ctx
    let n := BitVec.ofNat 32 l.length
    if l.any fun a => !clearWay s .ext a.2 (twigOf s.core.num) then .next s
    else
      let t := modIo (fun o => { o with asked := o.asked.filter fun a => !l.contains a }) s
      .next (wakeStores s.core.num (hostBytes host (modCore (fun c =>
        (c.modBankOf bank fun k => { k with counts := { k.counts with precv := k.counts.precv + n } }).modCtx bank ctx fun x =>
          { x with st := .ready, ans := some err }) t)))
  | _ => .next s

/-! ### Halts (R64, R254, R255) -/

/-- A halt stops a bank of a core: a bank whose core has left its stage only has its commands cancelled (R254, R255). -/
def haltBank (b : Bool) (m : HaltMsg) (swapped : Bool) (s : State) : State :=
  let left := ((s.core.bankOf b).bound.map (·.left)).getD false
  if left then (if m.terminal then modCore (cancelBank b) s else s)
  else stopBank s.core.num b ⟨m.reason, m.cause, m.entry, m.pcflt, swapped⟩ m.terminal false s

/-- A halt of a channel that the launch's stage no longer owns at this core stops nothing (R61, R64). -/
def haltApplies (c : Core) (b : Bool) (m : HaltMsg) : Bool :=
  match m.chan with
  | none => true
  | some k => enOf c k && (c.chans[k.toNat]'k.isLt).owner == some b

/-- HALT_WIRE (R64, R254): a halt reaches the core. During a swap it takes effect when the swap is complete (R102); a
release that is on its way to the core comes first (R256). -/
def execHaltWire (s : State) : Out :=
  match s.core.halts with
  | [] => .next s
  | m :: ms =>
    if !m.terminal && s.fab.releases.any (fun r => r.core == s.core.num) then .next s
    else
      let t := modCore (fun c => { c with halts := ms }) s
      match bankOfLaunch t.core m.launch with
      | none => .next t
      | some b =>
        if !haltApplies t.core b m then .next t
        else match t.core.swap with
          | some w => .next (modCore (fun c => { c with swap := some { w with halts := w.halts ++ [m] } }) t)
          | none => .next (haltBank b m false t)

/-- A launch halt is sent to a core of the launch that has not stopped and has none under way (R254). A bank that a
resumable halt has stopped has its undispatched commands cancelled by a terminal one (R255, R256). -/
def sendHalt (m : HaltMsg) (n : Nat) (s : State) : State :=
  modCoreAt n (fun c =>
    match bankOfLaunch c m.launch with
    | none => c
    | some b =>
      if (c.bankOf b).stopped then (if m.terminal then cancelBank b c else c)
      else if c.halts.any (fun h => h.launch == m.launch && h.chan == none && h.terminal == m.terminal) then c
      else { c with halts := c.halts ++ [m] }) s

/-- Cores that a resumable halt does not stop yet: members of a domain whose phase is open (R256). -/
def phaseHeld (s : State) (launch n : Nat) : Bool :=
  s.fab.doms.any fun d => d.launch == launch && d.phase && d.members.contains n && !d.left.contains n

/-- LAUNCH_HALT (R254, R256): the root kernel stops every other core of a launch that halts. -/
def execLaunchHalt (launch : Nat) (s : State) : Out :=
  match launch? s launch with
  | none => .next s
  | some l =>
    if l.st ≠ .halting then .next s
    else match l.origin with
      | none => .next s
      | some o =>
        let m : HaltMsg := ⟨launch, none, o.reason, o.cause, 0, 0, !l.resumable⟩
        let s1 := if l.resumable then modFab (fun f => { f with doms := f.doms.map fun d =>
            if d.launch = launch then (if d.phase then { d with heldHalt := true } else { d with stopNew := true }) else d }) s
          else s
        .next (l.placed.foldl (fun t p =>
          if p.gone && l.resumable then t else if l.resumable && phaseHeld s launch p.core then t else sendHalt m p.core t) s1)

end Sys2Proof.Machine
end

