-- ==== Sys2Proof/Machine/Barriers.lean ====
section
/-! DEFINITION. Barriers, phases and monitor waits (R38, R58 to R63, R103, R217, R305, R311 to R314), and the loss of
a reservation with time (R281). -/

namespace Sys2Proof.Machine

/-! ### Arrivals (R62, R217, R312) -/

/-- A[c] of the core. -/
def arrivedAt (c : Core) (k : BitVec 3) : Bool := (c.chans[k.toNat]'k.isLt).a

/-- F[c] of the core. -/
def flagAt (c : Core) (k : BitVec 3) : Bool := (c.chans[k.toNat]'k.isLt).f

/-- Changes a channel of the core. -/
def modChan (k : BitVec 3) (f : Chan → Chan) (c : Core) : Core :=
  { c with chans := c.chans.set k.toNat (f (c.chans[k.toNat]'k.isLt)) k.isLt }

/-- The core raises its arrival on a channel, for the domain of a launch (R62, R312). -/
def raiseArrival (b : Bool) (k : BitVec 3) (launch : Nat) (flag : Bool) (tag : PhTag) (s : State) : State :=
  let n := s.core.num
  let s := modFab (fun f => { f with doms := f.doms.map fun d =>
    if d.chan = k && d.launch = launch && d.members.contains n && !d.left.contains n
    then { d with arrived := d.arrived ++ [(n, flag, tag)] } else d }) s
  modCore (fun c => (modChan k (fun x => { x with a := true }) c).modBankOf b fun x =>
    { x with counts := { x.counts with barr := x.counts.barr + 1 } }) s

/-- The launch of the active bank. -/
def boundLaunch (c : Core) : Nat := (c.bank.bound.map (·.launch)).getD 0

/-- A thread's arrival, once the eager release of R217 has been made. -/
def arrive (k : BitVec 3) (flag : Bool) (tag : PhTag) (s : State) : State :=
  raiseArrival s.core.bank.num k (boundLaunch s.core) flag tag s

/-- BARR (R312). -/
def barrStep (k : BitVec 3) (rs1 : RegNo) (w : Option W32) (s : State) : Res State :=
  if !channelOk s.core k then illegalT w
  else if arrivedAt s.core k then .error (.wait (.barrier k) s)
  else do
    let t ← eagerRelease s
    return adv (arrive k ((readX t rs1).getLsbD 0) .plain t)

/-- BARR (R312). -/
def execBarr (c : BitVec 3) (rs1 : RegNo) (s : State) : Out := .next (orTrap (barrStep c rs1 (encode (.barr c rs1)) s) s)

/-- The flag word of a completed episode, the completion being an acquire of the domain's scope (R204, R212). -/
def finishBarrier (k : BitVec 3) (rd : RegNo) (s : State) : State :=
  adv (writeX rd (if flagAt s.core k then 1 else 0) (invalidateShared s))

/-- BWAIT (R312). -/
def bwaitStep (k : BitVec 3) (rd : RegNo) (w : Option W32) (s : State) : Res State :=
  if !channelOk s.core k then illegalT w
  else if arrivedAt s.core k then .error (.wait (.barrier k) s)
  else .ok (finishBarrier k rd s)

/-- BWAIT (R312). -/
def execBwait (c : BitVec 3) (rd : RegNo) (s : State) : Out := .next (orTrap (bwaitStep c rd (encode (.bwait c rd)) s) s)

/-- Whether the instruction at the pc holds an arrival mark (R305). -/
def marked (c : Ctx) : Bool := c.marks.contains c.pc

/-- The instruction at the pc takes an arrival mark (R305). -/
def setMark (s : State) : State := modCx (fun c => { c with marks := c.pc :: c.marks }) s

/-- The instruction at the pc completes, and its mark clears (R305). -/
def clearMark (s : State) : State := modCx (fun c => { c with marks := c.marks.filter fun p => p != c.pc }) s

/-- BARW (R305, R312): BARR followed by BWAIT. -/
def barwStep (k : BitVec 3) (rs1 rd : RegNo) (w : Option W32) (s : State) : Res State :=
  if !channelOk s.core k then illegalT w
  else if marked s.core.cx then
    if arrivedAt s.core k then .error (.wait (.barrier k) s) else .ok (finishBarrier k rd (clearMark s))
  else if arrivedAt s.core k then .error (.wait (.barrier k) s)
  else do
    let t ← eagerRelease s
    throw (.wait (.barrier k) (setMark (arrive k ((readX t rs1).getLsbD 0) .plain t)))

/-- BARW (R312). -/
def execBarw (c : BitVec 3) (rs1 rd : RegNo) (s : State) : Out :=
  .next (orTrap (barwStep c rs1 rd (encode (.barw c rs1 rd)) s) s)

/-- BTEST (R312). -/
def btestStep (k : BitVec 3) (rd : RegNo) (w : Option W32) (s : State) : Res State :=
  if !channelOk s.core k then illegalT w
  else if arrivedAt s.core k then .ok (adv (writeX rd 0 s))
  else .ok (adv (writeX rd (if flagAt s.core k then 3 else 1) (invalidateShared s)))

/-- BTEST (R312). -/
def execBtest (c : BitVec 3) (rd : RegNo) (s : State) : Out := .next (orTrap (btestStep c rd (encode (.btest c rd)) s) s)

/-! ### Phases (R38, R62, R313) -/

/-- The message of a packet (R27, R28). -/
def Payload.msg? : Payload → Option Msg
  | .toNode _ _ m => some m
  | .toCore _ m => some m
  | .bounce _ _ _ m => some m
  | .returned _ m => some m
  | _ => none

/-- Whether a message that is not yet performed comes from a core (R62). -/
def sentBy (n : Nat) (m : Msg) : Bool := m.sender == n

/-- No store of any context of a core is late. -/
def noneLate (c : Core) : Bool := (c.ctxsOf false ++ c.ctxsOf true).all fun x => x.late.isEmpty

/-- Whether a packet is something that a core has sent and that is not performed (R62): a message, a request, a write. -/
def onItsWay (n : Nat) (p : Packet) : Bool :=
  (p.body.msg?.map (sentBy n)).getD false || match p.body with
    | .ask w _ => w.core == n
    | .write c _ | .hostStore c _ _ _ => c == n
    | _ => false

/-- Some request of a core stands at a slice or at an I/O die and is not answered. -/
def asksOut (s : State) (n : Nat) : Bool :=
  (s.ms.slices.any fun x => x.reqs.any (fun r => (r.who.map (·.core)) == some n) || x.misses.any fun m => m.who.any (·.core == n))
    || s.io.asked.any fun a => a.1.core == n

/-- Whether everything a core sent has been performed at its destination (R62): no message, request or write of it under way; no
message at a node, at a root that waits for a resend entry or in a resend buffer; no request unanswered; no beat; no late store, no
write held. -/
def delivered (s : State) (n : Nat) : Bool :=
  !(s.fab.net.any (onItsWay n))
    && !(s.fab.nodes.any fun x => x.inq.any fun i => sentBy n i.msg)
    && !(s.fab.resend.any fun r => sentBy n r.msg)
    && !((s.core :: s.cores).any fun c => c.arrivals.any (sentBy n))
    && !(s.fab.groups.any fun g => g.waiting.any (sentBy n))
    && !(s.fab.beats.any fun b => b.src == n)
    && !asksOut s n && s.ms.heldW.isEmpty && noneLate (getCore s n)

/-- The release of a phase instruction: it completes as an acquire of the domain's scope (R212, R313). -/
def finishPhase (s : State) : State := adv (invalidateShared (clearMark s))

/-- PHCOMM (R313). -/
def phcommStep (k : BitVec 3) (w : Option W32) (s : State) : Res State :=
  if !channelOk s.core k then illegalT w
  else if marked s.core.cx then
    if arrivedAt s.core k then .error (.wait (.barrier k) s) else .ok (finishPhase s)
  else if s.core.phase.isSome then illegalT w
  else if arrivedAt s.core k then .error (.wait (.barrier k) s)
  else do
    let t ← eagerRelease s
    throw (.wait (.barrier k) (setMark (arrive k false .opening t)))

/-- PHCOMM (R313). -/
def execPhcomm (c : BitVec 3) (s : State) : Out := .next (orTrap (phcommStep c (encode (.phcomm c)) s) s)

/-- PHCOMP (R62, R224, R313): the arrival is raised once the core's own traffic of the phase has been performed. -/
def phcompStep (k : BitVec 3) (w : Option W32) (s : State) : Res State :=
  if !channelOk s.core k then illegalT w
  else if marked s.core.cx then
    if arrivedAt s.core k then .error (.wait (.barrier k) s) else .ok (finishPhase s)
  else if s.core.phase ≠ some k then illegalT w
  else if arrivedAt s.core k then .error (.wait (.barrier k) s)
  else do
    let t ← eagerRelease s
    if !delivered t t.core.num then throw (.wait (.delivery k) t)
    throw (.wait (.barrier k) (setMark (arrive k false .closing t)))

/-- PHCOMP (R313). -/
def execPhcomp (c : BitVec 3) (s : State) : Out := .next (orTrap (phcompStep c (encode (.phcomp c)) s) s)

/-! ### The top node (R38, R58, R313) -/

/-- The groves that the bounding rectangle of cores touches (R38). -/
def rectGroves (members : List Nat) : List Nat :=
  let xs := members.map fun n => twigX (twigOf n) / 8
  let ys := members.map fun n => twigY (twigOf n) / 8
  (List.range 96).filter fun g =>
    xs.any (· ≤ g % 12) && xs.any (g % 12 ≤ ·) && ys.any (· ≤ g / 12) && ys.any (g / 12 ≤ ·)

/-- A phase that opens in a group that regions have asked to leave keeps those in it that have not left yet (R35). -/
def keepLeaving (d : Dom) (start : Nat) (s : State) : State :=
  match (rectGroves d.members).map (rclkOf s) with
  | [] => s
  | r :: _ => modFab (fun f => { f with rclk := f.rclk.map fun x =>
      (x.1, if x.2.left = r.lockgrp && leavingOpen s x.2 then { x.2 with leaving := x.2.leaving ++ [(d.id, start)] } else x.2) }) s

/-- The phase-open check (R38): one nonzero lock group, joined, over the rectangle. -/
def phaseCheck (s : State) (members : List Nat) : Bool :=
  match (rectGroves members).map (rclkOf s) with
  | [] => false
  | r :: rs => r.lockgrp != 0 && (r :: rs).all fun x => x.lockgrp == r.lockgrp && x.joined

/-- Changes a domain. -/
def modDom (id : Nat) (f : Dom → Dom) (s : State) : State :=
  modFab (fun b => { b with doms := b.doms.map fun d => if d.id = id then f d else d }) s

/-- A violation found at a top node: every member of the domain is an origin (R41, R421, R422). -/
def topViolation (d : Dom) (s : State) : State :=
  let m : HaltMsg := ⟨d.launch, some d.chan, 1, 0x21, 0, 0, true⟩
  let ns := d.members.filter fun n => !d.left.contains n
  let s := ns.foldl (fun s n => modCoreAt n (fun c => { c with halts := c.halts ++ [m] }) s) s
  notifyRoot d.launch ⟨none, 1, 0x21⟩ ns (modDom d.id (fun d => { d with arrived := [] }) s)

/-- The halt that a resumable stop sends to members whose phase has closed; a later phase is not opened before the resume (R256). -/
def heldHalts (d : Dom) (s : State) : State :=
  let m : HaltMsg := ⟨d.launch, none, 5, 0, 0, 0, false⟩
  if d.heldHalt then
    (d.members.filter fun n => !d.left.contains n).foldl (fun s n => sendHalt m n s)
      (modDom d.id (fun d => { d with heldHalt := false, stopNew := true }) s)
  else s

/-- The release is sent to every member that has not left. -/
def sendRelease (d : Dom) (flag : Bool) (tag : PhTag) (s : State) : State :=
  modFab (fun f => { f with releases := f.releases ++
    (d.members.filter fun n => !d.left.contains n).map fun n => (⟨n, d.chan, flag, tag⟩ : Release) })
    (modDom d.id (fun d => { d with arrived := [] }) s)

/-- Whether every member that has not left has arrived (R58, R61). -/
def allArrived (d : Dom) : Bool :=
  !d.arrived.isEmpty && d.members.all fun n => d.left.contains n || d.arrived.any fun a => a.1 == n

/-- BARRIER_TOP_RELEASE (R38, R58, R256, R313). -/
def execBarrierTopRelease (dom : Nat) (s : State) : Out :=
  match s.fab.doms.find? fun d => d.id == dom with
  | none => .next s
  | some d =>
    if !allArrived d then .next s
    else
      let tag := (d.arrived.head?.map fun a => a.2.2).getD .plain
      if d.arrived.any fun a => a.2.2 != tag then .next (topViolation d s)
      else match tag with
        | .plain => .next (sendRelease d (d.arrived.any fun a => a.2.1) .plain s)
        | .opening =>
          if d.stopNew then .next s
          else if !phaseCheck s d.members then .next (topViolation d s)
          else .next (sendRelease d false .opening (modDom dom (fun d => { d with phase := true, start := s.pkg.nclk + 16 }) (keepLeaving d (s.pkg.nclk + 16) s)))
        | .closing => .next (heldHalts d (sendRelease d false .closing (modDom dom (fun d => { d with phase := false }) s)))

/-- BARRIER_RELEASE_ARRIVE (R62, R312, R313): F is set, A clears, the parity flips, a phase opens or closes, and
contexts that wait on the channel become ready. -/
def execBarrierReleaseArrive (ch : BitVec 3) (s : State) : Out :=
  match s.fab.releases.find? fun r => r.core == s.core.num && r.chan == ch with
  | none => .next s
  | some r =>
    let t := modFab (fun f => { f with releases := f.releases.erase r }) s
    if !enOf s.core ch then .next t
    else
      let phase := fun (p : Option (BitVec 3)) => match r.tag with
        | .plain => p
        | .opening => some ch
        | .closing => none
      let t := modCore (fun c => { modChan ch (fun x => { x with f := r.flag, a := false, parity := !x.parity }) c with
        phase := phase c.phase }) t
      .next (wake (fun _ _ w => w == .barrier ch) t)

/-! ### Monitor waits (R103, R314) -/

/-- The condition of a monitor wait on the value read and the value given. -/
inductive MonCond | ge | eq | ne
deriving DecidableEq, Repr

/-- Whether a monitor wait ends (R314). -/
def MonCond.holds (k : MonCond) (v t : Word) : Bool :=
  match k with
  | .ge => t ≤ v
  | .eq => v == t
  | .ne => v != t

/-- The context's monitor armed on a line (R314). -/
def armMon (line : Nat) (s : State) : State :=
  let c := s.core
  { s with mons := s.mons.filter (fun m => !(m.core == c.num && m.bank == c.bank.num && m.ctx == c.cx.id))
      ++ [⟨c.num, c.bank.num, c.cx.id, line, false⟩] }

/-- The context's monitor is no longer armed. -/
def disarmMon (s : State) : State :=
  let c := s.core
  { s with mons := s.mons.filter fun m => !(m.core == c.num && m.bank == c.bank.num && m.ctx == c.cx.id) }

/-- MWAITGE, MWAITEQ and MWAITNE (R314). -/
def mwaitStep (k : MonCond) (rs2 rs1 rd : RegNo) (s : State) : Res State := do
  let a := readX s rs1
  let t := readX s rs2
  if a.extractLsb' 0 3 ≠ 0 then throw (.trap 4 a)
  rangeLockCheck s a 8
  let p ← resolveT s a 8 .read
  if p.loc = .host then throw (.trap 5 a)
  let g ← homeLoad true p a 8 s
  let v := BitVec.ofNat 64 (natOfBytes g.bytes)
  if k.holds v t then return adv (writeX rd v (acquireActs .pkg (disarmMon g.st)))
  else throw (.wait (.monitor (lineOf p.key)) (armMon (lineOf p.key) g.st))

/-- The swap of R103: a context of the bank waits on its monitor, no other one is ready, and the shadow bank holds a
launch of lower class. -/
def mwaitSwap (b : Bool) (id : Nat) (s : State) : State :=
  let c := s.core
  let waits := match (c.ctx? b id).map (fun x => x.st) with
    | some (CtxSt.waiting (Wait.monitor _)) => true
    | _ => false
  if waits && c.priv == .u && (ringNext c).isNone && holdsLaunch c.shadow && !c.shadow.stopped && prioOf c.shadow < prioOf c.bank
  then beginSwap true s else s

/-- A monitor wait, with the swap that it may lead to. -/
def mwait (k : MonCond) (rs2 rs1 rd : RegNo) (s : State) : State :=
  mwaitSwap s.core.bank.num s.core.cx.id (orTrap (mwaitStep k rs2 rs1 rd s) s)

/-- MWAITGE (R314). -/
def execMwaitge (rs2 rs1 rd : RegNo) (s : State) : Out := .next (mwait .ge rs2 rs1 rd s)
/-- MWAITEQ (R314). -/
def execMwaiteq (rs2 rs1 rd : RegNo) (s : State) : Out := .next (mwait .eq rs2 rs1 rd s)
/-- MWAITNE (R314). -/
def execMwaitne (rs2 rs1 rd : RegNo) (s : State) : Out := .next (mwait .ne rs2 rs1 rd s)

/-- MONITOR_WAKE (R103, R314): the monitor has seen a write, and its read is made again, after a swap that is under way; a bank
swapped out by R103 comes back. -/
def execMonitorWake (bank : Bool) (ctx : Nat) (s : State) : Out :=
  let c := s.core
  let mine := fun (m : Mon) => m.core == c.num && m.bank == bank && m.ctx == ctx && m.hit
  if !s.mons.any mine || c.swap.isSome || (c.priv == .m && c.mwsw && c.bank.num != bank) then .next s
  else
    let t := { s with mons := s.mons.filter fun m => !mine m }
    let t := modCore (·.modCtx bank ctx fun x => match x.st with
      | .waiting (.monitor _) => { x with st := .ready }
      | _ => x) t
    .next (if c.mwsw && c.bank.num != bank then beginSwap false t else t)

/-- RESERVATION_EXPIRE (R281): a reservation is lost 4,096 core cycles after its LR. -/
def execReservationExpire (bank : Bool) (ctx : Nat) (s : State) : Out :=
  let old := fun (r : Resv) => r.core == s.core.num && r.bank == bank && r.ctx == ctx && s.core.cycles ≥ r.cycle + 4096
  .next { s with resv := s.resv.filter fun r => !old r }

end Sys2Proof.Machine
end

