-- ==== Sys2Proof/Machine/Operands.lean ====
section
/-! DEFINITION. Tile command words: their fields, the capture of operands at push, the refusals of a push and the ranges a
command locks (R121, R123, R124, R126, R296 to R299, R373 to R376, and each command's own limits). -/

namespace Sys2Proof.Machine

/-! ### The opcodes and their fields (R296, R297, R373) -/

/-- Which fields A to F a command uses, which of them accept a literal only, the flag bits it defines, and whether L = 1. -/
structure Shape where
  used : List Bool
  lit : List Bool
  flags : Nat
  one : Bool
deriving DecidableEq, Repr

/-- Six fields, the first `n` of them used. -/
def firstN (n : Nat) : List Bool := (List.range 6).map fun i => i < n

/-- No field, or the first one only. -/
def litAcc : List Bool := [true, false, false, false, false, false]
/-- No field accepts a literal only. -/
def noLit : List Bool := [false, false, false, false, false, false]

/-- The shape of an opcode (R297, R373); none is unassigned. -/
def shapeOf : Nat → Option Shape
  | 0x00 => some ⟨firstN 1, litAcc, 0, true⟩
  | 0x01 => some ⟨firstN 6, litAcc, 0b01111, false⟩
  | 0x02 => some ⟨firstN 6, litAcc, 0b11111, false⟩
  | 0x03 => some ⟨[true, true, false, true, false, false], litAcc, 0, true⟩
  | 0x04 => some ⟨firstN 4, litAcc, 0b00001, true⟩
  | 0x05 => some ⟨firstN 2, [true, true, false, false, false, false], 0, true⟩
  | 0x40 => some ⟨firstN 6, noLit, 0b01111, false⟩
  | 0x41 => some ⟨firstN 5, noLit, 0b01000, false⟩
  | 0x42 => some ⟨firstN 6, noLit, 0b11111, false⟩
  | 0x43 => some ⟨firstN 5, noLit, 0, false⟩
  | 0x44 => some ⟨firstN 5, noLit, 0b00111, false⟩
  | 0x45 => some ⟨firstN 5, noLit, 0b11111, false⟩
  | 0x46 => some ⟨firstN 5, noLit, 0b00001, true⟩
  | 0x47 => some ⟨firstN 5, noLit, 0b00011, true⟩
  | 0x48 => some ⟨firstN 5, noLit, 0, true⟩
  | 0x49 => some ⟨firstN 5, noLit, 0, true⟩
  | 0x4A => some ⟨firstN 5, noLit, 0, true⟩
  | 0x4B => some ⟨[true, true, false, true, false, false], noLit, 0, false⟩
  | 0x80 => some ⟨firstN 5, noLit, 0b00001, true⟩
  | 0x81 => some ⟨firstN 5, noLit, 0b00001, false⟩
  | 0x82 => some ⟨firstN 6, noLit, 0b00001, false⟩
  | 0x83 => some ⟨firstN 6, noLit, 0b00011, false⟩
  | 0x84 => some ⟨firstN 6, noLit, 0b00111, true⟩
  | 0x85 => some ⟨firstN 6, noLit, 0b00111, true⟩
  | 0x86 => some ⟨firstN 5, noLit, 0b00011, true⟩
  | 0x87 => some ⟨[true, false, false, true, false, false], noLit, 0, true⟩
  | 0xC0 => some ⟨firstN 0, noLit, 0, true⟩
  | 0xC1 => some ⟨[false, false, false, true, false, false], noLit, 0b00111, true⟩
  | 0xC2 => some ⟨[true, true, false, true, false, false], litAcc, 0b00111, true⟩
  | 0xC3 => some ⟨[true, true, false, true, false, false], noLit, 0b00011, true⟩
  | 0xC4 => some ⟨[true, true, false, true, false, false], noLit, 0b00111, true⟩
  | _ => none

/-- Whether a queue accepts an opcode (R297). -/
def queueTakes (q : Queue) (opc : Nat) : Bool :=
  match opc / 64, q with
  | 0, .mq => true
  | 1, .cq => true
  | 2, .gq => true
  | 3, _ => true
  | _, _ => false

/-- The number of a queue in SQ and in a record (R248, R296). -/
def queueNum : Queue → Nat
  | .mq => 0 | .cq => 1 | .gq => 2

/-- The queue with a number. -/
def queueOf : Nat → Option Queue
  | 0 => some .mq | 1 => some .cq | 2 => some .gq | _ => none

/-- A scope field (R3). -/
def scopeOf : Nat → Option Scope
  | 0 => some .core | 1 => some .twig | 2 => some .grove | 3 => some .die | 4 => some .pkg | 5 => some .sys | _ => none

/-! ### Format bytes (R298) -/

/-- Bytes of an element of a format; 0 for `none`, grain and codes that are not listed (R298). -/
def fmtWidth : Nat → Nat
  | 0x01 => 4 | 0x02 => 2 | 0x03 => 2 | 0x04 => 1 | 0x05 => 1 | 0x07 => 1
  | 0x10 => 1 | 0x11 => 2 | 0x12 => 4 | 0x13 => 8 | 0x14 => 1 | 0x15 => 2 | 0x16 => 4
  | _ => 0

/-- A format byte that names an element format. -/
def isElemFmt (f : Nat) : Bool := fmtWidth f != 0

/-- The grain code is refused at S2 (R22, R298). -/
def grainOk (s : State) : Bool := s.pkg.sl != 2

/-! ### Capture (R124, R374) -/

/-- The value of an operand field, none where its kind or offset is refused. -/
def fieldVal (s : State) (w f : Nat) (lit : Bool) : Option Word :=
  let v := bits w (32 * (f + 1)) 32
  match v % 4 with
  | 1 => if lit then none else some (readX s (BitVec.ofNat 5 (v / 4)))
  | 2 =>
    let off := v / 4
    if lit || off % 8 != 0 || off ≥ 2048 then none
    else some (BitVec.ofNat 64 (bits s.core.bank.const.toNat (8 * off) 64))
  | 3 => some (sextN (v / 4) 30)
  | _ => none

/-- The values of the used fields, zero for the others; `skip` names a field that a flag disables. -/
def fieldVals (s : State) (w : Nat) (sh : Shape) (skip : Nat → Bool) : Option (List Word) :=
  (List.range 6).mapM fun f =>
    if sh.used.getD f false && !skip f then fieldVal s w f (sh.lit.getD f false) else some 0

/-- Bit 251 + i of the word. -/
def flagBit (w i : Nat) : Bool := w.testBit (251 + i)

/-- A field that a flag takes out of use: `to` of a CPYK with nodst (R385); gram, tab and range of GROT's query form
(R397); the descriptor of a GEXP without `scan` (R395); the range of GMV and GVM under `all` (R396). CFILL's pattern in a vector
register is captured apart. -/
def skipField (w : Nat) (f : Nat) : Bool :=
  let opc := w % 256
  (opc == 0x42 && flagBit w 3 && f == 0) || (opc == 0x86 && flagBit w 1 && (f == 0 || f == 2 || f == 4))
    || (opc == 0x83 && !flagBit w 1 && f == 1)
    || ((opc == 0x84 || opc == 0x85) && !flagBit w 1 && flagBit w 2 && f == 4)
    || (opc == 0x43 && f == 1 && bits w 64 2 == 0)

/-- The command that a word makes, its operands captured (R124, R296, R374); none where the word is refused before any
check of the command's own rules. -/
def capture (s : State) (q : Queue) (w : Nat) : Option Cmd := do
  let opc := w % 256
  let sh ← shapeOf opc
  let sc ← scopeOf (bits w 248 3)
  let ch := w.testBit 9
  let sq := bits w 10 2
  let ev := bits w 12 4
  let stag := bits w 16 8
  let l1 := bits w 224 4
  let l2 := bits w 228 4
  let chain := if ch then sq ≤ 2 && sq != queueNum q && ev ≤ 3 && stag != 0 else sq == 0 && ev == 0 && stag == 0
  let flags := bits w 251 5
  if !queueTakes q opc || !chain || l1 > 7 || l2 > 7 || (sh.one && (l1 != 0 || l2 != 0))
    || Nat.land flags (31 - sh.flags) != 0 then none
  else
    let vs ← fieldVals s w sh (skipField w)
    let pat := if opc == 0x43 && bits w 64 2 == 0 then some (readV s (BitVec.ofNat 5 (bits w 66 5))) else none
    return {
      opc := BitVec.ofNat 8 opc, sw := w.testBit 8, ch := ch, sq := BitVec.ofNat 2 sq, ev := BitVec.ofNat 4 ev,
      stag := BitVec.ofNat 8 stag, otag := BitVec.ofNat 8 (bits w 24 8),
      a := vs.getD 0 0, b := vs.getD 1 0, c := vs.getD 2 0, d := vs.getD 3 0, e := vs.getD 4 0, f := vs.getD 5 0,
      vpat := pat,
      c1 := (s.core.bank.loop q (BitVec.ofNat 3 l1)).toNat, c2 := (s.core.bank.loop q (BitVec.ofNat 3 l2)).toNat,
      fmtA := BitVec.ofNat 8 (bits w 232 8), fmtB := BitVec.ofNat 8 (bits w 240 8), scope := sc,
      flags := BitVec.ofNat 5 flags }

/-- Repeats of a command (R126, R374). -/
def Cmd.reps (c : Cmd) : Nat := c.c1 * c.c2

/-! ### Ranges (R133, R374, R376) -/

/-- A range to lock: [lo, hi), and whether it is a destination. -/
structure Rng where
  lo : Nat
  hi : Nat
  dst : Bool
deriving DecidableEq, Repr

/-- The bounding range of `n` bytes at `base` over `l` repeats with a signed stride; none where it passes the address
space (R374). A range of no bytes takes no entry (R376). Own-core grove-window addresses become own-pool-window ones
(R133). -/
def span (core : Nat) (base stride : Word) (l n : Nat) (dst : Bool) : Option (List Rng) :=
  if l = 0 || n = 0 then some []
  else
    let z : Int := base.toNat + ((l - 1 : Nat) : Int) * stride.toInt
    let lo := min (base.toNat : Int) z
    let hi := max (base.toNat : Int) z + n
    if lo < 0 || hi > 2 ^ 64 then none
    else
      let a := lo.toNat
      let b := lockAddr core (BitVec.ofNat 64 a)
      some [⟨b, b + (hi.toNat - a), dst⟩]

/-- Two ranges of one command, in push order. -/
def twoRngs (a b : Option (List Rng)) : Option (List Rng) := do
  let x ← a
  let y ← b
  return x ++ y

/-! ### The limits of each command (R374) -/

/-- A stamp address is 0 or 8 B aligned (R299, R375). -/
def stampOk (v : Word) : Bool := v.toNat % 8 == 0

/-- fp8 formats, grain among them (R379). -/
def isFp8 (f : Nat) : Bool := f == 0x04 || f == 0x05 || f == 0x06

/-- The format pairs of MMA (R379). -/
def mmaPair (a b : Nat) : Bool :=
  (isFp8 a && isFp8 b) || (a == b && (a == 0x10 || a == 0x03 || a == 0x02 || a == 0x01))

/-- Slot size of a grain operand in 32 B units (R379). -/
def cmdSlot (c : Cmd) : Nat := bits c.flags.toNat 2 2 + 9

/-- Bytes of a tile of an operand (R379, R380). -/
def tileBytes (c : Cmd) (f : Nat) : Nat := if f = 0x06 then 32 * cmdSlot c else 256 * fmtWidth f

/-- MMA and MMAS at push (R379, R380). -/
def checkMma (s : State) (c : Cmd) (scaled : Bool) : Option (List Rng) :=
  let n := c.d.toNat
  let fa := c.fmtA.toNat
  let fb := c.fmtB.toNat
  let grain := fa == 0x06 || fb == 0x06
  let m32 := fun (v : Word) => v.toNat % 32 == 0
  let s32 := c.flags.getLsbD 4
  let kb := if s32 then 32 else 16
  let l := c.reps
  if c.a.toNat > 3 || n < 1 || n > 65536 || !mmaPair fa fb || (grain && !grainOk s)
    || (!grain && bits c.flags.toNat 2 2 != 0) || !m32 c.b || !m32 c.c then none
  else if scaled then
    if !(isFp8 fa && isFp8 fb) || (s32 && n % 2 == 1) then none
    else
      let ta := n * tileBytes c fa
      let tb := n * tileBytes c fb
      let nb := n * 16 / kb
      twoRngs (twoRngs (span s.core.num c.b (BitVec.ofNat 64 ta) l ta false) (span s.core.num c.c (BitVec.ofNat 64 tb) l tb false))
        (twoRngs (span s.core.num c.e (BitVec.ofNat 64 nb) l nb false) (span s.core.num c.f (BitVec.ofNat 64 nb) l nb false))
  else if !m32 c.e || !m32 c.f then none
  else twoRngs (span s.core.num c.b c.e l (n * tileBytes c fa) false) (span s.core.num c.c c.f l (n * tileBytes c fb) false)

/-- Formats that MSTA converts (R381): from fp32 (or `none`), and from i32. -/
def mstaPair (a b : Nat) : Bool :=
  ((a == 0x00 || a == 0x01) && (b == 0x01 || b == 0x02 || b == 0x03 || b == 0x04 || b == 0x05))
    || (a == 0x12 && (b == 0x12 || b == 0x10))

/-- MSTA at push (R381). -/
def checkMsta (s : State) (c : Cmd) : Option (List Rng) :=
  let wd := fmtWidth c.fmtB.toNat
  let p := c.c.toNat
  if c.a.toNat > 3 || !stampOk c.d || !mstaPair c.fmtA.toNat c.fmtB.toNat then none
  else if p % wd != 0 || p < 16 * wd || p > 2 ^ 20 || c.b.toNat % wd != 0 then none
  else span s.core.num c.b 0 1 (15 * p + 16 * wd) true

/-- CPY at push (R382, R383). -/
def checkCpy (s : State) (c : Cmd) : Option (List Rng) :=
  let fa := c.fmtA.toNat
  let fb := c.fmtB.toNat
  let n := c.c.toNat
  let l := c.reps
  if !stampOk c.d || n ≥ 2 ^ 32 then none
  else if fa == 0 && fb == 0 then
    twoRngs (span s.core.num c.b c.f l n false) (span s.core.num c.a c.e l n true)
  else if fa == 0x06 && fb == 0x06 then
    if !grainOk s || c.a.toNat % 32 != 0 || c.b.toNat % 32 != 0 || n < 32 || l != 1 then none
    else twoRngs (span s.core.num c.b 0 1 n false) (span s.core.num c.a 0 1 n true)
  else if isElemFmt fa && isElemFmt fb then
    let ws := fmtWidth fa
    let wd := fmtWidth fb
    let sOk := l ≤ 1 || c.f.toNat % ws == 0
    let dOk := l ≤ 1 || c.e.toNat % wd == 0
    if n % ws != 0 || c.b.toNat % ws != 0 || c.a.toNat % wd != 0 || !sOk || !dOk then none
    else twoRngs (span s.core.num c.b c.f l n false) (span s.core.num c.a c.e l (n / ws * wd) true)
  else none

/-- A connection value has no bit above 8 (R81). -/
def connOk (v : Word) : Bool := v.toNat < 512

/-- CPYS and CPYK at push (R384, R385). -/
def checkCopyRun (s : State) (c : Cmd) (key : Bool) : Option (List Rng) :=
  let n := c.c.toNat
  let l := c.reps
  let nodst := key && c.flags.getLsbD 3
  let peer := key && c.flags.getLsbD 4
  let stamps := if key then stampOk c.d else stampOk c.d && stampOk c.e
  let conn := !key || (if peer then connOk c.f else c.f == 0)
  if c.fmtA != 0 || c.fmtB != 0 || !stamps || !conn then none
  else
    let src := span s.core.num c.b c.c l n false
    if nodst || peer then src else twoRngs src (span s.core.num c.a c.c l n true)

/-- Element bytes of GATH and SCAT (R373). -/
def elemBytes (c : Cmd) : Nat := 2 ^ (bits c.flags.toNat 0 2)

/-- Index bytes of GATH and SCAT (R387). -/
def idxBytes (c : Cmd) : Nat := if c.flags.getLsbD 2 then 8 else 4

/-- GATH at push (R387). -/
def checkGath (s : State) (c : Cmd) : Option (List Rng) :=
  let n := c.e.toNat
  let w := elemBytes c
  if !stampOk c.d || n > 2 ^ 24 || c.b.toNat % w != 0 then none
  else
    let k := n * c.reps
    twoRngs (span s.core.num c.c 0 1 (idxBytes c * k) false) (span s.core.num c.a 0 1 (w * k) true)

/-- SCAT at push (R388). -/
def checkScat (s : State) (c : Cmd) : Option (List Rng) :=
  let n := c.e.toNat
  let w := elemBytes c
  let fa := c.fmtA.toNat
  let fmt := fa == 0 || ((fa ≥ 0x10 && fa ≤ 0x16 || fa == 0x01) && fmtWidth fa == w)
  if !stampOk c.d || n > 2 ^ 24 || c.a.toNat % w != 0 || !fmt || c.fmtB != 0 then none
  else
    let k := n * c.reps
    twoRngs (span s.core.num c.b 0 1 (w * k) false) (span s.core.num c.c 0 1 (idxBytes c * k) false)

/-- An address that a storage transfer may name: translated, or in the own pool window (R389). -/
def storageAddr (v : Word) : Bool := !inWindow v || regionOf v == 0xFFFFFF

/-- SRD and SWR at push (R86, R389). -/
def checkStorage (s : State) (c : Cmd) (read : Bool) : Option (List Rng) :=
  let n := c.c.toNat
  let dev := c.e.toNat
  if !stampOk c.d || n < 1 || n > 2 ^ 24 || dev ≥ 2 ^ 36 || dev / 16 == 0 || !storageAddr c.a
    || (c.flags.getLsbD 0 && s.core.priv != .m) then none
  else span s.core.num c.a 0 1 n read

/-- NRD and NWR at push (R390). -/
def checkPeer (s : State) (c : Cmd) (read : Bool) : Option (List Rng) :=
  let n := c.c.toNat
  if !stampOk c.d || n < 1 || n ≥ 2 ^ 32 || !connOk c.e then none
  else if read then span s.core.num c.a 0 1 n true else span s.core.num c.b 0 1 n false

/-- CDEC at push (R391). -/
def checkCdec (s : State) (c : Cmd) : Option (List Rng) :=
  let n := c.e.toNat
  let first := c.c.toNat
  let fb := c.fmtB.toNat
  let wd := fmtWidth fb
  if !stampOk c.d || n < 1 || n > 65536 || c.fmtA.toNat != 0x06 || !grainOk s
    || !(fb == 0x01 || fb == 0x02 || fb == 0x03 || fb == 0x04) || c.b.toNat % 32 != 0 || c.a.toNat % wd != 0 then none
  else twoRngs (span s.core.num c.b 0 1 (32 + 384 * (first + n)) false) (span s.core.num c.a 0 1 (256 * wd * n) true)

/-- CCNT at push (R392). -/
def checkCcnt (s : State) (c : Cmd) : Option (List Rng) :=
  let l := c.reps
  if !stampOk c.d || c.a.toNat % 64 != 0 || c.b.toNat ≥ 6144 || (l != 0 && c.b.toNat + l > 6144) then none
  else span s.core.num c.a 192 l 192 true

/-- tab: a multiple of 32 below 2^20 (R393). -/
def tabOk (v : Word) : Bool := v.toNat % 32 == 0 && v.toNat < 2 ^ 20

/-- lo ≤ hi (R393). -/
def rangeOk (v : Word) : Bool := v.toNat % 2 ^ 32 ≤ v.toNat / 2 ^ 32

/-- A descriptor of a histogram (R168, R169). -/
def isHist (op : Word) : Bool := op.toNat % 256 == 0xA0

/-- Walker commands at push (R393 to R398). -/
def checkWalker (s : State) (c : Cmd) : Option (List Rng) :=
  let fmts := c.fmtA.toNat < 128 && c.fmtB == 0
  if !stampOk c.d then none
  else match c.opc.toNat with
    | 0x80 => if fmts && tabOk c.c && rangeOk c.e then some [] else none
    | 0x81 =>
      let n := c.e.toNat
      if c.fmtA != 0 || c.fmtB != 0 || n > 2 ^ 24 then none
      else
        let k := 8 * n * c.reps
        twoRngs (span s.core.num c.b 0 1 k false) (span s.core.num c.c 0 1 k true)
    | 0x82 =>
      let wo := if isHist c.b then 24 else 8
      if fmts && tabOk c.c then span s.core.num c.f 0 1 (wo * c.reps) true else none
    | 0x83 =>
      let n := c.e.toNat / 2 ^ 48
      if fmts && tabOk c.c then span s.core.num c.f 0 1 (8 * n * c.reps) true else none
    | 0x84 | 0x85 =>
      let ph := bits c.flags.toNat 1 2
      if fmts && tabOk c.c && ph != 3 && (ph == 2 || rangeOk c.e) then some [] else none
    | 0x86 =>
      let q := c.flags.getLsbD 1
      if fmts && c.b.toNat % 8 == 0 && (q || (tabOk c.c && rangeOk c.e)) then span s.core.num c.b 0 1 64 false else none
    | _ => if fmts && c.a.toNat % 32 == 0 then span s.core.num c.a 0 1 160 false else none

/-- Control commands at push (R61, R401). -/
def checkControl (s : State) (c : Cmd) : Option (List Rng) :=
  let ok : Option (List Rng) := some []
  match c.opc.toNat with
  | 0xC0 => ok
  | 0xC1 => if stampOk c.d then ok else none
  | 0xC2 =>
    let k := BitVec.ofNat 3 c.a.toNat
    if stampOk c.d && c.a.toNat < 8 && enOf s.core k && (s.core.chans[k.toNat]'k.isLt).owner == some s.core.bank.num then ok else none
  | 0xC3 => if stampOk c.d && c.a.toNat % 8 == 0 && bits c.flags.toNat 0 2 != 3 then ok else none
  | _ => if stampOk c.d && c.a.toNat % 8 == 0 then ok else none

/-- Every check of the command's own rules that captured values decide, and the ranges it locks, in push order (R374). -/
def checkCmd (s : State) (c : Cmd) : Option (List Rng) :=
  match c.opc.toNat with
  | 0x00 => if c.a.toNat ≤ 3 then some [] else none
  | 0x01 => checkMma s c false
  | 0x02 => checkMma s c true
  | 0x03 =>
    if c.a.toNat ≤ 3 && c.b.toNat % 32 == 0 && stampOk c.d then span s.core.num c.b 0 1 1024 false else none
  | 0x04 => checkMsta s c
  | 0x05 => if c.a.toNat ≤ 3 && c.b.toNat ≤ 3 then some [] else none
  | 0x40 => checkCpy s c
  | 0x41 => checkCopyRun s c false
  | 0x42 => checkCopyRun s c true
  | 0x43 =>
    if stampOk c.d && c.c.toNat < 2 ^ 32 then span s.core.num c.a c.e c.reps c.c.toNat true else none
  | 0x44 => checkGath s c
  | 0x45 => checkScat s c
  | 0x46 => checkStorage s c true
  | 0x47 => checkStorage s c false
  | 0x48 => checkPeer s c true
  | 0x49 => checkPeer s c false
  | 0x4A => checkCdec s c
  | 0x4B => checkCcnt s c
  | n => if n < 0xC0 then checkWalker s c else checkControl s c

end Sys2Proof.Machine
end

