-- ==== Sys2Proof/Machine/Engine.lean ====
section
/-! DEFINITION. What the engines share: their accesses to memory (R135, R157, R374 to R378), the entries of the queues, chain
releases and cancelling (R129 to R132), stamps and records of commands (R252, R375). -/

namespace Sys2Proof.Machine

/-! ### Accesses of an engine -/

/-- Where an address of a command leads, in the process's address space (R143, R376). -/
def engPlace (s : State) (va : Word) (n : Nat) (acc : Acc) : Except (BitVec 8) Place :=
  if inWindow va then resolveWindow s va n acc else resolvePage s s.core.asid va acc

/-- The status of a failed access: 0x22 for a partition, else the command's own (R378). -/
def engStatus (gen cause : BitVec 8) : BitVec 8 := if cause = 0x22 then 0x22 else gen

/-- Whether the host completes an access at a key with an error: its answer is open (R74, R378, log 74). -/
def hostFails (s : State) (k : Nat) : Bool := isHostKey k && Config.hostError s.core.cycles (lineOf k)

/-- The parts of a range of `n` bytes at an address, cut at 128 B lines: offset and length. -/
def lineParts (va : Word) (n : Nat) : List (Nat × Nat) :=
  let a := va.toNat % 128
  (List.range ((a + n + 127) / 128)).filterMap fun i =>
    let lo := if i = 0 then 0 else 128 * i - a
    let hi := min n (128 * (i + 1) - a)
    if lo < hi then some (lo, hi - lo) else none

/-- No store of any context of a core is on its way to host space (R74, R215). -/
def noneLateHost (c : Core) : Bool := (c.ctxsOf false ++ c.ctxsOf true).all fun x => x.late.all fun l => l.host.isEmpty

/-- What an engine's read gives: the bytes up to the first that fails, and the failure. -/
structure EngRead where
  bytes : List Byte
  fail : Option (BitVec 8 × Word)
deriving DecidableEq, Repr

/-- One part of a read, in one line. -/
def engReadPart (s : State) (va : Word) (n : Nat) (gen : BitVec 8) : EngRead :=
  match engPlace s va n .read with
  | .error c => ⟨[], some (engStatus gen c, va)⟩
  | .ok p =>
    if hostFails s p.key then ⟨[], some (0x76, va)⟩
    else if poisoned s p.key n then ⟨[], some (0x25, va)⟩ else ⟨memRead s.mem p.key n, none⟩

/-- A read of `n` bytes, never from an L1 (R376). -/
def engRead (s : State) (va : Word) (n : Nat) (gen : BitVec 8) : EngRead :=
  (lineParts va n).foldl (fun r p =>
    match r.fail with
    | some _ => r
    | none =>
      let x := engReadPart s (va + BitVec.ofNat 64 p.1) p.2 gen
      ⟨r.bytes ++ x.bytes, x.fail⟩) ⟨[], none⟩

/-- A request of an engine's read and its reply are packets; one for a line that slices hold enters their bookkeeping, and a
replica serves one of a REPL frame (R148, R154, R257, R377). -/
def noteLine (p : Place) (once : Bool) (s : State) : State :=
  if p.loc == .own then s
  else
    let line := lineOf p.key
    let t := countRecv (countSent s)
    if p.loc == .dram && inSlice p then
      enterRead line ⟨true, once, false, p.bark⟩ (shareRead line (visit .req (twigOf s.core.num) (readSlice s line) t))
    else visitLine line t

/-- The requests of a read (R377). -/
def noteRead (va : Word) (n : Nat) (once : Bool) (s : State) : State :=
  (lineParts va n).foldl (fun s p =>
    match engPlace s (va + BitVec.ofNat 64 p.1) p.2 .read with
    | .error _ => s
    | .ok q => noteLine q once s) s

/-- The first part of a destination that cannot be written: its offset, status and address (R74, R157, R158, R378). -/
def engBad (s : State) (va : Word) (n : Nat) (gen : BitVec 8) : Option (Nat × BitVec 8 × Word) :=
  (lineParts va n).findSome? fun p =>
    let a := va + BitVec.ofNat 64 p.1
    match engPlace s a p.2 .write with
    | .error c => some (p.1, engStatus gen c, a)
    | .ok q =>
      if hostFails s q.key then some (p.1, 0x76, a)
      else if p.2 < 128 && poisoned s q.key p.2 then some (p.1, 0x25, a) else none

/-- Bytes of one line that an engine's write performs at their place; L1 copies of them are dropped, since a fill that was under way at
issue may have brought old ones (R215, R221). -/
def engLand (q : Place) (bs : List Byte) (s : State) : State :=
  match q.loc with
  | .dram => dropL1 q.key bs.length (performHow ⟨inSlice q, false, false, q.bark⟩ q.key bs s)
  | _ => perform q.key bs s

/-- Bytes of one line written by an engine at their place (R377). -/
def engPutAt (q : Place) (bs : List Byte) (s : State) : State :=
  engLand q bs (if q.loc == .own then s else countSent (visitLine (lineOf q.key) s))

/-- Bytes written at an address, at their places; a part that cannot be written is left out. -/
def engPut (va : Word) (bs : List Byte) (s : State) : State :=
  (lineParts va bs.length).foldl (fun s p =>
    match engPlace s (va + BitVec.ofNat 64 p.1) p.2 .write with
    | .error _ => s
    | .ok q => engPutAt q ((bs.drop p.1).take p.2) s) s

/-- The places of the bytes of a range, in parts with their lengths, those that can be reached. -/
def engPlaces (s : State) (va : Word) (n : Nat) (acc : Acc) : List (Place × Nat) :=
  (lineParts va n).filterMap fun p =>
    match engPlace s (va + BitVec.ofNat 64 p.1) p.2 acc with
    | .error _ => none
    | .ok q => some (q, p.2)

/-- A multiple of 128 from 0 up to `n`: where the new data of a failed transfer ends is open (R378, log 12). -/
def freeBound (n : Nat) (s : State) : Nat × State :=
  let (w, s) := freeW s
  (128 * (w.toNat % (n / 128 + 1)), s)

/-- What carrying out a command ends with. -/
structure Result where
  status : BitVec 8
  tval : Word
  seqField : Option Word
  srcBad : Bool
deriving DecidableEq, Repr

/-- Success (R252). -/
def Result.ok : Result := ⟨0, 0, none, false⟩
/-- A fault with its status and value; unless it is said otherwise the sources have not all been read. -/
def Result.fault (status : BitVec 8) (tval : Word) : Result := ⟨status, tval, none, true⟩

/-- The first part of a store in segments that cannot be written: its transfer offset, status and address. -/
def segsBad (s : State) (gen : BitVec 8) : (off : Nat) → List (Word × List Byte) → Option (Nat × BitVec 8 × Word)
  | _, [] => none
  | off, (va, bs) :: l =>
    match engBad s va bs.length gen with
    | some (o, st, a) => some (off + o, st, a)
    | none => segsBad s gen (off + bs.length) l

/-- The first `n` bytes of segments written, in transfer order. -/
def segsPut : (n : Nat) → List (Word × List Byte) → State → State
  | _, [], s => s
  | n, (va, bs) :: l, s => segsPut (n - bs.length) l (engPut va (bs.take n) s)

/-- A store in segments, of the bytes that the sources gave up to their failure `bad`: whole, or up to the open boundary of R378,
counted over the transfer. -/
def engStoreSegsTo (segs : List (Word × List Byte)) (bad : Option (BitVec 8 × Word)) (gen : BitVec 8) (s : State) : Result × State :=
  match segsBad s gen 0 segs, bad with
  | none, none => (Result.ok, segs.foldl (fun s x => engPut x.1 x.2 s) s)
  | some (off, st, a), _ =>
    let (b, s) := freeBound off s
    ({ Result.fault st a with srcBad := bad.isSome }, segsPut b segs s)
  | none, some f =>
    let (b, s) := freeBound (segs.map (·.2.length)).sum s
    (Result.fault f.1 f.2, segsPut b segs s)

/-- A store in segments whose sources did not fail. -/
def engStoreSegs (segs : List (Word × List Byte)) (gen : BitVec 8) (s : State) : Result × State := engStoreSegsTo segs none gen s

/-- A destination written as far as source and destination allow. `bad` is the source's failure after the bytes it gave;
where `exact`, everything before it is written. Else, and on a failure of the destination, the new data ends at the open
boundary of R378 below the first failing byte. -/
def engStoreTo (va : Word) (bs : List Byte) (total : Nat) (bad : Option (BitVec 8 × Word)) (exact : Bool) (gen : BitVec 8)
    (s : State) : Result × State :=
  match bad, engBad s va total gen with
  | none, none => (Result.ok, engPut va bs s)
  | none, some (off, st, a) =>
    let (b, s) := freeBound off s
    (Result.fault st a, engPut va (bs.take b) s)
  | some f, dst =>
    match dst.filter fun d => d.1 < bs.length with
    | some (off, st, a) =>
      let (b, s) := freeBound off s
      (Result.fault st a, engPut va (bs.take b) s)
    | none =>
      let (b, s) := if exact then (bs.length, s) else freeBound bs.length s
      (Result.fault f.1 f.2, engPut va (bs.take b) s)

/-- The rule of R378 on both sides. -/
def engStore (va : Word) (bs : List Byte) (total : Nat) (bad : Option (BitVec 8 × Word)) (gen : BitVec 8) (s : State) :
    Result × State := engStoreTo va bs total bad false gen s

/-! ### Entries of the queues -/

/-- The entry of a queue with a bank and a sequence value. -/
def findEntry (c : Core) (q : Queue) (b : Bool) (seq : Nat) : Option Entry :=
  (c.queue q).find? fun e => e.bank == b && e.seq == seq && e.inner.isNone

/-- Changes the entry with a push number. -/
def modEntry (q : Queue) (ord : Nat) (f : Entry → Entry) (s : State) : State :=
  modCore (fun c => c.setQueue q ((c.queue q).map fun e => if e.ord = ord then f e else e)) s

/-- A dispatched command of a queue that the sequencer has given to its engine. -/
def Entry.dispatched (e : Entry) : Bool := !e.cancelled && (e.st == .flight || e.st == .worked)

/-- An undispatched command. -/
def Entry.waiting (e : Entry) : Bool := !e.cancelled && (e.st == .held || e.st == .queued)

/-- Range-lock entries of a command released (R135, R325). -/
def dropLocks (ord : Nat) (s : State) : State := modCore (fun c => { c with locks := c.locks.filter fun l => l.ord != ord }) s

/-- Source range-lock entries of a command released (R135). -/
def dropSrcLocks (ord : Nat) (s : State) : State :=
  modCore (fun c => { c with locks := c.locks.filter fun l => l.ord != ord || l.dst }) s

/-- An undispatched entry cancelled: its locks are released, it is held no longer, and it retires in its place (R325). -/
def cancelAt (q : Queue) (ord : Nat) (s : State) : State :=
  dropLocks ord (modEntry q ord (fun e => { e with st := .queued, cancelled := true }) s)

/-- A release for a tag of a queue, cancelling or not: the oldest held entry of the bank with the tag is released, or
cancelled; else the bit is set, or merged (R130, R131). -/
def releaseTag (b : Bool) (q : Queue) (tag : BitVec 8) (cancelling : Bool) (s : State) : State :=
  match (s.core.queue q).find? fun e => e.bank == b && e.st == .held && !e.cancelled && e.cmd.otag == tag with
  | some e => if cancelling then cancelAt q e.ord s else modEntry q e.ord (fun e => { e with st := .queued }) s
  | none =>
    let set := (s.core.bankOf b).rel q
    let old := set.any fun x => x.1 == tag && x.2
    modCore (·.modBankOf b fun k => k.setRel q ((set.filter fun x => x.1 != tag) ++ [(tag, cancelling || old)])) s

/-- The chain release of a command, if it names one (R130). -/
def sendChain (e : Entry) (cancelling : Bool) (s : State) : State :=
  if e.cmd.ch then
    match queueOf e.cmd.sq.toNat with
    | some q => releaseTag e.bank q e.cmd.stag cancelling s
    | none => s
  else s

/-! ### Stamps and records (R248, R252, R375) -/

/-- The record cause of a status (R252, R378). -/
def recCause (st : BitVec 8) : BitVec 8 := if st = 0x22 ∨ st = 0x25 ∨ st = 0x2B then st else 0x24

/-- A record of a command (R248, R252): to the context that pushed it, to the control context once that helper has
exited, to none once the bank has left its stage. -/
def engRecord (q : Queue) (e : Entry) (st : BitVec 8) (va : Word) (s : State) : State :=
  let k := s.core.bankOf e.bank
  let left := (k.bound.map (·.left)).getD true || k.dead
  if left then s
  else
    let now := ((s.core.ctx? e.bank e.ctx).map (·.instret)).getD 0
    let ic := match e.icBase with
      | some v => icDiff now v
      | none => e.icDone
    let r : Rec := ⟨va, BitVec.ofNat 64 e.seq, e.pc, recCause st, 0, 2, BitVec.ofNat 2 (queueNum q), st, ic, false⟩
    pushRec e.bank e.ctx r s

/-- The stamp-address-fault status of a queue (R375). -/
def stampFault : Queue → BitVec 8
  | .mq => 0x5E | .cq => 0x7E | .gq => 0x6E

/-- One stamp of a command written, or a record of its address's fault (R375). -/
def writeStamp (q : Queue) (e : Entry) (va : Word) (st : BitVec 8) (s : State) : State :=
  if va = 0 then s
  else
    let w := stampWord (e.seqField.getD (BitVec.ofNat 64 e.seq)) st
    match engBad s va 8 (stampFault q) with
    | some (_, f, a) => engRecord q e (if f = 0x22 ∨ f = 0x25 ∨ f = 0x76 then stampFault q else f) a s
    | none => engPut va (bytesOfNat 8 w.toNat) s

/-- The stamps of a command that are written after completion (R375). -/
def lastStamps (e : Entry) : List Word :=
  match e.cmd.opc.toNat with
  | 0x00 | 0x01 | 0x02 | 0x05 | 0xC0 => []
  | 0x41 => [e.cmd.e]
  | _ => [e.cmd.d]

/-! ### Commands that a free run has dispatched with one that they conflict with (R128) -/

/-- The ranges that an entry holds. -/
def lockRngs (c : Core) (ord : Nat) : List Lock := c.locks.filter fun l => l.ord == ord

/-- The keys of the bytes of a range, as (key, length) parts, those that can be reached. -/
def engKeys (s : State) (va : Word) (n : Nat) (acc : Acc) : List (Nat × Nat) :=
  (engPlaces s va n acc).map fun p => (p.1.key, p.2)

/-- Where the bytes lie that a command reads as unspecified, as (key, length) parts. -/
def looseParts (s : State) (e : Entry) : List (Nat × Nat) :=
  e.loose.flatMap fun r => engKeys s (BitVec.ofNat 64 r.1) (r.2 - r.1) .read

/-- Those bytes free (log 12). -/
def openReads (e : Entry) (s : State) : State :=
  (looseParts s e).foldl (fun s p =>
    let (bs, s) := freeBytes p.2 s
    { s with mem := memWrite s.mem p.1 bs }) s

/-- The same bytes as they stood in `s`, but for those of the command's own destinations. -/
def closeReads (e : Entry) (s t : State) : State :=
  let own := ((lockRngs s.core e.ord).filter (·.dst)).flatMap fun l => engKeys s (BitVec.ofNat 64 l.lo) (l.hi - l.lo) .write
  let back := ((looseParts s e).flatMap fun p => (List.range p.2).map (p.1 + ·)).filter fun a =>
    !own.any fun p => decide (p.1 ≤ a ∧ a < p.1 + p.2)
  { t with mem := back.foldl (fun m a => memSet m a (memGet s.mem a)) t.mem }

/-- A command's work, in which what it reads of a conflicting command's data is unspecified (R128). -/
def throughLoose (e : Entry) (f : State → State) (s : State) : State :=
  if e.loose.isEmpty then f s else closeReads e s (f (openReads e s))

/-- The packets that a bank's command injected and received count for that bank, whichever is active (R257). -/
def creditBank (b : Bool) (s t : State) : State :=
  if b = t.core.bank.num then t
  else
    let old := s.core.bank.counts
    let new := t.core.bank.counts
    modCore (fun c => { c with
      bank := { c.bank with counts := old }
      shadow := { c.shadow with counts := { c.shadow.counts with
        psent := c.shadow.counts.psent + (new.psent - old.psent), precv := c.shadow.counts.precv + (new.precv - old.precv) } } }) t

/-- Whether a command may make its accesses: the core's writes that were under way at its issue have been performed or taken by
the host (R215), and no write is held for replicas (R154, R223). -/
def enginesGo (s : State) : Bool := s.ms.heldW.isEmpty && (writesOf s s.core.num).isEmpty && noneLateHost s.core

/-- The carrying out of a dispatched command by its engine: `f` gives the result and the state after its accesses. -/
def work (q : Queue) (opc : Nat) (b : Bool) (seq : Nat) (f : Entry → State → Result × State) (s : State) : Out :=
  match findEntry s.core q b seq with
  | none => .next s
  | some e =>
    if e.st != .flight || e.cancelled || e.cmd.opc.toNat != opc || !enginesGo s then .next s
    else
      .next (throughLoose e (fun s =>
        let (r, t) := f e s
        modEntry q e.ord (fun x => { x with st := .worked, status := r.status, tval := r.tval, seqField := r.seqField,
                                            srcBad := r.status != 0 && r.srcBad }) (creditBank e.bank s t)) s)

end Sys2Proof.Machine
end

