-- ==== Sys2Proof/Machine/Tiles.lean ====
section
/-! DEFINITION. Grain coding: buffer headers, tile headers, token streams and planes (R190 to R193). -/

namespace Sys2Proof.Machine

/-- A grain buffer header (R190). -/
structure GrainHdr where
  tr : Nat
  tc : Nat
  slot : Nat
deriving DecidableEq, Repr

/-- The header in 32 bytes; none where it lies outside R190. -/
def grainHdr (bs : List Byte) : Option GrainHdr :=
  let v := natOfBytes bs
  let tr := bits v 32 16
  let tc := bits v 48 16
  let slot := bits v 64 8
  if bits v 0 32 != 0x314E5247 || tr = 0 || tc = 0 || slot < 9 || slot > 12 || bits v 73 183 != 0 then none
  else some ⟨tr, tc, slot⟩

/-- Address of slot `t` of a buffer, in buffer order (R190). -/
def slotAddr (base : Word) (h : GrainHdr) (t : Nat) : Word := base + BitVec.ofNat 64 (32 + 32 * h.slot * t)

/-- The bits of bytes as a token stream reads them: from bit 7 down to bit 0 (R192). -/
def streamBits (bs : List Byte) : List Bool :=
  bs.flatMap fun b => (List.range 8).map fun i => b.getLsbD (7 - i)

/-- One token read against MODE `m`: the exponent field and the rest; none where it leaves 0 to 15 or the stream ends (R192, R193). -/
def token (m : Nat) : List Bool → Option (Nat × List Bool)
  | false :: l => some (m, l)
  | true :: false :: s :: l =>
    if s then (if m < 1 then none else some (m - 1, l)) else (if m + 1 > 15 then none else some (m + 1, l))
  | true :: true :: false :: s :: k :: l =>
    let d := 2 + k.toNat
    if s then (if m < d then none else some (m - d, l)) else (if m + d > 15 then none else some (m + d, l))
  | true :: true :: true :: a :: b :: c :: d :: l => some (8 * a.toNat + 4 * b.toNat + 2 * c.toNat + d.toNat, l)
  | _ => none

/-- `n` tokens: their exponent fields and the rest of the stream. -/
def tokens (m : Nat) : (n : Nat) → List Bool → Option (List Nat × List Bool)
  | 0, l => some ([], l)
  | n + 1, l => do
    let (e, l) ← token m l
    let (es, l) ← tokens m n l
    return (e :: es, l)

/-- Nibble of element `k` in a plane (R192). -/
def planeNibble (plane : List Byte) (k : Nat) : Nat := bits (plane.getD (k / 2) 0).toNat (4 * (k % 2)) 4

/-- SLOW of the tile in a slot (R191). -/
def tileSlow (slot : List Byte) : Bool := (slot.getD 0 0).getLsbD 5

/-- The 256 e4m3n elements of the tile in a slot, row-major; none where it is malformed (R191 to R193). -/
def decodeTile (slot : List Byte) : Option (List Nat) :=
  let h := natOfBytes (slot.take 4)
  let mode := bits h 0 4
  let plain := bits h 4 1 == 1
  let len := bits h 8 12
  if bits h 6 2 != 0 || bits h 20 12 != 0 || len > slot.length then none
  else if plain then
    if len != 260 || bits h 5 1 == 1 then none else some (((slot.drop 4).take 256).map (·.toNat))
  else
    let stream := streamBits (slot.drop 4)
    match tokens mode 256 stream with
    | none => none
    | some (es, rest) =>
      let used := stream.length - rest.length
      let ts := (used + 7) / 8
      if len != 132 + ts || (rest.take (8 * ts - used)).any id then none
      else
        let plane := (slot.drop (4 + ts)).take 128
        some (es.mapIdx fun k e =>
          let nb := planeNibble plane k
          128 * (nb / 8) + 8 * e + nb % 8)

/-- A PLAIN tile with MODE 0 in a slot of `n` bytes (R195, R383). -/
def plainTile (n : Nat) (es : List Nat) : List Byte :=
  let b := bytesOfNat 4 (16 + 260 * 256) ++ es.map fun e => BitVec.ofNat 8 e
  b ++ List.replicate (n - b.length) 0

end Sys2Proof.Machine
end

