-- ==== Sys2Proof/Machine/Matrix.lean ====
section
/-! DEFINITION. The matrix array: MZERO, MMA, MMAS, MLDA, MSTA and MTRN, carried out after their dispatch (R196 to R199,
R379 to R381). -/

namespace Sys2Proof.Machine

/-! ### Accumulators and tiles -/

/-- The 256 elements of an accumulator tile, row-major. -/
def accElems (a : BitVec 8192) : List Nat := elemsOf 32 256 a

/-- An accumulator tile from its elements. -/
def accOfElems (es : List Nat) : BitVec 8192 := ofElems 8192 32 es

/-- An accumulator of a bank (R114, R122). -/
def accOf (s : State) (b : Bool) (a : Nat) : BitVec 8192 := (s.core.bankOf b).acc.toList.getD a 0

/-- An accumulator of a bank written. -/
def setAcc (b : Bool) (a : Nat) (v : BitVec 8192) (s : State) : State :=
  modCore (·.modBankOf b fun k => if h : a < 4 then { k with acc := k.acc.set a v } else k) s

/-- Rows of a row-major tile. -/
def rowsOf {α : Type} (l : List α) : List (List α) := (List.range 16).map fun i => (l.drop (16 * i)).take 16

/-- Columns of a row-major tile. -/
def colsOf {α : Type} (l : List α) : List (List α) :=
  let rs := rowsOf l
  (List.range 16).map fun j => rs.filterMap fun r => r[j]?

/-- A tile transposed, its elements row-major. -/
def transposed {α : Type} (l : List α) : List α := (colsOf l).flatten

/-- The floating format of a format code (R298). -/
def ffOf : Nat → Option FF
  | 0x01 => some ff32 | 0x02 => some ff16 | 0x03 => some ffbf | 0x04 => some ffe4 | 0x05 => some ffe5 | 0x06 => some ffe4
  | _ => none

/-- Elements of `w` bytes in bytes, lowest first. -/
def elemsIn (w : Nat) (bs : List Byte) : List Nat :=
  (List.range (bs.length / w)).map fun i => natOfBytes ((bs.drop (w * i)).take w)

/-- The elements of tile `t` of an operand, with the failure that stops the command (R379, R380). -/
def readTile (s : State) (c : Cmd) (fmt : Nat) (base : Word) (t : Nat) : Except (BitVec 8 × Word) (List Nat) :=
  let n := tileBytes c fmt
  let va := base + BitVec.ofNat 64 (n * t)
  let r := engRead s va n 0x51
  match r.fail with
  | some f => .error f
  | none =>
    if fmt = 0x06 then
      match decodeTile r.bytes with
      | some es => .ok es
      | none => .error (0x50, va)
    else .ok (elemsIn (fmtWidth fmt) r.bytes)

/-! ### One tile step (R197, R199) -/

/-- Products of pairs of a cell; under ZA a product with a zero operand is never formed (R199). -/
def products (za : Bool) (ps : List (Fv × Fv)) : List Fv :=
  (ps.filter fun p => !(za && (p.1.isZero || p.2.isZero))).map fun p => (mulF p.1 p.2).1

/-- An accumulator with products added in one rounding; with none it stays as it is. -/
def addRound (acc : Nat) (ps : List Fv) : Nat :=
  if ps.isEmpty then acc else (roundF ff32 .rne false (addF .rne (decodeF ff32 acc :: ps)).1).1

/-- A cell of two products per cycle (R197). -/
def cellPairs (za : Bool) (acc : Nat) : List (Fv × Fv) → Nat
  | p :: q :: l => cellPairs za (addRound acc (products za [p, q])) l
  | [p] => addRound acc (products za [p])
  | [] => acc

/-- A cell of one product at a time (R197). -/
def cellSingles (za : Bool) (acc : Nat) (l : List (Fv × Fv)) : Nat := l.foldl (fun a p => addRound a (products za [p])) acc

/-- A cell of the i8 pair (R197). -/
def cellInt (acc : Nat) (l : List (Nat × Nat)) : Nat :=
  let t : Int := (l.map fun p => sintN p.1 8 * sintN p.2 8).foldl (· + ·) acc
  (BitVec.ofInt 32 t).toNat

/-- Every cell of a tile step: `f` gets the cell's accumulator and its pairs in increasing k. -/
def eachCell {α β : Type} (f : Nat → List (α × β) → Nat) (acc : List Nat) (ta : List α) (tb : List β) : List Nat :=
  let cs := colsOf tb
  let pairs := (rowsOf ta).flatMap fun r => cs.map fun c => r.zip c
  List.zipWith f acc pairs

/-- One tile step of MMA on an accumulator (R197, R199). -/
def tileStep (za : Bool) (fa fb : Nat) (acc ta tb : List Nat) : List Nat :=
  match ffOf fa, ffOf fb with
  | some f, some g =>
    let cell := if isFp8 fa then cellPairs za else cellSingles za
    eachCell cell acc (ta.map (decodeF f)) (tb.map (decodeF g))
  | _, _ => eachCell cellInt acc ta tb

/-! ### MMA and MMAS (R196, R380) -/

/-- A running matrix command: its accumulator, the state with its requests entered, and the failure. -/
structure MmaRun where
  acc : List Nat
  st : State
  fail : Option (BitVec 8 × Word)

/-- Step `t` of a repeat of MMA. -/
def mmaStep (c : Cmd) (a b : Word) (t : Nat) (x : MmaRun) : MmaRun :=
  match x.fail with
  | some _ => x
  | none =>
    let fa := c.fmtA.toNat
    let fb := c.fmtB.toNat
    let s := noteRead (a + BitVec.ofNat 64 (tileBytes c fa * t)) (tileBytes c fa) false
      (noteRead (b + BitVec.ofNat 64 (tileBytes c fb * t)) (tileBytes c fb) false x.st)
    match readTile x.st c fa a t, readTile x.st c fb b t with
    | .error e, _ => { x with fail := some e }
    | _, .error e => { x with fail := some e }
    | .ok ta, .ok tb => ⟨tileStep (c.flags.getLsbD 0) fa fb x.acc ta tb, s, none⟩

/-- Address advanced by repeats of a signed stride, modulo 2^64 (R374). -/
def strided (base stride : Word) (r : Nat) : Word := base + BitVec.ofNat 64 r * stride

/-- The repeats of MMA. -/
def mmaRun (c : Cmd) (x : MmaRun) : MmaRun :=
  (List.range c.reps).foldl (fun x r =>
    (List.range c.d.toNat).foldl (fun x t => mmaStep c (strided c.b c.e r) (strided c.c c.f r) t x) x) x

/-- The scaled add of a block (R196). -/
def scaledAdd (sa sb : Nat) (acc p : Nat) : Nat :=
  if sa % 256 = 255 || sb % 256 = 255 then 0x7FC00000
  else addRound acc [(decodeF ff32 p).scale ((sa % 256 : Nat) - 127 + ((sb % 256 : Nat) - 127))]

/-- The tiles of one k block, from tile `t` on. -/
def readTiles (s : State) (c : Cmd) (fmt : Nat) (base : Word) (t n : Nat) : Except (BitVec 8 × Word) (List (List Nat)) :=
  (List.range n).mapM fun i => readTile s c fmt base (t + i)

/-- Block `m` of a repeat of MMAS, `k` tiles in each block (R196, R380). -/
def mmasBlock (c : Cmd) (a b sa sb : Word) (k m : Nat) (x : MmaRun) : MmaRun :=
  match x.fail with
  | some _ => x
  | none =>
    let fa := c.fmtA.toNat
    let fb := c.fmtB.toNat
    let va := sa + BitVec.ofNat 64 m
    let vb := sb + BitVec.ofNat 64 m
    let ra := engRead x.st va 1 0x51
    let rb := engRead x.st vb 1 0x51
    let na := tileBytes c fa
    let nb := tileBytes c fb
    match ra.fail, rb.fail, readTiles x.st c fa a (m * k) k, readTiles x.st c fb b (m * k) k with
    | some e, _, _, _ => { x with fail := some e }
    | _, some e, _, _ => { x with fail := some e }
    | _, _, .error e, _ => { x with fail := some e }
    | _, _, _, .error e => { x with fail := some e }
    | none, none, .ok tas, .ok tbs =>
      let p := (tas.zip tbs).foldl (fun p t => tileStep (c.flags.getLsbD 0) fa fb p t.1 t.2) (List.replicate 256 0)
      let s := noteRead va 1 false (noteRead vb 1 false (noteRead (a + BitVec.ofNat 64 (na * k * m)) (na * k) false
        (noteRead (b + BitVec.ofNat 64 (nb * k * m)) (nb * k) false x.st)))
      ⟨List.zipWith (scaledAdd (natOfBytes ra.bytes) (natOfBytes rb.bytes)) x.acc p, s, none⟩

/-- The repeats of MMAS: operands and scales packed one repeat after another (R380). -/
def mmasRun (c : Cmd) (x : MmaRun) : MmaRun :=
  let n := c.d.toNat
  let k := if c.flags.getLsbD 4 then 2 else 1
  let nb := n / k
  (List.range c.reps).foldl (fun x r =>
    let a := c.b + BitVec.ofNat 64 (r * (n * tileBytes c c.fmtA.toNat))
    let b := c.c + BitVec.ofNat 64 (r * (n * tileBytes c c.fmtB.toNat))
    let sa := c.e + BitVec.ofNat 64 (r * nb)
    let sb := c.f + BitVec.ofNat 64 (r * nb)
    (List.range nb).foldl (fun x m => mmasBlock c a b sa sb k m x) x) x

/-- MMA or MMAS with its accumulator read and written: the sums of every completed step stay, also on a fault (R380). -/
def matrixWork (run : Cmd → MmaRun → MmaRun) (e : Entry) (s : State) : Result × State :=
  let a := e.cmd.a.toNat
  let acc := if e.cmd.flags.getLsbD 1 then List.replicate 256 0 else accElems (accOf s e.bank a)
  let x := run e.cmd ⟨acc, s, none⟩
  let t := setAcc e.bank a (accOfElems x.acc) x.st
  match x.fail with
  | some f => (Result.fault f.1 f.2, t)
  | none => (Result.ok, t)

/-- MMA (R380). -/
def execMma (bank : Bool) (seq : Nat) (s : State) : Out := work .mq 0x01 bank seq (matrixWork mmaRun) s

/-- MMAS (R380). -/
def execMmas (bank : Bool) (seq : Nat) (s : State) : Out := work .mq 0x02 bank seq (matrixWork mmasRun) s

/-! ### MZERO, MTRN, MLDA, MSTA (R381) -/

/-- MZERO (R381). -/
def execMzero (bank : Bool) (seq : Nat) (s : State) : Out :=
  work .mq 0x00 bank seq (fun e s => (Result.ok, setAcc e.bank e.cmd.a.toNat 0 s)) s

/-- MTRN (R381). -/
def execMtrn (bank : Bool) (seq : Nat) (s : State) : Out :=
  work .mq 0x05 bank seq (fun e s =>
    (Result.ok, setAcc e.bank e.cmd.a.toNat (accOfElems (transposed (accElems (accOf s e.bank e.cmd.b.toNat)))) s)) s

/-- MLDA's load: the accumulator is unchanged where a byte cannot be read (R381). -/
def mldaWork (e : Entry) (s : State) : Result × State :=
  let r := engRead s e.cmd.b 1024 0x52
  match r.fail with
  | some f => (Result.fault f.1 f.2, s)
  | none => (Result.ok, setAcc e.bank e.cmd.a.toNat (BitVec.ofNat 8192 (natOfBytes r.bytes)) (noteRead e.cmd.b 1024 false s))

/-- MLDA (R381). -/
def execMlda (bank : Bool) (seq : Nat) (s : State) : Out := work .mq 0x03 bank seq mldaWork s

/-- An accumulator element in the destination format of MSTA (R381). -/
def mstaConv (c : Cmd) (x : Nat) : Nat :=
  let sat := c.flags.getLsbD 0
  if c.fmtA = 0x12 then
    if c.fmtB = 0x12 then x
    else if sat then (BitVec.ofInt 8 (max (-128) (min 127 (sintN x 32)))).toNat
    else x % 256
  else
    match ffOf c.fmtB.toNat with
    | some f => if c.fmtB = 0x01 then x else (roundF f .rne sat (decodeF ff32 x)).1
    | none => x

/-- MSTA's store, row by row (R381). -/
def mstaWork (e : Entry) (s : State) : Result × State :=
  let c := e.cmd
  let wd := fmtWidth c.fmtB.toNat
  let rows := rowsOf ((accElems (accOf s e.bank c.a.toNat)).map (mstaConv c))
  let segs := rows.mapIdx fun i r => (c.b + BitVec.ofNat 64 i * c.c, r.flatMap (bytesOfNat wd))
  engStoreSegs segs 0x52 s

/-- MSTA (R381). -/
def execMsta (bank : Bool) (seq : Nat) (s : State) : Out := work .mq 0x04 bank seq mstaWork s

end Sys2Proof.Machine
end

