-- ==== Sys2Proof/Machine/Copy.lean ====
section
/-! DEFINITION. The copy engine's local commands: CPY, CPYS, CPYK, CFILL, GATH, SCAT, CDEC and CCNT, carried out after their
dispatch (R153, R189, R195, R340, R382 to R388, R391, R392). -/

namespace Sys2Proof.Machine

/-! ### Conversions (R189, R382) -/

/-- A number read in a format: an integer of so many bytes, or a float. -/
inductive FmtVal
  | int (bytes : Nat) (i : Int)
  | flt (v : Fv)
deriving DecidableEq, Repr

/-- Limits of an integer format (R189, R298). -/
def intLimits : Nat → Option (Int × Int)
  | 0x10 => some (-2 ^ 7, 2 ^ 7 - 1)
  | 0x11 => some (-2 ^ 15, 2 ^ 15 - 1)
  | 0x12 => some (-2 ^ 31, 2 ^ 31 - 1)
  | 0x13 => some (-2 ^ 63, 2 ^ 63 - 1)
  | 0x14 => some (0, 2 ^ 8 - 1)
  | 0x15 => some (0, 2 ^ 16 - 1)
  | 0x16 => some (0, 2 ^ 32 - 1)
  | _ => none

/-- Decode of R7 for a format code of R298. -/
def fmtDecode (f b : Nat) : FmtVal :=
  match intLimits f with
  | some l => .int (fmtWidth f) (if l.1 < 0 then sintN b (8 * fmtWidth f) else b)
  | none => .flt (match ffOf f with
    | some g => decodeF g b
    | none => decodeE8 b)

/-- An integer in another integer format (R189): its low bits, clamped first in a saturating form to a narrower one; R189 does not say
what `sat` does between formats of one width, and there it clamps as well (DESIGN CHOICE, log 97). -/
def intConv (width : Nat) (lim : Int × Int) (sat : Bool) (bytes : Nat) (i : Int) : Nat :=
  (BitVec.ofInt (8 * width) (if sat && width ≤ bytes then max lim.1 (min lim.2 i) else i)).toNat

/-- Conv of R7 to a format code: the bits; the flags are dropped (R187). -/
def fmtConv (f : Nat) (mode : RMode) (sat : Bool) (v : FmtVal) : Nat :=
  match intLimits f, v with
  | some l, .int n i => intConv (fmtWidth f) l sat n i
  | some l, .flt v => (BitVec.ofInt (8 * fmtWidth f) (toIntF mode l.1 l.2 l.2 v).1).toNat
  | none, v =>
    let w := match v with
      | .int _ i => ofIntF i
      | .flt v => v
    match ffOf f with
    | some g => (roundF g mode sat w).1
    | none => (toE8 mode sat w).1

/-- RM of CPY's flags (R373). -/
def cpyMode (c : Cmd) : RMode :=
  match bits c.flags.toNat 0 2 with
  | 0 => .rne | 1 => .rtz | 2 => .rdn | _ => .rup

/-- The bytes that CPY writes for source bytes: the same, or the elements converted (R382). -/
def cpyConv (c : Cmd) (bs : List Byte) : List Byte :=
  if c.fmtA = 0 then bs
  else (elemsIn (fmtWidth c.fmtA.toNat) bs).flatMap fun b =>
    bytesOfNat (fmtWidth c.fmtB.toNat) (fmtConv c.fmtB.toNat (cpyMode c) (c.flags.getLsbD 2) (fmtDecode c.fmtA.toNat b))

/-! ### dinject (R340) -/

/-- Source bytes that begin at transfer offset `at_`, with the bit of dinject inverted. -/
def injectBytes (e : Entry) (at_ : Nat) (bs : List Byte) : List Byte :=
  match e.inject with
  | none => bs
  | some (off, bit) => bs.mapIdx fun i b => if at_ + i = off.toNat then b ^^^ (1#8 <<< bit.toNat) else b

/-- FIRED is set once the byte at OFF has been read. -/
def fireInject (e : Entry) (at_ n : Nat) (s : State) : State :=
  match e.inject with
  | none => s
  | some (off, _) =>
    if at_ ≤ off.toNat && off.toNat < at_ + n then
      modCore (·.modBankOf e.bank fun k => { k with dinject := { k.dinject with fired := true } }) s
    else s

/-! ### Runs of copies (R382, R384, R385) -/

/-- A running copy: the state, how it ends, the places written, and the bytes moved in the last repeat. -/
structure CopyRun where
  st : State
  res : Result
  wrote : List (Place × Nat)
  ck : W32

/-- Whether a run goes on. -/
def CopyRun.going (x : CopyRun) : Bool := x.res.status == 0

/-- What one repeat of a copy is: source, destination (none: nothing is written), bytes, the conversion, and ONCE. -/
structure CopyRep where
  src : Word
  dst : Option Word
  len : Nat
  conv : List Byte → List Byte
  total : Nat
  once : Bool

/-- One repeat; every source is read in the state `s0` before the command's writes. `sum` runs over the bytes as moved. -/
def copyRep (s0 : State) (e : Entry) (at_ : Nat) (sum : W32 → List Byte → W32) (p : CopyRep) (x : CopyRun) : CopyRun :=
  if !x.going then x
  else
    let r := engRead s0 p.src p.len 0x70
    let bs := injectBytes e at_ r.bytes
    let s := fireInject e at_ bs.length (noteRead p.src bs.length p.once x.st)
    let out := p.conv bs
    match p.dst with
    | none => ⟨s, (r.fail.map fun f => Result.fault f.1 f.2).getD Result.ok, x.wrote, sum x.ck bs⟩
    | some d =>
      let t := engStore d out p.total r.fail 0x71 s
      ⟨t.2, t.1, x.wrote ++ engPlaces s d out.length .write, sum x.ck bs⟩

/-- The parts of `ws` that some part of `rs` covers. -/
def commonParts (ws rs : List (Place × Nat)) : List (Place × Nat) :=
  ws.flatMap fun w => rs.filterMap fun r =>
    let lo := max w.1.key r.1.key
    let hi := min (w.1.key + w.2) (r.1.key + r.2)
    if lo < hi then some ({ w.1 with key := lo }, hi - lo) else none

/-- Free bytes written over parts of memory, each at its place (R382, log 12). -/
def scramble (ps : List (Place × Nat)) (s : State) : State :=
  ps.foldl (fun s p =>
    let (bs, s) := freeBytes p.2 s
    engLand p.1 bs s) s

/-- A whole copy: its repeats, then the bytes that are source and destination at once (R382). -/
def copyRun (e : Entry) (sum : W32 → List Byte → W32) (ck : W32) (reps : List (Nat × CopyRep)) (s : State) : CopyRun :=
  let x := reps.foldl (fun x p => copyRep s e p.1 sum p.2 x) ⟨s, Result.ok, [], ck⟩
  let srcs := reps.flatMap fun p => engPlaces s p.2.src p.2.len .read
  { x with st := scramble (commonParts x.wrote srcs) x.st }

/-- No checksum. -/
def noSum (v : W32) (_ : List Byte) : W32 := v

/-- The repeats of CPY (R382). -/
def cpyReps (c : Cmd) : List (Nat × CopyRep) :=
  let n := c.c.toNat
  let total := if c.fmtA = 0 then n else n / fmtWidth c.fmtA.toNat * fmtWidth c.fmtB.toNat
  (List.range c.reps).map fun r =>
    (r * n, ⟨strided c.b c.f r, some (strided c.a c.e r), n, cpyConv c, total, c.flags.getLsbD 3⟩)

/-- The repeats of CPYS and CPYK (R384, R385). -/
def runReps (c : Cmd) (dst once : Bool) : List (Nat × CopyRep) :=
  let n := c.c.toNat
  (List.range c.reps).map fun r =>
    (r * n, ⟨strided c.b c.c r, if dst then some (strided c.a c.c r) else none, n, id, n, once⟩)

/-- CPY's work (R382). -/
def cpyWork (e : Entry) (s : State) : Result × State :=
  let x := copyRun e noSum 0 (cpyReps e.cmd) s
  (x.res, x.st)

/-- CPY (R382); the grain form is CPY_GRAIN's. -/
def execCpy (bank : Bool) (seq : Nat) (s : State) : Out :=
  match findEntry s.core .cq bank seq with
  | none => .next s
  | some e => if e.cmd.fmtA = 0x06 then .next s else work .cq 0x40 bank seq cpyWork s

/-- A transfer's bytes as they are read, repeat after repeat: where each goes, the failure, and the checksum. -/
structure Gathered where
  segs : List (Word × List Byte)
  fail : Option (BitVec 8 × Word)
  st : State
  ck : W32

/-- One repeat read, in the state before the command's writes. -/
def gatherRep (s0 : State) (e : Entry) (sum : W32 → List Byte → W32) (x : Gathered) (p : Nat × CopyRep) : Gathered :=
  if x.fail.isSome then x
  else
    let r := engRead s0 p.2.src p.2.len 0x70
    let bs := injectBytes e p.1 r.bytes
    { segs := x.segs ++ (p.2.dst.map fun d => (d, bs)).toList, fail := r.fail,
      st := fireInject e p.1 bs.length (noteRead p.2.src bs.length p.2.once x.st), ck := sum x.ck bs }

/-- CPYS and CPYK (R384, R385): one transfer over every repeat, in which the boundary of R378 counts; bytes that are source and
destination at once are open, as R382 has them. -/
def runCopy (e : Entry) (sum : W32 → List Byte → W32) (ck : W32) (reps : List (Nat × CopyRep)) (s : State) : CopyRun :=
  let x := reps.foldl (gatherRep s e sum) ⟨[], none, s, ck⟩
  let (r, t) := engStoreSegsTo x.segs x.fail 0x71 x.st
  let wrote := x.segs.flatMap fun p => engPlaces s p.1 p.2.length .write
  let srcs := reps.flatMap fun p => engPlaces s p.2.src p.2.len .read
  ⟨scramble (commonParts wrote srcs) t, r, wrote, x.ck⟩

/-- CPYS's work (R384). -/
def cpysWork (e : Entry) (s : State) : Result × State :=
  let x := runCopy e noSum 0 (runReps e.cmd true (e.cmd.flags.getLsbD 3)) s
  (x.res, x.st)

/-- CPYS (R384). -/
def execCpys (bank : Bool) (seq : Nat) (s : State) : Out := work .cq 0x41 bank seq cpysWork s

/-! ### Checksums (R385) -/

/-- Adler-32 of RFC 1950, from a value on. -/
def adler (v : W32) (bs : List Byte) : W32 :=
  let p := bs.foldl (fun (p : Nat × Nat) x =>
    let a := (p.1 + x.toNat) % 65521
    (a, (p.2 + a) % 65521)) (v.toNat % 65536, v.toNat / 65536)
  BitVec.ofNat 32 (p.2 * 65536 + p.1)

/-- One bit of the reflected CRC-32C register. -/
def crcBit (r : W32) : W32 := if r.getLsbD 0 then (r >>> 1) ^^^ 0x82F63B78 else r >>> 1

/-- One byte into the CRC-32C register. -/
def crcByte (r : W32) (x : Byte) : W32 := (List.range 8).foldl (fun r _ => crcBit r) (r ^^^ x.zeroExtend 32)

/-- CRC-32C of RFC 3720, from a value on. -/
def crc32c (v : W32) (bs : List Byte) : W32 := ~~~(bs.foldl crcByte (~~~v))

/-- The checksum of a CPYK. -/
def ckSum (c : Cmd) : W32 → List Byte → W32 := if c.flags.getLsbD 0 then crc32c else adler

/-- CPYK's local work: the checksum stands in its entry until retirement (R385). -/
def cpykWork (v : W32) (e : Entry) (s : State) : Result × State :=
  let x := runCopy e (ckSum e.cmd) v (runReps e.cmd (!e.cmd.flags.getLsbD 3) false) s
  (x.res, modEntry .cq e.ord (fun y => { y with ck := x.ck }) x.st)

/-! ### CPY of a grain buffer (R195, R383) -/

/-- The bytes that the grain copy writes for one slot; none where the tile is malformed. -/
def grainSlot (bs : List Byte) : Option (List Byte) :=
  match decodeTile bs with
  | none => none
  | some es => some (if tileSlow bs then plainTile bs.length es else bs)

/-- Bytes gathered up to a failure: status, value, and whether everything before it is written. -/
structure Collected where
  bytes : List Byte
  fail : Option (BitVec 8 × Word)
  exact : Bool
  st : State

/-- One slot of a grain copy. -/
def grainStep (e : Entry) (h : GrainHdr) (t : Nat) (x : Collected) : Collected :=
  match x.fail with
  | some _ => x
  | none =>
    let n := 32 * h.slot
    let va := slotAddr e.cmd.b h t
    let r := engRead x.st va n 0x70
    match r.fail with
    | some f => { x with fail := some f }
    | none =>
      let at_ := 32 + n * t
      let bs := injectBytes e at_ r.bytes
      let s := fireInject e at_ n (noteRead va n (tileSlow bs) x.st)
      match grainSlot bs with
      | none => { x with fail := some (0x74, va), exact := true, st := s }
      | some out => { x with bytes := x.bytes ++ out, st := s }

/-- CPY_GRAIN's work (R383). -/
def grainWork (e : Entry) (s : State) : Result × State :=
  let c := e.cmd
  let r := engRead s c.b 32 0x70
  match r.fail with
  | some f => (Result.fault f.1 f.2, s)
  | none =>
    let hb := injectBytes e 0 r.bytes
    let s1 := fireInject e 0 32 (noteRead c.b 32 false s)
    match grainHdr hb with
    | none => (Result.fault 0x73 c.b, s1)
    | some h =>
      let total := 32 + 32 * h.slot * (h.tr * h.tc)
      if c.c.toNat != total then (Result.fault 0x73 c.b, s1)
      else
        let x := (List.range (h.tr * h.tc)).foldl (fun x t => grainStep e h t x) ⟨hb, none, false, s1⟩
        let t := engStoreTo c.a x.bytes total x.fail x.exact 0x71 x.st
        let both := commonParts (engPlaces s c.a x.bytes.length .write) (engPlaces s c.b total .read)
        (t.1, scramble both t.2)

/-- CPY_GRAIN (R383). -/
def execCpyGrain (bank : Bool) (seq : Nat) (s : State) : Out :=
  match findEntry s.core .cq bank seq with
  | none => .next s
  | some e => if e.cmd.fmtA = 0x06 then work .cq 0x40 bank seq grainWork s else .next s

/-! ### CFILL (R386) -/

/-- The bytes of one repeat of CFILL. -/
def fillBytes (c : Cmd) : List Byte :=
  let p := match c.vpat with
    | some v => vBytes 128 v
    | none => bytesOfNat 8 c.b.toNat
  (List.range c.c.toNat).map fun i => p.getD (i % p.length) 0

/-- CFILL's work (R386). -/
def cfillWork (e : Entry) (s : State) : Result × State :=
  let c := e.cmd
  engStoreSegs ((List.range c.reps).map fun r => (strided c.a c.e r, fillBytes c)) 0x71 s

/-- CFILL (R386). -/
def execCfill (bank : Bool) (seq : Nat) (s : State) : Out := work .cq 0x43 bank seq cfillWork s

/-! ### GATH and SCAT (R387, R388) -/

/-- Where an element of GATH or SCAT lies; none where its address gives status 0x75 (R387). -/
def elemPlace (s : State) (va : Word) (w : Nat) (acc : Acc) : Option Place :=
  if inWindow va || va.toNat % w != 0 then none
  else match resolvePage s s.core.asid va acc with
    | .ok p => if p.loc = .dram && (p.ty = .cached || p.ty = .stream) then some p else none
    | .error _ => none

/-- The index at a place of the list, sign-extended where it is an i64 (R387). -/
def readIndex (s : State) (c : Cmd) (j : Nat) : Except (BitVec 8 × Word) Word :=
  let n := idxBytes c
  let r := engRead s (c.c + BitVec.ofNat 64 (n * j)) n 0x70
  match r.fail with
  | some f => .error f
  | none => .ok (BitVec.ofNat 64 (natOfBytes r.bytes))

/-- One element of GATH. -/
def gathStep (e : Entry) (j : Nat) (x : Collected) : Collected :=
  match x.fail with
  | some _ => x
  | none =>
    let c := e.cmd
    let w := elemBytes c
    match readIndex x.st c j with
    | .error f => { x with fail := some f }
    | .ok i =>
      let va := c.b + i * BitVec.ofNat 64 w
      match elemPlace x.st va w .read with
      | none => { x with fail := some (0x75, va), exact := true }
      | some p =>
        if poisoned x.st p.key w then { x with fail := some (0x25, va) }
        else
          let bs := injectBytes e (w * j) (memRead x.st.mem p.key w)
          { x with bytes := x.bytes ++ bs, st := fireInject e (w * j) w x.st }

/-- The places of the elements that GATH reads, one for each distinct line (R152). -/
def gathLines (e : Entry) (s : State) (k : Nat) : List Place :=
  (List.range k).foldl (fun ps j =>
    match readIndex s e.cmd j with
    | .error _ => ps
    | .ok i => match elemPlace s (e.cmd.b + i * BitVec.ofNat 64 (elemBytes e.cmd)) (elemBytes e.cmd) .read with
      | none => ps
      | some p => if ps.any fun q => lineOf q.key == lineOf p.key then ps else ps ++ [p]) []

/-- GATH's work (R152, R387): the index list, one lookup for each distinct line, the elements packed in list order. -/
def gathWork (e : Entry) (s : State) : Result × State :=
  let c := e.cmd
  let k := c.e.toNat * c.reps
  let s := noteRead c.c (idxBytes c * k) false s
  let x := (List.range k).foldl (fun x j => gathStep e j x) ⟨[], none, false, s⟩
  let x := { x with st := (gathLines e s (x.bytes.length / elemBytes c)).foldl (fun s p => noteLine p false s) x.st }
  engStoreTo c.a x.bytes (elemBytes c * k) x.fail x.exact 0x71 x.st

/-- GATH (R387). -/
def execGath (bank : Bool) (seq : Nat) (s : State) : Out := work .cq 0x44 bank seq gathWork s

/-- The operation of SCAT on an element (R388): memory first, then the operand. -/
def scatOp (c : Cmd) (m o : Nat) : Nat :=
  let w := 8 * elemBytes c
  let op := bits c.flags.toNat 3 2
  let unsigned := 0x14 ≤ c.fmtA.toNat
  if op = 0 then o
  else if c.fmtA = 0x01 then
    if op = 1 then (roundF ff32 .rne false (addF .rne [decodeF ff32 m, decodeF ff32 o]).1).1
    else (minmaxF ff32 (op == 3) m o).1
  else if op = 1 then (m + o) % 2 ^ w
  else
    let less := if unsigned then decide (m < o) else decide (sintN m w < sintN o w)
    if less != (op == 3) then m else o

/-- One element of SCAT: where it goes and its operand. -/
structure ScatElem where
  place : Place
  val : Nat
deriving DecidableEq, Repr

/-- The elements of SCAT up to the first that fails. -/
structure ScatRun where
  elems : List ScatElem
  fail : Option (BitVec 8 × Word)
  exact : Bool

/-- Element `j` of SCAT, looked up. -/
def scatStep (s : State) (e : Entry) (j : Nat) (x : ScatRun) : ScatRun :=
  match x.fail with
  | some _ => x
  | none =>
    let c := e.cmd
    let w := elemBytes c
    let src := engRead s (c.b + BitVec.ofNat 64 (w * j)) w 0x70
    match src.fail, readIndex s c j with
    | some f, _ => { x with fail := some f }
    | none, .error f => { x with fail := some f }
    | none, .ok i =>
      let va := c.a + i * BitVec.ofNat 64 w
      match elemPlace s va w .write with
      | none => { x with fail := some (0x75, va), exact := true }
      | some p =>
        if poisoned s p.key w then { x with fail := some (0x25, va), exact := true }
        else { x with elems := x.elems ++ [⟨p, natOfBytes (injectBytes e (w * j) src.bytes)⟩] }

/-- Bytes of memory as they stand once every held write has performed (R154). -/
def heldRead (s : State) (k n : Nat) : List Byte :=
  (memRead s.mem k n).mapIdx fun i b =>
    s.ms.heldW.foldl (fun b h =>
      if h.line = lineOf (k + i) && h.mask.getLsbD ((k + i) % 128) then vbyte h.data ((k + i) % 128) else b) b

/-- An element of SCAT performed at its home slice (R152, R220). -/
def scatPerform (c : Cmd) (x : ScatElem) (s : State) : State :=
  let w := elemBytes c
  engPutAt x.place (bytesOfNat w (scatOp c (natOfBytes (heldRead s x.place.key w)) x.val)) s

/-- SCAT's work (R388): the elements before a failing address are performed, and no later one. -/
def scatWork (e : Entry) (s : State) : Result × State :=
  let c := e.cmd
  let w := elemBytes c
  let k := c.e.toNat * c.reps
  let x := (List.range k).foldl (fun x j => scatStep s e j x) ⟨[], none, false⟩
  let n := x.elems.length
  let (b, s) := match x.fail with
    | some _ => if x.exact then (w * n, s) else freeBound (w * n) s
    | none => (w * n, s)
  let s := noteRead c.b (w * n) false (noteRead c.c (idxBytes c * n) false (fireInject e 0 (w * n) s))
  let t := (x.elems.take (b / w)).foldl (fun s y => scatPerform c y s) s
  ((x.fail.map fun f => Result.fault f.1 f.2).getD Result.ok, t)

/-- SCAT (R388). -/
def execScat (bank : Bool) (seq : Nat) (s : State) : Out := work .cq 0x45 bank seq scatWork s

/-! ### CDEC (R391) -/

/-- A tile's elements as bytes of a format (R391). -/
def tileOut (f : Nat) (es : List Nat) : List Byte :=
  es.flatMap fun b => bytesOfNat (fmtWidth f) (fmtConv f .rne false (.flt (decodeF ffe4 b)))

/-- Chunk `k` of CDEC. -/
def cdecStep (e : Entry) (h : GrainHdr) (k : Nat) (x : Collected) : Collected :=
  match x.fail with
  | some _ => x
  | none =>
    let n := 32 * h.slot
    let va := slotAddr e.cmd.b h (e.cmd.c.toNat + k)
    let r := engRead x.st va n 0x70
    match r.fail with
    | some f => { x with fail := some (f.1, va) }
    | none =>
      let bs := injectBytes e (n * k) r.bytes
      let s := fireInject e (n * k) n (noteRead va n true x.st)
      match decodeTile bs with
      | none => { x with fail := some (0x74, va), st := s }
      | some es => { x with bytes := x.bytes ++ tileOut e.cmd.fmtB.toNat es, st := s }

/-- CDEC's work (R391): chunks commit in order, and a fault in a chunk names it in SEQ. -/
def cdecWork (e : Entry) (s : State) : Result × State :=
  let c := e.cmd
  let r := engRead s c.b 32 0x70
  match r.fail with
  | some f => (Result.fault f.1 f.2, s)
  | none =>
    match grainHdr r.bytes with
    | none => (Result.fault 0x73 c.b, s)
    | some h =>
      if c.c.toNat + c.e.toNat > h.tr * h.tc then (Result.fault 0x73 c.b, s)
      else
        let unit := 256 * fmtWidth c.fmtB.toNat
        let x := (List.range c.e.toNat).foldl (fun x k => cdecStep e h k x) ⟨[], none, true, noteRead c.b 32 true s⟩
        let first := (engBad x.st c.a (unit * c.e.toNat) 0x71).filter fun d => d.1 < x.bytes.length
        let t := engStoreTo c.a x.bytes (unit * c.e.toNat) x.fail true 0x71 x.st
        if x.fail.isSome && first.isNone then ({ t.1 with seqField := some (BitVec.ofNat 64 (x.bytes.length / unit)) }, t.2)
        else t

/-- CDEC (R391). -/
def execCdec (bank : Bool) (seq : Nat) (s : State) : Out := work .cq 0x4A bank seq cdecWork s

/-! ### CCNT (R153, R392) -/

/-- The 192 B counter snapshot of a slice (R153). -/
def snapshot (s : State) (slice : Nat) : List Byte :=
  let x := getSlice s slice
  let codes := (List.range 16).map fun c => if c = 15 ∨ c < 8 then (x.lines.filter fun l => l.code == c).length else 0
  let vals := [x.lines.length, (x.lines.map (·.sectors)).foldl (· + ·) 0] ++ codes
    ++ [x.cnt.fillcmp.toNat, x.cnt.wexp.toNat, x.cnt.expevict.toNat, x.cnt.merged.toNat, x.cnt.mcast.toNat, 0]
  vals.flatMap (bytesOfNat 8)

/-- The first `b` bytes of the snapshots of `n` repeats, each taken when the ones before it have been written (R378, R392). -/
def ccntPut (c : Cmd) (n b : Nat) (s : State) : State :=
  (List.range n).foldl (fun s r =>
    engPut (c.a + BitVec.ofNat 64 (192 * r)) ((snapshot s (c.b.toNat + r)).take (b - 192 * r)) s) s

/-- CCNT's work (R392): the boundary of R378 counts over the whole transfer. -/
def ccntWork (e : Entry) (s : State) : Result × State :=
  let c := e.cmd
  let n := ((List.range c.reps).takeWhile fun r => groveAllowed s s.core.num (groveOfTwig (c.b.toNat + r))).length
  match segsBad s 0x71 0 ((List.range n).map fun r => (c.a + BitVec.ofNat 64 (192 * r), List.replicate 192 0)) with
  | some (off, st, a) =>
    let (b, s) := freeBound off s
    (Result.fault st a, ccntPut c n b s)
  | none => (if n < c.reps then Result.fault 0x22 (c.a + BitVec.ofNat 64 (192 * n)) else Result.ok, ccntPut c n (192 * n) s)

/-- CCNT (R392). -/
def execCcnt (bank : Bool) (seq : Nat) (s : State) : Out := work .cq 0x4B bank seq ccntWork s

end Sys2Proof.Machine
end

