-- ==== Sys2Proof/Machine/Scalar.lean ====
section
/-! DEFINITION. LOAD, STORE, AMO, LR, SC, the fences, ECALL and EBREAK (R210, R211, R240, R247, R279 to R282). -/

namespace Sys2Proof.Machine

/-- Bytes of a scalar load. -/
def loadSize : LoadKind → Nat
  | .lb | .lbu => 1 | .lh | .lhu => 2 | .lw | .lwu | .flw => 4 | .ld | .fld => 8

/-- The destination of a scalar load written with the value its kind makes of the bytes. -/
def loadWrite (k : LoadKind) (rd : RegNo) (v : Nat) (s : State) : State :=
  match k with
  | .lb => writeX rd (sextN v 8) s | .lh => writeX rd (sextN v 16) s | .lw => writeX rd (sextN v 32) s
  | .ld | .lbu | .lhu | .lwu => writeX rd (BitVec.ofNat 64 v) s
  | .flw => writeF rd (0xFFFFFFFF00000000 ||| BitVec.ofNat 64 v) s
  | .fld => writeF rd (BitVec.ofNat 64 v) s

/-- The address of a scalar load or store. -/
def scalarAddr (s : State) (rs1 : RegNo) (imm : BitVec 12) : Word := readX s rs1 + imm.signExtend 64

/-- A scalar load (R247, R282). -/
def loadStep (k : LoadKind) (rd rs1 : RegNo) (imm : BitVec 12) (s : State) : Res State := do
  let va := scalarAddr s rs1 imm
  let n := loadSize k
  if crossesLine va n then throw (.trap 4 va)
  let g ← memLoad va n .dflt s
  return adv (loadWrite k rd (natOfBytes g.bytes) g.st)

/-- LOAD (R247). -/
def execLoad (k : LoadKind) (rd rs1 : RegNo) (imm : BitVec 12) (s : State) : Out :=
  .next (orTrap (loadStep k rd rs1 imm s) s)

/-- Bytes of a scalar store. -/
def storeSize : StoreKind → Nat
  | .sb => 1 | .sh => 2 | .sw | .fsw => 4 | .sd | .fsd => 8

/-- The data of a scalar store. -/
def storeData (s : State) (k : StoreKind) (rs2 : RegNo) : Word :=
  match k with
  | .sb | .sh | .sw | .sd => readX s rs2
  | .fsw | .fsd => readF s rs2

/-- A scalar store (R247, R282). -/
def storeStep (k : StoreKind) (rs2 rs1 : RegNo) (imm : BitVec 12) (s : State) : Res State := do
  let va := scalarAddr s rs1 imm
  let n := storeSize k
  if crossesLine va n then throw (.trap 6 va)
  memStore va n (storeData s k rs2).toNat .dflt 0 s (adv s)

/-- STORE (R247). -/
def execStore (k : StoreKind) (rs2 rs1 : RegNo) (imm : BitVec 12) (s : State) : Out :=
  .next (orTrap (storeStep k rs2 rs1 imm s) s)

/-! ### Atomics -/

/-- The standard AMO operations on `w` bits. -/
def amoVal (op : AmoOp) (w m o : Nat) : Nat :=
  let sm := sintN m w; let so := sintN o w
  match op with
  | .swap => o | .add => (m + o) % 2 ^ w | .xor => m ^^^ o | .and => m &&& o | .or => m ||| o
  | .min => if so < sm then o else m | .max => if sm < so then o else m
  | .minu => if o < m then o else m | .maxu => if m < o then o else m

/-- Bytes of an AMO, LR or SC. -/
def dblSize (dbl : Bool) : Nat := if dbl then 8 else 4

/-- A release that has performed enters the directory of its line's slice, when it is lazy (R141). -/
def releaseDone (sc : Scope) (line : Nat) (s : State) : State :=
  match sc with
  | .core | .twig => s
  | _ => recordRelease line s.core.num s

/-- A read-modify-write that stands ready at its place (`rmwReady`), with the acquire and release actions of a scope (R210,
R212): the lines owed, the access, the release's record, the acquire actions. -/
def readyRmw (p : Place) (va : Word) (n : Nat) (f : Nat → Nat) (acq rel : Option Scope) (s : State) : Res Old := do
  let line := lineOf p.key
  let s := match rel with
    | some sc => releaseOwe sc line s
    | none => s
  let o ← rmwAt p va n f s
  let s := match rel with
    | some sc => releaseDone sc line o.st
    | none => o.st
  let s := match acq with
    | some sc => acquireActs sc s
    | none => s
  return ⟨o.old, s⟩

/-- A read-modify-write with what comes before it. -/
def orderedRmw (p : Place) (va : Word) (n : Nat) (f : Nat → Nat) (acq rel : Option Scope) (s : State) : Res Old := do
  let t ← rmwReady p va acq.isSome rel s
  readyRmw p va n f acq rel t

/-- The PKG scope of an aq or rl bit (R211). -/
def bitScope (b : Bool) : Option Scope := if b then some .pkg else none

/-- A standard AMO (R280, R282). -/
def amoStep (op : AmoOp) (dbl aq rl : Bool) (rd rs1 rs2 : RegNo) (s : State) : Res State := do
  let va := readX s rs1
  let n := dblSize dbl
  if misaligned va n then throw (.trap 6 va)
  rangeLockCheck s va n
  let p ← resolveT s va n .amo
  let o := (readX s rs2).toNat % 256 ^ n
  let r ← orderedRmw p va n (fun m => amoVal op (8 * n) m o) (bitScope aq) (bitScope rl) s
  return adv (writeX rd (sextN r.old (8 * n)) r.st)

/-- AMO (R280). -/
def execAmo (op : AmoOp) (dbl aq rl : Bool) (rd rs1 rs2 : RegNo) (s : State) : Out :=
  .next (orTrap (amoStep op dbl aq rl rd rs1 rs2 s) s)

/-- Whether LR and SC are accepted at a place: CACHED pages of device DRAM only (R281). -/
def lrPlace (p : Place) : Bool := p.loc == .dram && p.ty == .cached

/-- Drops the context's reservation. -/
def dropResv (core : Nat) (b : Bool) (id : Nat) (s : State) : State :=
  { s with resv := s.resv.filter fun r => !(r.core == core && r.bank == b && r.ctx == id) }

/-- LR (R281, R282). -/
def lrStep (dbl aq rl : Bool) (rd rs1 : RegNo) (s : State) : Res State := do
  let va := readX s rs1
  let n := dblSize dbl
  if misaligned va n then throw (.trap 4 va)
  rangeLockCheck s va n
  let p ← resolveT s va n .read
  if !lrPlace p then throw (.trap 5 va)
  let line := lineOf p.key
  let s0 ← if rl && s.core.cx.ans.isNone then eagerRelease s else pure s
  let g ← homeLoad aq p va n s0
  let c := g.st.core
  let s := dropResv c.num c.bank.num c.cx.id g.st
  let s := { s with resv := s.resv ++ [⟨c.num, c.bank.num, c.cx.id, line, c.cycles⟩] }
  let s := if aq then acquireActs .pkg s else s
  return adv (writeX rd (sextN (natOfBytes g.bytes) (8 * n)) s)

/-- LR (R281). -/
def execLr (dbl aq rl : Bool) (rd rs1 : RegNo) (s : State) : Out := .next (orTrap (lrStep dbl aq rl rd rs1 s) s)

/-- Whether the context holds a reservation of a line, less than 4,096 core cycles old (R281). -/
def holdsResv (s : State) (line : Nat) : Bool :=
  s.resv.any fun r => r.core == s.core.num && r.bank == s.core.bank.num && r.ctx == s.core.cx.id && r.line == line
    && s.core.cycles < r.cycle + 4096

/-- SC (R281, R282): the reservation is tested at the home slice in the step of the write, after the core's own dirty bytes of the
line have gone home. -/
def scStep (dbl aq rl : Bool) (rd rs1 rs2 : RegNo) (s : State) : Res State := do
  let va := readX s rs1
  let n := dblSize dbl
  if misaligned va n then throw (.trap 6 va)
  rangeLockCheck s va n
  let p ← resolveT s va n .write
  if !lrPlace p then throw (.trap 7 va)
  let s1 ← rmwReady p va aq (bitScope rl) s
  let c := s.core
  if holdsResv s1 (lineOf p.key) then
    let d := (readX s rs2).toNat % 256 ^ n
    let r ← readyRmw p va n (fun _ => d) (bitScope aq) (bitScope rl) s1
    return adv (writeX rd 0 (dropResv c.num c.bank.num c.cx.id r.st))
  else
    return adv (writeX rd 1 (dropResv c.num c.bank.num c.cx.id s1))

/-- SC (R281). -/
def execSc (dbl aq rl : Bool) (rd rs1 rs2 : RegNo) (s : State) : Out :=
  .next (orTrap (scStep dbl aq rl rd rs1 rs2 s) s)

/-! ### Fences (R210, R211) -/

/-- A fence (R210, R316): with W before it, earlier stores have been performed or recorded and, beyond CORE, dirty shared bytes
written back and performed; with R after it, beyond CORE, clean shared bytes are invalidated. -/
def fenceStep (predW succR : Bool) (sc : Scope) (s : State) : Res State := do
  let t ← if predW then (if sc == .core then (do drained s; pure s) else eagerRelease s) else pure s
  return adv (if succR then acquireActs sc t else t)

/-- FENCE (R211): FENCES at PKG scope; I and O count as R and W (R280). An empty set orders nothing (R316). -/
def execFence (_fm p q : BitVec 4) (_rs1 _rd : RegNo) (s : State) : Out :=
  .next (if p = 0 ∨ q = 0 then adv s
    else orTrap (fenceStep (p.getLsbD 0 || p.getLsbD 2) (q.getLsbD 1 || q.getLsbD 3) .pkg s) s)

/-- FENCE.TSO (R211): FENCES rw,rw at PKG scope. -/
def execFenceTso (_rs1 _rd : RegNo) (s : State) : Out := .next (orTrap (fenceStep true true .pkg s) s)

/-- FENCE.I (R211): later fetches see the context's earlier stores, which stand in the core's L1 (log 10) or have been performed. -/
def fenceIStep (s : State) : Res State := do
  drained s
  return adv s

/-- FENCE.I (R211). -/
def execFenceI (_imm : BitVec 12) (_rs1 _rd : RegNo) (s : State) : Out := .next (orTrap (fenceIStep s) s)

/-! ### Environment calls (R279) -/

/-- ECALL (R245, R279): cause 8 with dtval 0. -/
def execEcall (s : State) : Out := .next (takeTrap 8 0 s)

/-- EBREAK: cause 3 with dtval = pc (R245, R279). -/
def execEbreak (s : State) : Out := .next (takeTrap 3 s.core.cx.pc s)

end Sys2Proof.Machine
end

