-- ==== Sys2Proof/Machine/Ordering.lean ====
section
/-! DEFINITION. Scoped ordering and cache operations (R145, R210, R250, R315 to R321). -/

namespace Sys2Proof.Machine

/-- FENCES (R316): bit 1 of a set is R, bit 0 is W; an empty set orders nothing. -/
def execFences (pred succ : BitVec 2) (sc : Scope) (s : State) : Out :=
  .next (if pred = 0 ∨ succ = 0 then adv s else orTrap (fenceStep (pred.getLsbD 0) (succ.getLsbD 1) sc s) s)

/-- Bytes of a size suffix (R302). -/
def sizeBytes : Size → Nat
  | .b => 1 | .h => 2 | .w => 4 | .d => 8

/-- LDACQ (R317). -/
def ldacqStep (z : Size) (sc : Scope) (rs1 rd : RegNo) (s : State) : Res State := do
  let a := readX s rs1
  let n := sizeBytes z
  if misaligned a n then throw (.trap 4 a)
  rangeLockCheck s a n
  let p ← resolveT s a n .read
  let g ← homeLoad true p a n s
  return adv (writeX rd (sextN (natOfBytes g.bytes) (8 * n)) (acquireActs sc g.st))

/-- LDACQ (R317). -/
def execLdacq (z : Size) (s : Scope) (rs1 rd : RegNo) (st : State) : Out := .next (orTrap (ldacqStep z s rs1 rd st) st)

/-- STREL (R317): it waits as DRAINS does; a store that will fail is recorded and releases nothing; else the release actions, the
store at its home slice, and the release's record in the directory. -/
def strelStep (z : Size) (sc : Scope) (rs2 rs1 : RegNo) (s : State) : Res State := do
  let a := readX s rs1
  let n := sizeBytes z
  let d := (readX s rs2).toNat % 256 ^ n
  if misaligned a n then throw (.trap 6 a)
  rangeLockCheck s a n
  drained s
  let r := fun c => storeRec s a n (BitVec.ofNat 64 d) c 0
  match storePlace s a n with
  | .error c => return recordStoreFault (r c) (adv s)
  | .ok p =>
    let line := lineOf p.key
    let bs := bytesOfNat n d
    let t ← releaseGate sc line (flushOwn p s)
    replicaGate p t
    let t := adv (releaseOwe sc line t)
    if p.loc == .host then return addHostStore ⟨none, [hostElem 0 (r 7) p bs]⟩ p.key t
    else return releaseDone sc line (homeStore p bs (walkBehind a .write t))

/-- STREL (R317). -/
def execStrel (z : Size) (s : Scope) (rs2 rs1 : RegNo) (st : State) : Out := .next (orTrap (strelStep z s rs2 rs1 st) st)

/-- DRAINS (R250, R318): it waits until every earlier store and write-back has been performed or recorded; 0x23 is then due if
PEND = 1. -/
def drainsStep (s : State) : Res State := do
  drained s
  return modCx (fun c => { c with must23 := c.pend && !c.hm }) (adv s)

/-- DRAINS (R250, R318). -/
def execDrains (s : State) : Out := .next (orTrap (drainsStep s) s)

/-! ### Cache operations (R319, R320) -/

/-- CFLUSH and CINV (R319): the line's dirty bytes start on their way home, it is owed no longer, and CINV drops it. -/
def cacheStep (drop : Bool) (rs1 : RegNo) (s : State) : Res State :=
  let a := readX s rs1
  if inWindow a then .ok (adv s)
  else
    let whole := BitVec.ofNat 64 (a.toNat / 128 * 128)
    let go := fun (s : State) => do
      rangeLockCheck s whole 128 |>.mapError fun _ => .trap 0x20 a
      let p ← resolveT s a 1 .read
      let line := lineOf p.key
      match l1Find s.core line with
      | none => return adv s
      | some x =>
        let gone := { x with dirty := 0, owed := none, valid := if drop then 0 else x.valid }
        return adv (sendBytes x x.dirty (modCore (fun c => { c with l1 := l1Replace gone c.l1 }) s))
    match resolve s a 1 .read with
    | .ok p => if p.loc = .host then .ok (adv s) else go s
    | .error _ => go s

/-- CFLUSH (R319). -/
def execCflush (_s : Scope) (rs1 : RegNo) (s : State) : Out := .next (orTrap (cacheStep false rs1 s) s)
/-- CINV (R319). -/
def execCinv (_s : Scope) (rs1 : RegNo) (s : State) : Out := .next (orTrap (cacheStep true rs1 s) s)

/-- Whether a prefetch of a line may go on: not in a window, not locked, translated, in device DRAM, and a walker free
where one is needed (R320). -/
def prefetchPlace (s : State) (a : Word) : Option Place :=
  if inWindow a || locked s.core a 1 then none
  else if tlbMiss s a .read && walkersBusy s a then none
  else match resolve s a 1 .read with
    | .ok p => if p.loc = .dram then some p else none
    | .error _ => none

/-- A line fetched into the places that R145 gives for the hint on the page's type. -/
def prefetchLine (p : Place) (a : Word) (h : Hint) (s : State) : State :=
  let line := lineOf p.key
  match p.ty with
  | .cached | .stream =>
    if p.ty = .cached && l1Hit s (line * 128) 128 then s else askLoad false p h (walkBehind a .read s)
  | _ => s

/-- CPREF (R320). -/
def execCpref (h : Hint) (rs1 : RegNo) (s : State) : Out :=
  let a := readX s rs1
  .next (adv (match prefetchPlace s a with
    | some p => prefetchLine p a h s
    | none => s))

/-- RLQ (R321). -/
def execRlq (rs2 rs1 rd : RegNo) (s : State) : Out :=
  let a := lockAddr s.core.num (readX s rs1)
  let n := (readX s rs2).toNat
  let hits := s.core.locks.filter fun l => touches a n l.lo l.hi
  let r := (hits.any fun l => !l.dst).toNat + 2 * (hits.any fun l => l.dst).toNat
    + 4 * (hits.any fun l => l.bank != s.core.bank.num).toNat
  .next (adv (writeX rd (BitVec.ofNat 64 r) s))

end Sys2Proof.Machine
end

