-- ==== Sys2Proof/Machine/Far.lean ====
section
/-! DEFINITION. AMOX (R212, R280, R287, R334) and IDGET (R288, R335). -/

namespace Sys2Proof.Machine

/-- Bytes of an AMOX operation (R334). -/
def amoxSize : AmoxOp → Nat
  | .addI64 | .minI64 | .maxI64 | .and64 | .or64 | .xor64 | .swap64 | .cas64 => 8
  | _ => 4

/-- Round(m + o) in a format under RNE (R334): no flag. -/
def addRne (f : FF) (m o : Nat) : Nat := (finishF f .rne (addF .rne [decodeF f m, decodeF f o])).1

/-- The new value of an AMOX from the old one, the operand and the compare value (R334). -/
def amoxVal (op : AmoxOp) (m o cmp : Nat) : Nat :=
  let w := 8 * amoxSize op
  match op with
  | .addI32 | .addI64 => (m + o) % 2 ^ w
  | .addF32 => addRne ff32 m o
  | .addBf16x2 => addRne ffbf (m % 2 ^ 16) (o % 2 ^ 16) + 2 ^ 16 * addRne ffbf (m / 2 ^ 16) (o / 2 ^ 16)
  | .minI32 | .minI64 => if sintN o w < sintN m w then o else m
  | .maxI32 | .maxI64 => if sintN m w < sintN o w then o else m
  | .and64 => m &&& o
  | .or64 => m ||| o
  | .xor64 => m ^^^ o
  | .swap32 | .swap64 => o
  | .cas64 => if m = cmp then o else m
  | .fminF32 => (minmaxF ff32 false m o).1
  | .fmaxF32 => (minmaxF ff32 true m o).1

/-- AMOX (R212, R334): an acquire and a release at its scope. -/
def amoxStep (op : AmoxOp) (sc : Scope) (rs2 rs1 rd : RegNo) (s : State) : Res State := do
  let a := readX s rs1
  let n := amoxSize op
  let o := (readX s rs2).toNat % 256 ^ n
  let cmp := (readX s rd).toNat
  if misaligned a n then throw (.trap 6 a)
  rangeLockCheck s a n
  let p ← resolveT s a n .amo
  let r ← orderedRmw p a n (fun m => amoxVal op m o cmp) (some sc) (some sc) s
  return adv (writeX rd (sextN r.old (8 * n)) r.st)

/-- AMOX (R334). -/
def execAmox (op : AmoxOp) (sc : Scope) (rs2 rs1 rd : RegNo) (s : State) : Out :=
  .next (orTrap (amoxStep op sc rs2 rs1 rd s) s)

/-- S: 64 times the groves of the core's partition (R164, R288). -/
def sliceCount (s : State) : Nat :=
  match partOfGrove s (groveOf s.core.num) with
  | none => 0
  | some p => 64 * ((List.range 96).filter fun g => p.groves.getLsbD g).length

/-- Slice scratch window address of a group's record (R51, R137). -/
def recordVa (g : Group) : Word := BitVec.ofNat 64 (scratchWindow + g.slice * 2 ^ 22 + g.home)

/-- The offer group of the bank's stage. -/
def boundGroup (s : State) : Option Group := do
  let bd ← s.core.bank.bound
  let g ← bd.group
  s.fab.groups.find? fun x => x.num == g

/-- The value that a selector gives (R288); without a launch the launch's values read 0. -/
def idValue (s : State) (sel : Nat) : Word :=
  let c := s.core
  let ofB := fun (f : Bound → Word) => ((c.bank.bound).map f).getD 0
  match sel with
  | 0 => ofB fun b => BitVec.ofNat 64 b.index
  | 1 => ofB fun b => BitVec.ofNat 64 b.count
  | 2 => ofB fun b => b.const
  | 3 => BitVec.ofNat 64 c.num
  | 4 => BitVec.ofNat 64 c.cx.id
  | 5 => ((c.bank.bound.bind (·.group)).map (BitVec.ofNat 64)).getD (-1)
  | 6 => ofB fun b => b.lid.zeroExtend 64
  | 7 => ofB fun b => BitVec.ofNat 64 b.stage
  | 8 => BitVec.ofNat 64 c.bank.num.toNat
  | 9 => BitVec.ofNat 64 (inGrove c.num)
  | 10 => BitVec.ofNat 64 (twigOf c.num)
  | 11 => BitVec.ofNat 64 (sliceCount s)
  | 12 => ofB fun b => b.haltVa
  | _ => ((boundGroup s).map recordVa).getD (-1)

/-- IDGET (R288, R335): a selector above 13 is an illegal instruction. -/
def execIdget (sel : BitVec 12) (rd : RegNo) (s : State) : Out :=
  .next (if sel.toNat < 14 then adv (writeX rd (idValue s sel.toNat) s) else illegal (encode (.idget sel rd)) s)

end Sys2Proof.Machine
end

