-- ==== Sys2Proof/Machine/Walker.lean ====
section
/-! DEFINITION. The rule walker: grammar objects, records, operators, bottom-up evaluation and descents (R159 to R172, R176 to
R179, R393 to R395). -/

namespace Sys2Proof.Machine

/-! ### How a walker command stops -/

/-- What stops a walker command: a fault with status and tval (R177), or a record that is not valid (R167). -/
inductive Stuck
  | fault (status : BitVec 8) (tval : Word)
  | record (sym : Nat)
deriving DecidableEq, Repr

/-- Reads made: addresses and lengths, oldest first. -/
abbrev Reads := List (Word × Nat)

/-- A computation of the walker, with the reads that it makes. -/
abbrev Walk (α : Type) := ExceptT Stuck (Writer Reads) α

/-- What a computation comes to. -/
def got {α : Type} (m : Walk α) : Except Stuck α := m.run.run.1

/-- The reads that a computation makes. -/
def readsOf {α : Type} (m : Walk α) : Reads := m.run.run.2

/-- A computation that makes the reads given. -/
def reading {α : Type} (rs : Reads) (r : Except Stuck α) : Walk α := ExceptT.mk (WriterT.mk (r, rs))

/-- The requests of reads that have been made (R164, R377). -/
def noteReads (rs : Reads) (s : State) : State := rs.foldl (fun s r => noteRead r.1 r.2 false s) s

/-- A fault whose tval is a number: a symbol id, a position, a row or an address (R177). -/
def walkFault {α : Type} (status : BitVec 8) (n : Nat) : Walk α := throw (.fault status (BitVec.ofNat 64 n))

/-- A read of `n` bytes, with the status of a failed access given; what lies behind a failing part is not asked for. -/
def readWith (gen : BitVec 8) (s : State) (va : Word) (n : Nat) : Walk (List Byte) :=
  let r := engRead s va n gen
  match r.fail with
  | some f => reading [(va, min n (r.bytes.length + 1))] (.error (.fault f.1 f.2))
  | none => reading [(va, n)] (.ok r.bytes)

/-- A read of the walker (R177). -/
def walkRead (s : State) (va : Word) (n : Nat) : Walk (List Byte) := readWith 0x67 s va n

/-- A read of one little-endian number. -/
def walkNum (s : State) (va : Word) (n : Nat) : Walk Nat := do return natOfBytes (← walkRead s va n)

/-- A write of the walker to a destination that takes no part of it where it cannot take all (R177). -/
def walkWrite (va : Word) (bs : List Byte) (s : State) : Walk State :=
  match engBad s va bs.length 0x67 with
  | some (_, st, a) => throw (.fault st a)
  | none => pure (engPut va bs s)

/-! ### The grammar object (R159 to R163) -/

/-- A grammar object's header (R159). -/
structure Gram where
  base : Word
  isMat : Bool
  tf : Nat
  t : Nat
  n : Nat
  start : Nat
  rows : Nat
  cols : Nat
  len : Nat
  orule : Nat
  olen : Nat
  oterm : Nat
  ocolb : Nat
  orow : Nat
deriving DecidableEq, Repr

/-- Width of a terminal format (R161). -/
def termWidth : Nat → Nat
  | 0 | 1 | 5 => 1 | 2 | 6 | 7 => 2 | 3 | 8 => 4 | 4 => 8 | _ => 0

/-- Bytes of a terminal as GFETCH and GEXP write it: 4 for ids (R395). -/
def outWidth (g : Gram) : Nat := if g.tf = 9 then 4 else termWidth g.tf

/-- Whether terminals are of floating type (R161). -/
def Gram.floating (g : Gram) : Bool := 5 ≤ g.tf && g.tf ≤ 8

/-- An address in a grammar object. -/
def Gram.at (g : Gram) (off : Nat) : Word := g.base + BitVec.ofNat 64 off

/-- The fields of a header. -/
def gramOf (base : Word) (h : Nat) : Gram :=
  { base := base, isMat := bits h 32 8 == 2, tf := bits h 48 4, t := bits h 64 32, n := bits h 96 32, start := bits h 128 32,
    rows := bits h 160 32, cols := bits h 192 32, len := bits h 256 64, orule := bits h 320 32, olen := bits h 352 32,
    oterm := bits h 384 32, ocolb := bits h 416 32, orow := bits h 448 32 }

/-- The fields of a header, each with its byte offset and whether it lies within R159, and its table within 2^36 B (R177). -/
def hdrFields (h : Nat) (g : Gram) : List (Nat × Bool) :=
  let kind := bits h 32 8
  let idw := bits h 40 8
  let fits := fun (o sz : Nat) => decide (16 * o + sz ≤ 2 ^ 36)
  [(0, bits h 0 32 == 0x314D5247), (4, kind == 1 || kind == 2), (5, 8 ≤ idw && idw ≤ 32), (6, g.tf ≤ 9 && bits h 52 12 == 0),
   (8, 1 ≤ g.t), (12, g.t + g.n ≤ 2 ^ idw && g.t + g.n ≤ 0xFFFFFFFF),
   (16, if g.isMat then g.start == 0 else g.start < g.t + g.n), (20, if g.isMat then 1 ≤ g.rows else g.rows == 0),
   (24, if g.isMat then 1 ≤ g.cols else g.cols == 0), (28, bits h 224 32 == 0),
   (32, g.len < 2 ^ 48 && (!g.isMat || g.len == g.rows * g.cols)),
   (40, (g.n != 0 || g.orule == 0) && fits g.orule (16 * g.n)), (44, (g.n != 0 || g.olen == 0) && fits g.olen (8 * g.n)),
   (48, (g.tf != 9 || g.oterm == 0) && fits g.oterm (termWidth g.tf * g.t)),
   (52, if g.isMat then fits g.ocolb (4 * g.n) else g.ocolb == 0),
   (56, if g.isMat then fits g.orow (4 * (g.rows + 1)) else g.orow == 0), (60, bits h 480 32 == 0)]

/-- Byte offset of the first field of a header that does not lie within R159 (R177; log 81). -/
def badField (h : Nat) (g : Gram) : Option Nat := ((hdrFields h g).find? fun x => !x.2).map (·.1)

/-- Length of a symbol (R161, R163). -/
def symLen (s : State) (g : Gram) (c : Nat) : Walk Nat := do
  if c < g.t then return 1
  let v ← walkNum s (g.at (16 * g.olen + 8 * (c - g.t))) 8
  if v < 2 || v ≥ 2 ^ 48 then walkFault 0x62 c else return v

/-- The header of a grammar object, checked at a command's first access (R159, R163); a sequence's LEN is START's length. -/
def readGram (s : State) (base : Word) : Walk Gram := do
  if base.toNat % 64 != 0 || inWindow base then walkFault 0x60 base.toNat
  else
    let h ← walkNum s base 64
    let g := gramOf base h
    match badField h g with
    | some off => walkFault 0x60 (base.toNat + off)
    | none =>
      if g.isMat then return g
      else
        let l ← symLen s g g.start
        if l != g.len then walkFault 0x60 (base.toNat + 32) else return g

/-- The grammar of a command, as it stood when it was first read (R178). -/
def gramFor (e : Entry) (s : State) : Walk Gram :=
  match e.frozen with
  | some f => pure (gramOf e.cmd.a f.1)
  | none => readGram s e.cmd.a

/-- Children from the four slots of an entry; none where it is malformed (R160). -/
def kidsOf (k : Nat) (slots : List Nat) : Option (List Nat) :=
  let kids := slots.takeWhile fun c => c != 0xFFFFFFFF
  if kids.length < 2 || (slots.drop kids.length).any (fun c => c != 0xFFFFFFFF) || kids.any (fun c => k ≤ c) then none
  else some kids

/-- The children of a rule, in slot order (R160, R163). -/
def ruleKids (s : State) (g : Gram) (k : Nat) : Walk (List Nat) := do
  let bs ← walkRead s (g.at (16 * g.orule + 16 * (k - g.t))) 16
  match kidsOf k (elemsIn 4 bs) with
  | some l => return l
  | none => walkFault 0x61 k

/-- The column base of a rule (R162). -/
def colBase (s : State) (g : Gram) (k : Nat) : Walk Nat := walkNum s (g.at (16 * g.ocolb + 4 * (k - g.t))) 4

/-- In check mode a rule that begins at a column must be anchored there (R163). -/
def anchored (s : State) (g : Gram) (chk : Bool) (c col : Nat) : Walk Unit := do
  if chk && g.isMat && g.t ≤ c then
    let b ← colBase s g c
    if b != col then walkFault 0x63 c

/-- Whether a rule that begins at a column is not anchored there (R162); one whose column base cannot be read is not. -/
def misplaced (s : State) (g : Gram) (c col : Nat) : Bool :=
  g.isMat && decide (g.t ≤ c) && (match got (colBase s g c) with
    | .ok b => b != col
    | .error _ => true)

/-- Symbols with the offsets at which they begin, and their lengths. -/
def withOffsets (s : State) (g : Gram) : (off : Nat) → List Nat → Walk (List (Nat × Nat × Nat))
  | _, [] => pure []
  | off, c :: cs => do
    let l ← symLen s g c
    let r ← withOffsets s g (off + l) cs
    return (c, off, l) :: r

/-- A rule as a bottom-up command reads it (R163): its length, and its children with offsets and lengths. -/
structure RuleRead where
  len : Nat
  kids : List (Nat × Nat × Nat)
deriving DecidableEq, Repr

/-- A rule read and checked (R163); in check mode its children's anchoring too. -/
def readRule (s : State) (g : Gram) (chk : Bool) (k : Nat) : Walk RuleRead := do
  let cs ← ruleKids s g k
  let len ← symLen s g k
  let q ← if g.isMat && chk then colBase s g k else pure 0
  let ks ← withOffsets s g 0 cs
  if (ks.map (·.2.2)).foldl (· + ·) 0 != len then walkFault 0x62 k
  else
    let _ ← ks.mapM fun x => anchored s g chk x.1 (q + x.2.1)
    return ⟨len, ks⟩

/-- The top symbols of a row with their columns and lengths, checked (R162, R163). A start[0] that is not 0 is used as it is read: R162 says
that it is 0, and R163 lists no check of it (DESIGN CHOICE, log 102). -/
def readRow (s : State) (g : Gram) (chk : Bool) (r : Nat) : Walk (List (Nat × Nat × Nat)) := do
  let a := 16 * g.orow
  let s0 ← walkNum s (g.at (a + 4 * r)) 4
  let s1 ← walkNum s (g.at (a + 4 * r + 4)) 4
  if s1 < s0 || s1 - s0 > g.cols then walkFault 0x63 (g.at (a + 4 * r)).toNat
  else
    let bs ← walkRead s (g.at (a + 4 * (g.rows + 1 + s0))) (4 * (s1 - s0))
    let tops := elemsIn 4 bs
    match tops.find? fun c => g.t + g.n ≤ c with
    | some c => walkFault 0x63 c
    | none =>
      let ks ← withOffsets s g 0 tops
      if (ks.map (·.2.2)).foldl (· + ·) 0 != g.cols then walkFault 0x63 (g.at (a + 4 * r)).toNat
      else
        let _ ← ks.mapM fun x => anchored s g chk x.1 x.2.1
        return ks

/-! ### Violations that the walker does not check for (R163) -/

/-- Whether rule `k` reaches beyond the columns, or, without check mode, a child of it is not anchored. -/
def looseRule (s : State) (g : Gram) (chk : Bool) (k : Nat) (ks : List (Nat × Nat × Nat)) : Bool :=
  g.isMat && (match got (colBase s g k) with
    | .ok q => decide (g.cols < q + (ks.map (·.2.2)).sum) || (!chk && ks.any fun y => misplaced s g y.1 (q + y.2.1))
    | .error _ => !chk && ks.any fun y => decide (g.t ≤ y.1))

/-- Without check mode, whether a top symbol of a row is not anchored. -/
def looseRow (s : State) (g : Gram) (chk : Bool) (ks : List (Nat × Nat × Nat)) : Bool :=
  !chk && ks.any fun y => misplaced s g y.1 y.2.1

/-- Whether a rule's length is not the sum of its children's, which a descent does not check. -/
def looseLen (s : State) (g : Gram) (k : Nat) (cs : List Nat) : Bool :=
  match got (withOffsets s g 0 cs), got (symLen s g k) with
  | .ok ks, .ok l => (ks.map (·.2.2)).foldl (· + ·) 0 != l
  | _, _ => true

/-- `n` bytes of a destination hold unspecified values (R163, log 12). -/
def openAt (va : Word) (n : Nat) (s : State) : State :=
  let (bs, s) := freeBytes n s
  engPut va bs s

/-! ### Terminals (R161) -/

/-- The bytes of a terminal value as a descent writes them (R161, R395). -/
def termRaw (s : State) (g : Gram) (t : Nat) : Walk Nat :=
  if g.tf = 9 then pure t else walkNum s (g.at (16 * g.oterm + t * termWidth g.tf)) (termWidth g.tf)

/-- A terminal as i64, on 64 bits, or as fp32 (R161). -/
def termVal (s : State) (g : Gram) (t : Nat) : Walk Nat := do
  let v ← termRaw s g t
  return match g.tf with
    | 0 | 9 => v
    | 5 => (roundF ff32 .rne false (decodeF ffe4 v)).1
    | 6 => (roundF ff32 .rne false (decodeF ffbf v)).1
    | 7 => (roundF ff32 .rne false (decodeF ff16 v)).1
    | 8 => v
    | _ => (sextN v (8 * termWidth g.tf)).toNat

/-! ### Operators (R168 to R171) -/

/-- An operator: class, operation, DEG, and KEY as a 64-bit number. -/
structure Lift where
  cls : Nat
  op : Nat
  deg : Nat
  key : Nat
deriving DecidableEq, Repr

/-- Operations of a class (R169). -/
def opsOf : Nat → Nat
  | 0 => 11 | 1 => 2 | 2 => 10 | 3 => 2 | 4 => 1 | _ => 0

/-- Whether a class and operation are of floating type (R169). -/
def floatOp (cls op : Nat) : Bool :=
  if cls = 0 ∨ cls = 2 then op == 1 || op == 4 || op == 5 else if cls = 1 then op == 1 else true

/-- A descriptor that the walker takes for a command of the classes given (R168, R170); `fl` is the grammar's type. -/
def liftOf (d : Word) (classes : List Nat) (fl : Bool) : Option Lift :=
  let v := d.toNat
  let cls := bits v 0 4
  let op := bits v 4 4
  let deg := bits v 10 3
  let f := floatOp cls op
  let keyed := (cls == 0 || cls == 2) && (op == 9 || op == 10)
  let ordered := bits v 8 1 == 1 && f && !((cls == 0 || cls == 2) && (op == 4 || op == 5))
  if bits v 13 3 != 0 || bits v 48 16 != 0 || (bits v 16 32 != 0 && !keyed) || op ≥ opsOf cls || bits v 9 1 == 1
    || deg > (if cls = 1 then 2 else 0) || ordered || f != fl || !classes.contains cls then none
  else some ⟨cls, op, deg, (sextN (bits v 16 32) 32).toNat⟩

/-- An attribute: one value; six bins; or length, S0, S1 and S2. -/
abbrev Attr := List Nat

/-- The attribute of a terminal value (R169). -/
def termAttr (o : Lift) (x : Nat) : Attr :=
  if o.cls = 1 then [1, x, 0, 0]
  else if o.op = 9 then [if x = o.key then 1 else 0]
  else if o.op = 10 then
    let d := sintN x 64 - sintN o.key 64
    (List.range 6).map fun (i : Nat) => if d = (i : Int) then 1 else 0
  else [x]

/-- A product of fp32 values rounded once. -/
def mulRne (l : List Fv) : Nat := (roundF ff32 .rne false ((l.foldl (fun p x => (mulF p x).1) (ofIntF 1)))).1

/-- A sum of two fp32 values rounded once. -/
def add32 (a b : Nat) : Nat := addRne ff32 a b

/-- The affine law (R171): Y then Z. -/
def affine (fl : Bool) (deg : Nat) (y z : Attr) : Attr :=
  let g := fun (l : Attr) (i : Nat) => l.getD i 0
  let ny := g y 0
  let lim := fun (d : Nat) (v : Nat) => if d ≤ deg then v else 0
  if fl then
    let m := decodeF ff32 (roundF ff32 .rne false (ofIntF ny)).1
    let z0 := decodeF ff32 (g z 1)
    let t1 := mulRne [m, z0]
    let t2 := mulRne [ofIntF 2, m, decodeF ff32 (g z 2)]
    let t3 := mulRne [m, m, z0]
    [ny + g z 0, add32 (g y 1) (g z 1), lim 1 (add32 (add32 (g y 2) (g z 2)) t1),
     lim 2 (add32 (add32 (add32 (g y 3) (g z 3)) t2) t3)]
  else
    let w := 2 ^ 64
    [ny + g z 0, (g y 1 + g z 1) % w, lim 1 ((g y 2 + g z 2 + ny * g z 1) % w),
     lim 2 ((g y 3 + g z 3 + 2 * ny * g z 2 + ny * ny * g z 1) % w)]

/-- Combine of R169 for one value of a MONOID or SCAN operation. -/
def combine1 (op y z : Nat) : Nat :=
  match op with
  | 0 | 9 => (y + z) % 2 ^ 64
  | 1 => add32 y z
  | 2 => if sintN z 64 < sintN y 64 then z else y
  | 3 => if sintN y 64 < sintN z 64 then z else y
  | 4 => (minmaxF ff32 false y z).1
  | 5 => (minmaxF ff32 true y z).1
  | 6 => y &&& z
  | 7 => y ||| z
  | 8 => y ^^^ z
  | _ => (y + z) % 2 ^ 32

/-- Combine of R169: Y then Z. -/
def combineAttr (o : Lift) (y z : Attr) : Attr :=
  if o.cls = 1 then affine (floatOp 1 o.op) o.deg y z else List.zipWith (combine1 o.op) y z

/-- Comb(none, v) = v (R172). -/
def comb (o : Lift) (acc : Option Attr) (v : Attr) : Attr :=
  match acc with
  | none => v
  | some a => combineAttr o a v

/-- Bytes filled with zeros to a length. -/
def padTo (n : Nat) (bs : List Byte) : List Byte := bs ++ List.replicate (n - bs.length) 0

/-- Bytes 8 to 31 of a record, and what GPREF writes (R166, R395). -/
def attrBytes (o : Lift) (a : Attr) : List Byte :=
  let w := if floatOp o.cls o.op then 4 else 8
  padTo 24 (if o.cls = 1 then (a.drop 1).flatMap fun x => padTo 8 (bytesOfNat w x)
    else if o.op = 10 then a.flatMap (bytesOfNat 4)
    else padTo 8 (bytesOfNat w (a.getD 0 0)))

/-- The attribute of a record (R166). -/
def recordAttr (o : Lift) (bs : List Byte) : Attr :=
  let w := if floatOp o.cls o.op then 4 else 8
  let f := fun (off n : Nat) => natOfBytes ((bs.drop off).take n)
  if o.cls = 1 then [f 0 6, f 8 w, f 16 w, f 24 w]
  else if o.op = 10 then (List.range 6).map fun i => f (8 + 4 * i) 4
  else [f 8 w]

/-! ### Records (R164 to R167) -/

/-- A rule-result table of a command: its slices, offset, epoch and operator. -/
structure Table where
  slices : List Nat
  tb : Nat
  epoch : Nat
  lift : Lift
deriving DecidableEq, Repr

/-- The slices of the core's partition, in increasing index (R164). -/
def partSlices (s : State) : List Nat := (List.range 6144).filter fun i => groveAllowed s s.core.num (groveOfTwig i)

/-- A command's table, whose records fit every slice's scratch, which must reach TB in any case (R164). -/
def tableFor (s : State) (g : Gram) (tb epoch : Nat) (o : Lift) : Walk Table :=
  let sl := partSlices s
  let need := if g.n = 0 then tb else tb + 32 * ((g.n - 1) / sl.length + 1)
  if (g.n != 0 && sl.isEmpty) || sl.any fun i => scratchSize s i < need then walkFault 0x60 tb
  else pure ⟨sl, tb, epoch, o⟩

/-- Slice scratch window address of a rule's record (R164). -/
def recVa (x : Table) (g : Gram) (k : Nat) : Word :=
  BitVec.ofNat 64 (scratchWindow + x.slices.getD (k % x.slices.length) 0 * 2 ^ 22 + x.tb + 32 * ((k - g.t) / x.slices.length))

/-- The header doubleword of a record that a command writes (R165). -/
def recHdr (x : Table) (len : Nat) : Nat :=
  len + x.lift.cls * 2 ^ 48 + x.lift.op * 2 ^ 52 + x.epoch * 2 ^ 56 + 2 ^ 63

/-- Whether a record is valid for a command (R167). -/
def recValid (x : Table) (h : Nat) : Bool :=
  bits h 63 1 == 1 && bits h 56 7 == x.epoch && bits h 48 4 == x.lift.cls && bits h 52 4 == x.lift.op

/-- The 32 bytes of a record that must be valid (R167). -/
def validRec (s : State) (x : Table) (g : Gram) (k : Nat) : Walk (List Byte) := do
  let bs ← walkRead s (recVa x g k) 32
  if recValid x (natOfBytes (bs.take 8)) then return bs else throw (.record k)

/-- A record written in one access (R164, R165). -/
def putRec (x : Table) (g : Gram) (k len : Nat) (body : List Byte) (s : State) : Walk State :=
  walkWrite (recVa x g k) (padTo 32 (bytesOfNat 8 (recHdr x len) ++ body)) s

/-- The attribute of a record is unspecified (R163). -/
def openRec (x : Table) (g : Gram) (k : Nat) (s : State) : State := openAt (recVa x g k + 8) 24 s

/-- Total(c) of R172: the terminal's attribute, or the record's. -/
def total (s : State) (x : Table) (g : Gram) (c : Nat) : Walk Attr := do
  if c < g.t then return termAttr x.lift (← termVal s g c) else return recordAttr x.lift (← validRec s x g c)

/-! ### Units of work, waits and faults (R167, R177, R178) -/

/-- What one unit of a walker command (a rule, a row, a query) comes to: the next state, or where it stopped, with what it
had written. -/
inductive UnitRes
  | done (s : State)
  | stuck (k : Stuck) (s : State)

/-- A unit that writes only at its end. -/
def unitOf (r : Walk State) (s : State) : UnitRes :=
  match got r with
  | .ok t => .done (noteReads (readsOf r) t)
  | .error k => .stuck k (noteReads (readsOf r) s)

/-- `n` units from unit `i` on: the first that is not done, the state, and what stopped it. -/
def runUnits (f : Nat → State → UnitRes) : (n i : Nat) → State → Nat × State × Option Stuck
  | 0, i, s => (i, s, none)
  | n + 1, i, s =>
    match f i s with
    | .done t => runUnits f n (i + 1) t
    | .stuck k t => (i, t, some k)

/-- A query of a command: what it gives, and whether that is unspecified (R163). -/
abbrev Query := Nat → State → Walk (List Byte × Bool)

/-- A command in units, each of which writes its result; or in queries, whose results of `w` bytes lie one after another at `dst`. -/
inductive Job
  | units (count : Nat) (unit : Nat → State → UnitRes)
  | queries (count w : Nat) (dst : Word) (query : Query)

/-- Results of queries, one after another, and what stopped them. -/
structure Answers where
  bytes : List Byte
  st : State
  stop : Option Stuck

/-- `n` queries from query `i` on. -/
def answersOf (q : Query) : (n i : Nat) → State → Answers
  | 0, _, s => ⟨[], s, none⟩
  | n + 1, i, s =>
    let r := q i s
    let s := noteReads (readsOf r) s
    match got r with
    | .error k => ⟨[], s, some k⟩
    | .ok (bs, loose) =>
      let (bs, s) := if loose then freeBytes bs.length s else (bs, s)
      let g := answersOf q n (i + 1) s
      { g with bytes := bs ++ g.bytes }

/-- The wait for a record goes on, or begins (R167). -/
def beginWait (sym now : Nat) (w : Option RecWait) : RecWait :=
  match w with
  | some x => if x.sym = sym then { x with polled := now } else ⟨sym, now, now⟩
  | none => ⟨sym, now, now⟩

/-- A walker command has ended, with a status and its value. -/
def walkEnds (e : Entry) (st : BitVec 8) (tv : Word) (s : State) : State :=
  modEntry .gq e.ord (fun x => { x with st := .worked, status := st, tval := tv, recWait := none }) s

/-- A walker command stops where it stands, `prog` units being done: it faults, or waits for a record (R167, R177). -/
def walkStops (e : Entry) (k : Stuck) (prog : Nat) (s : State) : State :=
  match k with
  | .fault st tv => walkEnds e st tv s
  | .record sym => modEntry .gq e.ord (fun x => { x with recWait := some (beginWait sym s.core.cycles x.recWait), prog := prog }) s

/-- Results of queries `e.prog` on written (R378, R395): all before a query whose position lies outside the grammar; up to the open
boundary before another fault; before a wait those that fill whole lines of the destination, so that the boundary stays open. -/
def putQueries (e : Entry) (w : Nat) (dst : Word) (g : Answers) : State :=
  let va := dst + BitVec.ofNat 64 (w * e.prog)
  let write := fun (bs : List Byte) (bad : Option (BitVec 8 × Word)) (exact : Bool) => engStoreTo va bs bs.length bad exact 0x67 g.st
  let ends := fun (r : Result × State) => walkEnds e r.1.status r.1.tval r.2
  match g.stop with
  | none => ends (write g.bytes none false)
  | some (.fault st tv) => ends (write g.bytes (some (st, tv)) (st == 0x64))
  | some (.record sym) =>
    let step := 128 / Nat.gcd 128 w
    let n := g.bytes.length / w / step * step
    let r := write (g.bytes.take (w * n)) none false
    if r.1.status = 0 then walkStops e (.record sym) (e.prog + n) r.2 else ends r

/-- A grammar's header and a rotary block as they stand (R178, R397); GROT's is field B of its command. -/
def freeze (e : Entry) (s : State) : Nat × Nat :=
  let num := fun (va : Word) => match got (walkNum s va 64) with
    | .ok v => v
    | .error _ => 0
  (num e.cmd.a, if e.cmd.opc = 0x86 then num e.cmd.b else 0)

/-- A walker command carried on from where it stands: it ends, faults, or waits for a record. What it reads before its first unit it
reads once. -/
def carryOn (prep : Entry → State → Walk Job) (e : Entry) : State → State := throughLoose e fun s =>
  let job := prep e s
  let keep := fun (x : Entry) => { x with frozen := some (e.frozen.getD (freeze e s)) }
  let s := modEntry .gq e.ord keep (noteReads (readsOf job) s)
  match got job with
  | .error k => walkStops e k e.prog s
  | .ok (.units n f) =>
    match runUnits f (n - e.prog) e.prog s with
    | (i, t, some k) => walkStops e k i t
    | (_, t, none) => walkEnds e 0 0 t
  | .ok (.queries n w dst q) => putQueries e w dst (answersOf q (n - e.prog) e.prog s)

/-- A walker command begins, once it has been dispatched. -/
def startWalk (opc : Nat) (prep : Entry → State → Walk Job) (bank : Bool) (seq : Nat) (s : State) : Out :=
  match findEntry s.core .gq bank seq with
  | none => .next s
  | some e =>
    if e.st != .flight || e.cancelled || e.cmd.opc.toNat != opc || e.recWait.isSome || !enginesGo s then .next s
    else .next (creditBank e.bank s (carryOn prep e s))

/-- `chk` of R373. -/
def Cmd.chk (c : Cmd) : Bool := c.flags.getLsbD 0
/-- The epoch in FMTA (R393). -/
def Cmd.epoch (c : Cmd) : Nat := c.fmtA.toNat
/-- lo of a range (R393). -/
def rangeLo (v : Word) : Nat := v.toNat % 2 ^ 32
/-- hi of a range (R393). -/
def rangeHi (v : Word) : Nat := v.toNat / 2 ^ 32

/-- The rules of a range lie in the grammar (R394). -/
def rulesIn (g : Gram) (v : Word) : Walk Unit :=
  if rangeLo v < g.t then walkFault 0x64 (rangeLo v) else if g.t + g.n ≤ rangeHi v then walkFault 0x64 (rangeHi v) else pure ()

/-- A descriptor for a grammar, or the refusal of R170: SIDE, fields, class and operation before any access. The tval of a refusal
is 0: the spec names none (log 81). -/
def readLift (d : Word) (classes : List Nat) (g : Gram) : Walk Lift :=
  match liftOf d classes g.floating with
  | some o => pure o
  | none => walkFault 0x2B 0

/-- What a descriptor must be whatever the grammar (R170): found before any access. -/
def checkLift (d : Word) (classes : List Nat) : Walk Unit :=
  if (liftOf d classes true).isNone && (liftOf d classes false).isNone then walkFault 0x2B 0 else pure ()

/-! ### GEVAL (R394) -/

/-- The record of rule `k` evaluated (R394). -/
def gevalRule (c : Cmd) (g : Gram) (x : Table) (k : Nat) (s : State) : Walk State := do
  let r ← readRule s g c.chk k
  let as ← r.kids.mapM fun y => total s x g y.1
  match as with
  | [] => walkFault 0x61 k
  | a :: rest =>
    let t ← putRec x g k r.len (attrBytes x.lift (rest.foldl (combineAttr x.lift) a)) s
    return if looseRule s g c.chk k r.kids then openRec x g k t else t

/-- GEVAL in units, one rule each. DESIGN CHOICE (log 103): the match of types needs the grammar's header, so its refusal 0x2B stands after
the header's checks and START's length, and not before any access as R170 has it. -/
def gevalPrep (e : Entry) (s : State) : Walk Job := do
  let c := e.cmd
  checkLift c.b [0, 1, 2]
  let g ← gramFor e s
  let o ← readLift c.b [0, 1, 2] g
  rulesIn g c.e
  let x ← tableFor s g c.c.toNat c.epoch o
  return .units (rangeHi c.e + 1 - rangeLo c.e) fun i s => unitOf (gevalRule c g x (rangeLo c.e + i) s) s

/-- GEVAL (R394). -/
def execGeval (bank : Bool) (seq : Nat) (s : State) : Out := startWalk 0x80 gevalPrep bank seq s

/-! ### Descents (R172, R395) -/

/-- Where a walk over symbols stops: the symbol, the position in it, the prefix before it, its column, and whether it has
passed a violation that it does not check for (R163). -/
structure At where
  sym : Nat
  p : Nat
  acc : Option Attr
  col : Nat
  loose : Bool
deriving DecidableEq, Repr

/-- A descent's parameters: the grammar, check mode, and the table where a prefix is wanted. -/
structure Descent where
  g : Gram
  chk : Bool
  table : Option Table
deriving DecidableEq, Repr

/-- Symbols passed until the one that covers position `p` (R172). -/
def passKids (s : State) (d : Descent) (bad : Stuck) :
    (p : Nat) → (acc : Option Attr) → (col : Nat) → (loose : Bool) → List Nat → Walk At
  | _, _, _, _, [] => throw bad
  | p, acc, col, loose, c :: cs => do
    let l ← symLen s d.g c
    anchored s d.g d.chk c col
    let loose := loose || (!d.chk && misplaced s d.g c col)
    if p < l then return ⟨c, p, acc, col, loose⟩
    else
      let acc ← match d.table with
        | none => pure none
        | some x => do
          let v ← total s x d.g c
          pure (some (comb x.lift acc v))
      passKids s d bad (p - l) acc (col + l) loose cs

/-- The descent of R172; a child's id is below its rule's, so `fuel` above the first symbol suffices. -/
def descendF (s : State) (d : Descent) : (fuel : Nat) → At → Walk At
  | 0, a => pure a
  | fuel + 1, a =>
    if a.sym < d.g.t then pure a
    else do
      let cs ← ruleKids s d.g a.sym
      let b ← passKids s d (.fault 0x62 (BitVec.ofNat 64 a.sym)) a.p a.acc a.col (a.loose || looseLen s d.g a.sym cs) cs
      descendF s d fuel b

/-- The fuel of a descent: ids fall from level to level, so their number bounds its depth. -/
def descentFuel (g : Gram) : Nat := g.t + g.n

/-- A position query (R172): a matrix query walks its row first. -/
def descend (s : State) (d : Descent) (p : Nat) : Walk At := do
  let g := d.g
  if g.len ≤ p then walkFault 0x64 p
  else if g.isMat then
    let r := p / g.cols
    let ks ← readRow s g d.chk r
    let a ← passKids s d (.fault 0x63 (BitVec.ofNat 64 r)) (p % g.cols) none 0 false (ks.map (·.1))
    descendF s d (descentFuel g) a
  else descendF s d (descentFuel g) ⟨g.start, p, none, 0, false⟩

/-- A result of a query written; after a violation that is not checked for, its value is unspecified (R163). -/
def putResult (va : Word) (bs : List Byte) (loose : Bool) (s : State) : Walk State := do
  let t ← walkWrite va bs s
  return if loose then openAt va bs.length t else t

/-- The inclusive prefix at a position (R172), and whether it is unspecified. -/
def prefixAt (s : State) (d : Descent) (x : Table) (p : Nat) : Walk (Attr × Bool) := do
  let a ← descend s d p
  let v ← total s x d.g a.sym
  return (comb x.lift a.acc v, a.loose)

/-- The terminal at a position, as bytes, and whether it is unspecified. -/
def fetchAt (s : State) (d : Descent) (p : Nat) : Walk (List Byte × Bool) := do
  let a ← descend s d p
  let v ← termRaw s d.g a.sym
  return (bytesOfNat (outWidth d.g) v, a.loose)

/-- One query of GFETCH. -/
def gfetchUnit (c : Cmd) (g : Gram) (j : Nat) (s : State) : Walk (List Byte × Bool) := do
  let p ← walkNum s (c.b + BitVec.ofNat 64 (8 * j)) 8
  fetchAt s ⟨g, c.chk, none⟩ p

/-- GFETCH in queries. -/
def gfetchPrep (e : Entry) (s : State) : Walk Job := do
  let g ← gramFor e s
  return .queries (e.cmd.e.toNat * e.cmd.reps) (outWidth g) e.cmd.c (gfetchUnit e.cmd g)

/-- GFETCH (R395). -/
def execGfetch (bank : Bool) (seq : Nat) (s : State) : Out := startWalk 0x81 gfetchPrep bank seq s

/-- One query of GPREF. -/
def gprefUnit (c : Cmd) (g : Gram) (x : Table) (wo r : Nat) (s : State) : Walk (List Byte × Bool) := do
  let v ← prefixAt s ⟨g, c.chk, some x⟩ x (c.e + BitVec.ofNat 64 r).toNat
  return ((attrBytes x.lift v.1).take wo, v.2)

/-- GPREF in queries. -/
def gprefPrep (e : Entry) (s : State) : Walk Job := do
  let c := e.cmd
  checkLift c.b [0, 2]
  let g ← gramFor e s
  let o ← readLift c.b [0, 2] g
  let x ← tableFor s g c.c.toNat c.epoch o
  let wo := if x.lift.op = 10 then 24 else 8
  return .queries c.reps wo c.f (gprefUnit c g x wo)

/-- GPREF (R395). -/
def execGpref (bank : Bool) (seq : Nat) (s : State) : Out := startWalk 0x82 gprefPrep bank seq s

/-- One element of GEXP: a terminal value, or a prefix with `scan`. -/
def gexpUnit (c : Cmd) (g : Gram) (t : Option Table) (i : Nat) (s : State) : Walk (List Byte × Bool) := do
  let p := c.e.toNat % 2 ^ 48 + i
  match t with
  | some x =>
    let v ← prefixAt s ⟨g, c.chk, some x⟩ x p
    return ((attrBytes x.lift v.1).take 8, v.2)
  | none => fetchAt s ⟨g, c.chk, none⟩ p

/-- GEXP in queries, one for each element; without `scan` the descriptor is ignored (R395). -/
def gexpPrep (e : Entry) (s : State) : Walk Job := do
  let c := e.cmd
  let n := c.e.toNat / 2 ^ 48
  if c.flags.getLsbD 1 then
    checkLift c.b [2]
    let g ← gramFor e s
    let o ← readLift c.b [2] g
    let x ← tableFor s g c.c.toNat c.epoch o
    return .queries (n * c.reps) 8 c.f (gexpUnit c g (some x))
  else
    let g ← gramFor e s
    return .queries (n * c.reps) (outWidth g) c.f (gexpUnit c g none)

/-- GEXP (R395). -/
def execGexp (bank : Bool) (seq : Nat) (s : State) : Out := startWalk 0x83 gexpPrep bank seq s

end Sys2Proof.Machine
end

