-- ==== Sys2Proof/Machine/Linear.lean ====
section
/-! DEFINITION. The LINEAR products GMV and GVM (R173, R180, R396) and the ROTARY key blocks of GROT (R174, R175, R397). -/

namespace Sys2Proof.Machine

/-! ### Matvec (R173) -/

/-- The operator that GMV implies (R167). -/
def liftMatvec : Lift := ⟨3, 0, 0, 0⟩
/-- The operator that GVM implies (R167). -/
def liftVecmat : Lift := ⟨3, 1, 0, 0⟩
/-- The operator that GROT's build form implies (R167). -/
def liftRotary : Lift := ⟨4, 0, 0, 0⟩

/-- a·b + c rounded once (R173). -/
def fma32 (a b c : Nat) : Nat := (finishF ff32 .rne (fmaF .rne (decodeF ff32 a) (decodeF ff32 b) (decodeF ff32 c))).1

/-- a·b rounded once. -/
def mul32 (a b : Nat) : Nat := mulRne [decodeF ff32 a, decodeF ff32 b]

/-- The grammar of a LINEAR command: a matrix of floating terminals, or status 0x2B (R170, R396), which needs the header and so stands after
its checks (DESIGN CHOICE, log 103). -/
def linearGram (e : Entry) (s : State) : Walk Gram := do
  let g ← gramFor e s
  if !g.isMat || !g.floating then walkFault 0x2B 0 else return g

/-- DOT and WGT of a LINEAR record as bytes 8 to 31 (R166). -/
def linearBytes (dot wgt : Nat) : List Byte := padTo 24 (padTo 8 (bytesOfNat 4 dot) ++ bytesOfNat 4 wgt)

/-- A contribution added, the first one standing by itself: a rule's DOT, or a terminal's product (R173). -/
def addTerm (s : State) (x : Table) (g : Gram) (xs : Word) (acc : Option Nat) (c col : Nat) : Walk Nat := do
  if c < g.t then
    let v ← termVal s g c
    let u ← walkNum s (xs + BitVec.ofNat 64 (4 * col)) 4
    return match acc with
      | none => mul32 v u
      | some a => fma32 v u a
  else
    let bs ← validRec s x g c
    let d := natOfBytes ((bs.drop 8).take 4)
    return match acc with
      | none => d
      | some a => add32 a d

/-- The sum over symbols from left to right, the first column being `q` (R173). -/
def sumTerms (s : State) (x : Table) (g : Gram) (xs : Word) (q : Nat) (ks : List (Nat × Nat × Nat)) : Walk Nat := do
  let r ← ks.foldlM (fun (acc : Option Nat) k => do
    let v ← addTerm s x g xs acc k.1 (q + k.2.1)
    return some v) none
  return r.getD 0

/-- DOT of rule `k` written (R173, R396). -/
def gmvRule (chk : Bool) (g : Gram) (x : Table) (xs : Word) (k : Nat) (s : State) : Walk State := do
  let r ← readRule s g chk k
  let q ← colBase s g k
  let d ← sumTerms s x g xs q r.kids
  let t ← putRec x g k r.len (linearBytes d 0) s
  return if looseRule s g chk k r.kids then openRec x g k t else t

/-- The value of row `r` (R173), and whether it is unspecified (R163). -/
def gmvRowVal (chk : Bool) (g : Gram) (x : Table) (xs : Word) (r : Nat) (s : State) : Walk (Nat × Bool) := do
  let ks ← readRow s g chk r
  let v ← sumTerms s x g xs 0 ks
  return (v, looseRow s g chk ks)

/-- y[r] written (R396). -/
def gmvRow (chk : Bool) (g : Gram) (x : Table) (xs ys : Word) (r : Nat) (s : State) : Walk State := do
  let v ← gmvRowVal chk g x xs r s
  putResult (ys + BitVec.ofNat 64 (4 * r)) (bytesOfNat 4 v.1) v.2 s

/-- Rows of a range lie in the matrix (R177). -/
def rowsIn (g : Gram) (v : Word) : Walk Unit := if g.rows ≤ rangeHi v then walkFault 0x64 (rangeHi v) else pure ()

/-- The phase code of GMV and GVM (R396). -/
def phaseCode (c : Cmd) : Nat := bits c.flags.toNat 1 2

/-- GMV in units: rules, rows, or all rules and then all rows (R396). -/
def gmvPrep (e : Entry) (s : State) : Walk Job := do
  let c := e.cmd
  let g ← linearGram e s
  let x ← tableFor s g c.c.toNat c.epoch liftMatvec
  let rule := fun k s => unitOf (gmvRule c.chk g x c.b k s) s
  let row := fun r s => unitOf (gmvRow c.chk g x c.b c.f r s) s
  match phaseCode c with
  | 0 =>
    rulesIn g c.e
    return .units (rangeHi c.e + 1 - rangeLo c.e) fun i => rule (rangeLo c.e + i)
  | 1 =>
    rowsIn g c.e
    return .units (rangeHi c.e + 1 - rangeLo c.e) fun i => row (rangeLo c.e + i)
  | _ => return .units (g.n + g.rows) fun i => if i < g.n then rule (g.t + i) else row (i - g.n)

/-- GMV (R396). -/
def execGmv (bank : Bool) (seq : Nat) (s : State) : Out := startWalk 0x84 gmvPrep bank seq s

/-! ### Vecmat (R173, R180, R396) -/

/-- An fp32 added to the four bytes at an address, indivisibly at their home (R180, R396). -/
def addAt (va : Word) (f : Nat → Nat) (s : State) : Walk State :=
  match engBad s va 4 0x67, engPlace s va 4 .amo with
  | some (_, st, a), _ => throw (.fault st a)
  | none, .error c => throw (.fault (engStatus 0x67 c) va)
  | none, .ok p =>
    if poisoned s p.key 4 then throw (.fault 0x25 va)
    else pure (engPutAt p (bytesOfNat 4 (f (natOfBytes (heldRead s p.key 4)))) s)

/-- Whether a record is one that phase 1 sets before it adds to it: its EPOCH differs from the command's (R396). -/
def oldEpoch (x : Table) (h : Nat) : Bool := bits h 56 7 != x.epoch

/-- WGT of a rule's record raised. In phase 1 (`first`) a record of another epoch is set first, in the same access; any other that is
not valid for the command is waited for (R167, R396). -/
def addWgt (first : Bool) (x : Table) (g : Gram) (k v : Nat) (s : State) : Walk State := do
  let bs ← walkRead s (recVa x g k) 32
  let h := natOfBytes (bs.take 8)
  if recValid x h then
    let w := add32 (natOfBytes ((bs.drop 16).take 4)) v
    walkWrite (recVa x g k + 16) (bytesOfNat 4 w) s
  else if first && oldEpoch x h then
    let l ← symLen s g k
    putRec x g k l (linearBytes 0 (add32 0 v)) s
  else throw (.record k)

/-- What is added for one symbol: `v` to a rule's WGT, v·value to z under a terminal; nothing outside z (R163, R173). -/
def spreadOne (first : Bool) (x : Table) (g : Gram) (zs : Word) (v col c : Nat) (s : State) : Walk State := do
  if g.t ≤ c then addWgt first x g c v s
  else
    let u ← termVal s g c
    if g.cols ≤ col then return s else addAt (zs + BitVec.ofNat 64 (4 * col)) (fun z => fma32 v u z) s

/-- What is added for symbols, in order; what was added before a fault stays (R173, R178). -/
def spread (first : Bool) (x : Table) (g : Gram) (zs : Word) (v q : Nat) : List (Nat × Nat × Nat) → State → UnitRes
  | [], s => .done s
  | (c, off, _) :: ks, s =>
    match unitOf (spreadOne first x g zs v (q + off) c s) s with
    | .done t => spread first x g zs v q ks t
    | stuck => stuck

/-- The first rule among symbols whose record must be waited for (R167, R396); a row or rule begins only when there is none, so that
nothing is added twice. A record that cannot be read is left to the access that needs it. -/
def awaited (first : Bool) (x : Table) (g : Gram) (ks : List (Nat × Nat × Nat)) (s : State) : Option Nat :=
  (ks.map (·.1)).find? fun k => decide (g.t ≤ k) && match got (walkRead s (recVa x g k) 32) with
    | .ok bs => let h := natOfBytes (bs.take 8); !recValid x h && !(first && oldEpoch x h)
    | .error _ => false

/-- What is added for symbols once no record is waited for. -/
def spreadOnceReady (first : Bool) (x : Table) (g : Gram) (zs : Word) (v q : Nat) (ks : List (Nat × Nat × Nat)) (s : State) : UnitRes :=
  match awaited first x g ks s with
  | some k => .stuck (.record k) (noteReads [(recVa x g k, 32)] s)
  | none => spread first x g zs v q ks s

/-- After a violation that is not checked for, z and the WGT of the rules among the symbols are unspecified (R163). -/
def openSpread (x : Table) (g : Gram) (zs : Word) (loose : Bool) (ks : List (Nat × Nat × Nat)) : UnitRes → UnitRes
  | .done s => .done (if loose then
      (ks.filter fun y => g.t ≤ y.1).foldl (fun s y => openAt (recVa x g y.1 + 16) 4 s) (openAt zs (4 * g.cols) s) else s)
  | .stuck k s => .stuck k s

/-- Row `r` of phase 1 (R173). -/
def gvmRow (chk : Bool) (g : Gram) (x : Table) (xs zs : Word) (r : Nat) (s : State) : UnitRes :=
  let pre : Walk (List (Nat × Nat × Nat) × Nat) := do
    let ks ← readRow s g chk r
    let v ← walkNum s (xs + BitVec.ofNat 64 (4 * r)) 4
    return (ks, v)
  let t := noteReads (readsOf pre) s
  match got pre with
  | .error k => .stuck k t
  | .ok (ks, v) => openSpread x g zs (looseRow s g chk ks) ks (spreadOnceReady true x g zs v 0 ks t)

/-- Rule `k` of phase 2 (R173). -/
def gvmRule (chk : Bool) (g : Gram) (x : Table) (zs : Word) (k : Nat) (s : State) : UnitRes :=
  let pre : Walk (RuleRead × Nat × Nat) := do
    let r ← readRule s g chk k
    let q ← colBase s g k
    let bs ← validRec s x g k
    return (r, q, natOfBytes ((bs.drop 16).take 4))
  let t := noteReads (readsOf pre) s
  match got pre with
  | .error e => .stuck e t
  | .ok (r, q, w) => openSpread x g zs (looseRule s g chk k r.kids) r.kids (spreadOnceReady false x g zs w q r.kids t)

/-- A rule's record set to the epoch with WGT +0 (R173, R396). -/
def gvmInit (g : Gram) (x : Table) (k : Nat) (s : State) : Walk State := do
  let l ← symLen s g k
  putRec x g k l (linearBytes 0 0) s

/-- z set to +0 (R396). -/
def zeroZ (zs : Word) (n : Nat) (s : State) : UnitRes :=
  let r := engStore zs (List.replicate (4 * n) 0) (4 * n) none 0x67 s
  if r.1.status = 0 then .done r.2 else .stuck (.fault r.1.status r.1.tval) r.2

/-- GVM in units: rows; rules from hi down to lo; or everything (R396). -/
def gvmPrep (e : Entry) (s : State) : Walk Job := do
  let c := e.cmd
  let g ← linearGram e s
  let x ← tableFor s g c.c.toNat c.epoch liftVecmat
  let row := gvmRow c.chk g x c.b c.f
  let rule := gvmRule c.chk g x c.f
  match phaseCode c with
  | 0 =>
    rowsIn g c.e
    return .units (rangeHi c.e + 1 - rangeLo c.e) fun i => row (rangeLo c.e + i)
  | 1 =>
    rulesIn g c.e
    return .units (rangeHi c.e + 1 - rangeLo c.e) fun i => rule (rangeHi c.e - i)
  | _ => return .units (g.n + 1 + g.rows + g.n) fun i s =>
      if i < g.n then unitOf (gvmInit g x (g.t + i) s) s
      else if i = g.n then zeroZ c.f g.cols s
      else if i < g.n + 1 + g.rows then row (i - g.n - 1) s
      else rule (g.t + g.n - 1 - (i - g.n - 1 - g.rows)) s

/-- GVM (R396). -/
def execGvm (bank : Bool) (seq : Nat) (s : State) : Out := startWalk 0x85 gvmPrep bank seq s

/-! ### Rotation (R174) -/

/-- Fields of a rotary block (R397). -/
structure Rotary where
  gbase : Word
  keys : Word
  kbase : Word
  qsrc : Word
  olist : Word
  out : Word
  p : Nat
  count : Nat
deriving DecidableEq, Repr

/-- The fields of a rotary block. -/
def rotaryOf (v : Nat) : Rotary :=
  let w := fun (i : Nat) => BitVec.ofNat 64 (bits v (64 * i) 64)
  ⟨w 0, w 1, w 2, w 3, w 4, w 5, bits v 384 7, bits v 416 32⟩

/-- A rotary block read and checked (R397). -/
def readRotary (s : State) (va : Word) : Walk Rotary := do
  let v ← walkNum s va 64
  let p := bits v 384 7
  if p < 1 || p > 64 || bits v 391 25 != 0 || bits v 448 64 != 0 then walkFault 0x66 va.toNat
  else return rotaryOf v

/-- The rotary block of a command, as it stood at dispatch (R397). -/
def rotaryFor (e : Entry) (s : State) : Walk Rotary :=
  match e.frozen with
  | some f => pure (rotaryOf f.2)
  | none => readRotary s e.cmd.b

/-- a·c − b·d or a·c + b·d, rounded once. -/
def cross32 (minus : Bool) (a c b d : Nat) : Nat :=
  let x := (mulF (decodeF ff32 a) (decodeF ff32 c)).1
  let y := (mulF (decodeF ff32 b) (decodeF ff32 d)).1
  (roundF ff32 .rne false (addF .rne [x, if minus then y.neg else y]).1).1

/-- One pair rotated by one generator entry; `back` inverts the sine (R174). -/
def rotPair (back : Bool) (a c cos sin : Nat) : List Nat :=
  let sin := if back then sin ^^^ 0x80000000 else sin
  [cross32 true a cos c sin, cross32 false a sin c cos]

/-- The step of one set bit `b` on every pair (R174). -/
def rotStep (s : State) (r : Rotary) (back : Bool) (b : Nat) (u : List Nat) : Walk (List Nat) := do
  let bs ← walkRead s (r.gbase + BitVec.ofNat 64 (8 * r.p * b)) (8 * r.p)
  let e := elemsIn 4 bs
  return (List.range r.p).flatMap fun j =>
    rotPair back (u.getD (2 * j) 0) (u.getD (2 * j + 1) 0) (e.getD (2 * j) 0) (e.getD (2 * j + 1) 0)

/-- A vector rotated by R(n), or by R(−n) (R174). -/
def rotate (s : State) (r : Rotary) (back : Bool) (n : Nat) (u : List Nat) : Walk (List Nat) :=
  ((List.range 32).filter fun b => n.testBit b).foldlM (fun u b => rotStep s r back b u) u

/-- A row of 2P fp32 as bytes. -/
def rowBytes (u : List Nat) : List Byte := u.flatMap (bytesOfNat 4)

/-! ### GROT, build form (R175, R397) -/

/-- The rows of a child's block: a terminal's key, or the block that a rule's record names, read with the command's P; R175 does not say
what a record of another P does (DESIGN CHOICE, log 104). -/
def childRows (s : State) (x : Table) (g : Gram) (r : Rotary) (c len : Nat) : Walk (List (List Nat)) := do
  let n := 8 * r.p
  if c < g.t then
    let bs ← walkRead s (r.keys + BitVec.ofNat 64 (n * c)) n
    return [elemsIn 4 bs]
  else
    let bs ← validRec s x g c
    let ka := BitVec.ofNat 64 (natOfBytes ((bs.drop 8).take 8))
    (List.range len).mapM fun i => elemsIn 4 <$> walkRead s (ka + BitVec.ofNat 64 (n * i)) n

/-- The rows of a rule's block (R175); a rotation by 2^32 or more is not stated, and its rows are left to `open_`. -/
def blockRows (s : State) (x : Table) (g : Gram) (r : Rotary) (ks : List (Nat × Nat × Nat)) : Walk (List (Option (List Nat))) := do
  let rows ← ks.mapM fun k => do
    let rs ← childRows s x g r k.1 k.2.2
    rs.mapM fun u => if k.2.1 < 2 ^ 32 then some <$> rotate s r false k.2.1 u else pure none
  return rows.flatten

/-- Rows as bytes, with free bytes where a row is open (log 12). -/
def fillRows (n : Nat) : List (Option (List Nat)) → State → List Byte × State
  | [], s => ([], s)
  | some u :: rs, s =>
    let (bs, s) := fillRows n rs s
    (rowBytes u ++ bs, s)
  | none :: rs, s =>
    let (f, s) := freeBytes n s
    let (bs, s) := fillRows n rs s
    (f ++ bs, s)

/-- Lengths of the rules of a range before rule `k` (R175). -/
def rowsBefore (s : State) (g : Gram) (lo k : Nat) : Walk Nat :=
  (List.range (k - lo)).foldlM (fun a i => (a + ·) <$> symLen s g (lo + i)) 0

/-- Rule `k` of the build form: its block, then its record (R175, R397). -/
def grotRule (c : Cmd) (g : Gram) (x : Table) (r : Rotary) (k : Nat) (s : State) : UnitRes :=
  let pre : Walk (RuleRead × Nat × List (Option (List Nat))) := do
    let d ← readRule s g c.chk k
    let before ← rowsBefore s g (rangeLo c.e) k
    let rows ← blockRows s x g r d.kids
    return (d, before, rows)
  let s := noteReads (readsOf pre) s
  match got pre with
  | .error e => .stuck e s
  | .ok (d, before, rows) =>
    let loose := looseRule s g c.chk k d.kids
    let ka := r.kbase + BitVec.ofNat 64 (8 * r.p * before)
    let (bs, s) := fillRows (8 * r.p) rows s
    let w := engStore ka bs bs.length none 0x67 s
    if w.1.status != 0 then .stuck (.fault w.1.status w.1.tval) w.2
    else unitOf (do
      let t ← putRec x g k d.len (padTo 24 (bytesOfNat 8 ka.toNat ++ bytesOfNat 2 r.p)) w.2
      return if loose then openAt ka bs.length t else t) w.2

/-- Offset `i` of the query form (R397). -/
def grotQuery (r : Rotary) (i : Nat) (s : State) : Walk (List Byte × Bool) := do
  let o ← walkNum s (r.olist + BitVec.ofNat 64 (4 * i)) 4
  let bs ← walkRead s r.qsrc (8 * r.p)
  let u ← rotate s r true o (elemsIn 4 bs)
  return (rowBytes u, false)

/-- GROT: the build form in units, one rule each; the query form in queries, one for each offset (R397). The match of types stands after the
rotary block's checks and the header's (DESIGN CHOICE, log 103). -/
def grotPrep (e : Entry) (s : State) : Walk Job := do
  let c := e.cmd
  let r ← rotaryFor e s
  if c.flags.getLsbD 1 then return .queries r.count (8 * r.p) r.out (grotQuery r)
  else
    let g ← gramFor e s
    if !g.floating then walkFault 0x2B 0
    else
      rulesIn g c.e
      let x ← tableFor s g c.c.toNat c.epoch liftRotary
      return .units (rangeHi c.e + 1 - rangeLo c.e) fun i => grotRule c g x r (rangeLo c.e + i)

/-- GROT (R397). -/
def execGrot (bank : Bool) (seq : Nat) (s : State) : Out := startWalk 0x86 grotPrep bank seq s

end Sys2Proof.Machine
end

