-- ==== Sys2Proof/Machine/Queues.lean ====
section
/-! DEFINITION. The queue instructions (R323 to R326), the sequencers (R127, R128, R134), the chain events (R129) and the
retirement of commands (R125, R252, R375, R385). -/

namespace Sys2Proof.Machine

/-! ### CMDQ (R123, R124, R133, R215, R323) -/

/-- The physical address of a page's byte, whatever its permissions (R215). -/
def physOf (s : State) (va : Word) : Option Nat :=
  if inWindow va then none
  else match lookup s s.core.asid va.toNat with
    | .ok t => some (t.pa + va.toNat % 2 ^ t.bits)
    | .error _ => none

/-- Bytes [lo, hi) of one line at issue: dirty ones are written back, and L1 copies of destination bytes lose their valid
bit (R215). -/
def issueLine (line lo hi : Nat) (dst : Bool) (s : State) : State :=
  match l1Find s.core line with
  | none => s
  | some x =>
    let m := spanMask lo (hi - lo)
    let y := { x with dirty := x.dirty &&& ~~~m, valid := if dst then x.valid &&& ~~~m else x.valid,
                      owed := if x.dirty &&& ~~~m = 0 then none else x.owed }
    sendBytes x (x.dirty &&& m) (modCore (fun c => { c with l1 := l1Replace y c.l1 }) s)

/-- The write-back and invalidation of a range at issue (R215). -/
def issueRange (r : Rng) (s : State) : State :=
  if s.core.l1.isEmpty then s
  else
    (lineParts (BitVec.ofNat 64 r.lo) (r.hi - r.lo)).foldl (fun s p =>
      match physOf s (BitVec.ofNat 64 (r.lo + p.1)) with
      | none => s
      | some pa => issueLine (lineOf pa) (pa % 128) (pa % 128 + p.2) r.dst s) s

/-- Commands that dinject may invert a bit of (R340). -/
def injectable (opc : Nat) : Bool := (0x40 ≤ opc && opc ≤ 0x42) || (0x44 ≤ opc && opc ≤ 0x4A)

/-- An accepted command enters its queue: sequence value, locks, hold, dinject, checksum start (R123, R130, R133, R340, R385). -/
def pushCmd (q : Queue) (c : Cmd) (rs : List Rng) (s : State) : State :=
  let k := s.core.bank
  let seq := (k.seq q).toNat + 1
  let ord := s.core.pushes
  let isCk := c.opc == 0x42
  let inj := if injectable c.opc.toNat && k.dinject.arm then some (k.dinject.off, k.dinject.bit) else none
  let rel := k.rel q
  let waits := c.otag != 0 && rel.any fun x => x.1 == c.otag
  let cancelling := waits && rel.any fun x => x.1 == c.otag && x.2
  let start := if c.flags.getLsbD 2 then some (if c.flags.getLsbD 0 then 0 else 1) else k.ckStart
  let e : Entry := {
    bank := k.num, seq := seq, ord := ord, cmd := c, st := if c.otag != 0 && !waits then .held else .queued,
    cancelled := false, landed := false, released := false, consumed := false, status := 0, tval := 0, srcBad := false, seqField := none,
    inject := inj, ckStart := if isCk then start else none, ck := 0, outstanding := 0, recWait := none, prog := 0,
    pc := s.core.cx.pc, ctx := s.core.cx.id, icBase := some (s.core.cx.instret + 1), icDone := 0 }
  let s := rs.foldl (fun s r => issueRange r s) s
  let s := modBank (fun b => (b.setSeq q (BitVec.ofNat 64 seq)).setRel q (if waits then rel.filter fun x => x.1 != c.otag else rel)) s
  let s := modBank (fun b => { b with
    dinject := if inj.isSome then { b.dinject with arm := false } else b.dinject
    ckStart := if isCk then none else b.ckStart }) s
  let s := modCore (fun k => { k.setQueue q (k.queue q ++ [e]) with
    pushes := ord + 1
    locks := k.locks ++ rs.map fun r => ⟨r.lo, r.hi, r.dst, e.bank, q, seq, ord⟩ }) s
  if cancelling then cancelAt q ord s else s

/-- CMDQ (R323). -/
def cmdqStep (q : Queue) (rs1 rd : RegNo) (s : State) : Res State := do
  let a := readX s rs1
  if a.extractLsb' 0 5 ≠ 0 then throw (.trap 4 a)
  let g ← memLoad a 32 .dflt s
  let t := g.st
  let fin := fun (v : Word) (s : State) => adv (writeX rd v s)
  match capture t q (natOfBytes g.bytes) with
  | none => return fin (-2) t
  | some c =>
    match checkCmd t c with
    | none => return fin (-2) t
    | some rs =>
      if (t.core.queue q).length ≥ Config.queueEntries || t.core.locks.length + rs.length > Config.lockEntries then
        return fin (-1) t
      else
        let u := pushCmd q c rs t
        return fin (u.core.bank.seq q) u

/-- CMDQ (R323). -/
def execCmdq (q : Queue) (rs1 rd : RegNo) (s : State) : Out := .next (orTrap (cmdqStep q rs1 rd s) s)

/-! ### CMDQW, CMDCAN, CMDST, LOOPSET, LOOPGET (R324 to R326) -/

/-- CMDQW (R324). -/
def cmdqwStep (q : Queue) (rs1 rd : RegNo) (s : State) : Res State :=
  let t := readX s rs1
  let done := s.core.bank.done q
  if s.core.bank.seq q < t || t ≤ done then .ok (adv (writeX rd done s))
  else .error (.wait (.cmd q t) s)

/-- CMDQW (R324). -/
def execCmdqw (q : Queue) (rs1 rd : RegNo) (s : State) : Out := .next (orTrap (cmdqwStep q rs1 rd s) s)

/-- CMDCAN (R325). -/
def execCmdcan (q : Queue) (rs1 rd : RegNo) (s : State) : Out :=
  let n := (readX s rs1).toNat
  .next (adv (match findEntry s.core q s.core.bank.num n with
    | none => writeX rd (-1) s
    | some e =>
      if e.cancelled then writeX rd 0 s
      else if e.dispatched then writeX rd 1 s
      else writeX rd 0 (cancelAt q e.ord s)))

/-- CMDST (R326). -/
def execCmdst (q : Queue) (rd : RegNo) (s : State) : Out := .next (adv (writeX rd (s.core.bank.done q) s))

/-- LOOPSET (R326). -/
def execLoopset (q : Queue) (l : BitVec 3) (rs1 : RegNo) (s : State) : Out :=
  .next (adv (modBank (fun b => b.setLoop q l ((readX s rs1).truncate 32)) s))

/-- LOOPGET (R326). -/
def execLoopget (q : Queue) (l : BitVec 3) (rd : RegNo) (s : State) : Out :=
  .next (adv (writeX rd ((s.core.bank.loop q l).zeroExtend 64) s))

/-! ### The sequencer (R127, R128, R134, R401) -/

/-- Whether an opcode is a control command (R122). -/
def isControl (opc : Nat) : Bool := 0xC0 ≤ opc

/-- Commands that an engine holds in flight at most (R122). -/
def engineRoom : Queue → Nat
  | .mq => 1 | .cq => 16 | .gq => 1

/-- QM of a control command (R401): every command that the bank pushed earlier to a queue named in QM has retired. -/
def qmDone (c : Core) (e : Entry) : Bool :=
  let clear := fun (q : Queue) (i : Nat) =>
    !e.cmd.flags.getLsbD i || !(c.queue q).any fun x => x.bank == e.bank && x.ord < e.ord
  !(e.cmd.opc == 0xC1 || e.cmd.opc == 0xC2 || e.cmd.opc == 0xC4) || (clear .mq 0 && clear .cq 1 && clear .gq 2)

/-- The queue entry with a push number. -/
def entryByOrd (c : Core) (ord : Nat) : Option Entry := (c.mq ++ c.cq ++ c.gq).find? fun e => e.ord == ord

/-- Whether a push number is that of a GCON's internal entry's own command, or of another internal entry of it (R400). -/
def sameWork (c : Core) (e : Entry) (ord : Nat) : Bool := e.inner == some ord || ((entryByOrd c ord).any fun y => y.inner == e.inner)

/-- A conflict of an entry with an earlier command that is not cleared (R134); `free` leaves out those of its own queue (R128). -/
def conflicts (c : Core) (q : Queue) (e : Entry) (free : Bool) : Bool :=
  c.locks.any fun x =>
    x.ord < e.ord && !(free && x.q == q) && !(e.inner.isSome && sameWork c e x.ord) &&
      (lockRngs c e.ord).any fun y =>
        x.lo < y.hi && y.lo < x.hi && (x.dst || y.dst) &&
          !(x.dst && ((entryByOrd c x.ord).map (·.landed)).getD true)

/-- The entry that a queue's sequencer considers: the oldest undispatched one (R127). -/
def seqHead (c : Core) (q : Queue) : Option Entry := (c.queue q).find? Entry.waiting

/-- Whether the sequencer may dispatch an entry (R127, R128, R134, R255, R401). -/
def mayDispatch (c : Core) (q : Queue) (e : Entry) : Bool :=
  let l := c.queue q
  let flying := (l.filter fun x => x.st == .flight && !x.cancelled && !isControl x.cmd.opc.toNat).length
  e.st == .queued && e.inner.isNone && !(c.parked q && l.any Entry.dispatched) && !(c.bankOf e.bank).stopped
    && (isControl e.cmd.opc.toNat || flying < engineRoom q)
    && qmDone c e
    && !conflicts c q e (l.any fun x => x.cmd.sw && x.ord ≥ e.ord)

/-- `clr` of MMA and MMAS under a count of 0: the listing of R380 clears before any repeat, and makes no access. -/
def clearFirst (e : Entry) (s : State) : State :=
  if e.cmd.reps = 0 && (e.cmd.opc == 1 || e.cmd.opc == 2) && e.cmd.flags.getLsbD 1 then
    modCore (·.modBankOf e.bank fun k => if h : e.cmd.a.toNat < 4 then { k with acc := k.acc.set e.cmd.a.toNat 0 } else k) s
  else s

/-- Conflicts of an entry that a free run dispatches with earlier commands of its own queue, in which one of the two reads what
the other writes: the earlier range, and its own (R128, R134). -/
def clashes (c : Core) (q : Queue) (e : Entry) : List (Lock × Lock) :=
  (lockRngs c e.ord).flatMap fun y =>
    (c.locks.filter fun x => x.ord < e.ord && x.q == q && x.lo < y.hi && y.lo < x.hi && x.dst != y.dst
      && !(x.dst && ((entryByOrd c x.ord).map (·.landed)).getD true)).map fun x => (x, y)

/-- The bytes that an entry reads of a conflict. -/
def clashOf (ord : Nat) (p : Lock × Lock) : Option (Nat × Nat) :=
  if (p.1.ord = ord && p.2.dst) || (p.2.ord = ord && p.1.dst) then some (max p.1.lo p.2.lo, min p.1.hi p.2.hi) else none

/-- The data that commands in conflict read is unspecified (R128). -/
def loosen (q : Queue) (ps : List (Lock × Lock)) (s : State) : State :=
  if ps.isEmpty then s
  else modCore (fun c => c.setQueue q ((c.queue q).map fun x => { x with loose := x.loose ++ ps.filterMap (clashOf x.ord) })) s

/-! ### Chain events (R129, R130, R384) -/

/-- Commands without a memory source: their source-released event occurs at dispatch (R129). -/
def noSource (opc : Nat) : Bool :=
  opc == 0x00 || opc == 0x04 || opc == 0x05 || opc == 0x43 || opc == 0x4B || opc == 0x46 || opc == 0x48 || isControl opc

/-- Commands without a destination of their own, or whose transfer completes as NWR does: their data-landed event occurs at
completion (R129, R385). -/
def noDest (c : Cmd) : Bool :=
  let opc := c.opc.toNat
  opc == 0x47 || opc == 0x49 || (opc == 0x42 && (c.flags.getLsbD 3 || c.flags.getLsbD 4)) || (isControl opc && opc != 0xC4)

/-- The source-released event: source locks go, a CPYS writes its rstamp, and the chains on events 2 and 3 are sent (R129,
R135, R384); for a matrix command event 3 comes by itself. -/
def sourceReleased (q : Queue) (e : Entry) (s : State) : State :=
  let matrix := e.cmd.opc.toNat < 0x40
  let s := dropSrcLocks e.ord (modEntry q e.ord (fun x => { x with released := true, consumed := x.consumed || !matrix }) s)
  let s := if e.cmd.opc = 0x41 then writeStamp q e e.cmd.d 0 s else s
  if e.cmd.ev = 2 || (e.cmd.ev = 3 && !matrix) then sendChain e false s else s

/-- The head is dispatched: it parks its queue if it closes a free run; a count of 0 makes it retire without any access
(R126, R128), where all its chain events occur. Without a memory source its source is released at once (R129). -/
def dispatchEntry (q : Queue) (e : Entry) (s : State) : State :=
  let s := loosen q (clashes s.core q e) (clearFirst e s)
  let t := modCore (fun c => c.setParked q e.cmd.sw)
    (modEntry q e.ord (fun x => { x with st := if e.cmd.reps = 0 then .worked else .flight }) s)
  if noSource e.cmd.opc.toNat && e.cmd.reps != 0 then sourceReleased q e t else t

/-- SEQUENCER_DISPATCH (R127): a QWAIT is dispatched by the read that ends its wait (R401). -/
def execSequencerDispatch (q : Queue) (s : State) : Out :=
  match seqHead s.core q with
  | none => .next s
  | some e => if e.cmd.opc != 0xC3 && mayDispatch s.core q e then .next (dispatchEntry q e s) else .next s

/-- Whether a command that has failed has read every byte of its source all the same (R129, R384). -/
def sourceRead (e : Entry) : Bool := e.cmd.opc == 0x41 && e.st == .worked && !e.srcBad

/-- A command whose packets to a peer may have to be sent again (R79, R385, R390). DEDUCED (log 93): its source is released at its
retirement, as R413 shows it by the lock. -/
def peerSend (c : Cmd) : Bool := c.opc == 0x49 || (c.opc == 0x42 && c.flags.getLsbD 4 && !c.flags.getLsbD 3)

/-- ENGINE_CHAIN_EVENT (R129): event 1, 2 or 3 of a command that has not failed, event 2 of one that has read its source. A storage
command with pieces outstanding has done so. -/
def execEngineChainEvent (q : Queue) (bank : Bool) (seq : Nat) (ev : BitVec 2) (s : State) : Out :=
  match findEntry s.core q bank seq with
  | none => .next s
  | some e =>
    let opc := e.cmd.opc.toNat
    if !e.dispatched || (e.status != 0 && !(ev = 2 && sourceRead e)) || e.cmd.reps = 0 || !s.ms.heldW.isEmpty then .next s
    else if ev = 1 then
      if e.st = .worked && !e.landed && !noDest e.cmd then
        let t := modEntry q e.ord (fun x => { x with landed := true }) s
        .next (if e.cmd.ev = 1 then sendChain e false t else t)
      else .next s
    else if ev = 2 then
      if !e.released && !peerSend e.cmd && (e.st = .worked || noSource opc || e.outstanding != 0) then .next (sourceReleased q e s) else .next s
    else if ev = 3 then
      if opc < 0x40 && !e.consumed && (e.st = .worked || noSource opc) then
        let t := modEntry q e.ord (fun x => { x with consumed := true }) s
        .next (if e.cmd.ev = 3 then sendChain e false t else t)
      else .next s
    else .next s

/-! ### Retirement (R125, R252, R375, R385) -/

/-- Whether the chain event that a command names has occurred. -/
def chainDone (e : Entry) : Bool :=
  match e.cmd.ev.toNat with
  | 1 => e.landed
  | 2 => e.released
  | 3 => e.consumed
  | _ => false

/-- The result of a CPYK, its own start value where it failed (R385), and the status after the compare (R385). -/
def ckFinish (e : Entry) : W32 × BitVec 8 × Word :=
  if e.cancelled || e.status != 0 || e.cmd.reps = 0 then (e.ckStart.getD 1, e.status, e.tval)
  else if e.cmd.flags.getLsbD 1 && e.ck != e.cmd.e.truncate 32 then (e.ck, 0x72, e.ck.zeroExtend 64)
  else (e.ck, 0, 0)

/-- dcksum takes the result of a retiring CPYK, and the next one that goes on from it takes its start value (R339, R385). -/
def ckRetire (q : Queue) (e : Entry) (r : W32) (s : State) : State :=
  let next := (s.core.queue q).find? fun x => x.bank == e.bank && x.ord > e.ord && x.cmd.opc == 0x42
  let s := match next with
    | some x => if x.ckStart.isNone then modEntry q x.ord (fun y => { y with ckStart := some r }) s else s
    | none => s
  modCore (·.modBankOf e.bank fun k => { k with
    dcksum := r, ckStart := if next.isNone && k.ckStart.isNone then some r else k.ckStart }) s

/-- Contexts that wait for a completion counter become ready when it reaches their value (R324). -/
def wakeCmd (b : Bool) (q : Queue) (s : State) : State :=
  let done := (s.core.bankOf b).done q
  wake (fun k _ w => match w with
    | .cmd p t => k == b && p == q && t ≤ done
    | _ => false) s

/-- A command leaves its queue: the counter rises, its locks go (R125, R135). -/
def leaveQueue (q : Queue) (e : Entry) (s : State) : State :=
  let s := modCore (fun c => c.setQueue q ((c.queue q).filter fun x => x.ord != e.ord)) (dropLocks e.ord s)
  let s := modCore (·.modBankOf e.bank fun k => k.setDone q (k.done q + 1)) s
  modCore (freeIfDone e.bank) (wakeCmd e.bank q s)

/-- The source-released event of a command that has read its source and has not had the event yet, at the latest at its retirement
(R129, R384). -/
def lateRelease (q : Queue) (e : Entry) (s : State) : State := if sourceRead e && !e.released then sourceReleased q e s else s

/-- What a command does at its retirement (R125, R129 to R131, R252, R375, R384, R385). A chain event at completion comes after the
compare of a CPYK. -/
def retireCmd (q : Queue) (e : Entry) (s : State) : State :=
  let isCk := e.cmd.opc == 0x42
  let ck := ckFinish e
  let st := if e.cancelled then (0x40 : BitVec 8) else if isCk then ck.2.1 else e.status
  let tval := if isCk then ck.2.2 else e.tval
  let early := if e.cancelled then true else e.status != 0
  let s := if isCk then ckRetire q e ck.1 s else s
  let s := if chainDone e then s else sendChain e (if e.cmd.ev = 0 || (e.cmd.ev = 1 && noDest e.cmd) then st != 0 else early) s
  let s := if e.cmd.opc = 0x41 && !e.released then writeStamp q e e.cmd.d st s else s
  let s := (lastStamps e).foldl (fun s a => writeStamp q e a st s) s
  let s := if st = 0 ∨ st = 0x40 then s else engRecord q e st tval s
  leaveQueue q e s

/-- COMMAND_RETIRE (R125): the oldest command of a queue retires once it has finished its work or is cancelled, and every
write of it has performed (R223). -/
def execCommandRetire (q : Queue) (s : State) : Out :=
  match s.core.queue q with
  | [] => .next s
  | e :: _ =>
    if (e.cancelled || e.st == .worked) && s.ms.heldW.isEmpty then
      let t := if e.cancelled then s else lateRelease q e s
      .next (creditBank e.bank s (retireCmd q ((entryByOrd t.core e.ord).getD e) t))
    else .next s

end Sys2Proof.Machine
end

