-- ==== Sys2Proof/Machine/Contract.lean ====
section
/-! DEFINITION. GCON, and the walker's re-reads of a record that is not valid yet (R167, R398 to R400). -/

namespace Sys2Proof.Machine

/-! ### The parameter block (R398) -/

/-- An operand of a contraction. -/
structure GOperand where
  base : Word
  kind : Nat
  tr : Bool
  fmt : Nat
  ld : Nat
  bstr : Word
  aux : Word
deriving DecidableEq, Repr

/-- A parameter block. -/
structure GBlock where
  acc : Bool
  za : Bool
  accn : Nat
  i : Nat
  j : Nat
  k : Nat
  nb : Nat
  stage : Word
  sz : Nat
  a : GOperand
  b : GOperand
  o : GOperand
deriving DecidableEq, Repr

/-- An operand from its 32 bytes. -/
def operandOf (v : Nat) : GOperand :=
  { base := BitVec.ofNat 64 (bits v 0 64), kind := bits v 64 4, tr := bits v 68 1 == 1, fmt := bits v 72 8, ld := bits v 96 32,
    bstr := BitVec.ofNat 64 (bits v 128 64), aux := BitVec.ofNat 64 (bits v 192 64) }

/-- The fields of a block. -/
def gblockOf (v : Nat) : GBlock :=
  { acc := bits v 32 1 == 1, za := bits v 33 1 == 1, accn := bits v 34 2, i := bits v 64 32, j := bits v 96 32, k := bits v 128 32,
    nb := bits v 160 32, stage := BitVec.ofNat 64 (bits v 192 64), sz := bits v 256 32,
    a := operandOf (bits v 512 256), b := operandOf (bits v 768 256), o := operandOf (bits v 1024 256) }

/-- Reserved fields of an operand, and those of the kinds that leave them zero; a grain format is one of dense operands only, and that of
a grammar is a code of R298 as well (R398). -/
def operandOk (v : Nat) (o : GOperand) : Bool :=
  bits v 69 3 == 0 && bits v 80 16 == 0 && o.kind ≤ 3 && (o.kind == 0 || (!o.tr && o.bstr == 0))
    && (o.kind == 0 || o.fmt != 0x06)
    && (o.kind < 2 || (fmtWidth o.fmt != 0 && o.aux.toNat / 2 ^ 39 == 0 && tabOk (BitVec.ofNat 64 (o.aux.toNat % 2 ^ 32))))

/-- LD of a dense operand is at least its stored row (R398). -/
def ldOk (o : GOperand) (rows cols : Nat) : Bool := o.kind != 0 || o.fmt == 0x06 || (if o.tr then rows else cols) ≤ o.ld

/-- The format of an operand's elements: that of R298, or of the grammar's TFMT. -/
def tfFmt : Nat → Nat
  | 1 => 0x10 | 5 => 0x04 | 6 => 0x03 | 7 => 0x02 | 8 => 0x01 | _ => 0

/-- Bytes of a tile in the staging area (R398). -/
def stageTile (f : Nat) : Nat := if f = 0x06 then 384 else 256 * fmtWidth f

/-- The staging area lies in the scratchpad (R398). -/
def stageOk (s : State) (b : GBlock) (need : Nat) : Bool :=
  let off := b.stage.toNat % 2 ^ 21
  regionOf b.stage == 0xFFFFFF && b.stage.toNat / 2 ^ 21 % 2 ^ 19 == 0 && b.stage.toNat % 128 == 0 && need ≤ b.sz
    && s.core.dpoolb1 ≤ off && off + b.sz ≤ s.core.dpoolb2

/-- A contraction ready to run: its block, the grammar of A, the formats of A and B, and the grain header of A. -/
structure Contraction where
  blk : GBlock
  gram : Option Gram
  fa : Nat
  fb : Nat
  hdr : Option GrainHdr

/-- A rule of the block that is broken (R398). -/
def badBlock {α : Type} (va : Word) : Walk α := walkFault 0x66 va.toNat

/-- The contraction of a block and A's header that have been read (R398). -/
def contractionOf (f : Nat × Nat) : Contraction :=
  let b := gblockOf f.1
  let g := if b.a.kind < 2 then none else some (gramOf b.a.base f.2)
  let fa := match g with
    | some g => if g.isMat then 0x01 else tfFmt g.tf
    | none => b.a.fmt
  ⟨b, g, fa, b.b.fmt, if b.a.kind = 0 ∧ b.a.fmt = 0x06 then grainHdr (bytesOfNat 32 f.2) else none⟩

/-- The grammar of A checked; a header outside R159 is a broken rule of the block (R398). -/
def contractGram (s : State) (va : Word) (o : GOperand) : Walk Unit :=
  tryCatch (do let _ ← readGram s o.base) fun k => if k matches .fault 0x60 _ then badBlock va else throw k

/-- Whether A's grain header has the extents of A (R398). -/
def grainFits (b : GBlock) (h : Nat) : Bool :=
  match grainHdr (bytesOfNat 32 h) with
  | some h => h.tr * 16 == b.i && h.tc * 16 == b.k && !b.a.tr
  | none => false

/-- A's header: that of its grammar, or of its grain buffer; both are checked (R398). -/
def aHeader (s : State) (va : Word) (b : GBlock) : Walk Nat := do
  if 2 ≤ b.a.kind then
    contractGram s va b.a
    walkNum s b.a.base 64
  else if b.a.fmt = 0x06 && b.a.kind = 0 then
    let h ← walkNum s b.a.base 32
    if grainFits b h then return h else badBlock va
  else return 0

/-- Whether the block is of the form R398 asks, apart from A's grammar and the formats. -/
def shapeOk (v : Nat) (b : GBlock) : Bool :=
  bits v 0 32 == 0x4E4F4347 && bits v 36 28 == 0 && bits v 288 224 == 0 && 1 ≤ b.i && 1 ≤ b.j && 1 ≤ b.k && 1 ≤ b.nb
    && operandOk (bits v 512 256) b.a && operandOk (bits v 768 256) b.b && operandOk (bits v 1024 256) b.o
    && b.b.kind ≤ 1 && b.o.kind == 0 && ldOk b.a b.i b.k && ldOk b.b b.k b.j && ldOk b.o b.i b.j
    && b.b.fmt != 0x06 && b.o.fmt != 0x06

/-- The checks of a contraction of a grammar matrix (R398). -/
def matrixFits (s : State) (b : GBlock) (g : Gram) : Bool :=
  b.a.kind == 3 && g.rows == b.i && g.cols == b.k && b.b.fmt == 0x01 && b.o.fmt == 0x01
    && (b.b.kind == 0 || (b.k % 16 == 0 && b.j % 16 == 0)) && stageOk s b (4 * (b.i + b.k))

/-- The checks of every A but a grammar matrix (R398). DESIGN CHOICE (log 95): a block that names a grain operand at S2 gives status 0x66;
R22 refuses grain at the push, but the block is read at dispatch only, and the push of its GCON is accepted. -/
def pairFits (s : State) (x : Contraction) : Bool :=
  let b := x.blk
  mmaPair x.fa x.fb && (x.fa != 0x06 || (x.hdr.isSome && grainOk s)) && b.o.fmt == (if x.fa = 0x10 then 0x12 else 0x01)
    && (b.a.kind < 2 || (b.a.kind == 2 && x.fa != 0)) && b.i % 16 == 0 && b.j % 16 == 0 && b.k % 16 == 0
    && stageOk s b (b.k / 16 * (stageTile x.fa + stageTile x.fb))

/-- The block read and checked (R398): every failure is status 0x66, before any write. -/
def readBlock (s : State) (va : Word) : Walk (Nat × Nat) := do
  let v ← walkNum s va 160
  let b := gblockOf v
  if !shapeOk v b then badBlock va
  else
    let h ← aHeader s va b
    let x := contractionOf (v, h)
    match x.gram with
    | some g =>
      if g.isMat then
        if !matrixFits s b g then badBlock va else if !g.floating then walkFault 0x2B 0 else return (v, h)
      else if pairFits s x then return (v, h) else badBlock va
    | none => if pairFits s x then return (v, h) else badBlock va

/-! ### Elements and tiles (R398) -/

/-- Address of element (row, col) of batch `n` of a dense operand. -/
def denseAddr (o : GOperand) (n row col : Nat) : Word :=
  o.base + BitVec.ofNat 64 n * o.bstr + BitVec.ofNat 64 (fmtWidth o.fmt * (if o.tr then col * o.ld + row else row * o.ld + col))

/-- The addresses of tile (ti, tk) of a dense operand, row-major. -/
def tileAddrs (o : GOperand) (n ti tk : Nat) : List Word :=
  (List.range 256).map fun e => denseAddr o n (16 * ti + e / 16) (16 * tk + e % 16)

/-- Elements read one by one, with the status of the internal copy that stages them (R399, R400). -/
def readElems (s : State) (w : Nat) (as : List Word) : Walk (List Nat) :=
  as.mapM fun a => do return natOfBytes (← readWith 0x70 s a w)

/-- The number of the stored block of a block-sparse operand at (row, col); none where it is absent (R398). -/
def sparseBlock (s : State) (o : GOperand) (rows row col : Nat) : Walk (Option Nat) := do
  let lo ← walkNum s (o.aux + BitVec.ofNat 64 (4 * row)) 4
  let hi ← walkNum s (o.aux + BitVec.ofNat 64 (4 * row + 4)) 4
  let idx ← walkRead s (o.aux + BitVec.ofNat 64 (4 * (rows / 16 + 1 + lo))) (4 * (hi - lo))
  return ((elemsIn 4 idx).findIdx? fun c => c == col).map (lo + ·)

/-- What stands at tile (ti, tk) of an operand of `rows` rows: nothing where the block is absent, else the number of the stored block
of a block-sparse operand (R398, R399). -/
def blockAt (s : State) (o : GOperand) (rows ti tk : Nat) : Walk (Option Nat) :=
  if o.kind = 1 then sparseBlock s o rows ti tk else pure (some 0)

/-- The elements of tile (ti, tk) of an operand of `cols` columns in batch `n`, which is present, as block `m` where it is block-sparse
(R398, R399). -/
def operandTile (s : State) (x : Contraction) (o : GOperand) (fmt cols n ti tk m : Nat) : Walk (List Nat) := do
  match o.kind with
  | 0 =>
    match (if fmt = 0x06 then x.hdr else none) with
    | some h =>
      let va := slotAddr (o.base + BitVec.ofNat 64 n * o.bstr) h (h.tc * ti + tk)
      let bs ← readWith 0x70 s va (32 * h.slot)
      match decodeTile bs with
      | some es => return es
      | none => throw (.fault 0x74 va)
    | none => readElems s (fmtWidth fmt) (tileAddrs o n ti tk)
  | 1 =>
    let bs ← readWith 0x70 s (o.base + BitVec.ofNat 64 (256 * fmtWidth fmt * m)) (256 * fmtWidth fmt)
    return elemsIn (fmtWidth fmt) bs
  | _ =>
    match x.gram with
    | none => return List.replicate 256 0
    | some g =>
      (List.range 256).mapM fun e => do
        let a ← descend s ⟨g, false, none⟩ ((16 * ti + e / 16) * cols + 16 * tk + e % 16)
        termRaw s g a.sym

/-! ### The result (R399) -/

/-- Out tile (ti, tj) of batch `n` (R399): of the steps kt only those at which both blocks are present are taken, and only their tiles
are read. -/
def outTile (s : State) (x : Contraction) (n ti tj : Nat) : Walk (List Nat) := do
  let b := x.blk
  let c ← if b.acc then readElems s 4 (tileAddrs b.o n ti tj) else pure (List.replicate 256 0)
  (List.range (b.k / 16)).foldlM (fun c kt => do
    match ← blockAt s b.a b.i ti kt, ← blockAt s b.b b.k kt tj with
    | some ma, some mb =>
      let ta ← operandTile s x b.a x.fa b.k n ti kt ma
      let tb ← operandTile s x b.b x.fb b.j n kt tj mb
      return tileStep b.za x.fa x.fb c ta tb
    | _, _ => return c) c

/-- Elements of four bytes written at their addresses; the first that cannot be written. -/
def putElems (st : BitVec 8) : List (Word × Nat) → State → Walk State
  | [], s => pure s
  | (a, v) :: l, s =>
    match engBad s a 4 st with
    | some (_, f, b) => throw (.fault f b)
    | none => putElems st l (engPut a (bytesOfNat 4 v) s)

/-- Bytes of a failing tile or column are open (R399, log 12). -/
def openElems (as : List Word) (s : State) : State :=
  as.foldl (fun s a =>
    let (bs, s) := freeBytes 4 s
    engPut a bs s) s

/-- Whether a descent into row ti of a grammar sequence A passes a violation that it does not check for (R163). -/
def looseTiles (s : State) (x : Contraction) (ti : Nat) : Bool :=
  match x.gram with
  | none => false
  | some g =>
    (List.range (16 * x.blk.k)).any fun i =>
      match got (descend s ⟨g, false, none⟩ ((16 * ti + i / x.blk.k) * x.blk.k + i % x.blk.k)) with
      | .ok a => a.loose
      | .error _ => false

/-- A part of Out that fails is open. -/
def failOpen (as : List Word) : UnitRes → UnitRes
  | .stuck k t => .stuck k (openElems as t)
  | done => done

/-- One Out tile. -/
def tileUnit (x : Contraction) (i : Nat) (s : State) : UnitRes :=
  let b := x.blk
  let per := b.i / 16 * (b.j / 16)
  let n := i / per
  let ti := i % per / (b.j / 16)
  let tj := i % (b.j / 16)
  let as := tileAddrs b.o n ti tj
  let run : Walk State := do
    let c ← outTile s x n ti tj
    let t ← putElems 0x52 (as.zip c) s
    return if looseTiles s x ti then openElems as t else t
  failOpen as (unitOf run s)

/-- Column j of B in batch `n`, as fp32 values; an absent block reads as zeros. -/
def columnOf (s : State) (x : Contraction) (n j : Nat) : Walk (List Nat) := do
  let b := x.blk
  if b.b.kind = 0 then readElems s 4 ((List.range b.k).map fun k => denseAddr b.b n k j)
  else
    let ts ← (List.range (b.k / 16)).mapM fun kt => do
      match ← blockAt s b.b b.k kt (j / 16) with
      | none => return []
      | some m => operandTile s x b.b 0x01 b.j n kt (j / 16) m
    return ts.flatMap fun t => (List.range 16).map fun r => t.getD (16 * r + j % 16) 0

/-- A column of Out from the records of its products: the rows summed, and the column written (R399). -/
def columnRows (x : Contraction) (g : Gram) (tab : Table) (as : List Word) (s : State) : Walk State := do
  let ys ← (List.range g.rows).mapM fun r => gmvRowVal false g tab x.blk.stage r s
  let old ← if x.blk.acc then readElems s 4 as else pure []
  let t ← putElems 0x67 (as.zip (ys.mapIdx fun r y => if x.blk.acc then add32 (old.getD r 0) y.1 else y.1)) s
  return openElems (((as.zip ys).filter (·.2.2)).map (·.1)) t

/-- The columns of Out in order: the matvec of R173, every record rewritten before a row is summed; records that were rewritten before a
fault stay (R178, R399). The column of B is staged at the beginning of the staging area. -/
def columnUnit (x : Contraction) (g : Gram) (tab : Table) (i : Nat) (s : State) : UnitRes :=
  let b := x.blk
  let n := i / b.j
  let j := i % b.j
  let as := (List.range b.i).map fun r => denseAddr b.o n r j
  failOpen as (match unitOf (do
      let xs ← columnOf s x n j
      walkWrite b.stage (rowBytes xs) s) s with
    | .stuck k t => .stuck k t
    | .done t =>
      match runUnits (fun k s => unitOf (gmvRule false g tab b.stage (g.t + k) s) s) g.n 0 t with
      | (_, t, some k) => .stuck k t
      | (_, t, none) => unitOf (columnRows x g tab as t) t)

/-- How many parts a contraction has: Out tiles, or columns of a grammar matrix (R399). -/
def partCount (x : Contraction) : Nat :=
  if (x.gram.map (·.isMat)).getD false then x.blk.nb * x.blk.j else x.blk.nb * (x.blk.i / 16) * (x.blk.j / 16)

/-- Part `i` of a contraction (R399). -/
def partUnit (x : Contraction) (i : Nat) (s : State) : UnitRes :=
  match x.gram with
  | some g =>
    if g.isMat then
      match got (tableFor s g (x.blk.a.aux.toNat % 2 ^ 32) (bits x.blk.a.aux.toNat 32 7) liftMatvec) with
      | .error k => .stuck k s
      | .ok tab => columnUnit x g tab i s
    else tileUnit x i s
  | none => tileUnit x i s

/-- What GCON leaves open: its accumulator tile and the staging area (R398, log 12). -/
def gconLeaves (bank : Bool) (b : GBlock) (s : State) : State :=
  let (bs, s) := freeBytes 1024 s
  let s := setAcc bank b.accn (BitVec.ofNat 8192 (natOfBytes bs)) s
  let (bs, s) := freeBytes b.sz s
  engPut b.stage bs s

/-! ### Internal entries (R400; log 30) -/

/-- A range of `n` bytes at an address, as range locks name it (R133). -/
def rngAt (core : Nat) (va : Word) (n : Nat) (dst : Bool) : Rng := let lo := lockAddr core va; ⟨lo, lo + n, dst⟩

/-- The range that a dense operand of `rows` rows and `cols` columns takes in one batch. -/
def denseRng (core : Nat) (o : GOperand) (n rows cols : Nat) (dst : Bool) : Rng :=
  let last := if o.tr then (cols - 1) * o.ld + (rows - 1) else (rows - 1) * o.ld + (cols - 1)
  rngAt core (denseAddr o n 0 0) (fmtWidth o.fmt * (last + 1)) dst

/-- The ranges that an operand is read from in one batch: its grain buffer; its elements; its blocks and their index. A grammar takes
none (R376). -/
def operandRngs (s : State) (x : Contraction) (o : GOperand) (n rows cols : Nat) : List Rng :=
  let c := s.core.num
  if o.kind = 0 then
    match (if o.fmt = 0x06 then x.hdr else none) with
    | some h => [rngAt c (o.base + BitVec.ofNat 64 n * o.bstr) (32 + 32 * h.slot * h.tr * h.tc) false]
    | none => [denseRng c o n rows cols false]
  else if o.kind = 1 then
    let m := match got (walkNum s (o.aux + BitVec.ofNat 64 (rows / 4)) 4) with
      | .ok m => m
      | .error _ => 0
    [rngAt c o.base (256 * fmtWidth o.fmt * m) false, rngAt c o.aux (4 * (rows / 16 + 1 + m)) false]
  else []

/-- An internal entry to push: its queue, its operation, its ranges. -/
abbrev Inner := Queue × BitVec 8 × List Rng

/-- What stages an operand in the staging area: a CDEC for a grain buffer, a CPY for one that is stored otherwise; the walker itself
expands a grammar. -/
def stagingEntry (s : State) (x : Contraction) (o : GOperand) (n rows cols : Nat) : List Inner :=
  match operandRngs s x o n rows cols with
  | [] => []
  | rs => [(.cq, if o.kind = 0 ∧ o.fmt = 0x06 then 0x4A else 0x40, rs ++ [rngAt s.core.num x.blk.stage x.blk.sz true])]

/-- The internal entries of one part (R400; log 30): its operands are staged in CQ; in MQ the accumulator is cleared, or loaded from Out,
a transposed operand is turned, and the products are added and stored to Out. The walker itself does the products of a grammar matrix. -/
def partEntries (s : State) (x : Contraction) (i : Nat) : List Inner :=
  let b := x.blk
  let c := s.core.num
  let n := i / (partCount x / b.nb)
  let out := denseRng c b.o n b.i b.j
  let isMat := (x.gram.map (·.isMat)).getD false
  stagingEntry s x b.b n b.k b.j ++
    if isMat then []
    else
      stagingEntry s x b.a n b.i b.k
        ++ [if b.acc then (.mq, 0x03, [out false]) else (.mq, 0x00, [])]
        ++ (if b.a.tr || b.b.tr then [(.mq, 0x05, [])] else [])
        ++ [(.mq, 0x01, [rngAt c b.stage b.sz false]), (.mq, 0x04, [out true])]

/-- An internal entry (R400): it takes no sequence value, and writes no stamp. -/
def innerEntry (e : Entry) (opc : BitVec 8) (ord : Nat) : Entry :=
  { e with cmd := { e.cmd with opc := opc, ch := false, sw := false, otag := 0, ev := 0, d := 0, e := 0 }, st := .queued, seq := 0,
           ord := ord, frozen := none, inner := some e.ord, prog := 0 }

/-- One internal entry pushed, with the write-back and invalidation of its ranges that any issue makes (R215, R400). -/
def pushOne (e : Entry) (s : State) (i : Inner) : State :=
  let (q, opc, rs) := i
  let s := rs.foldl (fun s r => issueRange r s) s
  modCore (fun c => { c.setQueue q (c.queue q ++ [innerEntry e opc c.pushes]) with
    locks := c.locks ++ rs.map fun r => ⟨r.lo, r.hi, r.dst, e.bank, q, 0, c.pushes⟩
    pushes := c.pushes + 1 }) s

/-- The internal entries of the next part, pushed to the tails of MQ and CQ once these and the range-lock table have room (R400). -/
def pushInner (e : Entry) (x : Contraction) (s : State) : State :=
  let c := s.core
  let new := partEntries s x e.prog
  let room := fun (q : Queue) => (c.queue q).length + (new.filter fun i => i.1 == q).length ≤ Config.queueEntries
  if room .mq && room .cq && c.locks.length + (new.flatMap (·.2.2)).length ≤ Config.lockEntries then new.foldl (pushOne e) s else s

/-- The entries that a GCON has pushed and that have not gone. -/
def innersOf (c : Core) (ord : Nat) : List Entry := (c.mq ++ c.cq).filter fun y => y.inner == some ord

/-- The internal entries of a GCON go, with their range locks (R400). -/
def dropInner (ord : Nat) (s : State) : State :=
  let mine := (innersOf s.core ord).map (·.ord)
  modCore (fun c => { c with
    mq := c.mq.filter fun y => y.inner != some ord
    cq := c.cq.filter fun y => y.inner != some ord
    locks := c.locks.filter fun l => !mine.contains l.ord }) s

/-- Whether the internal entries run: those of each queue at its head, and clear of every earlier command (R134, R400). -/
def innerRuns (c : Core) (e : Entry) : Bool :=
  [Queue.mq, .cq].all fun q =>
    let mine := (c.queue q).filter fun y => y.inner == some e.ord
    mine.isEmpty || (((c.queue q).head?.map (·.inner)) == some (some e.ord) && mine.all fun y => !conflicts c q y false)

/-- The next part of a GCON: its internal entries retire, or are cancelled with what remains (R399, R400). -/
def runPart (e : Entry) (x : Contraction) : State → State := throughLoose e fun s =>
  match partUnit x e.prog s with
  | .stuck (.fault st tv) t => walkEnds e st tv (gconLeaves e.bank x.blk (dropInner e.ord t))
  | .stuck (.record _) t => t
  | .done t =>
    let t := dropInner e.ord t
    if partCount x ≤ e.prog + 1 then walkEnds e 0 0 (gconLeaves e.bank x.blk t)
    else pushInner { e with prog := e.prog + 1 } x (modEntry .gq e.ord (fun y => { y with prog := e.prog + 1 }) t)

/-- One step of a GCON: it reads its block; pushes the internal entries of its next part; or carries that part out. -/
def gconStep (e : Entry) (s : State) : State :=
  match e.frozen with
  | none =>
    let r := readBlock s e.cmd.a
    let s := noteReads (readsOf r) s
    match got r with
    | .error k => walkStops e k 0 s
    | .ok f => pushInner e (contractionOf f) (modEntry .gq e.ord (fun y => { y with frozen := some f }) s)
  | some f =>
    let x := contractionOf f
    if (innersOf s.core e.ord).isEmpty then pushInner e x s
    else if innerRuns s.core e then runPart e x s
    else s

/-- GCON (R398 to R400). -/
def execGcon (bank : Bool) (seq : Nat) (s : State) : Out :=
  match findEntry s.core .gq bank seq with
  | none => .next s
  | some e =>
    if e.st != .flight || e.cancelled || e.cmd.opc.toNat != 0x87 || !enginesGo s then .next s else .next (creditBank e.bank s (gconStep e s))

/-! ### Waits for records (R167) -/

/-- The work of a walker command by its opcode; a GCON waits for no record. -/
def prepOf (opc : Nat) : Entry → State → Walk Job :=
  match opc with
  | 0x80 => gevalPrep
  | 0x81 => gfetchPrep
  | 0x82 => gprefPrep
  | 0x83 => gexpPrep
  | 0x84 => gmvPrep
  | 0x85 => gvmPrep
  | _ => grotPrep

/-- The walker command that waits for a record. -/
def waitingEntry (s : State) : Option (Entry × RecWait) :=
  s.core.gq.findSome? fun e => if e.st == .flight then e.recWait.map fun w => (e, w) else none

/-- A waiting command reads its record again: it is carried on, or, where the record is not valid still, does as `still` says (R167). -/
def rereadRecord (still : Entry → RecWait → State → State) (e : Entry) (w : RecWait) (s : State) : State :=
  creditBank e.bank s (
    let t := carryOn (prepOf e.cmd.opc.toNat) e s
    if (waitingEntry t).any (fun x => x.1.ord == e.ord && x.2.sym == w.sym) then still e w (countRecv (countSent s)) else t)

/-- WALKER_RECORD_POLL (R167): the record is read again, at most once every 64 core cycles. -/
def execWalkerRecordPoll (s : State) : Out :=
  match waitingEntry s with
  | none => .next s
  | some (e, w) =>
    if s.core.cycles < w.polled + 64 || !enginesGo s then .next s
    else .next (rereadRecord (fun e w s => modEntry .gq e.ord (fun x => { x with recWait := some { w with polled := s.core.cycles } }) s) e w s)

/-- WALKER_RECORD_TIMEOUT (R167): 2^24 core cycles have passed without a valid record. -/
def execWalkerRecordTimeout (s : State) : Out :=
  match waitingEntry s with
  | none => .next s
  | some (e, w) =>
    if s.core.cycles < w.since + 2 ^ 24 || !enginesGo s then .next s
    else .next (rereadRecord (fun e w s => walkEnds e 0x65 (BitVec.ofNat 64 w.sym) s) e w s)

end Sys2Proof.Machine
end

