-- ==== Sys2Proof/Machine/Control.lean ====
section
/-! DEFINITION. Control commands: QNOP, QSTAMP, QARR, QWAIT and QSIG, which the sequencers carry out (R122, R401). -/

namespace Sys2Proof.Machine

/-- The status of a target that a control command cannot reach (R378, R401). -/
def targetFault : Queue → BitVec 8
  | .mq => 0x5F | .cq => 0x7F | .gq => 0x6F

/-- The queue in which a control command with a bank and a sequence value can act now: sequence values are counted for each
queue apart, so the first of MQ, CQ and GQ that has one is taken. -/
def controlAt (s : State) (opc : BitVec 8) (bank : Bool) (seq : Nat) (p : Queue → Entry → Bool) : Option (Queue × Entry) :=
  [Queue.mq, Queue.cq, Queue.gq].findSome? fun q =>
    match findEntry s.core q bank seq with
    | some e => if e.cmd.opc = opc && p q e then some (q, e) else none
    | none => none

/-- A control command that has been dispatched. -/
def inFlight (_ : Queue) (e : Entry) : Bool := e.st == .flight && !e.cancelled

/-- A control command whose work is done. -/
def controlDone (q : Queue) (e : Entry) (st : BitVec 8) (tval : Word) (s : State) : State :=
  modEntry q e.ord (fun x => { x with st := .worked, status := st, tval := tval }) s

/-- QNOP (R401): nothing. -/
def execQnop (bank : Bool) (seq : Nat) (s : State) : Out :=
  match controlAt s 0xC0 bank seq inFlight with
  | some (q, e) => .next (controlDone q e 0 0 s)
  | none => .next s

/-- What a release of the sequencer brings forward: lines that an earlier release of the core made owed (R215, R401). -/
def sequencerRelease (s : State) : State := writeBackWhere (fun l => l.owed.isSome) s

/-- QSTAMP (R401): the commands of QM have retired at its dispatch; its stamp, a release that covers what is hb-before their
completions, is written at its retirement, once the lines owed to earlier releases have been written back and performed. -/
def execQstamp (bank : Bool) (seq : Nat) (s : State) : Out :=
  match controlAt s 0xC1 bank seq inFlight with
  | none => .next s
  | some (q, e) =>
    let t := sequencerRelease s
    .next (if enginesGo t then controlDone q e 0 0 t else t)

/-- QARR (R62, R217, R255, R401): it arrives, as BARR does, once the core has no arrival of the current episode on the channel, every
dirty shared byte of the core has been written back and performed, and every earlier store performed or recorded; that of a bank that a checkpoint has stopped stays queued until the bank resumes. -/
def execQarr (bank : Bool) (seq : Nat) (s : State) : Out :=
  match controlAt s 0xC2 bank seq inFlight with
  | none => .next s
  | some (q, e) =>
    let k := BitVec.ofNat 3 e.cmd.a.toNat
    let t := writeBackShared s
    if arrivedAt s.core k || (s.core.bankOf bank).stopped then .next s
    else if !enginesGo t || !noneLate t.core then .next t
    else
      let launch := ((s.core.bankOf bank).bound.map (·.launch)).getD 0
      .next (controlDone q e 0 0 (raiseArrival bank k launch (e.cmd.b.getLsbD 0) .plain t))

/-- The condition of QWAIT (R373): ge, eq or ne. -/
def waitCond (c : Cmd) : MonCond :=
  match bits c.flags.toNat 0 2 with
  | 0 => .ge | 1 => .eq | _ => .ne

/-- A QWAIT's wait ends: it is dispatched, with its work done. -/
def endQwait (q : Queue) (e : Entry) (st : BitVec 8) (s : State) : State := controlDone q e st e.cmd.a (dispatchEntry q e s)

/-- An access of a sequencer at its place: a request and its answer (R28, R257, log 88), which a slice counts as a read of the line
(R148, R154). -/
def seqAccess (p : Place) (s : State) : State :=
  if p.loc == .own then s
  else
    let line := lineOf p.key
    let t := countRecv (countSent (visitLine line s))
    if p.loc == .dram && inSlice p then enterReadAt (homeSlice p.key) line (placing p .dflt) (dieOf s.core.num) none t else t

/-- QWAIT (R127, R314, R401): at the head of its queue it reads its word, as a monitor wait reads it; the read that meets the
condition dispatches it. The core's own dirty bytes of the line go home first (R142), and a line that a release is recorded
against is flushed first (R141). -/
def execQwait (bank : Bool) (seq : Nat) (s : State) : Out :=
  match controlAt s 0xC3 bank seq fun q e => seqHead s.core q == some e && mayDispatch s.core q e with
  | none => .next s
  | some (q, e) =>
    match engPlace s e.cmd.a 8 .read with
    | .error c => .next (endQwait q e (engStatus (targetFault q) c) s)
    | .ok p =>
      if p.loc = .host then .next (endQwait q e (targetFault q) s)
      else if needsFlush s (lineOf p.key) then
        match sliceOfKey p.key with
        | some sl => .next (startFlush sl (lineOf p.key) s)
        | none => .next s
      else if poisoned s p.key 8 then .next (endQwait q e 0x25 s)
      else
        let t := flushOwn p s
        if p.loc != .own && behind t (lineOf p.key) then .next t
        else
          let v := BitVec.ofNat 64 (memNat t.mem p.key 8)
          .next (if (waitCond e.cmd).holds v e.cmd.b then creditBank bank s (endQwait q e 0 (seqAccess p t)) else t)

/-- QSIG (R212, R334, R401): one indivisible add at its place; a line with replicas is held first (R154). -/
def execQsig (bank : Bool) (seq : Nat) (s : State) : Out :=
  match controlAt s 0xC4 bank seq inFlight with
  | none => .next s
  | some (q, e) =>
    match engPlace s e.cmd.a 8 .amo with
    | .error c => .next (controlDone q e (engStatus (targetFault q) c) e.cmd.a s)
    | .ok p =>
      let t := flushOwn p (sequencerRelease s)
      if !enginesGo t then .next t
      else if lineHeld t (lineOf p.key) then .next (holdRmw (lineOf p.key) t)
      else if poisoned t p.key 8 then .next (controlDone q e 0x25 e.cmd.a t)
      else
        let v := (memNat t.mem p.key 8 + e.cmd.b.toNat) % 2 ^ 64
        let u := performNow (placing p .dflt) p.key (bytesOfNat 8 v) (if p.loc == .own then t else countRecv (countSent (visitLine (lineOf p.key) t)))
        .next (creditBank bank s (controlDone q e 0 0 (if p.loc == .dram then refreshL1 p.key (bytesOfNat 8 v) u else u)))

end Sys2Proof.Machine
end

