-- ==== Sys2Proof/Machine/Swaps.lean ====
section
/-! DEFINITION. The swap of a core's banks and the spill and fill of register slots (R101 to R105, R118, R254, R342). -/

namespace Sys2Proof.Machine

/-- SHADOW_SWAP (R101): a launch of higher class has been bound into the shadow bank, and the core stands at an instruction
boundary; or the core has left the active bank's stage already. -/
def execShadowSwap (s : State) : Out :=
  let c := s.core
  if c.priv == .u && c.swap.isNone && c.fresh == some c.shadow.num && holdsLaunch c.shadow && !c.shadow.stopped
      && (!holdsLaunch c.bank || prioOf c.bank < prioOf c.shadow)
  then .next (beginSwap false s) else .next s

/-- Cycles of a swap (R101). -/
def swapCycles : Nat := 24

/-- Halts that arrived during a swap take effect when it is complete, and their records carry SWAP (R102). -/
def swapHalts (ms : List HaltMsg) (s : State) : State :=
  ms.foldl (fun s m => match bankOfLaunch s.core m.launch with
    | none => s
    | some b => haltBank b m true s) s

/-- The banks have changed places, and the bank that is active now is no longer fresh; a spill that its bank's return has
overtaken ends without effect (R101, R104). -/
def settleSwap (mwait : Bool) (c : Core) : Core :=
  { c with swap := none, cycles := c.cycles + swapCycles, mwsw := mwait, mwFrom := c.cycles + swapCycles
           fresh := if c.fresh = some c.bank.num then none else c.fresh
           spilling := if c.spilling = some c.bank.num then none else c.spilling }

/-- SWAP_COMPLETE (R102, R258): the banks change places, and what arrived for either during the swap takes effect. -/
def execSwapComplete (s : State) : Out :=
  match s.core.swap with
  | none => .next s
  | some w =>
    if w.fill then .next s
    else
      let t := swapHalts w.halts (modCore (settleSwap w.mwait) (exchangeBanks s))
      .next (w.fatal.foldl (fun t x => fatalStopAt t.core.num x.1 x.2 t) t)

/-! ### The yield event (R104) -/

/-- Every context of the active bank has waited longer than WAIT cycles. -/
def allWaited (c : Core) : Bool :=
  let l := (c.ctxsOf c.bank.num).filter Ctx.live
  !l.isEmpty && l.all fun x => match x.st with
    | .waiting _ => c.bank.dyield.toNat < c.cycles - x.since
    | _ => false

/-- Code of the yield event in mcause (log 9): the spec gives none. -/
def yieldCause : Word := 0x8000000000000010

/-- YIELD_EVENT (R104): M-mode firmware is entered, in the control context where the current one has ended. -/
def execYieldEvent (s : State) : Out :=
  let c := s.core
  if c.bank.dyield != 0 && c.priv == .u && !c.yev && c.swap.isNone && !c.bank.stopped && !c.bank.dead && allWaited c
      && holdsLaunch c.shadow && !c.shadow.stopped && c.shadow.ctxs.any (fun x => x.st == .ready)
  then
    let s := if c.cx.live then s else modCore (selectCtx 0) s
    .next (modCore (fun c => { enterM yieldCause 0 c with yev := true }) s)
  else .next s

/-! ### Spill and fill (R104, R118, R342) -/

/-- Registers as little-endian bytes. -/
def regBytes (l : List Word) : List Byte := l.flatMap fun w => bytesOfNat 8 w.toNat

/-- The 5,120 bytes of a register-region slot (R118); from byte 4,928 on eight doublewords in the order in which R118 names
them, then zeros. -/
def slotImage (c : Ctx) : List Byte :=
  regBytes ((c.x.set 0 0).toList ++ c.f.toList) ++ c.v.toList.flatMap (vBytes 128)
    ++ (c.p.set 0 (-1)).toList.flatMap (fun p => bytesOfNat 16 p.toNat)
    ++ recsImage c
    ++ regBytes [c.pc, (c.frm ++ c.fflags).zeroExtend 64, c.dtvec, c.dtpc, c.dtcause, c.dtval, dtstatOf c, BitVec.ofNat 64 c.recs.length]
    ++ List.replicate 128 0

/-- Doubleword `i` of a slot in memory. -/
def slotWord (m : List Host.Cell) (a i : Nat) : Word := BitVec.ofNat 64 (memNat m (a + 8 * i) 8)

/-- Record `i` of a slot's record queue in memory (R118, R248); whether its count has been taken stands in no slot, and is kept. -/
def slotRec (m : List Host.Cell) (a : Nat) (c : Ctx) (i : Nat) : Rec :=
  let w := fun (j : Nat) => slotWord m a (584 + 4 * i + j)
  { va := w 0, data := w 1, pc := w 2, cause := (w 3).extractLsb' 0 8, size := (w 3).extractLsb' 8 4, src := (w 3).extractLsb' 12 2,
    queue := (w 3).extractLsb' 14 2, status := (w 3).extractLsb' 16 8, icount := (w 3).extractLsb' 32 32,
    fixed := ((c.recs[i]?).map (·.fixed)).getD false }

/-- A context filled from its slot in memory: registers, pc, fcsr, the trap CSRs and the record queue; HM is a bit of dtstat (R118,
R242). -/
def fillCtx (m : List Host.Cell) (a : Nat) (c : Ctx) : Ctx :=
  let fcsr := slotWord m a 617
  let st := slotWord m a 622
  { c with
    x := Vector.ofFn fun i => slotWord m a i
    f := Vector.ofFn fun i => slotWord m a (32 + i)
    v := Vector.ofFn fun i => BitVec.ofNat 1024 (memNat m (a + 512 + 128 * i) 128)
    p := Vector.ofFn fun i => BitVec.ofNat 128 (memNat m (a + 4608 + 16 * i) 16)
    pc := slotWord m a 616
    fflags := fcsr.extractLsb' 0 5
    frm := fcsr.extractLsb' 5 3
    dtvec := slotWord m a 618
    dtpc := slotWord m a 619
    dtcause := slotWord m a 620
    dtval := slotWord m a 621
    dtstat := st &&& ~~~0x3F#64
    hm := st.getLsbD 4
    recs := (List.range (min Config.recordSlots (slotWord m a 623).toNat)).map (slotRec m a c) }

/-- SPILL_COMPLETE (R104): the registers of the outgoing bank stand in its save area, and its slots are free. DESIGN CHOICE (log
55): SHSWAP tests BASE = 0, and BASE is read again here and at the fill, so a value that firmware writes in between is the area
used; the spec does not say when a spill samples it. -/
def execSpillComplete (s : State) : Out :=
  let c := s.core
  match c.spilling with
  | none => .next s
  | some b =>
    if c.swap.isSome || c.shadow.num != b then .next s
    else
      let base := saveArea c b
      let s := if saveOk base then
          (c.ctxsOf b).foldl (fun s x => perform (saveSlot base x.id) (slotImage x) s) s
        else s
      .next (modCore (fun c => { c with spilling := none, shadow := { c.shadow with spilled := true, slotsFreed := true } }) s)

/-- FILL_COMPLETE (R104): the bank that is to become active is filled from its save area, and the swap follows. -/
def execFillComplete (s : State) : Out :=
  match s.core.swap with
  | none => .next s
  | some w =>
    if !w.fill then .next s
    else
      let c := s.core
      let base := saveArea c c.shadow.num
      let fill := fun (x : Ctx) => if saveOk base then fillCtx s.mem (saveSlot base x.id) x else x
      .next (modCore (fun c => { c with
        swap := some { w with fill := false }
        shadow := { c.shadow with ctxs := c.shadow.ctxs.map fill, spilled := false, slotsFreed := false } }) s)

end Sys2Proof.Machine
end

