-- ==== Sys2Proof/Machine/Offers.lean ====
section
/-! DEFINITION. Offer trees and multicast (R24, R25, R43 to R57, R216, R300, R328 to R332): the shape of the trees, readiness,
steering, parking, the resend buffer, and the instructions that send and take messages. -/

namespace Sys2Proof.Machine

/-! ### The shape of the trees (R25, R43) -/

/-- Side in twigs of the extents of a level up to 6 (R25). -/
def side (lvl : Nat) : Nat := 2 ^ (lvl - 1)

/-- North-west twig of the extent of a level that holds a twig (R25). -/
def nwTwig (lvl t : Nat) : Nat :=
  if 7 ≤ lvl then 0 else twigAt (twigX t / side lvl * side lvl) (twigY t / side lvl * side lvl)

/-- The node of the extent of a level that holds a twig (R43). -/
def nodeAt (lvl t : Nat) : NodeId :=
  if 7 ≤ lvl then ⟨7, twigAt 47 31⟩
  else if lvl ≤ 1 then ⟨1, t⟩
  else
    let w := side lvl
    ⟨lvl, twigAt (twigX t / w * w + w / 2 - 1) (twigY t / w * w + w / 2 - 1)⟩

/-- Children of a node: 6 at level 7, else 4 (R43). -/
def kids (lvl : Nat) : Nat := if lvl = 7 then 6 else 4

/-- The number, at its parent, of the child extent that holds a twig, the parent being at level `lvl` (R48). -/
def kidNo (lvl t : Nat) : Nat :=
  if lvl = 7 then 3 * (twigY t / 32) + twigX t / 32
  else let h := side lvl / 2; 2 * (twigY t / h % 2) + twigX t / h % 2

/-- The child node with a number, of a node above level 1 (R43, R48). -/
def kidNode (id : NodeId) (c : Nat) : NodeId :=
  if id.level = 7 then nodeAt 6 (twigAt (32 * (c % 3)) (32 * (c / 3)))
  else
    let h := side id.level / 2
    let nw := nwTwig id.level id.twig
    nodeAt (id.level - 1) (twigAt (twigX nw + h * (c % 2)) (twigY nw + h * (c / 2)))

/-- The parent of a node (R43). -/
def parentOf (id : NodeId) : NodeId := nodeAt (id.level + 1) id.twig

/-- Whether a node lies in the extent of a group (R44). -/
def inExtent (g : Group) (id : NodeId) : Bool := id.level ≤ g.level && nodeAt g.level id.twig == g.root

/-! ### Groups and nodes -/

/-- The group with a number (R44). -/
def group? (s : State) (g : Nat) : Option Group := s.fab.groups.find? fun x => x.num == g

/-- Changes a group. -/
def modGroup (g : Nat) (f : Group → Group) (s : State) : State :=
  modFab (fun b => { b with groups := b.groups.map fun x => if x.num = g then f x else x }) s

/-- A node that nothing has touched. -/
def nodeReset (id : NodeId) : Node := ⟨id, [], [], [], []⟩

/-- The node with an id. -/
def getNode (s : State) (id : NodeId) : Node := (s.fab.nodes.find? fun n => n.id == id).getD (nodeReset id)

/-- Changes the node with an id. -/
def modNode (id : NodeId) (f : Node → Node) (s : State) : State :=
  let n := f (getNode s id)
  modFab (fun b => { b with nodes := n :: b.nodes.filter fun x => x.id != id }) s

/-- A node's entry for a group: all counts and the pointer 0 when nothing has changed them (R48). -/
def Node.ent (n : Node) (g : Nat) : GroupEnt :=
  (n.ents.find? fun e => e.group == g).getD ⟨g, List.replicate (kids n.id.level) 0, 0⟩

/-- Sets a node's entry. -/
def Node.setEnt (n : Node) (e : GroupEnt) : Node := { n with ents := e :: n.ents.filter fun x => x.group != e.group }

/-- The sum of a node's counts for a group (R48). -/
def nodeSum (s : State) (id : NodeId) (g : Nat) : Nat := ((getNode s id).ent g).counts.sum

/-- A total leaves for a node; several within the time of an update arrive as one (R47). -/
def pushUpdate (u : Update) (s : State) : State :=
  modFab (fun f =>
    let old := f.updates.filter fun x => !(x.node == u.node && x.group == u.group && x.child == u.child)
    { f with updates := old ++ [u] }) s

/-- An entry changes; a total that changes with it leaves for the parent, below the root (R47). -/
def setEntry (gr : Group) (id : NodeId) (e : GroupEnt) (s : State) : State :=
  let old := nodeSum s id gr.num
  let t := modNode id (·.setEnt e) s
  let new := e.counts.sum
  if old = new ∨ id = gr.root then t
  else pushUpdate ⟨parentOf id, gr.num, kidNo (id.level + 1) id.twig, min 255 new⟩ t

/-- A child's count takes the total it sent (R47, R50). -/
def setCount (gr : Group) (id : NodeId) (c total : Nat) (s : State) : State :=
  let e := (getNode s id).ent gr.num
  setEntry gr id { e with counts := e.counts.set c (min 255 total) } s

/-- A message leaves a node's router for another node (R48). -/
def sendNode (src : Nat) (dst : NodeId) (down : Bool) (m : Msg) (s : State) : State :=
  inject ⟨.msg, src, dst.twig, .toNode dst down m⟩ s

/-! ### Messages (R300) -/

/-- The header doubleword of a message (R300). -/
def headerOf (m : Msg) : Nat :=
  m.group % 2 ^ 12 + 2 ^ 12 * (m.sender % 2 ^ 15) + 2 ^ 27 * m.seq.toNat + 2 ^ 43 * (m.bounce % 16)
    + 2 ^ 47 * m.ord.toNat + 2 ^ 48 * m.rel.toNat

/-- The 64 bytes of a message: payload, then header (R300). -/
def msgBytes (m : Msg) : List Byte := bytesOfNat 56 m.payload.toNat ++ bytesOfNat 8 (headerOf m)

/-! ### Parking (R51, R52) -/

/-- Messages that a home ring holds (R53). -/
def ringSize (g : Group) : Nat := (4096 * (g.size + 1) - 64) / 64

/-- Park slots of a root node (R51). -/
def parkSlots : Nat := 32

/-- A message parks in a slot, or in the home ring, or waits at the root for a resend entry (R51, R52). -/
def park (gr : Group) (m : Msg) (s : State) : State :=
  let g := (group? s gr.num).getD gr
  if g.ring.isEmpty && (getNode s g.root).parks.length < parkSlots then
    modNode g.root (fun n => { n with parks := n.parks ++ [m] }) s
  else if g.ring.length < ringSize g then
    let s := perform (scratchKey g.slice (g.home + 64 + 64 * g.tail)) (msgBytes m) s
    let s := modGroup g.num (fun x => { x with ring := x.ring ++ [m], tail := (x.tail + 1) % ringSize x }) s
    modNode g.root (fun n => { n with rings := n.rings ++ [g.num] }) s
  else modGroup g.num (fun x => { x with waiting := x.waiting ++ [m] }) s

/-- The slot at HEAD of a home ring has left [HEAD, TAIL), and its contents are open (R53, log 12). -/
def openSlot (g : Nat) (s : State) : State :=
  match group? s g with
  | none => s
  | some x =>
    let (bs, s) := freeBytes 64 s
    perform (scratchKey x.slice (x.home + 64 + 64 * x.head)) bs s

/-- The oldest message of a home ring leaves it. -/
def ringPop (root : NodeId) (g : Nat) (s : State) : State :=
  modNode root (fun n => { n with rings := n.rings.erase g })
    (modGroup g (fun x => { x with ring := x.ring.drop 1, head := (x.head + 1) % ringSize x }) (openSlot g s))

/-- A freed park slot takes the message appended earliest among the heads of the home rings (R51). -/
def refill (root : NodeId) (s : State) : State :=
  match (getNode s root).rings with
  | [] => s
  | g :: _ =>
    match (group? s g).bind fun x => x.ring.head? with
    | none => s
    | some m => modNode root (fun n => { n with parks := n.parks ++ [m] }) (ringPop root g s)

/-- The oldest parked message of a group leaves its place (R51). -/
def unpark (gr : Group) (s : State) : Option (Msg × State) :=
  match (getNode s gr.root).parks.find? fun m => m.group == gr.num with
  | some m => some (m, refill gr.root (modNode gr.root (fun n => { n with parks := n.parks.erase m }) s))
  | none =>
    match (group? s gr.num).bind fun x => x.ring.head? with
    | some m => some (m, ringPop gr.root gr.num s)
    | none => none

/-! ### Steering (R48, R50) -/

/-- The first child after the pointer whose count is above 0 (R48). -/
def pick (e : GroupEnt) : Option Nat :=
  let k := e.counts.length
  ((List.range k).map fun i => (e.rrptr + 1 + i) % k).find? fun c => 0 < e.counts.getD c 0

/-- A message goes down to a child (R48). -/
def forward (id : NodeId) (c : Nat) (m : Msg) (s : State) : State :=
  if id.level ≤ 1 then inject ⟨.msg, id.twig, id.twig, .toCore (4 * id.twig + c) m⟩ s
  else sendNode id.twig (kidNode id c) true m s

/-- A bounce raises the count, saturating at 15 (R50). -/
def Msg.bounced (m : Msg) : Msg := { m with bounce := min 15 (m.bounce + 1) }

/-- A node steers a message (R48, R50): to a child with readiness, reserved at once; else it parks at the root, returns to
the parent it came from as a bounce, or climbs. -/
def steer (gr : Group) (id : NodeId) (down : Bool) (m : Msg) (s : State) : State :=
  if !inExtent gr id then sendNode id.twig gr.root false m s
  else
    let e := (getNode s id).ent gr.num
    match pick e with
    | some c =>
      forward id c m (setEntry gr id { e with rrptr := c, counts := e.counts.set c (e.counts.getD c 0 - 1) } s)
    | none =>
      if id = gr.root then park gr m s
      else
        let p := parentOf id
        if down then inject ⟨.msg, id.twig, p.twig, .bounce p (kidNo p.level id.twig) 0 m.bounced⟩ s
        else sendNode id.twig p false m s

/-- While the root's sum is above 0, the oldest parked message is released and steered (R51). -/
def releaseParked (gr : Group) : (fuel : Nat) → State → State
  | 0, s => s
  | n + 1, s =>
    if nodeSum s gr.root gr.num = 0 then s
    else match unpark gr s with
      | none => s
      | some (m, t) => releaseParked gr n (steer gr gr.root true m t)

/-- Releases of a root: at most as many as its sum. -/
def releaseRoot (gr : Group) (s : State) : State := releaseParked gr (nodeSum s gr.root gr.num) s

/-- OFFER_STEER (R48, R50, R51): the node takes its oldest message. A bounce replaces the child's count first; a message
that has bounced 8 times parks at the root. A message of a deleted group is discarded (R55). -/
def execOfferSteer (node : NodeId) (s : State) : Out :=
  match (getNode s node).inq with
  | [] => .next s
  | i :: rest =>
    let s := modNode node (fun n => { n with inq := rest }) s
    match group? s i.msg.group with
    | none => .next s
    | some gr =>
      let root := node == gr.root
      let s := match i.bounced with
        | some (c, total) =>
          let s := setCount gr node c total s
          if root then modGroup gr.num (fun x => { x with bounces := x.bounces + 1 }) s else s
        | none => s
      let t :=
        if 8 ≤ i.msg.bounce && (root || i.bounced.isSome) then
          if root then park gr i.msg s else sendNode node.twig gr.root false i.msg s
        else steer gr node i.down i.msg s
      .next (wakeStores i.msg.sender (if root then releaseRoot gr t else t))

/-- READINESS_UPDATE (R47, R51): a child's total arrives at a node. DESIGN CHOICE (log 76): a total of a core that STGBIND has moved
to a stage whose group's extent, fixed when the group was created, does not hold it is dropped at the node. -/
def execReadinessUpdate (node : NodeId) (s : State) : Out :=
  match s.fab.updates.find? fun u => u.node == node with
  | none => .next s
  | some u =>
    let s := modFab (fun f => { f with updates := f.updates.erase u }) s
    match group? s u.group with
    | none => .next s
    | some gr =>
      if !inExtent gr node then .next s
      else
        let t := setCount gr node u.child u.total s
        .next (if node = gr.root then releaseRoot gr t else t)

/-! ### Arrival of packets (R27, R28) -/

/-- Whether a packet is a multicast copy of a core. -/
def isCopyOf (n : Nat) (p : Packet) : Bool :=
  match p.body with
  | .toCore _ m => m.group == 0xFFF && m.sender == n
  | _ => false

/-- The twig router holds no multicast of a core any more: its copies have left it (R332). -/
def msendFree (n : Nat) (s : State) : State :=
  if s.fab.net.any (isCopyOf n) then s
  else modCoreAt n (fun c => wakeCore (fun _ _ w => w == .msend) { c with msendBusy := false }) s

/-- Multicast copies that a twig router holds for its cores (R57). -/
def copiesHeld (s : State) (twig : Nat) : Nat :=
  ((List.range 4).map fun c => ((getCore s (4 * twig + c)).arrivals.filter fun m => m.group == 0xFFF).length).sum

/-- Copies that a twig router holds at most (R57). -/
def copySlots : Nat := 4

/-- Whether a destination takes a packet: a twig router with no place for a multicast copy holds it back, with what follows it on its
route (R57); a slice takes a request once it holds credit for the reply (R28). -/
def accepts (s : State) (p : Packet) : Bool :=
  match p.body with
  | .toCore n m => m.group != 0xFFF || copiesHeld s (twigOf n) < copySlots
  | .ask _ _ => p.cls != .req || (s.fab.net.filter fun q => q.cls == .rsp && q.src == p.dst).length ≤ Config.rspCredit p.dst
  | _ => true

/-- A packet on the wire of a peer's connection (R78). -/
def wire (conn : Nat) (p : PeerPkt) (s : State) : State := modIo (fun o => { o with sentPkts := o.sentPkts ++ [(conn, p)] }) s

/-- A packet delivered to a core counts in a bank's PRECV (R257). -/
def recvAtBank (n : Nat) (b : Bool) (s : State) : State :=
  modCoreAt n (·.modBankOf b fun k => { k with counts := { k.counts with precv := k.counts.precv + 1 } }) s

/-- The bank of a core that a packet of an offer group counts for: the one that holds the group's launch, else the active one (DESIGN
CHOICE, log 89). -/
def groupBank (s : State) (n g : Nat) : Bool :=
  let c := getCore s n
  match (group? s g).bind fun x => bankOfLaunch c x.launch with
  | some b => b
  | none => c.bank.num

/-- A slice's answer, or another place's, reaches the context that waits for it; one to an earlier access is not kept (R99, R151, log
6). -/
def takeReply (w : Asker) (got : Option (Nat × BitVec 1024)) (s : State) : State :=
  let keep := fun (x : Ctx) => if w.tag = some x.asks then { x with got := x.got ++ got.toList } else x
  wakeStores w.core (recvAtBank w.core w.bank (modCoreAt w.core (·.modCtx w.bank w.ctx keep) s))

/-- A core's acknowledgment of a flush request reaches the slice (R141). -/
def takeFlushed (core line slice : Nat) (s : State) : State :=
  modSlice slice (fun x => { x with
    flushes := x.flushes.map fun f => if f.line = line then { f with cores := f.cores.filter fun c => c != core } else f }) s

/-- What a packet does where it arrives. A request enters its slice, or is answered by the owning core's router; one to the host waits
there for the host's answer, and a transfer for its drive's (R74, R77, R99, R148). -/
def deliverPacket (p : Packet) (s : State) : State :=
  match p.body with
  | .toNode id down m => modNode id (fun n => { n with inq := n.inq ++ [⟨m, down, none⟩] }) s
  | .bounce id c total m => modNode id (fun n => { n with inq := n.inq ++ [⟨m, false, some (c, total)⟩] }) s
  | .toCore n m =>
    let s := modCoreAt n (fun c => { c with arrivals := c.arrivals ++ [m] }) s
    if m.group = 0xFFF then msendFree m.sender s else s
  | .returned n m =>
    modFab (fun f => { f with resend := f.resend ++ [⟨twigOf n, n, { m with bounce := 0 }, true, s.pkg.nclk⟩] }) s
  | .ask w (some (line, how)) => enterReadAt p.dst line how (dieOf w.core) (some w) s
  | .ask w none => if p.cls = .ext then modIo (fun o => { o with asked := o.asked ++ [(w, p.dst)] }) s
      else inject ⟨.rsp, p.dst, p.src, .reply w none⟩ s
  | .reply w got => takeReply w got s
  | .wrote n => wakeStores n (recvAtBank n (getCore s n).bank.num s)
  | .flushed n line slice => takeFlushed n line slice s
  | .peer conn pkt => wire conn pkt s
  | .receipt _ _ _ | .flush _ _ _ | .write _ _ | .hostStore _ _ _ _ | .piece _ => s

/-- PACKET_ARRIVAL (R27): the first packet of a class on a route is delivered once its route is open (R31, R33) and its destination
takes it. A receipt, a flush request and a write are delivered by OFFER_RECEIPT, FLUSH_REQUEST and WRITEBACK_MERGE. -/
def execPacketArrival (cls : TClass) (src dst : Nat) (s : State) : Out :=
  match s.fab.net.find? fun p => p.cls == cls && p.src == src && p.dst == dst with
  | none => .next s
  | some p =>
    match p.body with
    | .receipt _ _ _ | .flush _ _ _ | .write _ _ => .next s
    | _ => if pathOpen s src dst && accepts s p then .next (deliverPacket p (takePacket p s)) else .next s

/-! ### At the core (R46, R48, R57) -/

/-- A message placed in the core's inbox; contexts that wait for its group become ready. -/
def intoInbox (m : Msg) (s : State) : State :=
  let s := recvAtBank s.core.num (groupBank s s.core.num m.group) (modCore (fun c => { c with inbox := c.inbox ++ [m] }) s)
  wakeStores m.sender (wake (fun _ _ w => w == .take m.group) s)

/-- OFFER_DELIVER (R48, R50): readiness falls and the message enters the inbox, or it bounces. -/
def execOfferDeliver (s : State) : Out :=
  match s.core.arrivals.find? fun m => m.group != 0xFFF with
  | none => .next s
  | some m =>
    let n := s.core.num
    let s := modCore (fun c => { c with arrivals := c.arrivals.erase m }) s
    let r := readinessOf s.core m.group
    if r = 0 then .next (bounceFrom n m.bounced s)
    else .next (intoInbox m (setReadiness n m.group (r - 1) s))

/-- MSEND_COPY_DELIVER (R57): a copy takes an inbox slot that no readiness promises, or goes on waiting. -/
def execMsendCopyDeliver (s : State) : Out :=
  match s.core.arrivals.find? fun m => m.group == 0xFFF with
  | none => .next s
  | some m =>
    if readySum s.core + s.core.inbox.length < Config.inboxSlots then
      .next (intoInbox m (modCore (fun c => { c with arrivals := c.arrivals.erase m }) s))
    else .next s

/-! ### The resend buffer and the tracker (R52, R54, R216) -/

/-- Entries of a twig's resend buffer (R52). -/
def resendSlots : Nat := 16

/-- Entries in use, with those granted to returns on their way (R52). -/
def resendUsed (s : State) (twig : Nat) : Nat :=
  let coming := fun (p : Packet) => match p.body with
    | .returned n _ => twigOf n == twig
    | _ => false
  (s.fab.resend.filter fun r => r.twig == twig).length + (s.fab.net.filter coming).length

/-- OFFER_RETURN (R52): a message that found park slots and home ring full leaves for a granted resend entry. -/
def execOfferReturn (group : Nat) (s : State) : Out :=
  match group? s group with
  | none => .next s
  | some gr =>
    match gr.waiting with
    | [] => .next s
    | m :: ms =>
      let t := twigOf m.sender
      if resendUsed s t ≥ resendSlots then .next s
      else .next (inject ⟨.rsp, gr.root.twig, t, .returned m.sender m⟩
        (modGroup group (fun x => { x with waiting := ms, resends := x.resends + 1 }) s))

/-- A message enters its sender's twig node (R48). -/
def placeAtTwig (twig : Nat) (m : Msg) (s : State) : State :=
  modNode ⟨1, twig⟩ (fun n => { n with inq := n.inq ++ [⟨m, false, none⟩] }) s

/-- Sends of a twig's cores that wait for a resend entry go on (R52). -/
def wakeResend (twig : Nat) (s : State) : State :=
  (List.range 4).foldl (fun s c => modCoreAt (4 * twig + c) (wakeCore fun _ _ w => w == .resend) s) s

/-- A message leaves the resend buffer for the twig node; sends that wait for an entry go on. -/
def leaveResend (r : Resend) (s : State) : State :=
  wakeResend r.twig (placeAtTwig r.twig r.msg (modFab (fun f => { f with resend := f.resend.erase r }) s))

/-- RESEND_TIMER (R52): 256 network cycles after its return a message is sent again. -/
def execResendTimer (twig : Nat) (s : State) : Out :=
  match s.fab.resend.find? fun r => r.twig == twig && r.returned && r.since + 256 ≤ s.pkg.nclk with
  | none => .next s
  | some r => .next (leaveResend r s)

/-- Messages of a core to a group that have no receipt, oldest first (R54). -/
def tracked (c : Core) (g : Nat) : List (BitVec 16) := ((c.track.find? fun x => x.1 == g).map (·.2)).getD []

/-- Sets the tracker's entry of a group; an entry with no message is free (R54). -/
def setTracked (g : Nat) (l : List (BitVec 16)) (c : Core) : Core :=
  let rest := c.track.filter fun x => x.1 != g
  { c with track := if l.isEmpty then rest else rest ++ [(g, l)] }

/-- Whether every earlier message of the sender to the group has been receipted (R54). -/
def inTurn (s : State) (m : Msg) : Bool := (tracked (getCore s m.sender) m.group).head? == some m.seq

/-- ORDERED_SEND_RELEASE (R54). -/
def execOrderedSendRelease (twig : Nat) (s : State) : Out :=
  match s.fab.resend.find? fun r => r.twig == twig && !r.returned && r.msg.ord && !r.msg.rel && inTurn s r.msg with
  | none => .next s
  | some r => .next (leaveResend r s)

/-- Whether every store of a core has been performed or recorded, and every write of it has reached its slice (R216, R250). -/
def quiet (s : State) (n : Nat) : Bool :=
  let c := getCore s n
  !writesOut s n && s.ms.heldW.isEmpty && (c.ctxsOf false ++ c.ctxsOf true).all fun x => x.late.isEmpty

/-- RELEASING_SEND_RELEASE (R216): every dirty shared byte of the sender is written back; once that and every earlier store of its
context have been performed, the message leaves, an ordered one in its turn (R54). -/
def execReleasingSendRelease (twig : Nat) (s : State) : Out :=
  match s.fab.resend.find? fun r => r.twig == twig && !r.returned && r.msg.rel && (!r.msg.ord || inTurn s r.msg) with
  | none => .next s
  | some r =>
    let t := atCore r.core writeBackShared s
    .next (if quiet t r.core then leaveResend r t else t)

/-- OFFER_RECEIPT (R49, R54): a receipt lowers the sender's entry; a free entry ends the waits on it. -/
def execOfferReceipt (s : State) : Out :=
  let mine := fun (p : Packet) => match p.body with
    | .receipt n _ _ => n == s.core.num && mayArrive s p
    | _ => false
  match s.fab.net.find? mine with
  | none => .next s
  | some p =>
    match p.body with
    | .receipt _ g q =>
      let t := recvAtBank s.core.num (groupBank s s.core.num g) (takePacket p s)
      let t := modCore (fun c => setTracked g ((tracked c g).erase q) c) t
      .next (if (tracked t.core g).isEmpty then wake (fun _ _ w => w == .tracker || w == .receipts g) t else t)
    | _ => .next s

/-! ### The group record (R53) -/

/-- The 64 bytes of a group record (R53). -/
def groupRecord (s : State) (g : Group) : List Byte :=
  let parked := ((getNode s g.root).parks.filter fun m => m.group == g.num).length + g.ring.length
  bytesOfNat 8 g.sent ++ bytesOfNat 8 g.taken ++ bytesOfNat 4 parked ++ bytesOfNat 4 g.head ++ bytesOfNat 4 g.tail
    ++ bytesOfNat 4 g.bounces ++ bytesOfNat 4 g.resends
    ++ bytesOfNat 28 (min 255 (nodeSum s g.root g.num) + 2 ^ 8 * (g.level % 8) + 2 ^ 12 * (g.num % 2 ^ 12)
        + 2 ^ 24 * (g.size % 16) + 2 ^ 28 * (g.dropped % 2 ^ 32))

/-- GROUP_RECORD_UPDATE (R53): the root node writes the record where it has changed. -/
def execGroupRecordUpdate (group : Nat) (s : State) : Out :=
  match group? s group with
  | none => .next s
  | some g =>
    let k := scratchKey g.slice g.home
    let r := groupRecord s g
    .next (if memRead s.mem k r.length = r then s else perform k r s)

/-! ### OSEND (R45, R52, R54, R328) -/

/-- A group number in a register (R328). -/
def groupNo (s : State) (rs1 : RegNo) : Nat := (readX s rs1).toNat % 4096

/-- Whether the permission map of the core's router lists a group (R45). -/
def mayUse (s : State) (g : Group) : Bool := (partOfGrove s (groveOf s.core.num)).map (·.id) == some g.part

/-- The message that a send makes of a vector register (R300, R328). -/
def makeMsg (s : State) (vs : RegNo) (g : Nat) (ord rel : Bool) : Msg :=
  ⟨(readV s vs).setWidth 448, g, s.core.num, s.core.msgSeq, 0, ord, rel⟩

/-- The core's message counter moves on (R328). -/
def nextSeq (s : State) : State := modCore (fun c => { c with msgSeq := c.msgSeq + 1 }) s

/-- OSEND, OSEND.O, OSEND.R and OSEND.OR (R328). -/
def osendStep (ord rel : Bool) (vs rs1 rd : RegNo) (s : State) : Res State :=
  let g := groupNo s rs1
  match if g = 0xFFF then none else group? s g with
  | none => .error (.trap 0x22 (-1))
  | some gr =>
    let c := s.core
    let twig := twigOf c.num
    if !mayUse s gr then .error (.trap 0x22 (BitVec.ofNat 64 (4 * gr.root.twig)))
    else if !(c.track.any fun x => x.1 == g) && 8 ≤ c.track.length then .error (.wait .tracker s)
    else if resendSlots ≤ resendUsed s twig then .error (.wait .resend s)
    else
      let m := makeMsg s vs g ord rel
      let s := modGroup g (fun x => { x with sent := x.sent + 1 }) (nextSeq s)
      let s := modCore (fun c => setTracked g (tracked c g ++ [m.seq]) c) s
      let s := modBank (fun b => { b with counts := { b.counts with osent := b.counts.osent + 1 } }) (countSent s)
      let s := if ord || rel then modFab (fun f => { f with resend := f.resend ++ [⟨twig, c.num, m, false, s.pkg.nclk⟩] }) s
        else placeAtTwig twig m s
      .ok (adv (writeX rd (m.seq.zeroExtend 64) s))

/-- OSEND (R328). -/
def execOsend (vs rs1 rd : RegNo) (s : State) : Out := .next (orTrap (osendStep false false vs rs1 rd s) s)
/-- OSEND.O (R328). -/
def execOsendO (vs rs1 rd : RegNo) (s : State) : Out := .next (orTrap (osendStep true false vs rs1 rd s) s)
/-- OSEND.R (R216, R328). -/
def execOsendR (vs rs1 rd : RegNo) (s : State) : Out := .next (orTrap (osendStep false true vs rs1 rd s) s)
/-- OSEND.OR (R216, R328). -/
def execOsendOr (vs rs1 rd : RegNo) (s : State) : Out := .next (orTrap (osendStep true true vs rs1 rd s) s)

/-! ### OREADY, OUNREADY (R46, R329) -/

/-- Whether the core is a member of a group (R44). -/
def isMember (s : State) (g : Nat) : Bool := ((group? s g).map fun x => x.members.contains s.core.num).getD false

/-- The part of an OREADY that the inbox has room for (R46, R329). -/
def readyRoom (c : Core) : Nat := Config.inboxSlots - readySum c - c.inbox.length

/-- OREADY (`up`) and OUNREADY (R329). -/
def readyStep (up : Bool) (rs2 rs1 rd : RegNo) (s : State) : Res State :=
  let g := groupNo s rs1
  if !isMember s g then .error (.trap 0x22 (BitVec.ofNat 64 g))
  else
    let r := readinessOf s.core g
    let a := min (readX s rs2).toNat (if up then readyRoom s.core else r)
    .ok (adv (writeX rd (BitVec.ofNat 64 a) (setReadiness s.core.num g (if up then r + a else r - a) s)))

/-- OREADY (R329). -/
def execOready (rs2 rs1 rd : RegNo) (s : State) : Out := .next (orTrap (readyStep true rs2 rs1 rd s) s)
/-- OUNREADY (R329). -/
def execOunready (rs2 rs1 rd : RegNo) (s : State) : Out := .next (orTrap (readyStep false rs2 rs1 rd s) s)

/-! ### OTAKE, OTAKE.A, OPOLL (R49, R108, R216, R330) -/

/-- The three ways to take a message. -/
inductive TakeKind | take | acquire | poll
deriving DecidableEq, Repr

/-- A message leaves the inbox: the receipt goes to its sender (R49). -/
def takeMsg (vd rd : RegNo) (m : Msg) (s : State) : State :=
  let n := s.core.num
  let s := modCore (fun c => { c with inbox := c.inbox.erase m }) s
  let s := if m.group = 0xFFF then s
    else modGroup m.group (fun x => { x with taken := x.taken + 1 })
      (inject ⟨.rsp, twigOf n, twigOf m.sender, .receipt m.sender m.group m.seq⟩ (countSent s))
  let s := modBank (fun b => { b with
    counts := { b.counts with otaken := b.counts.otaken + 1 }
    lastTake := if (b.bound.bind (·.group)) = some m.group then some s.core.cycles else b.lastTake }) s
  adv (writeX rd 0 (writeV vd (vOfBytes (msgBytes m)) (-1) s))

/-- OTAKE, OTAKE.A and OPOLL (R330). -/
def otakeStep (k : TakeKind) (vd rs1 rd : RegNo) (s : State) : Res State :=
  let g := groupNo s rs1
  if g ≠ 0xFFF ∧ !isMember s g then .error (.trap 0x22 (BitVec.ofNat 64 g))
  else match s.core.inbox.find? fun m => m.group == g with
    | some m => .ok (if k = .acquire then invalidateShared (takeMsg vd rd m s) else takeMsg vd rd m s)
    | none =>
      if k = .poll then .ok (adv (writeX rd (-1) s))
      else match s.core.bank.rebind with
        | .posted r =>
          if (s.core.bank.bound.bind (·.group)) = some g then
            .ok (adv (writeX rd (-3) (modBank (fun b => { b with rebind := .delivered r }) s)))
          else .error (.wait (.take g) s)
        | _ => .error (.wait (.take g) s)

/-- OTAKE (R330). -/
def execOtake (vd rs1 rd : RegNo) (s : State) : Out := .next (orTrap (otakeStep .take vd rs1 rd s) s)
/-- OTAKE.A (R216, R330). -/
def execOtakeA (vd rs1 rd : RegNo) (s : State) : Out := .next (orTrap (otakeStep .acquire vd rs1 rd s) s)
/-- OPOLL (R330). -/
def execOpoll (vd rs1 rd : RegNo) (s : State) : Out := .next (orTrap (otakeStep .poll vd rs1 rd s) s)

/-- OFENCE (R331). -/
def execOfence (rs1 : RegNo) (s : State) : Out :=
  let g := groupNo s rs1
  .next (if (tracked s.core g).isEmpty then adv s else waitFor (.receipts g) s)

/-! ### MSEND (R57, R332) -/

/-- The destination set that a vector register names (R286, R332): grove mask, core-in-grove index, ALL, SELF. -/
structure Dest where
  mask : BitVec 96
  idx : Nat
  all : Bool
  self : Bool
deriving DecidableEq, Repr

/-- Bytes 64 to 77 of a vector register (R286). -/
def destOf (v : VReg) : Dest :=
  ⟨v.extractLsb' 512 96, (vbyte v 76).toNat, (vbyte v 77).getLsbD 0, (vbyte v 77).getLsbD 1⟩

/-- The cores that a destination names in a grove, absent ones too. -/
def targetsIn (d : Dest) (g : Nat) : List Nat :=
  if d.all then (List.range 256).map (coreInGrove g) else [coreInGrove g d.idx]

/-- The groves of a mask, in order. -/
def grovesOf (m : BitVec 96) : List Nat := (List.range 96).filter fun g => m.getLsbD g

/-- The destination set of R332. -/
def destSet (s : State) (d : Dest) : List Nat :=
  ((grovesOf d.mask).flatMap (targetsIn d)).filter fun n => present s n && (d.self || n != s.core.num)

/-- The package core number of the lowest-numbered target of a grove (R57). -/
def lowestTarget (d : Dest) (g : Nat) : Nat := (targetsIn d g).foldl min (4 * 6144)

/-- MSEND (R332). -/
def msendStep (vs rd : RegNo) (s : State) : Res State :=
  let d := destOf (readV s vs)
  let n := s.core.num
  if d.mask = 0 then .ok (adv (writeX rd 0 s))
  else match (grovesOf d.mask).find? fun g => !groveAllowed s n g with
    | some g => .error (.trap 0x22 (BitVec.ofNat 64 (lowestTarget d g)))
    | none =>
      if s.core.msendBusy then .error (.wait .msend s)
      else
        let set := destSet s d
        if set.isEmpty then .ok (adv (writeX rd 0 s))
        else
          let m := makeMsg s vs 0xFFF false false
          let s := set.foldl (fun s j => inject ⟨.msg, twigOf n, twigOf j, .toCore j m⟩ (countSent s)) (nextSeq s)
          .ok (adv (writeX rd (BitVec.ofNat 64 set.length) (modCore (fun c => { c with msendBusy := true }) s)))

/-- MSEND (R332). -/
def execMsend (vs rd : RegNo) (s : State) : Out := .next (orTrap (msendStep vs rd s) s)

end Sys2Proof.Machine
end

