-- ==== Sys2Proof/Machine/Timed.lean ====
section
/-! DEFINITION. Timed mode and clock regions (R33 to R35, R38 to R42, R272, R333, R422): schedules, beats, the region
governors. -/

namespace Sys2Proof.Machine

/-! ### Schedules (R272, R333) -/

/-- The stage record of the image that a stage of a launch is bound to (R269). -/
def stageRec (s : State) (l : Launch) (k : Nat) : Option StageRec := do
  let i ← imageOf s l
  let d ← l.stages[k]?
  i.img.stages.find? fun r => r.entry == d.entry

/-- The number of the stage record that a stage entry matches (R269). DESIGN CHOICE (log 84): where two records of an image have the
same ENTRY, the first matches; the spec does not say which does. -/
def recIndex (img : ImageRec) (entry : W32) : Option Nat :=
  (List.range img.stages.length).find? fun i => (img.stages[i]?.map (·.entry)) == some entry

/-- The schedules of the kernel that holds a stage (R333). -/
def kernelScheds (s : State) (l : Launch) (k : Nat) : List Sched :=
  match imageOf s l, stageRec s l k with
  | some i, some r => i.img.scheds.filter fun x => x.kernel == r.kernel
  | _, _ => []

/-- The launch and stage of the active bank. -/
def boundOf (s : State) : Option (Bound × Launch) := do
  let bd ← s.core.bank.bound
  let l ← launch? s bd.launch
  return (bd, l)

/-- The schedule that is active for the bank (R333). -/
def activeSched (s : State) : Option Sched := do
  let (bd, l) ← boundOf s
  let i ← s.core.bank.sched
  (kernelScheds s l bd.stage)[i]?

/-- The binding of a stage's core indices in the extent that a launch has (R278). -/
def boundCores (s : State) (l : Launch) (k : Nat) : Option BoundCores := do
  let i ← imageOf s l
  let d ← l.stages[k]?
  let r ← recIndex i.img d.entry
  let p ← l.placed.find? fun p => p.stage == k
  s.root.bounds.find? fun b => b.digest == i.img.digest && b.record == r && b.level == d.blevel && b.extent == nwTwig d.blevel (twigOf p.core)

/-- The package core number of a core index within a stage (R39, R93, R278): as it was bound at the first placement in the extent. -/
def coreOfIndex (s : State) (l : Launch) (k i : Nat) : Option Nat :=
  match boundCores s l k with
  | some b => b.cores[i]?
  | none => (l.placed.find? fun p => p.stage == k && p.index == i).map (·.core)

/-- WSEL (R333). -/
def wselStep (rs1 : RegNo) (w : Option W32) (s : State) : Res State :=
  let i := (readX s rs1).toNat
  match boundOf s with
  | none => illegalT w
  | some (bd, l) =>
    match (kernelScheds s l bd.stage)[i]?, (imageOf s l).bind (fun x => x.img.stages[((kernelScheds s l bd.stage).getD i ⟨0, 0, 8, []⟩).stage]?) with
    | some _, some r =>
      if s.core.phase.isSome || some r != stageRec s l bd.stage then illegalT w
      else .ok (adv (modBank (fun b => { b with sched := some i }) s))
    | _, _ => illegalT w

/-- WSEL (R333). -/
def execWsel (rs1 : RegNo) (s : State) : Out := .next (orTrap (wselStep rs1 (encode (.wsel rs1)) s) s)

/-! ### Beats (R39 to R42) -/

/-- The domain whose phase the active bank has open (R38). -/
def openDom (s : State) : Option Dom := do
  let k ← s.core.phase
  let bd ← s.core.bank.bound
  let c := s.core.chans[k.toNat]'k.isLt
  if c.owner == some s.core.bank.num then
    s.fab.doms.find? fun d => d.chan == k && d.launch == bd.launch && d.members.contains s.core.num
  else none

/-- A beat that a WTX may send: the schedule's frame length, the domain, the beat, and the destination (R39, R333). -/
structure Slot where
  dom : Dom
  beat : Beat
  dst : Nat
  /-- the network cycle of slot s of frame k (R38, R39) -/
  cycle : Nat
deriving DecidableEq, Repr

/-- The slot of a beat number, if the core may send it (R39, R333). -/
def slotOf (s : State) (b : Nat) : Option Slot := do
  let d ← openDom s
  let sch ← activeSched s
  let x ← sch.beats[b]?
  let (bd, l) ← boundOf s
  let dst ← coreOfIndex s l bd.stage x.dst
  if coreOfIndex s l bd.stage x.src = some s.core.num then
    return ⟨d, x, dst, d.start + sch.frame * x.frame + x.slot⟩
  else none

/-- A timed-slot violation found by an instruction (R41, R422): the core stops, with the number that ENTRY takes. -/
def slotViolation (n : Nat) (s : State) : State :=
  fatalOrLater s.core.bank.num ⟨1, 0x21, BitVec.ofNat 8 n, s.core.cx.pc, false⟩ s

/-- Die-to-die links on the route between two twigs (R26, R37). -/
def crossings (a b : Nat) : Nat :=
  let gap := fun (x y : Nat) => if x < y then y - x else x - y
  gap (twigX a / 16) (twigX b / 16) + gap (twigY a / 16) (twigY b / 16)

/-- Mesh links on the route between two twigs (R26, R37). -/
def hops (a b : Nat) : Nat :=
  let gap := fun (x y : Nat) => if x < y then y - x else x - y
  gap (twigX a) (twigX b) + gap (twigY a) (twigY b)

/-- The network cycle in which beat `j` of a slot lands (R40): no region boundary counts in a phase. -/
def landsAt (src dst cycle j : Nat) : Nat :=
  cycle + j + 2 + hops (twigOf src) (twigOf dst) + 6 * crossings (twigOf src) (twigOf dst)

/-- The two beats of a WTX leave (R40). -/
def sendBeats (launch b : Nat) (x : Slot) (v : VReg) (s : State) : State :=
  let n := s.core.num
  let beat := fun (j : Nat) (d : BitVec 512) => (⟨launch, x.dst, n, b, x.beat.entry, j == 1, d, landsAt n x.dst x.cycle j⟩ : BeatMsg)
  let s := modFab (fun f => { f with beats := f.beats ++ [beat 0 (v.extractLsb' 0 512), beat 1 (v.extractLsb' 512 512)] }) s
  modBank (fun k => { k with counts := { k.counts with bsent := k.counts.bsent + 2 } }) s

/-- WTX (R36, R40, R333): a beat that is in time waits for its slot; the wait is a stall, and the context stays current. -/
def execWtx (vs rs1 : RegNo) (s : State) : Out :=
  let b := (readX s rs1).toNat
  .next (match slotOf s b with
    | none => slotViolation b s
    | some x =>
      if x.cycle < s.pkg.nclk then slotViolation b s
      else if !groveAllowed s s.core.num (groveOf x.dst) then takeTrap 0x22 (BitVec.ofNat 64 x.dst) s
      else modCx (fun c => { c with st := .waiting (.slot b vs), since := s.core.cycles }) s)

/-- The beat and the source register of a context that waits for its slot. -/
def slotWait (c : Ctx) : Option (Nat × RegNo) :=
  match c.st with
  | .waiting (.slot b vs) => some (b, vs)
  | _ => none

/-- TIMED_SLOT_START (R39, R40): the network-clock edge that starts the slot of a waiting WTX has come: both beats leave, and
the instruction retires. -/
def execTimedSlotStart (bank : Bool) (ctx : Nat) (s : State) : Out :=
  let c := s.core
  if c.bank.num != bank || c.cx.id != ctx || c.bank.stopped || c.swap.isSome then .next s
  else match slotWait c.cx, c.bank.bound with
    | some (b, vs), some bd =>
      match slotOf s b with
      | none => .next s
      | some x =>
        if s.pkg.nclk < x.cycle then .next s
        else .next (adv (modCx (fun c => { c with st := .ready }) (sendBeats bd.launch b x (readV s vs) s)))
    | _, _ => .next s

/-- The beat to a core that lands first. -/
def firstBeat (n : Nat) : List BeatMsg → Option BeatMsg → Option BeatMsg
  | [], best => best
  | b :: bs, best =>
    if b.core != n then firstBeat n bs best
    else match best with
      | none => firstBeat n bs (some b)
      | some a => firstBeat n bs (some (if b.lands < a.lands then b else a))

/-- A half of a receive entry takes a beat (R40). -/
def Recv.put (r : Recv) (hi : Bool) (d : BitVec 512) : Recv :=
  if hi then { r with data := d ++ r.data.extractLsb' 0 512, hi := true }
  else { r with data := r.data.extractLsb' 512 512 ++ d, lo := true }

/-- A receive entry. -/
def recvAt (c : Core) (e : Nat) : Recv := c.recv.getD e ⟨0, false, false⟩

/-- Changes a receive entry. -/
def setRecv (e : Nat) (r : Recv) (c : Core) : Core := { c with recv := c.recv.setIfInBounds e r }

/-- BEAT_ARRIVE (R40, R41): the next beat to the core lands in its entry once its fixed cycle has come, whatever bank is resident; a
beat into a half that holds unread data is a violation of the receiving core and is not written. -/
def execBeatArrive (s : State) : Out :=
  let n := s.core.num
  match firstBeat n s.fab.beats none with
  | none => .next s
  | some b =>
    if s.pkg.nclk < b.lands then .next s else
    let s := modFab (fun f => { f with beats := f.beats.erase b }) s
    let r := recvAt s.core b.entry
    let bank := (bankOfLaunch s.core b.launch).getD s.core.bank.num
    if (if b.hi then r.hi else r.lo) then
      .next (fatalOrLater bank ⟨1, 0x21, BitVec.ofNat 8 b.beat, 0, false⟩ s)
    else
      let r2 := r.put b.hi b.data
      let got := fun (k : Bank) => { k with counts := { k.counts with brecv := k.counts.brecv + 1 } }
      let s := modCore (fun c => (setRecv b.entry r2 c).modBankOf bank got) s
      .next (wakeStores b.src (if r2.lo && r2.hi then wake (fun _ _ w => w == .recv b.entry) s else s))

/-- Whether some beat of the active schedule sends to a receive entry of the core (R333). -/
def entryFed (s : State) (e : Nat) : Bool :=
  match activeSched s, boundOf s with
  | some sch, some (bd, l) => sch.beats.any fun b => b.entry == e && coreOfIndex s l bd.stage b.dst == some s.core.num
  | _, _ => false

/-- WRX (R333). -/
def wrxStep (vd rs1 : RegNo) (s : State) : Res State :=
  let e := (readX s rs1).toNat
  if 15 < e ∨ !entryFed s e then .ok (slotViolation e s)
  else
    let r := recvAt s.core e
    if r.lo && r.hi then .ok (adv (writeV vd r.data (-1) (modCore (setRecv e ⟨0, false, false⟩) s)))
    else .error (.wait (.recv e) s)

/-- WRX (R333). -/
def execWrx (vd rs1 : RegNo) (s : State) : Out := .next (orTrap (wrxStep vd rs1 s) s)

/-! ### Region governors (R33 to R35, R42) -/

/-- Changes RCLK of a grove. -/
def modRclk (g : Nat) (f : Rclk → Rclk) (s : State) : State :=
  let r := f (rclkOf s g)
  modFab (fun b => { b with rclk := (g, r) :: b.rclk.filter fun x => x.1 != g }) s

/-- The joined members of a lock group (R35). -/
def lockMembers (s : State) (grp : BitVec 7) : List Nat :=
  if grp = 0 then [] else (s.fab.rclk.filter fun x => x.2.lockgrp == grp && x.2.joined).map (·.1)

/-- Whether a communication phase is open in a lock group (R33). -/
def groupPhase (s : State) (grp : BitVec 7) : Bool :=
  s.fab.doms.any fun d => d.phase && (rectGroves d.members).any fun g => (lockMembers s grp).contains g

/-- The open phases of a lock group, by domain and start. -/
def openPhases (s : State) (grp : BitVec 7) : List (Nat × Nat) :=
  (s.fab.doms.filter fun d => d.phase && (rectGroves d.members).any fun g => (lockMembers s grp).contains g).map fun d => (d.id, d.start)

/-- Whether a region's change is deferred by an open phase: of its group, of the group it joins, or of the one it leaves (R33, R35). -/
def phaseDefers (s : State) (r : Rclk) : Bool := groupPhase s r.lockgrp || leavingOpen s r

/-- Whether a region has a change to make (R33, R35). -/
def wantsChange (r : Rclk) : Bool := r.joining || r.target != r.current

/-- DEFER (R34): a change that has not started waits for open phases to close. -/
def deferOf (s : State) (g : Nat) : Bool :=
  let r := rclkOf s g
  (r.joining || r.target != (if r.relock then r.goal else r.current)) && phaseDefers s r

/-- RCLK as the root cluster reads it (R34). -/
def rclkReg (s : State) (g : Nat) : Word :=
  let r := rclkOf s g
  BitVec.ofNat 64 (r.target % 2 ^ 11 + 2 ^ 11 * (r.current % 2 ^ 11) + 2 ^ 22 * r.lockgrp.toNat + 2 ^ 29 * (deferOf s g).toNat
    + 2 ^ 30 * r.relock.toNat + 2 ^ 31 * r.joined.toNat)

/-- TARGET as it is stored (R34): clamped, then rounded down to a multiple of 25. -/
def clampMhz (m : Nat) : Nat := max 600 (min 1500 m) / 25 * 25

/-- RCLK_TARGET_WRITE (R33, R34, R35): a write to a joined member sets the target of its whole group. -/
def execRclkTargetWrite (grove : Nat) (mhz : BitVec 11) (s : State) : Out :=
  let t := clampMhz mhz.toNat
  let r := rclkOf s grove
  if r.joined then
    .next ((lockMembers s r.lockgrp).foldl (fun s g => modRclk g (fun x => { x with target := t }) s) s)
  else .next (modRclk grove (fun x => { x with target := t }) s)

/-- LOCKGRP takes a new value and JOINED clears (R35): a nonzero one requests a join change. The region leaves the group in which it
was a member, at the frequency then current, once no phase of that group is open; a join whose relock is under way is none any more. -/
def setGroup (grove : Nat) (grp : BitVec 7) (s : State) : State :=
  let old := rclkOf s grove
  modRclk grove (fun x => { x with
    lockgrp := grp, joined := false, joining := grp != 0, inJoin := false
    left := if old.joined then old.lockgrp else old.left
    leaving := if old.joined then openPhases s old.lockgrp else old.leaving }) s

/-- RCLK_JOIN (R35): a write that leaves LOCKGRP at its value is none; one that changes it requests a join change, or leaves. -/
def execRclkJoin (grove : Nat) (grp : BitVec 7) (s : State) : Out :=
  .next (if grp = (rclkOf s grove).lockgrp then s else setGroup grove grp s)

/-- RCLK_LEAVE (R35): a nonzero LOCKGRP becomes 0. -/
def execRclkLeave (grove : Nat) (s : State) : Out :=
  .next (if (rclkOf s grove).lockgrp = 0 then s else setGroup grove 0 s)

/-- 10 µs have passed since the end of the region's last change, and none is under way (R33). -/
def spaced (s : State) (g : Nat) : Bool :=
  let r := rclkOf s g
  !r.relock && match r.lastEnd with
    | none => true
    | some t => t + 1000 ≤ s.pkg.time

/-- Whether a join into a lock group is under way (R35). -/
def joinUnderWay (s : State) (grp : BitVec 7) : Bool := s.fab.rclk.any fun x => x.2.inJoin && x.2.lockgrp == grp

/-- Whether the members of a lock group relock (R33). -/
def groupRelocks (s : State) (grp : BitVec 7) : Bool := (lockMembers s grp).any fun g => (rclkOf s g).relock

/-- GOVERNOR_CHANGE (R33, R35, R42): a change or a join starts; a joined member changes together with its whole group. Changes of one
group follow each other, so that all its members stay at one frequency. -/
def execGovernorChange (grove : Nat) (s : State) : Out :=
  let r := rclkOf s grove
  if !wantsChange r || phaseDefers s r || (r.lockgrp != 0 && (joinUnderWay s r.lockgrp || groupRelocks s r.lockgrp)) then .next s
  else if r.joining then
    if !spaced s grove then .next s
    else
      let goal := match lockMembers s r.lockgrp with
        | g :: _ => (rclkOf s g).current
        | [] => r.target
      .next (modRclk grove (fun x => { x with relock := true, joining := false, inJoin := true, goal := goal, began := s.pkg.time }) s)
  else
    let all := if r.joined then lockMembers s r.lockgrp else [grove]
    if all.all (spaced s) then .next (all.foldl (fun s g => modRclk g (fun x => { x with relock := true, goal := r.target, began := s.pkg.time }) s) s)
    else .next s

/-- The end of one region's change (R33, R35). -/
def endChange (s0 : State) (g : Nat) (s : State) : State :=
  modRclk g (fun x =>
    let target := if x.inJoin then
      match lockMembers s0 x.lockgrp with
      | m :: _ => (rclkOf s0 m).target
      | [] => x.target
      else x.target
    { x with relock := false, current := x.goal, target := target, joined := x.joined || x.inJoin, inJoin := false,
             lastEnd := some s0.pkg.time }) s

/-- RELOCK_END (R33, R35): 1 µs after its start the change ends, in every region that makes it together. -/
def execRelockEnd (grove : Nat) (s : State) : Out :=
  let r := rclkOf s grove
  if !r.relock || s.pkg.time < r.began + 100 then .next s
  else
    let all := if r.joined then (lockMembers s r.lockgrp).filter fun g => (rclkOf s g).relock else [grove]
    .next (all.foldl (fun t g => endChange s g t) s)

end Sys2Proof.Machine
end

