-- ==== Sys2Proof/Machine/Launches.lean ====
section
/-! DEFINITION. Launches from the ring to the launch gate (R67 to R73, R88 to R90, R278), and what ends them: completion stamps,
the deletion of groups and domains, the end of a launch (R55, R71, R72, R96, R113, R254, R421). -/

namespace Sys2Proof.Machine

/-! ### Rings and notifications (R65, R67) -/

/-- The number of a ring in the package: 32 rings a port (R65). -/
def ringKey (port : Bool) (ring : Nat) : Nat := 32 * port.toNat + ring % 32

/-- A ring that nothing has touched (R67). -/
def ringReset (key : Nat) : Ring :=
  { key := key, enable := false, bound := false, msien := false, headien := false, asid := 0, head := 0, tail := 0,
    badtail := false, badstamp := false, badlid := 0, slots := [] }

/-- The ring with a number. -/
def getRing (s : State) (key : Nat) : Ring := (s.io.rings.find? fun r => r.key == key).getD (ringReset key)

/-- Changes the ring with a number. -/
def modRing (key : Nat) (f : Ring → Ring) (s : State) : State :=
  let r := f (getRing s key)
  modIo (fun o => { o with rings := r :: o.rings.filter fun x => x.key != key }) s

/-- A vector raised on a port (R65). -/
def msi (port : Bool) (vec : Nat) (s : State) : State := modIo (fun o => { o with outs := o.outs ++ [.msi port vec] }) s

/-- The port of a ring. -/
def portOf (key : Nat) : Bool := key / 32 == 1

/-- The vector of a ring's events raised on its port (R65, R67). -/
def ringEvent (key : Nat) (s : State) : State := msi (portOf key) (1 + key % 32) s

/-- DESCRIPTOR_COPY (R67, R68). DESIGN CHOICE (log 90): the copy sees every change of the slot made before it; the spec says that one
made before RHEAD passes the slot may or may not be seen. -/
def execDescriptorCopy (port : Bool) (ring : Nat) (s : State) : Out :=
  let k := ringKey port ring
  let r := getRing s k
  if ring < 32 && r.enable && r.head != r.tail then
    let d := ((r.slots.find? fun x => x.1 == r.head.toNat % 64).map (·.2)).getD 0
    let s := modRoot (fun t => { t with copied := t.copied ++ [⟨k, d⟩] }) s
    let s := modRing k (fun r => { r with head := r.head + 1 }) s
    .next (if r.headien then ringEvent k s else s)
  else .next s

/-! ### The descriptor (R69, R70) -/

/-- The fields of a launch descriptor (R69). -/
structure Desc where
  image : Word
  const : Word
  stamp : Word
  lid : W32
  pres : List W32
  groves : Nat
  prio : Nat
  nstage : Nat
  rsvd : Bool
  stages : List StageDesc
  stageRsvd : Bool
deriving DecidableEq, Repr

/-- A field of a descriptor. -/
def dfield (d : BitVec 2048) (lo w : Nat) : Nat := (d.extractLsb' lo w).toNat

/-- Stage entry `k` (R70). -/
def stageOf (d : BitVec 2048) (k : Nat) : StageDesc :=
  let f := fun lo w => dfield d (512 + 96 * k + lo) w
  { entry := BitVec.ofNat 32 (f 0 32), minc := f 32 16, maxc := f 48 16, helpers := f 64 4, homesz := f 68 4,
    offen := f 72 1 == 1, blevel := f 73 3, bchan := BitVec.ofNat 3 (f 76 3) }

/-- A descriptor taken apart (R69, R70); entries beyond NSTAGE are ignored. -/
def descOf (d : BitVec 2048) : Desc :=
  let n := dfield d 362 5
  let used := List.range (min n 16)
  { image := d.extractLsb' 0 64, const := d.extractLsb' 64 64, stamp := d.extractLsb' 128 64, lid := d.extractLsb' 192 32
    pres := (List.range 4).map fun j => d.extractLsb' (224 + 32 * j) 32
    groves := dfield d 352 8, prio := dfield d 360 2, nstage := n, rsvd := dfield d 367 145 != 0
    stages := used.map (stageOf d), stageRsvd := used.any fun k => dfield d (512 + 96 * k + 79) 17 != 0 }

/-! ### Device memory and the root kernel's writes (R66, R83, R139, R144) -/

/-- Dies that are online. -/
def online (s : State) (die : Nat) : Bool := s.pkg.online.getLsbD die

/-- Whether the ports serve rings, windows and the mailbox (R20, R82). -/
def hostUp (s : State) : Bool := 1 ≤ s.pkg.sl.toNat

/-- Allocatable device DRAM on a die that is online (R66, R139). -/
def allocatable (s : State) (pa : Nat) : Bool :=
  isDramKey pa && paExists pa && pa % 2 ^ 37 < metaOffset && online s (dieOfPa pa)

/-- Whether `n` bytes from an address up are allocatable memory of one die. -/
def allocatableRange (s : State) (pa n : Nat) : Bool :=
  allocatable s pa && allocatable s (pa + n - 1) && dieOfPa pa == dieOfPa (pa + n - 1)

/-- Whether the root kernel may write what its firmware asks. -/
def writesOk (s : State) (ws : KernelWrites) : Bool := ws.all fun w => allocatableRange s w.1 w.2.length

/-- Translations of a process leave every TLB (R144). -/
def dropTlb (asid : Nat) (s : State) : State :=
  modMs (fun m => { m with twigTlb := m.twigTlb.filter fun t => t.2.asid != asid })
    (mapCores (fun c => { c with tlb := c.tlb.filter fun t => t.asid != asid }) s)

/-- The I/O die of the management core that serves requests of firmware: core 0 of the west die (R82, R420; DESIGN CHOICE, log 88). -/
def rootNode : Nat := ioNode false

/-- The root kernel writes page tables or contents for a process, whose translations leave the TLBs with that (R144). -/
def kernelPut (asid : Nat) (ws : KernelWrites) (s : State) : State :=
  if ws.isEmpty then s else dropTlb asid (ws.foldl (fun s w => performAll rootNode w.1 w.2 s) s)

/-! ### The completion stamp (R71 to R73) -/

/-- Where an address of a process leads (R73, R143): by its page tables; a window has no mapping there. -/
def procPlace (s : State) (asid : Nat) (va : Word) (acc : Acc) : Option Place :=
  let a := va.toNat
  if inWindow va || !canonical a then none
  else match walk s asid a with
    | .error _ => none
    | .ok t =>
      if permits t acc true then (placeOfPa s.pkg.sl (t.pa + a % 2 ^ t.bits) t acc).toOption else none

/-- StampWrite(STAMP, LID, status) at SYS scope (R71, R299), where STAMP leads, from the I/O die of a ring (R420). -/
def stampAt (ring key : Nat) (lid : W32) (st : BitVec 8) (s : State) : State :=
  performAll (ioNode (portOf ring)) key (bytesOfNat 8 (stampWord (lid.zeroExtend 64) st).toNat) s

/-- The stamp of a launch that has not been admitted (R71, R73). -/
def stampLaunch (ring asid : Nat) (stamp : Word) (lid : W32) (st : BitVec 8) (s : State) : State :=
  match procPlace s asid stamp .write with
  | none => s
  | some p => stampAt ring p.key lid st s

/-- Changes a process. -/
def modProc (asid : Nat) (f : Proc → Proc) (s : State) : State :=
  modRoot (fun r => { r with procs := r.procs.map fun p => if p.asid = asid then f p else p }) s

/-- The process with an ASID. -/
def proc? (s : State) (asid : Nat) : Option Proc := s.root.procs.find? fun p => p.asid == asid

/-- A completed launch id is remembered with its status, in place of an older one; 4,096 of them are kept (R72). -/
def remember (asid : Nat) (lid : W32) (st : BitVec 8) (s : State) : State :=
  modProc asid (fun p =>
    let l := p.remembered.filter (fun x => x.1 != lid) ++ [(lid, st)]
    { p with remembered := l.drop (l.length - 4096) }) s

/-- The event of a stamp that has been written, where the ring's MSIEN asks for it (R67, R71). -/
def stampEvent (key : Nat) (s : State) : State := if (getRing s key).msien then ringEvent key s else s

/-- A prerequisite that names a launch takes the status of its stamp (R72, R89). -/
def resolvePre (id : Nat) (st : BitVec 8) (x : Option (BitVec 8) × Nat) : Option (BitVec 8) × Nat :=
  if x.1.isNone && x.2 = id then (some st, id) else x

/-- A launch completes (R71 to R73): its stamp is written in the page that STAMP led to at its admission, the root kernel remembers it and forgets its launch, launches that
name it see the status, and the ring's event is raised. -/
def complete (l : Launch) (st : BitVec 8) (s : State) : State :=
  let s := stampAt l.ring l.stampKey l.lid st s
  let s := remember l.asid l.lid st s
  let s := modRoot (fun r => { r with launches := (r.launches.filter fun x => x.id != l.id).map fun x =>
    { x with prereqs := x.prereqs.map (resolvePre l.id st) } }) s
  stampEvent l.ring s

/-! ### Admission (R22, R69 to R73, R88, R269, R278) -/

/-- One more than the highest core index that a schedule of a stage record names (R278). -/
def namedCores (img : ImageRec) (r : Nat) : Nat :=
  (img.scheds.filter fun x => x.stage == r).foldl (fun m x => x.beats.foldl (fun m b => max m (1 + max b.src b.dst)) m) 0

/-- The die of a grove. -/
def dieOfGrove (g : Nat) : Nat := 6 * (g / 12 / 2) + g % 12 / 2

/-- The limits of a stage entry (R22, R70, R269, R278). -/
def stageEntryOk (s : State) (img : ImageRec) (k : StageDesc) : Bool :=
  k.entry.extractLsb' 0 2 == 0 && 1 ≤ k.minc && k.minc ≤ k.maxc && k.helpers ≤ 10
    && (match recIndex img k.entry with
      | none => false
      | some r => namedCores img r ≤ k.maxc)
    && (s.pkg.sl != 2 || k.blevel ≤ 5)

/-- The partition of a process. -/
def partOfProc (s : State) (p : Proc) : Option Part := s.root.parts.find? fun x => x.id == p.part

/-- Present cores of a grove (R14, R21). -/
def groveCores (s : State) (g : Nat) : Nat :=
  if ((s.pkg.dies[dieOfGrove g]?).map (·.failed)).getD true then 0
  else 256 - ((s.pkg.absent.eraseDups.filter fun n => groveOf n == g && n < Config.cores)).length

/-- The sum of the `k` greatest numbers of a list. -/
def topSum : (k : Nat) → List Nat → Nat
  | 0, _ => 0
  | k + 1, l =>
    let m := l.foldl max 0
    m + topSum k (l.erase m)

/-- Cores that a stage needs (R93, R278). -/
def stageNeed (img : ImageRec) (k : StageDesc) : Nat := max k.minc (((recIndex img k.entry).map (namedCores img)).getD 0)

/-- Whether one die that is online holds the groves a launch asks for, and in them the cores that each of its stages needs (R22). -/
def oneDieHolds (s : State) (pt : Part) (groves : Nat) (needs : List Nat) : Bool :=
  (List.range 24).any fun d =>
    let gs := (grovesOf pt.groves).filter fun g => dieOfGrove g == d
    online s d && groves ≤ gs.length && needs.all (· ≤ topSum groves (gs.map (groveCores s)))

/-- Checks of R69 to R71 that do not concern the LID, the stamp or the prerequisites; at S2 those of R22. -/
def descOk (s : State) (p : Proc) (d : Desc) : Bool :=
  match s.root.images.find? (fun i => i.handle == d.image && i.asid == p.asid), partOfProc s p with
  | some i, some pt =>
    !d.rsvd && !d.stageRsvd && 1 ≤ d.nstage && d.nstage ≤ 16 && d.const.extractLsb' 0 6 == 0
      && 1 ≤ d.groves && d.groves ≤ (grovesOf pt.groves).length
      && d.stages.all (stageEntryOk s i.img)
      && (s.pkg.sl != 2 || oneDieHolds s pt d.groves (d.stages.map (stageNeed i.img)))
  | _, _ => false

/-- What a prerequisite names (R72): a launch that has not ended, or the status of a remembered one. -/
def bindPre (s : State) (p : Proc) (own w : W32) : Option (Option (BitVec 8) × Nat) :=
  if w = own then none
  else match s.root.launches.find? fun l => l.asid == p.asid && l.lid == w with
    | some l => some (none, l.id)
    | none => (p.remembered.find? fun x => x.1 == w).map fun x => (some x.2, 0)

/-- Whether a launch id refuses its launch (R69, R72). -/
def lidBad (s : State) (p : Proc) (lid : W32) : Bool := lid == 0 || s.root.launches.any fun l => l.asid == p.asid && l.lid == lid

/-- Whether every die has come online or failed (R20, R23). -/
def diesSettled (s : State) : Bool := s.pkg.dies.toList.all fun d => d.trained || d.failed

/-- Whether a launch holds cores (R91, R267). -/
def holdsCores (l : Launch) : Bool := l.st == .bound || l.st == .running || l.st == .halting

/-- Whether a bank is still bound to a launch. -/
def boundTo (s : State) (launch : Nat) (p : Placed) : Bool :=
  (((getCore s p.core).bankOf p.bank).bound.map (·.launch)) == some launch

/-- Whether every core of a launch has stopped (R254). -/
def allStopped (s : State) (l : Launch) : Bool :=
  l.placed.all fun p => p.gone || !boundTo s l.id p || ((getCore s p.core).bankOf p.bank).stopped

/-- Whether the root kernel may change the page tables of a process: every launch of it that holds cores is stopped (R144). -/
def mayRemap (s : State) (asid : Nat) : Bool :=
  s.root.launches.all fun l => l.asid != asid || !holdsCores l || (l.st == .halting && allStopped s l)

/-- Whether an address of a process leads to a place where the process may write (R73). -/
def leadsTo (s : State) (asid : Nat) (va : Word) (key : Nat) : Bool := (procPlace s asid va .write).map (·.key) == some key

/-- Whether the root kernel may make what its firmware asks for a process: allocatable memory; page tables with no launch of the process
running (R144), and with the page of every admitted launch's STAMP still mapped and writable after it (R73). -/
def mayPut (s : State) (asid : Nat) (ws : KernelWrites) : Bool :=
  writesOk s ws && (ws.isEmpty || (mayRemap s asid
    && s.root.launches.all fun l => leadsTo (kernelPut asid ws s) l.asid l.stamp l.stampKey))

/-- Whether firmware's choice of a halt area is one (R257): 2 MiB that no other launch has, in a page that the process may read and
not write, once what the root kernel writes for it stands (log 85), with STAMP where it was (R73). -/
def areaOk (s : State) (asid : Nat) (a : HaltArea) (stamp : Word) (key : Nat) : Bool :=
  mayPut s asid a.writes && leadsTo (kernelPut asid a.writes s) asid stamp key && a.pa % 2 ^ 21 == 0 && a.va.toNat % 2 ^ 21 == 0
    && allocatableRange s a.pa (2 ^ 21) && !(s.root.launches.any fun l => l.haltPa == a.pa)
    && match walk (kernelPut asid a.writes s) asid a.va.toNat with
      | .ok t => 21 ≤ t.bits && t.r && !t.w && !t.x && t.u && t.pa + a.va.toNat % 2 ^ t.bits == a.pa
      | .error _ => false

/-- The balancer record that firmware has written for a stage (R106). -/
def balOf (id k : Nat) : BalRec := let w := Config.balPolicy id k; ⟨w.truncate 32, w.getLsbD 32⟩

/-- The launch of a descriptor. -/
def launchOf (s : State) (p : Proc) (key : Nat) (d : Desc) (stamp : Nat) (a : HaltArea) (pres : List (Option (BitVec 8) × Nat)) : Launch :=
  let id := s.root.nextLaunch
  { id := id, asid := p.asid, ring := key, lid := d.lid, stamp := d.stamp, const := d.const, image := d.image,
    groves := d.groves, prio := d.prio, prereqs := pres, stages := d.stages,
    bal := (List.range d.stages.length).map (balOf id), st := .gate, placed := [], origin := none, starters := [],
    resumable := false, passed := 0, haltPa := a.pa, haltVa := a.va, stampKey := stamp
    early := s.pkg.sl == 2 && !diesSettled s, haltedAt := 0 }

/-- A launch refused at admission: its stamp carries 0x04, and it is remembered unless its LID is the cause (R72, R88). -/
def refuse (p : Proc) (key : Nat) (d : Desc) (keep : Bool) (s : State) : State :=
  let s := stampLaunch key p.asid d.stamp d.lid 0x04 s
  stampEvent key (if keep then remember p.asid d.lid 0x04 s else s)

/-- A launch whose STAMP cannot be written (R73). -/
def refuseStamp (p : Proc) (key : Nat) (d : Desc) (s : State) : State :=
  let bad := lidBad s p d.lid
  let s := msi (portOf key) 33 (modRing key (fun r => { r with badstamp := true, badlid := d.lid }) s)
  if bad then s else remember p.asid d.lid 0x04 s

/-- Admission of one descriptor (R72, R73, R88); none where it is admissible and firmware names no halt area for it, which holds it
back. -/
def takeDesc (p : Proc) (key : Nat) (d : Desc) (a : HaltArea) (s : State) : Option State :=
  match if d.stamp.extractLsb' 0 3 != 0 then none else procPlace s p.asid d.stamp .write with
  | none => some (refuseStamp p key d s)
  | some stamp =>
    if lidBad s p d.lid then some (refuse p key d false s)
    else match (d.pres.filter (· != 0)).mapM (bindPre s p d.lid) with
      | none => some (refuse p key d true s)
      | some pres =>
        if !descOk s p d then some (refuse p key d true s)
        else if !areaOk s p.asid a d.stamp stamp.key then none
        else
          let l := launchOf s p key d stamp.key a pres
          let s := modProc p.asid (fun p => { p with remembered := p.remembered.filter fun x => x.1 != d.lid }) (kernelPut p.asid a.writes s)
          some (modRoot (fun r => { r with launches := r.launches ++ [l], nextLaunch := r.nextLaunch + 1 }) s)

/-- ADMISSION (R88): the oldest copied descriptor of a ring, from S2 on (R22). -/
def execAdmission (port : Bool) (a : AdmitAt) (s : State) : Out :=
  let k := ringKey port a.ring
  match s.root.copied.find? fun c => c.ring == k with
  | none => .next s
  | some c =>
    if s.pkg.sl.toNat < 2 || 32 ≤ a.ring || !s.ms.heldW.isEmpty then .next s
    else
      let t := modRoot (fun r => { r with copied := r.copied.erase c }) s
      match proc? t (getRing t k).asid with
      | none => .next t
      | some p => .next (if p.killed then t else (takeDesc p k (descOf c.desc) a.area t).getD s)

/-! ### The launch gate (R23, R89, R90) -/

/-- At S2, once every die is online or failed, launches admitted since wait for S3 (R23). -/
def gateHeld (s : State) (l : Launch) : Bool := s.pkg.sl == 2 && diesSettled s && !l.early

/-- LAUNCH_GATE_PASS (R89): every prerequisite's stamp has been written. -/
def execLaunchGatePass (launch : Nat) (s : State) : Out :=
  match launch? s launch with
  | none => .next s
  | some l =>
    if l.st != .gate || l.prereqs.any (fun x => x.1.isNone) || gateHeld s l || !s.ms.heldW.isEmpty then .next s
    else if l.prereqs.any fun x => x.1 != some 0 then .next (complete l 0x02 s)
    else
      let k := 1 + s.root.launches.foldl (fun m x => max m x.passed) 0
      .next (modRoot (fun r => { r with launches := r.launches.map fun x =>
        if x.id = launch then { x with st := .placing, passed := k } else x }) s)

/-! ### The end of a launch (R55, R61, R96, R113, R254, R421) -/

/-- Messages of a group that a packet carries. -/
def packetOf (g : Nat) (p : Packet) : Bool := ((p.body.msg?).map fun m => m.group == g).getD false

/-- Messages of a group that are parked or under way (R55). -/
def undelivered (s : State) (gr : Group) : Nat :=
  let mine := fun (m : Msg) => m.group == gr.num
  (s.fab.net.filter (packetOf gr.num)).length + gr.ring.length + gr.waiting.length
    + (s.fab.nodes.map fun n => (n.parks.filter mine).length + (n.inq.filter fun i => mine i.msg).length).sum
    + (s.fab.resend.filter fun r => mine r.msg).length
    + ((s.core :: s.cores).map fun c => (c.arrivals.filter mine).length).sum

/-- Messages and counts of a group leave a core; a send or a fence that waits for a receipt of the group goes on. -/
def forgetGroup (g : Nat) (c : Core) : Core :=
  let c := { c with inbox := c.inbox.filter (fun m => m.group != g), arrivals := c.arrivals.filter (fun m => m.group != g)
                    ready := c.ready.filter (fun x => x.1 != g), track := c.track.filter fun x => x.1 != g }
  wakeCore (fun _ _ w => w == .tracker || w == .receipts g) c

/-- A group is deleted (R55): its parked and undelivered messages are counted in DROPPED, which its record shows, and each park slot
that its messages free is refilled (R51); sends that wait for a resend entry that one of them held go on (R52). -/
def deleteGroup (gr : Group) (s : State) : State :=
  let g := gr.num
  let freed := ((getNode s gr.root).parks.filter fun m => m.group == g).length
  let back := s.fab.net.filterMap fun p => match p.body with
    | .returned n m => if m.group = g then some (twigOf n) else none
    | _ => none
  let full := ((s.fab.resend.filter fun r => r.msg.group == g).map (·.twig) ++ back).eraseDups
  let final := { gr with dropped := gr.dropped + undelivered s gr, ring := [] }
  let s := modFab (fun f => { f with
    groups := f.groups.filter fun x => x.num != g
    net := f.net.filter fun p => !(packetOf g p || (match p.body with
      | .receipt _ k _ => k == g
      | _ => false))
    nodes := f.nodes.map fun n => { n with ents := n.ents.filter (fun e => e.group != g), inq := n.inq.filter (fun i => i.msg.group != g)
                                           parks := n.parks.filter (fun m => m.group != g), rings := n.rings.filter (· != g) }
    updates := f.updates.filter fun u => u.group != g
    resend := f.resend.filter fun r => r.msg.group != g }) s
  let s := mapCores (forgetGroup g) s
  let s := full.foldl (fun s t => wakeResend t s) s
  (List.range freed).foldl (fun s _ => refill gr.root s) (perform (scratchKey gr.slice gr.home) (groupRecord s final) s)

/-- The groups of a launch are deleted. -/
def deleteGroups (launch : Nat) (s : State) : State :=
  (s.fab.groups.filter fun g => g.launch == launch).foldl (fun s g => deleteGroup g s) s

/-- The domains of a launch are no more, and no release of them is under way. -/
def deleteDoms (launch : Nat) (s : State) : State :=
  let ds := s.fab.doms.filter fun d => d.launch == launch
  modFab (fun f => { f with
    doms := f.doms.filter fun d => d.launch != launch
    releases := f.releases.filter fun r => !ds.any fun d => d.chan == r.chan && d.members.contains r.core
    beats := f.beats.filter fun b => b.launch != launch }) s

/-- A bank's contexts end (R96, R259), and firmware that was entered from one of them. -/
def endContexts (b : Bool) (c : Core) : Core :=
  if c.bank.num = b then { c with priv := .u, cx := { c.cx with st := .free }, bank := { c.bank with ctxs := [] } }
  else { c with shadow := { c.shadow with ctxs := [] } }

/-- A bank's core is out of its stage (R61, R113): its channel, its contexts, their reservations and monitors, its halts. -/
def vacate (n : Nat) (b : Bool) (launch : Nat) (s : State) : State :=
  let s := leaveStageChannel n b s
  let s := { s with resv := s.resv.filter (fun r => !(r.core == n && r.bank == b)), mons := s.mons.filter fun m => !(m.core == n && m.bank == b) }
  modCoreAt n (fun c =>
    let c := endContexts b { c with halts := c.halts.filter fun h => h.launch != launch }
    freeIfDone b (c.modBankOf b fun k => { k with bound := k.bound.map fun d => { d with left := true }, rebind := .none })) s

/-- A core whose active bank holds no launch any more swaps to one that does (R101). -/
def turnOver (n : Nat) (s : State) : State :=
  atCore n (fun s => if !holdsLaunch s.core.bank && holdsLaunch s.core.shadow && s.core.priv == .u then beginSwap false s else s) s

/-- Every bank of a launch is out of its stage. -/
def vacateAll (l : Launch) (s : State) : State :=
  l.placed.foldl (fun s p => if boundTo s l.id p then turnOver p.core (vacate p.core p.bank l.id s) else s) s

/-- Whether every command that the launch's banks dispatched has retired, and none waits (R96, R254). -/
def allRetired (s : State) (l : Launch) : Bool :=
  l.placed.all fun p => !boundTo s l.id p || (bankEntries (getCore s p.core) p.bank).isEmpty

/-- REASON and CAUSE in the halt records of the cores that started no halt (R257, R421). -/
def nameStop (l : Launch) (o : Origin) (s : State) : State :=
  l.placed.foldl (fun s p =>
    if p.gone || l.starters.contains p.core then s
    else
      let a := l.haltPa + 64 * p.core
      let cur := (memGet s.mem (a + 31)).toNat / 16
      performAll (ioNode (portOf l.ring)) (a + 30) (bytesOfNat 2 (o.cause.toNat + 256 * (o.reason.toNat + 16 * cur))) s) s

/-- Whether every store of a launch's banks has been performed or recorded (R96, R250). -/
def launchQuiet (s : State) (l : Launch) : Bool :=
  l.placed.all fun p => !boundTo s l.id p ||
    (!writesOut s p.core && ((getCore s p.core).ctxsOf p.bank).all fun x => x.late.isEmpty)

/-- What remains of a launch goes with it, and the launch completes (R55, R71, R96). -/
def endLaunch (l : Launch) (st : BitVec 8) (s : State) : State :=
  complete l st (deleteDoms l.id (deleteGroups l.id (vacateAll l s)))

/-- Whether a launch's process has been killed. -/
def killedProc (s : State) (l : Launch) : Bool := ((proc? s l.asid).map (·.killed)).getD true

/-- Every port that holds a ring of a process (R65). -/
def portsOf (s : State) (asid : Nat) : List Bool :=
  [false, true].filter fun b => s.io.rings.any fun r => portOf r.key == b && r.bound && r.asid == asid

/-- The killing of a process is notified once the last of its launches has its stamp (R65, R259). -/
def killEvent (asid : Nat) (s : State) : State :=
  if s.root.launches.any fun l => l.asid == asid then s else (portsOf s asid).foldl (fun s p => msi p 33 s) s

/-- LAUNCH_END (R96, R254, R259): every stage has ended, or every core has stopped, and every command has retired. -/
def execLaunchEnd (launch : Nat) (s : State) : Out :=
  match launch? s launch with
  | none => .next s
  | some l =>
    if !allRetired s l || !s.ms.heldW.isEmpty || !launchQuiet s l then .next s
    else if l.st = .running then
      if l.placed.all (·.gone) then .next (endLaunch l 0x00 s) else .next s
    else if l.st = .halting && !l.resumable && (killedProc s l || allStopped s l) then
      let s := match l.origin with
        | some o => nameStop l o s
        | none => s
      let t := endLaunch l (if killedProc s l then 0x03 else 0x01) s
      .next (if killedProc s l then killEvent l.asid t else msi (portOf l.ring) 33 t)
    else .next s

end Sys2Proof.Machine
end

