-- ==== Sys2Proof/Machine/HostPort.lean ====
section
/-! DEFINITION. What the host does at a port: doorbells, control registers, descriptor slots and the BAR 2 window (R20, R65 to
R68). Below service level S1 a port serves SVCSTAT only. -/

namespace Sys2Proof.Machine

/-- A ring event of the host, for a ring that exists and a port that serves it. -/
def ringWrite (port : Bool) (ring : Nat) (f : Ring → Ring) (s : State) : Out :=
  if hostUp s && ring < 32 then .next (modRing (ringKey port ring) f s) else .next s

/-- What a doorbell makes of a ring (R67): discarded without ENABLE; discarded with BADTAIL when TAIL − HEAD is above 64 or
below what it was. -/
def doorbell (tail : W32) (r : Ring) : Ring :=
  if !r.enable then r
  else if 64 < (tail - r.head).toNat || (tail - r.head).toNat < (r.tail - r.head).toNat then { r with badtail := true }
  else { r with tail := tail }

/-- RTAIL_DOORBELL (R67). -/
def execRtailDoorbell (port : Bool) (ring : Nat) (tail : W32) (s : State) : Out := ringWrite port ring (doorbell tail) s

/-- RERR_CLEAR (R67). -/
def execRerrClear (port : Bool) (ring : Nat) (val : Word) (s : State) : Out :=
  ringWrite port ring (fun r => { r with badtail := r.badtail && !val.getLsbD 0, badstamp := r.badstamp && !val.getLsbD 1 }) s

/-- HOST_REGISTER_WRITE (R65, R67): RCTL of a ring takes MSIEN and HEADIEN; every other field without a row of its own is
read only. -/
def execHostRegisterWrite (port : Bool) (off : Nat) (val : Word) (s : State) : Out :=
  if 0x10000 ≤ off && off < 0x30000 && off % 0x1000 = 0 then
    ringWrite port ((off - 0x10000) / 0x1000) (fun r => { r with msien := val.getLsbD 1, headien := val.getLsbD 18 }) s
  else .next s

/-- DESCRIPTOR_SLOT_WRITE (R65, R68). -/
def execDescriptorSlotWrite (port : Bool) (ring slot : Nat) (desc : BitVec 2048) (s : State) : Out :=
  if slot < 64 then ringWrite port ring (fun r => { r with slots := (slot, desc) :: r.slots.filter fun x => x.1 != slot }) s
  else .next s

/-! ### The window (R65, R66, R139) -/

/-- Base of a port's window (R65). -/
def windowBase (s : State) (port : Bool) : Nat := if port then s.io.winEast else s.io.winWest

/-- The parts of a window access that lie in one line each: key and bytes. -/
def windowParts (s : State) (port : Bool) (off : Nat) (data : List Byte) : List (Nat × List Byte) :=
  chunksF data.length (windowBase s port + off) data

/-- WINDOW_WRITE (R66, R420): performed in the order of arrival; a part at any other address is dropped. -/
def execWindowWrite (port : Bool) (off : Nat) (data : List Byte) (s : State) : Out :=
  if !hostUp s || 2 ^ 36 < off + data.length || !s.ms.heldW.isEmpty then .next s
  else .next ((windowParts s port off data).foldl (fun s c => if allocatable s c.1 then performAll (ioNode port) c.1 c.2 s else s) s)

/-- WINDOW_READ (R66): memory as it stands at its home slice, or all ones with a completer abort. -/
def execWindowRead (port : Bool) (off len : Nat) (s : State) : Out :=
  if !hostUp s || 2 ^ 36 < off + len then .next s
  else
    let k := windowBase s port + off
    let parts := windowParts s port off (List.replicate len 0)
    let ok := parts.all fun c => allocatable s c.1 && !poisoned s c.1 c.2.length
    let out := if ok then HostOut.read port (memRead s.mem k len) false else HostOut.read port (List.replicate len 0xFF) true
    .next (parts.foldl (fun t c => if allocatable s c.1 then readFrom (ioNode port) (lineOf c.1) t else t)
      (modIo (fun o => { o with outs := o.outs ++ [out] }) s))

end Sys2Proof.Machine
end

