-- ==== Sys2Proof/Machine/Package.lean ====
section
/-! DEFINITION. Reset, bring-up, clocks, temperatures and degraded operation (R10 to R23, R31, R82 to R85). -/

namespace Sys2Proof.Machine

/-! ### Firmware (R84, R85) -/

/-- A firmware image passes the verifier (R84): key, signature, digest and security version. -/
def verified (i : FwImage) (counter : W32) : Bool := i.keyOk && i.sigOk && i.digestOk && counter.toNat ≤ i.version.toNat

/-- The anti-rollback counter of a kind (R84). -/
def rollback (p : Pkg) : FwKind → W32
  | .serlar => p.rbSerlar | .mmode => p.rbMmode | .walker => p.rbWalker

/-- The loaded image of a kind. -/
def loaded (p : Pkg) : FwKind → Option FwImage
  | .serlar => p.serlar | .mmode => p.mmode | .walker => p.walker

/-- An image of a kind is loaded. -/
def loadFw (k : FwKind) (i : FwImage) (p : Pkg) : Pkg :=
  match k with
  | .serlar => { p with serlar := some i } | .mmode => { p with mmode := some i } | .walker => { p with walker := some i }

/-- An image that is checked is loaded, or sets FWERR (R84). -/
def takeFw (k : FwKind) (i : FwImage) (p : Pkg) : Pkg :=
  if verified i (rollback p k) then loadFw k i p else { p with fwerr := true }

/-! ### Dies (R10, R13, R19 to R21) -/

/-- A die of the package. -/
def dieAt (p : Pkg) (d : Nat) : Die := p.dies[d]?.getD Die.reset

/-- Changes a die. -/
def modDie (d : Nat) (f : Die → Die) (p : Pkg) : Pkg := { p with dies := p.dies.setIfInBounds d (f (dieAt p d)) }

/-- THROT (R19): online dies whose clock is below their target; a die that is not online has its bit 0, which R19's reset value asks
for though its clock at reset is below its target (DESIGN CHOICE, log 20). -/
def throtOf (p : Pkg) : BitVec 24 :=
  ((List.range 24).filter fun d => p.online.getLsbD d && (dieAt p d).clock < (dieAt p d).target).foldl (fun m d => m ||| (1#24 <<< d)) 0

/-- THROT follows the clocks. -/
def setThrot (p : Pkg) : Pkg := { p with throt := throtOf p }

/-- Dies that a link without working lanes touches are marked failed (R21, R31). -/
def failLinks (dead : List Nat) (p : Pkg) : Pkg :=
  (dead.flatMap linkDies).foldl (fun p d => { modDie d (fun x => { x with failed := true }) p with err := true }) p

/-- DEVICE_RESET (R18, R20, R31, R82, R84): everything as reset leaves it but the fuses (the populated-core map and the
anti-rollback counters); the boot ROM verifies Serlar, and the links take their width. -/
def execDeviceReset (img : FwImage) (half dead : List Nat) (s : State) : Out :=
  let p := { Pkg.reset with absent := s.pkg.absent, rbSerlar := s.pkg.rbSerlar, rbMmode := s.pkg.rbMmode, rbWalker := s.pkg.rbWalker,
                            halfLinks := half, deadLinks := dead }
  .next { State.reset with pkg := failLinks dead (takeFw .serlar img p), agenda := s.agenda, free := s.free }

/-- HOST_LINKS_TRAINED (R20, R82, R84): Serlar runs, the device enters S1, and Serlar verifies the other two images. -/
def execHostLinksTrained (mmode walker : FwImage) (s : State) : Out :=
  if s.pkg.sl != 0 || s.pkg.serlar.isNone then .next s
  else .next (modPkg (fun p => takeFw .walker walker (takeFw .mmode mmode { p with sl := 1 })) s)

/-- DRAM_TRAINING_DONE (R20, R21, R84). -/
def execDramTrainingDone (die : Nat) (ok : Bool) (s : State) : Out :=
  let d := dieAt s.pkg die
  if 24 ≤ die || s.pkg.sl = 0 || s.pkg.sl = 3 || s.pkg.mmode.isNone || s.pkg.walker.isNone || d.trained || d.failed then .next s
  else if ok then
    .next (modPkg (fun p => setThrot { modDie die (fun d => { d with trained := true, clock := 600 }) p with
      online := p.online ||| (1#24 <<< die), sl := 2 }) s)
  else .next (modPkg (fun p => { modDie die (fun d => { d with failed := true }) p with err := true }) s)

/-- Launches that run, that have passed the gate, or that may still do so at S2 (R23). -/
def passedGate (s : State) : Bool := s.root.launches.any fun l => l.st != .gate || l.early

/-- ENTER_S3 (R20, R21, R23, R155): the clocks rise to their targets, and every block's bark metadata is 0x7777. -/
def execEnterS3 (s : State) : Out :=
  if s.pkg.sl != 2 || !diesSettled s || passedGate s then .next s
  else .next (modPkg (fun p => setThrot { p with
    sl := 3, dies := p.dies.map fun d => if d.trained && !d.failed then { d with clock := d.target } else d })
    { s with mem := s.mem.filter fun c => !isMetaKey c.1 })

/-- The core clock after a sample (R10, R13): a clock above its target comes down like one of a hot die. -/
def sampledClock (sl : BitVec 2) (d : Die) (hot : Nat) : Nat :=
  let top := if sl = 2 then min 600 d.target else d.target
  if 105 < hot then max 500 (d.clock - 50)
  else if top < d.clock then max top (d.clock - 50)
  else if hot ≤ 100 then min top (d.clock + 50)
  else d.clock

/-- What a sample makes of a die (R13): clock, refresh, and the run of samples at 115 °C or more while at 500 MHz. -/
def sampleDie (sl : BitVec 2) (time hot : Nat) (layers : List Nat) (d : Die) : Die :=
  { d with
    clock := sampledClock sl d hot
    hot := if 115 ≤ hot && d.clock = 500 then d.hot + 1 else 0
    sampled := some time
    fastRefresh := layers.any (85 < ·) || (d.fastRefresh && layers.any (82 < ·)) }

/-- The thermal gang stop of every partition that holds cores on a die (R13, R255): terminal, with REASON 4. -/
def thermalStop (die : Nat) (s : State) : State :=
  let hit := fun (l : Launch) => match (proc? s l.asid).bind (partOfProc s) with
    | some pt => (grovesOf pt.groves).any fun g => dieOfGrove g == die
    | none => false
  (s.root.launches.filter fun l => (l.st == .bound || l.st == .running || (l.st == .halting && l.resumable)) && hit l).foldl
    (fun s l => notifyRoot l.id ⟨none, 4, 0⟩ [] s) s

/-- The time between two samples of a die, in ticks of the time base: 100 µs (R13). -/
def sampleTicks : Nat := 10000

/-- Whether a die's next sample is due (R13). -/
def sampleDue (s : State) (die : Nat) : Bool := ((dieAt s.pkg die).sampled.map fun t => decide (t + sampleTicks ≤ s.pkg.time)).getD true

/-- THERMAL_SAMPLE (R13), of every die, online or not. -/
def execThermalSample (die : Nat) (hot : Nat) (layers : List Nat) (s : State) : Out :=
  if 24 ≤ die || !sampleDue s die then .next s
  else
    let d := sampleDie s.pkg.sl s.pkg.time hot layers (dieAt s.pkg die)
    let s := modPkg (fun p => setThrot (modDie die (fun _ => if d.hot = 10 then { d with hot := 0 } else d) p)) s
    let s := if d.hot = 10 then thermalStop die s else s
    .next (if 125 ≤ hot then modPkg (fun p => { p with power := false }) s else s)

/-- CORE_CLOCK_TARGET_WRITE (R10, R13, R83). -/
def execCoreClockTargetWrite (die mhz : Nat) (s : State) : Out :=
  if 24 ≤ die || !hostUp s then .next s
  else .next (modPkg (fun p => setThrot (modDie die (fun d => { d with target := max 500 (min 1000 mhz) }) p)) s)

/-- Pages that the tables of a process map from a level down (R143). -/
def leavesFrom (s : State) : (lvl table : Nat) → List Tlb
  | 0, table => (List.range 512).filterMap fun i =>
    let pte := memNat s.mem (table + 8 * i) 8
    if bits pte 0 1 = 1 && (bits pte 1 1 = 1 || bits pte 3 1 = 1) then leafOf 0 0 pte 0 else none
  | l + 1, table => (List.range 512).flatMap fun i =>
    let pte := memNat s.mem (table + 8 * i) 8
    if bits pte 0 1 = 0 then []
    else if bits pte 1 1 = 1 || bits pte 3 1 = 1 then (leafOf 0 0 pte (l + 1)).toList
    else leavesFrom s l (bits pte 10 44 * 4096)

/-- Pages of a process. -/
def pagesOf (s : State) (asid : Nat) : List Tlb := ((proc? s asid).map fun p => leavesFrom s 3 p.root).getD []

/-- The channel whose controller serves a retired channel's range (R15): the neighbour in the twig row. -/
def neighbourOf (twig : Nat) : Nat := if twigX twig % 16 = 15 then twig - 1 else twig + 1

/-- Whether a page has a line in the range of a channel (R139): a page of 32 KiB or more has one in every channel of its die. -/
def pageIn (t : Tlb) (twig : Nat) : Bool :=
  isDramKey t.pa && if 15 ≤ t.bits then dieOfPa t.pa == dieOfTwig twig
    else (List.range (2 ^ t.bits / 128)).any fun i => homeSlice (t.pa + 128 * i) == twig

/-- Whether some launch holds pages in the range of a channel (R15): pages of its process, or its halt area. -/
def rangeHeld (s : State) (twig : Nat) : Bool :=
  s.root.launches.any fun l => dieOfPa l.haltPa == dieOfTwig twig || (pagesOf s l.asid).any fun t => pageIn t twig

/-- CHANNEL_RETIREMENT (R15): while no launch holds pages in the channel's range or in that of the neighbour that is to serve it.
DESIGN CHOICE (log 79): a channel is retired also where that neighbour has itself been retired; the spec does not say what serves the
range then. -/
def execChannelRetirement (twig : Nat) (s : State) : Out :=
  if 6144 ≤ twig || !hostUp s || s.pkg.retired.contains twig || rangeHeld s twig || rangeHeld s (neighbourOf twig) then .next s
  else .next (modPkg (fun p => { p with retired := p.retired ++ [twig] }) s)

/-- POWER_LOSS (R18). -/
def execPowerLoss (s : State) : Out := .next (modPkg (fun p => { p with power := false }) s)

/-! ### Firmware on request (R84, R85) -/

/-- A mailbox request that is refused. -/
def mailRefuse (s : State) : State := modIo (fun o => { o with outs := o.outs ++ [.refused] }) s

/-- MAILBOX_FIRMWARE_UPDATE (R65, R84): an image that replaces a loaded one. -/
def execMailboxFirmwareUpdate (place : Mail FwKind) (img : FwImage) (s : State) : Out :=
  let kind := place.what
  if !hostUp s || (loaded s.pkg kind).isNone then .next s
  else
    let t := modPkg (takeFw kind img) s
    .next (msi place.port 0 (if verified img (rollback s.pkg kind) then t else mailRefuse t))

/-- ROLLBACK_COUNTER_RAISE (R84): counters only rise. -/
def execRollbackCounterRaise (kind : Mail FwKind) (val : W32) (s : State) : Out :=
  if !hostUp s then .next s
  else if val.toNat ≤ (rollback s.pkg kind.what).toNat then .next (msi kind.port 0 (mailRefuse s))
  else .next (msi kind.port 0 (modPkg (fun p => match kind.what with
    | .serlar => { p with rbSerlar := val } | .mmode => { p with rbMmode := val } | .walker => { p with rbWalker := val }) s))

/-- SVCSTAT (R19). -/
def svcstat (p : Pkg) : Word :=
  BitVec.ofNat 64 (p.sl.toNat + 4 * p.err.toNat + 8 * p.fwerr.toNat + 2 ^ 8 * p.online.toNat + 2 ^ 32 * p.throt.toNat)

/-- The 3 KiB of the populated-core map (R14, R65): bit i of byte j is 1 for a core 8j + i that is present. -/
def coreMap (absent : List Nat) : List Byte :=
  (List.range 3072).map fun j => (List.range 8).foldl (fun b i => if absent.contains (8 * j + i) then b else b ||| (1#8 <<< i)) 0

/-- The bytes of an attestation report that the device identity key signs (R85; their order is the model's, log 17). -/
def reportBytes (nonce : BitVec 256) (digests : List (BitVec 256)) (versions : List W32) (absent : List Nat) (svc : Word) : List Byte :=
  bytesOfNat 32 nonce.toNat ++ digests.flatMap (fun d => bytesOfNat 32 d.toNat) ++ versions.flatMap (fun v => bytesOfNat 4 v.toNat)
    ++ coreMap absent ++ bytesOfNat 8 svc.toNat

/-- ATTESTATION_REQUEST (R65, R85): the report, signed, and the vector of mailbox replies. -/
def execAttestationRequest (port : Bool) (nonce : BitVec 256) (s : State) : Out :=
  if !hostUp s then .next s
  else
    let imgs := [s.pkg.serlar, s.pkg.mmode, s.pkg.walker].filterMap id
    let ds := imgs.map (·.digest)
    let vs := imgs.map (·.version)
    let r := HostOut.report port nonce ds vs s.pkg.absent (svcstat s.pkg)
      (Config.identitySign (reportBytes nonce ds vs s.pkg.absent (svcstat s.pkg)))
    .next (msi port 0 (modIo (fun o => { o with outs := o.outs ++ [r] }) s))

/-! ### Reads of BAR 0 (R65, R67) -/

/-- A register of a ring's control page (R67). -/
def ringReg (r : Ring) (off : Nat) : Word :=
  match off with
  | 0x000 => BitVec.ofNat 64 (r.enable.toNat + 2 * r.msien.toNat + 4 * (r.asid % 65536) + 2 ^ 18 * r.headien.toNat)
  | 0x008 => r.head.zeroExtend 64
  | 0x010 => r.tail.zeroExtend 64
  | 0x018 => BitVec.ofNat 64 (r.badtail.toNat + 2 * r.badstamp.toNat + 2 ^ 32 * r.badlid.toNat)
  | _ => 0

/-- Eight bytes of BAR 0 as a port serves them at an aligned offset (R65, R67): the status page, the rings' control pages, the
descriptor slots. Below S1 only SVCSTAT is served (R20). The mailbox page is an interface of firmware (R423). -/
def barRead (s : State) (port : Bool) (off : Nat) : Option Word :=
  if off = 0 then some (svcstat s.pkg)
  else if !hostUp s || off % 8 != 0 then none
  else if 0x400 ≤ off && off < 0x1000 then
    some (BitVec.ofNat 64 (natOfBytes (((coreMap s.pkg.absent).drop (off - 0x400)).take 8)))
  else if 0x10000 ≤ off && off < 0x30000 then
    some (ringReg (getRing s (ringKey port ((off - 0x10000) / 0x1000))) (off % 0x1000))
  else if 0x100000 ≤ off && off < 0x180000 then
    let r := getRing s (ringKey port ((off - 0x100000) / 0x4000))
    let d := ((r.slots.find? fun x => x.1 == off % 0x4000 / 256).map (·.2)).getD 0
    some (d.extractLsb' (8 * (off % 256)) 64)
  else none

end Sys2Proof.Machine
end

