-- ==== Sys2Proof/Machine/Storage.lean ====
section
/-! DEFINITION. SRD and SWR, the pieces of the NVMe agent, and the extent table (R75 to R77, R86, R389). -/

namespace Sys2Proof.Machine

/-! ### Accesses of an NVMe agent (R76, R389, R420) -/

/-- The first part of a range that lies in host space: a transfer names device DRAM or the own pool (R389). -/
def hostPart (s : State) (va : Word) (n : Nat) (acc : Acc) : Option (Nat × Word) :=
  (lineParts va n).findSome? fun p =>
    let a := va + BitVec.ofNat 64 p.1
    match engPlace s a p.2 acc with
    | .ok q => if q.loc == .host then some (p.1, a) else none
    | .error _ => none

/-- What an agent reads of a command's source. -/
def agentRead (s : State) (va : Word) (n : Nat) : EngRead :=
  match hostPart s va n .read with
  | none => engRead s va n 0x70
  | some (off, a) => let r := engRead s va off 0x70; ⟨r.bytes, r.fail.orElse fun _ => some (0x70, a)⟩

/-- The first part of a destination that an agent cannot write. -/
def agentBad (s : State) (va : Word) (n : Nat) : Option (Nat × BitVec 8 × Word) :=
  match hostPart s va n .write with
  | none => engBad s va n 0x71
  | some (off, a) => (engBad s va off 0x71).orElse fun _ => some (off, 0x71, a)

/-- The requests of an agent's read go from its I/O die to the home slices, or to the core (R420). -/
def agentNote (io : Nat) (va : Word) (n : Nat) (s : State) : State :=
  (lineParts va n).foldl (fun s p =>
    match engPlace s (va + BitVec.ofNat 64 p.1) p.2 .read with
    | .error _ => s
    | .ok q =>
      let line := lineOf q.key
      let t := visitFrom io line s
      if q.loc == .dram && inSlice q then enterReadAt (homeSlice q.key) line ⟨true, false, false, q.bark⟩ 24 none t else t) s

/-- Bytes of one line that an agent writes; the core's L1 copies of them are dropped (R215, R221). -/
def agentPutAt (io : Nat) (how : Placing) (k : Nat) (bs : List Byte) (s : State) : State :=
  dropL1 k bs.length (performIo how io k bs s)

/-- Bytes that an agent writes at an address; a part that cannot be written is left out. -/
def agentPut (io : Nat) (va : Word) (bs : List Byte) (s : State) : State :=
  (lineParts va bs.length).foldl (fun s p =>
    match engPlace s (va + BitVec.ofNat 64 p.1) p.2 .write with
    | .error _ => s
    | .ok q => agentPutAt io ⟨inSlice q, false, false, q.bark⟩ q.key ((bs.drop p.1).take p.2) s) s

/-- Bytes written by an agent, whole or, where the destination fails, up to the open boundary of R378. -/
def agentStore (io : Nat) (bad : Option (Nat × BitVec 8 × Word)) (va : Word) (bs : List Byte) (s : State) : BitVec 8 × Word × State :=
  match bad with
  | none => (0, va, agentPut io va bs s)
  | some (off, st, a) =>
    let (b, s) := freeBound off s
    (st, a, agentPut io va (bs.take b) s)

/-! ### Raw bark (R86, R147) -/

/-- A line becomes POISON (R147, R157). -/
def addPoison (line : Nat) (s : State) : State := poisonLines [line] s

/-- Whether an address lies in a page in bark form (R143). -/
def barkPage (s : State) (va : Word) : Bool :=
  !inWindow va && s.pkg.sl == 3 && match lookup s s.core.asid va.toNat with
    | .ok t => t.bark && 21 ≤ t.bits && isDramKey t.pa
    | .error _ => false

/-- Addresses of the 128 KiB regions of a range. -/
def regionVas (va : Word) (n : Nat) : List Word := (List.range (n / 2 ^ 17)).map fun r => va + BitVec.ofNat 64 (2 ^ 17 * r)

/-- Whether a range moves in raw-bark form: whole 128 KiB regions of pages in bark form, each of 256 blocks (R155, log 38). -/
def rawRange (s : State) (va : Word) (n : Nat) : Bool :=
  va.toNat % 2 ^ 17 == 0 && n % 2 ^ 17 == 0 && (regionVas va n).all (barkPage s)

/-- The blocks of the 128 KiB region at a physical address. -/
def regionBlocks (pa : Nat) : List Nat := (List.range 256).map fun i => pa / 2 ^ 17 * 256 + i

/-- A block as a raw-bark write sends it. -/
def rawBlockAt (s : State) (block : Nat) : List Byte :=
  rawBlock ((List.range 4).flatMap fun j => memRead s.mem (blockLine block j * 128) 128)
    (fun j => s.poison.contains (blockLine block j)) fun j => metaOf s block / 16 ^ j % 16 == 7

/-- The bytes that a raw-bark write sends for a range (R86). -/
def rawOut (s : State) (va : Word) (n : Nat) : List Byte :=
  (regionVas va n).flatMap fun a =>
    match engPlace s a 128 .read with
    | .error _ => []
    | .ok p => (regionBlocks p.key).flatMap (rawBlockAt s)

/-- Lines of a raw-bark read at their places: written whole, or POISON; `io` is the die that they come from. -/
def putRawLines (io : Nat) : List (Nat × RawLine) → State → State
  | [], s => s
  | (line, some bs) :: ls, s => putRawLines io ls (agentPutAt io ⟨true, false, false, true⟩ (line * 128) bs s)
  | (line, none) :: ls, s => putRawLines io ls (addPoison line (visitFrom io line s))

/-- A raw-bark stream read into the regions at physical addresses: the state, and whether every block was valid (R389). -/
def rawIn (io : Nat) (pas : List Nat) (data : List Byte) (s : State) : State × Bool :=
  let lines := pas.flatMap fun pa => (regionBlocks pa).flatMap fun b => (List.range 4).map fun j => blockLine b j
  let r := rawBlocks (lines.length / 4) data
  (putRawLines io (lines.zip r.1) s, r.2)

/-- Physical addresses of the regions of a range. -/
def regionsOf (s : State) (va : Word) (n : Nat) : List Nat :=
  (regionVas va n).filterMap fun a =>
    match engPlace s a 128 .write with
    | .ok p => some p.key
    | .error _ => none

/-! ### SRD and SWR (R76, R389) -/

/-- The process of the core whose turn it is. -/
def procOf (s : State) : Option Proc := s.root.procs.find? fun p => p.asid == s.core.asid

/-- The extent that holds a transfer and permits it (R76). -/
def extentFor (s : State) (read : Bool) (drive nsid lba len : Nat) : Option Extent :=
  match procOf s with
  | none => none
  | some p => p.extents.find? fun x =>
      x.drive == drive && x.nsid == nsid && (x.lba == 512 || x.lba == 4096) && len % x.lba == 0 && x.first ≤ lba
        && lba + len / x.lba ≤ x.first + x.count && (if read then x.read else x.write)

/-- Bytes of one NVMe command at most: min(MDTS, 1 MiB), in whole blocks (R76). -/
def pieceBytes (drive lba : Nat) : Nat :=
  let m := Config.maxTransfer drive
  let n := if m = 0 then 2 ^ 20 else min m (2 ^ 20)
  max lba (n / lba * lba)

/-- A transfer as the command names it. -/
structure Transfer where
  read : Bool
  drive : Nat
  nsid : Nat
  lba : Nat
  addr : Word
  len : Nat
  fua : Bool
  rawb : Bool
deriving DecidableEq, Repr

/-- The transfer of SRD or SWR (R389). -/
def transferOf (c : Cmd) (read : Bool) : Transfer :=
  { read := read, drive := c.e.toNat % 16, nsid := c.e.toNat / 16, lba := c.b.toNat, addr := c.a, len := c.c.toNat,
    fua := !read && c.flags.getLsbD 1, rawb := c.flags.getLsbD 0 }

/-- Pieces of a transfer, `n` of them, of `sz` bytes but for the last; `data` is what a write sends. -/
def piecesOf (core time : Nat) (e : Entry) (t : Transfer) (bs sz first : Nat) (data : Nat → Nat → List Byte) : List Piece :=
  (List.range ((t.len + sz - 1) / sz)).map fun i =>
    let off := i * sz
    let len := min sz (t.len - off)
    { id := first + i, core := core, q := .cq, bank := e.bank, seq := e.seq, read := t.read, off := off, len := len,
      drive := t.drive, nsid := t.nsid, lba := t.lba + off / bs, addr := t.addr + BitVec.ofNat 64 off,
      data := data off len, fua := t.fua, rawb := t.rawb, since := time, ckpt := false }

/-- The pieces of a transfer handed to the NVMe agent of the drive's I/O die (R420). -/
def sendPieces (e : Entry) (ps : List Piece) (s : State) : State :=
  let s := ps.foldl (fun s p => countSent (inject ⟨.ext, twigOf p.core, driveNode p.drive, .piece p.id⟩ s)) s
  let s := modIo (fun o => { o with pieces := o.pieces ++ ps, nextPiece := o.nextPiece + ps.length }) s
  modEntry .cq e.ord (fun x => { x with outstanding := ps.length }) s

/-- The work of a dispatched command ends with a status. -/
def settleEntry (q : Queue) (ord : Nat) (st : BitVec 8) (tval : Word) (s : State) : State :=
  modEntry q ord (fun x => { x with st := .worked, status := st, tval := tval, outstanding := 0 }) s

/-- The bit that dinject names is inverted in the byte at OFF of a range, where that byte stands (R340; in raw-bark form, log 38). -/
def flipInject (e : Entry) (va : Word) (n : Nat) (s : State) : State :=
  match e.inject with
  | none => s
  | some (off, bit) =>
    if n ≤ off.toNat then s
    else match engPlace s (va + BitVec.ofNat 64 off.toNat) 1 .read with
      | .error _ => s
      | .ok p => { s with mem := memSet s.mem p.key (memGet s.mem p.key ^^^ (1#8 <<< bit.toNat)) }

/-- Why a region of a raw source cannot be read: its status and its address (R378). -/
def unreadable (s : State) (a : Word) : Option (BitVec 8 × Word) :=
  match engPlace s a 128 .read with
  | .error c => some (engStatus 0x70 c, a)
  | .ok _ => none

/-- SRD or SWR begins: the extent table is checked, the source of a write is read, and the pieces go out (R76). -/
def startStorage (read : Bool) (e : Entry) (s : State) : State :=
  let t := transferOf e.cmd read
  match extentFor s read t.drive t.nsid t.lba t.len with
  | none => settleEntry .cq e.ord 0x80 t.addr s
  | some x =>
    let pieces := piecesOf s.core.num s.pkg.time e t x.lba (pieceBytes t.drive x.lba) s.io.nextPiece
    let read_ := fun (s : State) => fireInject e 0 t.len (agentNote (driveNode t.drive) t.addr t.len s)
    if read then sendPieces e (pieces fun _ _ => []) s
    else if t.rawb && rawRange s t.addr t.len then
      match (regionVas t.addr t.len).findSome? (unreadable s) with
      | some f => settleEntry .cq e.ord f.1 f.2 s
      | none =>
        let u := flipInject e t.addr t.len s
        sendPieces e (pieces fun o n => rawOut u (t.addr + BitVec.ofNat 64 o) n) (read_ s)
    else
      let r := agentRead s t.addr t.len
      match r.fail with
      | some f => settleEntry .cq e.ord f.1 f.2 s
      | none =>
        let bs := injectBytes e 0 r.bytes
        sendPieces e (pieces fun o n => (bs.drop o).take n) (read_ s)

/-- A command that the agents outside the core carry out, once it has been dispatched. -/
def startRemote (opc : Nat) (bank : Bool) (seq : Nat) (f : Entry → State → State) (s : State) : Out :=
  match findEntry s.core .cq bank seq with
  | none => .next s
  | some e =>
    if e.st != .flight || e.cancelled || e.cmd.opc.toNat != opc || e.outstanding != 0 || !enginesGo s then .next s
    else .next (throughLoose e (f e) s)

/-- SRD (R389). -/
def execSrd (bank : Bool) (seq : Nat) (s : State) : Out := startRemote 0x46 bank seq (startStorage true) s

/-- SWR (R389). -/
def execSwr (bank : Bool) (seq : Nat) (s : State) : Out := startRemote 0x47 bank seq (startStorage false) s

/-! ### Pieces (R77) -/

/-- A piece of a command ends, with a status of its own: the first failure is kept, and the last piece ends the work (R77). -/
def pieceDone (p : Piece) (st : BitVec 8) (tval : Word) (s : State) : State :=
  let done := fun (e : Entry) =>
    let e := if e.status = 0 then { e with status := st, tval := if st = 0 then e.tval else tval } else e
    { e with outstanding := e.outstanding - 1, st := if e.outstanding ≤ 1 then .worked else e.st }
  match findEntry s.core p.q p.bank p.seq with
  | some e => if e.st = .flight then modEntry p.q e.ord done s else s
  | none => s

/-- Bytes of a piece that failed: an open mix of old and new data (R77, log 12). -/
def mixBytes (p : Piece) (data : List Byte) (s : State) : State :=
  let old := (engRead s p.addr p.len 0x71).bytes
  let (pick, s) := freeBytes p.len s
  let (new, s) := freeBytes p.len s
  let room := ((agentBad s p.addr p.len).map (·.1)).getD p.len
  let mix := old.mapIdx fun i b => if (pick.getD i 0).getLsbD 0 then data.getD i (new.getD i 0) else b
  agentPut (driveNode p.drive) p.addr (mix.take room) s

/-- The data of a read piece performed at its place: status and address of a failure. -/
def landPiece (e : Entry) (p : Piece) (data : List Byte) (s : State) : BitVec 8 × Word × State :=
  if p.rawb && rawRange s p.addr p.len then
    match agentBad s p.addr p.len with
    | some (_, st, a) => (st, a, s)
    | none =>
      let r := rawIn (driveNode p.drive) (regionsOf s p.addr p.len) data s
      let inPiece := e.inject.map fun x => decide (p.off ≤ x.1.toNat ∧ x.1.toNat < p.off + p.len)
      let t := if inPiece.getD false then flipInject e (p.addr - BitVec.ofNat 64 p.off) (p.off + p.len) r.1 else r.1
      (if r.2 then 0 else 0x83, p.addr, fireInject e p.off p.len t)
  else
    agentStore (driveNode p.drive) (agentBad s p.addr p.len) p.addr (injectBytes e p.off data) (fireInject e p.off p.len s)

/-- A piece of the checkpoint under way ends: the last one ends the checkpoint, which is refused where a piece of it has failed (R86,
log 64). -/
def ckptPiece (ok : Bool) (s : State) : State :=
  match s.root.ckpt with
  | none => s
  | some k =>
    let k := { k with failed := k.failed || !ok }
    if s.io.pieces.any (·.ckpt) then modRoot (fun r => { r with ckpt := some k }) s
    else msi k.ask.port 0 (modRoot (fun r => { r with ckpt := none }) (if k.failed then mailRefuse s else s))

/-- A piece ends: with its data where `ok`, with a status otherwise. -/
def endPiece (p : Piece) (ok : Bool) (st : BitVec 8) (data : List Byte) (s : State) : State :=
  let s := modIo (fun o => { o with pieces := o.pieces.filter fun x => x.id != p.id }) s
  if p.ckpt then ckptPiece ok s
  else atCore p.core (fun s =>
    match findEntry s.core p.q p.bank p.seq with
    | none => s
    | some e =>
      if ok && p.read then
        let r := landPiece e p data s
        pieceDone p r.1 r.2.1 r.2.2
      else if ok then pieceDone p 0 0 s
      else pieceDone p st p.addr (if p.read then mixBytes p data s else s)) s

/-- Commands that one drive's queue pairs hold (R75): 32 pairs of 256 entries. -/
def queueRoom : Nat := 32 * 256

/-- Whether a piece has reached its agent (R420), and a place in its drive's queues (R75). -/
def pieceIssued (s : State) (p : Piece) : Bool :=
  !(s.fab.net.any fun q => q.body == .piece p.id) && (s.io.pieces.takeWhile fun q => q.id != p.id).countP (fun q => q.drive == p.drive) < queueRoom

/-- Whether a piece may end: it has been issued, and the way of its completion to the core is open. -/
def pieceOver (s : State) (p : Piece) : Bool :=
  s.ms.heldW.isEmpty && pieceIssued s p && (p.ckpt || clearWay s .ext (driveNode p.drive) (twigOf p.core))

/-- The timeout of an NVMe command, in ticks of the time base: what the root kernel sets, from 1 ms to 60 s (R77). -/
def nvmeTicks (drive : Nat) : Nat := max 100000 (min 6000000000 (Config.nvmePolicy drive))

/-- NVME_PIECE_COMPLETE (R77, log 18): the drive's completion entry, with the data of a read. A plain read brings exactly
the piece's bytes. -/
def execNvmePieceComplete (piece : Nat) (ok : Bool) (data : List Byte) (s : State) : Out :=
  match s.io.pieces.find? fun p => p.id == piece with
  | none => .next s
  | some p =>
    if !pieceOver s p || (ok && p.read && !p.rawb && data.length != p.len) then .next s
    else .next (endPiece p ok 0x81 data s)

/-- NVME_PIECE_TIMEOUT (R77): a piece has exceeded its timeout. -/
def execNvmePieceTimeout (piece : Nat) (s : State) : Out :=
  match s.io.pieces.find? fun p => p.id == piece with
  | none => .next s
  | some p => if pieceOver s p && decide (p.since + nvmeTicks p.drive ≤ s.pkg.time) then .next (endPiece p false 0x82 [] s) else .next s

/-- Whether the root kernel attaches a namespace (R75): LBAs of 512 B or 4,096 B and no metadata, as the drive answers. -/
def attached (drive nsid : Nat) : Bool :=
  let f := Config.lbaFormat drive nsid
  drive < 16 && (f.1 == 512 || f.1 == 4096) && f.2 == 0

/-- EXTENT_TABLE_FILL (R75, R76, R423): up to 64 entries, of attached namespaces and in their LBAs. -/
def execExtentTableFill (asid : Mail Nat) (exts : List Extent) (s : State) : Out :=
  if !hostUp s then .next s
  else if exts.length ≤ 64 && exts.all fun x => attached x.drive x.nsid && x.lba == (Config.lbaFormat x.drive x.nsid).1 then
    .next (msi asid.port 0 (modRoot (fun r => { r with procs := r.procs.map fun p => if p.asid = asid.what then { p with extents := exts } else p }) s))
  else .next (msi asid.port 0 (mailRefuse s))

end Sys2Proof.Machine
end

