-- ==== Sys2Proof/Machine/Peers.lean ====
section
/-! DEFINITION. The peer transport: NRD, NWR and the peer form of CPYK, the packets of both directions, the peer table (R78 to
R81, R385, R390). -/

namespace Sys2Proof.Machine

/-- The entry of a connection. -/
def peer? (s : State) (conn : Nat) : Option Peer := s.io.peers.find? fun p => p.conn == conn

/-- Changes the entry of a connection. -/
def modPeer (conn : Nat) (f : Peer → Peer) (s : State) : State :=
  modIo (fun o => { o with peers := o.peers.map fun p => if p.conn = conn then f p else p }) s

/-- The UDP destination port of the peer transport (R78). -/
def peerUdpPort : Nat := 7244

/-- The 32 bytes of a transport header (R78). -/
def peerHeader (p : PeerPkt) : List Byte :=
  bytesOfNat 1 p.ver ++ bytesOfNat 1 p.op ++ bytesOfNat 2 (p.last.toNat + 2 * p.refused.toNat) ++ bytesOfNat 4 p.conn.toNat
    ++ bytesOfNat 4 p.seq.toNat ++ bytesOfNat 4 p.key.toNat ++ bytesOfNat 8 p.addr.toNat ++ bytesOfNat 4 p.len
    ++ bytesOfNat 4 p.ackseq.toNat

/-- The largest payload of a packet (R78). -/
def packetBytes : Nat := 8192

/-- What VER, LEN and the payload of a packet are (R78). A packet of another operation is dropped, and so, DESIGN CHOICE (log 86), is one
of another version, length or payload. -/
def pktOk (p : PeerPkt) : Bool :=
  p.ver == 1 && match p.op with
    | 0 | 2 => p.len == p.data.length && p.data.length ≤ packetBytes
    | 1 => p.data.isEmpty && p.len < 2 ^ 32
    | 3 | 4 | 5 => p.len == 0 && p.data.isEmpty
    | _ => false

/-- Packets that carry a run of bytes to an address: LAST on the final one (R78, R80). -/
def dataPackets (op : Nat) (conn key : W32) (addr : Word) (bs : List Byte) : List PeerPkt :=
  let n := (bs.length + packetBytes - 1) / packetBytes
  (List.range n).map fun i =>
    let d := (bs.drop (i * packetBytes)).take packetBytes
    { ver := 1, op := op, last := i + 1 == n, refused := false, conn := conn, seq := 0, key := key,
      addr := addr + BitVec.ofNat 64 (i * packetBytes), len := d.length, ackseq := 0, data := d }

/-- A packet of a core's command travels to the connection's I/O die (R420); one that the I/O die makes itself goes straight out. -/
def launchPkt (fromCore : Bool) (conn core : Nat) (p : PeerPkt) (s : State) : State :=
  if fromCore then countSent (inject ⟨.ext, twigOf core, peerNode conn, .peer conn p⟩ s) else wire conn p s

/-- Packets of a command (`fromCore`), or of an answer, sent in sequence and kept until they are acknowledged (R79). -/
def sendPackets (fromCore : Bool) (conn core : Nat) (bank : Bool) (seq : Nat) : List PeerPkt → State → State
  | [], s => s
  | p :: ps, s =>
    match peer? s conn with
    | none => s
    | some x =>
      let p := { p with seq := x.nextSeq }
      let since := if x.unacked.isEmpty then s.pkg.time else x.since
      let s := modPeer conn (fun x => { x with nextSeq := x.nextSeq + 1, unacked := x.unacked ++ [⟨p, core, bank, seq⟩], since := since }) s
      sendPackets fromCore conn core bank seq ps (launchPkt fromCore conn core p s)

/-- The status with which a command on an entry ends at once: 0x88 on a failed one, 0x8A on one that is not open (R79, R81). -/
def peerStop (s : State) (conn : Nat) : Option (BitVec 8) :=
  match peer? s conn with
  | none => some 0x8A
  | some p => match p.st with
    | .closed => some 0x8A
    | .failed => some 0x88
    | .opened => if p.closing then some 0x8A else none

/-! ### NRD, NWR and CPYK with `peer` (R385, R390) -/

/-- A command waits for its peer. -/
def awaitPeer (e : Entry) (s : State) : State := modEntry .cq e.ord (fun x => { x with outstanding := 1 }) s

/-- NRD begins: one READREQ for the whole transfer (R78). -/
def startNrd (e : Entry) (s : State) : State :=
  let c := e.cmd
  let conn := c.e.toNat
  match peerStop s conn, peer? s conn with
  | some st, _ => settleEntry .cq e.ord st c.a s
  | none, none => s
  | none, some p =>
    let pkt : PeerPkt := { ver := 1, op := 1, last := true, refused := false, conn := p.info.connId, seq := 0, key := p.info.key,
                           addr := c.b, len := c.c.toNat, ackseq := 0, data := [] }
    let s := modPeer conn (fun x => { x with reads := x.reads ++ [⟨s.core.num, e.bank, e.seq, c.a, c.c.toNat, []⟩] }) s
    awaitPeer e (sendPackets true conn s.core.num e.bank e.seq [pkt] s)

/-- NRD (R390). -/
def execNrd (bank : Bool) (seq : Nat) (s : State) : Out := startRemote 0x48 bank seq startNrd s

/-- Data sent to a peer: WRITE packets, or the end of the command where there is nothing to send. -/
def sendData (e : Entry) (conn : Nat) (runs : List (Word × List Byte)) (s : State) : State :=
  match peer? s conn with
  | none => s
  | some p =>
    let ps := runs.flatMap fun r => dataPackets 0 p.info.connId p.info.key r.1 r.2
    let n := ps.length
    let ps := ps.mapIdx fun i x => { x with last := i + 1 == n }
    if n = 0 then modEntry .cq e.ord (fun x => { x with st := .worked }) s
    else awaitPeer e (sendPackets true conn s.core.num e.bank e.seq ps s)

/-- NWR begins (R390). -/
def startNwr (e : Entry) (s : State) : State :=
  let c := e.cmd
  let conn := c.e.toNat
  match peerStop s conn with
  | some st => settleEntry .cq e.ord st c.a s
  | none =>
    let r := engRead s c.b c.c.toNat 0x70
    match r.fail with
    | some f => settleEntry .cq e.ord f.1 f.2 s
    | none =>
      let s := fireInject e 0 c.c.toNat (agentNote (peerNode conn) c.b c.c.toNat s)
      sendData e conn [(c.a, injectBytes e 0 r.bytes)] s

/-- NWR (R390). -/
def execNwr (bank : Bool) (seq : Nat) (s : State) : Out := startRemote 0x49 bank seq startNwr s

/-- The sources of a CPYK read repeat by repeat, with dinject applied: the runs to send, and the failure. -/
def ckRuns (s : State) (e : Entry) : List (Word × List Byte) × Option (BitVec 8 × Word) :=
  (List.range e.cmd.reps).foldl (fun x r =>
    match x.2 with
    | some _ => x
    | none =>
      let n := e.cmd.c.toNat
      let d := engRead s (strided e.cmd.b e.cmd.c r) n 0x70
      (x.1 ++ [(strided e.cmd.a e.cmd.c r, injectBytes e (r * n) d.bytes)], d.fail)) ([], none)

/-- The peer form of CPYK begins (R385). -/
def startCkPeer (v : W32) (e : Entry) (s : State) : State :=
  let conn := e.cmd.f.toNat
  match peerStop s conn with
  | some st => settleEntry .cq e.ord st e.cmd.a s
  | none =>
    let x := ckRuns s e
    match x.2 with
    | some f => settleEntry .cq e.ord f.1 f.2 s
    | none =>
      let n := e.cmd.c.toNat * e.cmd.reps
      let s := (List.range e.cmd.reps).foldl (fun s r => agentNote (peerNode conn) (strided e.cmd.b e.cmd.c r) e.cmd.c.toNat s) s
      let ck := x.1.foldl (fun v r => ckSum e.cmd v r.2) v
      sendData e conn x.1 (fireInject e 0 n (modEntry .cq e.ord (fun y => { y with ck := ck }) s))

/-- CPYK (R385): it begins once its start value is known. With `nodst` nothing is written, at a peer neither. -/
def execCpyk (bank : Bool) (seq : Nat) (s : State) : Out :=
  match findEntry s.core .cq bank seq with
  | none => .next s
  | some e =>
    match e.ckStart with
    | none => .next s
    | some v =>
      if e.cmd.flags.getLsbD 4 && !e.cmd.flags.getLsbD 3 then startRemote 0x42 bank seq (startCkPeer v) s
      else work .cq 0x42 bank seq (cpykWork v) s

/-! ### Ends of commands, and closing (R79, R81) -/

/-- A command that waits for its peer ends: its core is told from the connection's I/O die (R420). -/
def endPeerCmd (conn core : Nat) (bank : Bool) (seq : Nat) (st : BitVec 8) (s : State) : State :=
  atCore core (fun s =>
    match findEntry s.core .cq bank seq with
    | none => s
    | some e => if e.st = .flight then settleEntry .cq e.ord st (if st = 0 then e.tval else e.cmd.a) s else s)
    (visit .ext (peerNode conn) (twigOf core) s)

/-- Every command in flight on an entry ends with a status, and nothing stays outstanding. -/
def endAll (conn : Nat) (st : BitVec 8) (s : State) : State :=
  match peer? s conn with
  | none => s
  | some p =>
    let s := p.unacked.foldl (fun s u => endPeerCmd conn u.core u.bank u.seq st s) s
    let s := p.reads.foldl (fun s r => endPeerCmd conn r.core r.bank r.seq st s) s
    modPeer conn (fun p => { p with unacked := [], reads := [] }) s

/-- CLOSE goes out once no command is in flight on a closing entry; a failed entry closes at once (R81). -/
def closeIfIdle (conn : Nat) (s : State) : State :=
  match peer? s conn with
  | none => s
  | some p =>
    if !p.closing || p.st = .closed then s
    else if p.st = .failed then modPeer conn (fun p => { p with st := .closed }) s
    else if p.unacked.any (fun u => u.pkt.op != 2) || !p.reads.isEmpty then s
    else
      let pkt : PeerPkt := { ver := 1, op := 5, last := false, refused := false, conn := p.info.connId, seq := 0, key := 0, addr := 0,
                             len := 0, ackseq := 0, data := [] }
      sendPackets false conn 0 false 0 [pkt] s

/-- The root kernel closes an entry (R81). -/
def closeConn (conn : Nat) (s : State) : State := closeIfIdle conn (modPeer conn (fun p => { p with closing := true }) s)

/-- CONNECTION_CLOSE (R81, R423). -/
def execConnectionClose (conn : Mail Nat) (s : State) : Out :=
  if !hostUp s then .next s
  else match peer? s conn.what with
    | some p => .next (msi conn.port 0 (if p.closing || p.st = .closed then mailRefuse s else closeConn conn.what s))
    | none => .next (msi conn.port 0 (mailRefuse s))

/-- PEER_TABLE_OPEN (R79, R81, R423): an entry that is not in use. -/
def execPeerTableOpen (place : Mail Nat) (o : PeerOpen) (s : State) : Out :=
  let conn := place.what
  let free := match peer? s conn with
    | none => true
    | some p => p.st == .closed
  if !hostUp s then .next s
  else if conn < 512 && free then
    let p : Peer := { conn := conn, st := .opened, closing := false, info := o, nextSeq := 0, expect := 0, retries := 0, since := 0,
                      unacked := [], reads := [] }
    .next (msi place.port 0 (modIo (fun x => { x with peers := p :: x.peers.filter fun q => q.conn != conn }) s))
  else .next (msi place.port 0 (mailRefuse s))

/-! ### Acknowledgements (R79) -/

/-- Whether a sequence number is at or before another, modulo 2^32. -/
def seqLe (a b : W32) : Bool := (b - a).toNat < 2 ^ 31

/-- An acknowledgement of everything up to a sequence number: what it covers is dropped, and the commands whose last WRITE it
covers end. DESIGN CHOICE (log 80): the count of retries and the timer of R79 start again where the acknowledgement covers a packet;
the spec does not say when they do. -/
def ackUpTo (conn : Nat) (n : W32) (s : State) : State :=
  match peer? s conn with
  | none => s
  | some p =>
    let got := p.unacked.filter fun u => seqLe u.pkt.seq n
    let s := if got.isEmpty then s else modPeer conn (fun p => { p with unacked := p.unacked.filter (fun u => !seqLe u.pkt.seq n), retries := 0, since := s.pkg.time }) s
    let s := got.foldl (fun s u =>
      if u.pkt.op = 0 && u.pkt.last then endPeerCmd conn u.core u.bank u.seq 0 s
      else if u.pkt.op = 5 then modPeer conn (fun p => { p with st := .closed }) s
      else s) s
    closeIfIdle conn s

/-- PEER_ACK (R79). -/
def execPeerAck (conn : Nat) (pkt : PeerPkt) (s : State) : Out :=
  match peer? s conn with
  | some p => if p.st = .opened && pkt.op = 3 && pktOk pkt then .next (ackUpTo conn pkt.ackseq s) else .next s
  | none => .next s

/-- Packets sent again (R79). -/
def resendAll (conn : Nat) (s : State) : State :=
  match peer? s conn with
  | none => s
  | some p => p.unacked.foldl (fun s u => wire conn u.pkt s) (modPeer conn (fun p => { p with since := s.pkg.time }) s)

/-- A refused packet's command faults (R79); a read's record goes with it. -/
def refuseAt (conn : Nat) (n : W32) (s : State) : State :=
  match peer? s conn with
  | none => s
  | some p =>
    match p.unacked.find? fun u => u.pkt.seq == n with
    | none => s
    | some u =>
      let s := endPeerCmd conn u.core u.bank u.seq 0x89 s
      modPeer conn (fun p => { p with reads := p.reads.filter fun r => !(r.core == u.core && r.bank == u.bank && r.seq == u.seq) }) s

/-- PEER_NAK (R79): on a gap everything after ACKSEQ is sent again; a refusal faults the command of the packet. -/
def execPeerNak (conn : Nat) (pkt : PeerPkt) (s : State) : Out :=
  match peer? s conn with
  | some p =>
    if p.st != .opened || pkt.op != 4 || !pktOk pkt then .next s
    else if pkt.refused then .next (ackUpTo conn pkt.ackseq (refuseAt conn pkt.ackseq s))
    else .next (resendAll conn (ackUpTo conn pkt.ackseq s))
  | none => .next s

/-- The wait before a retry, in ticks of the time base: 64 µs, doubled on each retry (R79). -/
def retryTicks (n : Nat) : Nat := 6400 * 2 ^ n

/-- PEER_RETRY_TIMEOUT (R79): no acknowledgement has come in time, and the packets are sent again, at most 8 times; then the connection fails, or is closed (R81). -/
def execPeerRetryTimeout (conn : Nat) (s : State) : Out :=
  match peer? s conn with
  | none => .next s
  | some p =>
    if p.st != .opened || p.unacked.isEmpty || s.pkg.time < p.since + retryTicks p.retries then .next s
    else if p.retries < 8 then .next (resendAll conn (modPeer conn (fun p => { p with retries := p.retries + 1 }) s))
    else .next (closeIfIdle conn (modPeer conn (fun p => { p with st := .failed }) (endAll conn 0x88 s)))

/-! ### Packets that arrive (R78 to R81) -/

/-- An ACK or NAK of this side. -/
def answerPkt (conn : Nat) (p : Peer) (nak refused : Bool) (n : W32) (s : State) : State :=
  wire conn { ver := 1, op := if nak then 4 else 3, last := false, refused := refused, conn := p.info.connId, seq := p.nextSeq, key := 0,
              addr := 0, len := 0, ackseq := n, data := [] } s

/-- The places of a range in a process's address space; none where some part is not mapped for the access. -/
def rangeOf (s : State) (asid : Nat) (va : Word) (n : Nat) (acc : Acc) : Option (List (Nat × Place × Nat)) :=
  (lineParts va n).mapM fun p =>
    let a := va + BitVec.ofNat 64 p.1
    if inWindow a then none
    else match resolvePage s asid a acc with
      | .ok q => some (p.1, q, p.2)
      | .error _ => none

/-- A packet in order: `f` gives the state after it and whether it is refused. A gap is answered with a NAK, and a packet
seen before with the ACK it has had (R79). -/
def peerInOrder (conn : Nat) (op : Nat) (pkt : PeerPkt) (f : Peer → State → State × Bool) (s : State) : Out :=
  match peer? s conn with
  | none => .next s
  | some p =>
    if p.st != .opened || pkt.op != op || !pktOk pkt || !s.ms.heldW.isEmpty then .next s
    else if pkt.seq = p.expect then
      let r := f p (modPeer conn (fun p => { p with expect := p.expect + 1 }) s)
      .next (answerPkt conn p r.2 r.2 pkt.seq r.1)
    else if seqLe pkt.seq p.expect then .next (answerPkt conn p false false (p.expect - 1) s)
    else .next (answerPkt conn p true false (p.expect - 1) s)

/-- The grant that a packet names and its range lies in (R79). -/
def granted (o : PeerOpen) (pkt : PeerPkt) (n : Nat) (write : Bool) : Bool :=
  o.grants.any fun g => g.key == pkt.key && g.addr.toNat ≤ pkt.addr.toNat && pkt.addr.toNat + n ≤ g.addr.toNat + g.size
    && (if write then g.write else g.read)

/-- A WRITE that arrives: its data is performed, or it is refused (R79, R80). -/
def takeWrite (pkt : PeerPkt) (p : Peer) (s : State) : State × Bool :=
  let n := pkt.data.length
  match rangeOf s p.info.asid pkt.addr n .write with
  | some ps =>
    if granted p.info pkt n true then
      (ps.foldl (fun s q => performIo ⟨inSlice q.2.1, false, false, q.2.1.bark⟩ (peerNode p.conn) q.2.1.key ((pkt.data.drop q.1).take q.2.2) s) s,
        false)
    else (s, true)
  | none => (s, true)

/-- PEER_WRITE (R78). -/
def execPeerWrite (conn : Nat) (pkt : PeerPkt) (s : State) : Out := peerInOrder conn 0 pkt (takeWrite pkt) s

/-- A READREQ that arrives: the bytes it asks for go out in READRESP packets, or it is refused (R78, R79). -/
def takeReadreq (pkt : PeerPkt) (p : Peer) (s : State) : State × Bool :=
  match rangeOf s p.info.asid pkt.addr pkt.len .read with
  | some ps =>
    if granted p.info pkt pkt.len false && !ps.any fun q => poisoned s q.2.1.key q.2.2 then
      let bs := ps.flatMap fun q => memRead s.mem q.2.1.key q.2.2
      let s := ps.foldl (fun s q => readFrom (peerNode p.conn) (lineOf q.2.1.key) s) s
      (sendPackets false p.conn 0 false 0 (dataPackets 2 p.info.connId pkt.key pkt.addr bs) s, false)
    else (s, true)
  | none => (s, true)

/-- PEER_READREQ (R78). -/
def execPeerReadreq (conn : Nat) (pkt : PeerPkt) (s : State) : Out := peerInOrder conn 1 pkt (takeReadreq pkt) s

/-- Data of a read written at its destination from its connection's I/O die, where the command still waits; a destination that fails
ends it, and so does the last of the data (R80, R378, R420). -/
def landRead (conn : Nat) (r : PeerRead) (bs : List Byte) (last : Bool) (s : State) : State :=
  atCore r.core (fun s =>
    match findEntry s.core .cq r.bank r.seq with
    | none => s
    | some e =>
      if e.st != .flight then s
      else
        let t := agentStore (peerNode conn) (engBad s r.dest bs.length 0x71) r.dest bs s
        if t.1 != 0 then settleEntry .cq e.ord t.1 t.2.1 t.2.2
        else if last then settleEntry .cq e.ord 0 0 t.2.2
        else t.2.2) (visit .ext (peerNode conn) (twigOf r.core) s)

/-- Bytes of a read as they come, with dinject applied (R340): they count from the start of the transfer. -/
def readBytes (r : PeerRead) (data : List Byte) (s : State) : List Byte × State :=
  match findEntry (getCore s r.core) .cq r.bank r.seq with
  | none => (data, s)
  | some e =>
    let off := e.cmd.c.toNat - r.left
    (injectBytes e off data, atCore r.core (fireInject e off data.length) s)

/-- A READRESP that arrives belongs to the oldest read of the connection (R80). Its data is written up to a multiple of 128 B of the
transfer, and the rest with what follows (R378). -/
def takeReadresp (pkt : PeerPkt) (p : Peer) (s : State) : State × Bool :=
  match p.reads with
  | [] => (s, false)
  | r :: rest =>
    let data := pkt.data.take r.left
    let last := r.left ≤ data.length
    let (new, s) := readBytes r data s
    let bs := r.held ++ new
    let n := if last then bs.length else bs.length / 128 * 128
    let s := landRead p.conn r (bs.take n) last s
    let r' := { r with dest := r.dest + BitVec.ofNat 64 n, left := r.left - data.length, held := bs.drop n }
    (closeIfIdle p.conn (modPeer p.conn (fun p => { p with reads := if last then rest else r' :: rest }) s), false)

/-- PEER_READRESP (R80). -/
def execPeerReadresp (conn : Nat) (pkt : PeerPkt) (s : State) : Out := peerInOrder conn 2 pkt (takeReadresp pkt) s

/-- PEER_CLOSE (R81): the entry closes, and every command in flight on it faults. -/
def execPeerClose (conn : Nat) (pkt : PeerPkt) (s : State) : Out :=
  peerInOrder conn 5 pkt (fun _ s => (modPeer conn (fun p => { p with st := .closed }) (endAll conn 0x88 s), false)) s

end Sys2Proof.Machine
end

