-- ==== Sys2Proof/Machine/Placement.lean ====
section
/-! DEFINITION. Placement, stage bind and stage start (R44, R51, R60, R61, R91 to R95, R121, R267, R278). -/

namespace Sys2Proof.Machine

/-! ### Extents inside the chosen groves (R25, R91, R93) -/

/-- Twigs of the extent of a level whose north-west twig is given, in increasing number. -/
def twigsOf (lvl nw : Nat) : List Nat := (List.range 6144).filter fun t => nwTwig lvl t == nw

/-- North-west twig of a grove. -/
def groveNw (g : Nat) : Nat := twigAt (8 * (g % 12)) (8 * (g / 12))

/-- Groves that an extent touches. -/
def extentGroves (lvl nw : Nat) : List Nat :=
  if lvl < 4 then [groveOfTwig nw] else (List.range 96).filter fun g => nwTwig lvl (groveNw g) == nw

/-- Aligned extents of a level inside the chosen groves, by their north-west twigs in increasing number (R93). -/
def extentsIn (groves : List Nat) (lvl : Nat) : List Nat :=
  (List.range 6144).filter fun t => nwTwig lvl t == t && (extentGroves lvl t).all groves.contains

/-- The cores of an extent in spread order (R93). -/
def spreadOrder (lvl nw : Nat) : List Nat :=
  let ts := twigsOf lvl nw
  (List.range 4).flatMap fun c => ts.map fun t => 4 * t + c

/-- The cores of the chosen groves in increasing number. -/
def coresOf (groves : List Nat) : List Nat := (List.range Config.cores).filter fun n => groves.contains (groveOf n)

/-! ### Assigning cores (R90, R92, R93, R278) -/

/-- What a stage asks of the allocator. -/
structure Want where
  stage : Nat
  desc : StageDesc
  record : StageRec
  /-- the larger of MINC and NT (R278) -/
  need : Nat
deriving DecidableEq, Repr

/-- A stage with its candidates in order and the cores it has been given. -/
structure Alloc where
  want : Want
  cands : List Nat
  cores : List Nat
deriving DecidableEq, Repr

/-- What the stages of a launch ask for; none where a stage matches no record. -/
def wantsOf (l : Launch) (img : ImageRec) : Option (List Want) :=
  (List.range l.stages.length).mapM fun k => do
    let d ← l.stages[k]?
    let i ← recIndex img d.entry
    let r ← img.stages[i]?
    return ⟨k, d, r, max d.minc (namedCores img i)⟩

/-- Register-region slots that a stage record gives (R115). -/
def slotsOf (r : StageRec) : Nat := r.pool0 / Config.slotBytes

/-- The bank of a core that a stage would take: the active one where it is free (R92). -/
def freeBank (c : Core) : Option Bool :=
  if c.bank.bound.isNone then some c.bank.num else if c.shadow.bound.isNone then some c.shadow.num else none

/-- Whether a core would be eligible on an empty partition (R90, R92). -/
def eligibleEmpty (s : State) (w : Want) (n : Nat) : Bool := present s n && 2 + w.desc.helpers ≤ slotsOf w.record

/-- Whether a core is eligible for a stage of a launch (R92). -/
def eligible (s : State) (l : Launch) (w : Want) (n : Nat) : Bool :=
  let c := getCore s n
  eligibleEmpty s w n && match freeBank c with
    | none => false
    | some b => match (c.bankOf (!b)).bound with
      | none => true
      | some o =>
        (launch? s o.launch).map (·.asid) == some l.asid && o.launch != l.id
          && c.dpoolb0 == w.record.pool0 && c.dpoolb1 == w.record.pool1 && c.dpoolb2 == w.record.pool2
          && 2 + w.desc.helpers + o.helpers ≤ slotsOf w.record
          && !(w.desc.blevel != 0 && o.chan == some w.desc.bchan)

/-- The candidates of a stage in order: of one extent, or of all the chosen groves (R93). -/
def candidates (ok : Want → Nat → Bool) (groves : List Nat) (w : Want) (taken : List Nat) : Option (List Nat) :=
  let fit := fun (l : List Nat) => l.filter fun n => ok w n && !taken.contains n
  if w.desc.blevel = 0 then
    let l := fit (coresOf groves)
    if l.length < w.need then none else some l
  else ((extentsIn groves w.desc.blevel).map fun t => fit (spreadOrder w.desc.blevel t)).find? fun l => w.need ≤ l.length

/-- The first pass (R93): every stage receives the cores it needs. -/
def passOne (ok : Want → Nat → Bool) (groves : List Nat) : List Want → List Nat → Option (List Alloc)
  | [], _ => some []
  | w :: ws, taken => do
    let c ← candidates ok groves w taken
    let mine := c.take w.need
    let rest ← passOne ok groves ws (taken ++ mine)
    return ⟨w, c.drop w.need, mine⟩ :: rest

/-- One round of the second pass: each stage in turn is handed one core. -/
def handOut : List Alloc → List Nat → List Alloc × List Nat
  | [], taken => ([], taken)
  | a :: as, taken =>
    let free := a.cands.filter fun n => !taken.contains n
    match free with
    | n :: rest =>
      if a.cores.length < a.want.desc.maxc then
        let r := handOut as (n :: taken)
        ({ a with cands := rest, cores := a.cores ++ [n] } :: r.1, r.2)
      else let r := handOut as taken; (a :: r.1, r.2)
    | [] => let r := handOut as taken; ({ a with cands := [] } :: r.1, r.2)

/-- The second pass (R93), with `fuel` at least the number of rounds. -/
def passTwo : (fuel : Nat) → List Alloc → List Nat → List Alloc
  | 0, as, _ => as
  | n + 1, as, taken =>
    let r := handOut as taken
    if r.2.length = taken.length then r.1 else passTwo n r.1 r.2

/-- Cores for every stage of a launch (R93). -/
def assign (ok : Want → Nat → Bool) (groves : List Nat) (ws : List Want) : Option (List Alloc) :=
  (passOne ok groves ws []).map fun as => passTwo Config.cores as (as.flatMap (·.cores))

/-! ### Groups and domains (R44, R51, R60, R94, R267) -/

/-- The slices of a partition in increasing index (R51, R164). -/
def slicesOfPart (p : Part) : List Nat := (List.range 6144).filter fun i => p.groves.getLsbD (groveOfTwig i)

/-- Bytes of the slice scratch that the sections of a launch take from offset 0 upward (R267): those of the kernels of its stages, each
with a section of its own (R268). -/
def sectionOf (s : State) (l : Launch) : Nat :=
  (List.range l.stages.length).foldl (fun m k =>
    match imageOf s l, stageRec s l k with
    | some i, some r => max m (i.img.sliceBytes.getD r.kernel 0)
    | _, _ => m) 0

/-- The highest end of a slice section that homes of a partition must leave free (R267). -/
def sectionFloor (s : State) (part : Nat) (own : Launch) : Nat :=
  (s.root.launches.filter fun x => holdsCores x && ((proc? s x.asid).map (·.part)) == some part).foldl
    (fun m x => max m (sectionOf s x)) (sectionOf s own)

/-- The highest place in a slice's scratch where a home fits (R51). -/
def homePlace (s : State) (slice size floor : Nat) : Option Nat :=
  let z := scratchSize s slice
  let clash := fun (o : Nat) => s.fab.groups.any fun g => g.slice == slice && g.home < o + size && o < g.home + 4096 * (g.size + 1)
  (((List.range (z / 4096)).filter fun i => 4096 * i + size ≤ z).map fun i => z - size - 4096 * i).find? fun o => floor ≤ o && !clash o

/-- The lowest level whose extent holds every core, and the node of that extent (R44). -/
def groupRoot (cores : List Nat) : Nat × NodeId :=
  let t := twigOf (cores.headD 0)
  let lvl := ((List.range 7).map (· + 1)).find? fun k => cores.all fun n => nodeAt k (twigOf n) == nodeAt k t
  (lvl.getD 7, nodeAt (lvl.getD 7) t)

/-- Whether some node of a group's extent holds 64 entries already (R44): the node that holds most is a twig node of the
smallest extent there. -/
def tableFull (s : State) (lvl : Nat) (root : NodeId) : Bool :=
  let inside := fun (g : Group) => g.level ≤ lvl && nodeAt lvl g.root.twig == root
  let twigs := root.twig :: (s.fab.groups.filter inside).map (·.root.twig)
  twigs.any fun t => 64 ≤ (s.fab.groups.filter fun g => inExtent g ⟨1, t⟩).length

/-- The offer group of a stage is created (R44, R51); none where a table or a scratch has no room. -/
def createGroup (l : Launch) (pt : Part) (a : Alloc) (g : Nat) (s : State) : Option State :=
  let r := groupRoot a.cores
  let sl := (slicesOfPart pt)
  let slice := sl.getD (g % sl.length) 0
  if tableFull s r.1 r.2 then none
  else match homePlace s slice (4096 * (a.want.desc.homesz + 1)) (sectionFloor s pt.id l) with
    | none => none
    | some o =>
      let gr : Group := { num := g, level := r.1, root := r.2, launch := l.id, stage := a.want.stage, part := pt.id,
                          members := a.cores, slice := slice, home := o, size := a.want.desc.homesz, sent := 0, taken := 0,
                          head := 0, tail := 0, bounces := 0, resends := 0, dropped := 0, ring := [], waiting := [] }
      let s := modFab (fun f => { f with groups := f.groups ++ [gr] }) s
      some (perform (scratchKey slice o) (groupRecord s gr) s)

/-- The groups of a launch, with the numbers that firmware chose (R44). -/
def createGroups (l : Launch) (pt : Part) : List Alloc → List Nat → State → Option State
  | [], _, s => some s
  | a :: as, gs, s =>
    if a.want.desc.offen then
      match gs with
      | [] => none
      | g :: gs => (createGroup l pt a g s).bind (createGroups l pt as gs)
    else createGroups l pt as gs s

/-- Whether the slice section of a launch meets a home in its partition (R267). -/
def sectionMeets (s : State) (l : Launch) (pt : Part) : Bool :=
  s.fab.groups.any fun g => g.home < sectionOf s l && pt.groves.getLsbD (groveOfTwig g.slice)

/-- Whether two domains of one channel need one node (R60): they meet at the lower of their top levels. -/
def domsMeet (k1 l1 : Nat) (c1 : List Nat) (k2 l2 : Nat) (c2 : List Nat) : Bool :=
  k1 == k2 && c1.any fun m => c2.any fun n => nodeAt (min l1 l2) (twigOf m) == nodeAt (min l1 l2) (twigOf n)

/-- Whether two stages of the launch need one node on one channel (R60, R94). -/
def ownDomsMeet : List Alloc → Bool
  | [] => false
  | a :: as =>
    let d := a.want.desc
    (d.blevel != 0 && as.any fun b => b.want.desc.blevel != 0
      && domsMeet d.bchan.toNat d.blevel a.cores b.want.desc.bchan.toNat b.want.desc.blevel b.cores) || ownDomsMeet as

/-- Whether a stage needs a node that another launch's domain has on the channel (R60, R94). -/
def otherDomsMeet (s : State) (as : List Alloc) : Bool :=
  as.any fun a => a.want.desc.blevel != 0 && s.fab.doms.any fun d =>
    domsMeet a.want.desc.bchan.toNat a.want.desc.blevel a.cores d.chan.toNat d.level (d.members.filter fun n => !d.left.contains n)

/-- The domain of a stage is enrolled (R60). -/
def enrol (l : Launch) (s : State) (a : Alloc) : State :=
  if a.want.desc.blevel = 0 then s
  else modFab (fun f =>
    let id := 1 + f.doms.foldl (fun m d => max m d.id) 0
    { f with doms := f.doms ++ [⟨id, a.want.desc.bchan, l.id, a.want.stage, a.want.desc.blevel, a.cores, [], [], false, 0, false, false⟩] }) s

/-! ### Stage bind (R61, R95, R97, R116, R121, R242) -/

/-- A channel bound to a bank (R59, R61, R312). -/
def bindChannel (k : BitVec 3) (lvl : Nat) (b : Bool) (c : Core) : Core :=
  { c with dmemb := (c.dmemb &&& ~~~(0xF#64 <<< (4 * k.toNat))) ||| (BitVec.ofNat 64 (8 + lvl % 8) <<< (4 * k.toNat))
           chans := c.chans.set k.toNat ⟨false, false, false, some b⟩ k.isLt
           phase := if c.phase = some k then none else c.phase }

/-- What a stage bind makes of a bank (R95, R97, R116, R125, R130, R257, R339, R340). Loop registers and accumulators stand
as they are. -/
def bindBank (bd : Bound) (r : StageRec) (cycles : Nat) (k : Bank) : Bank :=
  let pol := Config.schedPolicy bd.launch bd.stage
  let floor := fun (w : W32) => if w.toNat < 1024 then (1024 : W32) else w
  { Bank.reset k.num with
    bound := some bd, loopMq := k.loopMq, loopCq := k.loopCq, loopGq := k.loopGq, acc := k.acc, const := k.const
    dhstack := r.hstack &&& ~~~15#64, dhstksz := r.hstksz &&& 0xFFFFFFF0#64
    dquantum := floor (pol 0), dyield := pol 1, dbalwin := floor (pol 2), bindCycle := cycles, lastTake := none }

/-- Stage bind on a core (R95). DESIGN CHOICE (log 82): the core's scratchpad, and the scratch of the slices, hold at stage bind the
bytes that stood there; R267 leaves their contents unspecified. -/
def bindCore (bd : Bound) (w : Want) (b : Bool) (asid : Nat) (c : Core) : Core :=
  let r := w.record
  let c := { c with asid := asid, dpoolb0 := r.pool0, dpoolb1 := r.pool1, dpoolb2 := r.pool2
                    fresh := if (c.bankOf (!b)).bound.isSome then some b else c.fresh }
  let c := match bd.chan with
    | some k => bindChannel k w.desc.blevel b c
    | none => c
  (endContexts b c).modBankOf b (bindBank bd r c.cycles)

/-- The key of each 64 bytes of the 2,048 at CONST, as a core translates them; none where an access fails (R121). -/
def constKeys (va : Word) (s : State) : Option (List Nat) :=
  (List.range 32).mapM fun i =>
    let a := va + BitVec.ofNat 64 (64 * i)
    match (if inWindow a then resolveWindow s a 64 .read else resolvePage s s.core.asid a .read) with
    | .ok p => some p.key
    | .error _ => none

/-- The bytes at those keys; the bytes of a poisoned line are free (log 12). -/
def readConst : List Nat → State → List Byte × State
  | [], s => ([], s)
  | k :: ks, s =>
    let (bs, s) := if poisoned s k 64 then freeBytes 64 s else (memRead s.mem k 64, s)
    let r := readConst ks s
    (bs ++ r.1, r.2)

/-- A core's bank loads its constant half (R121). -/
def loadConst (n : Nat) (b : Bool) (va : Word) (s : State) : Option State :=
  (constKeys va (turnTo n s)).map fun ks =>
    let r := readConst ks s
    modCoreAt n (·.modBankOf b fun k => { k with const := BitVec.ofNat 16384 (natOfBytes r.1) }) r.2

/-- The cores of a stage with their indices and banks. -/
def placedOf (s : State) (a : Alloc) : List Placed :=
  a.cores.mapIdx fun i n => ⟨n, (freeBank (getCore s n)).getD false, a.want.stage, i, false⟩

/-- Stage bind on one core of a stage. -/
def bindPlaced (l : Launch) (a : Alloc) (p : Placed) (s : State) : Option State :=
  let d := a.want.desc
  let bd : Bound := {
    launch := l.id, stage := a.want.stage, index := p.index, count := a.cores.length, lid := l.lid, const := l.const
    entry := stageEntry s l a.want.stage, group := stageGroup s l.id a.want.stage, prio := l.prio, helpers := d.helpers
    chan := if d.blevel = 0 then none else some d.bchan, haltVa := l.haltVa, haltPa := l.haltPa, left := false }
  loadConst p.core p.bank l.const (modCoreAt p.core (bindCore bd a.want p.bank l.asid) s)

/-- Stage bind on every core of a launch (R95). -/
def bindAll (l : Launch) (as : List Alloc) (s : State) : Option State :=
  as.foldlM (fun s a => (placedOf s a).foldlM (fun s p => bindPlaced l a p s) s) s

/-! ### PLACEMENT (R90 to R94) -/

/-- Whether a launch's turn to be placed has come (R90). -/
def placeTurn (s : State) (l : Launch) : Bool :=
  let part := fun (x : Launch) => (proc? s x.asid).map (·.part)
  !s.root.launches.any fun x => x.st == .placing && x.id != l.id && part x == part l
    && (l.prio < x.prio || (x.prio == l.prio && x.passed < l.passed))

/-- Constraints of R91 on the chosen groves; at S2 they lie on one online die. -/
def grovesOk (s : State) (pt : Part) (groves : List Nat) (ws : List Want) : Bool :=
  groves.all (fun g => pt.groves.getLsbD g)
    && (s.pkg.sl != 2 || ((groves.map dieOfGrove).eraseDups.length == 1 && groves.all fun g => online s (dieOfGrove g)))
    && ws.all fun w => w.desc.blevel == 0
      || (extentsIn groves w.desc.blevel).any fun t => w.need ≤ ((spreadOrder w.desc.blevel t).filter (present s)).length

/-- The partition as if no other launch stood in it. -/
def emptied (s : State) : State :=
  modRoot (fun r => { r with launches := [] }) (modFab (fun f => { f with groups := [], doms := [] }) s)

/-- Whether firmware's choice is one: distinct groves, as many as the launch asks for, and a free number for each group. -/
def choiceOk (s : State) (l : Launch) (groves groups : List Nat) : Bool :=
  groves.length == l.groves && groves.eraseDups.length == groves.length && groves.all (· < 96)
    && groups.length == (l.stages.filter (·.offen)).length && groups.eraseDups.length == groups.length
    && groups.all fun g => g < 0xFFF && (group? s g).isNone

/-- The core indices of a stage with a domain are bound at its first placement in an extent (R278). -/
def bindCores (l : Launch) (s : State) (a : Alloc) : State :=
  let lvl := a.want.desc.blevel
  match imageOf s l with
  | none => s
  | some i =>
    match recIndex i.img a.want.desc.entry with
    | none => s
    | some r =>
      let at_ := nwTwig lvl (twigOf (a.cores.headD 0))
      if lvl = 0 || s.root.bounds.any fun b => b.digest == i.img.digest && b.record == r && b.level == lvl && b.extent == at_ then s
      else modRoot (fun x => { x with bounds := x.bounds ++ [⟨i.img.digest, r, lvl, at_, a.cores⟩] }) s

/-- The launch holds its cores and is bound (R94, R95); `none` where a bind fails. -/
def bindLaunch (l : Launch) (as : List Alloc) (s : State) : Option State :=
  let ps := as.flatMap (placedOf s)
  (bindAll l as (as.foldl (enrol l) s)).map fun s =>
    let s := as.foldl (bindCores l) s
    modRoot (fun r => { r with launches := r.launches.map fun x => if x.id = l.id then { x with st := .bound, placed := ps } else x }) s

/-- Placement of a launch whose turn has come: refused with 0x05, bound, or waiting with nothing taken (R90 to R94, R121). DESIGN CHOICE
(log 83): a slice section that meets no home is placed also where it is larger than the scratch of a slice. -/
def place (l : Launch) (pt : Part) (groves groups : List Nat) (ws : List Want) (s : State) : State :=
  let refused := complete l 0x05 s
  if !grovesOk s pt groves ws then refused
  else match assign (eligibleEmpty s) groves ws with
    | none => refused
    | some _ =>
      match assign (eligible s l) groves ws with
      | none => s
      | some as =>
        let alone := (createGroups l pt as groups (emptied s)).isSome
        if ownDomsMeet as || !alone then refused
        else if otherDomsMeet s as || sectionMeets s l pt then s
        else match createGroups l pt as groups s with
          | none => s
          | some t => (bindLaunch l as t).getD refused

/-- PLACEMENT (R91). -/
def execPlacement (launch : Nat) (groves groups : List Nat) (s : State) : Out :=
  match launch? s launch with
  | none => .next s
  | some l =>
    if l.st != .placing || !placeTurn s l || !choiceOk s l groves groups || s.pkg.sl.toNat < 2 || !s.ms.heldW.isEmpty then .next s
    else match imageOf s l, (proc? s l.asid).bind (partOfProc s) with
      | some i, some pt => match wantsOf l i.img with
        | some ws => .next (place l pt groves groups ws s)
        | none => .next s
      | _, _ => .next s

/-! ### STAGE_START (R95) -/

/-- The control context as it starts. -/
def controlCtx (k : Bank) (bd : Bound) : Ctx :=
  { Ctx.reset 0 with
    st := .ready, pc := bd.entry
    x := ((((Vector.replicate 32 (0 : Word)).set 10 (BitVec.ofNat 64 bd.index)).set 11 (BitVec.ofNat 64 bd.count)).set 12 bd.const).set 2
      (stackTop k 0) }

/-- The control context of a bank begins. -/
def startBank (b : Bool) (c : Core) : Core :=
  let k := c.bankOf b
  match k.bound with
  | none => c
  | some bd =>
    let x := controlCtx k bd
    if c.bank.num = b then { c.withCx x with bank := { c.bank with cur := 0, used := 0 } }
    else { c with shadow := { c.shadow with ctxs := [x], cur := 0 } }

/-- Whether a launch of the partition is stopped for a checkpoint (R86). -/
def checkpointed (s : State) (l : Launch) : Bool :=
  s.root.launches.any fun x => x.st == .halting && x.resumable && ((proc? s x.asid).map (·.part)) == ((proc? s l.asid).map (·.part))

/-- STAGE_START (R95): every window write made before has been performed (R66), and the way from the launch's port to its cores is open
(R420). -/
def execStageStart (launch : Nat) (s : State) : Out :=
  match launch? s launch with
  | none => .next s
  | some l =>
    let reached := l.placed.all fun p => pathOpen s (ioNode (portOf l.ring)) (twigOf p.core)
    if l.st != .bound || !s.ms.heldW.isEmpty || checkpointed s l || !reached then .next s
    else
      let s := l.placed.foldl (fun s p => modCoreAt p.core (startBank p.bank) s) s
      .next (modRoot (fun r => { r with launches := r.launches.map fun x => if x.id = launch then { x with st := .running } else x }) s)

end Sys2Proof.Machine
end

