-- ==== Sys2Proof/Machine/Slices.lean ====
section
/-! DEFINITION. The memory system's own events: L1 fills and write-backs (R140, R141), the slices' lines and miss registers (R148
to R151), flushes of owed releases (R141), replicas and page modes (R154), walks (R144), metadata (R158). -/

namespace Sys2Proof.Machine

/-! ### L1 (R140, R141) -/

/-- A line installed in L1: the fetched bytes under the dirty ones, most or least recently used (R140, R145). -/
def l1Install (f : Fill) (s : State) : State :=
  let data := lineNow s f.line
  let put := fun (x : L1Line) (l : List L1Line) => if f.lru then l ++ [x] else x :: l
  match l1Find s.core f.line with
  | some x => modCore (fun c => { c with l1 := put { x with data := mergeV x.data data (~~~x.dirty), valid := -1, bark := f.bark, nt := f.lru }
                                                   (c.l1.filter fun l => l.line != f.line) }) s
  | none => modCore (fun c => { c with l1 := put ⟨f.line, data, -1, 0, f.cls, none, false, f.bark, f.lru, none⟩ c.l1 }) (l1Evict f.line s)

/-- L1_FILL (R140): the oldest fill of the core, behind the core's own writes to the line's slice (R208) and the earlier replies of that
slice (R27); poison is not installed. -/
def execL1Fill (s : State) : Out :=
  match s.core.fills with
  | [] => .next s
  | f :: rest =>
    if behind s f.line || !clearWay s .rsp (readSlice s f.line) (twigOf s.core.num) then .next s
    else
      let s := modCore (fun c => { c with fills := rest }) s
      .next (if poisoned s (f.line * 128) 128 then s else l1Install f s)

/-! ### Writes at their slices (R141, R149, R151, R157, R208) -/

/-- The packets that carry a core's writes, in the order in which they left. -/
def writePackets (s : State) (n : Nat) : List (Packet × WriteBack) :=
  s.fab.net.filterMap fun p => match p.body with
    | .write c w => if c = n then some (p, w) else none
    | _ => none

/-- Whether a write on its way has reached its slice or owning bank: its route is open and it is the first of its class on it (R27,
R208); one to a DEVICE page comes after the core's earlier ones (R145). -/
def mayMerge (s : State) (before : List (Packet × WriteBack)) (x : Packet × WriteBack) : Bool :=
  mayArrive s x.1 && (!x.2.dev || (!(before.any (·.2.dev)) && s.ms.heldW.isEmpty))

/-- The writes that may perform. -/
def mergeable (s : State) : List (Packet × WriteBack) :=
  let l := writePackets s s.core.num
  ((List.range l.length).filterMap fun i => (l[i]?).filter (mayMerge s (l.take i)))

/-- Whether a write finds its line where it is performed, or needs none there (R145, R148). -/
def lineThere (s : State) (w : WriteBack) : Bool := !isDramKey (w.line * 128) || !w.how.held || inHomeSlice s w.line

/-- A write that misses: the first one to a line closes its miss register, or opens one that nothing attaches to, and waits for the line
(R151); with all registers busy it waits at the slice. -/
def awaitLine (w : WriteBack) (s : State) : State :=
  let home := homeSlice (w.line * 128)
  let x := getSlice s home
  let shut := fun (m : Miss) => if m.line = w.line then { m with closed := true, once := m.once && w.how.once } else m
  if x.misses.any fun m => m.line == w.line then modSlice home (fun x => { x with misses := x.misses.map shut }) s
  else if 32 ≤ x.misses.length then s
  else modSlice home (fun x => { x with misses := x.misses ++ [⟨w.line, s.pkg.time, 0, true, w.how.once, w.how.lru, w.how.bark, []⟩] }) s

/-- A write merges at its slice, or is held for replicas (R154); part of a POISON line is dropped with its record (R157, R158), and bytes
of a line that was POISON in L1 make it so (R157, R253). -/
def mergeWrite (core : Nat) (w : WriteBack) (s : State) : State :=
  if w.mask != 0 && mergeBad s w.line w.mask && !lineHeld s w.line then recordDropped core w.who s
  else
    let t := performMask core w s
    if w.bad then poisonLines [w.line] t else t

/-- WRITEBACK_MERGE (R141, R151, R208): a write of the core that has reached its slice merges there, once its line is there, and is
acknowledged (R28). Writes to different slices do so in any order: `pick` names one of those that may, the oldest where it names none
(log 1). -/
def execWritebackMerge (s : State) : Out :=
  let l := mergeable s
  match (l[s.pick]?).orElse fun _ => l.head? with
  | none => .next s
  | some (p, w) =>
    if !lineThere s w then .next (awaitLine w s)
    else
      let n := s.core.num
      .next (wakeStores n (mergeWrite n w (inject ⟨.rsp, p.dst, p.src, .wrote n⟩ (takePacket p s))))

/-! ### Requests (R148 to R151) -/

/-- Core cycles of a slice's die since a moment of the time base. -/
def cyclesSince (s : State) (slice t : Nat) : Nat :=
  let d := dieOfTwig slice
  (s.pkg.time - t) * ((s.pkg.dies.toList.map (·.clock)).getD d 0) / 100

/-- What serving a read request comes to: the slice after it, and whether it is answered at once; none where it waits. -/
structure Served where
  slice : Slice
  hit : Bool
deriving DecidableEq, Repr

/-- A read request served (R148 to R151): a hit is answered, and drops a ONCE line; a miss opens a register, or attaches to one within
64 core cycles. It waits behind a write that has closed a register (R149, R151), and while all registers are busy. -/
def serveReq (s : State) (x : Slice) (r : SliceReq) : Option Served :=
  match resident x r.line, x.misses.find? fun m => m.line == r.line with
  | some y, _ =>
    if y.wr then none
    else if y.once then some ⟨{ x with lines := x.lines.filter fun z => z.line != r.line }, true⟩
    else some ⟨if r.how.lru then x else toFront y x, true⟩
  | none, some m =>
    if m.closed || cyclesSince s x.num m.opened > 64 then none
    else
      let attach := fun (n : Miss) => if n.line = r.line then
        { n with attached := n.attached + 1, once := n.once && r.how.once, who := n.who ++ r.who.toList } else n
      some ⟨{ x with misses := x.misses.map attach, cnt := { x.cnt with merged := x.cnt.merged + 1 } }, false⟩
  | none, none =>
    if 32 ≤ x.misses.length then none
    else some ⟨{ x with misses := x.misses ++ [⟨r.line, s.pkg.time, 1, false, r.how.once, r.how.lru, r.how.bark, r.who.toList⟩] }, false⟩

/-- Whether an earlier request of a slice is for the same line: requests of one line keep their order. -/
def firstOfLine (l : List SliceReq) (i : Nat) : Bool :=
  match l[i]? with
  | none => false
  | some r => !(l.take i).any fun q => q.line == r.line

/-- The first request of a slice that need not wait, and what serving it comes to. -/
def nextServed (s : State) (x : Slice) : Option (SliceReq × Served) :=
  (List.range x.reqs.length).findSome? fun i =>
    match x.reqs[i]? with
    | some r => if firstOfLine x.reqs i then (serveReq s { x with reqs := x.reqs.eraseIdx i } r).map fun v => (r, v) else none
    | none => none

/-- A replica's miss fetches its line from the home slice, which counts it as a read from the replica's die (R151, R154). -/
def fetchHome (slice : Nat) (r : SliceReq) (s : State) : State :=
  let home := homeSlice (r.line * 128)
  if home = slice then s
  else modSlice home (fun z => { z with reqs := z.reqs ++ [⟨r.line, { Placing.dflt with bark := r.how.bark }, none⟩] })
    (visit .req slice home (countFrame r.line (dieOfTwig slice) false s))

/-- SLICE_ACCESS (R148 to R151): the first read request of the slice that need not wait is served. -/
def execSliceAccess (slice : Nat) (s : State) : Out :=
  let x := getSlice s slice
  match nextServed s x with
  | none => .next s
  | some (r, v) =>
    let t := setSlice x v.slice s
    if v.hit then .next ((r.who.map fun w => answer slice r.line w t).getD t)
    else if x.misses.length < v.slice.misses.length then .next (fetchHome slice r t)
    else .next t

/-- SLICE_FILL (R151): the line of the slice's oldest miss register that may arrive does so. -/
def execSliceFill (slice : Nat) (s : State) : Out :=
  let way := fun (m : Miss) => let home := homeSlice (m.line * 128); home == slice || clearWay s .rsp home slice
  match (getSlice s slice).misses.findSome? fun m => if way m then fillMiss slice m s else none with
  | some t => .next t
  | none => .next s

/-- Lines that leave a slice whose sets have fewer sectors (R138), least recently used first (R148). -/
def trimLines (cap : Nat) : List L2Line → List L2Line
  | [] => []
  | y :: ys =>
    let rest := trimLines cap ys
    if ((y :: rest).filter fun z => setOf z.line == setOf y.line).foldl (fun n z => n + z.sectors) 0 ≤ cap then y :: rest else rest

/-! ### Flushes of owed releases (R141) -/

/-- A flush request for the core that may leave the mesh. -/
def flushFor (s : State) : Option (Packet × Nat × Nat) :=
  s.fab.net.findSome? fun p => match p.body with
    | .flush c line slice => if c = s.core.num && mayArrive s p then some (p, line, slice) else none
    | _ => none

/-- A flush request reaches the core (R141): the lines owed to its address are written back, and the acknowledgment waits until
they, and the writes that were under way before, have performed (R225). -/
def takeFlush (line slice : Nat) (s : State) : State :=
  let s := modCore (fun c => { c with relTab := c.relTab.filter fun l => l != line }) (writeBackOwed line (countRecv s))
  let wait := ((writesOf s s.core.num).map (·.line)) ++ (s.ms.heldW.map (·.line))
  modCore (fun c => { c with acks := c.acks ++ [⟨line, slice, wait⟩] }) s

/-- Whether the write-backs that an acknowledgment waits for have performed. -/
def ackReady (s : State) (a : Ack) : Bool :=
  !(a.wait.any fun l => (writesOf s s.core.num).any (fun w => w.line == l) || s.ms.heldW.any fun h => h.line == l)

/-- The core acknowledges a flush request to the slice (R28, R141). -/
def sendAck (a : Ack) (s : State) : State :=
  let n := s.core.num
  countSent (inject ⟨.rsp, twigOf n, a.slice, .flushed n a.line a.slice⟩ (modCore (fun c => { c with acks := c.acks.erase a }) s))

/-- FLUSH_REQUEST (R141, R225): an acknowledgment whose write-backs have performed leaves the core, or else the next flush request
reaches it. -/
def execFlushRequest (s : State) : Out :=
  match s.core.acks.find? (ackReady s) with
  | some a => .next (sendAck a s)
  | none =>
    match flushFor s with
    | none => .next s
    | some (p, line, slice) => .next (takeFlush line slice (takePacket p s))

/-- FLUSH_ACK (R141): every core has acknowledged; the directory entry goes, unless a core has released to it since, and the
acquires that wait read again. -/
def execFlushAck (slice line : Nat) (s : State) : Out :=
  if (getSlice s slice).flushes.any fun f => f.line == line && f.cores.isEmpty then
    let t := modSlice slice (fun x => { x with
      flushes := x.flushes.filter fun f => f.line != line
      dir := x.dir.filter fun d => d.line != line || !d.cores.isEmpty }) s
    .next (wakeAll (fun w => w == .flush line) t)
  else .next s

/-! ### Replicas and page modes (R154) -/

/-- REPLICA_INVALIDATE_ACK (R154): a replica that a held write waits for is gone. -/
def execReplicaInvalidateAck (line die : Nat) (s : State) : Out :=
  if s.ms.heldW.any fun h => h.line == line && h.wait.contains die then
    .next (dropSharer (fun l => l == line) (fun d => d == die) s)
  else .next s

/-- The least time in a mode, in ticks of the time base: 100 µs (R83, R154). -/
def modeTicks : Nat := 10000

/-- Whether a frame may change its mode: it has not, or it has stood in its mode for 100 µs (R83, R154). -/
def modeOver (s : State) (f : Frame) : Bool := (f.since.map fun t => decide (t + modeTicks ≤ s.pkg.time)).getD true

/-- PAGE_MODE_SWITCH (R83, R154): a frame changes its mode, and its counts begin again; to MEMSIDE, every replica goes first. -/
def execPageModeSwitch (frame : Nat) (s : State) : Out :=
  let old := frameOf s frame
  if !isDramKey (frame * 2 ^ 16) || !paExists (frame * 2 ^ 16) || !modeOver s old then .next s
  else
    let t := modFrame frame (fun f => { f with since := some s.pkg.time, repl := !old.repl, reads := 0, writes := 0 }) s
    .next (if old.repl then dropSharer (fun l => l / 512 == frame) (fun _ => true) t else t)

/-! ### Page-table walks (R144) -/

/-- A translation kept by a TLB of `n` entries: the oldest leaves. -/
def keepTlb (n : Nat) (t : Tlb) (l : List Tlb) : List Tlb :=
  let l := l.filter fun x => x != t
  (if l.length ≥ n then l.drop (l.length + 1 - n) else l) ++ [t]

/-- A walk's translation enters the core's TLB and its twig's (R144). -/
def installTlb (t : Tlb) (s : State) : State :=
  let tw := twigOf s.core.num
  let mine := (s.ms.twigTlb.filter fun x => x.1 == tw).map (·.2)
  let s := modCore (fun c => { c with tlb := keepTlb 64 t c.tlb }) s
  modMs (fun m => { m with twigTlb := (m.twigTlb.filter fun x => x.1 != tw) ++ (keepTlb 2048 t mine).map fun x => (tw, x) }) s

/-- Ends the core's waits for a walk of an address; after a walk that failed, the instruction goes on to its fault. -/
def wakeWalk (va : Word) (ok : Bool) (s : State) : State :=
  modCore (fun c => c.mapCtxs fun _ x =>
    if x.st = .waiting (.walk va) then { x with st := .ready, ans := if ok then none else some 0 } else x) s

/-- A walker of a die that has become free takes a walk that waits for one: of the core of least number (R144; DESIGN CHOICE, log 92). -/
def handWalker (die : Nat) (s : State) : State :=
  if walkers ≤ walksOnDie s die then s
  else
    let waits := fun (c : Core) => dieOf c.num == die && c.walks.any fun w => w.st == .queued
    match (insertCore s.core (s.cores.filter fun c => c.num != s.core.num)).find? waits with
    | none => s
    | some c => modCoreAt c.num (fun c =>
        match c.walks.find? fun w => w.st == .queued with
        | none => c
        | some w => { c with walks := c.walks.map fun v => if v = w then { v with st := .walker } else v }) s

/-- The reads of a walk's entries at PKG scope, through their home slices (R144). -/
def readTables (lines : List Nat) (s : State) : State :=
  lines.foldl (fun s l => enterReadAt (homeSlice (l * 128)) l Placing.dflt (dieOf s.core.num) none (visitLine l s)) s

/-- PAGE_WALK_COMPLETE (R144, R424): the oldest translation on its way to the core's TLB that waits for no walker arrives: from the
twig's TLB, or from its walk, which has read its entries. A translation that the walk does not give leaves no entry; one that the
twig's TLB has lost is asked for anew. -/
def execPageWalkComplete (s : State) : Out :=
  match s.core.walks.find? fun w => w.st != .queued with
  | none => .next s
  | some w =>
    let a := w.va.toNat
    let t := modCore (fun c => { c with walks := c.walks.erase w }) s
    match w.st, s.ms.twigTlb.find? fun x => x.1 == twigOf s.core.num && x.2.covers s.core.asid a with
    | .twig, some x => .next (wakeWalk w.va true (modCore (fun c => { c with tlb := keepTlb 64 x.2 c.tlb }) t))
    | .twig, none => .next (enterWalk w.va t)
    | _, _ =>
      let t := readTables (walkLines s s.core.asid a) (handWalker (dieOf s.core.num) t)
      .next (match walk s s.core.asid a with
        | .ok x => wakeWalk w.va true (installTlb x t)
        | .error _ => wakeWalk w.va false t)

/-! ### Bark metadata (R158) -/

/-- The root kernel is told of a block of the poison list: vector 33 on both ports, with the block's physical address (R65,
R158). -/
def noteBlock (block : Nat) (s : State) : State :=
  modIo (fun o => { o with outs := o.outs ++ [.msi false 33, .msi true 33, .lostBlock (blockLine block 0 * 128)] }) s

/-- The metadata of a listed block: code 7 for a line that has been written, 0xF for the others (R158). -/
def listedCodes (e : PoisonEnt) : Nat := natOfElems 4 ((List.range 4).map fun j => if e.written.getLsbD j then 7 else 15)

/-- The oldest entry of a full list retires: the lines that have not been written stay POISON, its metadata sector is written, and
the root kernel is told (R158). -/
def retireBlock (e : PoisonEnt) (s : State) : State :=
  let t := modMs (fun m => { m with poisonList := m.poisonList.filter fun x => x.block != e.block }) s
  noteBlock e.block (loseSector e.block (setMeta e.block (listedCodes e) t))

/-- A block listed: its lines that stand in no slice read as POISON. A full list of the channel retires its oldest entry first
(R158). -/
def listBlock (block : Nat) (s : State) : State :=
  let mine := s.ms.poisonList.filter fun e => e.block % 256 == block % 256 && e.block / 2 ^ 28 == block / 2 ^ 28
  let s := match mine with
    | o :: _ => if mine.length < 64 then s else retireBlock o s
    | [] => s
  let s := modMs (fun m => { m with poisonList := m.poisonList ++ [⟨block, 0⟩] }) s
  poisonLines (((List.range 4).map (blockLine block)).filter fun l => !inHomeSlice s l) s

/-- The line of a bark page that a process maps at an address (R143, R155): BARK counts on leaves of 2 MiB or more. -/
def barkLine (s : State) (asid : Nat) (va : Word) : Option Nat :=
  match walk s asid va.toNat with
  | .error _ => none
  | .ok t =>
    let pa := t.pa + va.toNat % 2 ^ t.bits
    if canonical va.toNat && t.bark && 21 ≤ t.bits && paExists pa && isDramKey pa then some (lineOf pa) else none

/-- METADATA_FETCH (R158, log 18): a bark block's metadata is fetched; an uncorrectable fetch lists the block. Where the fetch is
that of a dirty line which leaves its slice, that data is dropped and only the root kernel is told. -/
def execMetadataFetch (a : AsidVa) (ok : Bool) (s : State) : Out :=
  match barkLine s a.asid a.va with
  | none => .next s
  | some line =>
    let block := blockOf line
    if ok || s.pkg.sl != 3 || s.ms.poisonList.any (fun e => e.block == block) then .next s
    else
      let victim := (getSlice s (homeSlice (line * 128))).lines.any fun y => y.line == line && y.dirty
      let t := if victim then modSlice (homeSlice (line * 128)) (fun x => { x with lines := x.lines.filter fun y => y.line != line }) s else s
      .next (if victim then noteBlock block (listBlock block t) else listBlock block t)

end Sys2Proof.Machine
end

