-- ==== Sys2Proof/Machine/Kernel.lean ====
section
/-! DEFINITION. Requests that the root kernel serves: partitions, processes, images, the stage balancer, the killing of a
process, checkpoints (R36, R65, R67, R86, R106 to R110, R115, R138, R226, R255, R256, R259, R278). -/

namespace Sys2Proof.Machine

/-! ### Partitions, rings, the window (R65, R67, R138) -/

/-- Scratch sizes of a slice (R138). -/
def scratchSizes : List Nat := [0, 262144, 524288, 1048576]

/-- Lines leave a slice whose scratch has taken their sectors (R138). -/
def trimSlice (s : State) (slice : Nat) : State :=
  let x := getSlice s slice
  setSlice x { x with lines := trimLines (setSectors s slice) x.lines } s

/-- Scratch sizes with new ones in the place of old ones. -/
def mergeScratch (old new : List (Nat × Nat)) : List (Nat × Nat) := (old.filter fun x => !(new.any fun y => y.1 == x.1)) ++ new

/-- Whether a launch holds cores in the grove of a slice (R138). -/
def groveHeld (s : State) (slice : Nat) : Bool :=
  s.root.launches.any fun l => holdsCores l && l.placed.any fun p => !p.gone && groveOf p.core == groveOfTwig slice

/-- MAILBOX_PARTITION_CREATE (R36, R65, R138): groves that no other partition has, and a scratch size for each slice named. DESIGN
CHOICE (log 94): the same request for a partition that exists, with its groves, changes the sizes of the slices named, while no launch
holds cores in their groves. -/
def execMailboxPartitionCreate (part : Mail Nat) (groves : BitVec 96) (scratch : List (Nat × Nat)) (s : State) : Out :=
  if !hostUp s then .next s
  else
    let bad := scratch.any fun x => 6144 ≤ x.1 || !groves.getLsbD (groveOfTwig x.1) || !scratchSizes.contains x.2
    let trim := fun (t : State) => (scratch.map (·.1)).foldl trimSlice t
    match s.root.parts.find? fun p => p.id == part.what with
    | some p =>
      if bad || p.groves != groves || scratch.any (fun x => groveHeld s x.1) then .next (msi part.port 0 (mailRefuse s))
      else .next (msi part.port 0 (trim (modRoot (fun r => { r with parts := r.parts.map fun q =>
        if q.id = part.what then { q with scratch := mergeScratch q.scratch scratch } else q }) s)))
    | none =>
      if bad || s.root.parts.any (fun p => p.groves &&& groves != 0) then .next (msi part.port 0 (mailRefuse s))
      else .next (msi part.port 0 (trim (modRoot (fun r => { r with parts := r.parts ++ [⟨part.what, groves, scratch, [], none⟩] }) s)))

/-- A process begins, or one that was killed begins anew under its ASID, with no image, translation or remembered launch of the old
one (R83, R259, R423). -/
def newProc (asid root part : Nat) (s : State) : State :=
  dropTlb asid (modRoot (fun r => { r with
    procs := r.procs.filter (fun p => p.asid != asid) ++ [⟨asid, root, part, false, [], []⟩]
    images := r.images.filter fun i => i.asid != asid }) s)

/-- MAILBOX_RING_BIND (R67, R83): a ring is bound to a process of a partition, which begins with its first ring; a killed ASID begins
anew once its launches have their stamps. DESIGN CHOICE (log 78): a second bind of a ring is accepted, with its HEAD, TAIL and copied
descriptors kept, and they are admitted under the new ASID; the spec does not say what it does. -/
def execMailboxRingBind (port : Bool) (ring asid part root : Nat) (s : State) : Out :=
  if !hostUp s || 32 ≤ ring || 65536 ≤ asid then .next s
  else if (s.root.parts.find? fun p => p.id == part).isNone then .next (msi port 0 (mailRefuse s))
  else
    let old := proc? s asid
    if (old.map (·.killed)).getD false && s.root.launches.any (fun l => l.asid == asid) then .next (msi port 0 (mailRefuse s)) else
    let s := if (old.map (·.killed)).getD true then newProc asid root part s else s
    .next (msi port 0 (modRing (ringKey port ring) (fun r => { r with enable := true, bound := true, asid := asid }) s))

/-- MAILBOX_WINDOW_BASE (R65): in steps of 64 GiB. -/
def execMailboxWindowBase (port : Bool) (base : Nat) (s : State) : Out :=
  if !hostUp s then .next s
  else if base % 2 ^ 36 != 0 then .next (msi port 0 (mailRefuse s))
  else .next (msi port 0 (modIo (fun o => if port then { o with winEast := base } else { o with winWest := base }) s))

/-! ### The finaliser (R26, R39, R115, R272, R278) -/

/-- A stage record within R115. -/
def recordOk (r : StageRec) : Bool :=
  let ns := r.pool0 / 5120
  let ls := (r.pool1 - r.pool0) / 32
  r.pool0 == 5120 * ns && 2 ≤ ns && ns ≤ 22 && r.pool1 == r.pool0 + 32 * ls && [0, 1024, 2048, 3072, 4096].contains ls
    && r.pool2 % 65536 == 0 && 393216 ≤ r.pool2 && r.pool2 ≤ 917504

/-- The twig of a core index in an extent of a level, counted in spread order over all cores (R93, R278). -/
def indexTwig (lvl i : Nat) : Option Nat :=
  let ts := twigsOf lvl 0
  if 4 * ts.length ≤ i then none else ts[i % ts.length]?

/-- Slots that a beat reserves: a link and a network cycle (R39). -/
def beatSlots (lvl frame : Nat) (b : Beat) : List ((Nat × Nat) × Nat) :=
  match indexTwig lvl b.src, indexTwig lvl b.dst with
  | some x, some y => (route x y).zipIdx.flatMap fun p => [(p.1, frame * b.frame + b.slot + p.2), (p.1, frame * b.frame + b.slot + p.2 + 1)]
  | _, _ => []

/-- No two beats share a slot, and no four consecutive cycles of a link are all reserved (R39). -/
def slotsOk (l : List ((Nat × Nat) × Nat)) : Bool :=
  l.eraseDups.length == l.length && l.all fun p => !([1, 2, 3].all fun i => l.contains (p.1, p.2 + i))

/-- The logical form of a schedule (R39, R272, R278). A route stays in the rectangle of its two ends, and so in its domain's. -/
def schedOk (img : ImageRec) (x : Sched) : Bool :=
  match img.stages[x.stage]? with
  | none => false
  | some r =>
    r.kernel == x.kernel && r.blevel != 0 && r.blevel ≤ 7 && [8, 16, 32, 64, 128, 256].contains x.frame && x.beats.length ≤ 256
      && (x.beats.all fun b => b.frame ≤ 255 && b.slot < x.frame && b.entry ≤ 15 && b.src != b.dst && b.src < r.maxc && b.dst < r.maxc
        && (indexTwig r.blevel b.src).isSome && (indexTwig r.blevel b.dst).isSome)
      && slotsOk (x.beats.flatMap (beatSlots r.blevel x.frame))

/-- The native word of an instruction of a portable text (R277): its queue or its format pair takes its native field; none where it
has no encoding. -/
def bindIns : PortIns → Option W32
  | .word w => some w
  | .queue .cmdq q a b => encode (.cmdq q a b)
  | .queue .cmdqw q a b => encode (.cmdqw q a b)
  | .queue .cmdcan q a b => encode (.cmdcan q a b)
  | .queue .cmdst q a b => if a = 0 then encode (.cmdst q b) else none
  | .queue .loopset q a b => if a.toNat < 8 then encode (.loopset q (a.truncate 3) b) else none
  | .queue .loopget q a b => if a.toNat < 8 then encode (.loopget q (a.truncate 3) b) else none
  | .pair .vdotp p f a b d => encode (.vdotp f a b p d)
  | .pair .vmulp p f a b d => encode (.vmulp f a b p d)
  | .pair .vqnt p f a b d => if a = 0 then encode (.vqnt f b p d) else none
  | .pair .vdqnt p f a b d => if a = 0 then encode (.vdqnt f b p d) else none

/-- The native OPC of a tile operation (R296, R374). -/
def tileOpc : TileOp → Nat
  | .mzero => 0x00 | .mma => 0x01 | .mmas => 0x02 | .mlda => 0x03 | .msta => 0x04 | .mtrn => 0x05
  | .cpy => 0x40 | .cpys => 0x41 | .cpyk => 0x42 | .cfill => 0x43 | .gath => 0x44 | .scat => 0x45 | .srd => 0x46 | .swr => 0x47
  | .nrd => 0x48 | .nwr => 0x49 | .cdec => 0x4A | .ccnt => 0x4B
  | .geval => 0x80 | .gfetch => 0x81 | .gpref => 0x82 | .gexp => 0x83 | .gmv => 0x84 | .gvm => 0x85 | .grot => 0x86 | .gcon => 0x87
  | .qnop => 0xC0 | .qstamp => 0xC1 | .qarr => 0xC2 | .qwait => 0xC3 | .qsig => 0xC4

/-- The native statement of a tile statement of a portable image (R277); none where its OPC byte is taken. -/
def bindTile (t : PortTile) : Option (BitVec 256) :=
  if t.fields.extractLsb' 0 8 = 0 then some (t.fields ||| BitVec.ofNat 256 (tileOpc t.op)) else none

/-- The first beat of a schedule with which it breaks a rule: by itself, or with those before it (R39, R278). -/
def badBeat (img : ImageRec) (x : Sched) : Nat :=
  ((List.range x.beats.length).find? fun j => !schedOk img { x with beats := x.beats.take (j + 1) }).getD 0

/-- What the finaliser finds at fault in an image, in the order of R278; none where it accepts it (R272, R277, R278). -/
def imageFault (img : ImageRec) : Option Offence :=
  match img.stages.findIdx? (fun r => !recordOk r), img.text.findIdx? (fun i => (bindIns i).isNone),
      img.tiles.findIdx? (fun t => (bindTile t).isNone) with
  | some i, _, _ => some (.record i)
  | none, some i, _ => some (.instruction (4 * i))
  | none, none, some i => some (.tile i)
  | none, none, none =>
    let many := fun (x : Sched) => 16 < (img.scheds.filter fun y => y.kernel == x.kernel).length
    match img.scheds.findIdx? fun x => !schedOk img x || many x with
    | none => none
    | some i =>
      let x := img.scheds.getD i ⟨0, 0, 8, []⟩
      some (if !schedOk img { x with beats := [] } || many x then .sched i else .beat i (badBeat img x))

/-- An image that the finaliser accepts (R272, R278). -/
def imageOk (img : ImageRec) : Bool := (imageFault img).isNone

/-! ### The segments of an image (R265, R267) -/

/-- A segment of an image: its address, its bytes, and whether it is written or executed. -/
structure Segment where
  va : Nat
  data : List Byte
  write : Bool
  exec : Bool
deriving DecidableEq, Repr

/-- Rounded up to a 4 KiB boundary. -/
def pageUp (n : Nat) : Nat := (n + 4095) / 4096 * 4096

/-- A const segment as the root kernel maps it (R121): zeros up to a multiple of 4 KiB, and to 2,048 B at least. -/
def padConst (bs : List Byte) : List Byte := bs ++ List.replicate (pageUp (max bs.length 2048) - bs.length) 0

/-- The four segments of an image, in native form, from its base in the order text, tiles, const and data (R265, R267), the const
segment padded (R121). -/
def segmentsOf (img : ImageRec) : List Segment :=
  let text := img.text.flatMap fun i => bytesOfNat 4 ((bindIns i).getD 0).toNat
  let tiles := img.tiles.flatMap fun t => bytesOfNat 32 ((bindTile t).getD 0).toNat
  let b := img.textVa.toNat
  let t := b + pageUp text.length
  let c := t + pageUp tiles.length
  let const := padConst img.const
  let d := c + const.length
  [⟨b, text, false, true⟩, ⟨t, tiles, false, false⟩, ⟨c, const, false, false⟩, ⟨d, img.data, true, false⟩]

/-- Whether a page of a segment is mapped for a process with the segment's permissions, and holds its bytes (R265, R267). -/
def pageMapped (s : State) (asid : Nat) (g : Segment) (i : Nat) : Bool :=
  let va := g.va + 4096 * i
  let bs := (g.data.drop (4096 * i)).take 4096
  match walk s asid va with
  | .error _ => false
  | .ok t =>
    let pa := t.pa + va % 2 ^ t.bits
    t.u && t.r && t.w == g.write && (t.d || !g.write) && t.x == g.exec && allocatableRange s pa 4096 && memRead s.mem pa bs.length == bs

/-- Whether an image is mapped at its base for a process (R265). -/
def imageMapped (s : State) (asid : Nat) (img : ImageRec) : Bool :=
  (segmentsOf img).all fun g => (List.range (pageUp g.data.length / 4096)).all (pageMapped s asid g)

/-- The reply to an image load (R65, R278). -/
def imageReply (port : Bool) (o : HostOut) (s : State) : State := msi port 0 (modIo (fun x => { x with outs := x.outs ++ [o] }) s)

/-- An image placed and mapped for a process with what the root kernel writes, and its handle returned; none where that does not map
it, or may not be written (R73, R144, R265, R267). -/
def placeImage (port : Bool) (asid : Nat) (handle : Word) (img : ImageRec) (writes : KernelWrites) (s : State) : Option State :=
  let t := kernelPut asid writes s
  if mayPut s asid writes && imageMapped t asid img then
    some (imageReply port (.handle asid handle) (modRoot (fun r => { r with images := r.images ++ [⟨handle, asid, img⟩] }) t))
  else none

/-- MAILBOX_IMAGE_LOAD (R65, R265, R267, R277, R278, R423): `handle` is the value that the root kernel gives a new image, `writes` what
it writes to place and map it; an image of the same digest has its handle already, and is mapped for a process that loads it first. -/
def execMailboxImageLoad (place : Mail Nat) (handle : Word) (load : ImageLoad) (s : State) : Out :=
  let asid := place.what
  let img := load.img
  if !hostUp s || (proc? s asid).isNone || !s.ms.heldW.isEmpty then .next s
  else match s.root.finals.find? fun i => i.img.digest == img.digest with
    | some i =>
      if s.root.images.any fun j => j.handle == i.handle && j.asid == asid then .next (imageReply place.port (.handle asid i.handle) s)
      else .next ((placeImage place.port asid i.handle i.img load.writes s).getD s)
    | none =>
      match imageFault img with
      | some o => .next (imageReply place.port (.badImage asid o) s)
      | none =>
        if handle = 0 || s.root.finals.any (fun i => i.handle == handle) then .next s
        else .next (((placeImage place.port asid handle img load.writes s).map
          (modRoot fun r => { r with finals := r.finals ++ [⟨handle, img⟩] })).getD s)

/-! ### The stage balancer (R106 to R108) -/

/-- Messages of a group that are parked (R53). -/
def parkedOf (s : State) (g : Group) : Nat := ((getNode s g.root).parks.filter fun m => m.group == g.num).length + g.ring.length

/-- The backlog of a stage: PARKED + SENT − TAKEN of its group (R107). -/
def backlog (s : State) (launch k : Nat) : Nat :=
  match s.fab.groups.find? fun g => g.launch == launch && g.stage == k with
  | none => 0
  | some g => parkedOf s g + g.sent - g.taken

/-- The balancer record of a stage (R106). -/
def balAt (l : Launch) (k : Nat) : BalRec := l.bal.getD k ⟨0xFFFFFFFF, true⟩

/-- Whether a stage may give or receive at all: NOREB = 0, OFFEN = 1, BLEVEL = 0 (R107). -/
def balances (l : Launch) (k : Nat) : Bool :=
  !(balAt l k).noreb && ((l.stages[k]?).map fun d => d.offen && d.blevel == 0).getD false

/-- Whether a stage receives a core (R107). -/
def receives (s : State) (l : Launch) (k : Nat) : Bool :=
  balances l k && (balAt l k).thresh.toNat < backlog s l.id k && (stageCores l k).length < ((l.stages[k]?).map (·.maxc)).getD 0

/-- Whether a stage gives a core to another (R107). -/
def gives (s : State) (l : Launch) (r d : Nat) : Bool :=
  let pools := fun k => (stageRec s l k).map fun x => (x.pool0, x.pool1, x.pool2)
  d != r && balances l d && backlog s l.id d ≤ (balAt l d).thresh.toNat
    && ((l.stages[d]?).map (·.minc)).getD 0 < (stageCores l d).length
    && pools d == pools r && (l.stages[d]?).map (·.helpers) == (l.stages[r]?).map (·.helpers)

/-- Whether a core is idle in its stage (R107). A core that has taken no message since its bind or its last STGBIND counts as idle at once,
though WIN cycles may not have passed since then: the rule does not say from where they count (DESIGN CHOICE, log 98). -/
def idleCore (s : State) (l : Launch) (p : Placed) : Bool :=
  let c := getCore s p.core
  let k := c.bankOf p.bank
  match stageGroup s l.id p.stage with
  | none => false
  | some g => !p.gone && 0 < readinessOf c g && k.rebind == .none
      && (k.lastTake.map fun t => decide (k.dbalwin.toNat ≤ c.cycles - t)).getD true

/-- The least core number of placed cores. -/
def lowestCore (l : List Placed) : Option Placed :=
  l.foldl (fun m p => match m with
    | none => some p
    | some q => if p.core < q.core then some p else m) none

/-- A rebind is withdrawn where its stage no longer receives (R108). -/
def withdrawRebind (s0 : State) (l : Launch) (s : State) (p : Placed) : State :=
  modCoreAt p.core (fun c => c.modBankOf p.bank fun k => match k.rebind with
    | .posted r => if boundTo s0 l.id p && !receives s0 l r then { k with rebind := .none } else k
    | _ => k) s

/-- Posts of a partition in the last 10 µs (R83). -/
def recentPosts (s : State) (part : Nat) : List Nat :=
  (((s.root.parts.find? fun p => p.id == part).map (·.posted)).getD []).filter fun t => s.pkg.time < t + 1000

/-- A rebind is posted to the idle core that the balancer picks, and a blocked OTAKE on its stage's group sees it (R107, R108,
R330). -/
def postRebind (part : Nat) (l : Launch) (s : State) (r : Nat) : State :=
  let pool := l.placed.filter fun p => boundTo s l.id p && gives s l r p.stage && idleCore s l p
  match lowestCore pool with
  | none => s
  | some p =>
    if 64 ≤ (recentPosts s part).length then s
    else
      let g := (stageGroup s l.id p.stage).getD 0xFFF
      let s := modRoot (fun t => { t with parts := t.parts.map fun x => if x.id = part then { x with posted := recentPosts s part ++ [s.pkg.time] } else x }) s
      modCoreAt p.core (fun c => wakeCore (fun b _ w => b == p.bank && w == .take g)
        (c.modBankOf p.bank fun k => { k with rebind := .posted r })) s

/-- Stages in descending order of backlog; of two with the same backlog the lower stage index comes first, an order that R107 leaves open
(DESIGN CHOICE, log 98). -/
def insertStage (s : State) (l : Launch) (k : Nat) : List Nat → List Nat
  | [] => [k]
  | j :: js => if backlog s l.id j < backlog s l.id k then k :: j :: js else j :: insertStage s l k js

/-- The balancer evaluates one launch (R107, R108). -/
def balanceLaunch (part : Nat) (s : State) (l : Launch) : State :=
  let t := l.placed.foldl (withdrawRebind s l) s
  (((List.range l.stages.length).filter (receives s l)).foldl (fun ks k => insertStage s l k ks) []).foldl (postRebind part l) t

/-- BALANCER_EVALUATION (R107): once every 100 ticks of the time base. -/
def execBalancerEvaluation (part : Nat) (s : State) : Out :=
  let last := (s.root.parts.find? fun p => p.id == part).bind (·.evaluated)
  if (last.map fun t => decide (s.pkg.time < t + 100)).getD false then .next s
  else
    let s := modRoot (fun r => { r with parts := r.parts.map fun p => if p.id = part then { p with evaluated := some s.pkg.time } else p }) s
    .next ((s.root.launches.filter fun l => l.st == .running && ((proc? s l.asid).map (·.part)) == some part).foldl (balanceLaunch part) s)

/-! ### Killing a process (R110, R226, R259) -/

/-- Stamp 0x03 for a descriptor that has not been admitted (R259). -/
def killDesc (asid key : Nat) (s : State) (d : BitVec 2048) : State :=
  let x := descOf d
  if x.stamp.extractLsb' 0 3 != 0 || (procPlace s asid x.stamp .write).isNone then s
  else stampEvent key (stampLaunch key asid x.stamp x.lid 0x03 s)

/-- A ring of the process is disabled, and the launches still queued in it are refused (R259); none of them is taken again after a later
bind (R71). -/
def killRing (asid : Nat) (s : State) (r : Ring) : State :=
  let waiting := (List.range (min 64 (r.tail - r.head).toNat)).map fun i =>
    ((r.slots.find? fun x => x.1 == (r.head.toNat + i) % 64).map (·.2)).getD 0
  let copied := (s.root.copied.filter fun c => c.ring == r.key).map (·.desc)
  let s := (copied ++ waiting).foldl (killDesc asid r.key) s
  modRing r.key (fun r => { r with enable := false, head := r.tail })
    (modRoot (fun t => { t with copied := t.copied.filter fun c => c.ring != r.key }) s)

/-- Undispatched commands of a bank go, with their locks and without stamps (R259). -/
def dropUndispatched (b : Bool) (c : Core) : Core :=
  let goes := fun (e : Entry) => e.bank == b && e.inner.isNone && (e.st == .held || e.st == .queued)
  let ords := ((c.mq ++ c.cq ++ c.gq).filter goes).map (·.ord)
  { c with mq := c.mq.filter (fun e => !goes e), cq := c.cq.filter (fun e => !goes e), gq := c.gq.filter (fun e => !goes e)
           locks := c.locks.filter fun l => !ords.contains l.ord }

/-- A bank of the process is cut (R259). -/
def cutBank (launch : Nat) (s : State) (p : Placed) : State :=
  if boundTo s launch p then
    vacate p.core p.bank launch (modCoreAt p.core (fun c => (dropUndispatched p.bank c).modBankOf p.bank fun k => { k with dead := true }) s)
  else s

/-- The L1 lines of a core of a process go, with what it owes (R226, R259). -/
def forgetProc (asid : Nat) (c : Core) : Core :=
  if c.asid = asid then { c with l1 := [], fills := [], relTab := [] } else c

/-- A core leaves the owed-release directory of a slice (R226). -/
def undirect (cores : List Nat) (x : Slice) : Slice :=
  { x with dir := (x.dir.map fun d => { d with cores := d.cores.filter fun c => !cores.contains c }).filter fun d => !d.cores.isEmpty }

/-- L1 lines, directory entries and translations of a process go (R226, R259). -/
def forgetProcess (asid : Nat) (s : State) : State :=
  let cores := ((s.core :: s.cores).filter fun c => c.asid == asid).map (·.num)
  dropTlb asid (modMs (fun m => { m with slices := m.slices.map (undirect cores) }) (mapCores (forgetProc asid) s))

/-- A launch of a killed process: stamped at once where its commands have retired, or at LAUNCH_END (R259). -/
def killLaunch (s : State) (l : Launch) : State :=
  let s := deleteDoms l.id (deleteGroups l.id (l.placed.foldl (cutBank l.id) s))
  if allRetired s l && s.ms.heldW.isEmpty then endLaunch l 0x03 s
  else modRoot (fun r => { r with launches := r.launches.map fun x =>
    if x.id = l.id then { x with st := .halting, origin := none, resumable := false } else x }) s

/-- KILL_PROCESS (R81, R110, R259). -/
def execKillProcess (asid : Nat) (s : State) : Out :=
  match proc? s asid with
  | none => .next s
  | some p =>
    if p.killed || !hostUp s || !s.ms.heldW.isEmpty then .next s
    else
      let s := modProc asid (fun p => { p with killed := true }) s
      let s := (s.io.rings.filter fun r => r.asid == asid && r.enable).foldl (killRing asid) s
      let mine := s.root.launches.filter fun l => l.asid == asid
      let s := (mine.filter fun l => !holdsCores l).foldl (fun s l => complete l 0x03 s) s
      let s := (mine.filter holdsCores).foldl killLaunch s
      let s := forgetProcess asid s
      let s := (s.io.peers.filter fun q => q.info.asid == asid && q.st != .closed && !q.closing).foldl (fun s q => closeConn q.conn s) s
      .next (killEvent asid s)

/-! ### Checkpoints (R86, R255, R256) -/

/-- Launches that a checkpoint of a process, or of all device memory, stops (R86): those of its partition, or all. -/
def ckptHits (s : State) (what : Option Nat) (l : Launch) : Bool :=
  match what with
  | none => true
  | some asid => ((proc? s l.asid).map (·.part)) == ((proc? s asid).map (·.part))

/-- Whether the last dispatched command of a launch has retired; a QARR past its QM wait counts as undispatched (R255). -/
def dispatchedOver (s : State) (l : Launch) : Bool :=
  l.placed.all fun p => !boundTo s l.id p
    || (bankEntries (getCore s p.core) p.bank).all fun e => e.st == .held || e.st == .queued || e.cmd.opc == 0xC2

/-- Whether memory may be streamed (R255): every launch that holds cores has stopped, and its commands have retired. -/
def ckptReady (s : State) (what : Option Nat) : Bool :=
  s.root.launches.all fun l => !ckptHits s what l || !(l.st == .running || l.st == .halting)
    || (l.st == .halting && allStopped s l && dispatchedOver s l)

/-- Whether a page is streamed in raw-bark form (R86). -/
def rawPage (s : State) (t : Tlb) : Bool := t.bark && 21 ≤ t.bits && isDramKey t.pa && s.pkg.sl == 3

/-- The bytes of a page as a checkpoint streams it (R86): one in bark form block by block in raw-bark form, another as it stands. -/
def streamPage (s : State) (t : Tlb) : List Byte :=
  if rawPage s t then (List.range (2 ^ t.bits / 2 ^ 17)).flatMap fun i => (regionBlocks (t.pa + 2 ^ 17 * i)).flatMap (rawBlockAt s)
  else memRead s.mem t.pa (2 ^ t.bits)

/-- Pages of 4 KiB of device DRAM that hold something and belong to no process. -/
def loosePages (s : State) (ps : List Tlb) : List Tlb :=
  let ns := ((s.mem.filter fun c => isDramKey c.1).map fun c => c.1 / 4096).eraseDups
  (ns.filter fun n => !ps.any fun t => t.pa ≤ 4096 * n && 4096 * n < t.pa + 2 ^ t.bits).map fun n =>
    ⟨0, 0, 4096 * n, 12, true, false, false, false, false, .cached, false, false⟩

/-- The memory of a checkpoint, page by page (R86): of a process, or all device memory, of which a page that holds nothing written is
left out. -/
def ckptPages (s : State) (what : Option Nat) : List Tlb :=
  match what with
  | some asid => ((pagesOf s asid).filter fun t => isDramKey t.pa).eraseDups
  | none =>
    let ps := ((s.root.procs.flatMap fun p => pagesOf s p.asid).filter fun t => isDramKey t.pa).eraseDups
    ps ++ loosePages s ps

/-- Running launches are stopped resumably for a checkpoint; LAUNCH_HALT carries the stop out (R86, R255). -/
def ckptStop (ask : CkptAsk) (s : State) : State :=
  modRoot (fun r => { r with ckpt := some ⟨ask, false, false⟩, launches := r.launches.map fun l =>
    if l.st = .running && ckptHits s ask.what l
    then { l with st := .halting, resumable := true, origin := some ⟨none, 5, 0⟩, haltedAt := s.pkg.time } else l }) s

/-- Cores whose writes a checkpoint takes in: those of the process's partition, or all (R86). -/
def ckptCores (s : State) (what : Option Nat) : List Nat :=
  ((s.core :: s.cores).filter fun c => match what with
    | none => true
    | some asid => ((proc? s c.asid).map (·.part)) == ((proc? s asid).map (·.part))).map (·.num)

/-- Whether a core has bytes that are not in memory yet: dirty in its L1, or on their way (R86). -/
def unwritten (s : State) (n : Nat) : Bool := (getCore s n).l1.any (fun l => l.dirty != 0) || !(writesOf s n).isEmpty

/-- The dirty bytes of the stopped cores start on their way home, so that the checkpoint is bit-exact (R86). -/
def ckptFlush (what : Option Nat) (s : State) : State :=
  (ckptCores s what).foldl (fun s n => if (getCore s n).l1.any (fun l => l.dirty != 0) then atCore n (writeBackWhere fun _ => true) s else s) s

/-- Bytes cut into pieces of a size. -/
def cutBytes (z : Nat) (bs : List Byte) : List (List Byte) := (List.range ((bs.length + z - 1) / z)).map fun i => (bs.drop (i * z)).take z

/-- NVMe writes of a checkpoint, one after another from an LBA on, each in whole blocks of `b` bytes (R76, R86). -/
def ckptPieces (s : State) (ask : CkptAsk) (b : Nat) : (id lba : Nat) → List (Bool × Nat × List Byte) → List Piece
  | _, _, [] => []
  | id, lba, (rawb, pa, bs) :: l =>
    let n := (bs.length + b - 1) / b
    { id := id, core := 0, q := .cq, bank := false, seq := 0, read := false, off := 0, len := n * b, drive := ask.drive, nsid := ask.nsid,
      lba := lba, addr := BitVec.ofNat 64 pa, data := bs ++ List.replicate (n * b - bs.length) 0, fua := true, rawb := rawb,
      since := s.pkg.time, ckpt := true } :: ckptPieces s ask b (id + 1) (lba + n) l

/-- The memory of a checkpoint handed to the NVMe agent of its drive, which reads it at the home slices (R86, R420). -/
def ckptStream (k : Ckpt) (s : State) : State :=
  let io := driveNode k.ask.drive
  let b := max 1 (Config.lbaFormat k.ask.drive k.ask.nsid).1
  let pages := ckptPages s k.ask.what
  let parts := pages.flatMap fun t => (cutBytes (pieceBytes k.ask.drive b) (streamPage s t)).map fun bs => (rawPage s t, t.pa, bs)
  let ps := ckptPieces s k.ask b s.io.nextPiece k.ask.lba parts
  let s := pages.foldl (fun s t => (List.range (2 ^ t.bits / 128)).foldl (fun s i => readFrom io (t.pa / 128 + i) s) s) s
  let s := modIo (fun o => { o with pieces := o.pieces ++ ps, nextPiece := o.nextPiece + ps.length }) s
  let s := modRoot (fun r => { r with ckpt := some { k with streaming := true } }) s
  if ps.isEmpty then ckptPiece true s else s

/-- CHECKPOINT_REQUEST (R86, R255): the affected partitions are stopped; as the checkpoint under way, once they have stopped and their
dispatched commands have retired, the cores' dirty bytes go home, and then its memory is streamed to the drive. -/
def execCheckpointRequest (ask : CkptAsk) (s : State) : Out :=
  if !hostUp s then .next s
  else match s.root.ckpt with
    | none =>
      if attached ask.drive ask.nsid && (ask.what.map fun a => (proc? s a).isSome).getD true then .next (ckptStop ask s)
      else .next (msi ask.port 0 (mailRefuse s))
    | some k =>
      if k.ask != ask || k.streaming || !ckptReady s ask.what || !s.ms.heldW.isEmpty then .next s
      else if (ckptCores s ask.what).any (unwritten s) then .next (ckptFlush ask.what s)
      else .next (ckptStream k s)

/-- CHECKPOINT_RESTORE (R86): bytes of device memory as the checkpoint holds them, or a region of a page in bark form from its raw-bark
stream, which the drive's agent brings back. -/
def execCheckpointRestore (place : CkptAt) (data : List Byte) (s : State) : Out :=
  let pa := place.pa
  let io := driveNode place.drive
  if !hostUp s || !s.ms.heldW.isEmpty then .next s
  else if place.rawb then
    .next (msi place.port 0 (if pa % 2 ^ 17 = 0 && allocatableRange s pa (2 ^ 17) then (rawIn io [pa] data s).1 else mailRefuse s))
  else .next (msi place.port 0 ((chunksF data.length pa data).foldl (fun s c => if allocatable s c.1 then performAll io c.1 c.2 s else s) s))

/-- The checkpoint timeout in ticks of the time base: what firmware sets, from 1 ms to 60 s (R256). -/
def ckptTicks (launch : Nat) : Nat := max 100000 (min 6000000000 (Config.ckptPolicy launch))

/-- CHECKPOINT_TIMEOUT (R256): a held phase has not closed in time, and the halt becomes a terminal one with REASON 3. -/
def execCheckpointTimeout (launch : Nat) (s : State) : Out :=
  match launch? s launch with
  | none => .next s
  | some l =>
    if l.st = .halting && l.resumable && s.fab.doms.any (fun d => d.launch == launch && d.heldHalt)
        && decide (l.haltedAt + ckptTicks launch ≤ s.pkg.time) then
      .next (notifyRoot launch ⟨none, 3, 0⟩ [] (modFab (fun f => { f with doms := f.doms.map fun d =>
        if d.launch = launch then { d with heldHalt := false } else d }) s))
    else .next s

/-- RESUME_LAUNCH (R255, R256): every stopped bank goes on from its next instruction, and held PHCOMM releases may form. -/
def execResumeLaunch (launch : Nat) (s : State) : Out :=
  match launch? s launch with
  | none => .next s
  | some l =>
    if l.st != .halting || !l.resumable || !allStopped s l then .next s
    else
      let s := l.placed.foldl (fun s p =>
        if boundTo s launch p then
          modCoreAt p.core (fun c => { c with halts := c.halts.filter fun h => h.launch != launch || h.terminal }.modBankOf p.bank
            fun k => { k with stopped := false }) s
        else s) s
      let s := modFab (fun f => { f with doms := f.doms.map fun d =>
        if d.launch = launch then { d with heldHalt := false, stopNew := false } else d }) s
      .next (modRoot (fun r => { r with launches := r.launches.map fun x =>
        if x.id = launch then { x with st := .running, origin := none, resumable := false } else x }) s)

end Sys2Proof.Machine
end

