-- ==== Sys2Proof/Machine/Rv64.lean ====
section
/-! DEFINITION. RV64_INSTRUCTION (R279, R282, R283, R284): RV64I, M, F, D, Zicsr, Zba, Zbb and Zicond as the RISC-V
unprivileged specification gives them (log 10), MRET and WFI in M-mode only. -/

namespace Sys2Proof.Machine

/-- The low 32 bits of a value, sign-extended. -/
def sext32 (v : W32) : Word := v.signExtend 64

/-- One bit as a doubleword. -/
def boolW (b : Bool) : Word := if b then 1 else 0

/-- Signed division of `w` bits with RISC-V's corners: by 0 gives −1, overflow wraps. -/
def sdivW {w : Nat} (a b : BitVec w) : BitVec w := if b = 0 then -1 else a.sdiv b
/-- Unsigned division; by 0 gives all ones. -/
def udivW {w : Nat} (a b : BitVec w) : BitVec w := if b = 0 then -1 else a / b
/-- Signed remainder; by 0 gives the dividend. -/
def sremW {w : Nat} (a b : BitVec w) : BitVec w := if b = 0 then a else a.srem b
/-- Unsigned remainder; by 0 gives the dividend. -/
def uremW {w : Nat} (a b : BitVec w) : BitVec w := if b = 0 then a else a % b

/-- The register operations. -/
def aluOp (op : AluOp) (a b : Word) : Word :=
  let a32 : W32 := a.setWidth 32; let b32 : W32 := b.setWidth 32
  let uw : Word := a32.zeroExtend 64
  let sh := b.toNat % 64; let shw := b.toNat % 32
  match op with
  | .add => a + b | .sub => a - b | .sll => a <<< sh | .slt => boolW (a.slt b) | .sltu => boolW (a.ult b)
  | .xor => a ^^^ b | .srl => a >>> sh | .sra => a.sshiftRight sh | .or => a ||| b | .and => a &&& b
  | .mul => a * b
  | .mulh => wordOfInt (a.toInt * b.toInt / 2 ^ 64)
  | .mulhsu => wordOfInt (a.toInt * (b.toNat : Int) / 2 ^ 64)
  | .mulhu => BitVec.ofNat 64 (a.toNat * b.toNat / 2 ^ 64)
  | .div => sdivW a b | .divu => udivW a b | .rem => sremW a b | .remu => uremW a b
  | .addw => sext32 (a32 + b32) | .subw => sext32 (a32 - b32) | .sllw => sext32 (a32 <<< shw)
  | .srlw => sext32 (a32 >>> shw) | .sraw => sext32 (a32.sshiftRight shw) | .mulw => sext32 (a32 * b32)
  | .divw => sext32 (sdivW a32 b32) | .divuw => sext32 (udivW a32 b32)
  | .remw => sext32 (sremW a32 b32) | .remuw => sext32 (uremW a32 b32)
  | .adduw => uw + b | .sh1add => (a <<< 1) + b | .sh2add => (a <<< 2) + b | .sh3add => (a <<< 3) + b
  | .sh1adduw => (uw <<< 1) + b | .sh2adduw => (uw <<< 2) + b | .sh3adduw => (uw <<< 3) + b
  | .andn => a &&& ~~~b | .orn => a ||| ~~~b | .xnor => ~~~(a ^^^ b)
  | .max => if a.slt b then b else a | .maxu => if a.ult b then b else a
  | .min => if b.slt a then b else a | .minu => if b.ult a then b else a
  | .rol => a.rotateLeft sh | .ror => a.rotateRight sh
  | .rolw => sext32 (a32.rotateLeft shw) | .rorw => sext32 (a32.rotateRight shw)
  | .czeroEqz => if b = 0 then 0 else a | .czeroNez => if b = 0 then a else 0

/-- The immediate operations. -/
def immOp (op : ImmOp) (a : Word) (imm : BitVec 12) : Word :=
  let i : Word := imm.signExtend 64
  match op with
  | .addi => a + i | .slti => boolW (a.slt i) | .sltiu => boolW (a.ult i)
  | .xori => a ^^^ i | .ori => a ||| i | .andi => a &&& i

/-- The 64-bit immediate shifts. -/
def shOp (op : ShOp) (a : Word) (sh : BitVec 6) : Word :=
  match op with
  | .slli => a <<< sh.toNat | .srli => a >>> sh.toNat | .srai => a.sshiftRight sh.toNat | .rori => a.rotateRight sh.toNat

/-- The 32-bit immediate shifts. -/
def shOpW (op : ShOpW) (a : Word) (sh : BitVec 5) : Word :=
  let v : W32 := a.setWidth 32
  sext32 (match op with
    | .slliw => v <<< sh.toNat | .srliw => v >>> sh.toNat | .sraiw => v.sshiftRight sh.toNat | .roriw => v.rotateRight sh.toNat)

/-- Trailing zeros of a number on `n` bits. -/
def ctzN (v n : Nat) : Nat := ((List.range n).find? fun i => v.testBit i).getD n
/-- One bits of a number on `n` bits. -/
def popN (v n : Nat) : Nat := ((List.range n).filter fun i => v.testBit i).length
/-- Leading zeros of a number on `n` bits. -/
def clzN (v n : Nat) : Nat := n - blen (v % 2 ^ n)

/-- The one-operand operations. -/
def unOp (op : UnOp) (a : Word) : Word :=
  let lo := a.toNat % 2 ^ 32
  let bytes := elemsOf 8 8 a
  match op with
  | .clz => BitVec.ofNat 64 (clzN a.toNat 64) | .ctz => BitVec.ofNat 64 (ctzN a.toNat 64)
  | .cpop => BitVec.ofNat 64 (popN a.toNat 64)
  | .clzw => BitVec.ofNat 64 (clzN lo 32) | .ctzw => BitVec.ofNat 64 (ctzN lo 32) | .cpopw => BitVec.ofNat 64 (popN lo 32)
  | .sextb => sextN a.toNat 8 | .sexth => sextN a.toNat 16 | .zexth => a &&& 0xFFFF
  | .rev8 => ofElems 64 8 bytes.reverse
  | .orcb => ofElems 64 8 (bytes.map fun b => if b = 0 then 0 else 255)

/-- Whether a branch is taken. -/
def branchTaken (op : BrOp) (a b : Word) : Bool :=
  match op with
  | .eq => a == b | .ne => a != b | .lt => a.slt b | .ge => !a.slt b | .ltu => a.ult b | .geu => !a.ult b

/-- A jump to an address that is not a multiple of 4 takes cause 0 on the jump (R282). -/
def jumpChecked (t : Word) (s : State) : Res State :=
  if t.toNat % 4 != 0 then .error (.trap 0 t) else .ok (jumpTo t s)

/-! ### F and D -/

/-- The format of a precision. -/
def precFF : Prec → FF
  | .s => ff32 | .d => ff64

/-- A floating operand: an S operand that is not NaN-boxed reads as the canonical NaN. -/
def readFp (s : State) (p : Prec) (r : RegNo) : Nat :=
  let v := readF s r
  match p with
  | .d => v.toNat
  | .s => if v.extractLsb' 32 32 = -1 then v.toNat % 2 ^ 32 else 0x7FC00000

/-- A floating result written, NaN-boxed when it is an S value. -/
def writeFp (p : Prec) (r : RegNo) (v : Nat) (s : State) : State :=
  writeF r (match p with
    | .d => BitVec.ofNat 64 v
    | .s => 0xFFFFFFFF00000000 ||| BitVec.ofNat 64 (v % 2 ^ 32)) s

/-- A decoded floating operand. -/
def fpVal (s : State) (p : Prec) (r : RegNo) : Fv := decodeF (precFF p) (readFp s p r)

/-- A rounding operation of F or D: its result to rd, its flags to fflags. -/
def fpRound (p : Prec) (rd : RegNo) (rm : BitVec 3) (w : W32) (f : RMode → Fv × Flags) (s : State) : Res State :=
  match stdMode rm s.core.cx.frm with
  | none => .error (.trap 2 (w.zeroExtend 64))
  | some m =>
    let r := finishF (precFF p) m (f m)
    .ok (adv (raiseFlags r.2 (writeFp p rd r.1 s)))

/-- The arithmetic of two operands. -/
def fpArith (op : FpOp) (m : RMode) (a b : Fv) : Fv × Flags :=
  match op with
  | .add => addF m [a, b] | .sub => addF m [a, b.neg] | .mul => mulF a b | .div => divF a b

/-- The fused operations. -/
def fmaArith (op : FmaOp) (m : RMode) (a b c : Fv) : Fv × Flags :=
  match op with
  | .fmadd => fmaF m a b c
  | .fmsub => fmaF m a b c.neg
  | .fnmsub => fmaF m a.neg b c
  | .fnmadd => fmaF m a.neg b c.neg

/-- Sign injection. -/
def sgnInject (op : SgnOp) (f : FF) (a b : Nat) : Nat :=
  let sb := b / f.signW % 2; let sa := a / f.signW % 2
  let t := match op with
    | .sgnj => sb | .sgnjn => 1 - sb | .sgnjx => (sa + sb) % 2
  a % f.signW + t * f.signW

/-- Floating comparison: the truth value and NV. -/
def fpCompare (op : FpCmp) (a b : Fv) : Bool × Flags :=
  match cmpF a b, op with
  | none, .eq => (false, snan a ||| snan b)
  | none, _ => (false, fNV)
  | some o, .eq => (o == .eq, 0)
  | some o, .lt => (o == .lt, 0)
  | some o, .le => (o != .gt, 0)

/-- Range of a conversion's integer side. -/
def cvtRange : CvtInt → Int × Int
  | .w => (-(2 ^ 31), 2 ^ 31 - 1) | .wu => (0, 2 ^ 32 - 1) | .l => (-(2 ^ 63), 2 ^ 63 - 1) | .lu => (0, 2 ^ 64 - 1)

/-- An integer operand of a conversion. -/
def cvtSource (t : CvtInt) (a : Word) : Int :=
  match t with
  | .w => sintN a.toNat 32 | .wu => (a.toNat % 2 ^ 32 : Nat) | .l => a.toInt | .lu => a.toNat

/-- The x register value of a converted integer; 32-bit results are sign-extended. -/
def cvtResult (t : CvtInt) (i : Int) : Word :=
  match t with
  | .w | .wu => sext32 (BitVec.ofInt 32 i)
  | .l | .lu => BitVec.ofInt 64 i

/-- The meaning of a standard instruction. -/
def rvStep (i : Rv) (s : State) : Res State :=
  let pc := s.core.cx.pc
  let w := encodeRv i
  let bad : Res State := .error (.trap 2 (w.zeroExtend 64))
  match i with
  | .lui rd imm => .ok (adv (writeX rd ((imm ++ 0#12).signExtend 64) s))
  | .auipc rd imm => .ok (adv (writeX rd (pc + (imm ++ 0#12).signExtend 64) s))
  | .jal rd off => jumpChecked (pc + (off ++ 0#1).signExtend 64) (writeX rd (pc + 4) s)
  | .jalr rd rs1 imm => jumpChecked ((readX s rs1 + imm.signExtend 64) &&& ~~~1#64) (writeX rd (pc + 4) s)
  | .branch op rs1 rs2 off =>
    if branchTaken op (readX s rs1) (readX s rs2) then jumpChecked (pc + (off ++ 0#1).signExtend 64) s else .ok (adv s)
  | .opImm op rd rs1 imm => .ok (adv (writeX rd (immOp op (readX s rs1) imm) s))
  | .shift op rd rs1 sh => .ok (adv (writeX rd (shOp op (readX s rs1) sh) s))
  | .shiftW op rd rs1 sh => .ok (adv (writeX rd (shOpW op (readX s rs1) sh) s))
  | .addiw rd rs1 imm => .ok (adv (writeX rd (sext32 ((readX s rs1 + imm.signExtend 64).setWidth 32)) s))
  | .slliUw rd rs1 sh => .ok (adv (writeX rd ((readX s rs1 &&& 0xFFFFFFFF) <<< sh.toNat) s))
  | .alu op rd rs1 rs2 => .ok (adv (writeX rd (aluOp op (readX s rs1) (readX s rs2)) s))
  | .unary op rd rs1 => .ok (adv (writeX rd (unOp op (readX s rs1)) s))
  | .fp op p rd rs1 rs2 rm => fpRound p rd rm w (fun m => fpArith op m (fpVal s p rs1) (fpVal s p rs2)) s
  | .fsqrt p rd rs1 rm => fpRound p rd rm w (fun _ => sqrtF (fpVal s p rs1)) s
  | .fma op p rd rs1 rs2 rs3 rm =>
    fpRound p rd rm w (fun m => fmaArith op m (fpVal s p rs1) (fpVal s p rs2) (fpVal s p rs3)) s
  | .fsgn op p rd rs1 rs2 => .ok (adv (writeFp p rd (sgnInject op (precFF p) (readFp s p rs1) (readFp s p rs2)) s))
  | .fminmax mx p rd rs1 rs2 =>
    let r := minmaxF (precFF p) mx (readFp s p rs1) (readFp s p rs2)
    .ok (adv (raiseFlags r.2 (writeFp p rd r.1 s)))
  | .fcmp op p rd rs1 rs2 =>
    let r := fpCompare op (fpVal s p rs1) (fpVal s p rs2)
    .ok (adv (raiseFlags r.2 (writeX rd (boolW r.1) s)))
  | .fclass p rd rs1 => .ok (adv (writeX rd (BitVec.ofNat 64 (classF (precFF p) (readFp s p rs1))) s))
  | .fcvtToInt t p rd rs1 rm =>
    match stdMode rm s.core.cx.frm with
    | none => bad
    | some m =>
      let g := cvtRange t
      let r := toIntF m g.1 g.2 g.2 (fpVal s p rs1)
      .ok (adv (raiseFlags r.2 (writeX rd (cvtResult t r.1) s)))
  | .fcvtFromInt t p rd rs1 rm => fpRound p rd rm w (fun _ => (ofIntF (cvtSource t (readX s rs1)), 0)) s
  | .fcvtSD rd rs1 rm => fpRound .s rd rm w (fun _ => (fpVal s .d rs1, snan (fpVal s .d rs1))) s
  | .fcvtDS rd rs1 rm => fpRound .d rd rm w (fun _ => (fpVal s .s rs1, snan (fpVal s .s rs1))) s
  | .fmvToInt p rd rs1 =>
    .ok (adv (writeX rd (match p with | .d => readF s rs1 | .s => sext32 ((readF s rs1).setWidth 32)) s))
  | .fmvFromInt p rd rs1 => .ok (adv (writeFp p rd (readX s rs1).toNat s))
  | .csr a n => .ok (csrPlain a n (some w) s)
  | .mret => if s.core.priv = .m then .ok (modCore leaveM s) else bad
  | .wfi => if s.core.priv = .m then .ok (adv s) else bad

/-- RV64_INSTRUCTION (R279). -/
def execRv64Instruction (i : Rv) (s : State) : Out := .next (orTrap (rvStep i s) s)

end Sys2Proof.Machine
end

