-- ==== Sys2Proof/Machine/Vmem.lean ====
section
/-! DEFINITION. Vector memory (R289, R290, R343, R344, R347 to R355): loads, stores, lane-private access, atomics, prefetch. -/

namespace Sys2Proof.Machine

/-! ### Elements and predicates (R343, R344) -/

/-- Whether element `i` of `w` bytes is active under a predicate (R343). -/
def active (w : Nat) (pm : PReg) (i : Nat) : Bool := pm.getLsbD (w * i)

/-- The active elements of `w` bytes, in increasing order. -/
def activeList (w : Nat) (pm : PReg) : List Nat := (List.range (128 / w)).filter (active w pm)

/-- Bits of every byte whose element passes a test (R344). -/
def groupMask (w : Nat) (f : Nat → Bool) : PReg :=
  BitVec.ofNat 128 (((List.range (128 / w)).map fun i => if f i then (2 ^ w - 1) * 2 ^ (w * i) else 0).sum)

/-- The bytes of the active elements. -/
def activeMask (w : Nat) (pm : PReg) : PReg := if pm = -1 then -1 else groupMask w (active w pm)

/-- The predicate that governs a custom-1 access (R289). -/
def zPred (s : State) (z : Bool) : PReg := if z then governing s 1 else -1

/-! ### Loads (R348) -/

/-- The checks of one element of a load that come before its access, in the order of R246. `win` is set where only the pool
windows are allowed (R351). -/
def loadCheck (s : State) (w : Nat) (win : Bool) (va : Word) : Res Place := do
  if misaligned va w then throw (.trap 4 va)
  rangeLockCheck s va w
  if win && !(0xFFFFFE ≤ regionOf va) then throw (.trap 5 va)
  resolveT s va w .read

/-- Whether a load of one element meets poison, in L1 where it hits there, else at its place (R157). -/
def loadPoison (s : State) (p : Place) (w : Nat) : Bool :=
  if p.loc == .dram && p.ty == .cached && l1Hit s p.key w then l1Poison s p.key else poisoned s p.key w

/-- Every check of one element of a load, in the order of R246. -/
def loadFull (s : State) (w : Nat) (win : Bool) (va : Word) : Res Place := do
  let p ← loadCheck s w win va
  if loadPoison s p w then throw (.trap 0x25 va)
  return p

/-- The checks of the elements of an access. Where one of them fails before its access, poison in an earlier element comes
first (R246). -/
def checkAll {α : Type} (l : List (α × Word)) (quick full : Word → Res Place) : Res (List (α × Word × Place)) :=
  let all := fun (f : Word → Res Place) => l.mapM fun x => do
    let p ← f x.2
    return (x.1, x.2, p)
  match all quick with
  | .ok ps => .ok ps
  | .error e => (all full).bind fun _ => .error e

/-- The elements read one after the other: their values, and the state. -/
def loadAll (w : Nat) (h : Hint) : List Elem → State → Res (List (Nat × Nat) × State)
  | [], s => .ok ([], s)
  | (i, va, p) :: l, s => do
    let g ← loadAt i p va w h s
    let (vs, s) ← loadAll w h l g.st
    return ((i, natOfBytes g.bytes) :: vs, s)

/-- Elements put at their places in a register, zero elsewhere. -/
def placeElems (w : Nat) (vs : List (Nat × Nat)) : VReg :=
  BitVec.ofNat 1024 ((vs.map fun v => v.2 % 256 ^ w * 256 ^ (w * v.1)).sum)

/-- A vector load (R348): all checks first, then the elements, once those off the core have come. -/
def vloadStep (w : Nat) (h : Hint) (win z : Bool) (addr : Nat → Word) (vd : RegNo) (s : State) : Res State := do
  let pm := zPred s z
  let els := (activeList w pm).map fun i => (i, addr i)
  let ps ← checkAll els (loadCheck s w win) (loadFull s w win)
  loadGate w h ps s
  let (vs, t) ← loadAll w h ps s
  return adv (writeV vd (placeElems w vs) (if z then -1 else activeMask w pm) t)

/-- Address of element `i` in a unit-stride form (R347). -/
def unitAddr (s : State) (w : Nat) (rs1 : RegNo) (i : Nat) : Word := readX s rs1 + BitVec.ofNat 64 (w * i)

/-- Address of element `i` in a strided form (R347). -/
def strideAddr (s : State) (rs1 rs2 : RegNo) (i : Nat) : Word := readX s rs1 + BitVec.ofNat 64 i * readX s rs2

/-- Address of element `i` in an indexed form (R347, R351). -/
def indexAddr (s : State) (w : Nat) (rs1 vs2 : RegNo) (i : Nat) : Word :=
  readX s rs1 + BitVec.ofNat 64 (elemAt (8 * w) (readV s vs2) i)

/-- VLD (R348). -/
def execVld (e : Size) (rs1 : RegNo) (h : Hint) (z : Bool) (vd : RegNo) (s : State) : Out :=
  let w := sizeBytes e
  .next (orTrap (vloadStep w h false z (unitAddr s w rs1) vd s) s)

/-- VLDS (R348). -/
def execVlds (e : Size) (rs2 rs1 : RegNo) (h : Hint) (z : Bool) (vd : RegNo) (s : State) : Out :=
  .next (orTrap (vloadStep (sizeBytes e) h false z (strideAddr s rs1 rs2) vd s) s)

/-- VLDX (R351). -/
def execVldx (e : Size) (vs2 rs1 : RegNo) (z : Bool) (vd : RegNo) (s : State) : Out :=
  let w := sizeBytes e
  .next (orTrap (vloadStep w .dflt true z (indexAddr s w rs1 vs2) vd s) s)

/-- VLDB (R352): one element, written to every element of vd. -/
def vldbStep (w : Nat) (rs1 : RegNo) (h : Hint) (vd : RegNo) (s : State) : Res State := do
  let va := readX s rs1
  let p ← loadCheck s w false va
  loadGate w h [(0, va, p)] s
  let g ← loadAt 0 p va w h s
  let x := natOfBytes g.bytes
  return adv (writeV vd (ofElems 1024 (8 * w) (List.replicate (128 / w) x)) (-1) g.st)

/-- VLDB (R352). -/
def execVldb (e : Size) (rs1 : RegNo) (h : Hint) (vd : RegNo) (s : State) : Out :=
  .next (orTrap (vldbStep (sizeBytes e) rs1 h vd s) s)

/-! ### Stores (R247, R348 to R352) -/

/-- The precise checks of one element of a store (R247, R348). -/
def storeCheck (s : State) (w : Nat) (va : Word) : Res Unit := do
  if misaligned va w then throw (.trap 6 va)
  rangeLockCheck s va w

/-- Where an element of a store leads, or the cause that its record takes. -/
def vstorePlace (s : State) (w : Nat) (win : Bool) (va : Word) : Except (BitVec 8) Place :=
  if win && !(0xFFFFFE ≤ regionOf va) then .error 7 else storePlace s va w

/-- The record of an element that fails. -/
def elemRec (s : State) (w : Nat) (c : BitVec 8) (x : Nat × Word × Nat) : Rec := storeRec s x.2.1 w (BitVec.ofNat 64 (x.2.2 % 256 ^ w)) c 1

/-- The elements stored one after the other, where they do not fail; one to host space is under way until the host has taken it
(R74). `s` is the state before the store. -/
def storeAll (s : State) (w : Nat) (h : Hint) (win : Bool) : List (Nat × Word × Nat) → State → State
  | [], t => t
  | x :: l, t =>
    match vstorePlace t w win x.2.1 with
    | .error _ => storeAll s w h win l t
    | .ok p =>
      let t := if p.loc == .host then sendHost p.key t
        else storeAt p (bytesOfNat w x.2.2) h (elemRec s w 0x25 x) (walkBehind x.2.1 .write t)
      storeAll s w h win l t

/-- What of a vector store is not performed in its step (R74, R247): its lowest element that fails in the device, and its elements
under way to host space. -/
def storeLate (s : State) (w : Nat) (win : Bool) (els : List (Nat × Word × Nat)) : Late :=
  { bad := els.findSome? fun x => match vstorePlace s w win x.2.1 with
      | .error c => some (x.1, elemRec s w c x)
      | .ok _ => none
    host := els.filterMap fun x => match vstorePlace s w win x.2.1 with
      | .ok p => if p.loc == .host then some (hostElem x.1 (elemRec s w 7 x) p (bytesOfNat w x.2.2)) else none
      | .error _ => none }

/-- A late store that has nothing left to do is none. -/
def lateOf (l : Late) : List Late := if l.bad.isNone && l.host.isEmpty then [] else [l]

/-- A store of a whole 128 B line, aligned: it replaces a line, POISON or not (R157). -/
def wholeStore (w : Nat) (pm : PReg) (addr : Nat → Word) : Bool :=
  activeMask w pm == -1 && (addr 0).toNat % 128 == 0 && (List.range (128 / w)).all fun i => addr i == addr 0 + BitVec.ofNat 64 (w * i)

/-- A vector store (R348): the precise checks of all active elements, then the elements that do not fail; the order of DEVICE
accesses is kept (R145). -/
def vstoreStep (w : Nat) (h : Hint) (win : Bool) (pm : PReg) (addr : Nat → Word) (vs3 : RegNo) (s : State) : Res State := do
  let v := readV s vs3
  let els := (activeList w pm).map fun i => (i, addr i, elemAt (8 * w) v i)
  els.forM fun x => storeCheck s w x.2.1
  els.forM fun x => match vstorePlace s w win x.2.1 with
    | .ok p => deviceGate p s
    | .error _ => .ok ()
  match wholeStore w pm addr, storePlace s (addr 0) 128 with
  | true, .ok p =>
    if win && !(0xFFFFFE ≤ regionOf (addr 0)) || p.loc == .host then
      return modCx (fun c => { c with late := c.late ++ lateOf (storeLate s w win els) }) (storeAll s w h win els (adv s))
    else return storeAt p (vBytes 128 v) h (elemRec s w 0x25 (0, addr 0, elemAt (8 * w) v 0)) (walkBehind (addr 0) .write (adv s))
  | _, _ => return modCx (fun c => { c with late := c.late ++ lateOf (storeLate s w win els) }) (storeAll s w h win els (adv s))

/-- VST (R348). -/
def execVst (e : Size) (rs1 : RegNo) (h : Hint) (z : Bool) (vs3 : RegNo) (s : State) : Out :=
  let w := sizeBytes e
  .next (orTrap (vstoreStep w h false (zPred s z) (unitAddr s w rs1) vs3 s) s)

/-- VSTS (R348). -/
def execVsts (e : Size) (rs2 rs1 : RegNo) (h : Hint) (z : Bool) (vs3 : RegNo) (s : State) : Out :=
  .next (orTrap (vstoreStep (sizeBytes e) h false (zPred s z) (strideAddr s rs1 rs2) vs3 s) s)

/-- VSTX (R351). -/
def execVstx (e : Size) (vs2 rs1 : RegNo) (z : Bool) (vs3 : RegNo) (s : State) : Out :=
  let w := sizeBytes e
  .next (orTrap (vstoreStep w .dflt true (zPred s z) (indexAddr s w rs1 vs2) vs3 s) s)

/-- VSTM (R352). -/
def execVstm (e : Size) (p : PredNo) (rs1 : RegNo) (h : Hint) (vs3 : RegNo) (s : State) : Out :=
  let w := sizeBytes e
  .next (orTrap (vstoreStep w h false (governing s p) (unitAddr s w rs1) vs3 s) s)

/-! ### Lane-private access (R117, R353) -/

/-- LS: bytes of a lane's slice (R115). -/
def laneSize (c : Core) : Nat := (c.dpoolb1 - c.dpoolb0) / 32

/-- Pool offset of offset `o` of lane `l` (R353). -/
def laneOff (c : Core) (l o : Nat) : Nat := c.dpoolb0 + l * laneSize c + o

/-- The lanes that hold a byte of an active element (R353). -/
def lanesOf (w : Nat) (pm : PReg) : List Nat :=
  let m := activeMask w pm
  (List.range 32).filter fun l => bits m.toNat (4 * l) 4 != 0

/-- The range-lock check of lanes, on their own-pool-window addresses (R353). -/
def laneLocks (s : State) (o : Nat) (ls : List Nat) : Res Unit :=
  ls.forM fun l => rangeLockCheck s (BitVec.ofNat 64 (ownWindow + laneOff s.core l o)) 4

/-- Whether an offset has no room in a slice (R353). -/
def laneOut (c : Core) (o : Nat) : Bool := laneSize c < o + 4

/-- VLDL (R353). -/
def vldlStep (e : Size) (rs1 : RegNo) (z : Bool) (vd : RegNo) (s : State) : Res State := do
  let w := sizeBytes e
  let a := readX s rs1
  let o := a.toNat
  let pm := zPred s z
  let ls := lanesOf w pm
  if o % 4 != 0 then throw (.trap 4 a)
  laneLocks s o ls
  if laneOut s.core o then throw (.trap 5 a)
  let key := fun l => poolKey s.core.num (laneOff s.core l o)
  match ls.find? fun l => poisoned s (key l) 4 with
  | some l => throw (.trap 0x25 (BitVec.ofNat 64 (ownWindow + laneOff s.core l o)))
  | none =>
    let v := placeElems 4 (ls.map fun l => (l, memNat s.mem (key l) 4))
    return adv (writeV vd (mergeV 0 v (activeMask w pm)) (if z then -1 else activeMask w pm) s)

/-- VLDL (R353). -/
def execVldl (e : Size) (rs1 : RegNo) (z : Bool) (vd : RegNo) (s : State) : Out := .next (orTrap (vldlStep e rs1 z vd s) s)

/-- Bytes of one lane that a mask picks written at its slice. -/
def storeLane (m : PReg) (v : VReg) (key l : Nat) (s : State) : State :=
  (List.range 4).foldl (fun s b => if m.getLsbD (4 * l + b) then perform (key + b) [vbyte v (4 * l + b)] s else s) s

/-- The lanes of element `i` of `w` bytes. -/
def elemLanes (w i : Nat) : List Nat := (List.range 32).filter fun l => 4 * l < w * i + w && w * i < 4 * l + 4

/-- VSTL (R353): its lowest active element that cannot be written makes one record, with the offset as its address where the slices
have no room for it; such an element is dropped whole (R247). With no active element there is none to record. -/
def vstlStep (e : Size) (rs1 : RegNo) (z : Bool) (vs3 : RegNo) (s : State) : Res State := do
  let w := sizeBytes e
  let a := readX s rs1
  let o := a.toNat
  let pm := zPred s z
  let ls := lanesOf w pm
  if o % 4 != 0 then throw (.trap 6 a)
  laneLocks s o ls
  let v := readV s vs3
  let record := fun (i : Nat) (va : Word) (c : BitVec 8) => addLate ⟨some (i, storeRec s va w (BitVec.ofNat 64 (elemAt (8 * w) v i)) c 1), []⟩
  match laneOut s.core o, activeList w pm with
  | _, [] => return adv s
  | true, first :: _ => return record first a 7 (adv s)
  | false, els =>
    let key := fun l => poolKey s.core.num (laneOff s.core l o)
    let hurt := fun (i : Nat) => (elemLanes w i).find? fun l => poisoned s (key l) 4
    let m := groupMask w fun i => active w pm i && (hurt i).isNone
    let t := ls.foldl (fun t l => storeLane m v (key l) l t) (adv s)
    match els.findSome? fun i => (hurt i).map fun l => (i, l) with
    | none => return t
    | some (i, l) => return record i (BitVec.ofNat 64 (ownWindow + laneOff s.core l o)) 0x25 t

/-- VSTL (R353). -/
def execVstl (e : Size) (rs1 : RegNo) (z : Bool) (vs3 : RegNo) (s : State) : Out := .next (orTrap (vstlStep e rs1 z vs3 s) s)

/-! ### VAMO (R354) and VPREF (R355) -/

/-- The new value of one element of a VAMO (R354). -/
def vamoVal (op : VamoOp) (w m o : Nat) : Nat :=
  let b := 8 * w
  match op with
  | .add => (m + o) % 2 ^ b
  | .min => if sintN o b < sintN m b then o else m
  | .max => if sintN m b < sintN o b then o else m
  | .and => m &&& o
  | .or => m ||| o
  | .xor => m ^^^ o
  | .swap => o
  | .faddF32 => addRne ff32 m o

/-- The checks of one element of a VAMO that come before its access (R246, R354): window and pool checks give cause 5. -/
def vamoCheck (s : State) (w : Nat) (va : Word) : Res Place := do
  if misaligned va w then throw (.trap 6 va)
  rangeLockCheck s va w
  if !(0xFFFFFE ≤ regionOf va) then throw (.trap 5 va)
  resolveT s va w .amo

/-- Every check of one element of a VAMO. -/
def vamoFull (s : State) (w : Nat) (va : Word) : Res Place := do
  let p ← vamoCheck s w va
  if poisoned s p.key w then throw (.trap 0x25 va)
  return p

/-- The elements of a VAMO performed one after the other. -/
def vamoAll (op : VamoOp) (w : Nat) : List (Nat × Word × Place) → State → Res State
  | [], s => .ok s
  | (o, va, p) :: l, s => do
    let r ← rmwAt p va w (fun m => vamoVal op w m o) s
    vamoAll op w l r.st

/-- VAMO (R354): every element is active, whatever the predicates hold; the core's earlier writes to the same owning banks have been
performed (R208). -/
def vamoStep (e : Size) (op : VamoOp) (vs2 rs1 vs3 : RegNo) (w32 : Option W32) (s : State) : Res State := do
  if !vamoOk e op then illegalT w32
  let w := sizeBytes e
  let els := (List.range (128 / w)).map fun i => (elemAt (8 * w) (readV s vs3) i, indexAddr s w rs1 vs2 i)
  let ps ← checkAll els (vamoCheck s w) (vamoFull s w)
  remoteGate ((ps.filter fun x => x.2.2.loc != .own).map fun x => (0, x.2)) askHome s
  ps.forM fun x => inOrder x.2.2 s
  let _ ← els.mapM fun x => vamoFull s w x.2
  return adv (← vamoAll op w ps s)

/-- VAMO (R354). -/
def execVamo (e : Size) (op : VamoOp) (vs2 rs1 vs3 : RegNo) (s : State) : Out :=
  .next (orTrap (vamoStep e op vs2 rs1 vs3 (encode (.vamo e op vs2 rs1 vs3)) s) s)

/-- VPREF (R355): as CPREF (R320), the element width being ignored. -/
def execVpref (_e : Size) (rs1 : RegNo) (h : Hint) (s : State) : Out :=
  let a := readX s rs1
  .next (adv (match prefetchPlace s a with
    | some p => prefetchLine p a h s
    | none => s))

end Sys2Proof.Machine
end

