-- ==== Sys2Proof/Machine/Vint.lean ====
section
/-! DEFINITION. Integer vector, permute and predicate instructions of custom-2 (R200, R201, R343 to R345, R356, R357, R363 to
R366). -/

namespace Sys2Proof

/-- Bytes of an element of a type (R291). -/
def VTy.bytes : VTy → Nat
  | .i8 => 1 | .i16 => 2 | .i32 => 4 | .i64 => 8

end Sys2Proof

namespace Sys2Proof.Machine

/-- Elements of `w` bytes written where they are active (R344). -/
def writeElems (w : Nat) (vd : RegNo) (pm : PReg) (f : Nat → Nat) (s : State) : State :=
  writeV vd (ofElems 1024 (8 * w) ((List.range (128 / w)).map f)) (activeMask w pm) s

/-- A predicate written group by group where elements are active (R344). -/
def writeGroups (w : Nat) (pd : PredNo) (pm : PReg) (f : Nat → Bool) (s : State) : State :=
  let m := activeMask w pm
  writeP pd ((readP s pd &&& ~~~m) ||| (groupMask w f &&& m)) s

/-- An element-by-element operation of a, b and d on elements of `8 * w` bits (R345). -/
def vmap3 (t : VTy) (f : (w a b d : Nat) → Nat) (vs2 vs1 : RegNo) (pg : PredNo) (vd : RegNo) (s : State) : Out :=
  let w := t.bytes
  let el := fun (r : RegNo) (i : Nat) => elemAt (8 * w) (readV s r) i
  .next (adv (writeElems w vd (governing s pg) (fun i => f (8 * w) (el vs1 i) (el vs2 i) (el vd i)) s))

/-- A signed result wrapped to W bits. -/
def wrapI (w : Nat) (i : Int) : Nat := (i % (2 ^ w : Nat)).toNat

/-- A signed value clamped to the signed range of W bits. -/
def clampS (w : Nat) (i : Int) : Nat := wrapI w (max (-(2 ^ (w - 1) : Nat)) (min ((2 ^ (w - 1) : Nat) - 1) i))

/-- VADD (R356). -/
def execVadd (t : VTy) (vs2 vs1 : RegNo) (pg : PredNo) (vd : RegNo) (s : State) : Out :=
  vmap3 t (fun w a b _ => (a + b) % 2 ^ w) vs2 vs1 pg vd s
/-- VSUB (R356). -/
def execVsub (t : VTy) (vs2 vs1 : RegNo) (pg : PredNo) (vd : RegNo) (s : State) : Out :=
  vmap3 t (fun w a b _ => (a + 2 ^ w - b) % 2 ^ w) vs2 vs1 pg vd s
/-- VMUL (R356). -/
def execVmul (t : VTy) (vs2 vs1 : RegNo) (pg : PredNo) (vd : RegNo) (s : State) : Out :=
  vmap3 t (fun w a b _ => a * b % 2 ^ w) vs2 vs1 pg vd s
/-- VMULH (R356): signed. -/
def execVmulh (t : VTy) (vs2 vs1 : RegNo) (pg : PredNo) (vd : RegNo) (s : State) : Out :=
  vmap3 t (fun w a b _ => wrapI w (sintN a w * sintN b w / (2 ^ w : Nat))) vs2 vs1 pg vd s
/-- VMULHN (R356): unsigned. -/
def execVmulhn (t : VTy) (vs2 vs1 : RegNo) (pg : PredNo) (vd : RegNo) (s : State) : Out :=
  vmap3 t (fun w a b _ => a * b / 2 ^ w) vs2 vs1 pg vd s
/-- VMAC (R356). -/
def execVmac (t : VTy) (vs2 vs1 : RegNo) (pg : PredNo) (vd : RegNo) (s : State) : Out :=
  vmap3 t (fun w a b d => (d + a * b) % 2 ^ w) vs2 vs1 pg vd s
/-- VADDS (R356). -/
def execVadds (t : VTy) (vs2 vs1 : RegNo) (pg : PredNo) (vd : RegNo) (s : State) : Out :=
  vmap3 t (fun w a b _ => clampS w (sintN a w + sintN b w)) vs2 vs1 pg vd s
/-- VADDSN (R356). -/
def execVaddsn (t : VTy) (vs2 vs1 : RegNo) (pg : PredNo) (vd : RegNo) (s : State) : Out :=
  vmap3 t (fun w a b _ => min (2 ^ w - 1) (a + b)) vs2 vs1 pg vd s
/-- VSUBS (R356). -/
def execVsubs (t : VTy) (vs2 vs1 : RegNo) (pg : PredNo) (vd : RegNo) (s : State) : Out :=
  vmap3 t (fun w a b _ => clampS w (sintN a w - sintN b w)) vs2 vs1 pg vd s
/-- VSUBSN (R356): clamped at 0. -/
def execVsubsn (t : VTy) (vs2 vs1 : RegNo) (pg : PredNo) (vd : RegNo) (s : State) : Out :=
  vmap3 t (fun _ a b _ => a - b) vs2 vs1 pg vd s
/-- VMIN (R356). -/
def execVmin (t : VTy) (vs2 vs1 : RegNo) (pg : PredNo) (vd : RegNo) (s : State) : Out :=
  vmap3 t (fun w a b _ => if sintN b w < sintN a w then b else a) vs2 vs1 pg vd s
/-- VMINN (R356). -/
def execVminn (t : VTy) (vs2 vs1 : RegNo) (pg : PredNo) (vd : RegNo) (s : State) : Out :=
  vmap3 t (fun _ a b _ => min a b) vs2 vs1 pg vd s
/-- VMAX (R356). -/
def execVmax (t : VTy) (vs2 vs1 : RegNo) (pg : PredNo) (vd : RegNo) (s : State) : Out :=
  vmap3 t (fun w a b _ => if sintN a w < sintN b w then b else a) vs2 vs1 pg vd s
/-- VMAXN (R356). -/
def execVmaxn (t : VTy) (vs2 vs1 : RegNo) (pg : PredNo) (vd : RegNo) (s : State) : Out :=
  vmap3 t (fun _ a b _ => max a b) vs2 vs1 pg vd s
/-- VAND (R356). -/
def execVand (t : VTy) (vs2 vs1 : RegNo) (pg : PredNo) (vd : RegNo) (s : State) : Out :=
  vmap3 t (fun _ a b _ => a &&& b) vs2 vs1 pg vd s
/-- VOR (R356). -/
def execVor (t : VTy) (vs2 vs1 : RegNo) (pg : PredNo) (vd : RegNo) (s : State) : Out :=
  vmap3 t (fun _ a b _ => a ||| b) vs2 vs1 pg vd s
/-- VXOR (R356). -/
def execVxor (t : VTy) (vs2 vs1 : RegNo) (pg : PredNo) (vd : RegNo) (s : State) : Out :=
  vmap3 t (fun _ a b _ => a ^^^ b) vs2 vs1 pg vd s
/-- VSLL (R356). -/
def execVsll (t : VTy) (vs2 vs1 : RegNo) (pg : PredNo) (vd : RegNo) (s : State) : Out :=
  vmap3 t (fun w a b _ => a * 2 ^ (b % w) % 2 ^ w) vs2 vs1 pg vd s
/-- VSRL (R356). -/
def execVsrl (t : VTy) (vs2 vs1 : RegNo) (pg : PredNo) (vd : RegNo) (s : State) : Out :=
  vmap3 t (fun w a b _ => a / 2 ^ (b % w)) vs2 vs1 pg vd s
/-- VSRA (R356). -/
def execVsra (t : VTy) (vs2 vs1 : RegNo) (pg : PredNo) (vd : RegNo) (s : State) : Out :=
  vmap3 t (fun w a b _ => wrapI w (sintN a w / (2 ^ (b % w) : Nat))) vs2 vs1 pg vd s
/-- VROTL (R356). -/
def execVrotl (t : VTy) (vs2 vs1 : RegNo) (pg : PredNo) (vd : RegNo) (s : State) : Out :=
  vmap3 t (fun w a b _ => a * 2 ^ (b % w) % 2 ^ w + a / 2 ^ (w - b % w)) vs2 vs1 pg vd s

/-- Number of 1 bits of the low `w` bits. -/
def bitCount (w a : Nat) : Nat := ((List.range w).filter fun i => a.testBit i).length

/-- VPOPC (R356). -/
def execVpopc (t : VTy) (vs1 : RegNo) (pg : PredNo) (vd : RegNo) (s : State) : Out :=
  vmap3 t (fun w a _ _ => bitCount w a) 0 vs1 pg vd s
/-- VCLZ (R356). -/
def execVclz (t : VTy) (vs1 : RegNo) (pg : PredNo) (vd : RegNo) (s : State) : Out :=
  vmap3 t (fun w a _ _ => w - blen a) 0 vs1 pg vd s

/-! ### Comparison and selection (R357) -/

/-- A VCMP condition on elements of `w` bits (R293, R357). -/
def condHolds (k : Cond) (w a b : Nat) : Bool :=
  match k with
  | .eq => a == b
  | .ne => a != b
  | .lt => sintN a w < sintN b w
  | .le => sintN a w ≤ sintN b w
  | .ltn => a < b
  | .len => a ≤ b

/-- VCMP (R357). -/
def execVcmp (t : VTy) (k : Cond) (vs2 vs1 : RegNo) (pg pd : PredNo) (s : State) : Out :=
  let w := t.bytes
  let el := fun (r : RegNo) (i : Nat) => elemAt (8 * w) (readV s r) i
  .next (adv (writeGroups w pd (governing s pg) (fun i => condHolds k (8 * w) (el vs1 i) (el vs2 i)) s))

/-- VSEL (R357): every element of vd is written. -/
def execVsel (t : VTy) (vs2 vs1 : RegNo) (pg : PredNo) (vd : RegNo) (s : State) : Out :=
  .next (adv (writeV vd (mergeV (readV s vs2) (readV s vs1) (activeMask t.bytes (governing s pg))) (-1) s))

/-! ### Reductions and scans (R200, R201, R363, R364) -/

/-- Op of R200 with absent operands; the flags of the operation beside it. -/
def combine (op : Nat → Nat → Nat × Flags) (a b : Option Nat) : Option Nat × Flags :=
  match a, b with
  | some x, some y => let r := op x y; (some r.1, r.2)
  | some x, none => (some x, 0)
  | none, y => (y, 0)

/-- One level of the tree of R200. -/
def treeLevel (op : Nat → Nat → Nat × Flags) : List (Option Nat) → List (Option Nat) × Flags
  | a :: b :: l => let r := combine op a b; let q := treeLevel op l; (r.1 :: q.1, r.2 ||| q.2)
  | l => (l, 0)

/-- The tree of R200, at most `k` levels. -/
def treeOf (op : Nat → Nat → Nat × Flags) : (k : Nat) → List (Option Nat) → Option Nat × Flags
  | 0, l => ((l.head?).join, 0)
  | k + 1, l =>
    let r := treeLevel op l
    let q := treeOf op k r.1
    (q.1, r.2 ||| q.2)

/-- Op of R201 on values that carry the flags of the Ops they come from. -/
def combineF (op : Nat → Nat → Nat × Flags) (a b : Option (Nat × Flags)) : Option (Nat × Flags) :=
  match a, b with
  | some x, some y => let r := op x.1 y.1; some (r.1, x.2 ||| y.2 ||| r.2)
  | some x, none => some x
  | none, y => y

/-- One step of the scan of R201 at distance `d`. -/
def scanStep (op : Nat → Nat → Nat × Flags) (d : Nat) (ys : List (Option (Nat × Flags))) : List (Option (Nat × Flags)) :=
  List.zipWith (combineF op) (List.replicate d none ++ ys) ys

/-- The scan of R201: `k` steps from distance `d` on. -/
def scanOf (op : Nat → Nat → Nat × Flags) : (k d : Nat) → List (Option (Nat × Flags)) → List (Option (Nat × Flags))
  | 0, _, ys => ys
  | k + 1, d, ys => scanOf op k (2 * d) (scanStep op d ys)

/-- The elements of `w` bytes, absent where they are inactive. -/
def present1 (w : Nat) (pm : PReg) (v : VReg) : List (Option Nat) :=
  (List.range (128 / w)).map fun i => if active w pm i then some (elemAt (8 * w) v i) else none

/-- Levels of the tree over elements of `w` bytes. -/
def levels (w : Nat) : Nat := Nat.log2 (128 / w)

/-- An integer reduction operation on elements of `w` bits (R293). -/
def redVal (op : RedOp) (w a b : Nat) : Nat :=
  match op with
  | .add => (a + b) % 2 ^ w
  | .min => if sintN b w < sintN a w then b else a
  | .max => if sintN a w < sintN b w then b else a
  | .minn => min a b
  | .maxn => max a b
  | .and => a &&& b
  | .or => a ||| b
  | .xor => a ^^^ b

/-- A reduction (R363): element 0 becomes Op(d0, r), the others stay; with every element absent vd is unchanged. -/
def reduce (w : Nat) (op : Nat → Nat → Nat × Flags) (vs1 : RegNo) (pg : PredNo) (vd : RegNo) (s : State) : State :=
  let r := treeOf op (levels w) (present1 w (governing s pg) (readV s vs1))
  match r.1 with
  | none => adv s
  | some x =>
    let q := op (elemAt (8 * w) (readV s vd) 0) x
    adv (raiseFlags (r.2 ||| q.2) (writeV vd (BitVec.ofNat 1024 q.1) (spanMask 0 w) s))

/-- Active elements written with the values of a function, its flags raised (R187, R344). -/
def writeF3 (w : Nat) (vd : RegNo) (pm : PReg) (f : Nat → Nat × Flags) (s : State) : State :=
  let fl := (activeList w pm).foldl (fun x i => x ||| (f i).2) (0 : Flags)
  adv (raiseFlags fl (writeElems w vd pm (fun i => (f i).1) s))

/-- A scan (R364): an active element raises the flags of the Ops that its value comes from (R187). -/
def scan (w : Nat) (op : Nat → Nat → Nat × Flags) (vs1 : RegNo) (pg : PredNo) (vd : RegNo) (s : State) : State :=
  let pm := governing s pg
  let r := scanOf op (levels w) 1 ((present1 w pm (readV s vs1)).map fun x => x.map fun v => (v, 0))
  writeF3 w vd pm (fun i => ((r[i]?).join).getD (0, 0)) s

/-- VRED (R363). -/
def execVred (t : VTy) (op : RedOp) (vs1 : RegNo) (pg : PredNo) (vd : RegNo) (s : State) : Out :=
  .next (reduce t.bytes (fun a b => (redVal op (8 * t.bytes) a b, 0)) vs1 pg vd s)

/-- VSCAN (R364). -/
def execVscan (t : VTy) (op : RedOp) (vs1 : RegNo) (pg : PredNo) (vd : RegNo) (s : State) : Out :=
  .next (scan t.bytes (fun a b => (redVal op (8 * t.bytes) a b, 0)) vs1 pg vd s)

/-! ### Element moves (R365) -/

/-- Element `j` of a register, 0 beyond the last (R365). -/
def elemOr0 (w : Nat) (v : VReg) (j : Nat) : Nat := if j < 128 / w then elemAt (8 * w) v j else 0

/-- VPERM (R365). -/
def execVperm (t : VTy) (vs2 vs1 : RegNo) (pg : PredNo) (vd : RegNo) (s : State) : Out :=
  let w := t.bytes
  .next (adv (writeElems w vd (governing s pg) (fun i => elemOr0 w (readV s vs1) (elemAt (8 * w) (readV s vs2) i)) s))

/-- VSLIDEUP (R365). -/
def execVslideup (t : VTy) (rs2 vs1 : RegNo) (pg : PredNo) (vd : RegNo) (s : State) : Out :=
  let w := t.bytes
  let k := (readX s rs2).toNat
  .next (adv (writeElems w vd (governing s pg) (fun i => if k ≤ i then elemAt (8 * w) (readV s vs1) (i - k) else 0) s))

/-- VSLIDEDN (R365). -/
def execVslidedn (t : VTy) (rs2 vs1 : RegNo) (pg : PredNo) (vd : RegNo) (s : State) : Out :=
  let w := t.bytes
  let k := (readX s rs2).toNat
  .next (adv (writeElems w vd (governing s pg) (fun i => elemOr0 w (readV s vs1) (i + k)) s))

/-- VZIP (R365). -/
def execVzip (t : VTy) (vs2 vs1 : RegNo) (pg : PredNo) (vd : RegNo) (s : State) : Out :=
  let w := t.bytes
  .next (adv (writeElems w vd (governing s pg) (fun i => elemAt (8 * w) (readV s (if i % 2 = 0 then vs1 else vs2)) (i / 2)) s))

/-- VUNZIP (R365). -/
def execVunzip (t : VTy) (vs2 vs1 : RegNo) (pg : PredNo) (vd : RegNo) (s : State) : Out :=
  let w := t.bytes
  let h := 64 / w
  .next (adv (writeElems w vd (governing s pg) (fun i =>
    if i < h then elemAt (8 * w) (readV s vs1) (2 * i) else elemAt (8 * w) (readV s vs2) (2 * (i - h))) s))

/-- VBCAST (R365). -/
def execVbcast (t : VTy) (rs1 : RegNo) (pg : PredNo) (vd : RegNo) (s : State) : Out :=
  .next (adv (writeElems t.bytes vd (governing s pg) (fun _ => (readX s rs1).toNat) s))

/-- VID (R365). -/
def execVid (t : VTy) (pg : PredNo) (vd : RegNo) (s : State) : Out :=
  .next (adv (writeElems t.bytes vd (governing s pg) (fun i => i) s))

/-- VEXT (R365): pg is ignored. -/
def execVext (t : VTy) (rs2 vs1 : RegNo) (_pg : PredNo) (rd : RegNo) (s : State) : Out :=
  let w := t.bytes
  .next (adv (writeX rd (sextN (elemOr0 w (readV s vs1) (readX s rs2).toNat) (8 * w)) s))

/-- VINS (R365): pg is ignored; an element beyond the last changes nothing. -/
def execVins (t : VTy) (rs2 rs1 : RegNo) (_pg : PredNo) (vd : RegNo) (s : State) : Out :=
  let w := t.bytes
  let j := (readX s rs2).toNat
  .next (adv (if j < 128 / w then
    writeV vd (BitVec.ofNat 1024 ((readX s rs1).toNat % 256 ^ w * 256 ^ (w * j))) (spanMask (w * j) w) s else s))

/-! ### Predicates (R366) -/

/-- A PLOGIC operation on group bits (R293, R366). -/
def popHolds (op : POp) (a b : Bool) : Bool :=
  match op with
  | .and => a && b
  | .or => a || b
  | .xor => a != b
  | .andn => a && !b
  | .orn => a || !b
  | .xnor => a == b

/-- PLOGIC (R366). -/
def execPlogic (t : VTy) (op : POp) (pb pa pg pd : PredNo) (s : State) : Out :=
  let w := t.bytes
  .next (adv (writeGroups w pd (governing s pg) (fun i => popHolds op (active w (readP s pa) i) (active w (readP s pb) i)) s))

/-- PPOPC (R366). -/
def execPpopc (t : VTy) (pa pg : PredNo) (rd : RegNo) (s : State) : Out :=
  let w := t.bytes
  .next (adv (writeX rd (BitVec.ofNat 64 ((activeList w (governing s pg)).filter (active w (readP s pa))).length) s))

/-- PFIRST (R366). -/
def execPfirst (t : VTy) (pa pg : PredNo) (rd : RegNo) (s : State) : Out :=
  let w := t.bytes
  .next (adv (writeX rd (match (activeList w (governing s pg)).find? (active w (readP s pa)) with
    | some i => BitVec.ofNat 64 i
    | none => -1) s))

/-- PSETN (R366): pg is ignored. -/
def execPsetn (t : VTy) (rs1 : RegNo) (_pg pd : PredNo) (s : State) : Out :=
  let n := (readX s rs1).toNat
  .next (adv (writeGroups t.bytes pd (-1) (fun i => i < n) s))

end Sys2Proof.Machine
end

