-- ==== Sys2Proof/Machine/Vfp.lean ====
section
/-! DEFINITION. Floating vector instructions, conversions and format pairs (R181 to R189, R200, R201, R294, R295, R346, R358 to
R364, R367 to R371). -/

namespace Sys2Proof

/-! ### Widths and formats of the type and conversion codes (R291, R294) -/

/-- The format of a class F type (R291). -/
def FTy.ff : FTy → Machine.FF
  | .fp16 => Machine.ff16 | .bf16 => Machine.ffbf | .fp32 => Machine.ff32

/-- Bytes of a class F element. -/
def FTy.bytes : FTy → Nat
  | .fp16 => 2 | .bf16 => 2 | .fp32 => 4

/-- Bytes of a float conversion code (R294). -/
def FFmt.bytes : FFmt → Nat
  | .fp16 | .bf16 => 2 | .fp32 => 4 | .e4m3n | .e5m2 | .e8m0 => 1

/-- Bytes of an integer conversion code (R294). -/
def IFmt.bytes : IFmt → Nat
  | .i8 | .n8 => 1 | .i16 | .n16 => 2 | .i32 | .n32 => 4 | .i64 => 8

/-- Whether an integer conversion code is signed (R189). -/
def IFmt.signed : IFmt → Bool
  | .i8 | .i16 | .i32 | .i64 => true
  | _ => false

/-- The floating format of a code; E8M0 has its own rules (R184). -/
def FFmt.ff : FFmt → Machine.FF
  | .fp16 => Machine.ff16 | .bf16 => Machine.ffbf | .fp32 => Machine.ff32 | .e4m3n => Machine.ffe4 | .e5m2 => Machine.ffe5 | .e8m0 => Machine.ff32

/-- Decode of a float conversion code (R182, R184, R362). -/
def FFmt.decode (f : FFmt) (b : Nat) : Machine.Fv := if f = .e8m0 then Machine.decodeE8 b else Machine.decodeF f.ff b

/-- A value converted to a float code (R183, R184, R186, R362). -/
def FFmt.from (f : FFmt) (m : Machine.RMode) (sat : Bool) (v : Machine.Fv) : Nat × Machine.Flags := if f = .e8m0 then Machine.toE8 m sat v else Machine.roundF f.ff m sat v

/-- An integer of a code (R189). -/
def IFmt.val (f : IFmt) (b : Nat) : Int := if f.signed then Machine.sintN b (8 * f.bytes) else (b : Int)

/-- The range of an integer code (R189). -/
def IFmt.lo (f : IFmt) : Int := if f.signed then -(2 ^ (8 * f.bytes - 1) : Nat) else 0

/-- The upper limit of an integer code (R189). -/
def IFmt.hi (f : IFmt) : Int := if f.signed then (2 ^ (8 * f.bytes - 1) : Nat) - 1 else (2 ^ (8 * f.bytes) : Nat) - 1

end Sys2Proof

namespace Sys2Proof.Machine

/-- An instruction that rounds takes its mode from fcsr.frm, or is illegal (R188, R346). -/
def withMode (w : Option W32) (s : State) (f : RMode → State) : Out :=
  .next (match devMode s.core.cx.frm with
    | some m => f m
    | none => illegal w s)

/-- An element-by-element floating operation of a, b and d, rounded once (R346, R358). -/
def fmap3 (t : FTy) (f : RMode → Fv → Fv → Fv → Fv × Flags) (vs2 vs1 : RegNo) (pg : PredNo) (vd : RegNo) (w32 : Option W32)
    (s : State) : Out :=
  let w := t.bytes
  let el := fun (r : RegNo) (i : Nat) => decodeF t.ff (elemAt (8 * w) (readV s r) i)
  withMode w32 s fun m => writeF3 w vd (governing s pg) (fun i => finishF t.ff m (f m (el vs1 i) (el vs2 i) (el vd i))) s

/-- VFADD (R358). -/
def execVfadd (t : FTy) (vs2 vs1 : RegNo) (pg : PredNo) (vd : RegNo) (s : State) : Out :=
  fmap3 t (fun m a b _ => addF m [a, b]) vs2 vs1 pg vd (encode (.vfadd t vs2 vs1 pg vd)) s
/-- VFSUB (R358). -/
def execVfsub (t : FTy) (vs2 vs1 : RegNo) (pg : PredNo) (vd : RegNo) (s : State) : Out :=
  fmap3 t (fun m a b _ => addF m [a, b.neg]) vs2 vs1 pg vd (encode (.vfsub t vs2 vs1 pg vd)) s
/-- VFMUL (R358). -/
def execVfmul (t : FTy) (vs2 vs1 : RegNo) (pg : PredNo) (vd : RegNo) (s : State) : Out :=
  fmap3 t (fun _ a b _ => mulF a b) vs2 vs1 pg vd (encode (.vfmul t vs2 vs1 pg vd)) s
/-- VFMA (R358). -/
def execVfma (t : FTy) (vs2 vs1 : RegNo) (pg : PredNo) (vd : RegNo) (s : State) : Out :=
  fmap3 t (fun m a b d => fmaF m a b d) vs2 vs1 pg vd (encode (.vfma t vs2 vs1 pg vd)) s
/-- VFMS (R358): a·b − d. -/
def execVfms (t : FTy) (vs2 vs1 : RegNo) (pg : PredNo) (vd : RegNo) (s : State) : Out :=
  fmap3 t (fun m a b d => fmaF m a b d.neg) vs2 vs1 pg vd (encode (.vfms t vs2 vs1 pg vd)) s
/-- VFNMA (R358): d − a·b. -/
def execVfnma (t : FTy) (vs2 vs1 : RegNo) (pg : PredNo) (vd : RegNo) (s : State) : Out :=
  fmap3 t (fun m a b d => fmaF m a.neg b d) vs2 vs1 pg vd (encode (.vfnma t vs2 vs1 pg vd)) s
/-- VFDIV (R358). -/
def execVfdiv (t : FTy) (vs2 vs1 : RegNo) (pg : PredNo) (vd : RegNo) (s : State) : Out :=
  fmap3 t (fun _ a b _ => divF a b) vs2 vs1 pg vd (encode (.vfdiv t vs2 vs1 pg vd)) s
/-- VFSQRT (R358). -/
def execVfsqrt (t : FTy) (vs1 : RegNo) (pg : PredNo) (vd : RegNo) (s : State) : Out :=
  fmap3 t (fun _ a _ _ => sqrtF a) 0 vs1 pg vd (encode (.vfsqrt t vs1 pg vd)) s

/-- VFMIN and VFMAX (R358), which do not round. -/
def fminmax (isMax : Bool) (t : FTy) (vs2 vs1 : RegNo) (pg : PredNo) (vd : RegNo) (s : State) : Out :=
  let w := t.bytes
  let el := fun (r : RegNo) (i : Nat) => elemAt (8 * w) (readV s r) i
  .next (writeF3 w vd (governing s pg) (fun i => minmaxF t.ff isMax (el vs1 i) (el vs2 i)) s)

/-- VFMIN (R358). -/
def execVfmin (t : FTy) (vs2 vs1 : RegNo) (pg : PredNo) (vd : RegNo) (s : State) : Out := fminmax false t vs2 vs1 pg vd s
/-- VFMAX (R358). -/
def execVfmax (t : FTy) (vs2 vs1 : RegNo) (pg : PredNo) (vd : RegNo) (s : State) : Out := fminmax true t vs2 vs1 pg vd s

/-- A VFCMP condition and its flags (R359). -/
def fcondHolds (k : FCond) (a b : Fv) : Bool × Flags :=
  let nan := a.isNan || b.isNan
  let sn := snan a ||| snan b
  match k with
  | .eq => (cmpF a b == some .eq, sn)
  | .un => (nan, sn)
  | .lt => (cmpF a b == some .lt, if nan then fNV else 0)
  | .le => (cmpF a b == some .lt || cmpF a b == some .eq, if nan then fNV else 0)

/-- VFCMP (R359). -/
def execVfcmp (t : FTy) (k : FCond) (vs2 vs1 : RegNo) (pg pd : PredNo) (s : State) : Out :=
  let w := t.bytes
  let pm := governing s pg
  let r := fun (i : Nat) => fcondHolds k (decodeF t.ff (elemAt (8 * w) (readV s vs1) i)) (decodeF t.ff (elemAt (8 * w) (readV s vs2) i))
  let fl := (activeList w pm).foldl (fun x i => x ||| (r i).2) (0 : Flags)
  .next (adv (raiseFlags fl (writeGroups w pd pm (fun i => (r i).1) s)))

/-- VFSGN (R359): bits move, no flag. -/
def execVfsgn (t : FTy) (vs2 vs1 : RegNo) (pg : PredNo) (vd : RegNo) (s : State) : Out :=
  let w := t.bytes
  let el := fun (r : RegNo) (i : Nat) => elemAt (8 * w) (readV s r) i
  .next (adv (writeElems w vd (governing s pg) (fun i => el vs1 i % t.ff.signW + el vs2 i / t.ff.signW * t.ff.signW) s))

/-- VFCLASS (R359). -/
def execVfclass (t : FTy) (vs1 : RegNo) (pg : PredNo) (vd : RegNo) (s : State) : Out :=
  let w := t.bytes
  .next (adv (writeElems w vd (governing s pg) (fun i => classF t.ff (elemAt (8 * w) (readV s vs1) i)) s))

/-- VCMUL (R360): one part of a complex product, rounded once. -/
def cmulPart (f : FF) (m : RMode) (a b : Nat → Fv) (i : Nat) : Nat × Flags :=
  let j := i / 2 * 2
  let p := if i % 2 = 0 then mulF (a j) (b j) else mulF (a j) (b (j + 1))
  let q := if i % 2 = 0 then mulF (a (j + 1)) (b (j + 1)) else mulF (a (j + 1)) (b j)
  let r := addF m [p.1, if i % 2 = 0 then q.1.neg else q.1]
  finishF f m (r.1, p.2 ||| q.2 ||| r.2)

/-- The predicate of VCMUL: both elements of a pair follow the bit of the even one (R360). -/
def evenPred (w : Nat) (pm : PReg) : PReg := groupMask w fun i => active w pm (i / 2 * 2)

/-- VCMUL (R360). -/
def execVcmul (t : FTy) (vs2 vs1 : RegNo) (pg : PredNo) (vd : RegNo) (s : State) : Out :=
  let w := t.bytes
  let el := fun (r : RegNo) (i : Nat) => decodeF t.ff (elemAt (8 * w) (readV s r) i)
  withMode (encode (.vcmul t vs2 vs1 pg vd)) s fun m =>
    writeF3 w vd (evenPred w (governing s pg)) (cmulPart t.ff m (el vs1) (el vs2)) s

/-- A floating reduction operation, rounded once (R200, R358, R363). -/
def fredVal (f : FF) (m : RMode) (op : FRedOp) (a b : Nat) : Nat × Flags :=
  match op with
  | .add => finishF f m (addF m [decodeF f a, decodeF f b])
  | .min => minmaxF f false a b
  | .max => minmaxF f true a b

/-- VFRED (R363). -/
def execVfred (t : FTy) (op : FRedOp) (vs1 : RegNo) (pg : PredNo) (vd : RegNo) (s : State) : Out :=
  withMode (encode (.vfred t op vs1 pg vd)) s fun m => reduce t.bytes (fredVal t.ff m op) vs1 pg vd s

/-- VFSCAN (R364). -/
def execVfscan (t : FTy) (op : FRedOp) (vs1 : RegNo) (pg : PredNo) (vd : RegNo) (s : State) : Out :=
  withMode (encode (.vfscan t op vs1 pg vd)) s fun m => scan t.bytes (fredVal t.ff m op) vs1 pg vd s

/-! ### Conversions (R361, R362) -/

/-- A conversion between elements of `ws` and `wd` bytes (R361): a narrowing one zeroes the rest of vd. -/
def convert (ws wd : Nat) (f : Nat → Nat × Flags) (vs1 : RegNo) (pg : PredNo) (vd : RegNo) (s : State) : State :=
  let m := max ws wd
  let n := 128 / m
  let pm := governing s pg
  let act := (List.range n).filter (active m pm)
  let rs := act.map fun i => (i, f (elemAt (8 * ws) (readV s vs1) i))
  let v := placeElems wd (rs.map fun r => (r.1, r.2.1))
  let mask := BitVec.ofNat 128 ((act.map fun i => (2 ^ wd - 1) * 2 ^ (wd * i)).sum) ||| (-1 <<< (n * wd))
  adv (raiseFlags (rs.foldl (fun x r => x ||| r.2.2) (0 : Flags)) (writeV vd v mask s))

/-- VCVTF (R362). -/
def execVcvtf (dst : FFmt) (src : IFmt) (sat : Bool) (vs1 : RegNo) (pg : PredNo) (vd : RegNo) (s : State) : Out :=
  withMode (encode (.vcvtf dst src sat vs1 pg vd)) s fun m =>
    convert src.bytes dst.bytes (fun b => dst.from m sat (ofIntF (src.val b))) vs1 pg vd s

/-- VCVTI (R189, R362). -/
def execVcvti (dst : IFmt) (src : FFmt) (sat : Bool) (vs1 : RegNo) (pg : PredNo) (vd : RegNo) (s : State) : Out :=
  withMode (encode (.vcvti dst src sat vs1 pg vd)) s fun m =>
    convert src.bytes dst.bytes (fun b =>
      let r := toIntX m dst.lo dst.hi (if sat then 0 else dst.hi) (src.decode b)
      (wrapI (8 * dst.bytes) r.1, r.2)) vs1 pg vd s

/-- VCVTX (R362): a form whose codes are equal is illegal (R294). -/
def execVcvtx (dst src : FFmt) (sat : Bool) (vs1 : RegNo) (pg : PredNo) (vd : RegNo) (s : State) : Out :=
  let w := encode (.vcvtx dst src sat vs1 pg vd)
  if dst = src then .next (illegal w s)
  else withMode w s fun m =>
    convert src.bytes dst.bytes (fun b =>
      let v := src.decode b
      let r := dst.from m sat v
      (r.1, r.2 ||| snan v)) vs1 pg vd s

/-! ### Format pairs (R295, R367 to R371) -/

/-- A format of a pair (R367): i8, or a float format with its width in bytes. -/
inductive PFmt | int | flt (f : FF) (w : Nat)
deriving DecidableEq, Repr

/-- Format A of a pair (R295). -/
def pairA : Pair → PFmt
  | .e4e4 | .e4e5 => .flt ffe4 1 | .e5e4 | .e5e5 => .flt ffe5 1 | .bf => .flt ffbf 2 | .fp => .flt ff16 2 | .i8 => .int

/-- Format B of a pair (R295). -/
def pairB : Pair → PFmt
  | .e4e4 | .e5e4 => .flt ffe4 1 | .e4e5 | .e5e5 => .flt ffe5 1 | .bf => .flt ffbf 2 | .fp => .flt ff16 2 | .i8 => .int

/-- Bytes of an element of a format of a pair. -/
def PFmt.bytes : PFmt → Nat
  | .int => 1 | .flt _ w => w

/-- An element of a float format of a pair. -/
def PFmt.get (p : PFmt) (v : VReg) (i : Nat) : Fv :=
  match p with
  | .int => ofIntF (sintN (elemAt 8 v i) 8)
  | .flt f w => decodeF f (elemAt (8 * w) v i)

/-- SA of a scale register (R367). -/
def scaleA (f : Word) : Nat := f.toNat % 256
/-- SB of a scale register (R367). -/
def scaleB (f : Word) : Nat := f.toNat / 256 % 256

/-- The first element that PART names, for elements of `w` bytes (R367). -/
def partOf (f : Word) (w : Nat) : Nat := if w = 1 then 32 * (f.toNat / 2 ^ 16 % 4) else 32 * (f.toNat / 2 ^ 16 % 2)

/-- The fp32 canonical NaN with NV (R368). -/
def nan32 : Nat × Flags := (0x7FC00000, fNV)

/-- 32 lanes written, with their flags. -/
def writeLanes (vd : RegNo) (f : Nat → Nat × Flags) (s : State) : State := writeF3 4 vd (-1) f s

/-- Whether products of opposite infinite signs meet (R368). -/
def oppositeInf (ps : List (Fv × Flags)) : Bool := ps.any (·.1 == .inf false) && ps.any (·.1 == .inf true)

/-- One lane of VDOTP (R368): products of equal sign of infinity add, opposite ones are invalid. -/
def dotLane (m : RMode) (k : Int) (lane : Fv) (ps : List (Fv × Flags)) : Nat × Flags :=
  let fl := ps.foldl (fun x p => x ||| p.2) (0 : Flags)
  let sum := addF m (ps.map (·.1))
  if oppositeInf ps then nan32
  else if sum.1.isNan then (0x7FC00000, fl ||| sum.2 ||| snan lane)
  else
    let r := finishF ff32 m (addF m (lane :: ps.map fun p => p.1.scale k))
    (r.1, r.2 ||| fl)

/-- VDOTP (R368). -/
def execVdotp (fs3 vs2 vs1 : RegNo) (p : Pair) (vd : RegNo) (s : State) : Out :=
  let f := readF s fs3
  let a := readV s vs1
  let b := readV s vs2
  let n := 4 / (pairA p).bytes
  withMode (encode (.vdotp fs3 vs2 vs1 p vd)) s fun m =>
    writeLanes vd (fun l =>
      let lane := elemAt 32 (readV s vd) l
      if p = .i8 then
        let t : Int := (((List.range 4).map fun j => sintN (elemAt 8 a (4 * l + j)) 8 * sintN (elemAt 8 b (4 * l + j)) 8)).sum
        (wrapI 32 (lane + t), 0)
      else if scaleA f = 255 || scaleB f = 255 then nan32
      else dotLane m ((scaleA f : Int) - 127 + ((scaleB f : Int) - 127)) (decodeF ff32 lane)
        ((List.range n).map fun j => mulF ((pairA p).get a (n * l + j)) ((pairB p).get b (n * l + j)))) s

/-- VMULP (R369). -/
def execVmulp (fs3 vs2 vs1 : RegNo) (p : Pair) (vd : RegNo) (s : State) : Out :=
  let f := readF s fs3
  let a := readV s vs1
  let b := readV s vs2
  let e := partOf f (pairA p).bytes
  withMode (encode (.vmulp fs3 vs2 vs1 p vd)) s fun m =>
    writeLanes vd (fun l =>
      if p = .i8 then (wrapI 32 (sintN (elemAt 8 a (e + l)) 8 * sintN (elemAt 8 b (e + l)) 8), 0)
      else if scaleA f = 255 || scaleB f = 255 then nan32
      else
        let r := mulF ((pairA p).get a (e + l)) ((pairB p).get b (e + l))
        finishF ff32 m (r.1.scale ((scaleA f : Int) - 127 + ((scaleB f : Int) - 127)), r.2)) s

/-- One element of VQNT (R370). -/
def quantise (p : PFmt) (m : RMode) (sa : Nat) (x : Nat) : Nat × Flags :=
  let v := decodeF ff32 x
  match p with
  | .int =>
    if sa = 255 then (0, fNV)
    else let r := toIntX m (-128) 127 0 (v.scale (127 - sa)); (wrapI 8 r.1, r.2)
  | .flt f _ =>
    if sa = 255 then (f.nan, fNV)
    else let r := roundF f m true (v.scale (127 - sa)); (r.1, r.2 ||| snan v)

/-- VQNT (R370): the other bytes of vd keep their values. -/
def execVqnt (fs3 vs1 : RegNo) (p : Pair) (vd : RegNo) (s : State) : Out :=
  let f := readF s fs3
  let w := (pairA p).bytes
  let e := partOf f w
  withMode (encode (.vqnt fs3 vs1 p vd)) s fun m =>
    let rs := (List.range 32).map fun l => quantise (pairA p) m (scaleA f) (elemAt 32 (readV s vs1) l)
    let v := placeElems w ((List.range 32).zipWith (fun l r => (e + l, r.1)) rs)
    adv (raiseFlags (rs.foldl (fun x r => x ||| r.2) (0 : Flags)) (writeV vd v (spanMask (w * e) (32 * w)) s))

/-- VDQNT (R371). -/
def execVdqnt (fs3 vs1 : RegNo) (p : Pair) (vd : RegNo) (s : State) : Out :=
  let f := readF s fs3
  let e := partOf f (pairA p).bytes
  withMode (encode (.vdqnt fs3 vs1 p vd)) s fun m =>
    writeLanes vd (fun l =>
      if scaleA f = 255 then nan32
      else
        let v := (pairA p).get (readV s vs1) (e + l)
        finishF ff32 m (v.scale ((scaleA f : Int) - 127), snan v)) s

end Sys2Proof.Machine
end

