-- ==== Sys2Proof/Machine/Dispatch.lean ====
section
/-! DEFINITION. One arm per constructor of Instr: a direct call of its meaning. -/

namespace Sys2Proof.Machine

/-- What an instruction or an event does: its meaning, by name. -/
def exec (i : Instr) (s : State) : Host.Outcome State Fault Refusal :=
  match i with
  | .enterS3 => Sys2Proof.Machine.execEnterS3 s
  | .descriptorCopy port ring => Sys2Proof.Machine.execDescriptorCopy port ring s
  | .admission port ring => Sys2Proof.Machine.execAdmission port ring s
  | .launchGatePass launch => Sys2Proof.Machine.execLaunchGatePass launch s
  | .placement launch groves groups => Sys2Proof.Machine.execPlacement launch groves groups s
  | .stageStart launch => Sys2Proof.Machine.execStageStart launch s
  | .launchEnd launch => Sys2Proof.Machine.execLaunchEnd launch s
  | .balancerEvaluation part => Sys2Proof.Machine.execBalancerEvaluation part s
  | .shadowSwap => Sys2Proof.Machine.execShadowSwap s
  | .swapComplete => Sys2Proof.Machine.execSwapComplete s
  | .yieldEvent => Sys2Proof.Machine.execYieldEvent s
  | .spillComplete => Sys2Proof.Machine.execSpillComplete s
  | .fillComplete => Sys2Proof.Machine.execFillComplete s
  | .quantumExpiry => Sys2Proof.Machine.execQuantumExpiry s
  | .remoteDataReturn bank ctx err host => Sys2Proof.Machine.execRemoteDataReturn bank ctx err host s
  | .packetArrival cls src dst => Sys2Proof.Machine.execPacketArrival cls src dst s
  | .governorChange grove => Sys2Proof.Machine.execGovernorChange grove s
  | .relockEnd grove => Sys2Proof.Machine.execRelockEnd grove s
  | .offerSteer node => Sys2Proof.Machine.execOfferSteer node s
  | .offerDeliver => Sys2Proof.Machine.execOfferDeliver s
  | .readinessUpdate node => Sys2Proof.Machine.execReadinessUpdate node s
  | .offerReturn group => Sys2Proof.Machine.execOfferReturn group s
  | .resendTimer twig => Sys2Proof.Machine.execResendTimer twig s
  | .orderedSendRelease twig => Sys2Proof.Machine.execOrderedSendRelease twig s
  | .releasingSendRelease twig => Sys2Proof.Machine.execReleasingSendRelease twig s
  | .offerReceipt => Sys2Proof.Machine.execOfferReceipt s
  | .groupRecordUpdate group => Sys2Proof.Machine.execGroupRecordUpdate group s
  | .msendCopyDeliver => Sys2Proof.Machine.execMsendCopyDeliver s
  | .barrierTopRelease dom => Sys2Proof.Machine.execBarrierTopRelease dom s
  | .barrierReleaseArrive ch => Sys2Proof.Machine.execBarrierReleaseArrive ch s
  | .haltWire => Sys2Proof.Machine.execHaltWire s
  | .launchHalt launch => Sys2Proof.Machine.execLaunchHalt launch s
  | .beatArrive => Sys2Proof.Machine.execBeatArrive s
  | .storeFaultRecord bank ctx err => Sys2Proof.Machine.execStoreFaultRecord bank ctx err s
  | .asyncStoreFaultTrap => Sys2Proof.Machine.execAsyncStoreFaultTrap s
  | .l1Fill => Sys2Proof.Machine.execL1Fill s
  | .sliceAccess slice => Sys2Proof.Machine.execSliceAccess slice s
  | .sliceFill slice => Sys2Proof.Machine.execSliceFill slice s
  | .flushRequest => Sys2Proof.Machine.execFlushRequest s
  | .flushAck slice line => Sys2Proof.Machine.execFlushAck slice line s
  | .writebackMerge => Sys2Proof.Machine.execWritebackMerge s
  | .replicaInvalidateAck line die => Sys2Proof.Machine.execReplicaInvalidateAck line die s
  | .pageModeSwitch frame => Sys2Proof.Machine.execPageModeSwitch frame s
  | .pageWalkComplete => Sys2Proof.Machine.execPageWalkComplete s
  | .monitorWake bank ctx => Sys2Proof.Machine.execMonitorWake bank ctx s
  | .reservationExpire bank ctx => Sys2Proof.Machine.execReservationExpire bank ctx s
  | .metadataFetch block ok => Sys2Proof.Machine.execMetadataFetch block ok s
  | .sequencerDispatch q => Sys2Proof.Machine.execSequencerDispatch q s
  | .commandRetire q => Sys2Proof.Machine.execCommandRetire q s
  | .walkerRecordPoll => Sys2Proof.Machine.execWalkerRecordPoll s
  | .walkerRecordTimeout => Sys2Proof.Machine.execWalkerRecordTimeout s
  | .nvmePieceComplete piece ok data => Sys2Proof.Machine.execNvmePieceComplete piece ok data s
  | .nvmePieceTimeout piece => Sys2Proof.Machine.execNvmePieceTimeout piece s
  | .dtvecWrite a => Sys2Proof.Machine.execDtvecWrite a s
  | .dcksumWrite a => Sys2Proof.Machine.execDcksumWrite a s
  | .dinjectWrite a => Sys2Proof.Machine.execDinjectWrite a s
  | .dbankYevClear a => Sys2Proof.Machine.execDbankYevClear a s
  | .dpoolbWrite a n => Sys2Proof.Machine.execDpoolbWrite a n s
  | .dmembWrite a => Sys2Proof.Machine.execDmembWrite a s
  | .schedCsrWrite a n => Sys2Proof.Machine.execSchedCsrWrite a n s
  | .csrWrite a csr => Sys2Proof.Machine.execCsrWrite a csr s
  | .rv64Instruction op => Sys2Proof.Machine.execRv64Instruction op s
  | .load k rd rs1 imm => Sys2Proof.Machine.execLoad k rd rs1 imm s
  | .store k rs2 rs1 imm => Sys2Proof.Machine.execStore k rs2 rs1 imm s
  | .amo op dbl aq rl rd rs1 rs2 => Sys2Proof.Machine.execAmo op dbl aq rl rd rs1 rs2 s
  | .lr dbl aq rl rd rs1 => Sys2Proof.Machine.execLr dbl aq rl rd rs1 s
  | .sc dbl aq rl rd rs1 rs2 => Sys2Proof.Machine.execSc dbl aq rl rd rs1 rs2 s
  | .fence fm pred succ rs1 rd => Sys2Proof.Machine.execFence fm pred succ rs1 rd s
  | .fenceTso rs1 rd => Sys2Proof.Machine.execFenceTso rs1 rd s
  | .fenceI imm rs1 rd => Sys2Proof.Machine.execFenceI imm rs1 rd s
  | .ecall => Sys2Proof.Machine.execEcall s
  | .ebreak => Sys2Proof.Machine.execEbreak s
  | .hstart rs2 rs1 rd => Sys2Proof.Machine.execHstart rs2 rs1 rd s
  | .hjoin rs1 rd => Sys2Proof.Machine.execHjoin rs1 rd s
  | .hexit => Sys2Proof.Machine.execHexit s
  | .hlive rd => Sys2Proof.Machine.execHlive rd s
  | .yield => Sys2Proof.Machine.execYield s
  | .stgend => Sys2Proof.Machine.execStgend s
  | .stgbind => Sys2Proof.Machine.execStgbind s
  | .shswap => Sys2Proof.Machine.execShswap s
  | .barr c rs1 => Sys2Proof.Machine.execBarr c rs1 s
  | .bwait c rd => Sys2Proof.Machine.execBwait c rd s
  | .barw c rs1 rd => Sys2Proof.Machine.execBarw c rs1 rd s
  | .btest c rd => Sys2Proof.Machine.execBtest c rd s
  | .mwaitge rs2 rs1 rd => Sys2Proof.Machine.execMwaitge rs2 rs1 rd s
  | .mwaiteq rs2 rs1 rd => Sys2Proof.Machine.execMwaiteq rs2 rs1 rd s
  | .mwaitne rs2 rs1 rd => Sys2Proof.Machine.execMwaitne rs2 rs1 rd s
  | .phcomm c => Sys2Proof.Machine.execPhcomm c s
  | .phcomp c => Sys2Proof.Machine.execPhcomp c s
  | .fences pred succ sc => Sys2Proof.Machine.execFences pred succ sc s
  | .ldacq z sc rs1 rd => Sys2Proof.Machine.execLdacq z sc rs1 rd s
  | .strel z sc rs2 rs1 => Sys2Proof.Machine.execStrel z sc rs2 rs1 s
  | .drains => Sys2Proof.Machine.execDrains s
  | .cflush sc rs1 => Sys2Proof.Machine.execCflush sc rs1 s
  | .cinv sc rs1 => Sys2Proof.Machine.execCinv sc rs1 s
  | .cpref h rs1 => Sys2Proof.Machine.execCpref h rs1 s
  | .rlq rs2 rs1 rd => Sys2Proof.Machine.execRlq rs2 rs1 rd s
  | .cmdq q rs1 rd => Sys2Proof.Machine.execCmdq q rs1 rd s
  | .cmdqw q rs1 rd => Sys2Proof.Machine.execCmdqw q rs1 rd s
  | .cmdcan q rs1 rd => Sys2Proof.Machine.execCmdcan q rs1 rd s
  | .cmdst q rd => Sys2Proof.Machine.execCmdst q rd s
  | .loopset q l rs1 => Sys2Proof.Machine.execLoopset q l rs1 s
  | .loopget q l rd => Sys2Proof.Machine.execLoopget q l rd s
  | .osend vs rs1 rd => Sys2Proof.Machine.execOsend vs rs1 rd s
  | .osendO vs rs1 rd => Sys2Proof.Machine.execOsendO vs rs1 rd s
  | .osendR vs rs1 rd => Sys2Proof.Machine.execOsendR vs rs1 rd s
  | .osendOr vs rs1 rd => Sys2Proof.Machine.execOsendOr vs rs1 rd s
  | .oready rs2 rs1 rd => Sys2Proof.Machine.execOready rs2 rs1 rd s
  | .ounready rs2 rs1 rd => Sys2Proof.Machine.execOunready rs2 rs1 rd s
  | .otake vd rs1 rd => Sys2Proof.Machine.execOtake vd rs1 rd s
  | .otakeA vd rs1 rd => Sys2Proof.Machine.execOtakeA vd rs1 rd s
  | .opoll vd rs1 rd => Sys2Proof.Machine.execOpoll vd rs1 rd s
  | .ofence rs1 => Sys2Proof.Machine.execOfence rs1 s
  | .msend vs rd => Sys2Proof.Machine.execMsend vs rd s
  | .wtx vs rs1 => Sys2Proof.Machine.execWtx vs rs1 s
  | .wsel rs1 => Sys2Proof.Machine.execWsel rs1 s
  | .wrx vd rs1 => Sys2Proof.Machine.execWrx vd rs1 s
  | .amox op sc rs2 rs1 rd => Sys2Proof.Machine.execAmox op sc rs2 rs1 rd s
  | .idget sel rd => Sys2Proof.Machine.execIdget sel rd s
  | .hret => Sys2Proof.Machine.execHret s
  | .fltpop vd rd => Sys2Proof.Machine.execFltpop vd rd s
  | .fltcnt rd => Sys2Proof.Machine.execFltcnt rd s
  | .gstop c => Sys2Proof.Machine.execGstop c s
  | .vld e rs1 h z vd => Sys2Proof.Machine.execVld e rs1 h z vd s
  | .vst e rs1 h z vs3 => Sys2Proof.Machine.execVst e rs1 h z vs3 s
  | .vlds e rs2 rs1 h z vd => Sys2Proof.Machine.execVlds e rs2 rs1 h z vd s
  | .vsts e rs2 rs1 h z vs3 => Sys2Proof.Machine.execVsts e rs2 rs1 h z vs3 s
  | .vldx e vs2 rs1 z vd => Sys2Proof.Machine.execVldx e vs2 rs1 z vd s
  | .vstx e vs2 rs1 z vs3 => Sys2Proof.Machine.execVstx e vs2 rs1 z vs3 s
  | .vldl e rs1 z vd => Sys2Proof.Machine.execVldl e rs1 z vd s
  | .vstl e rs1 z vs3 => Sys2Proof.Machine.execVstl e rs1 z vs3 s
  | .vldb e rs1 h vd => Sys2Proof.Machine.execVldb e rs1 h vd s
  | .vstm e p rs1 h vs3 => Sys2Proof.Machine.execVstm e p rs1 h vs3 s
  | .vamo e op vs2 rs1 vs3 => Sys2Proof.Machine.execVamo e op vs2 rs1 vs3 s
  | .vpref e rs1 h => Sys2Proof.Machine.execVpref e rs1 h s
  | .vadd t vs2 vs1 pg vd => Sys2Proof.Machine.execVadd t vs2 vs1 pg vd s
  | .vsub t vs2 vs1 pg vd => Sys2Proof.Machine.execVsub t vs2 vs1 pg vd s
  | .vmul t vs2 vs1 pg vd => Sys2Proof.Machine.execVmul t vs2 vs1 pg vd s
  | .vmulh t vs2 vs1 pg vd => Sys2Proof.Machine.execVmulh t vs2 vs1 pg vd s
  | .vmulhn t vs2 vs1 pg vd => Sys2Proof.Machine.execVmulhn t vs2 vs1 pg vd s
  | .vmac t vs2 vs1 pg vd => Sys2Proof.Machine.execVmac t vs2 vs1 pg vd s
  | .vadds t vs2 vs1 pg vd => Sys2Proof.Machine.execVadds t vs2 vs1 pg vd s
  | .vaddsn t vs2 vs1 pg vd => Sys2Proof.Machine.execVaddsn t vs2 vs1 pg vd s
  | .vsubs t vs2 vs1 pg vd => Sys2Proof.Machine.execVsubs t vs2 vs1 pg vd s
  | .vsubsn t vs2 vs1 pg vd => Sys2Proof.Machine.execVsubsn t vs2 vs1 pg vd s
  | .vmin t vs2 vs1 pg vd => Sys2Proof.Machine.execVmin t vs2 vs1 pg vd s
  | .vminn t vs2 vs1 pg vd => Sys2Proof.Machine.execVminn t vs2 vs1 pg vd s
  | .vmax t vs2 vs1 pg vd => Sys2Proof.Machine.execVmax t vs2 vs1 pg vd s
  | .vmaxn t vs2 vs1 pg vd => Sys2Proof.Machine.execVmaxn t vs2 vs1 pg vd s
  | .vand t vs2 vs1 pg vd => Sys2Proof.Machine.execVand t vs2 vs1 pg vd s
  | .vor t vs2 vs1 pg vd => Sys2Proof.Machine.execVor t vs2 vs1 pg vd s
  | .vxor t vs2 vs1 pg vd => Sys2Proof.Machine.execVxor t vs2 vs1 pg vd s
  | .vsll t vs2 vs1 pg vd => Sys2Proof.Machine.execVsll t vs2 vs1 pg vd s
  | .vsrl t vs2 vs1 pg vd => Sys2Proof.Machine.execVsrl t vs2 vs1 pg vd s
  | .vsra t vs2 vs1 pg vd => Sys2Proof.Machine.execVsra t vs2 vs1 pg vd s
  | .vcmp t k vs2 vs1 pg pd => Sys2Proof.Machine.execVcmp t k vs2 vs1 pg pd s
  | .vsel t vs2 vs1 pg vd => Sys2Proof.Machine.execVsel t vs2 vs1 pg vd s
  | .vfadd t vs2 vs1 pg vd => Sys2Proof.Machine.execVfadd t vs2 vs1 pg vd s
  | .vfsub t vs2 vs1 pg vd => Sys2Proof.Machine.execVfsub t vs2 vs1 pg vd s
  | .vfmul t vs2 vs1 pg vd => Sys2Proof.Machine.execVfmul t vs2 vs1 pg vd s
  | .vfma t vs2 vs1 pg vd => Sys2Proof.Machine.execVfma t vs2 vs1 pg vd s
  | .vfms t vs2 vs1 pg vd => Sys2Proof.Machine.execVfms t vs2 vs1 pg vd s
  | .vfnma t vs2 vs1 pg vd => Sys2Proof.Machine.execVfnma t vs2 vs1 pg vd s
  | .vfdiv t vs2 vs1 pg vd => Sys2Proof.Machine.execVfdiv t vs2 vs1 pg vd s
  | .vfsqrt t vs1 pg vd => Sys2Proof.Machine.execVfsqrt t vs1 pg vd s
  | .vfmin t vs2 vs1 pg vd => Sys2Proof.Machine.execVfmin t vs2 vs1 pg vd s
  | .vfmax t vs2 vs1 pg vd => Sys2Proof.Machine.execVfmax t vs2 vs1 pg vd s
  | .vfcmp t k vs2 vs1 pg pd => Sys2Proof.Machine.execVfcmp t k vs2 vs1 pg pd s
  | .vfsgn t vs2 vs1 pg vd => Sys2Proof.Machine.execVfsgn t vs2 vs1 pg vd s
  | .vfclass t vs1 pg vd => Sys2Proof.Machine.execVfclass t vs1 pg vd s
  | .vcvtf dst src sat vs1 pg vd => Sys2Proof.Machine.execVcvtf dst src sat vs1 pg vd s
  | .vcvti dst src sat vs1 pg vd => Sys2Proof.Machine.execVcvti dst src sat vs1 pg vd s
  | .vcvtx dst src sat vs1 pg vd => Sys2Proof.Machine.execVcvtx dst src sat vs1 pg vd s
  | .vred t op vs1 pg vd => Sys2Proof.Machine.execVred t op vs1 pg vd s
  | .vfred t op vs1 pg vd => Sys2Proof.Machine.execVfred t op vs1 pg vd s
  | .vscan t op vs1 pg vd => Sys2Proof.Machine.execVscan t op vs1 pg vd s
  | .vfscan t op vs1 pg vd => Sys2Proof.Machine.execVfscan t op vs1 pg vd s
  | .vperm t vs2 vs1 pg vd => Sys2Proof.Machine.execVperm t vs2 vs1 pg vd s
  | .vslideup t rs2 vs1 pg vd => Sys2Proof.Machine.execVslideup t rs2 vs1 pg vd s
  | .vslidedn t rs2 vs1 pg vd => Sys2Proof.Machine.execVslidedn t rs2 vs1 pg vd s
  | .vrotl t vs2 vs1 pg vd => Sys2Proof.Machine.execVrotl t vs2 vs1 pg vd s
  | .vzip t vs2 vs1 pg vd => Sys2Proof.Machine.execVzip t vs2 vs1 pg vd s
  | .vunzip t vs2 vs1 pg vd => Sys2Proof.Machine.execVunzip t vs2 vs1 pg vd s
  | .vbcast t rs1 pg vd => Sys2Proof.Machine.execVbcast t rs1 pg vd s
  | .vext t rs2 vs1 pg rd => Sys2Proof.Machine.execVext t rs2 vs1 pg rd s
  | .vins t rs2 rs1 pg vd => Sys2Proof.Machine.execVins t rs2 rs1 pg vd s
  | .vcmul t vs2 vs1 pg vd => Sys2Proof.Machine.execVcmul t vs2 vs1 pg vd s
  | .plogic t op pb pa pg pd => Sys2Proof.Machine.execPlogic t op pb pa pg pd s
  | .ppopc t pa pg rd => Sys2Proof.Machine.execPpopc t pa pg rd s
  | .pfirst t pa pg rd => Sys2Proof.Machine.execPfirst t pa pg rd s
  | .psetn t rs1 pg pd => Sys2Proof.Machine.execPsetn t rs1 pg pd s
  | .vid t pg vd => Sys2Proof.Machine.execVid t pg vd s
  | .vpopc t vs1 pg vd => Sys2Proof.Machine.execVpopc t vs1 pg vd s
  | .vclz t vs1 pg vd => Sys2Proof.Machine.execVclz t vs1 pg vd s
  | .vdotp fs3 vs2 vs1 p vd => Sys2Proof.Machine.execVdotp fs3 vs2 vs1 p vd s
  | .vmulp fs3 vs2 vs1 p vd => Sys2Proof.Machine.execVmulp fs3 vs2 vs1 p vd s
  | .vqnt fs3 vs1 p vd => Sys2Proof.Machine.execVqnt fs3 vs1 p vd s
  | .vdqnt fs3 vs1 p vd => Sys2Proof.Machine.execVdqnt fs3 vs1 p vd s
  | .mzero bank seq => Sys2Proof.Machine.execMzero bank seq s
  | .mma bank seq => Sys2Proof.Machine.execMma bank seq s
  | .mmas bank seq => Sys2Proof.Machine.execMmas bank seq s
  | .mlda bank seq => Sys2Proof.Machine.execMlda bank seq s
  | .msta bank seq => Sys2Proof.Machine.execMsta bank seq s
  | .mtrn bank seq => Sys2Proof.Machine.execMtrn bank seq s
  | .cpy bank seq => Sys2Proof.Machine.execCpy bank seq s
  | .cpyGrain bank seq => Sys2Proof.Machine.execCpyGrain bank seq s
  | .cpys bank seq => Sys2Proof.Machine.execCpys bank seq s
  | .cpyk bank seq => Sys2Proof.Machine.execCpyk bank seq s
  | .cfill bank seq => Sys2Proof.Machine.execCfill bank seq s
  | .gath bank seq => Sys2Proof.Machine.execGath bank seq s
  | .scat bank seq => Sys2Proof.Machine.execScat bank seq s
  | .srd bank seq => Sys2Proof.Machine.execSrd bank seq s
  | .swr bank seq => Sys2Proof.Machine.execSwr bank seq s
  | .nrd bank seq => Sys2Proof.Machine.execNrd bank seq s
  | .nwr bank seq => Sys2Proof.Machine.execNwr bank seq s
  | .cdec bank seq => Sys2Proof.Machine.execCdec bank seq s
  | .ccnt bank seq => Sys2Proof.Machine.execCcnt bank seq s
  | .geval bank seq => Sys2Proof.Machine.execGeval bank seq s
  | .gfetch bank seq => Sys2Proof.Machine.execGfetch bank seq s
  | .gpref bank seq => Sys2Proof.Machine.execGpref bank seq s
  | .gexp bank seq => Sys2Proof.Machine.execGexp bank seq s
  | .gmv bank seq => Sys2Proof.Machine.execGmv bank seq s
  | .gvm bank seq => Sys2Proof.Machine.execGvm bank seq s
  | .grot bank seq => Sys2Proof.Machine.execGrot bank seq s
  | .gcon bank seq => Sys2Proof.Machine.execGcon bank seq s
  | .qnop bank seq => Sys2Proof.Machine.execQnop bank seq s
  | .qstamp bank seq => Sys2Proof.Machine.execQstamp bank seq s
  | .qarr bank seq => Sys2Proof.Machine.execQarr bank seq s
  | .qwait bank seq => Sys2Proof.Machine.execQwait bank seq s
  | .qsig bank seq => Sys2Proof.Machine.execQsig bank seq s
  | .illegalInstruction bits => Sys2Proof.Machine.execIllegalInstruction bits s
  | .instructionFetchFault cause => Sys2Proof.Machine.execInstructionFetchFault cause s
  | .engineChainEvent q bank seq ev => Sys2Proof.Machine.execEngineChainEvent q bank seq ev s
  | .timedSlotStart bank ctx => Sys2Proof.Machine.execTimedSlotStart bank ctx s
  | .deviceReset img half dead => Sys2Proof.Machine.execDeviceReset img half dead s
  | .hostLinksTrained mmode walker => Sys2Proof.Machine.execHostLinksTrained mmode walker s
  | .dramTrainingDone die ok => Sys2Proof.Machine.execDramTrainingDone die ok s
  | .thermalSample die hot layers => Sys2Proof.Machine.execThermalSample die hot layers s
  | .channelRetirement twig => Sys2Proof.Machine.execChannelRetirement twig s
  | .eccFatalError place => Sys2Proof.Machine.execEccFatalError place s
  | .rtailDoorbell port ring tail => Sys2Proof.Machine.execRtailDoorbell port ring tail s
  | .rerrClear port ring val => Sys2Proof.Machine.execRerrClear port ring val s
  | .hostRegisterWrite port off val => Sys2Proof.Machine.execHostRegisterWrite port off val s
  | .windowWrite port off data => Sys2Proof.Machine.execWindowWrite port off data s
  | .windowRead port off len => Sys2Proof.Machine.execWindowRead port off len s
  | .mailboxPartitionCreate part groves scratch => Sys2Proof.Machine.execMailboxPartitionCreate part groves scratch s
  | .mailboxRingBind port ring asid part root => Sys2Proof.Machine.execMailboxRingBind port ring asid part root s
  | .mailboxWindowBase port base => Sys2Proof.Machine.execMailboxWindowBase port base s
  | .mailboxImageLoad asid handle img => Sys2Proof.Machine.execMailboxImageLoad asid handle img s
  | .mailboxFirmwareUpdate kind img => Sys2Proof.Machine.execMailboxFirmwareUpdate kind img s
  | .rollbackCounterRaise kind val => Sys2Proof.Machine.execRollbackCounterRaise kind val s
  | .attestationRequest port nonce => Sys2Proof.Machine.execAttestationRequest port nonce s
  | .extentTableFill asid exts => Sys2Proof.Machine.execExtentTableFill asid exts s
  | .peerTableOpen conn o => Sys2Proof.Machine.execPeerTableOpen conn o s
  | .connectionClose conn => Sys2Proof.Machine.execConnectionClose conn s
  | .killProcess asid => Sys2Proof.Machine.execKillProcess asid s
  | .checkpointRequest asid => Sys2Proof.Machine.execCheckpointRequest asid s
  | .checkpointRestore pa data => Sys2Proof.Machine.execCheckpointRestore pa data s
  | .checkpointTimeout launch => Sys2Proof.Machine.execCheckpointTimeout launch s
  | .resumeLaunch launch => Sys2Proof.Machine.execResumeLaunch launch s
  | .rclkTargetWrite grove mhz => Sys2Proof.Machine.execRclkTargetWrite grove mhz s
  | .rclkJoin grove grp => Sys2Proof.Machine.execRclkJoin grove grp s
  | .rclkLeave grove => Sys2Proof.Machine.execRclkLeave grove s
  | .peerWrite conn pkt => Sys2Proof.Machine.execPeerWrite conn pkt s
  | .peerReadreq conn pkt => Sys2Proof.Machine.execPeerReadreq conn pkt s
  | .peerReadresp conn pkt => Sys2Proof.Machine.execPeerReadresp conn pkt s
  | .peerAck conn pkt => Sys2Proof.Machine.execPeerAck conn pkt s
  | .peerNak conn pkt => Sys2Proof.Machine.execPeerNak conn pkt s
  | .peerClose conn pkt => Sys2Proof.Machine.execPeerClose conn pkt s
  | .peerRetryTimeout conn => Sys2Proof.Machine.execPeerRetryTimeout conn s
  | .descriptorSlotWrite port ring slot desc => Sys2Proof.Machine.execDescriptorSlotWrite port ring slot desc s
  | .coreClockTargetWrite die mhz => Sys2Proof.Machine.execCoreClockTargetWrite die mhz s
  | .powerLoss => Sys2Proof.Machine.execPowerLoss s

end Sys2Proof.Machine
end

