-- ==== Sys2Proof/Machine/Fetch.lean ====
section
/-! DEFINITION. Fetching an instruction (R98, R143, R246), what a core issues next, and the word that a fetch finds. -/

namespace Sys2Proof.Machine

/-- The four bytes at the pc, as the core sees them (log 10), or the cause of the fetch's failure (R245, R246). -/
def fetchBytes (s : State) : Except (BitVec 8) (List Byte) :=
  match resolve s s.core.cx.pc 4 .exec with
  | .error c => .error c
  | .ok p =>
    let cached := p.loc == .dram && p.ty == .cached
    if cached && l1Poison s p.key then .error 1
    else if cached && l1Hit s p.key 4 then .ok (l1Bytes s p.key 4)
    else if poisoned s p.key 4 then .error 1
    else .ok (if cached then underDirty s p.key 4 fun i => memGet s.mem (p.key + i) else memRead s.mem p.key 4)

/-- The instruction at the pc, or what its fetch or its decoding raises (R246, R301). -/
def fetched (s : State) : Instr :=
  match fetchBytes s with
  | .error c => .instructionFetchFault c
  | .ok bs =>
    match decode bs with
    | .ok (i, _) => i
    | .error _ => .illegalInstruction (BitVec.ofNat 32 (natOfBytes bs))

/-- What a fetch waits for: a page-table walk (R144), or a write of the core to the line that has left its L1 and is not yet
performed (R211). -/
def fetchWait (s : State) : Option (Wait × State) :=
  let pc := s.core.cx.pc
  if tlbMiss s pc .exec then
    match s.core.cx.ans, resolve s pc 4 .exec with
    | some _, .error _ => none
    | _, _ => some (.walk pc, enterWalk pc s)
  else match resolve s pc 4 .exec with
    | .error _ => none
    | .ok p => if p.loc == .dram && behind s (lineOf p.key) then some (.stores, s) else none

/-- Whether the core's active bank may issue: neither stopped nor cut, no swap under way (R98, R102). -/
def bankRuns (c : Core) : Bool := !c.bank.stopped && !c.bank.dead && c.swap.isNone

/-- Whether the current context issues: live and ready, selected since the last switch event (R98), and not due to stop (R256). -/
def canIssue (s : State) : Bool := s.core.cx.st == .ready && !s.core.bank.seek && bankRuns s.core && !haltDue s

/-- One core cycle of issue (log 15). -/
def tick (s : State) : State :=
  modCore (fun c => { c with cycles := c.cycles + 1, bank := { c.bank with used := c.bank.used + 1 } }) s

/-- A cycle without issue: some ready context is selected, unless the current one keeps the issue slot (R98, R304). -/
def idle (s : State) : State :=
  let s := modCore (fun c => { c with cycles := c.cycles + 1 }) s
  if !bankRuns s.core then s
  else if s.core.bank.seek then seekCtx s
  else match s.core.cx.st with
    | .waiting _ | .ready => s
    | .free => switchEvent s

/-- What the core does in its turn: the end of a quantum (R98, R103), the selection of a context that has become ready (R98), a due
0x23 (R250), an instruction, or nothing. -/
def issue (s : State) : State × Option Instr :=
  if mwaitOver s.core then (s, some .quantumExpiry)
  else if !canIssue s then (idle s, none)
  else if s.core.cx.must23 && may23 s.core.cx && s.core.priv != .m then (s, some .asyncStoreFaultTrap)
  else if s.core.bank.used ≥ s.core.bank.dquantum.toNat then (s, some .quantumExpiry)
  else match fetchWait s with
    | some (w, t) => (waitFor w (tick t), none)
    | none => (tick s, some (fetched s))

/-- The bytes of an instruction of `nbits` bits numbered as the opcode table numbers them, bits above being zero. -/
def wordBytes (nbits w : Nat) : List Byte := bytesOfNat 4 (w % 2 ^ nbits)

/-- A state whose next step fetches and runs the given instruction: its bytes at the start of the core's own
scratchpad, the current context ready there, and the turn given to the core (log 5). -/
def placeWord (nbits w : Nat) (s : State) : State :=
  let off := s.core.dpoolb1
  let key := poolKey s.core.num off
  let bank := { s.core.bank with stopped := false, dead := false, used := 0, seek := false, dquantum := if s.core.bank.dquantum = 0 then 4096 else s.core.bank.dquantum }
  let cx := { s.core.cx with st := .ready, must23 := false, ans := none, got := [], pc := BitVec.ofNat 64 (0xFFFFFF0000000000 + off) }
  { s with
    mem := memWrite s.mem key (wordBytes nbits w)
    poison := s.poison.filter fun l => l != lineOf key && l != lineOf (key + 3)
    pkg := { s.pkg with power := true }
    core := { s.core with bank := bank, cx := cx, swap := none, mwsw := false }
    agenda := { core := s.core.num, cycles := 0, ticks := 0, nets := 0, ev := none, pick := 0 } :: s.agenda }

end Sys2Proof.Machine
end

