-- ==== Sys2Proof/Machine/Schedule.lean ====
section
/-! DEFINITION. Which agent moves next (log 1, log 14): the agenda names it; with an empty agenda the default order does, which
lets each event that needs nothing from outside happen as soon as it can, and gives the cores the turn one after another. -/

namespace Sys2Proof.Machine

/-! ### The default order (log 14) -/

/-- The instruction or command that an engine carries out for a dispatched entry (R122). -/
def workOf (q : Queue) (e : Entry) : Option Instr :=
  let b := e.bank
  let n := e.seq
  match q, e.cmd.opc.toNat with
  | _, 0xC0 => some (.qnop b n) | _, 0xC1 => some (.qstamp b n) | _, 0xC2 => some (.qarr b n) | _, 0xC4 => some (.qsig b n)
  | .mq, 0 => some (.mzero b n) | .mq, 1 => some (.mma b n) | .mq, 2 => some (.mmas b n)
  | .mq, 3 => some (.mlda b n) | .mq, 4 => some (.msta b n) | .mq, 5 => some (.mtrn b n)
  | .cq, 0x40 => some (if e.cmd.fmtA = 0x06 then .cpyGrain b n else .cpy b n)
  | .cq, 0x41 => some (.cpys b n) | .cq, 0x42 => some (.cpyk b n) | .cq, 0x43 => some (.cfill b n)
  | .cq, 0x44 => some (.gath b n) | .cq, 0x45 => some (.scat b n) | .cq, 0x46 => some (.srd b n) | .cq, 0x47 => some (.swr b n)
  | .cq, 0x48 => some (.nrd b n) | .cq, 0x49 => some (.nwr b n) | .cq, 0x4A => some (.cdec b n) | .cq, 0x4B => some (.ccnt b n)
  | .gq, 0x80 => some (.geval b n) | .gq, 0x81 => some (.gfetch b n) | .gq, 0x82 => some (.gpref b n) | .gq, 0x83 => some (.gexp b n)
  | .gq, 0x84 => some (.gmv b n) | .gq, 0x85 => some (.gvm b n) | .gq, 0x86 => some (.grot b n) | .gq, 0x87 => some (.gcon b n)
  | _, _ => none

/-- What a queue may do next: retire a command, dispatch one, carry one out, or make the read of a QWAIT. -/
def queueEvents (c : Core) (q : Queue) : List Instr :=
  let wait := fun (e : Entry) => if e.cmd.opc = 0xC3 then [Instr.qwait e.bank e.seq] else []
  let chain := fun (e : Entry) => if e.dispatched then [Instr.engineChainEvent q e.bank e.seq 1, .engineChainEvent q e.bank e.seq 2,
    .engineChainEvent q e.bank e.seq 3] else []
  (c.queue q).flatMap chain ++ [.commandRetire q, .sequencerDispatch q]
    ++ (c.queue q).filterMap (fun e => if e.st = .flight && e.recWait.isNone then workOf q e else none)
    ++ ((seqHead c q).map wait).getD []

/-- What a context of the core may see next: data that returns, a monitor that has fired, a late store that ends. -/
def ctxEvents (b : Bool) (x : Ctx) : List Instr :=
  (match x.st with
    | .waiting .remote | .waiting .host => [Instr.remoteDataReturn b x.id 0 []]
    | .waiting (.slot _ _) => [.timedSlotStart b x.id]
    | _ => [])
  ++ [.monitorWake b x.id] ++ (if x.late.isEmpty then [] else [.storeFaultRecord b x.id 0])

/-- Events of the core whose turn it is. -/
def coreEvents (s : State) : List Instr :=
  let c := s.core
  [.fillComplete, .swapComplete, .spillComplete, .haltWire]
    ++ (c.ctxsOf false).flatMap (ctxEvents false) ++ (c.ctxsOf true).flatMap (ctxEvents true)
    ++ queueEvents c .mq ++ queueEvents c .cq ++ queueEvents c .gq
    ++ [.walkerRecordPoll, .walkerRecordTimeout]
    ++ [.pageWalkComplete, .l1Fill, .writebackMerge, .flushRequest, .beatArrive, .offerDeliver, .offerReceipt, .msendCopyDeliver]
    ++ ((List.range 8).map fun k => .barrierReleaseArrive (BitVec.ofNat 3 k))
    ++ [.shadowSwap, .yieldEvent, .asyncStoreFaultTrap]

/-- Events of the fabric and of the memory system. -/
def fabricEvents (s : State) : List Instr :=
  (s.fab.updates.map fun u => .readinessUpdate u.node)
    ++ ((s.fab.nodes.filter fun n => !n.inq.isEmpty).map fun n => .offerSteer n.id)
    ++ (s.fab.net.map fun p => .packetArrival p.cls p.src p.dst)
    ++ ((s.fab.groups.filter fun g => !g.waiting.isEmpty).map fun g => .offerReturn g.num)
    ++ (s.fab.resend.flatMap fun r => [.orderedSendRelease r.twig, .releasingSendRelease r.twig, .resendTimer r.twig])
    ++ (s.fab.rclk.flatMap fun g => [.governorChange g.1, .relockEnd g.1])
    ++ (s.fab.groups.map fun g => .groupRecordUpdate g.num)
    ++ (s.fab.doms.map fun d => .barrierTopRelease d.id)
    ++ (s.ms.heldW.flatMap fun h => h.wait.map fun d => .replicaInvalidateAck h.line d)
    ++ (s.ms.slices.flatMap fun x => (x.flushes.map fun f => .flushAck x.num f.line) ++ [.sliceAccess x.num, .sliceFill x.num])

/-- Events of the root kernel that need no choice of firmware. -/
def kernelEvents (s : State) : List Instr :=
  (s.root.launches.flatMap fun l => [.launchGatePass l.id, .stageStart l.id, .launchHalt l.id, .launchEnd l.id])
    ++ (s.io.rings.flatMap fun r => [.descriptorCopy (portOf r.key) (r.key % 32), .admission (portOf r.key) ⟨r.key % 32, ⟨0, 0, []⟩⟩])
    ++ (s.root.ckpt.toList.map fun k => .checkpointRequest k.ask)

/-- Whether an event changes the state. -/
def moves (s : State) (i : Instr) : Bool :=
  match commit s (exec i s) with
  | .next t => t != s
  | _ => false

/-- The event that the default order lets happen next; none, so that a core issues. -/
def nextEvent (s : State) : Option Instr := (coreEvents s ++ fabricEvents s ++ kernelEvents s).find? (moves s)

/-- The core that has the turn after the current one: the next in number that something has touched. -/
def nextCore (s : State) : Nat :=
  match s.cores.find? fun c => s.core.num < c.num with
  | some c => c.num
  | none => ((s.cores.head?).map fun c => min c.num s.core.num).getD s.core.num

/-! ### The agenda (log 1) -/

/-- Whether an agenda may name it: an event of an agent or a command that an engine carries out, not an instruction
that a core must fetch (R98, R301). -/
def isEvent (i : Instr) : Bool :=
  (encode i).isNone && match i with
    | .illegalInstruction _ | .instructionFetchFault _ => false
    | _ => true

/-- Time passes, and the core named has the turn (log 1). -/
def pass (t : Turn) (s : State) : State :=
  let s := { s with pkg := { s.pkg with time := s.pkg.time + t.ticks, nclk := s.pkg.nclk + t.nets }, pick := t.pick }
  modCore (fun c => { c with cycles := c.cycles + t.cycles }) (if t.core < Config.cores then turnTo t.core s else s)

/-- The turn of the default order: a network cycle, and a tick of the time base in ten core cycles. -/
def defaultTurn (s : State) : Turn :=
  let n := nextCore s
  ⟨n, 0, if (getCore s n).cycles % 10 = 9 then 1 else 0, 1, none, 0⟩

/-- Whether the agenda's next event is a reset, with which the device is powered again (R18). -/
def powersUp (s : State) : Bool :=
  match s.agenda with
  | [] => false
  | t :: _ =>
    match t.ev with
    | some (.deviceReset _ _ _) => true
    | _ => false

/-- The state in which the next event or instruction acts, and what acts. -/
def turn (s : State) : State × Option Instr :=
  match s.agenda with
  | [] =>
    match nextEvent s with
    | some i => (s, some i)
    | none => issue (pass (defaultTurn s) s)
  | t :: rest =>
    let s := pass t { s with agenda := rest }
    match t.ev with
    | some i => if isEvent i then (s, some i) else issue s
    | none => issue s

end Sys2Proof.Machine
end

