-- ==== Sys2Proof/Machine/Step.lean ====
section
/-! DEFINITION. One step of the device, and placing an instruction where the next step fetches. -/

namespace Sys2Proof.Machine

/-- One step: an event of an agent, an instruction of a core, or a cycle in which a core does not issue (log 1). An
unpowered device does nothing but come up again (R18). -/
def step (s : State) : Host.Outcome State Fault Refusal :=
  if s.pkg.power || powersUp s then
    match turn s with
    | (t, some i) => commit t (exec i t)
    | (t, none) => .next t
  else .fault .unpowered

/-- The state with an instruction stored where `step` fetches next (log 5). -/
def State.withFetchWord (s : State) (nbits w : Nat) : State := placeWord nbits w s

end Sys2Proof.Machine
end

