-- ==== Sys2Proof/Safety.lean ====
section
/-! DEFINITION. What counts as a safe run. -/

namespace Sys2Proof.Machine

/-- The states that steps lead to from a state. -/
inductive Reachable (s : State) : State → Prop
  | refl : Reachable s s
  | step {t u : State} : Reachable s t → step t = .next u → Reachable s u

/-- A run from a state is safe while every state that it reaches makes a step: the device is never unpowered (R18). -/
def Safe (s : State) : Prop := ∀ t, Reachable s t → ∃ u, step t = .next u

end Sys2Proof.Machine
end

