-- ==== Sys2Proof/Certificates/Slice0/Obligations.lean ====
section
/-! DEFINITION. The statements for the provers: what the numbered rules of the spec say that the machine does. -/

section
open Sys2Proof Sys2Proof.Machine

/-! ### What the statements say of two states -/

namespace Sys2Proof.Say


/-- Every byte of memory reads as before. -/
def SameMem (s t : State) : Prop := ∀ a, memGet t.mem a = memGet s.mem a

/-- Memory is `m`; below S3 with no block listed exactly, and else but for the bark metadata, which follows the lines that a slice takes
and gives up (R155, R157, R158). -/
def Wrote (m : List Host.Cell) (s t : State) : Prop :=
  (s.pkg.sl ≠ 3 → s.ms.poisonList = [] → t.mem = m)
    ∧ (Memory.wf s.mem = true → ∀ a, (∀ b, a ≠ metaKey b ∧ a ≠ metaKey b + 1) → memGet t.mem a = memGet m a)

/-- No byte of the bark metadata, which at S3 follows the lines that a slice takes and gives up (R20, R155). -/
def plain (s : State) (a : Nat) : Prop := s.pkg.sl = 3 → ∀ b, a ≠ metaKey b ∧ a ≠ metaKey b + 1

/-- A context without what the model keeps of the requests that it awaits (log 6). -/
def bare (x : Ctx) : Ctx := { x with asks := 0, got := [] }

/-- Every byte of memory outside `n` bytes at `k` reads as before. -/
def MemOnly (k n : Nat) (s t : State) : Prop := ∀ a, (a < k ∨ k + n ≤ a) → memGet t.mem a = memGet s.mem a

/-- The same, but for the bark metadata. -/
def LandsIn (k n : Nat) (s t : State) : Prop := ∀ a, plain s a → (a < k ∨ k + n ≤ a) → memGet t.mem a = memGet s.mem a

/-- The instruction has retired and changed at most the x register `rd`: the pc has moved past it. -/
def OnlyX (rd : RegNo) (s t : State) : Prop :=
  t = adv (modCx (fun c => { c with x := t.core.cx.x }) s) ∧ (∀ r, r ≠ rd → readX t r = readX s r) ∧ SameMem s t

/-- The instruction has retired, changed at most the x register `rd`, and given it `v` (nothing when it is x0). -/
def SetsX (rd : RegNo) (v : Word) (s t : State) : Prop := OnlyX rd s t ∧ readX t rd = if rd = 0 then 0 else v

/-- The instruction has retired and changed at most the v register `vd`. -/
def OnlyV (vd : RegNo) (s t : State) : Prop :=
  t = adv (modCx (fun c => { c with v := t.core.cx.v }) s) ∧ (∀ r, r ≠ vd → readV t r = readV s r) ∧ SameMem s t

/-- The instruction has retired and changed at most the v register `vd` and the flags of fcsr, of which it clears none. -/
def OnlyVF (vd : RegNo) (s t : State) : Prop :=
  t = adv (modCx (fun c => { c with v := t.core.cx.v, fflags := t.core.cx.fflags }) s) ∧ (∀ r, r ≠ vd → readV t r = readV s r)
    ∧ t.core.cx.fflags &&& s.core.cx.fflags = s.core.cx.fflags ∧ SameMem s t

/-- The instruction has retired and changed at most the predicate `pd`. -/
def OnlyP (pd : PredNo) (s t : State) : Prop :=
  t = adv (modCx (fun c => { c with p := t.core.cx.p }) s) ∧ (∀ r, r ≠ pd → readP t r = readP s r) ∧ SameMem s t

/-- The instruction has retired and changed at most the predicate `pd` and the flags of fcsr, of which it clears none. -/
def OnlyPF (pd : PredNo) (s t : State) : Prop :=
  t = adv (modCx (fun c => { c with p := t.core.cx.p, fflags := t.core.cx.fflags }) s) ∧ (∀ r, r ≠ pd → readP t r = readP s r)
    ∧ t.core.cx.fflags &&& s.core.cx.fflags = s.core.cx.fflags ∧ SameMem s t

/-- Element `i` of `n` bits of a vector register (R119). -/
def lane (n : Nat) (v : VReg) (i : Nat) : BitVec n := v.extractLsb' (n * i) n

/-- Element `i` of `w` bytes is active: bit `w * i` of the governing predicate (R344). -/
def on (s : State) (pg : PredNo) (w i : Nat) : Bool := (governing s pg).getLsbD (w * i)

/-- Bytes of a vector element (R291). -/
def wide : VTy → Nat
  | .i8 => 1 | .i16 => 2 | .i32 => 4 | .i64 => 8

/-- An instruction that writes `f` into the active elements of vd and leaves the others. -/
def Elementwise (i : Instr) (w : Nat) (pg : PredNo) (vd : RegNo) (f : State → Nat → BitVec (8 * w)) : Prop :=
  ∀ s, ∃ t, exec i s = .next t ∧ OnlyV vd s t ∧
    ∀ j, j < 128 / w → lane (8 * w) (readV t vd) j = if on s pg w j then f s j else lane (8 * w) (readV s vd) j

/-- An instruction that writes `f a b d` into the active elements of vd, where a, b and d are the elements of vs1, vs2 and vd (R345). -/
def Lanewise (i : Instr) (ty : VTy) (vs2 vs1 : RegNo) (pg : PredNo) (vd : RegNo)
    (f : (n : Nat) → BitVec n → BitVec n → BitVec n → BitVec n) : Prop :=
  Elementwise i (wide ty) pg vd fun s j =>
    f (8 * wide ty) (lane (8 * wide ty) (readV s vs1) j) (lane (8 * wide ty) (readV s vs2) j) (lane (8 * wide ty) (readV s vd) j)

/-- The nearest signed value of `n` bits. -/
def nearest (n : Nat) (i : Int) : BitVec n := BitVec.ofInt n (max (-(2 ^ (n - 1) : Int)) (min (2 ^ (n - 1) - 1) i))

end Sys2Proof.Say
/-! ### Integer vector instructions (chapter 15) -/

/-- VADD to VROTL, VPOPC and VCLZ write into every active element of vd what the table of R356 gives, on W-bit elements a of vs1, b
of vs2 and d of vd; the other elements, the other registers and memory stay, and the instruction retires. -/
def Obligations.VectorIntegerLanes : Prop :=
  ∀ (ty : VTy) (vs2 vs1 : RegNo) (pg : PredNo) (vd : RegNo),
    Say.Lanewise (.vadd ty vs2 vs1 pg vd) ty vs2 vs1 pg vd (fun _ a b _ => a + b)
    ∧ Say.Lanewise (.vsub ty vs2 vs1 pg vd) ty vs2 vs1 pg vd (fun _ a b _ => a - b)
    ∧ Say.Lanewise (.vmul ty vs2 vs1 pg vd) ty vs2 vs1 pg vd (fun _ a b _ => a * b)
    ∧ Say.Lanewise (.vmulh ty vs2 vs1 pg vd) ty vs2 vs1 pg vd
        (fun n a b _ => (a.signExtend (2 * n) * b.signExtend (2 * n)).extractLsb' n n)
    ∧ Say.Lanewise (.vmulhn ty vs2 vs1 pg vd) ty vs2 vs1 pg vd
        (fun n a b _ => (a.zeroExtend (2 * n) * b.zeroExtend (2 * n)).extractLsb' n n)
    ∧ Say.Lanewise (.vmac ty vs2 vs1 pg vd) ty vs2 vs1 pg vd (fun _ a b d => d + a * b)
    ∧ Say.Lanewise (.vadds ty vs2 vs1 pg vd) ty vs2 vs1 pg vd (fun n a b _ => Say.nearest n (a.toInt + b.toInt))
    ∧ Say.Lanewise (.vsubs ty vs2 vs1 pg vd) ty vs2 vs1 pg vd (fun n a b _ => Say.nearest n (a.toInt - b.toInt))
    ∧ Say.Lanewise (.vaddsn ty vs2 vs1 pg vd) ty vs2 vs1 pg vd (fun n a b _ => if a + b < a then BitVec.allOnes n else a + b)
    ∧ Say.Lanewise (.vsubsn ty vs2 vs1 pg vd) ty vs2 vs1 pg vd (fun _ a b _ => if a < b then 0 else a - b)
    ∧ Say.Lanewise (.vmin ty vs2 vs1 pg vd) ty vs2 vs1 pg vd (fun _ a b _ => if a.sle b then a else b)
    ∧ Say.Lanewise (.vmax ty vs2 vs1 pg vd) ty vs2 vs1 pg vd (fun _ a b _ => if a.sle b then b else a)
    ∧ Say.Lanewise (.vminn ty vs2 vs1 pg vd) ty vs2 vs1 pg vd (fun _ a b _ => if a ≤ b then a else b)
    ∧ Say.Lanewise (.vmaxn ty vs2 vs1 pg vd) ty vs2 vs1 pg vd (fun _ a b _ => if a ≤ b then b else a)
    ∧ Say.Lanewise (.vand ty vs2 vs1 pg vd) ty vs2 vs1 pg vd (fun _ a b _ => a &&& b)
    ∧ Say.Lanewise (.vor ty vs2 vs1 pg vd) ty vs2 vs1 pg vd (fun _ a b _ => a ||| b)
    ∧ Say.Lanewise (.vxor ty vs2 vs1 pg vd) ty vs2 vs1 pg vd (fun _ a b _ => a ^^^ b)
    ∧ Say.Lanewise (.vsll ty vs2 vs1 pg vd) ty vs2 vs1 pg vd (fun n a b _ => a <<< (b.toNat % n))
    ∧ Say.Lanewise (.vsrl ty vs2 vs1 pg vd) ty vs2 vs1 pg vd (fun n a b _ => a >>> (b.toNat % n))
    ∧ Say.Lanewise (.vsra ty vs2 vs1 pg vd) ty vs2 vs1 pg vd (fun n a b _ => a.sshiftRight (b.toNat % n))
    ∧ Say.Lanewise (.vrotl ty vs2 vs1 pg vd) ty vs2 vs1 pg vd (fun n a b _ => a.rotateLeft (b.toNat % n))
    ∧ Say.Lanewise (.vpopc ty vs1 pg vd) ty vs2 vs1 pg vd
        (fun n a _ _ => BitVec.ofNat n ((List.range n).countP fun i => a.getLsbD i))
    ∧ Say.Lanewise (.vclz ty vs1 pg vd) ty vs2 vs1 pg vd (fun _ a _ _ => a.clz)

/-- What VRED's and VSCAN's operations make of two elements (R293, R363). -/
def Sys2Proof.Say.redOf (op : RedOp) {n : Nat} (a b : BitVec n) : BitVec n :=
  match op with
  | .add => a + b
  | .min => if a.sle b then a else b
  | .max => if a.sle b then b else a
  | .minn => if a ≤ b then a else b
  | .maxn => if a ≤ b then b else a
  | .and => a &&& b
  | .or => a ||| b
  | .xor => a ^^^ b

/-- The active elements of vs1 below `k`, lowest first. -/
def Sys2Proof.Say.actives (s : State) (w : Nat) (pg : PredNo) (vs1 : RegNo) (k : Nat) : List (BitVec (8 * w)) :=
  ((List.range k).filter (Say.on s pg w)).map (Say.lane (8 * w) (readV s vs1))

/-- VRED: element 0 of vd becomes the combination of its old value with every active element of vs1, and no other element changes;
with no active element vd stays. VSCAN: an active element of vd becomes the combination of the active elements of vs1 up to its own,
and an inactive one stays. -/
def Sys2Proof.Say.VectorIntegerReduceAndScan : Prop :=
  ∀ (ty : VTy) (op : RedOp) (vs1 : RegNo) (pg : PredNo) (vd : RegNo) (s : State),
    (∃ t, exec (.vred ty op vs1 pg vd) s = .next t ∧ Say.OnlyV vd s t
      ∧ Say.lane (8 * Say.wide ty) (readV t vd) 0
          = (Say.actives s (Say.wide ty) pg vs1 (128 / Say.wide ty)).foldl (Say.redOf op)
              (Say.lane (8 * Say.wide ty) (readV s vd) 0)
      ∧ ∀ j, 0 < j → j < 128 / Say.wide ty →
          Say.lane (8 * Say.wide ty) (readV t vd) j = Say.lane (8 * Say.wide ty) (readV s vd) j)
    ∧ (∃ t, exec (.vscan ty op vs1 pg vd) s = .next t ∧ Say.OnlyV vd s t
      ∧ ∀ j, j < 128 / Say.wide ty →
          Say.lane (8 * Say.wide ty) (readV t vd) j
            = match Say.actives s (Say.wide ty) pg vs1 (j + 1) with
              | [] => Say.lane (8 * Say.wide ty) (readV s vd) j
              | a :: as =>
                if Say.on s pg (Say.wide ty) j then as.foldl (Say.redOf op) a
                else Say.lane (8 * Say.wide ty) (readV s vd) j)

/-- VPERM, the slides, VZIP, VUNZIP, VBCAST and VID write into every active element what the table of R365 gives, every source being
read before vd is written; VSEL writes every element. VEXT writes an x register, VINS one element or none. -/
def Sys2Proof.Say.VectorMoves : Prop :=
  ∀ (ty : VTy) (vs2 vs1 : RegNo) (pg : PredNo) (vd : RegNo),
    let w := Say.wide ty
    let el := fun (s : State) (r : RegNo) (j : Nat) => Say.lane (8 * w) (readV s r) j
    let k := fun (s : State) (r : RegNo) => (readX s r).toNat
    Say.Elementwise (.vperm ty vs2 vs1 pg vd) w pg vd (fun s j => if (el s vs2 j).toNat < 128 / w then el s vs1 (el s vs2 j).toNat else 0)
    ∧ Say.Elementwise (.vslideup ty vs2 vs1 pg vd) w pg vd (fun s j => if k s vs2 ≤ j then el s vs1 (j - k s vs2) else 0)
    ∧ Say.Elementwise (.vslidedn ty vs2 vs1 pg vd) w pg vd (fun s j => if j + k s vs2 < 128 / w then el s vs1 (j + k s vs2) else 0)
    ∧ Say.Elementwise (.vzip ty vs2 vs1 pg vd) w pg vd (fun s j => if j % 2 = 0 then el s vs1 (j / 2) else el s vs2 ((j - 1) / 2))
    ∧ Say.Elementwise (.vunzip ty vs2 vs1 pg vd) w pg vd
        (fun s j => if j < 128 / w / 2 then el s vs1 (2 * j) else el s vs2 (2 * (j - 128 / w / 2)))
    ∧ Say.Elementwise (.vbcast ty vs1 pg vd) w pg vd (fun s _ => (readX s vs1).setWidth (8 * w))
    ∧ Say.Elementwise (.vid ty pg vd) w pg vd (fun _ j => BitVec.ofNat (8 * w) j)
    ∧ (∀ s, ∃ t, exec (.vsel ty vs2 vs1 pg vd) s = .next t ∧ Say.OnlyV vd s t
        ∧ ∀ j, j < 128 / w → el t vd j = if Say.on s pg w j then el s vs1 j else el s vs2 j)
    ∧ (∀ s, ∃ t, exec (.vext ty vs2 vs1 pg vd) s = .next t
        ∧ Say.SetsX vd (if k s vs2 < 128 / w then (el s vs1 (k s vs2)).signExtend 64 else 0) s t)
    ∧ (∀ s, ∃ t, exec (.vins ty vs2 vs1 pg vd) s = .next t ∧ Say.OnlyV vd s t
        ∧ ∀ j, j < 128 / w →
          el t vd j = if j = k s vs2 then (readX s vs1).setWidth (8 * w) else el s vd j)

/-- An instruction that writes `f` into every bit of the groups of the active elements of pd, the others keeping theirs; p0 reads all
ones and a write to it is discarded. -/
def Sys2Proof.Say.Groupwise (i : Instr) (w : Nat) (pg pd : PredNo) (f : State → Nat → Bool) : Prop :=
  ∀ s, ∃ t, exec i s = .next t ∧ Say.OnlyP pd s t ∧
    ∀ b, b < 128 → (readP t pd).getLsbD b
      = if pd = 0 then true else if Say.on s pg w (b / w) then f s (b / w) else (readP s pd).getLsbD b

/-- VCMP's conditions (R293, R357). -/
def Sys2Proof.Say.condOf (k : Cond) {n : Nat} (a b : BitVec n) : Bool :=
  match k with
  | .eq => a == b
  | .ne => a != b
  | .lt => a.slt b
  | .le => a.sle b
  | .ltn => a.ult b
  | .len => a.ule b

/-- PLOGIC's operations (R293, R366). -/
def Sys2Proof.Say.logicOf (op : POp) (a b : Bool) : Bool :=
  match op with
  | .and => a && b
  | .or => a || b
  | .xor => a ^^ b
  | .andn => a && !b
  | .orn => a || !b
  | .xnor => !(a ^^ b)

/-- VCMP, PLOGIC and PSETN write whole groups of pd; PPOPC counts and PFIRST finds the active elements whose group bit is set. -/
def Sys2Proof.Say.PredicateInstructions : Prop :=
  ∀ (ty : VTy) (k : Cond) (op : POp) (vs2 vs1 : RegNo) (pb pa pg pd : PredNo) (rd : RegNo),
    let w := Say.wide ty
    let el := fun (s : State) (r : RegNo) (j : Nat) => Say.lane (8 * w) (readV s r) j
    let bit := fun (s : State) (p : PredNo) (j : Nat) => (readP s p).getLsbD (w * j)
    Say.Groupwise (.vcmp ty k vs2 vs1 pg pd) w pg pd (fun s j => Say.condOf k (el s vs1 j) (el s vs2 j))
    ∧ Say.Groupwise (.plogic ty op pb pa pg pd) w pg pd (fun s j => Say.logicOf op (bit s pa j) (bit s pb j))
    ∧ Say.Groupwise (.psetn ty vs1 pg pd) w 0 pd (fun s j => decide (j < (readX s vs1).toNat))
    ∧ (∀ s, ∃ t, exec (.ppopc ty pa pg rd) s = .next t
        ∧ Say.SetsX rd (BitVec.ofNat 64 ((List.range (128 / w)).countP fun j => Say.on s pg w j && bit s pa j)) s t)
    ∧ (∀ s, ∃ t v, exec (.pfirst ty pa pg rd) s = .next t ∧ Say.SetsX rd v s t
        ∧ ((v = -1 ∧ ∀ j, j < 128 / w → (Say.on s pg w j && bit s pa j) = false)
          ∨ ∃ j, j < 128 / w ∧ v = BitVec.ofNat 64 j ∧ (Say.on s pg w j && bit s pa j) = true
              ∧ ∀ i, i < j → (Say.on s pg w i && bit s pa i) = false))

/-- The permutes, VSEL, VEXT and VINS, and the instructions that read and write predicates (R357, R365, R366). -/
def Obligations.VectorMovesAndPredicates : Prop := Say.VectorMoves ∧ Say.PredicateInstructions
/-! ### Floating vector instructions, conversions and format pairs (chapter 15) -/

/-- The flags of several operations together. -/
def Sys2Proof.Say.orAll (l : List Flags) : Flags := l.foldr (fun a b => a ||| b) 0

/-- The word of an instruction, as mtval and dtval hold it. -/
def Sys2Proof.Say.wordOf (i : Instr) : Word := ((encode i).getD 0).zeroExtend 64

/-- While frm is 100 or more, the instruction takes the illegal-instruction trap (R188, R346). -/
def Sys2Proof.Say.NeedsMode (i : Instr) : Prop :=
  ∀ s, devMode s.core.cx.frm = none → exec i s = .next (takeTrap 2 (Say.wordOf i) s)

/-- An instruction that writes the first component of `f` into the active elements of vd, leaves the others, and raises the flags of
the active elements; `act` says which elements those are. -/
def Sys2Proof.Say.FloatLanes (i : Instr) (w : Nat) (act : State → Nat → Bool) (vd : RegNo) (ok : State → Prop)
    (f : State → Nat → Nat × Flags) : Prop :=
  ∀ s, ok s → ∃ t, exec i s = .next t ∧ Say.OnlyVF vd s t
    ∧ (∀ j, j < 128 / w → Say.lane (8 * w) (readV t vd) j
        = if act s j then BitVec.ofNat (8 * w) (f s j).1 else Say.lane (8 * w) (readV s vd) j)
    ∧ t.core.cx.fflags = s.core.cx.fflags ||| Say.orAll (((List.range (128 / w)).filter (act s)).map fun j => (f s j).2)

/-- As `FloatLanes`, under the mode of fcsr.frm. -/
def Sys2Proof.Say.RoundedLanes (i : Instr) (w : Nat) (act : State → Nat → Bool) (vd : RegNo) (f : RMode → State → Nat → Nat × Flags) : Prop :=
  Say.NeedsMode i ∧ ∀ m, Say.FloatLanes i w act vd (fun s => devMode s.core.cx.frm = some m) (f m)

/-- The format of a class F type (R181, R291). -/
def Sys2Proof.Say.format : FTy → FF
  | .fp16 => ff16 | .bf16 => ffbf | .fp32 => ff32

/-- Bytes of a class F element. -/
def Sys2Proof.Say.wideF : FTy → Nat
  | .fp16 => 2 | .bf16 => 2 | .fp32 => 4

/-- VFADD to VFSQRT: each active element is rounded once from the exact result of its operands, in the mode of fcsr.frm, and its flags
are raised; with frm at 100 or above the instruction is illegal. VCMUL writes both parts of every pair whose even element is active. -/
def Sys2Proof.Say.VectorFloatArithmetic : Prop :=
  ∀ (ty : FTy) (vs2 vs1 : RegNo) (pg : PredNo) (vd : RegNo),
    let w := Say.wideF ty
    let ff := Say.format ty
    let el := fun (s : State) (r : RegNo) (j : Nat) => decodeF ff (Say.lane (8 * w) (readV s r) j).toNat
    let on := fun (s : State) (j : Nat) => Say.on s pg w j
    let twice := fun (s : State) (j : Nat) => Say.on s pg w (2 * (j / 2))
    Say.RoundedLanes (.vfadd ty vs2 vs1 pg vd) w on vd (fun m s j => finishF ff m (addF m [el s vs1 j, el s vs2 j]))
    ∧ Say.RoundedLanes (.vfsub ty vs2 vs1 pg vd) w on vd (fun m s j => finishF ff m (addF m [el s vs1 j, (el s vs2 j).neg]))
    ∧ Say.RoundedLanes (.vfmul ty vs2 vs1 pg vd) w on vd (fun m s j => finishF ff m (mulF (el s vs1 j) (el s vs2 j)))
    ∧ Say.RoundedLanes (.vfdiv ty vs2 vs1 pg vd) w on vd (fun m s j => finishF ff m (divF (el s vs1 j) (el s vs2 j)))
    ∧ Say.RoundedLanes (.vfma ty vs2 vs1 pg vd) w on vd (fun m s j => finishF ff m (fmaF m (el s vs1 j) (el s vs2 j) (el s vd j)))
    ∧ Say.RoundedLanes (.vfms ty vs2 vs1 pg vd) w on vd (fun m s j => finishF ff m (fmaF m (el s vs1 j) (el s vs2 j) (el s vd j).neg))
    ∧ Say.RoundedLanes (.vfnma ty vs2 vs1 pg vd) w on vd (fun m s j => finishF ff m (fmaF m (el s vs1 j).neg (el s vs2 j) (el s vd j)))
    ∧ Say.RoundedLanes (.vfsqrt ty vs1 pg vd) w on vd (fun m s j => finishF ff m (sqrtF (el s vs1 j)))
    ∧ Say.RoundedLanes (.vcmul ty vs2 vs1 pg vd) w twice vd (fun m s j =>
        let e := 2 * (j / 2)
        let p := if j % 2 = 0 then mulF (el s vs1 e) (el s vs2 e) else mulF (el s vs1 e) (el s vs2 (e + 1))
        let q := if j % 2 = 0 then mulF (el s vs1 (e + 1)) (el s vs2 (e + 1)) else mulF (el s vs1 (e + 1)) (el s vs2 e)
        let r := addF m [p.1, if j % 2 = 0 then q.1.neg else q.1]
        finishF ff m (r.1, p.2 ||| q.2 ||| r.2))

/-- The ten classes of R359, from the sign, exponent and fraction of an encoded number. -/
def Sys2Proof.Say.classOf (ff : FF) (b : Nat) : Nat :=
  let neg := b.testBit (ff.ebits + ff.frac)
  let e := b / 2 ^ ff.frac % 2 ^ ff.ebits
  let m := b % 2 ^ ff.frac
  if e = 2 ^ ff.ebits - 1 then
    if m = 0 then (if neg then 2 ^ 0 else 2 ^ 7) else if m.testBit (ff.frac - 1) then 2 ^ 9 else 2 ^ 8
  else if e = 0 then
    if m = 0 then (if neg then 2 ^ 3 else 2 ^ 4) else if neg then 2 ^ 2 else 2 ^ 5
  else if neg then 2 ^ 1 else 2 ^ 6

/-- VFMIN and VFMAX whatever frm holds; VFSGN and VFCLASS, which move bits and raise no flag; VFCMP, which writes groups of pd and sets NV
for a signalling NaN, or for any NaN under lt and le. -/
def Sys2Proof.Say.VectorFloatUnrounded : Prop :=
  ∀ (ty : FTy) (k : FCond) (vs2 vs1 : RegNo) (pg : PredNo) (vd : RegNo) (pd : PredNo),
    let w := Say.wideF ty
    let ff := Say.format ty
    let n := 8 * w - 1
    let bits := fun (s : State) (r : RegNo) (j : Nat) => Say.lane (8 * w) (readV s r) j
    let val := fun (s : State) (r : RegNo) (j : Nat) => decodeF ff (bits s r j).toNat
    let on := fun (s : State) (j : Nat) => Say.on s pg w j
    let js := fun (s : State) => (List.range (128 / w)).filter (on s)
    Say.FloatLanes (.vfmin ty vs2 vs1 pg vd) w on vd (fun _ => True) (fun s j => minmaxF ff false (bits s vs1 j).toNat (bits s vs2 j).toNat)
    ∧ Say.FloatLanes (.vfmax ty vs2 vs1 pg vd) w on vd (fun _ => True) (fun s j => minmaxF ff true (bits s vs1 j).toNat (bits s vs2 j).toNat)
    ∧ Say.Elementwise (.vfsgn ty vs2 vs1 pg vd) w pg vd (fun s j =>
        (bits s vs1 j &&& ~~~BitVec.twoPow (8 * w) n) ||| (bits s vs2 j &&& BitVec.twoPow (8 * w) n))
    ∧ Say.Elementwise (.vfclass ty vs1 pg vd) w pg vd (fun s j => BitVec.ofNat (8 * w) (Say.classOf ff (bits s vs1 j).toNat))
    ∧ (∀ s, ∃ t, exec (.vfcmp ty k vs2 vs1 pg pd) s = .next t ∧ Say.OnlyPF pd s t
        ∧ (∀ b, b < 128 → (readP t pd).getLsbD b = if pd = 0 then true else if on s (b / w) then
            (match k, cmpF (val s vs1 (b / w)) (val s vs2 (b / w)) with
              | .un, o => o == none
              | .eq, o => o == some .eq
              | .lt, o => o == some .lt
              | .le, o => o == some .lt || o == some .eq)
            else (readP s pd).getLsbD b)
        ∧ t.core.cx.fflags = s.core.cx.fflags ||| Say.orAll ((js s).map fun j =>
            match k with
            | .eq | .un => snan (val s vs1 j) ||| snan (val s vs2 j)
            | .lt | .le => if (val s vs1 j).isNan || (val s vs2 j).isNan then fNV else 0))

/-- Op of R200 and R201 with absent operands, and the flags of the operation. -/
def Sys2Proof.Say.meet (op : Nat → Nat → Nat × Flags) (a b : Option Nat) : Option Nat × Flags :=
  match a, b with
  | some x, some y => (some (op x y).1, (op x y).2)
  | some x, none => (some x, 0)
  | none, o => (o, 0)

/-- A node of the tree of R200, with the flags raised below it. -/
def Sys2Proof.Say.node (op : Nat → Nat → Nat × Flags) (leaf : Nat → Option Nat) : (t i : Nat) → Option Nat × Flags
  | 0, i => (leaf i, 0)
  | t + 1, i =>
    let a := Say.node op leaf t (2 * i)
    let b := Say.node op leaf t (2 * i + 1)
    let r := Say.meet op a.1 b.1
    (r.1, a.2 ||| b.2 ||| r.2)

/-- y[i] of R201 after `t` steps, and the flags of the Ops that it comes from. -/
def Sys2Proof.Say.swept (op : Nat → Nat → Nat × Flags) (leaf : Nat → Option Nat) : (t i : Nat) → Option Nat × Flags
  | 0, i => (leaf i, 0)
  | t + 1, i =>
    let y := Say.swept op leaf t i
    let x := Say.swept op leaf t (i - 2 ^ t)
    let r := Say.meet op x.1 y.1
    if 2 ^ t ≤ i then (r.1, x.2 ||| y.2 ||| r.2) else y

/-- A VFRED or VFSCAN operation on two encoded numbers, rounded once (R363). -/
def Sys2Proof.Say.fredOf (ff : FF) (m : RMode) (op : FRedOp) (a b : Nat) : Nat × Flags :=
  match op with
  | .add => finishF ff m (addF m [decodeF ff a, decodeF ff b])
  | .min => minmaxF ff false a b
  | .max => minmaxF ff true a b

/-- Levels of the tree over the elements of a type: log2 (128 / w). -/
def Sys2Proof.Say.depth : FTy → Nat
  | .fp16 => 6 | .bf16 => 6 | .fp32 => 5

/-- VFRED combines the active elements of vs1 in the tree of R200 and then with element 0 of vd, which alone is written, unless no
element is active, and raises the flags of all its operations; VFSCAN writes the scan of R201 into the active elements, and raises the
flags of the operations that their values come from. -/
def Sys2Proof.Say.VectorFloatReduceAndScan : Prop :=
  ∀ (ty : FTy) (op : FRedOp) (vs1 : RegNo) (pg : PredNo) (vd : RegNo),
    let w := Say.wideF ty
    let ff := Say.format ty
    let el := fun (s : State) (r : RegNo) (j : Nat) => (Say.lane (8 * w) (readV s r) j).toNat
    let leaf := fun (s : State) (j : Nat) => if Say.on s pg w j then some (el s vs1 j) else none
    let root := fun (m : RMode) (s : State) => Say.node (Say.fredOf ff m op) (leaf s) (Say.depth ty) 0
    Say.NeedsMode (.vfred ty op vs1 pg vd) ∧ Say.NeedsMode (.vfscan ty op vs1 pg vd)
    ∧ (∀ s m, devMode s.core.cx.frm = some m → ∃ t, exec (.vfred ty op vs1 pg vd) s = .next t ∧ Say.OnlyVF vd s t
        ∧ (∀ j, 0 < j → j < 128 / w → Say.lane (8 * w) (readV t vd) j = Say.lane (8 * w) (readV s vd) j)
        ∧ match (root m s).1 with
          | none => readV t vd = readV s vd ∧ t.core.cx.fflags = s.core.cx.fflags
          | some x =>
            let r := Say.fredOf ff m op (el s vd 0) x
            Say.lane (8 * w) (readV t vd) 0 = BitVec.ofNat (8 * w) r.1
              ∧ t.core.cx.fflags = s.core.cx.fflags ||| (root m s).2 ||| r.2)
    ∧ (∀ s m, devMode s.core.cx.frm = some m → ∃ t, exec (.vfscan ty op vs1 pg vd) s = .next t ∧ Say.OnlyVF vd s t
        ∧ (∀ j, j < 128 / w → Say.lane (8 * w) (readV t vd) j
            = if Say.on s pg w j then BitVec.ofNat (8 * w) ((Say.swept (Say.fredOf ff m op) (leaf s) (Say.depth ty) j).1.getD 0)
              else Say.lane (8 * w) (readV s vd) j)
        ∧ t.core.cx.fflags = s.core.cx.fflags ||| Say.orAll (((List.range (128 / w)).filter (Say.on s pg w)).map fun j =>
            (Say.swept (Say.fredOf ff m op) (leaf s) (Say.depth ty) j).2))

/-- Bytes of a float conversion code (R294). -/
def Sys2Proof.Say.wideFmt : FFmt → Nat
  | .fp16 | .bf16 => 2 | .fp32 => 4 | .e4m3n | .e5m2 | .e8m0 => 1

/-- Bytes of an integer conversion code (R294). -/
def Sys2Proof.Say.wideInt : IFmt → Nat
  | .i8 | .n8 => 1 | .i16 | .n16 => 2 | .i32 | .n32 => 4 | .i64 => 8

/-- A conversion from elements of `ws` to elements of `wd` bytes (R361). -/
def Sys2Proof.Say.Converts (i : Instr) (ws wd : Nat) (vs1 : RegNo) (pg : PredNo) (vd : RegNo) (f : RMode → Nat → Nat × Flags) : Prop :=
  Say.NeedsMode i ∧ ∀ s m, devMode s.core.cx.frm = some m → ∃ t, exec i s = .next t ∧ Say.OnlyVF vd s t
    ∧ (∀ j, j < 128 / max ws wd → Say.lane (8 * wd) (readV t vd) j
        = if Say.on s pg (max ws wd) j then BitVec.ofNat (8 * wd) (f m (Say.lane (8 * ws) (readV s vs1) j).toNat).1
          else Say.lane (8 * wd) (readV s vd) j)
    ∧ (∀ b, 128 / max ws wd * wd ≤ b → b < 128 → Say.lane 8 (readV t vd) b = 0)
    ∧ t.core.cx.fflags = s.core.cx.fflags ||| Say.orAll (((List.range (128 / max ws wd)).filter (Say.on s pg (max ws wd))).map fun j =>
        (f m (Say.lane (8 * ws) (readV s vs1) j).toNat).2)

/-- VCVTF, VCVTI and VCVTX convert each active element, a narrowing one zeroing the rest of vd. VCVTF: the integer rounded into the
format. VCVTI: the float rounded into the integer's range, a NaN giving 0 under SAT and the upper limit otherwise. VCVTX, whose two codes
differ: the value rounded into the other format, NV for a signalling NaN; with equal codes the word is illegal. -/
def Obligations.VectorConversions : Prop :=
  ∀ (x y : FFmt) (n : IFmt) (sat : Bool) (vs1 : RegNo) (pg : PredNo) (vd : RegNo),
    Say.Converts (.vcvtf x n sat vs1 pg vd) (Say.wideInt n) (Say.wideFmt x) vs1 pg vd (fun m b => x.from m sat (ofIntF (n.val b)))
    ∧ Say.Converts (.vcvti n x sat vs1 pg vd) (Say.wideFmt x) (Say.wideInt n) vs1 pg vd (fun m b =>
        let r := toIntX m n.lo n.hi (if sat then 0 else n.hi) (x.decode b)
        ((BitVec.ofInt (8 * Say.wideInt n) r.1).toNat, r.2))
    ∧ (x ≠ y → Say.Converts (.vcvtx x y sat vs1 pg vd) (Say.wideFmt y) (Say.wideFmt x) vs1 pg vd (fun m b =>
        let r := x.from m sat (y.decode b)
        (r.1, r.2 ||| snan (y.decode b))))
    ∧ (∀ s, exec (.vcvtx x x sat vs1 pg vd) s = .next (takeTrap 2 (Say.wordOf (.vcvtx x x sat vs1 pg vd)) s))

/-- An element of a float format of a pair (R295, R367). -/
def Sys2Proof.Say.partVal (p : PFmt) (v : VReg) (j : Nat) : Fv :=
  match p with
  | .int => ofIntF (Say.lane 8 v j).toInt
  | .flt f w => decodeF f (Say.lane (8 * w) v j).toNat

/-- VMULP and VDQNT write all 32 lanes of vd, and VDOTP accumulates into them; VQNT writes 32 elements of the part that fs3 names. Pair 110
computes on integers. A NaN scale gives the canonical NaN (0 for i8) with NV. No pair runs while frm is 100 or above. -/
def Obligations.FormatPairs : Prop :=
  ∀ (fs3 vs2 vs1 : RegNo) (p : Pair) (vd : RegNo),
    let all := fun (_ : State) (_ : Nat) => true
    let sa := fun (s : State) => ((readF s fs3).extractLsb' 0 8).toNat
    let sb := fun (s : State) => ((readF s fs3).extractLsb' 8 8).toNat
    let w := (pairA p).bytes
    let e := fun (s : State) => if w = 1 then 32 * ((readF s fs3).extractLsb' 16 2).toNat else 32 * ((readF s fs3).extractLsb' 16 1).toNat
    let k := fun (s : State) => (sa s : Int) - 127 + ((sb s : Int) - 127)
    let bad : Nat × Flags := (0x7FC00000, fNV)
    Say.RoundedLanes (.vmulp fs3 vs2 vs1 p vd) 4 all vd (fun m s l =>
      if p = .i8 then (((Say.lane 8 (readV s vs1) (e s + l)).signExtend 32 * (Say.lane 8 (readV s vs2) (e s + l)).signExtend 32).toNat, 0)
      else if sa s = 255 ∨ sb s = 255 then bad
      else
        let r := mulF (Say.partVal (pairA p) (readV s vs1) (e s + l)) (Say.partVal (pairB p) (readV s vs2) (e s + l))
        finishF ff32 m (r.1.scale (k s), r.2))
    ∧ Say.RoundedLanes (.vdotp fs3 vs2 vs1 p vd) 4 all vd (fun m s l =>
      if p = .i8 then
        ((Say.lane 32 (readV s vd) l + ((List.range 4).map fun j =>
          (Say.lane 8 (readV s vs1) (4 * l + j)).signExtend 32 * (Say.lane 8 (readV s vs2) (4 * l + j)).signExtend 32).sum).toNat, 0)
      else if sa s = 255 ∨ sb s = 255 then bad
      else dotLane m (k s) (decodeF ff32 (Say.lane 32 (readV s vd) l).toNat) ((List.range (4 / w)).map fun j =>
        mulF (Say.partVal (pairA p) (readV s vs1) (4 / w * l + j)) (Say.partVal (pairB p) (readV s vs2) (4 / w * l + j))))
    ∧ Say.RoundedLanes (.vdqnt fs3 vs1 p vd) 4 all vd (fun m s l =>
      if sa s = 255 then bad
      else
        let v := Say.partVal (pairA p) (readV s vs1) (e s + l)
        finishF ff32 m (v.scale ((sa s : Int) - 127), snan v))
    ∧ Say.NeedsMode (.vqnt fs3 vs1 p vd)
    ∧ (∀ s m, devMode s.core.cx.frm = some m → ∃ t, exec (.vqnt fs3 vs1 p vd) s = .next t ∧ Say.OnlyVF vd s t
        ∧ (∀ j, j < 128 / w → Say.lane (8 * w) (readV t vd) j
          = if e s ≤ j ∧ j < e s + 32 then
              BitVec.ofNat (8 * w) (quantise (pairA p) m (sa s) (Say.lane 32 (readV s vs1) (j - e s)).toNat).1
            else Say.lane (8 * w) (readV s vd) j)
        ∧ t.core.cx.fflags = s.core.cx.fflags ||| Say.orAll ((List.range 32).map fun l =>
            (quantise (pairA p) m (sa s) (Say.lane 32 (readV s vs1) l).toNat).2))

/-- The floating vector instructions that round (R358, R360) and those that do not (R359). -/
def Obligations.VectorFloatOperations : Prop := Say.VectorFloatArithmetic ∧ Say.VectorFloatUnrounded

/-- Reductions and scans of integers and of floating values (R363, R364). -/
def Obligations.VectorReductionsAndScans : Prop := Say.VectorIntegerReduceAndScan ∧ Say.VectorFloatReduceAndScan
/-! ### Vector memory (chapter 15) -/

/-- An access of `n` bytes at `va` of the core's own scratchpad, aligned, that nothing turns away: inside the scratchpad (R117), held by no
range lock (R135), poisoned nowhere (R157), its lines waiting for no replica (R154), and no write of the core on its way to them (R208). -/
def Sys2Proof.Say.Own (s : State) (va : Word) (n : Nat) : Prop :=
  ownWindow + s.core.dpoolb1 ≤ va.toNat ∧ va.toNat + n ≤ ownWindow + s.core.dpoolb2 ∧ s.core.dpoolb2 ≤ Config.poolBytes
    ∧ va.toNat % n = 0 ∧ locked s.core va n = false
    ∧ poisoned s (poolKey s.core.num (va.toNat - ownWindow)) n = false
    ∧ lineHeld s (lineOf (poolKey s.core.num (va.toNat - ownWindow))) = false
    ∧ ∀ w ∈ writesOf s s.core.num, sameSlice w.line (lineOf (poolKey s.core.num (va.toNat - ownWindow))) = false

/-- Where a byte of the core's own scratchpad stands in memory. -/
def Sys2Proof.Say.ownKey (s : State) (va : Word) : Nat := poolKey s.core.num (va.toNat - ownWindow)

/-- The instruction has retired and changed memory, and with it what watches memory: reservations (R281) and monitors (R314). -/
def Sys2Proof.Say.OnlyMem (s t : State) : Prop := t = { adv s with mem := t.mem, resv := t.resv, mons := t.mons }

/-- A vector load from the core's own scratchpad: active elements take their bytes, inactive ones 0 (R348). -/
def Sys2Proof.Say.LoadsLanes (i : Instr) (e : Size) (z : Bool) (vd : RegNo) (addr : State → Nat → Word) : Prop :=
  ∀ s, (∀ j, j < 128 / sizeBytes e → active (sizeBytes e) (zPred s z) j = true → Say.Own s (addr s j) (sizeBytes e)) →
    ∃ t, exec i s = .next t ∧ Say.OnlyV vd s t
      ∧ ∀ j, j < 128 / sizeBytes e → Say.lane (8 * sizeBytes e) (readV t vd) j
          = if active (sizeBytes e) (zPred s z) j then BitVec.ofNat (8 * sizeBytes e) (memNat s.mem (Say.ownKey s (addr s j)) (sizeBytes e)) else 0

/-- VLD, VLDS and VLDX load at base plus w·i, base plus i·stride and base plus index; z = 0 makes every element active and z = 1 takes p1 and
zeroes the others. VLDB gives one element to all. VLDL reads, in each lane, the word at its offset in the lane's slice. -/
def Sys2Proof.Say.VectorLoadsFromTheScratchpad : Prop :=
  ∀ (e : Size) (h : Hint) (z : Bool) (vs2 rs2 rs1 vd : RegNo),
    Say.LoadsLanes (.vld e rs1 h z vd) e z vd (fun s j => readX s rs1 + BitVec.ofNat 64 (sizeBytes e * j))
    ∧ Say.LoadsLanes (.vlds e rs2 rs1 h z vd) e z vd (fun s j => readX s rs1 + BitVec.ofNat 64 j * readX s rs2)
    ∧ Say.LoadsLanes (.vldx e vs2 rs1 z vd) e z vd (fun s j => readX s rs1 + (Say.lane (8 * sizeBytes e) (readV s vs2) j).zeroExtend 64)
    ∧ (∀ s, Say.Own s (readX s rs1) (sizeBytes e) → ∃ t, exec (.vldb e rs1 h vd) s = .next t ∧ Say.OnlyV vd s t
        ∧ ∀ j, j < 128 / sizeBytes e → Say.lane (8 * sizeBytes e) (readV t vd) j
          = BitVec.ofNat (8 * sizeBytes e) (memNat s.mem (Say.ownKey s (readX s rs1)) (sizeBytes e)))
    ∧ (∀ s, (readX s rs1).toNat % 4 = 0 → (readX s rs1).toNat + 4 ≤ laneSize s.core →
        (∀ l, l < 32 → locked s.core (BitVec.ofNat 64 (ownWindow + laneOff s.core l (readX s rs1).toNat)) 4 = false
          ∧ poisoned s (poolKey s.core.num (laneOff s.core l (readX s rs1).toNat)) 4 = false) →
        ∃ t, exec (.vldl e rs1 z vd) s = .next t ∧ Say.OnlyV vd s t
          ∧ ∀ b, b < 128 → Say.lane 8 (readV t vd) b
            = if active (sizeBytes e) (zPred s z) (b / sizeBytes e) then
                memGet s.mem (poolKey s.core.num (laneOff s.core (b / 4) (readX s rs1).toNat) + b % 4) else 0)

/-- A vector store into the core's own scratchpad: the active elements are stored in increasing order, so that of two that overlap the higher
one stays, and no other byte of memory changes (R348, R349). -/
def Sys2Proof.Say.StoresLanes (i : Instr) (e : Size) (pm : State → PReg) (vs3 : RegNo) (addr : State → Nat → Word) : Prop :=
  ∀ s, Memory.wf s.mem = true →
    (∀ j, j < 128 / sizeBytes e → active (sizeBytes e) (pm s) j = true → Say.Own s (addr s j) (sizeBytes e)) →
    ∃ t, exec i s = .next t ∧ Say.OnlyMem s t
      ∧ ∀ a, memGet t.mem a
        = match ((List.range (128 / sizeBytes e)).filter fun j => active (sizeBytes e) (pm s) j
              && decide (Say.ownKey s (addr s j) ≤ a) && decide (a < Say.ownKey s (addr s j) + sizeBytes e)).getLast? with
          | some j => Say.lane 8 (readV s vs3) (sizeBytes e * j + (a - Say.ownKey s (addr s j)))
          | none => memGet s.mem a

/-- VST, VSTS, VSTX and VSTM store the active elements of vs3 (p1 where z = 1, all where z = 0; VSTM under the predicate of its own field).
VSTL writes the bytes of the active elements, in each lane, at its offset in the lane's slice. -/
def Sys2Proof.Say.VectorStoresIntoTheScratchpad : Prop :=
  ∀ (e : Size) (h : Hint) (z : Bool) (p : PredNo) (vs2 rs2 rs1 vs3 : RegNo),
    Say.StoresLanes (.vst e rs1 h z vs3) e (fun s => zPred s z) vs3 (fun s j => readX s rs1 + BitVec.ofNat 64 (sizeBytes e * j))
    ∧ Say.StoresLanes (.vsts e rs2 rs1 h z vs3) e (fun s => zPred s z) vs3 (fun s j => readX s rs1 + BitVec.ofNat 64 j * readX s rs2)
    ∧ Say.StoresLanes (.vstx e vs2 rs1 z vs3) e (fun s => zPred s z) vs3
        (fun s j => readX s rs1 + (Say.lane (8 * sizeBytes e) (readV s vs2) j).zeroExtend 64)
    ∧ Say.StoresLanes (.vstm e p rs1 h vs3) e (fun s => governing s p) vs3 (fun s j => readX s rs1 + BitVec.ofNat 64 (sizeBytes e * j))
    ∧ (∀ s, Memory.wf s.mem = true → (readX s rs1).toNat % 4 = 0 → (readX s rs1).toNat + 4 ≤ laneSize s.core →
        (∀ l, l < 32 → locked s.core (BitVec.ofNat 64 (ownWindow + laneOff s.core l (readX s rs1).toNat)) 4 = false
          ∧ poisoned s (poolKey s.core.num (laneOff s.core l (readX s rs1).toNat)) 4 = false
          ∧ ∀ b, b < 4 → lineHeld s (lineOf (poolKey s.core.num (laneOff s.core l (readX s rs1).toNat) + b)) = false) →
        ∃ t, exec (.vstl e rs1 z vs3) s = .next t ∧ Say.OnlyMem s t
          ∧ (∀ b, b < 128 → memGet t.mem (poolKey s.core.num (laneOff s.core (b / 4) (readX s rs1).toNat) + b % 4)
              = if active (sizeBytes e) (zPred s z) (b / sizeBytes e) then Say.lane 8 (readV s vs3) b
                else memGet s.mem (poolKey s.core.num (laneOff s.core (b / 4) (readX s rs1).toNat) + b % 4))
          ∧ ∀ a, (∀ b, b < 128 → a ≠ poolKey s.core.num (laneOff s.core (b / 4) (readX s rs1).toNat) + b % 4) →
              memGet t.mem a = memGet s.mem a)

/-- The bytes of memory after the elements below `k` of a VAMO on the core's own scratchpad, done one after the other (R354). -/
def Sys2Proof.Say.amoMem (s : State) (w : Nat) (f : Nat → Nat → Nat) (addr : Nat → Word) (v : VReg) : (k : Nat) → List Host.Cell
  | 0 => s.mem
  | k + 1 =>
    let m := Say.amoMem s w f addr v k
    let key := Say.ownKey s (addr k)
    memWrite m key (bytesOfNat w (f (memNat m key w) (Say.lane (8 * w) v k).toNat))

/-- What a VAMO writes from the old value and the operand (R290, R354). -/
def Sys2Proof.Say.vamoOf (op : VamoOp) (w m o : Nat) : Nat :=
  let a := BitVec.ofNat (8 * w) m
  let b := BitVec.ofNat (8 * w) o
  match op with
  | .add => (a + b).toNat
  | .min => if a.sle b then m else o
  | .max => if a.sle b then o else m
  | .and => (a &&& b).toNat
  | .or => (a ||| b).toNat
  | .xor => (a ^^^ b).toNat
  | .swap => o
  | .faddF32 => addRne ff32 m o

/-- VAMO performs one read-modify-write for every element, in increasing order and whatever the predicates hold; an operation that R290 does
not give the width is an illegal instruction. A prefetch (VPREF, CPREF) changes no register, no byte and no line of L1; of a CACHED line of
device DRAM that L1 lacks, a fill is under way after it, unless its hint keeps the line out of L1. -/
def Obligations.VectorAtomicsAndPrefetch : Prop :=
  ∀ (e : Size) (op : VamoOp) (h : Hint) (vs2 rs1 vs3 : RegNo),
    let w := sizeBytes e
    let addr := fun (s : State) (j : Nat) => readX s rs1 + (Say.lane (8 * w) (readV s vs2) j).zeroExtend 64
    (∀ s, vamoOk e op = true → (∀ j, j < 128 / w → Say.Own s (addr s j) w) →
        ∃ t, exec (.vamo e op vs2 rs1 vs3) s = .next t ∧ Say.OnlyMem s t
          ∧ t.mem = Say.amoMem s w (Say.vamoOf op w) (addr s) (readV s vs3) (128 / w))
    ∧ (∀ s, vamoOk e op = false →
        exec (.vamo e op vs2 rs1 vs3) s = .next (takeTrap 2 (Say.wordOf (.vamo e op vs2 rs1 vs3)) s))
    ∧ ∀ i ∈ [Instr.vpref e rs1 h, .cpref h rs1], ∀ s, ∃ t, exec i s = .next t
        ∧ t.core.cx = (adv s).core.cx ∧ t.core.bank.ctxs = s.core.bank.ctxs ∧ t.core.l1 = s.core.l1 ∧ t.mem = s.mem ∧ t.resv = s.resv
        ∧ (∀ p, prefetchPlace s (readX s rs1) = some p → p.ty = .cached → l1Find s.core (lineOf p.key) = none → (h = .dflt ∨ h = .nt) →
            t.core.fills.any (fun f => f.line == lineOf p.key) = true)

/-- Vector loads from, and vector stores into, the own scratchpad (R347 to R353). -/
def Obligations.VectorMemoryInTheScratchpad : Prop := Say.VectorLoadsFromTheScratchpad ∧ Say.VectorStoresIntoTheScratchpad
/-! ### The standard profile (R279) -/

/-- The register operations of RV64I, M, Zba, Zbb and Zicond (R279). -/
def Sys2Proof.Say.aluOf (op : AluOp) (a b : Word) : Word :=
  let lo := fun (w : Word) => (w.setWidth 32 : W32)
  let sx := fun (w : W32) => w.signExtend 64
  let ux := fun (w : Word) => (lo w).zeroExtend 64
  let div := fun (n : Nat) (a b : BitVec n) => if b = 0 then BitVec.allOnes n else BitVec.ofInt n (a.toInt.tdiv b.toInt)
  let rem := fun (n : Nat) (a b : BitVec n) => if b = 0 then a else BitVec.ofInt n (a.toInt.tmod b.toInt)
  let divu := fun (n : Nat) (a b : BitVec n) => if b = 0 then BitVec.allOnes n else BitVec.ofNat n (a.toNat / b.toNat)
  let remu := fun (n : Nat) (a b : BitVec n) => if b = 0 then a else BitVec.ofNat n (a.toNat % b.toNat)
  match op with
  | .add => a + b | .sub => a - b | .xor => a ^^^ b | .or => a ||| b | .and => a &&& b
  | .sll => a <<< (b.toNat % 64) | .srl => a >>> (b.toNat % 64) | .sra => a.sshiftRight (b.toNat % 64)
  | .slt => if a.toInt < b.toInt then 1 else 0 | .sltu => if a < b then 1 else 0
  | .mul => a * b
  | .mulh => (a.signExtend 128 * b.signExtend 128).extractLsb' 64 64
  | .mulhsu => (a.signExtend 128 * b.zeroExtend 128).extractLsb' 64 64
  | .mulhu => (a.zeroExtend 128 * b.zeroExtend 128).extractLsb' 64 64
  | .div => div 64 a b | .divu => divu 64 a b | .rem => rem 64 a b | .remu => remu 64 a b
  | .addw => sx (lo (a + b)) | .subw => sx (lo (a - b)) | .mulw => sx (lo (a * b))
  | .sllw => sx (lo a <<< (b.toNat % 32)) | .srlw => sx (lo a >>> (b.toNat % 32)) | .sraw => sx ((lo a).sshiftRight (b.toNat % 32))
  | .divw => sx (div 32 (lo a) (lo b)) | .divuw => sx (divu 32 (lo a) (lo b))
  | .remw => sx (rem 32 (lo a) (lo b)) | .remuw => sx (remu 32 (lo a) (lo b))
  | .adduw => b + ux a
  | .sh1add => b + a * 2 | .sh2add => b + a * 4 | .sh3add => b + a * 8
  | .sh1adduw => b + ux a * 2 | .sh2adduw => b + ux a * 4 | .sh3adduw => b + ux a * 8
  | .andn => a &&& ~~~b | .orn => a ||| ~~~b | .xnor => ~~~(a ^^^ b)
  | .max => if a.toInt ≤ b.toInt then b else a | .min => if a.toInt ≤ b.toInt then a else b
  | .maxu => if a ≤ b then b else a | .minu => if a ≤ b then a else b
  | .rol => (a <<< (b.toNat % 64)) ||| (a >>> (64 - b.toNat % 64))
  | .ror => (a >>> (b.toNat % 64)) ||| (a <<< (64 - b.toNat % 64))
  | .rolw => sx ((lo a <<< (b.toNat % 32)) ||| (lo a >>> (32 - b.toNat % 32)))
  | .rorw => sx ((lo a >>> (b.toNat % 32)) ||| (lo a <<< (32 - b.toNat % 32)))
  | .czeroEqz => if b = 0 then 0 else a | .czeroNez => if b = 0 then a else 0

/-- The one-operand operations of Zbb (R279). -/
def Sys2Proof.Say.unaryOf (op : UnOp) (a : Word) : Word :=
  let lo : W32 := a.setWidth 32
  let byte := fun (i : Nat) => a.extractLsb' (8 * i) 8
  match op with
  | .clz => a.clz | .clzw => lo.clz.zeroExtend 64
  | .ctz => a.reverse.clz | .ctzw => lo.reverse.clz.zeroExtend 64
  | .cpop => BitVec.ofNat 64 ((List.range 64).countP fun i => a.getLsbD i)
  | .cpopw => BitVec.ofNat 64 ((List.range 32).countP fun i => a.getLsbD i)
  | .sextb => (byte 0).signExtend 64
  | .sexth => (a.extractLsb' 0 16).signExtend 64
  | .zexth => (a.extractLsb' 0 16).zeroExtend 64
  | .rev8 => byte 0 ++ byte 1 ++ byte 2 ++ byte 3 ++ byte 4 ++ byte 5 ++ byte 6 ++ byte 7
  | .orcb =>
    let o := fun (i : Nat) => if byte i = 0 then 0#8 else 0xFF#8
    o 7 ++ o 6 ++ o 5 ++ o 4 ++ o 3 ++ o 2 ++ o 1 ++ o 0

/-- RV64_INSTRUCTION, the integer instructions: what each writes to rd, nothing else changing. -/
def Sys2Proof.Say.StandardIntegerInstructions : Prop :=
  ∀ (rd rs1 rs2 : RegNo) (s : State),
    let ends := fun (i : Rv) (v : Word) => ∃ t, exec (.rv64Instruction i) s = .next t ∧ Say.SetsX rd v s t
    let a := readX s rs1
    let b := readX s rs2
    let lo := fun (w : Word) => (w.setWidth 32 : W32)
    let sx := fun (w : W32) => w.signExtend 64
    (∀ imm : BitVec 20, ends (.lui rd imm) ((imm.zeroExtend 32 <<< 12).signExtend 64))
    ∧ (∀ imm : BitVec 20, ends (.auipc rd imm) (s.core.cx.pc + (imm.zeroExtend 32 <<< 12).signExtend 64))
    ∧ (∀ imm : BitVec 12, ends (.opImm .addi rd rs1 imm) (a + imm.signExtend 64))
    ∧ (∀ imm : BitVec 12, ends (.opImm .slti rd rs1 imm) (if a.toInt < imm.toInt then 1 else 0))
    ∧ (∀ imm : BitVec 12, ends (.opImm .sltiu rd rs1 imm) (if a < imm.signExtend 64 then 1 else 0))
    ∧ (∀ imm : BitVec 12, ends (.opImm .xori rd rs1 imm) (a ^^^ imm.signExtend 64))
    ∧ (∀ imm : BitVec 12, ends (.opImm .ori rd rs1 imm) (a ||| imm.signExtend 64))
    ∧ (∀ imm : BitVec 12, ends (.opImm .andi rd rs1 imm) (a &&& imm.signExtend 64))
    ∧ (∀ imm : BitVec 12, ends (.addiw rd rs1 imm) (sx (lo a + imm.signExtend 32)))
    ∧ (∀ sh : BitVec 6, ends (.shift .slli rd rs1 sh) (a <<< sh.toNat) ∧ ends (.shift .srli rd rs1 sh) (a >>> sh.toNat)
        ∧ ends (.shift .srai rd rs1 sh) (a.sshiftRight sh.toNat)
        ∧ ends (.shift .rori rd rs1 sh) ((a >>> sh.toNat) ||| (a <<< (64 - sh.toNat)))
        ∧ ends (.slliUw rd rs1 sh) ((lo a).zeroExtend 64 <<< sh.toNat))
    ∧ (∀ sh : BitVec 5, ends (.shiftW .slliw rd rs1 sh) (sx (lo a <<< sh.toNat)) ∧ ends (.shiftW .srliw rd rs1 sh) (sx (lo a >>> sh.toNat))
        ∧ ends (.shiftW .sraiw rd rs1 sh) (sx ((lo a).sshiftRight sh.toNat))
        ∧ ends (.shiftW .roriw rd rs1 sh) (sx ((lo a >>> sh.toNat) ||| (lo a <<< (32 - sh.toNat)))))
    ∧ (∀ op : AluOp, ends (.alu op rd rs1 rs2) (Say.aluOf op a b))
    ∧ (∀ op : UnOp, ends (.unary op rd rs1) (Say.unaryOf op a))

/-- Jumps and branches, MRET and WFI: a taken jump goes to its target, JAL and JALR giving rd the address of the next instruction, unless the
target is no multiple of 4, which traps on the jump with cause 0 and nothing written (R282); a branch not taken goes on. MRET and WFI run
in M-mode and are illegal in U-mode. -/
def Sys2Proof.Say.StandardJumps : Prop :=
  ∀ (rd rs1 rs2 : RegNo) (s : State),
    let pc := s.core.cx.pc
    let goes := fun (i : Rv) (r : RegNo) (target : Word) =>
      (target.toNat % 4 = 0 → ∃ t, exec (.rv64Instruction i) s = .next t
        ∧ t = jumpTo target (modCx (fun c => { c with x := t.core.cx.x }) s) ∧ t.core.cx.pc = target
        ∧ (∀ q, q ≠ r → readX t q = readX s q) ∧ readX t r = if r = 0 then 0 else pc + 4)
      ∧ (target.toNat % 4 ≠ 0 → exec (.rv64Instruction i) s = .next (takeTrap 0 target s))
    let cond := fun (op : BrOp) => match op with
      | .eq => readX s rs1 = readX s rs2 | .ne => readX s rs1 ≠ readX s rs2
      | .lt => (readX s rs1).toInt < (readX s rs2).toInt | .ge => (readX s rs2).toInt ≤ (readX s rs1).toInt
      | .ltu => readX s rs1 < readX s rs2 | .geu => readX s rs2 ≤ readX s rs1
    (∀ off : BitVec 20, goes (.jal rd off) rd (pc + off.signExtend 64 * 2))
    ∧ (∀ imm : BitVec 12, goes (.jalr rd rs1 imm) rd ((readX s rs1 + imm.signExtend 64) &&& ~~~1#64))
    ∧ (∀ (op : BrOp) (off : BitVec 12),
        (¬cond op → exec (.rv64Instruction (.branch op rs1 rs2 off)) s = .next (adv s))
        ∧ (cond op → (pc + off.signExtend 64 * 2).toNat % 4 = 0 →
            exec (.rv64Instruction (.branch op rs1 rs2 off)) s = .next (jumpTo (pc + off.signExtend 64 * 2) s))
        ∧ (cond op → (pc + off.signExtend 64 * 2).toNat % 4 ≠ 0 →
            exec (.rv64Instruction (.branch op rs1 rs2 off)) s = .next (takeTrap 0 (pc + off.signExtend 64 * 2) s)))
    ∧ (s.core.priv = .m → exec (.rv64Instruction .wfi) s = .next (adv s) ∧ ∃ t, exec (.rv64Instruction .mret) s = .next t
        ∧ t.core.cx.pc = s.core.mcsr.mepc ∧ t.core.priv = s.core.mcsr.mpp ∧ t.core.mcsr.mie = s.core.mcsr.mpie
        ∧ t.core.cx.x = s.core.cx.x ∧ t.mem = s.mem)
    ∧ (s.core.priv ≠ .m → ∀ i ∈ [Rv.mret, .wfi], exec (.rv64Instruction i) s
        = .next (takeTrap 2 (Say.wordOf (.rv64Instruction i)) s))

/-- An F or D operand: an S operand that is not NaN-boxed reads as the canonical NaN. -/
def Sys2Proof.Say.fpBits (s : State) (p : Prec) (r : RegNo) : Nat :=
  match p with
  | .d => (readF s r).toNat
  | .s => if (readF s r).extractLsb' 32 32 = BitVec.allOnes 32 then ((readF s r).setWidth 32).toNat else 0x7FC00000

/-- The format of a precision. -/
def Sys2Proof.Say.fpFormat : Prec → FF
  | .s => ff32 | .d => ff64

/-- An f register value made of the bits of a result, NaN-boxed when it is an S value. -/
def Sys2Proof.Say.boxed (p : Prec) (v : Nat) : Word :=
  match p with
  | .d => BitVec.ofNat 64 v
  | .s => 0xFFFFFFFF#32 ++ BitVec.ofNat 32 v

/-- The instruction has retired, given f register `rd` the value `v` and raised `fl`. -/
def Sys2Proof.Say.SetsF (rd : RegNo) (v : Word) (fl : Flags) (s t : State) : Prop :=
  t = adv (modCx (fun c => { c with f := t.core.cx.f, fflags := s.core.cx.fflags ||| fl }) s)
    ∧ (∀ r, r ≠ rd → readF t r = readF s r) ∧ readF t rd = v

/-- RV64_INSTRUCTION, F and D: the rounding ones take the mode of their rm field, or of fcsr.frm where it is 111, and are illegal when that
is none; every one raises its flags. -/
def Obligations.StandardFloatInstructions : Prop :=
  ∀ (p : Prec) (rd rs1 rs2 rs3 : RegNo) (rm : BitVec 3) (s : State),
    let ff := Say.fpFormat p
    let v := fun (r : RegNo) => decodeF ff (Say.fpBits s p r)
    let rounds := fun (i : Rv) (q : Prec) (f : RMode → Fv × Flags) =>
      (∀ m, stdMode rm s.core.cx.frm = some m → ∃ t, exec (.rv64Instruction i) s = .next t
        ∧ Say.SetsF rd (Say.boxed q (finishF (Say.fpFormat q) m (f m)).1) (finishF (Say.fpFormat q) m (f m)).2 s t)
      ∧ (stdMode rm s.core.cx.frm = none → exec (.rv64Instruction i) s = .next (takeTrap 2 (Say.wordOf (.rv64Instruction i)) s))
    let toX := fun (i : Rv) (w : Word) (fl : Flags) => ∃ t, exec (.rv64Instruction i) s = .next t
      ∧ Say.SetsX rd w (raiseFlags fl s) t
    let toF := fun (i : Rv) (b : Nat) (fl : Flags) => ∃ t, exec (.rv64Instruction i) s = .next t ∧ Say.SetsF rd (Say.boxed p b) fl s t
    let sign := 2 ^ (ff.ebits + ff.frac)
    rounds (.fp .add p rd rs1 rs2 rm) p (fun m => addF m [v rs1, v rs2])
    ∧ rounds (.fp .sub p rd rs1 rs2 rm) p (fun m => addF m [v rs1, (v rs2).neg])
    ∧ rounds (.fp .mul p rd rs1 rs2 rm) p (fun _ => mulF (v rs1) (v rs2))
    ∧ rounds (.fp .div p rd rs1 rs2 rm) p (fun _ => divF (v rs1) (v rs2))
    ∧ rounds (.fsqrt p rd rs1 rm) p (fun _ => sqrtF (v rs1))
    ∧ rounds (.fma .fmadd p rd rs1 rs2 rs3 rm) p (fun m => fmaF m (v rs1) (v rs2) (v rs3))
    ∧ rounds (.fma .fmsub p rd rs1 rs2 rs3 rm) p (fun m => fmaF m (v rs1) (v rs2) (v rs3).neg)
    ∧ rounds (.fma .fnmsub p rd rs1 rs2 rs3 rm) p (fun m => fmaF m (v rs1).neg (v rs2) (v rs3))
    ∧ rounds (.fma .fnmadd p rd rs1 rs2 rs3 rm) p (fun m => fmaF m (v rs1).neg (v rs2) (v rs3).neg)
    ∧ rounds (.fcvtSD rd rs1 rm) .s (fun _ => (decodeF ff64 (readF s rs1).toNat, snan (decodeF ff64 (readF s rs1).toNat)))
    ∧ rounds (.fcvtDS rd rs1 rm) .d (fun _ => (decodeF ff32 (Say.fpBits s .s rs1), snan (decodeF ff32 (Say.fpBits s .s rs1))))
    ∧ rounds (.fcvtFromInt .w p rd rs1 rm) p (fun _ => (ofIntF ((readX s rs1).setWidth 32 : W32).toInt, 0))
    ∧ rounds (.fcvtFromInt .wu p rd rs1 rm) p (fun _ => (ofIntF ((readX s rs1).setWidth 32 : W32).toNat, 0))
    ∧ rounds (.fcvtFromInt .l p rd rs1 rm) p (fun _ => (ofIntF (readX s rs1).toInt, 0))
    ∧ rounds (.fcvtFromInt .lu p rd rs1 rm) p (fun _ => (ofIntF (readX s rs1).toNat, 0))
    ∧ (∀ ty m, stdMode rm s.core.cx.frm = some m →
        let r := match ty with
          | .w => toIntF m (-2 ^ 31) (2 ^ 31 - 1) (2 ^ 31 - 1) (v rs1)
          | .wu => toIntF m 0 (2 ^ 32 - 1) (2 ^ 32 - 1) (v rs1)
          | .l => toIntF m (-2 ^ 63) (2 ^ 63 - 1) (2 ^ 63 - 1) (v rs1)
          | .lu => toIntF m 0 (2 ^ 64 - 1) (2 ^ 64 - 1) (v rs1)
        toX (.fcvtToInt ty p rd rs1 rm) (match ty with
          | .w | .wu => (BitVec.ofInt 32 r.1).signExtend 64
          | .l | .lu => BitVec.ofInt 64 r.1) r.2)
    ∧ (∀ ty, stdMode rm s.core.cx.frm = none → exec (.rv64Instruction (.fcvtToInt ty p rd rs1 rm)) s
        = .next (takeTrap 2 (Say.wordOf (.rv64Instruction (.fcvtToInt ty p rd rs1 rm))) s))
    ∧ (∀ mx, toF (.fminmax mx p rd rs1 rs2) (minmaxF ff mx (Say.fpBits s p rs1) (Say.fpBits s p rs2)).1
        (minmaxF ff mx (Say.fpBits s p rs1) (Say.fpBits s p rs2)).2)
    ∧ toF (.fsgn .sgnj p rd rs1 rs2) (Say.fpBits s p rs1 % sign + Say.fpBits s p rs2 / sign % 2 * sign) 0
    ∧ toF (.fsgn .sgnjn p rd rs1 rs2) (Say.fpBits s p rs1 % sign + (1 - Say.fpBits s p rs2 / sign % 2) * sign) 0
    ∧ toF (.fsgn .sgnjx p rd rs1 rs2)
        (Say.fpBits s p rs1 % sign + (Say.fpBits s p rs1 / sign % 2 + Say.fpBits s p rs2 / sign % 2) % 2 * sign) 0
    ∧ toF (.fmvFromInt p rd rs1) (match p with | .d => (readX s rs1).toNat | .s => ((readX s rs1).setWidth 32 : W32).toNat) 0
    ∧ toX (.fmvToInt p rd rs1) (match p with | .d => readF s rs1 | .s => ((readF s rs1).setWidth 32 : W32).signExtend 64) 0
    ∧ toX (.fclass p rd rs1) (BitVec.ofNat 64 (Say.classOf ff (Say.fpBits s p rs1))) 0
    ∧ toX (.fcmp .eq p rd rs1 rs2) (if cmpF (v rs1) (v rs2) = some .eq then 1 else 0)
        (if cmpF (v rs1) (v rs2) = none then snan (v rs1) ||| snan (v rs2) else 0)
    ∧ toX (.fcmp .lt p rd rs1 rs2) (if cmpF (v rs1) (v rs2) = some .lt then 1 else 0) (if cmpF (v rs1) (v rs2) = none then fNV else 0)
    ∧ toX (.fcmp .le p rd rs1 rs2) (if cmpF (v rs1) (v rs2) = some .lt ∨ cmpF (v rs1) (v rs2) = some .eq then 1 else 0)
        (if cmpF (v rs1) (v rs2) = none then fNV else 0)

/-- The standard integer instructions, and the jumps and branches with MRET and WFI (R279, R282). -/
def Obligations.StandardIntegerAndJumps : Prop := Say.StandardIntegerInstructions ∧ Say.StandardJumps
/-! ### Device CSRs (R59, R97, R116, R242, R337 to R342) -/

/-- The value a CSR instruction writes: its source, the old value with the source's bits set, or with them cleared. -/
def Sys2Proof.Say.csrValue (a : CsrArgs) (old : Word) (s : State) : Word :=
  let src := match a.src with
    | .reg r => readX s r
    | .imm u => u.zeroExtend 64
  match a.op with
  | .rw => src
  | .rs => old ||| src
  | .rc => old &&& ~~~src

/-- The CSR instruction gives rd the old value and the register its new one, made by `f`, and changes nothing else. -/
def Sys2Proof.Say.CsrSets (i : Instr) (a : CsrArgs) (s : State) (old : Word) (f : Word → State → State) : Prop :=
  exec i s = .next (adv (writeX a.rd old (f (Say.csrValue a old s) s)))

/-- The instruction is illegal. -/
def Sys2Proof.Say.Illegal (i : Instr) (s : State) : Prop := exec i s = .next (takeTrap 2 (Say.wordOf i) s)

/-- dtvec as a write stores it: a MODE of 2 or 3 stores 0 there (R242). -/
def Sys2Proof.Say.vectorOf (v : Word) : Word :=
  if v.extractLsb' 0 2 = 2 ∨ v.extractLsb' 0 2 = 3 then v.extractLsb' 2 62 ++ 0#2 else v

/-- Writes of the CSRs that a context or a bank holds and U-mode may write: dtvec (a MODE of 2 or 3 stores 0), dtpc, dtcause, dtval, dtstat
(CTX, HM and PEND stay), dcksum (which also starts the next CPYK pushed), dinject (a 1 clears FIRED), dhstack and dhstksz. That a CSRRS or CSRRC of another bit
writes a FIRED of 1 back and so clears it is the choice of log 96. -/
def Sys2Proof.Say.UserCsrWrites : Prop :=
  ∀ (a : CsrArgs) (s : State),
    let c := s.core.cx
    let b := s.core.bank
    let stat := (c.dtstat &&& ~~~0x3F#64) ||| (0#58 ++ BitVec.ofBool c.pend ++ BitVec.ofBool c.hm ++ BitVec.ofNat 4 c.id)
    Say.CsrSets (.dtvecWrite a) a s c.dtvec (fun v => modCx fun c => { c with dtvec := Say.vectorOf v })
    ∧ Say.CsrSets (.csrWrite a 0x811) a s c.dtpc (fun v => modCx fun c => { c with dtpc := v.extractLsb' 2 62 ++ 0#2 })
    ∧ Say.CsrSets (.csrWrite a 0x812) a s c.dtcause (fun v => modCx fun c => { c with dtcause := 0#55 ++ v.extractLsb' 0 9 })
    ∧ Say.CsrSets (.csrWrite a 0x813) a s c.dtval (fun v => modCx fun c => { c with dtval := v })
    ∧ Say.CsrSets (.csrWrite a 0x814) a s stat (fun v => modCx fun c => { c with dtstat := v.extractLsb' 6 58 ++ c.dtstat.extractLsb' 0 6 })
    ∧ Say.CsrSets (.dcksumWrite a) a s (b.dcksum.zeroExtend 64) (fun v => modBank fun b =>
        { b with dcksum := v.extractLsb' 0 32, ckStart := some (v.extractLsb' 0 32) })
    ∧ Say.CsrSets (.dinjectWrite a) a s
        (0#32 ++ b.dinject.off ++ 0#3 ++ b.dinject.bit ++ BitVec.ofBool b.dinject.fired ++ BitVec.ofBool b.dinject.arm)
        (fun v => modBank fun b => { b with dinject := { arm := v.getLsbD 0, fired := b.dinject.fired && !v.getLsbD 1,
                                                         bit := v.extractLsb' 2 3, off := v.extractLsb' 8 24 } })
    ∧ Say.CsrSets (.csrWrite a 0x803) a s b.dhstack (fun v => modBank fun b => { b with dhstack := v.extractLsb' 4 60 ++ 0#4 })
    ∧ Say.CsrSets (.csrWrite a 0x804) a s b.dhstksz (fun v => modBank fun b => { b with dhstksz := 0#32 ++ v.extractLsb' 4 28 ++ 0#4 })

/-- The pool layouts that R115 allows. -/
def Sys2Proof.Say.PoolLayout (b0 b1 b2 : Nat) : Prop :=
  (∃ ns, 2 ≤ ns ∧ ns ≤ 22 ∧ b0 = 5120 * ns) ∧ (∃ k, k ≤ 4 ∧ b1 = b0 + 32 * (1024 * k))
    ∧ b2 % 65536 = 0 ∧ 393216 ≤ b2 ∧ b2 ≤ 917504

/-- Writes that M-mode alone may make: the pool boundaries (unchanged by a write that breaks R115), dmemb, the scheduling registers with
their floors, dsave0 and dsave1, and the clearing of YEV. In U-mode each is an illegal instruction, and so is a write of dnclk in any mode. That a CSRRS or CSRRC of another bit clears YEV is the choice of log 96. -/
def Sys2Proof.Say.MachineCsrWrites : Prop :=
  ∀ (a : CsrArgs) (s : State),
    let c := s.core
    let b := c.bank
    let bound := fun (v : Word) => (v.extractLsb' 0 21).toNat
    let atLeast := fun (v : Word) => if (v.extractLsb' 0 32).toNat < 1024 then 1024#32 else v.extractLsb' 0 32
    (c.priv = .m →
      (∃ t, exec (.dpoolbWrite a 0) s = .next (adv (writeX a.rd (BitVec.ofNat 64 c.dpoolb0) t))
          ∧ (Say.PoolLayout (bound (Say.csrValue a (BitVec.ofNat 64 c.dpoolb0) s)) c.dpoolb1 c.dpoolb2 →
              t = modCore (fun c => { c with dpoolb0 := bound (Say.csrValue a (BitVec.ofNat 64 c.dpoolb0) s) }) s)
          ∧ (¬Say.PoolLayout (bound (Say.csrValue a (BitVec.ofNat 64 c.dpoolb0) s)) c.dpoolb1 c.dpoolb2 → t = s))
      ∧ (∃ t, exec (.dpoolbWrite a 1) s = .next (adv (writeX a.rd (BitVec.ofNat 64 c.dpoolb1) t))
          ∧ (Say.PoolLayout c.dpoolb0 (bound (Say.csrValue a (BitVec.ofNat 64 c.dpoolb1) s)) c.dpoolb2 →
              t = modCore (fun c => { c with dpoolb1 := bound (Say.csrValue a (BitVec.ofNat 64 c.dpoolb1) s) }) s)
          ∧ (¬Say.PoolLayout c.dpoolb0 (bound (Say.csrValue a (BitVec.ofNat 64 c.dpoolb1) s)) c.dpoolb2 → t = s))
      ∧ (∃ t, exec (.dpoolbWrite a 2) s = .next (adv (writeX a.rd (BitVec.ofNat 64 c.dpoolb2) t))
          ∧ (Say.PoolLayout c.dpoolb0 c.dpoolb1 (bound (Say.csrValue a (BitVec.ofNat 64 c.dpoolb2) s)) →
              t = modCore (fun c => { c with dpoolb2 := bound (Say.csrValue a (BitVec.ofNat 64 c.dpoolb2) s) }) s)
          ∧ (¬Say.PoolLayout c.dpoolb0 c.dpoolb1 (bound (Say.csrValue a (BitVec.ofNat 64 c.dpoolb2) s)) → t = s))
      ∧ Say.CsrSets (.dmembWrite a) a s c.dmemb (fun v => modCore fun c => { c with dmemb := 0#32 ++ v.extractLsb' 0 32 })
      ∧ Say.CsrSets (.schedCsrWrite a 0) a s (b.dquantum.zeroExtend 64) (fun v => modBank fun b => { b with dquantum := atLeast v })
      ∧ Say.CsrSets (.schedCsrWrite a 1) a s (b.dyield.zeroExtend 64) (fun v => modBank fun b => { b with dyield := v.extractLsb' 0 32 })
      ∧ Say.CsrSets (.schedCsrWrite a 2) a s (b.dbalwin.zeroExtend 64) (fun v => modBank fun b => { b with dbalwin := atLeast v })
      ∧ Say.CsrSets (.csrWrite a 0x7C1) a s c.dsave0 (fun v => modCore fun c => { c with dsave0 := 0#12 ++ v.extractLsb' 7 45 ++ 0#7 })
      ∧ Say.CsrSets (.csrWrite a 0x7C2) a s c.dsave1 (fun v => modCore fun c => { c with dsave1 := 0#12 ++ v.extractLsb' 7 45 ++ 0#7 })
      ∧ Say.CsrSets (.dbankYevClear a) a s (dbankOf c) (fun v => modCore fun c => { c with yev := c.yev && !v.getLsbD 5 }))
    ∧ (c.priv ≠ .m → ∀ i ∈ [Instr.dpoolbWrite a 0, .dpoolbWrite a 1, .dpoolbWrite a 2, .dmembWrite a, .schedCsrWrite a 0, .schedCsrWrite a 1,
        .schedCsrWrite a 2, .csrWrite a 0x7C1, .csrWrite a 0x7C2, .dbankYevClear a], Say.Illegal i s)
    ∧ Say.Illegal (.csrWrite a 0x80B) s

/-- Reads: fcsr and its fields, cycle, time and instret, and each device CSR gives rd its value and changes nothing else, dinject (R340),
dnclk (R338, the clock of the core's grove) and, in M-mode, dbank (R341), dsave0 and dsave1 (R342) field by field; writes of fflags, frm
and fcsr; in U-mode every register that M-mode alone may access, and a register that does not exist, is illegal. -/
def Obligations.CsrReadsAndFcsr : Prop :=
  ∀ (a : CsrArgs) (n : BitVec 12) (s : State),
    let c := s.core.cx
    let k := s.core
    let b := k.bank
    let reads := fun (m : BitVec 12) (v : Word) => a.writes = false →
      ∃ t, exec (.rv64Instruction (.csr a m)) s = .next t ∧ Say.SetsX a.rd v s t
    reads 0x001 (c.fflags.zeroExtend 64) ∧ reads 0x002 (c.frm.zeroExtend 64)
    ∧ reads 0x003 (0#56 ++ c.frm ++ c.fflags)
    ∧ reads 0xC00 (BitVec.ofNat 64 (k.cycles - b.bindCycle)) ∧ reads 0xC01 (BitVec.ofNat 64 s.pkg.time) ∧ reads 0xC02 c.instret
    ∧ reads 0x800 (BitVec.ofNat 64 k.dpoolb0) ∧ reads 0x801 (BitVec.ofNat 64 k.dpoolb1) ∧ reads 0x802 (BitVec.ofNat 64 k.dpoolb2)
    ∧ reads 0x803 b.dhstack ∧ reads 0x804 b.dhstksz ∧ reads 0x805 (b.dquantum.zeroExtend 64) ∧ reads 0x806 (b.dyield.zeroExtend 64)
    ∧ reads 0x807 (b.dbalwin.zeroExtend 64) ∧ reads 0x808 k.dmemb ∧ reads 0x809 (b.dcksum.zeroExtend 64)
    ∧ reads 0x810 c.dtvec ∧ reads 0x811 c.dtpc ∧ reads 0x812 c.dtcause ∧ reads 0x813 c.dtval
    ∧ reads 0x814 ((c.dtstat &&& ~~~0x3F#64) ||| (0#58 ++ BitVec.ofBool c.pend ++ BitVec.ofBool c.hm ++ BitVec.ofNat 4 c.id))
    ∧ reads 0x80A (0#32 ++ b.dinject.off ++ 0#3 ++ b.dinject.bit ++ BitVec.ofBool b.dinject.fired ++ BitVec.ofBool b.dinject.arm)
    ∧ (let r := rclkOf s (groveOf k.num)
       reads 0x80B (0#52 ++ BitVec.ofBool r.relock ++ BitVec.ofNat 11 r.current))
    ∧ (k.priv = .m →
        reads 0x7C0 (0#57 ++ BitVec.ofBool k.mwsw ++ BitVec.ofBool k.yev ++ BitVec.ofBool (k.bankOf true).spilled
            ++ BitVec.ofBool (k.bankOf false).spilled ++ BitVec.ofBool (k.bankOf true).bound.isSome
            ++ BitVec.ofBool (k.bankOf false).bound.isSome ++ BitVec.ofBool k.bank.num)
        ∧ reads 0x7C1 k.dsave0 ∧ reads 0x7C2 k.dsave1)
    ∧ (a.writes = true →
        Say.CsrSets (.rv64Instruction (.csr a 0x001)) a s (c.fflags.zeroExtend 64) (fun v => modCx fun c => { c with fflags := v.extractLsb' 0 5 })
        ∧ Say.CsrSets (.rv64Instruction (.csr a 0x002)) a s (c.frm.zeroExtend 64) (fun v => modCx fun c => { c with frm := v.extractLsb' 0 3 })
        ∧ Say.CsrSets (.rv64Instruction (.csr a 0x003)) a s (0#56 ++ c.frm ++ c.fflags)
            (fun v => modCx fun c => { c with frm := v.extractLsb' 5 3, fflags := v.extractLsb' 0 5 }))
    ∧ (k.priv ≠ .m → n.extractLsb' 8 2 = 3 → Say.Illegal (.rv64Instruction (.csr a n)) s)
    ∧ (csrRead s n = none → Say.Illegal (.rv64Instruction (.csr a n)) s)

/-- CSR writes in U-mode (R116, R337) and in M-mode (R337, R342; the machine CSRs are the choice of log 9). -/
def Obligations.CsrWrites : Prop := Say.UserCsrWrites ∧ Say.MachineCsrWrites
/-! ### Scalar memory, atomics and ordering (chapters 7, 10 and 14) -/

/-- A read that leads to a place and that nothing holds up: a translation at hand (R144), no range lock (R135), no poison under it (R157),
no earlier write of the core and no held write at the slice of its line (R142, R208), and on a DEVICE page no other access under way (R145);
the bytes stay in one line. -/
def Sys2Proof.Say.Open (s : State) (va : Word) (n : Nat) (acc : Acc) (p : Place) : Prop :=
  locked s.core va n = false ∧ tlbMiss s va acc = false ∧ p.loc ≠ .host ∧ poisoned s p.key n = false
    ∧ (p.loc = .dram → p.ty = .cached → l1Poison s p.key = false) ∧ behind s (lineOf p.key) = false
    ∧ (p.ty = .device → devBusy s = false) ∧ p.key % 128 + n ≤ 128 ∧ va.toNat % 128 + n ≤ 128

/-- Byte `j` of a line of 128 B. -/
def Sys2Proof.Say.byteOf (d : BitVec 1024) (j : Nat) : Byte := d.extractLsb' (8 * j) 8

/-- The bytes at a place as a read that stays in the core sees them: those of its L1, where they stand there, else those of its pool (R140). -/
def Sys2Proof.Say.seen (s : State) (p : Place) (n : Nat) : List Byte :=
  match p.loc, l1Find s.core (lineOf p.key) with
  | .dram, some x => (List.range n).map fun i => Say.byteOf x.data (p.key % 128 + i)
  | _, _ => memRead s.mem p.key n

/-- The bytes of a line that a slice has sent, under the bytes that are dirty in the core's own L1 where the page is CACHED (R140, R151). -/
def Sys2Proof.Say.sent (s : State) (p : Place) (n : Nat) (d : BitVec 1024) : List Byte :=
  (List.range n).map fun i => match p.ty, l1Find s.core (lineOf p.key) with
    | .cached, some x => Say.byteOf (if x.dirty.getLsbD (p.key % 128 + i) then x.data else d) (p.key % 128 + i)
    | _, _ => Say.byteOf d (p.key % 128 + i)

/-- The state in which a context sends the requests of a new access: they have a number of their own (log 6). -/
def Sys2Proof.Say.asking (s : State) : State :=
  modCore (fun c => { c with askNo := c.askNo + 1, cx := { c.cx with asks := c.askNo + 1, got := [] } }) s

/-- Whether a read at a place leaves the core: not for its own scratchpad, nor for a CACHED line whose bytes stand in L1 (R99, R140). -/
def Sys2Proof.Say.leaves (s : State) (p : Place) (n : Nat) : Bool :=
  match p.loc with
  | .own => false
  | .dram => !(p.ty == .cached && l1Hit s p.key n)
  | _ => true

/-- Bytes of a scalar load or store. -/
def Sys2Proof.Say.loadBytes : LoadKind → Nat
  | .lb | .lbu => 1 | .lh | .lhu => 2 | .lw | .lwu | .flw => 4 | .ld | .fld => 8

/-- What a scalar load does with its value: it extends it into an x register, or boxes it in an f register. -/
def Sys2Proof.Say.loaded (k : LoadKind) (rd : RegNo) (v : Nat) : State → State :=
  match k with
  | .lb => writeX rd ((BitVec.ofNat 8 v).signExtend 64) | .lbu => writeX rd ((BitVec.ofNat 8 v).zeroExtend 64)
  | .lh => writeX rd ((BitVec.ofNat 16 v).signExtend 64) | .lhu => writeX rd ((BitVec.ofNat 16 v).zeroExtend 64)
  | .lw => writeX rd ((BitVec.ofNat 32 v).signExtend 64) | .lwu => writeX rd ((BitVec.ofNat 32 v).zeroExtend 64)
  | .ld => writeX rd (BitVec.ofNat 64 v)
  | .flw => writeF rd (0xFFFFFFFF#32 ++ BitVec.ofNat 32 v) | .fld => writeF rd (BitVec.ofNat 64 v)

/-- LOAD: the bytes at base plus offset, extended, go to rd; memory and the other registers stay. A read that leaves the core first makes
the context wait for its data, and completes once they have come (R99): with the line that the slice sent, under the core's own dirty bytes,
or with what stands at a place that no slice holds; it asks again for a line that it has not got. A load crosses no line (cause 4), touches no
locked range (0x20), waits for a translation that its TLB lacks (R144, R424), and traps with the cause of its translation; a read of host
space waits for the context's own stores there, then for the host, and traps with cause 5 on the host's error. -/
def Sys2Proof.Say.ScalarLoads : Prop :=
  ∀ (k : LoadKind) (rd rs1 : RegNo) (imm : BitVec 12) (s : State) (p : Place),
    let va := readX s rs1 + imm.signExtend 64
    let n := Say.loadBytes k
    let i := Instr.load k rd rs1 imm
    let loads := fun (bs : List Byte) => ∃ u, exec i s = .next u ∧ u.mem = s.mem ∧ u.core.bank = s.core.bank
      ∧ u.core.cx = (adv (Say.loaded k rd (natOfBytes bs) s)).core.cx
    let asks := exec i s = .next (waitFor .remote (askLoad true p .dflt (Say.asking s)))
    (resolve s va n .read = .ok p → Say.Open s va n .read p → Say.leaves s p n = false → loads (Say.seen s p n))
    ∧ (resolve s va n .read = .ok p → Say.Open s va n .read p → Say.leaves s p n = true →
        (s.core.cx.ans = none → asks)
        ∧ (s.core.cx.ans ≠ none → p.loc = .dram →
            (∀ d, gotLine s (lineOf p.key) = some d → loads (Say.sent s p n d)) ∧ (gotLine s (lineOf p.key) = none → asks))
        ∧ (s.core.cx.ans ≠ none → p.loc ≠ .dram → loads (memRead s.mem p.key n)))
    ∧ (va.toNat % 128 + n > 128 → exec i s = .next (takeTrap 4 va s))
    ∧ (va.toNat % 128 + n ≤ 128 → locked s.core va n = true → exec i s = .next (takeTrap 0x20 va s))
    ∧ (va.toNat % 128 + n ≤ 128 → locked s.core va n = false →
        (tlbMiss s va .read = true → s.core.cx.ans = none → exec i s = .next (waitFor (.walk va) (enterWalk va s)))
        ∧ (tlbMiss s va .read = false ∨ s.core.cx.ans ≠ none → ∀ c, resolve s va n .read = .error c → exec i s = .next (takeTrap c va s))
        ∧ (tlbMiss s va .read = false → resolve s va n .read = .ok p → p.loc = .own → poisoned s p.key n = true →
            exec i s = .next (takeTrap 0x25 va s))
        ∧ (tlbMiss s va .read = false → resolve s va n .read = .ok p → p.loc = .host →
            (s.core.cx.ans = none → hostBusy s = true → exec i s = .next (waitFor .stores s))
            ∧ (s.core.cx.ans = none → hostBusy s = false → bankOfKey p.key = none → (p.ty = .device → devBusy s = false) →
                exec i s = .next (waitFor .host (askLoad true p .dflt (Say.asking s))))
            ∧ (∀ e, s.core.cx.ans = some e →
                (e.getLsbD 0 = true → exec i s = .next (takeTrap 5 va s))
                ∧ (e.getLsbD 0 = false → bankOfKey p.key = none → (p.ty = .device → devBusy s = false) → hostBusy s = false →
                    poisoned s p.key n = false →
                    ∃ u, exec i s = .next u ∧ u.mem = s.mem
                      ∧ u.core.cx = (adv (Say.loaded k rd (memNat s.mem p.key n) s)).core.cx))))

/-- Bytes and data of a scalar store. -/
def Sys2Proof.Say.storeBytes : StoreKind → Nat
  | .sb => 1 | .sh => 2 | .sw | .fsw => 4 | .sd | .fsd => 8

/-- The data of a scalar store. -/
def Sys2Proof.Say.stored (s : State) (k : StoreKind) (rs2 : RegNo) : Word :=
  match k with
  | .sb | .sh | .sw | .sd => readX s rs2
  | .fsw | .fsd => readF s rs2

/-- STORE: the bytes go to the place base plus offset leads to, no register changing. In the own scratchpad they are performed, no other byte
changing, and end every reservation of the line (R281). On a CACHED page of device DRAM they stand in L1, valid and dirty, and memory stays;
elsewhere off the core they leave for their slice, and memory stays until they are merged there. A store that fails late completes and leaves
a record (R247); one to host space is under way until the host has taken it (R74). One to a DEVICE page keeps the issue slot while an earlier
such store is under way the other way (R99, R145). -/
def Sys2Proof.Say.ScalarStores : Prop :=
  ∀ (k : StoreKind) (rs2 rs1 : RegNo) (imm : BitVec 12) (s : State) (p : Place),
    let va := readX s rs1 + imm.signExtend 64
    let n := Say.storeBytes k
    let bytes := bytesOfNat n (Say.stored s k rs2).toNat
    let i := Instr.store k rs2 rs1 imm
    let late := fun (l : Late) => modCx (fun x => { x with late := x.late ++ [l] }) (adv s)
    let rec1 := fun (c : BitVec 8) =>
      (⟨va, BitVec.ofNat 64 ((Say.stored s k rs2).toNat % 256 ^ n), s.core.cx.pc, c, BitVec.ofNat 4 n, 0, 0, 0, 0, false⟩ : Rec)
    (va.toNat % 128 + n > 128 → exec i s = .next (takeTrap 6 va s))
    ∧ (va.toNat % 128 + n ≤ 128 → locked s.core va n = true → exec i s = .next (takeTrap 0x20 va s))
    ∧ (va.toNat % 128 + n ≤ 128 → locked s.core va n = false →
        (∀ c, resolve s va n .write = .error c → exec i s = .next (late ⟨some (0, rec1 c), []⟩))
        ∧ (resolve s va n .write = .ok p → poisoned s p.key n = true → exec i s = .next (late ⟨some (0, rec1 0x25), []⟩))
        ∧ (resolve s va n .write = .ok p → poisoned s p.key n = false → (p.loc = .dram → p.ty = .cached → l1Poison s p.key = false) →
            (p.ty = .device → (p.loc = .host → (∃ w ∈ writesOf s s.core.num, w.dev = true) ∨ s.ms.heldW ≠ []) →
              (p.loc ≠ .host → hostBusy s = true) → exec i s = .next s)
            ∧ ((p.ty = .device → devBusy s = false) → p.key % 128 + n ≤ 128 →
            ∃ t, exec i s = .next t ∧ t.core.bank.ctxs.map Say.bare = s.core.bank.ctxs.map Say.bare
              ∧ (p.loc ≠ .host → Say.bare t.core.cx = Say.bare (adv s).core.cx)
              ∧ (p.loc = .own → lineHeld s (lineOf p.key) = false →
                  t.mem = memWrite s.mem p.key bytes ∧ t.resv = s.resv.filter fun r => r.line != lineOf p.key)
              ∧ (p.loc ≠ .own → t.mem = s.mem ∧ t.resv = s.resv)
              ∧ (p.loc = .dram → p.ty = .cached → l1Hit t p.key n = true ∧ Say.seen t p n = bytes
                  ∧ ∃ x, l1Find t.core (lineOf p.key) = some x ∧ x.dirty &&& spanMask (p.key % 128) n = spanMask (p.key % 128) n)
              ∧ (p.loc ≠ .own → p.loc ≠ .host → ¬(p.loc = .dram ∧ p.ty = .cached) → writesOf t s.core.num = writesOf s s.core.num
                  ++ [⟨lineOf p.key, lineData p.key bytes, spanMask (p.key % 128) n, placing p .dflt, p.ty == .device, false,
                    some ⟨s.core.bank.num, s.core.cx.id, rec1 0x25, s.core.cx.instret + 1⟩⟩])
              ∧ (p.loc = .host → t.core.cx = (late ⟨none, [⟨0, rec1 7,
                  (List.range n).map fun j => (p.key + j, bytes.getD j 0)⟩]⟩).core.cx))))

/-- The state that an access which releases at a scope is sent from: with every dirty shared byte written back, unless the scope is CORE, or
the release is lazy (R141, R210). -/
def Sys2Proof.Say.released (rel : Option Scope) (line : Nat) (s : State) : State :=
  match rel with
  | none => s
  | some sc => if sc = .core ∨ lazyAt sc line = true then s else writeBackShared s

/-- Nothing holds up an access at its home: no release is recorded against the line of an acquire (R141), and no earlier write of the core, no
replica and no held write stands before it (R142, R154, R208). -/
def Sys2Proof.Say.Clear (acq : Bool) (p : Place) (s : State) : Prop :=
  (acq = true → needsFlush s (lineOf p.key) = false) ∧ behind s (lineOf p.key) = false ∧ lineHeld s (lineOf p.key) = false
    ∧ (p.ty = .device → devBusy s = false)

/-- An instruction that reads `n` bytes at a place, sign-extends them into rd and writes `f` of them there, in one step. One that releases waits
first until the earlier writes have been performed; one whose place lies off the core is sent there first, and completes when the answer has
come (R99, R142). One that acquires at a scope other than CORE leaves no clean byte of a shared line in L1 (R210, R212). -/
def Sys2Proof.Say.Swaps (i : Instr) (s : State) (va : Word) (n : Nat) (acq rel : Option Scope) (f : Nat → Nat) (rd : RegNo) : Prop :=
  ∀ p, va.toNat % n = 0 → locked s.core va n = false → tlbMiss s va .amo = false → resolve s va n .amo = .ok p → p.loc ≠ .host →
    let b := Say.released rel (lineOf p.key) s
    let done := fun (x : State) => poisoned s p.key n = false → Say.Clear acq.isSome p x →
      ∃ u, exec i s = .next u
        ∧ Say.bare u.core.cx = Say.bare (adv (writeX rd ((BitVec.ofNat (8 * n) (memNat s.mem p.key n)).signExtend 64) s)).core.cx
        ∧ Say.Wrote (memWrite s.mem p.key (bytesOfNat n (f (memNat s.mem p.key n)))) s u ∧ (∀ r ∈ u.resv, r.line ≠ lineOf p.key)
        ∧ (∀ sc, acq = some sc → sc ≠ .core → ∀ l ∈ u.core.l1, l.cls = .shared → l.valid &&& ~~~l.dirty = 0)
    (s.core.cx.ans = none → rel ≠ none → storesOut b = true → exec i s = .next (waitFor .stores b))
    ∧ (s.core.cx.ans = none → (rel ≠ none → storesOut b = false) →
        (p.loc ≠ .own → exec i s = .next (waitFor .remote (askHome p (Say.asking (flushOwn p b))))) ∧ (p.loc = .own → done b))
    ∧ (s.core.cx.ans ≠ none → done (flushOwn p s))

/-- The standard AMO operations on `n`-bit values. -/
def Sys2Proof.Say.amoOf (op : AmoOp) {n : Nat} (m o : BitVec n) : BitVec n :=
  match op with
  | .swap => o | .add => m + o | .xor => m ^^^ o | .and => m &&& o | .or => m ||| o
  | .min => if m.sle o then m else o | .max => if m.sle o then o else m
  | .minu => if m ≤ o then m else o | .maxu => if m ≤ o then o else m

/-- The AMOX operations on the old value, the operand and the compare value (R334). -/
def Sys2Proof.Say.amoxOf (op : AmoxOp) (m o cmp : Nat) : Nat :=
  let w : W32 := BitVec.ofNat 32 m
  let v : W32 := BitVec.ofNat 32 o
  let d : Word := BitVec.ofNat 64 m
  let e : Word := BitVec.ofNat 64 o
  match op with
  | .addI32 => (w + v).toNat | .addI64 => (d + e).toNat
  | .minI32 => if w.sle v then m else o | .minI64 => if d.sle e then m else o
  | .maxI32 => if w.sle v then o else m | .maxI64 => if d.sle e then o else m
  | .and64 => (d &&& e).toNat | .or64 => (d ||| e).toNat | .xor64 => (d ^^^ e).toNat
  | .swap32 | .swap64 => o
  | .cas64 => if m = cmp then o else m
  | .addF32 => (finishF ff32 .rne (addF .rne [decodeF ff32 m, decodeF ff32 o])).1
  | .addBf16x2 =>
    let half := fun (x y : Nat) => (finishF ffbf .rne (addF .rne [decodeF ffbf x, decodeF ffbf y])).1
    half (m % 65536) (o % 65536) + 65536 * half (m / 65536) (o / 65536)
  | .fminF32 => (minmaxF ff32 false m o).1
  | .fmaxF32 => (minmaxF ff32 true m o).1

/-- Bytes of an AMOX operation (R334). -/
def Sys2Proof.Say.amoxBytes : AmoxOp → Nat
  | .addI32 | .addF32 | .addBf16x2 | .minI32 | .maxI32 | .swap32 | .fminF32 | .fmaxF32 => 4
  | _ => 8

/-- AMO and AMOX: one indivisible read-modify-write at the place, rd taking the old value sign-extended. AMO acquires with aq and releases
with rl at PKG scope, AMOX does both at the scope it names. A misaligned address traps with cause 6, a locked range with 0x20. -/
def Obligations.AtomicReadModifyWrites : Prop :=
  ∀ (op : AmoOp) (ox : AmoxOp) (dbl aq rl : Bool) (sc : Scope) (rd rs1 rs2 : RegNo) (s : State),
    let n := if dbl then 8 else 4
    let a := readX s rs1
    let amo := Instr.amo op dbl aq rl rd rs1 rs2
    let amox := Instr.amox ox sc rs2 rs1 rd
    Say.Swaps amo s a n (if aq then some .pkg else none) (if rl then some .pkg else none)
      (fun m => (Say.amoOf op (BitVec.ofNat (8 * n) m) ((readX s rs2).setWidth (8 * n))).toNat) rd
    ∧ Say.Swaps amox s a (Say.amoxBytes ox) (some sc) (some sc)
      (fun m => Say.amoxOf ox m ((readX s rs2).toNat % 256 ^ Say.amoxBytes ox) (readX s rd).toNat) rd
    ∧ (a.toNat % n ≠ 0 → exec amo s = .next (takeTrap 6 a s))
    ∧ (a.toNat % Say.amoxBytes ox ≠ 0 → exec amox s = .next (takeTrap 6 a s))
    ∧ (a.toNat % n = 0 → locked s.core a n = true → exec amo s = .next (takeTrap 0x20 a s))
    ∧ (a.toNat % Say.amoxBytes ox = 0 → locked s.core a (Say.amoxBytes ox) = true → exec amox s = .next (takeTrap 0x20 a s))

/-- LR reads and leaves the context's one reservation, of the line it read. SC with that reservation, less than 4,096 core cycles old, stores
and gives 0; without it, it stores nothing and gives 1; either way the reservation is gone. Both are made at the home slice: each is sent first
and completes when the answer has come. Anywhere but on a CACHED page of device DRAM LR traps with cause 5 and SC with cause 7 (R281). That LR with
rl writes back every dirty shared byte and waits for the earlier stores before it is sent is the model's choice (log 24, DEDUCED). -/
def Obligations.LoadReservedStoreConditional : Prop :=
  ∀ (dbl aq rl : Bool) (rd rs1 rs2 : RegNo) (s : State) (p : Place),
    let n := if dbl then 8 else 4
    let a := readX s rs1
    let line := lineOf p.key
    let mine := fun (r : Resv) => r.core = s.core.num ∧ r.bank = s.core.bank.num ∧ r.ctx = s.core.cx.id
    let b := if rl then writeBackShared s else s
    let c := if rl && !lazyAt .pkg line then writeBackShared s else s
    a.toNat % n = 0 → locked s.core a n = false →
    (tlbMiss s a .read = false → resolve s a n .read = .ok p →
      (¬(p.loc = .dram ∧ p.ty = .cached) → exec (.lr dbl aq rl rd rs1) s = .next (takeTrap 5 a s))
      ∧ (p.loc = .dram → p.ty = .cached →
          (s.core.cx.ans = none → rl = true → storesOut b = true → exec (.lr dbl aq rl rd rs1) s = .next (waitFor .stores b))
          ∧ (s.core.cx.ans = none → (rl = true → storesOut b = false) →
              exec (.lr dbl aq rl rd rs1) s = .next (waitFor .remote (askHome p (Say.asking (flushOwn p b)))))
          ∧ (s.core.cx.ans ≠ none → (aq = true → needsFlush s line = false) → behind (flushOwn p s) line = false → poisoned s p.key n = false →
              ∃ u, exec (.lr dbl aq rl rd rs1) s = .next u ∧ u.mem = s.mem
                ∧ u.core.cx = (adv (writeX rd ((BitVec.ofNat (8 * n) (memNat s.mem p.key n)).signExtend 64) s)).core.cx
                ∧ (∃ r ∈ u.resv, mine r ∧ r.line = line ∧ r.cycle = s.core.cycles) ∧ ∀ r ∈ u.resv, mine r → r.line = line)))
    ∧ (tlbMiss s a .write = false → resolve s a n .write = .ok p →
      (¬(p.loc = .dram ∧ p.ty = .cached) → exec (.sc dbl aq rl rd rs1 rs2) s = .next (takeTrap 7 a s))
      ∧ (p.loc = .dram → p.ty = .cached →
          (s.core.cx.ans = none → rl = true → storesOut c = true → exec (.sc dbl aq rl rd rs1 rs2) s = .next (waitFor .stores c))
          ∧ (s.core.cx.ans = none → (rl = true → storesOut c = false) →
              exec (.sc dbl aq rl rd rs1 rs2) s = .next (waitFor .remote (askHome p (Say.asking (flushOwn p c)))))
          ∧ (s.core.cx.ans ≠ none → Say.Clear aq p (flushOwn p s) →
              ((∃ r ∈ s.resv, mine r ∧ r.line = line ∧ s.core.cycles < r.cycle + 4096) → poisoned s p.key n = false →
                ∃ u, exec (.sc dbl aq rl rd rs1 rs2) s = .next u
                  ∧ Say.bare u.core.cx = Say.bare (adv (writeX rd 0 s)).core.cx ∧ Say.Wrote (memWrite s.mem p.key (bytesOfNat n (readX s rs2).toNat)) s u
                  ∧ ∀ r ∈ u.resv, ¬mine r)
              ∧ (¬(∃ r ∈ s.resv, mine r ∧ r.line = line ∧ s.core.cycles < r.cycle + 4096) →
                ∃ u, exec (.sc dbl aq rl rd rs1 rs2) s = .next u
                  ∧ u.core.cx = (adv (writeX rd 1 s)).core.cx ∧ u.mem = s.mem ∧ ∀ r ∈ u.resv, ¬mine r))))

/-- What a fence does: with W before it, it waits until every earlier store and, beyond CORE, every dirty byte of a shared line has been
performed or recorded; then it retires, with no write of the core under way; with R after it, beyond CORE, no clean byte of a shared line
stays (R210). -/
def Sys2Proof.Say.Fences (i : Instr) (predW succR : Bool) (sc : Scope) (s : State) : Prop :=
  let b := if predW = true ∧ sc ≠ .core then writeBackShared s else s
  (predW = true → storesOut b = true → exec i s = .next (waitFor .stores b))
  ∧ ((predW = true → storesOut b = false) →
      ∃ t, exec i s = .next t ∧ t.mem = s.mem ∧ t.core.cx = (adv s).core.cx
        ∧ (predW = true → t.core.cx.late = [] ∧ writesOut t s.core.num = false ∧ t.ms.heldW = [])
        ∧ (predW = true → sc ≠ .core → ∀ l ∈ t.core.l1, l.cls = .shared → l.dirty = 0)
        ∧ (succR = true → sc ≠ .core → ∀ l ∈ t.core.l1, l.cls = .shared → l.valid &&& ~~~l.dirty = 0))

/-- FENCE and FENCE.TSO at PKG scope, I and O counting as R and W, and FENCES at the scope it names; one whose set is empty only goes on.
FENCE.I and DRAINS wait until every earlier store of the context and every write-back has been performed or recorded; after DRAINS, with a
record, 0x23 is due, unless in handler mode (R250). -/
def Sys2Proof.Say.FencesAndDrains : Prop :=
  ∀ (fm p q : BitVec 4) (pr su : BitVec 2) (sc : Scope) (imm : BitVec 12) (rs1 rd : RegNo) (s : State),
    ((p = 0 ∨ q = 0) → exec (.fence fm p q rs1 rd) s = .next (adv s))
    ∧ (p ≠ 0 → q ≠ 0 → Say.Fences (.fence fm p q rs1 rd) (p.getLsbD 0 || p.getLsbD 2) (q.getLsbD 1 || q.getLsbD 3) .pkg s)
    ∧ Say.Fences (.fenceTso rs1 rd) true true .pkg s
    ∧ ((pr = 0 ∨ su = 0) → exec (.fences pr su sc) s = .next (adv s))
    ∧ (pr ≠ 0 → su ≠ 0 → Say.Fences (.fences pr su sc) (pr.getLsbD 0) (su.getLsbD 1) sc s)
    ∧ (storesOut s = true → ∀ i ∈ [Instr.fenceI imm rs1 rd, .drains], exec i s = .next (waitFor .stores s))
    ∧ (storesOut s = false → exec (.fenceI imm rs1 rd) s = .next (adv s)
        ∧ exec .drains s = .next (modCx (fun c => { c with must23 := !c.recs.isEmpty && !c.hm }) (adv s)))

/-- LDACQ reads at the home slice, never from L1, and acquires; it is sent first and completes when the answer has come. STREL waits as DRAINS
does, releases, and is performed at its place. A misaligned address traps with cause 4 or 6, a locked range with 0x20; LDACQ traps with the
cause of its translation, while a STREL that will fail leaves a record. -/
def Obligations.AcquireAndReleaseAccesses : Prop :=
  ∀ (z : Size) (sc : Scope) (rs2 rs1 rd : RegNo) (s : State) (p : Place),
    let n := sizeBytes z
    let a := readX s rs1
    let ld := Instr.ldacq z sc rs1 rd
    let st := Instr.strel z sc rs2 rs1
    let line := lineOf p.key
    let b := Say.released (some sc) line (flushOwn p s)
    let reads := fun (x : State) => (needsFlush s line = false ∧ behind x line = false ∧ (p.ty = .device → devBusy x = false)) →
      poisoned s p.key n = false → ∃ u, exec ld s = .next u ∧ u.mem = s.mem
        ∧ u.core.cx = (adv (writeX rd ((BitVec.ofNat (8 * n) (memNat s.mem p.key n)).signExtend 64) s)).core.cx
        ∧ (sc ≠ .core → ∀ l ∈ u.core.l1, l.cls = .shared → l.valid &&& ~~~l.dirty = 0)
    (a.toNat % n ≠ 0 → exec ld s = .next (takeTrap 4 a s) ∧ exec st s = .next (takeTrap 6 a s))
    ∧ (a.toNat % n = 0 → locked s.core a n = true → exec ld s = .next (takeTrap 0x20 a s) ∧ exec st s = .next (takeTrap 0x20 a s))
    ∧ (a.toNat % n = 0 → locked s.core a n = false →
        (tlbMiss s a .read = false → ∀ c, resolve s a n .read = .error c → exec ld s = .next (takeTrap c a s))
        ∧ (tlbMiss s a .read = false → resolve s a n .read = .ok p → p.loc ≠ .host →
            (p.loc ≠ .own → s.core.cx.ans = none → exec ld s = .next (waitFor .remote (askHome p (Say.asking (flushOwn p s)))))
            ∧ (p.loc ≠ .own → s.core.cx.ans ≠ none → reads (flushOwn p s)) ∧ (p.loc = .own → reads s))
        ∧ (storesOut s = true → exec st s = .next (waitFor .stores s))
        ∧ (storesOut s = false → ∀ c, resolve s a n .write = .error c → exec st s = .next (modCx (fun x => { x with late := x.late
              ++ [⟨some (0, ⟨a, BitVec.ofNat 64 ((readX s rs2).toNat % 256 ^ n), s.core.cx.pc, c, BitVec.ofNat 4 n, 0, 0, 0, 0, false⟩), []⟩] })
            (adv s)))
        ∧ (storesOut s = false → resolve s a n .write = .ok p → storePoison s p n = false → p.loc ≠ .host → p.key % 128 + n ≤ 128 →
            (storesOut b = true → exec st s = .next (waitFor .stores b))
            ∧ (storesOut b = false → lineHeld s line = false →
                ∃ t, exec st s = .next t ∧ Say.bare t.core.cx = Say.bare (adv s).core.cx
                  ∧ Say.Wrote (memWrite s.mem p.key (bytesOfNat n (readX s rs2).toNat)) s t)))

/-- CFLUSH and CINV start a line's dirty bytes on their way home, and CINV drops the line; on a window, host space or a line that L1 lacks they
only go on; a locked line traps with 0x20 and a failed translation with its cause. RLQ answers which locks its range touches: bit 0 a source,
bit 1 a destination, bit 2 one of the other bank. -/
def Sys2Proof.Say.CacheOperationsAndLockQuery : Prop :=
  ∀ (sc : Scope) (rs1 rs2 rd : RegNo) (s : State) (p : Place),
    let a := readX s rs1
    let both := [Instr.cflush sc rs1, .cinv sc rs1]
    let base := BitVec.ofNat 64 (a.toNat / 128 * 128)
    (inWindow a = true → ∀ i ∈ both, exec i s = .next (adv s))
    ∧ (inWindow a = false → resolve s a 1 .read = .ok p → p.loc = .host → ∀ i ∈ both, exec i s = .next (adv s))
    ∧ (inWindow a = false → resolve s a 1 .read = .ok p → p.loc ≠ .host → locked s.core base 128 = true →
        ∀ i ∈ both, exec i s = .next (takeTrap 0x20 a s))
    ∧ (inWindow a = false → locked s.core base 128 = false → tlbMiss s a .read = false → ∀ c, resolve s a 1 .read = .error c →
        ∀ i ∈ both, exec i s = .next (takeTrap c a s))
    ∧ (inWindow a = false → resolve s a 1 .read = .ok p → p.loc ≠ .host → locked s.core base 128 = false → tlbMiss s a .read = false →
        (l1Find s.core (lineOf p.key) = none → ∀ i ∈ both, exec i s = .next (adv s))
        ∧ ∀ x, l1Find s.core (lineOf p.key) = some x → ∀ i ∈ both, ∃ t, exec i s = .next t
            ∧ Say.bare t.core.cx = Say.bare (adv s).core.cx ∧ t.mem = s.mem
            ∧ (∀ l ∈ t.core.l1, l.line = lineOf p.key → l.dirty = 0 ∧ l.owed = none ∧ i ≠ .cinv sc rs1)
            ∧ writesOf t s.core.num = if x.dirty = 0 then writesOf s s.core.num
                else writesOf s s.core.num ++ [⟨lineOf p.key, x.data, x.dirty, ⟨true, false, x.nt, x.bark⟩, false, x.poison, x.last⟩])
    ∧ ∃ t v, exec (.rlq rs2 rs1 rd) s = .next t ∧ Say.SetsX rd v s t
        ∧ let hit := fun (l : Lock) => touches (lockAddr s.core.num a) (readX s rs2).toNat l.lo l.hi = true
          (v.getLsbD 0 = true ↔ ∃ l ∈ s.core.locks, hit l ∧ l.dst = false)
          ∧ (v.getLsbD 1 = true ↔ ∃ l ∈ s.core.locks, hit l ∧ l.dst = true)
          ∧ (v.getLsbD 2 = true ↔ ∃ l ∈ s.core.locks, hit l ∧ l.bank ≠ s.core.bank.num)
          ∧ v.toNat < 8

/-- Scalar loads and scalar stores (R247, R282). -/
def Obligations.ScalarLoadsAndStores : Prop := Say.ScalarLoads ∧ Say.ScalarStores

/-- The fences and DRAINS (R210, R316, R318), and CFLUSH, CINV and RLQ (R319, R321). -/
def Obligations.FencesAndCacheOperations : Prop := Say.FencesAndDrains ∧ Say.CacheOperationsAndLockQuery
/-! ### Traps, records and stops (chapter 11) -/

/-- Taking an exception. On the handler path (a registered handler, not in handler mode, no cause 0x21) the pc, the cause, the value, PE and
frm are saved, handler mode begins with PE = 0 and the pc goes to the handler; no other register changes and no byte of memory. -/
def Obligations.TakingAnException : Prop :=
  ∀ (cause : BitVec 8) (tval : Word) (s : State),
    let c := s.core.cx
    s.core.priv ≠ .m → c.dtvec.extractLsb' 0 2 = 1 → c.hm = false → cause ≠ 0x21 →
      ∃ t, takeTrap cause tval s = t ∧ (∀ r, readX t r = readX s r) ∧ (∀ r, readV t r = readV s r) ∧ t.mem = s.mem
        ∧ t.core.cx.pc = c.dtvec.extractLsb' 2 62 ++ 0#2 ∧ t.core.cx.dtpc = c.pc.extractLsb' 2 62 ++ 0#2
        ∧ t.core.cx.dtcause = (if cause = 0x23 then 0x123 else cause.zeroExtend 64) ∧ t.core.cx.dtval = tval
        ∧ t.core.cx.dtstat.extractLsb' 6 4 = c.frm ++ BitVec.ofBool c.pe
        ∧ t.core.cx.dtstat.extractLsb' 10 54 = c.dtstat.extractLsb' 10 54
        ∧ t.core.cx.hm = true ∧ t.core.cx.pe = false ∧ t.core.cx.frm = c.frm ∧ t.core.cx.fflags = c.fflags
        ∧ t = modCx (fun _ => t.core.cx) s
        ∧ t.core.cx = { c with pc := t.core.cx.pc, dtpc := t.core.cx.dtpc, dtcause := t.core.cx.dtcause, dtval := tval, hm := true, pe := false,
                               dtstat := t.core.cx.dtstat, st := .ready, ans := none, got := [], must23 := t.core.cx.must23,
                               recs := t.core.cx.recs }

/-- What raises a trap by itself: ECALL (cause 8, value 0), EBREAK (3, the pc), an illegal word (2, its bits), a failed fetch
(its cause, the pc), and 0x23 for the current context that holds a record (the oldest record's address). Off the handler path (no handler, in
handler mode, cause 0x21) the cause and the value are saved, the bank stops and its launch halts for good. A trap in M-mode goes to mtvec (the
model's choice, log 9). -/
def Obligations.InstructionsThatTrap : Prop :=
  ∀ (bits : W32) (cause : BitVec 8) (tval : Word) (s : State),
    let c := s.core.cx
    exec .ecall s = .next (takeTrap 8 0 s)
    ∧ exec .ebreak s = .next (takeTrap 3 s.core.cx.pc s)
    ∧ exec (.illegalInstruction bits) s = .next (takeTrap 2 (bits.zeroExtend 64) s)
    ∧ exec (.instructionFetchFault cause) s = .next (takeTrap cause s.core.cx.pc s)
    ∧ (∀ r rs, s.core.cx.recs = r :: rs → s.core.cx.hm = false → s.core.cx.st ≠ .free → s.core.priv ≠ .m → s.core.bank.stopped = false →
        s.core.bank.dead = false → s.core.swap = none → haltDue s = false → exec .asyncStoreFaultTrap s = .next (takeTrap 0x23 r.va s))
    ∧ (s.core.priv ≠ .m → (c.dtvec.extractLsb' 0 2 ≠ 1 ∨ c.hm = true ∨ cause = 0x21) →
        (takeTrap cause tval s).core.bank.stopped = true
        ∧ (takeTrap cause tval s).core.cx.dtcause = (if cause = 0x23 then 0x123 else cause.zeroExtend 64)
        ∧ (takeTrap cause tval s).core.cx.dtval = tval
        ∧ ∀ bd, s.core.bank.bound = some bd → ∀ l ∈ (takeTrap cause tval s).root.launches, l.id = bd.launch → l.st = .halting ∧ l.resumable = false)
    ∧ (s.core.priv = .m → takeTrap cause tval s = modCore (fun k => { k with
        mcsr := { k.mcsr with mepc := c.pc.extractLsb' 2 62 ++ 0#2, mcause := cause.zeroExtend 64, mtval := tval, mpie := k.mcsr.mie, mie := false,
                              mpp := .m },
        cx := { c with pc := k.mcsr.mtvec.extractLsb' 2 62 ++ 0#2, st := .ready, ans := none, got := [] } }) s)

/-- HRET restores PE, frm and the pc and ends handler mode, 0x23 being due again while a record is held; outside handler mode it is an illegal
instruction, and with a bit of dtstat[63:10] set it takes 0x27 with dtstat. -/
def Obligations.ReturnFromTheHandler : Prop :=
  ∀ s : State,
    let c := s.core.cx
    (c.hm = true → c.dtstat.extractLsb' 10 54 = 0 → ∃ t, exec .hret s = .next t ∧ t = modCx (fun _ => t.core.cx) s
      ∧ t.core.cx = { c.retire with pc := c.dtpc, pe := c.dtstat.getLsbD 6, frm := c.dtstat.extractLsb' 7 3, hm := false, must23 := !c.recs.isEmpty })
    ∧ (c.hm = true → c.dtstat.extractLsb' 10 54 ≠ 0 →
        exec .hret s = .next (takeTrap 0x27 (c.dtstat.extractLsb' 6 58 ++ BitVec.ofBool c.pend ++ 1#1 ++ BitVec.ofNat 4 c.id) s))
    ∧ (c.hm = false → exec .hret s = .next (takeTrap 2 0x700B s))

/-- A store that is late ends: its elements to host space that the host takes perform, and its lowest failing element is recorded, at the end
of the 8 places, or raises the lost count, which saturates (R74, R247, R249). FLTPOP gives the oldest record in vd, as R248 lays it out, and the number that remain in rd, or −1
with vd unchanged when there is none; FLTCNT gives both counts. -/
def Obligations.StoreFaultRecords : Prop :=
  ∀ (vd rd : RegNo) (err : BitVec 128) (s : State) (r : Rec) (rs : List Rec),
    let c := s.core.cx
    (∀ l ls, c.late = l :: ls → hostOut s s.core.num s.core.bank.num c.id l = false → (∀ k, lineHeld s k = false) → (l.host = [] ∨ c.behind = 0) →
      let fails := l.bad.toList ++ (l.host.filter fun e => err.getLsbD e.idx).map fun e => (e.idx, e.fail)
      ∃ t, exec (.storeFaultRecord s.core.bank.num c.id err) s = .next t
        ∧ t.core.cx.late = ls ∧ t.core.cx.x = c.x ∧ t.core.cx.pc = c.pc
        ∧ Say.Wrote ((l.host.filter fun e => !err.getLsbD e.idx).foldl (fun m e => e.cells.foldl (fun m x => memSet m x.1 x.2) m) s.mem) s t
        ∧ (fails = [] → t.core.cx.recs = c.recs ∧ t.core.cx.lost = c.lost)
        ∧ ∀ x ∈ fails, (∀ y ∈ fails, x.1 < y.1 ∨ y = x) →
            (c.recs.length < 8 → t.core.cx.recs = c.recs ++ [x.2] ∧ t.core.cx.lost = c.lost)
            ∧ (8 ≤ c.recs.length → t.core.cx.recs = c.recs ∧ t.core.cx.lost.toNat = min (c.lost.toNat + 1) 65535))
    ∧ (c.recs = [] → ∃ t, exec (.fltpop vd rd) s = .next t ∧ Say.SetsX rd (-1) s t)
    ∧ (c.recs = r :: rs → ∃ t, exec (.fltpop vd rd) s = .next t
        ∧ t = adv (modCx (fun c => { c with x := t.core.cx.x, v := t.core.cx.v, recs := rs, must23 := c.must23 && !rs.isEmpty }) s)
        ∧ (∀ q, q ≠ rd → readX t q = readX s q) ∧ readX t rd = (if rd = 0 then 0 else BitVec.ofNat 64 rs.length)
        ∧ (∀ q, q ≠ vd → readV t q = readV s q)
        ∧ Say.lane 64 (readV t vd) 0 = r.va ∧ Say.lane 64 (readV t vd) 1 = r.data ∧ Say.lane 64 (readV t vd) 2 = r.pc
        ∧ Say.lane 64 (readV t vd) 3 = r.icount ++ 0#8 ++ r.status ++ r.queue ++ r.src ++ r.size ++ r.cause
        ∧ ∀ j, 4 ≤ j → j < 16 → Say.lane 64 (readV t vd) j = 0)
    ∧ (c.recs.length ≤ 8 → ∃ t, exec (.fltcnt rd) s = .next t
        ∧ Say.SetsX rd (0#32 ++ c.lost ++ 0#12 ++ BitVec.ofNat 4 c.recs.length) s t)

/-- Bank `b` of core `n` has stopped, and the launch `l` that it was bound to, halts for good. -/
def Sys2Proof.Say.Stopped (t : State) (b : Bool) (l : Option Nat) : Prop :=
  (t.core.bankOf b).stopped = true ∧ ∀ k, l = some k → ∀ x ∈ t.root.launches, x.id = k → x.st = .halting ∧ x.resumable = false

/-- GSTOP on a channel that is enabled and held by the active bank retires, stops the bank and halts its launch; on another it is illegal. An
uncorrectable error in a live slot, in the constant bank of a bound bank or in a queue entry stops that bank, after a swap that is under way;
one in the pool, in L1 or in a line makes the line POISON (R155, R157, R253). A halt that reaches a core stops the bank that holds its launch, active
or shadow, unless the channel it came on is no longer that bank's (R61, R254); during a swap it waits for the swap's end. The root kernel sends
a halt of a halting launch to each of its cores that neither has stopped nor has one under way. That an error in a slot during a swap is
recorded with the pc of that slot's context is the model's choice (log 39). -/
def Obligations.HaltsAndStops : Prop :=
  ∀ (k : BitVec 3) (b : Bool) (id : Nat) (s : State),
    (enOf s.core k = true → (s.core.chans[k.toNat]'k.isLt).owner = some s.core.bank.num →
      ∃ t, exec (.gstop k) s = .next t ∧ Say.Stopped t s.core.bank.num (s.core.bank.bound.map (·.launch))
        ∧ t.core.cx.pc = s.core.cx.pc + 4 ∧ t.core.cx.x = s.core.cx.x)
    ∧ (¬(enOf s.core k = true ∧ (s.core.chans[k.toNat]'k.isLt).owner = some s.core.bank.num) → Say.Illegal (.gstop k) s)
    ∧ (s.core.swap = none →
        (∀ x, s.core.ctx? b id = some x → x.st ≠ .free → ∃ t, exec (.eccFatalError (.slot b id)) s = .next t
          ∧ Say.Stopped t b ((s.core.bankOf b).bound.map (·.launch)))
        ∧ (∀ bd, (s.core.bankOf b).bound = some bd → ∃ t, exec (.eccFatalError (.constBank b)) s = .next t ∧ Say.Stopped t b (some bd.launch))
        ∧ (∀ q e, e ∈ s.core.queue q → ∃ t, exec (.eccFatalError (.sideBuffer q e.bank e.seq)) s = .next t
          ∧ Say.Stopped t e.bank ((s.core.bankOf e.bank).bound.map (·.launch))))
    ∧ (∀ w x, s.core.swap = some w → s.core.ctx? b id = some x → x.st ≠ .free → exec (.eccFatalError (.slot b id)) s
        = .next (modCore (fun c => { c with swap := some { w with fatal := w.fatal ++ [(b, ⟨2, 0x25, 0, x.pc, true⟩)] } }) s))
    ∧ (id < 1572864 → ∃ t, exec (.eccFatalError (.pool id)) s = .next t ∧ lineOf (poolKey s.core.num id) ∈ t.poison ∧ t.core = s.core ∧ t.mem = s.mem)
    ∧ (isDramKey id = true → paExists id = true → ∃ t, exec (.eccFatalError (.line id)) s = .next t ∧ lineOf id ∈ t.poison ∧ t.core = s.core
        ∧ t.mem = s.mem)
    ∧ (∃ t, exec (.eccFatalError (.l1 id)) s = .next t ∧ t = modCore (fun c => { c with l1 := t.core.l1 }) s
        ∧ ∀ l ∈ t.core.l1, l.line = id → l.poison = true)
    ∧ (∀ m ms bd, s.core.halts = m :: ms → m.terminal = true → (s.core.bankOf b).bound = some bd → m.launch = bd.launch →
        (∀ x, (s.core.bankOf (!b)).bound = some x → x.launch ≠ bd.launch) →
        (∀ c, m.chan = some c → ¬(enOf s.core c = true ∧ (s.core.chans[c.toNat]'c.isLt).owner = some b) →
          exec .haltWire s = .next (modCore (fun c => { c with halts := ms }) s))
        ∧ ((∀ c, m.chan = some c → enOf s.core c = true ∧ (s.core.chans[c.toNat]'c.isLt).owner = some b) →
          (s.core.swap = none → bd.left = false → ∃ t, exec .haltWire s = .next t ∧ (t.core.bankOf b).stopped = true ∧ t.core.halts = ms)
          ∧ ∀ w, s.core.swap = some w → exec .haltWire s
              = .next (modCore (fun c => { c with halts := ms, swap := some { w with halts := w.halts ++ [m] } }) s)))
    ∧ ∀ l o p, launch? s id = some l → l.st = .halting → l.resumable = false → l.origin = some o → p ∈ l.placed → p.core = s.core.num →
        ∀ bd, (s.core.bankOf b).bound = some bd → bd.launch = id → (∀ x, (s.core.bankOf (!b)).bound = some x → x.launch ≠ id) →
        (s.core.bankOf b).stopped = false → s.core.halts = [] →
        ∃ t, exec (.launchHalt id) s = .next t ∧ t.core = { s.core with halts := [⟨id, none, o.reason, o.cause, 0, 0, true⟩] }

/-- The context of the active bank that a switch event selects: the first ready one in the ring from current + 1 on (R98). -/
def Sys2Proof.Say.NextReady (s : State) (id : Nat) : Prop :=
  ∃ i, i < 11 ∧ id = (s.core.cx.id + 1 + i) % 11 ∧ (∃ x ∈ s.core.ctxsOf s.core.bank.num, x.id = id ∧ x.st = .ready)
    ∧ ∀ j, j < i → ∀ x ∈ s.core.ctxsOf s.core.bank.num, x.id = (s.core.cx.id + 1 + j) % 11 → x.st ≠ .ready

/-- Issue: when the quantum of the current context is spent, or it begins to wait, the next ready context in ring order becomes the current
one, with a new quantum; with none ready it stays, and the core goes on looking for one. Data that returns makes the context that waits for it ready, and an answer of the host,
which comes when its way is open, tells it for each of its requests whether that was an error. -/
def Obligations.ContextSwitches : Prop :=
  ∀ (s : State) (id : Nat),
    s.core.priv = .u → s.core.cx.id < 11 → s.core.cx.st ≠ .free → (∀ x ∈ s.core.bank.ctxs, x.id ≠ s.core.cx.id) → s.core.bank.ctxs.Pairwise (fun x y => x.id < y.id) →
    (s.core.mwsw = false → s.core.bank.dquantum.toNat ≤ s.core.bank.used →
      ∃ t, exec .quantumExpiry s = .next t ∧ t.mem = s.mem
        ∧ (Say.NextReady s id → t.core.cx.id = id ∧ t.core.bank.used = 0
            ∧ ∀ x ∈ s.core.ctxsOf s.core.bank.num, x ∈ t.core.ctxsOf t.core.bank.num)
        ∧ ((∀ i, ¬Say.NextReady s i) → t = modBank (fun b => { b with seek := true }) s))
    ∧ (∀ w, let u := modCx (fun c => { c with st := .waiting w, since := s.core.cycles, ans := if keepsAns w then c.ans else none, got := if keepsAns w then c.got else [] }) s
        (Say.NextReady u id → (waitFor w s).core.cx.id = id ∧ (waitFor w s).core.cx.st = .ready
          ∧ ∃ x ∈ (waitFor w s).core.ctxsOf s.core.bank.num, x = u.core.cx)
        ∧ ((∀ i, ¬Say.NextReady u i) → waitFor w s = modBank (fun b => { b with seek := true }) u))
    ∧ ∀ b j x err host, askedOut s s.core.num b j = false → s.core.ctx? b j = some x →
        (x.st = .waiting .remote → ∃ t, exec (.remoteDataReturn b j err host) s = .next t ∧ t.mem = s.mem
          ∧ t.core.ctx? b j = some { x with st := .ready, ans := some 0 } ∧ (b ≠ s.core.bank.num ∨ j ≠ s.core.cx.id → t.core.cx = s.core.cx))
        ∧ (x.st = .waiting .host → (∃ a ∈ hostAsked s b j, clearWay s .ext a.2 (twigOf s.core.num) = false) →
            exec (.remoteDataReturn b j err host) s = .next s)
        ∧ (x.st = .waiting .host → (∀ a ∈ hostAsked s b j, clearWay s .ext a.2 (twigOf s.core.num) = true) → ∃ t, exec (.remoteDataReturn b j err host) s = .next t
          ∧ t.mem = host.foldl (fun m c => if isHostKey c.1 then memSet m c.1 c.2 else m) s.mem
          ∧ t.core.ctx? b j = some { x with st := .ready, ans := some err }
          ∧ (∀ a ∈ t.io.asked, a ∉ hostAsked s b j)
          ∧ (b ≠ s.core.bank.num ∨ j ≠ s.core.cx.id → (∀ w, s.core.cx.st ≠ .waiting w) → t.core.cx = s.core.cx))
/-! ### Helpers, stages and swaps (R101 to R113, R306 to R310) -/

/-- A context of the active bank is live (R111). -/
def Sys2Proof.Say.Live (s : State) (id : Nat) : Prop := ∃ x ∈ s.core.ctxsOf s.core.bank.num, x.id = id ∧ x.st ≠ .free

/-- The contexts of the active bank have distinct ids below 11, in increasing order, the current one among them. -/
def Sys2Proof.Say.Ring (s : State) : Prop :=
  s.core.cx.id < 11 ∧ (∀ x ∈ s.core.bank.ctxs, x.id ≠ s.core.cx.id ∧ x.id < 11) ∧ s.core.bank.ctxs.Pairwise (fun x y => x.id < y.id)

/-- HSTART starts the lowest free helper id, with every register zero but x10, x2 and dtvec and its lost count as it stood, and gives rd its id; with no free id or no free
slot it gives −1 and starts nothing; an entry that is no multiple of 4 takes cause 0. HJOIN waits while the helper is live and gives 0, or −1
for a number that names no helper. All three, HEXIT in the control context too, are illegal where R113 says so. HLIVE reads the live mask. -/
def Sys2Proof.Say.HelperContexts : Prop :=
  ∀ (rs2 rs1 rd : RegNo) (s : State), Say.Ring s →
    let i := Instr.hstart rs2 rs1 rd
    let e := readX s rs1
    (s.core.cx.id ≠ 0 → Say.Illegal i s ∧ Say.Illegal (.hjoin rs1 rd) s)
    ∧ (s.core.cx.id = 0 → Say.Illegal .hexit s)
    ∧ (s.core.cx.id = 0 → e.extractLsb' 0 2 ≠ 0 → exec i s = .next (takeTrap 0 e s))
    ∧ (s.core.cx.id = 0 → e.extractLsb' 0 2 = 0 → ((∀ id, 1 ≤ id → id ≤ 10 → Say.Live s id) ∨ slotFree s.core = false) →
        ∃ t, exec i s = .next t ∧ Say.SetsX rd (-1) s t)
    ∧ (∀ id, s.core.cx.id = 0 → e.extractLsb' 0 2 = 0 → 1 ≤ id → id ≤ 10 → ¬Say.Live s id → (∀ j, 1 ≤ j → j < id → Say.Live s j) →
        slotFree s.core = true →
        ∃ t h, exec i s = .next t ∧ t.core.cx = (adv (writeX rd (BitVec.ofNat 64 id) s)).core.cx ∧ Say.SameMem s t
          ∧ h ∈ t.core.bank.ctxs ∧ h.id = id ∧ h.st = .ready ∧ h.pc = e ∧ h.dtvec = s.core.cx.dtvec ∧ h.pe = true ∧ h.hm = false
          ∧ h.lost = ((s.core.bank.lost.find? fun q => q.1 == id).map (·.2)).getD 0
          ∧ (∀ r : RegNo, h.x[r.toNat]'r.isLt =
              if r = 10 then readX s rs2
              else if r = 2 then (s.core.bank.dhstack + (BitVec.ofNat 64 id + 1) * s.core.bank.dhstksz).extractLsb' 4 60 ++ 0#4 else 0)
          ∧ h.f = Vector.replicate 32 0 ∧ h.v = Vector.replicate 32 0
          ∧ ∀ x ∈ s.core.bank.ctxs, x.id ≠ id → x ∈ t.core.bank.ctxs)
    ∧ (s.core.cx.id = 0 → (e.toNat = 0 ∨ 10 < e.toNat) → ∃ t, exec (.hjoin rs1 rd) s = .next t ∧ Say.SetsX rd (-1) s t)
    ∧ (s.core.cx.id = 0 → 1 ≤ e.toNat → e.toNat ≤ 10 →
        (¬Say.Live s e.toNat → ∃ t, exec (.hjoin rs1 rd) s = .next t ∧ Say.SetsX rd 0 s t)
        ∧ (Say.Live s e.toNat → exec (.hjoin rs1 rd) s = .next (waitFor (.join e.toNat) s)))
    ∧ ∃ t v, exec (.hlive rd) s = .next t ∧ Say.SetsX rd v s t ∧ ∀ id, id < 64 → (v.getLsbD id = true ↔ Say.Live s id)

/-- HEXIT waits until the helper's earlier stores have been performed or recorded (R251), and then ends it: its records have gone to the control
context, where their counts go on, it is no longer live, and a context that waits in HJOIN for it, or in STGEND, is ready. YIELD retires and is a switch event. -/
def Sys2Proof.Say.HelperExitAndYield : Prop :=
  ∀ (s : State) (next : Nat), Say.Ring s → s.core.cx.st ≠ .free → s.core.priv = .u →
    (s.core.cx.id ≠ 0 → storesOut s = true → exec .hexit s = .next (waitFor .stores s))
    ∧ (s.core.cx.id ≠ 0 → storesOut s = false → ∃ t, exec .hexit s = .next t ∧ t.mem = s.mem ∧ t.core.bank.num = s.core.bank.num
      ∧ ¬Say.Live t s.core.cx.id
      ∧ (∀ x ∈ s.core.bank.ctxs, x.st ≠ .free → Say.Live t x.id)
      ∧ (∀ x ∈ s.core.bank.ctxs, (x.st = .waiting (.join s.core.cx.id) ∨ x.st = .waiting .helpers) →
          ∃ y ∈ t.core.ctxsOf t.core.bank.num, y.id = x.id ∧ y.st = .ready)
      ∧ (∀ x ∈ s.core.bank.ctxs, x.id = 0 → x.st ≠ .free → x.recs.length ≤ 8 → ∃ y ∈ t.core.ctxsOf t.core.bank.num, y.id = 0
          ∧ y.recs.length = min 8 (x.recs.length + s.core.cx.recs.length)))
    ∧ ∃ t, exec .yield s = .next t ∧ Say.SameMem s t
      ∧ (Say.NextReady (adv s) next → t.core.cx.id = next ∧ t.core.bank.used = 0
          ∧ ∃ x ∈ t.core.ctxsOf t.core.bank.num, x = (adv s).core.cx)
      ∧ ((∀ i, ¬Say.NextReady (adv s) i) → t = modBank (fun b => { b with seek := true }) (adv s))

/-- A bank holds a launch that its core has not left. -/
def Sys2Proof.Say.Holds (b : Bank) : Prop := b.dead = false ∧ ∃ d, b.bound = some d ∧ d.left = false

/-- STGEND, once no helper is live and its earlier stores have been performed or recorded, first takes 0x23 for a record that is held, and then
ends the stage: the core's context is free, the bank is free for placement if it has no command left, and a launch in the shadow bank takes
the core. STGBIND moves the core to the stage that was delivered: x10 and x11 and the pc are those of that stage, and the core is a member of
its group instead of the old one (R56). -/
def Obligations.StageEndAndRebind : Prop :=
  ∀ (s : State) (bd : Bound) (l : Launch) (r : Nat),
    (s.core.cx.id ≠ 0 → Say.Illegal .stgend s ∧ Say.Illegal .stgbind s)
    ∧ (s.core.bank.rebind = .none → Say.Illegal .stgbind s)
    ∧ (s.core.cx.id = 0 → (∃ id, id ≠ 0 ∧ Say.Live s id) → exec .stgend s = .next (waitFor .helpers s)
        ∧ (s.core.bank.rebind = .delivered r → s.core.bank.bound = some bd → launch? s bd.launch = some l →
            exec .stgbind s = .next (waitFor .helpers s)))
    ∧ (s.core.cx.id = 0 → (∀ id, id ≠ 0 → ¬Say.Live s id) → storesOut s = true → exec .stgend s = .next (waitFor .stores s))
    ∧ (s.core.cx.id = 0 → (∀ id, id ≠ 0 → ¬Say.Live s id) → storesOut s = false → ∀ x xs, s.core.cx.recs = x :: xs →
        exec .stgend s = .next (takeTrap 0x23 x.va s))
    ∧ (s.core.cx.id = 0 → (∀ id, id ≠ 0 → ¬Say.Live s id) → storesOut s = false → s.core.cx.recs = [] → s.core.bank.bound = some bd →
        ∃ t, exec .stgend s = .next t ∧ t.core.cx.st = .free ∧ t.core.cx.x = s.core.cx.x ∧ t.core.cx.instret = s.core.cx.instret + 1
          ∧ ((∀ q, ∀ e ∈ s.core.queue q, e.bank ≠ s.core.bank.num) → t.core.bank.bound = none)
          ∧ (∀ q e, e ∈ s.core.queue q → e.bank = s.core.bank.num → t.core.bank.bound = some { bd with left := true })
          ∧ (Say.Holds s.core.shadow → s.core.priv = .u → t.core.swap ≠ none)
          ∧ ∀ k ∈ t.root.launches, k.id = bd.launch → ∀ p ∈ k.placed, p.core = s.core.num → p.gone = true)
    ∧ (∀ p im d, s.core.cx.id = 0 → (∀ id, id ≠ 0 → ¬Say.Live s id) → s.core.bank.rebind = .delivered r → s.core.bank.bound = some bd →
        launch? s bd.launch = some l → (l.placed.filter fun q => q.core == s.core.num) = [p] → p.gone = false → p.stage = bd.stage → bd.stage ≠ r →
        imageOf s l = some im → l.stages[r]? = some d →
        let nr := (l.placed.filter fun q => q.stage == r && !q.gone).length
        ∃ t bt, exec .stgbind s = .next t ∧ t.core.bank.rebind = .none ∧ t.core.bank.bound = some bt ∧ bt.stage = r ∧ bt.launch = bd.launch
          ∧ t.core.cx.pc = im.img.textVa + d.entry.zeroExtend 64 ∧ readX t 10 = BitVec.ofNat 64 nr ∧ readX t 11 = BitVec.ofNat 64 (nr + 1)
          ∧ (∀ q, q ≠ 10 → q ≠ 11 → readX t q = readX s q) ∧ t.mem = s.mem
          ∧ (∀ g ∈ t.fab.groups, stageGroup s bd.launch r = some g.num → s.core.num ∈ g.members)
          ∧ ∀ g ∈ t.fab.groups, bd.group = some g.num → stageGroup s bd.launch r ≠ some g.num → s.core.num ∉ g.members)

/-- SHSWAP: illegal in U-mode, no effect with no launch in the shadow bank, else a swap begins, the spill with it where a save area is set. A
swap begins by itself for a launch of higher class that has just been bound; when it is complete the banks have changed places after 24
cycles, and the outgoing bank's reservations are lost. -/
def Sys2Proof.Say.BankSwaps : Prop :=
  ∀ (s : State) (b d : Bound) (x : Ctx) (m : Bool),
    let c := s.core
    (c.priv ≠ .m → Say.Illegal .shswap s)
    ∧ (c.priv = .m → ¬Say.Holds c.shadow → exec .shswap s = .next (adv s))
    ∧ (c.priv = .m → Say.Holds c.shadow → c.swap = none → ∃ t, exec .shswap s = .next t ∧ t.core.swap = some ⟨false, c.shadow.spilled, [], []⟩
        ∧ t.core.priv = .u ∧ t.core.cx.pc = c.mcsr.mepc ∧ t.core.cx.x = c.cx.x
        ∧ t.core.spilling = if (if c.bank.num then c.dsave1 else c.dsave0) = 0 then none else some c.bank.num)
    ∧ (c.priv = .u → c.swap = none → c.fresh = some c.shadow.num → Say.Holds c.shadow → c.shadow.stopped = false → c.bank.bound = some b →
        c.shadow.bound = some d → b.prio < d.prio →
        ∃ t, exec .shadowSwap s = .next t ∧ t.core.swap = some ⟨false, c.shadow.spilled, [], []⟩ ∧ Say.bare t.core.cx = Say.bare c.cx
          ∧ t.core.bank = { c.bank with counts := t.core.bank.counts, ctxs := t.core.bank.ctxs }
          ∧ t.core.bank.ctxs.map Say.bare = c.bank.ctxs.map Say.bare)
    ∧ (c.swap = some ⟨m, false, [], []⟩ → c.bank.num ≠ c.shadow.num → x ∈ c.shadow.ctxs → x.id = c.shadow.cur →
        (∀ y ∈ c.shadow.ctxs, y.id = c.shadow.cur → y = x) →
        ∃ t, exec .swapComplete s = .next t ∧ t.core.swap = none ∧ t.core.cycles = c.cycles + 24 ∧ t.mem = s.mem
          ∧ t.core.bank.num = c.shadow.num ∧ t.core.bank.bound = c.shadow.bound ∧ t.core.shadow.num = c.bank.num ∧ t.core.shadow.bound = c.bank.bound
          ∧ t.core.cx = { x with st := (if x.st = .free then .free else .ready), ans := none, got := [] }
          ∧ (c.cx.st ≠ .free → c.cx ∈ t.core.shadow.ctxs)
          ∧ ∀ r, r ∈ t.resv ↔ r ∈ s.resv ∧ ¬(r.core = c.num ∧ r.bank = c.bank.num))

/-- The yield event enters M-mode (log 9) when every context of the bank has waited longer than WAIT cycles and the shadow bank has a ready
one. A spill leaves the outgoing bank's registers in its save area, slot by slot (the order of the slots is the model's choice, log 55), and
frees its slots; a fill brings them back before the swap. -/
def Sys2Proof.Say.YieldSpillAndFill : Prop :=
  ∀ (s : State) (w : Swap) (b : Bool) (x : Ctx) (r : RegNo),
    let c := s.core
    let base := (if c.shadow.num then c.dsave1 else c.dsave0).toNat
    (c.bank.dyield = 0 → exec .yieldEvent s = .next s)
    ∧ (c.bank.dyield ≠ 0 → c.priv = .u → c.yev = false → c.swap = none → c.bank.stopped = false → c.bank.dead = false → c.cx.st ≠ .free →
        (∀ y ∈ c.ctxsOf c.bank.num, y.st ≠ .free → (∃ v, y.st = .waiting v) ∧ c.bank.dyield.toNat < c.cycles - y.since) →
        Say.Holds c.shadow → c.shadow.stopped = false → (∃ y ∈ c.shadow.ctxs, y.st = .ready) →
        ∃ t, exec .yieldEvent s = .next t ∧ t.core.priv = .m ∧ t.core.yev = true ∧ t.core.mcsr.mpp = .u
          ∧ t.core.mcsr.mepc = c.cx.pc.extractLsb' 2 62 ++ 0#2 ∧ t.core.cx.pc = c.mcsr.mtvec.extractLsb' 2 62 ++ 0#2
          ∧ t.core.cx.x = c.cx.x ∧ t.core.bank = c.bank ∧ t.core.shadow = c.shadow ∧ t.mem = s.mem)
    ∧ (c.spilling = some b → c.swap = none → c.shadow.num = b → c.bank.num ≠ b → saveOk base = true → base % 2 ^ 37 + 112640 ≤ metaOffset →
        Memory.wf s.mem = true → (∀ l, lineHeld s l = false) → (∀ y ∈ c.shadow.ctxs, y.recs.length ≤ 8) → x ∈ c.shadow.ctxs → (∀ y ∈ c.shadow.ctxs, y.id = x.id → y = x) →
        ∃ t, exec .spillComplete s = .next t ∧ t.core.spilling = none ∧ t.core.shadow.spilled = true ∧ t.core.shadow.slotsFreed = true
          ∧ t.core.shadow.ctxs = c.shadow.ctxs ∧ t.core.bank = c.bank ∧ t.core.cx = c.cx
          ∧ memNat t.mem (base + 5120 * x.id + 8 * r.toNat) 8 = if r = 0 then 0 else (x.x[r.toNat]'r.isLt).toNat)
    ∧ (c.swap = some w → w.fill = true → saveOk base = true → x ∈ c.shadow.ctxs →
        ∃ t y, exec .fillComplete s = .next t ∧ t.core.swap = some { w with fill := false } ∧ t.core.shadow.spilled = false
          ∧ t.core.bank = c.bank ∧ t.core.cx = c.cx ∧ t.mem = s.mem
          ∧ y ∈ t.core.shadow.ctxs ∧ y.id = x.id ∧ y.st = x.st ∧ (y.x[r.toNat]'r.isLt).toNat = memNat s.mem (base + 5120 * x.id + 8 * r.toNat) 8)

/-- Helpers start, are joined and listed (R307 to R309), and end; YIELD switches (R251, R309). -/
def Obligations.HelperContextsBeginAndEnd : Prop := Say.HelperContexts ∧ Say.HelperExitAndYield

/-- Swaps of the banks (R101, R102, R310), and the yield event, spills and fills (R104, R105). -/
def Obligations.SwapsSpillsAndFills : Prop := Say.BankSwaps ∧ Say.YieldSpillAndFill
/-! ### Barriers, phases and monitor waits (R58 to R63, R311 to R314) -/

/-- The channel is enabled at the core and held by its active bank. -/
def Sys2Proof.Say.Member (s : State) (c : BitVec 3) : Prop :=
  s.core.dmemb.getLsbD (4 * c.toNat + 3) = true ∧ (s.core.chans[c.toNat]'c.isLt).owner = some s.core.bank.num

/-- In `u` the core has raised its arrival on the channel, with no dirty byte of a shared line left in its L1: A is set,
and the domain of its launch that it belongs to holds the arrival with its flag and its phase tag. -/
def Sys2Proof.Say.Arrived (s u : State) (c : BitVec 3) (flag : Bool) (tag : PhTag) : Prop :=
  (u.core.chans[c.toNat]'c.isLt).a = true ∧ (u.core.chans[c.toNat]'c.isLt).f = (s.core.chans[c.toNat]'c.isLt).f
    ∧ u.mem = s.mem ∧ u.core.cx.x = s.core.cx.x
    ∧ (∀ l ∈ u.core.l1, l.cls = .shared → l.dirty = 0)
    ∧ (∀ bd, s.core.bank.bound = some bd → ∀ d ∈ s.fab.doms, d.chan = c → d.launch = bd.launch → s.core.num ∈ d.members → s.core.num ∉ d.left →
        { d with arrived := d.arrived ++ [(s.core.num, flag, tag)] } ∈ u.fab.doms)

/-- Nothing that is clean stands in a shared line of L1: what an acquire leaves (R210). -/
def Sys2Proof.Say.Acquired (t : State) : Prop := ∀ l ∈ t.core.l1, l.cls = .shared → l.valid &&& ~~~l.dirty = 0

/-- BARR makes an eager release, waits until its writes have been performed, and arrives with bit 0 of rs1 as its flag (R217); it waits while A
is set. BWAIT completes once A is clear, with the flag
in rd; BTEST does not wait and gives 0 while A is set, else 1 plus twice the flag. BARW arrives once, keeps its mark while it waits, and then
completes as BWAIT does. A completed episode is an acquire. All are illegal on a channel that is not the bank's. -/
def Obligations.Barriers : Prop :=
  ∀ (c : BitVec 3) (rs1 rd : RegNo) (s : State),
    let ch := s.core.chans[c.toNat]'c.isLt
    let f : Word := if ch.f then 1 else 0
    let mark := s.core.cx.pc ∈ s.core.cx.marks
    let e := writeBackShared s
    (¬Say.Member s c → Say.Illegal (.barr c rs1) s ∧ Say.Illegal (.bwait c rd) s ∧ Say.Illegal (.btest c rd) s ∧ Say.Illegal (.barw c rs1 rd) s)
    ∧ (Say.Member s c → ch.a = true → exec (.barr c rs1) s = .next (waitFor (.barrier c) s) ∧ exec (.bwait c rd) s = .next (waitFor (.barrier c) s)
        ∧ exec (.barw c rs1 rd) s = .next (waitFor (.barrier c) s) ∧ ∃ t, exec (.btest c rd) s = .next t ∧ Say.SetsX rd 0 s t)
    ∧ (Say.Member s c → ch.a = false →
        (storesOut e = true → exec (.barr c rs1) s = .next (waitFor .stores e) ∧ (¬mark → exec (.barw c rs1 rd) s = .next (waitFor .stores e)))
        ∧ (storesOut e = false → ∃ t, exec (.barr c rs1) s = .next t ∧ Say.Arrived s t c ((readX s rs1).getLsbD 0) .plain ∧ t.core.cx.pc = s.core.cx.pc + 4)
        ∧ (∃ t, exec (.bwait c rd) s = .next t ∧ Say.Acquired t ∧ t.core.cx = (adv (writeX rd f s)).core.cx ∧ t.mem = s.mem)
        ∧ (∃ t, exec (.btest c rd) s = .next t ∧ Say.Acquired t ∧ t.core.cx = (adv (writeX rd (1 + 2 * f) s)).core.cx ∧ t.mem = s.mem)
        ∧ (¬mark → storesOut e = false → ∃ u, exec (.barw c rs1 rd) s = .next (waitFor (.barrier c) u) ∧ Say.Arrived s u c ((readX s rs1).getLsbD 0) .plain
            ∧ u.core.cx.pc = s.core.cx.pc ∧ u.core.cx.pc ∈ u.core.cx.marks)
        ∧ (mark → ∃ t, exec (.barw c rs1 rd) s = .next t ∧ Say.Acquired t ∧ t.core.cx.pc = s.core.cx.pc + 4 ∧ t.mem = s.mem
            ∧ (∀ r, r ≠ rd → readX t r = readX s r) ∧ readX t rd = (if rd = 0 then 0 else f)
            ∧ ∀ p, p ∈ t.core.cx.marks ↔ p ∈ s.core.cx.marks ∧ p ≠ s.core.cx.pc))

/-- PHCOMM arrives with the opening tag where no phase is open, PHCOMP with the closing tag where its channel's phase is, once all the core's
traffic is delivered; both wait for the release and then complete as an acquire. Elsewhere they are illegal. -/
def Sys2Proof.Say.CommunicationPhases : Prop :=
  ∀ (c : BitVec 3) (s : State),
    let ch := s.core.chans[c.toNat]'c.isLt
    let mark := s.core.cx.pc ∈ s.core.cx.marks
    let e := writeBackShared s
    (¬Say.Member s c → Say.Illegal (.phcomm c) s ∧ Say.Illegal (.phcomp c) s)
    ∧ (Say.Member s c → ¬mark → s.core.phase ≠ none → Say.Illegal (.phcomm c) s)
    ∧ (Say.Member s c → ¬mark → s.core.phase ≠ some c → Say.Illegal (.phcomp c) s)
    ∧ (Say.Member s c → mark → ch.a = true → exec (.phcomm c) s = .next (waitFor (.barrier c) s) ∧ exec (.phcomp c) s = .next (waitFor (.barrier c) s))
    ∧ (Say.Member s c → ¬mark → ch.a = false → storesOut e = true → (s.core.phase = none → exec (.phcomm c) s = .next (waitFor .stores e))
        ∧ (s.core.phase = some c → exec (.phcomp c) s = .next (waitFor .stores e)))
    ∧ (Say.Member s c → ¬mark → ch.a = false → s.core.phase = none → storesOut e = false →
        ∃ u, exec (.phcomm c) s = .next (waitFor (.barrier c) u) ∧ Say.Arrived s u c false .opening ∧ u.core.cx.pc = s.core.cx.pc
          ∧ u.core.cx.pc ∈ u.core.cx.marks)
    ∧ (Say.Member s c → ¬mark → ch.a = false → s.core.phase = some c → storesOut e = false → delivered e e.core.num = true →
        ∃ u, exec (.phcomp c) s = .next (waitFor (.barrier c) u) ∧ Say.Arrived s u c false .closing ∧ u.core.cx.pc = s.core.cx.pc
          ∧ u.core.cx.pc ∈ u.core.cx.marks)
    ∧ (Say.Member s c → ¬mark → ch.a = false → s.core.phase = some c → storesOut e = false → delivered e e.core.num = false →
        exec (.phcomp c) s = .next (waitFor (.delivery c) e))
    ∧ (Say.Member s c → mark → ch.a = false → ∀ i ∈ [Instr.phcomm c, .phcomp c],
        ∃ t, exec i s = .next t ∧ Say.Acquired t ∧ t.core.cx.pc = s.core.cx.pc + 4 ∧ t.core.cx.x = s.core.cx.x ∧ t.mem = s.mem
          ∧ ∀ p, p ∈ t.core.cx.marks ↔ p ∈ s.core.cx.marks ∧ p ≠ s.core.cx.pc)

/-- A top node releases its domain once every member that has not left has arrived: the flag is the OR of the arrivals' flags, a phase opens
only with its groves in one nonzero lock group, and arrivals of different tags are a violation that halts the launch. At a core a release
sets F, clears A, flips the parity, opens or closes the phase, and makes the waiting contexts ready. -/
def Sys2Proof.Say.BarrierReleases : Prop :=
  ∀ (s : State) (d : Dom) (tag : PhTag) (r : Release),
    (s.fab.doms.find? (fun e => e.id == d.id) = some d → (∀ n ∈ d.members, n ∉ d.left → ∃ a ∈ d.arrived, a.1 = n) → d.arrived ≠ [] →
      ((∀ a ∈ d.arrived, a.2.2 = tag) →
        (tag = .plain ∨ (tag = .opening ∧ d.stopNew = false ∧ phaseCheck s d.members = true) ∨ (tag = .closing ∧ d.heldHalt = false)) →
        ∃ t, exec (.barrierTopRelease d.id) s = .next t
          ∧ t.fab.doms = s.fab.doms.map (fun e => if e.id = d.id then
              { e with arrived := [], phase := (if tag = .plain then e.phase else decide (tag = .opening)),
                       start := (if tag = .opening then s.pkg.nclk + 16 else e.start) } else e)
          ∧ (∀ n ∈ d.members, n ∉ d.left → ⟨n, d.chan, decide (tag = .plain ∧ ∃ a ∈ d.arrived, a.2.1 = true), tag⟩ ∈ t.fab.releases)
          ∧ t.mem = s.mem ∧ t.core = s.core)
      ∧ ((∃ a ∈ d.arrived, ∃ b ∈ d.arrived, a.2.2 ≠ b.2.2) ∨ ((∀ a ∈ d.arrived, a.2.2 = .opening) ∧ d.stopNew = false ∧ phaseCheck s d.members = false) →
        ∃ t, exec (.barrierTopRelease d.id) s = .next t ∧ t.fab.releases = s.fab.releases
          ∧ ∀ l ∈ t.root.launches, l.id = d.launch → l.st = .halting ∧ l.resumable = false))
    ∧ (s.fab.releases.find? (fun q => q.core == s.core.num && q.chan == r.chan) = some r → s.core.dmemb.getLsbD (4 * r.chan.toNat + 3) = true →
        ∃ t, exec (.barrierReleaseArrive r.chan) s = .next t ∧ t.fab.releases = s.fab.releases.erase r ∧ t.mem = s.mem
          ∧ t.core.chans[r.chan.toNat]'r.chan.isLt =
              { s.core.chans[r.chan.toNat]'r.chan.isLt with f := r.flag, a := false, parity := !(s.core.chans[r.chan.toNat]'r.chan.isLt).parity }
          ∧ (∀ k : BitVec 3, k ≠ r.chan → t.core.chans[k.toNat]'k.isLt = s.core.chans[k.toNat]'k.isLt)
          ∧ t.core.phase = (match r.tag with
              | .plain => s.core.phase
              | .opening => some r.chan
              | .closing => none)
          ∧ t.core.cx = { s.core.cx with st := (if s.core.cx.st = .waiting (.barrier r.chan) then .ready else s.core.cx.st) })

/-- The comparison of a monitor wait: MWAITGE (unsigned), MWAITEQ, MWAITNE. -/
def Sys2Proof.Say.monHolds (i : Instr) (v t : Word) : Bool :=
  match i with
  | .mwaitge .. => decide (t.toNat ≤ v.toNat)
  | .mwaiteq .. => decide (v = t)
  | _ => decide (v ≠ t)

/-- Monitor waits read the doubleword at its home: one whose place lies off the core is sent there first (R99). While the condition fails they arm the context's one monitor on the line and wait; when
it holds they complete as an acquire with the value read. A misaligned address takes cause 4, a locked one 0x20, one in host space 5. A
write to the line wakes a waiting context. A reservation is lost 4,096 core cycles after its LR. -/
def Obligations.MonitorWaits : Prop :=
  ∀ (rs2 rs1 rd : RegNo) (s : State) (p : Place) (b : Bool) (id : Nat),
    let a := readX s rs1
    let u := flushOwn p s
    let v := BitVec.ofNat 64 (memNat s.mem p.key 8)
    (∀ i ∈ [Instr.mwaitge rs2 rs1 rd, .mwaiteq rs2 rs1 rd, .mwaitne rs2 rs1 rd],
      let holds := Say.monHolds i v (readX s rs2)
      s.core.cx.st = .ready →
      (a.toNat % 8 ≠ 0 → exec i s = .next (takeTrap 4 a s))
      ∧ (a.toNat % 8 = 0 → locked s.core a 8 = true → exec i s = .next (takeTrap 0x20 a s))
      ∧ (a.toNat % 8 = 0 → locked s.core a 8 = false → tlbMiss s a .read = false → resolve s a 8 .read = .ok p → p.loc = .host →
          exec i s = .next (takeTrap 5 a s))
      ∧ (a.toNat % 8 = 0 → locked s.core a 8 = false → tlbMiss s a .read = false → resolve s a 8 .read = .ok p → p.loc ≠ .host → p.loc ≠ .own →
          s.core.cx.ans = none → Say.Ring s → exec i s = .next (waitFor .remote (askHome p (Say.asking u))))
      ∧ (a.toNat % 8 = 0 → locked s.core a 8 = false → tlbMiss s a .read = false → resolve s a 8 .read = .ok p → p.loc ≠ .host →
          (p.loc = .own ∨ s.core.cx.ans ≠ none) → needsFlush s (lineOf p.key) = false → behind u (lineOf p.key) = false →
          (p.ty = .device → devBusy u = false) → poisoned s p.key 8 = false →
          (holds = true → ∃ w, exec i s = .next w ∧ w.core.cx = (adv (writeX rd v s)).core.cx ∧ w.mem = s.mem ∧ Say.Acquired w)
          ∧ (holds = false → s.core.shadow.bound = none → ∃ w, exec i s = .next (waitFor (.monitor (lineOf p.key)) w) ∧ w.core.cx = s.core.cx
            ∧ w.mem = s.mem
            ∧ ∀ m, (m ∈ w.mons ∧ m.core = s.core.num ∧ m.bank = s.core.bank.num ∧ m.ctx = s.core.cx.id)
                ↔ m = ⟨s.core.num, s.core.bank.num, s.core.cx.id, lineOf p.key, false⟩)))
    ∧ (⟨s.core.num, s.core.bank.num, s.core.cx.id, lineOf p.key, true⟩ ∈ s.mons → s.core.cx.st = .waiting (.monitor (lineOf p.key)) → s.core.swap = none →
        ∃ t, exec (.monitorWake s.core.bank.num s.core.cx.id) s = .next t ∧ t.core.cx = { s.core.cx with st := .ready } ∧ t.mem = s.mem)
    ∧ ∃ t, exec (.reservationExpire b id) s = .next t ∧ t = { s with resv := t.resv }
        ∧ ∀ r, r ∈ t.resv ↔ r ∈ s.resv ∧ ¬(r.core = s.core.num ∧ r.bank = b ∧ r.ctx = id ∧ r.cycle + 4096 ≤ s.core.cycles)

/-- Communication phases (R313), and how an episode is released (R58, R62, R312). -/
def Obligations.PhasesAndBarrierReleases : Prop := Say.CommunicationPhases ∧ Say.BarrierReleases
/-! ### The command queues (R121 to R136, R296 to R299, R323 to R326, R401) -/

/-- IDGET: the selector's value in rd; a selector above 13 is illegal. The values of a launch are those of the bank's stage;
without one they are 0, and −1 for the two of an offer group (the model's choice, log 48, DEDUCED). -/
def Sys2Proof.Say.IdentityReads : Prop :=
  ∀ (rd : RegNo) (s : State) (bd : Bound),
    let c := s.core
    (∀ sel : BitVec 12, 14 ≤ sel.toNat → Say.Illegal (.idget sel rd) s)
    ∧ (∀ x ∈ [(3#12, BitVec.ofNat 64 c.num), (4#12, BitVec.ofNat 64 c.cx.id), (8#12, if c.bank.num then 1#64 else 0#64),
          (9#12, BitVec.ofNat 64 (inGrove c.num)), (10#12, BitVec.ofNat 64 (c.num / 4))],
        ∃ t, exec (.idget x.1 rd) s = .next t ∧ Say.SetsX rd x.2 s t)
    ∧ (c.bank.bound = some bd → ∀ x ∈ [(0#12, BitVec.ofNat 64 bd.index), (1#12, BitVec.ofNat 64 bd.count), (2#12, bd.const), (6#12, 0#32 ++ bd.lid),
          (7#12, BitVec.ofNat 64 bd.stage), (12#12, bd.haltVa)],
        ∃ t, exec (.idget x.1 rd) s = .next t ∧ Say.SetsX rd x.2 s t)
    ∧ (c.bank.bound = none → ∀ sel ∈ [0#12, 1#12, 2#12, 6#12, 7#12, 12#12], ∃ t, exec (.idget sel rd) s = .next t ∧ Say.SetsX rd 0 s t)
    ∧ ((c.bank.bound = none ∨ (c.bank.bound = some bd ∧ bd.group = none)) → ∀ sel ∈ [5#12, 13#12],
        ∃ t, exec (.idget sel rd) s = .next t ∧ Say.SetsX rd (-1) s t)
    ∧ (∀ n, c.bank.bound = some bd → bd.group = some n → ∃ t, exec (.idget 5 rd) s = .next t ∧ Say.SetsX rd (BitVec.ofNat 64 n) s t)
    ∧ (∀ g, c.bank.bound = some bd → bd.group = some g.num → g ∈ s.fab.groups → (∀ h ∈ s.fab.groups, h.num = g.num → h = g) →
        ∃ t, exec (.idget 13 rd) s = .next t ∧ Say.SetsX rd (BitVec.ofNat 64 (0xFFFFFD0000000000 + g.slice * 2 ^ 22 + g.home)) s t)
    ∧ (∀ p, p ∈ s.root.parts → p.groves.getLsbD (groveOf c.num) = true → (∀ r ∈ s.root.parts, r.groves.getLsbD (groveOf c.num) = true → r = p) →
        ∃ t, exec (.idget 11 rd) s = .next t
          ∧ Say.SetsX rd (BitVec.ofNat 64 (64 * ((List.range 96).countP fun g => p.groves.getLsbD g))) s t)

/-- CMDQ reads 32 bytes, waiting for them as a load does, captures the operands, checks the command, and appends it to its queue with the next sequence value in rd and its
ranges locked, held where it names a tag that has not been released; a word that is refused gives −2, a full queue or lock table −1, and
neither pushes anything. CMDQW waits for a counter, CMDST reads it, CMDCAN cancels what is not dispatched, LOOPSET and LOOPGET write and
read loop registers, of which l0 is 1. -/
def Sys2Proof.Say.QueueInstructions : Prop :=
  ∀ (q : Queue) (l : BitVec 3) (rs1 rd : RegNo) (s : State),
    let a := readX s rs1
    let done := s.core.bank.done q
    let can := Instr.cmdcan q rs1 rd
    let mine := fun (e : Entry) => e.bank = s.core.bank.num ∧ e.seq = a.toNat ∧ e.inner = none
    (a.toNat % 32 ≠ 0 → exec (.cmdq q rs1 rd) s = .next (takeTrap 4 a s))
    ∧ (∀ c v, a.toNat % 32 = 0 → memLoad a 32 .dflt s = .error (.trap c v) → exec (.cmdq q rs1 rd) s = .next (takeTrap c v s))
    ∧ (∀ w t, a.toNat % 32 = 0 → memLoad a 32 .dflt s = .error (.wait w t) → exec (.cmdq q rs1 rd) s = .next (waitFor w t))
    ∧ (∀ g, a.toNat % 32 = 0 → memLoad a 32 .dflt s = .ok g →
        let t := g.st
        let fails := fun (v : Word) => exec (.cmdq q rs1 rd) s = .next (adv (writeX rd v t))
        (capture t q (natOfBytes g.bytes) = none → fails (-2))
        ∧ ∀ c, capture t q (natOfBytes g.bytes) = some c →
          (checkCmd t c = none → fails (-2))
          ∧ ∀ rs, checkCmd t c = some rs →
            (32 ≤ (t.core.queue q).length ∨ 32 < t.core.locks.length + rs.length → fails (-1))
            ∧ ((t.core.queue q).length < 32 → t.core.locks.length + rs.length ≤ 32 → (∀ x ∈ t.core.bank.rel q, x.1 = c.otag → x.2 = false) →
                ∃ u e, exec (.cmdq q rs1 rd) s = .next u
                  ∧ u.core.queue q = t.core.queue q ++ [e] ∧ (∀ p, p ≠ q → u.core.queue p = t.core.queue p)
                  ∧ e.cmd = c ∧ e.bank = t.core.bank.num ∧ e.seq = (t.core.bank.seq q).toNat + 1 ∧ e.cancelled = false ∧ e.status = 0
                  ∧ e.st = (if c.otag ≠ 0 ∧ ∀ x ∈ t.core.bank.rel q, x.1 ≠ c.otag then .held else .queued)
                  ∧ u.core.bank.seq q = t.core.bank.seq q + 1
                  ∧ Say.bare u.core.cx = Say.bare (adv (writeX rd (t.core.bank.seq q + 1) t)).core.cx
                  ∧ u.core.locks = t.core.locks ++ rs.map (fun r => ⟨r.lo, r.hi, r.dst, e.bank, q, e.seq, e.ord⟩)
                  ∧ u.mem = t.mem))
    ∧ ((a.toNat ≤ done.toNat ∨ (s.core.bank.seq q).toNat < a.toNat) → ∃ t, exec (.cmdqw q rs1 rd) s = .next t ∧ Say.SetsX rd done s t)
    ∧ (done.toNat < a.toNat → a.toNat ≤ (s.core.bank.seq q).toNat → exec (.cmdqw q rs1 rd) s = .next (waitFor (.cmd q a) s))
    ∧ (∃ t, exec (.cmdst q rd) s = .next t ∧ Say.SetsX rd done s t)
    ∧ ((∀ e ∈ s.core.queue q, ¬mine e) → ∃ t, exec can s = .next t ∧ Say.SetsX rd (-1) s t)
    ∧ (∀ e ∈ s.core.queue q, mine e → (∀ x ∈ s.core.queue q, mine x → x = e) →
        (e.cancelled = false → (e.st = .flight ∨ e.st = .worked) → ∃ t, exec can s = .next t ∧ Say.SetsX rd 1 s t)
        ∧ (e.cancelled = true → ∃ t, exec can s = .next t ∧ Say.SetsX rd 0 s t)
        ∧ (e.cancelled = false → (e.st = .held ∨ e.st = .queued) → ∃ t, exec can s = .next t
            ∧ t.core.queue q = (s.core.queue q).map (fun x => if x.ord = e.ord then { x with st := .queued, cancelled := true } else x)
            ∧ (∀ k, k ∈ t.core.locks ↔ k ∈ s.core.locks ∧ k.ord ≠ e.ord)
            ∧ t.core.cx = (adv (writeX rd 0 s)).core.cx ∧ t.mem = s.mem))
    ∧ (∃ t, exec (.loopset q l rs1) s = .next t ∧ t.core.cx = (adv s).core.cx ∧ t.mem = s.mem
        ∧ ∀ p k, t.core.bank.loop p k = if p = q ∧ k = l ∧ l ≠ 0 then a.extractLsb' 0 32 else s.core.bank.loop p k)
    ∧ s.core.bank.loop q 0 = 1
    ∧ ∃ t, exec (.loopget q l rd) s = .next t ∧ Say.SetsX rd (0#32 ++ s.core.bank.loop q l) s t

/-- IDGET (R288, R335) and the queue instructions (R323 to R326). -/
def Obligations.IdentityAndQueueInstructions : Prop := Say.IdentityReads ∧ Say.QueueInstructions
/-- An entry that its sequencer has dispatched and its engine carries out, no write of the core that it must see being under way (R215, R223):
the one of its queue with its bank and sequence value. -/
def Sys2Proof.Say.Claimed (q : Queue) (opc : Nat) (e : Entry) (s : State) : Prop :=
  e ∈ s.core.queue q ∧ e.st = .flight ∧ e.cancelled = false ∧ e.inner = none ∧ e.cmd.opc.toNat = opc ∧ enginesGo s = true
    ∧ ∀ x ∈ s.core.queue q, (x.bank = e.bank ∧ x.seq = e.seq ∧ x.inner = none) ∨ x.ord = e.ord → x = e

/-- Such an entry, which no free run has dispatched together with a command that it conflicts with; no block is on the poison list, so that no
line it writes whole can poison another (R158). -/
def Sys2Proof.Say.Runs (q : Queue) (opc : Nat) (e : Entry) (s : State) : Prop := Say.Claimed q opc e s ∧ e.loose = [] ∧ s.ms.poisonList = []

/-- The command has done its work, with a status and its value, and the queues are as they were otherwise; no context has changed. -/
def Sys2Proof.Say.Done (q : Queue) (e : Entry) (st : BitVec 8) (tval : Word) (s t : State) : Prop :=
  (∃ bad : Bool, (st = 0 → bad = false) ∧ t.core.queue q = (s.core.queue q).map (fun x =>
      if x.ord = e.ord then { x with st := .worked, status := st, tval := tval, seqField := none, srcBad := bad } else x))
    ∧ (∀ p, p ≠ q → t.core.queue p = s.core.queue p) ∧ t.core.cx = s.core.cx ∧ t.core.bank.ctxs = s.core.bank.ctxs
    ∧ t.core.locks = s.core.locks

/-- The sequencer dispatches the oldest command that waits, where R127, R128 and R134 let it, and parks the queue if it closes a free run; a
destination that an earlier command still holds keeps it back outside a free run; inside one the data that conflicting commands read is
noted, and an engine carries out every command it has, whatever it reads. A command without a memory source releases it at dispatch, unless
its count is 0 (R126, R129). An event releases what is chained to it; the source of a command that sends packets to a peer is released at its
retirement alone (the model's choice, log 93). The oldest command
retires once it has worked or is cancelled: its counter rises, its locks go, its stamp is written, a status other than success or 0x40 makes
a record, and a chain that is still to come is released, or cancelled where the command was cancelled or has failed (R130, R131). -/
def Obligations.SequencersAndRetirement : Prop :=
  ∀ (q : Queue) (e : Entry) (es : List Entry) (s : State),
  ((s.core.queue q).find? Entry.waiting = some e → e.cmd.opc ≠ 0xC3 →
      (mayDispatch s.core q e = true → (e.cmd.opc ≠ 1 ∧ e.cmd.opc ≠ 2 ∨ e.cmd.reps ≠ 0) →
        ∃ t, exec (.sequencerDispatch q) s = .next t ∧ t.mem = s.mem ∧ t.core.cx = s.core.cx ∧ t.core.parked q = e.cmd.sw
          ∧ (clashes s.core q e = [] → (noSource e.cmd.opc.toNat = false ∨ e.cmd.reps = 0) → t.core.queue q = (s.core.queue q).map (fun x =>
              if x.ord = e.ord then { x with st := (if e.cmd.reps = 0 then .worked else .flight) } else x))
          ∧ (noSource e.cmd.opc.toNat = true → e.cmd.reps ≠ 0 → (∀ z ∈ t.core.queue q, z.ord = e.ord → z.released = true)
              ∧ ∀ k, k ∈ t.core.locks → k ∈ s.core.locks ∧ (k.ord ≠ e.ord ∨ k.dst = true))
          ∧ (∀ z ∈ t.core.queue q, z.ord = e.ord → z.st = (if e.cmd.reps = 0 then .worked else .flight))
          ∧ ∀ x y w, x ∈ s.core.locks → y ∈ s.core.locks → y.ord = e.ord → x.ord < e.ord → x.q = q → x.lo < y.hi → y.lo < x.hi →
              (x.dst = true → y.dst = false → entryByOrd s.core x.ord = some w → w.landed = false →
                ∀ z ∈ t.core.queue q, z.ord = e.ord → (max x.lo y.lo, min x.hi y.hi) ∈ z.loose)
              ∧ (x.dst = false → y.dst = true → ∀ z ∈ t.core.queue q, z.ord = x.ord → (max x.lo y.lo, min x.hi y.hi) ∈ z.loose))
      ∧ (∀ x y w, x ∈ s.core.locks → y ∈ s.core.locks → y.ord = e.ord → x.ord < e.ord → x.lo < y.hi → y.lo < x.hi → x.dst = true →
          entryByOrd s.core x.ord = some w → w.landed = false → (∀ z ∈ s.core.queue q, e.ord ≤ z.ord → z.cmd.sw = false) →
          exec (.sequencerDispatch q) s = .next s))
  ∧ (∀ opc i, (q, opc, i) ∈ [(Queue.mq, 0x00, Instr.mzero e.bank e.seq), (.mq, 0x01, .mma e.bank e.seq), (.mq, 0x02, .mmas e.bank e.seq),
        (.mq, 0x03, .mlda e.bank e.seq), (.mq, 0x04, .msta e.bank e.seq), (.mq, 0x05, .mtrn e.bank e.seq), (.cq, 0x40, .cpy e.bank e.seq),
        (.cq, 0x41, .cpys e.bank e.seq), (.cq, 0x43, .cfill e.bank e.seq), (.cq, 0x44, .gath e.bank e.seq), (.cq, 0x45, .scat e.bank e.seq),
        (.cq, 0x4A, .cdec e.bank e.seq), (.cq, 0x4B, .ccnt e.bank e.seq)] → Say.Claimed q opc e s → (opc = 0x40 → e.cmd.fmtA ≠ 6) →
      ∃ t, exec i s = .next t ∧ ∀ x ∈ t.core.queue q, x.ord = e.ord → x.st = .worked)
  ∧ (s.core.queue q = e :: es → e.cancelled = false → e.st = .flight → exec (.commandRetire q) s = .next s)
  ∧ (s.core.queue q = e :: es → (∀ x ∈ es, x.ord ≠ e.ord) → (∀ p, ∀ x ∈ s.core.queue p, x.ord = e.ord → x = e) → (e.cancelled = true ∨ e.st = .worked) → s.ms.heldW = [] → e.cmd.opc ≠ 0x41 →
      e.cmd.opc ≠ 0x42 → e.cmd.ch = false → e.seqField = none →
      let st := if e.cancelled then 0x40 else e.status
      let stamps := lastStamps e
      ((∀ va ∈ stamps, va = 0) → (e.cancelled = true ∨ e.status = 0) →
        ∃ t, exec (.commandRetire q) s = .next t ∧ t.core.queue q = es ∧ (t.core.bankOf e.bank).done q = (s.core.bankOf e.bank).done q + 1
          ∧ (∀ k, k ∈ t.core.locks ↔ k ∈ s.core.locks ∧ k.ord ≠ e.ord) ∧ t.mem = s.mem
          ∧ t.core.cx.recs = s.core.cx.recs
          ∧ (∀ v, e.bank = s.core.bank.num → s.core.cx.st = .waiting (.cmd q v) → v ≤ s.core.bank.done q + 1 → t.core.cx.st = .ready))
      ∧ (∀ va p, stamps = [va] → va ≠ 0 → va.toNat % 8 = 0 → engPlace s va 8 .write = .ok p → hostFails s p.key = false → p.key % 8 = 0 → poisoned s p.key 8 = false →
          lineHeld s (lineOf p.key) = false → (e.cancelled = true ∨ e.status = 0) →
          ∃ t, exec (.commandRetire q) s = .next t ∧ t.core.queue q = es
            ∧ Say.Wrote (memWrite s.mem p.key (bytesOfNat 8 (st ++ (BitVec.ofNat 56 e.seq)).toNat)) s t)
      ∧ ((∀ va ∈ stamps, va = 0) → e.cancelled = false → e.status ≠ 0 → e.status ≠ 0x40 → e.bank = s.core.bank.num → e.ctx = s.core.cx.id →
          (∃ bd, s.core.bank.bound = some bd ∧ bd.left = false) → s.core.bank.dead = false → s.core.cx.recs.length < 8 →
          ∃ t r, exec (.commandRetire q) s = .next t ∧ t.core.queue q = es ∧ t.core.cx.recs = s.core.cx.recs ++ [r]
            ∧ r.va = e.tval ∧ r.data = BitVec.ofNat 64 e.seq ∧ r.pc = e.pc ∧ r.status = e.status ∧ r.src = 2
            ∧ r.cause = (if e.status = 0x22 ∨ e.status = 0x25 ∨ e.status = 0x2B then e.status else 0x24)))
  ∧ (∀ p x, s.core.queue q = e :: es → (∀ y ∈ es, y.ord ≠ e.ord) → (∀ p, ∀ y ∈ s.core.queue p, y.ord = e.ord → y = e) →
      (e.cancelled = true ∨ e.st = .worked) → s.ms.heldW = [] → e.cmd.opc ≠ 0x41 → e.cmd.opc ≠ 0x42 → (∀ va ∈ lastStamps e, va = 0) →
      e.cmd.ch = true → e.cmd.sq.toNat = queueNum p → p ≠ q →
      (e.cmd.ev = 0 ∨ (e.cmd.ev = 1 ∧ e.landed = false) ∨ (e.cmd.ev = 2 ∧ e.released = false) ∨ (e.cmd.ev = 3 ∧ e.consumed = false)) →
      (s.core.queue p).find? (fun z => z.bank == e.bank && z.st == .held && !z.cancelled && z.cmd.otag == e.cmd.stag) = some x →
      ∃ t, exec (.commandRetire q) s = .next t ∧ t.core.queue q = es
        ∧ (e.cancelled = false → e.status = 0 →
            t.core.queue p = (s.core.queue p).map (fun z => if z.ord = x.ord then { z with st := .queued } else z))
        ∧ ((e.cancelled = true ∨ e.status ≠ 0) →
            t.core.queue p = (s.core.queue p).map (fun z => if z.ord = x.ord then { z with st := .queued, cancelled := true } else z)
            ∧ ∀ k, k ∈ t.core.locks ↔ k ∈ s.core.locks ∧ k.ord ≠ e.ord ∧ k.ord ≠ x.ord))
  ∧ (∀ p x, e ∈ s.core.queue q → e.inner = none →
      (∀ y ∈ s.core.queue q, (y.bank = e.bank ∧ y.seq = e.seq ∧ y.inner = none) ∨ y.ord = e.ord → y = e) → e.cancelled = false →
      e.st = .worked → e.status = 0 → e.cmd.reps ≠ 0 → s.ms.heldW = [] → e.cmd.ch = true → e.cmd.sq.toNat = queueNum p → p ≠ q →
      (s.core.queue p).find? (fun z => z.bank == e.bank && z.st == .held && !z.cancelled && z.cmd.otag == e.cmd.stag) = some x →
      let freed := (s.core.queue p).map (fun z => if z.ord = x.ord then { z with st := .queued } else z)
      (e.landed = false → e.cmd.ev = 1 → e.cmd.opc.toNat < 0x40 ∨ e.cmd.opc = 0x40 →
        ∃ t, exec (.engineChainEvent q e.bank e.seq 1) s = .next t ∧ t.core.queue p = freed
          ∧ t.core.queue q = (s.core.queue q).map (fun z => if z.ord = e.ord then { z with landed := true } else z))
      ∧ (e.released = false → e.cmd.ev = 2 → e.cmd.opc ≠ 0x41 → peerSend e.cmd = false →
          ∃ t, exec (.engineChainEvent q e.bank e.seq 2) s = .next t ∧ t.core.queue p = freed
            ∧ (∀ k, k ∈ t.core.locks ↔ k ∈ s.core.locks ∧ (k.ord ≠ e.ord ∨ k.dst = true)))
      ∧ (e.consumed = false → e.cmd.ev = 3 → e.cmd.opc.toNat < 0x40 →
          ∃ t, exec (.engineChainEvent q e.bank e.seq 3) s = .next t ∧ t.core.queue p = freed))

/-- Control commands: QNOP does nothing but retire; QSTAMP retires once the lines owed to earlier releases have been written back and performed;
QARR raises its bank's arrival once the core has none on the channel, the bank is not stopped, and every dirty shared byte and every earlier
store has been performed or recorded (R217, R255, R401); QSIG, after such a release, adds its operand to a
doubleword at its place; QWAIT, at the head of its queue, reads its word and is dispatched with its work done by the read that
meets its condition, and stays where it is otherwise. -/
def Obligations.ControlCommands : Prop :=
  ∀ (q : Queue) (e : Entry) (s : State),
    (∀ p, p ≠ q → ∀ x ∈ s.core.queue p, x.cmd.opc ≠ e.cmd.opc) →
    (Say.Runs q 0xC0 e s → ∃ t, exec (.qnop e.bank e.seq) s = .next t ∧ t.mem = s.mem ∧ t.core.cx = s.core.cx
        ∧ ∀ x ∈ t.core.queue q, x.ord = e.ord → x.st = .worked ∧ x.status = 0)
    ∧ (Say.Runs q 0xC1 e s → enginesGo (sequencerRelease s) = false → exec (.qstamp e.bank e.seq) s = .next (sequencerRelease s))
    ∧ (Say.Runs q 0xC1 e s → enginesGo (sequencerRelease s) = true →
        ∃ t, exec (.qstamp e.bank e.seq) s = .next t ∧ t.mem = s.mem ∧ t.core.cx = s.core.cx
          ∧ ∀ x ∈ t.core.queue q, x.ord = e.ord → x.st = .worked ∧ x.status = 0)
    ∧ (∀ k : BitVec 3, Say.Runs q 0xC2 e s → e.cmd.a.toNat % 8 = k.toNat →
        let ch := s.core.chans[k.toNat]'k.isLt
        let u := writeBackShared s
        ((ch.a = true ∨ (s.core.bankOf e.bank).stopped = true) → exec (.qarr e.bank e.seq) s = .next s)
        ∧ (ch.a = false → (s.core.bankOf e.bank).stopped = false → (enginesGo u = false ∨ noneLate s.core = false) →
            exec (.qarr e.bank e.seq) s = .next u)
        ∧ (ch.a = false → (s.core.bankOf e.bank).stopped = false → enginesGo u = true → noneLate s.core = true →
            ∃ t, exec (.qarr e.bank e.seq) s = .next t ∧ (t.core.chans[k.toNat]'k.isLt).a = true ∧ t.core.cx = s.core.cx
            ∧ (∀ x ∈ t.core.queue q, x.ord = e.ord → x.st = .worked ∧ x.status = 0)
            ∧ ∀ bd, (s.core.bankOf e.bank).bound = some bd → ∀ d ∈ s.fab.doms, d.chan = k → d.launch = bd.launch → s.core.num ∈ d.members →
                s.core.num ∉ d.left → { d with arrived := d.arrived ++ [(s.core.num, e.cmd.b.getLsbD 0, .plain)] } ∈ t.fab.doms))
    ∧ (∀ p, Say.Runs q 0xC4 e s → engPlace s e.cmd.a 8 .amo = .ok p → p.key % 8 = 0 →
        let u := flushOwn p (sequencerRelease s)
        (enginesGo u = false → exec (.qsig e.bank e.seq) s = .next u)
        ∧ (enginesGo u = true → lineHeld s (lineOf p.key) = false → poisoned s p.key 8 = false →
        ∃ t, exec (.qsig e.bank e.seq) s = .next t ∧ t.core.cx = s.core.cx
          ∧ Say.Wrote (memWrite s.mem p.key (bytesOfNat 8 ((memNat s.mem p.key 8 + e.cmd.b.toNat) % 2 ^ 64))) s t
          ∧ ∀ x ∈ t.core.queue q, x.ord = e.ord → x.st = .worked ∧ x.status = 0))
    ∧ (∀ p, e ∈ s.core.queue q → e.cmd.opc = 0xC3 →
        (∀ x ∈ s.core.queue q, (x.bank = e.bank ∧ x.seq = e.seq ∧ x.inner = none) ∨ x.ord = e.ord → x = e) →
        seqHead s.core q = some e → mayDispatch s.core q e = true → engPlace s e.cmd.a 8 .read = .ok p → p.loc ≠ .host →
        needsFlush s (lineOf p.key) = false → poisoned s p.key 8 = false → (p.loc = .own ∨ behind (flushOwn p s) (lineOf p.key) = false) →
        let v := memNat s.mem p.key 8
        let mode := e.cmd.flags.extractLsb' 0 2
        let met := (mode = 0 ∧ e.cmd.b.toNat ≤ v) ∨ (mode = 1 ∧ v = e.cmd.b.toNat) ∨ (mode = 2 ∧ v ≠ e.cmd.b.toNat)
        (met → ∃ t, exec (.qwait e.bank e.seq) s = .next t ∧ t.mem = s.mem ∧ t.core.cx = s.core.cx
            ∧ ∀ x ∈ t.core.queue q, x.ord = e.ord → x.st = .worked ∧ x.status = 0)
        ∧ (mode ≠ 3 → ¬met → ∃ t, exec (.qwait e.bank e.seq) s = .next t ∧ t.mem = s.mem ∧ t.core.queue q = s.core.queue q))
/-! ### The matrix array (R196 to R199, R379 to R381) -/

/-- The `n` bytes at an address of the process lie at `n` consecutive memory keys from `k` on, whatever stands in memory (a window, or a
translation that a TLB holds); none is poisoned or of the bark metadata, no write to them is held for replicas, and bytes that are to be written have none (R154). -/
def Sys2Proof.Say.Flat (s : State) (va : Word) (n : Nat) (acc : Acc) (k : Nat) : Prop :=
  (∀ p ∈ lineParts va n, ∀ m, ∃ q, engPlace { s with mem := m } (va + BitVec.ofNat 64 p.1) p.2 acc = .ok q ∧ q.key = k + p.1
    ∧ poisoned s q.key p.2 = false ∧ hostFails s q.key = false) 
    ∧ ∀ i, i < n → Say.plain s (k + i) ∧ lineHeld s (lineOf (k + i)) = false ∧ (acc = .write → isRepl s (lineOf (k + i)) = false)

/-- Element (i, j) of an accumulator tile. -/
def Sys2Proof.Say.cell (a : BitVec 8192) (i j : Nat) : BitVec 32 := a.extractLsb' (32 * (16 * i + j)) 32

/-- No other accumulator of the entry's bank and no byte of memory has changed. -/
def Sys2Proof.Say.OnlyAcc (e : Entry) (s t : State) : Prop :=
  (∀ k, k < 4 → k ≠ e.cmd.a.toNat → accOf t e.bank k = accOf s e.bank k) ∧ t.mem = s.mem

/-- An accumulator plus exact products, in one rounding; under ZA no product with a zero operand is formed (R197, R199). -/
def Sys2Proof.Say.addProducts (za : Bool) (acc : Nat) (xs : List (Fv × Fv)) : Nat :=
  let ps := xs.filter fun p => !(za && (p.1.isZero || p.2.isZero))
  if ps = [] then acc else (roundF ff32 .rne false (addF .rne (decodeF ff32 acc :: ps.map fun p => (mulF p.1 p.2).1)).1).1

/-- One tile step of cell (i, j) on operand tiles in formats `fa` and `fb`: two products at a time for fp8, one for the wider floats, and the
exact sum modulo 2^32 for i8 (R197). -/
def Sys2Proof.Say.stepCell (za : Bool) (fa fb : Nat) (ta tb : List Nat) (i j acc : Nat) : Nat :=
  match ffOf fa, ffOf fb with
  | some f, some g =>
    let x := fun k => (decodeF f (ta.getD (16 * i + k) 0), decodeF g (tb.getD (16 * k + j) 0))
    if isFp8 fa then (List.range 8).foldl (fun a m => Say.addProducts za a [x (2 * m), x (2 * m + 1)]) acc
    else (List.range 16).foldl (fun a k => Say.addProducts za a [x k]) acc
  | _, _ =>
    let sum : Int := ((List.range 16).map fun k => sintN (ta.getD (16 * i + k) 0) 8 * sintN (tb.getD (16 * k + j) 0) 8).sum
    (BitVec.ofInt 32 (acc + sum)).toNat

/-- An accumulator element as MSTA stores it (R381). -/
def Sys2Proof.Say.stored32 (c : Cmd) (x : BitVec 32) : Nat :=
  let sat := c.flags.getLsbD 0
  if c.fmtA = 0x12 ∧ c.fmtB = 0x10 then (if sat then (Say.nearest 8 x.toInt).toNat else (x.extractLsb' 0 8).toNat)
  else if c.fmtB = 0x01 ∨ c.fmtB = 0x12 then x.toNat
  else match ffOf c.fmtB.toNat with
    | some f => (roundF f .rne sat (decodeF ff32 x.toNat)).1
    | none => x.toNat

/-- MZERO, MTRN, MLDA and MSTA: an accumulator cleared, transposed, loaded from 1,024 bytes, and stored row by row in a format; a source that
cannot be read leaves the accumulator as it is and gives a status. -/
def Obligations.AccumulatorCommands : Prop :=
  ∀ (e : Entry) (s : State), e.cmd.a.toNat < 4 → Memory.wf s.mem = true →
    let a := e.cmd.a.toNat
    (Say.Runs .mq 0x00 e s → ∃ t, exec (.mzero e.bank e.seq) s = .next t ∧ Say.Done .mq e 0 0 s t ∧ Say.OnlyAcc e s t ∧ accOf t e.bank a = 0)
    ∧ (Say.Runs .mq 0x05 e s → ∃ t, exec (.mtrn e.bank e.seq) s = .next t ∧ Say.Done .mq e 0 0 s t ∧ Say.OnlyAcc e s t
        ∧ ∀ i j, i < 16 → j < 16 → Say.cell (accOf t e.bank a) i j = Say.cell (accOf s e.bank e.cmd.b.toNat) j i)
    ∧ (∀ k, Say.Runs .mq 0x03 e s → Say.Flat s e.cmd.b 1024 .read k →
        ∃ t, exec (.mlda e.bank e.seq) s = .next t ∧ Say.Done .mq e 0 0 s t ∧ Say.OnlyAcc e s t
          ∧ ∀ i j, i < 16 → j < 16 → Say.cell (accOf t e.bank a) i j = BitVec.ofNat 32 (memNat s.mem (k + 4 * (16 * i + j)) 4))
    ∧ (∀ bs st va, Say.Runs .mq 0x03 e s → engRead s e.cmd.b 1024 0x52 = ⟨bs, some (st, va)⟩ →
        ∃ t, exec (.mlda e.bank e.seq) s = .next t ∧ Say.Done .mq e st va s t ∧ t.mem = s.mem ∧ ∀ j, j < 4 → accOf t e.bank j = accOf s e.bank j)
    ∧ (∀ k, Say.Runs .mq 0x04 e s →
        let w := fmtWidth e.cmd.fmtB.toNat
        let p := e.cmd.c.toNat
        (e.cmd.fmtA = 0x12 → e.cmd.fmtB = 0x12 ∨ e.cmd.fmtB = 0x10) → 16 * w ≤ p → 0 < w →
        (∀ i, i < 16 → Say.Flat s (e.cmd.b + BitVec.ofNat 64 i * e.cmd.c) (16 * w) .write (k + i * p)) →
        ∃ t, exec (.msta e.bank e.seq) s = .next t ∧ Say.Done .mq e 0 0 s t ∧ (∀ j, j < 4 → accOf t e.bank j = accOf s e.bank j)
          ∧ (∀ i j, i < 16 → j < 16 → memNat t.mem (k + i * p + w * j) w = Say.stored32 e.cmd (Say.cell (accOf s e.bank a) i j) % 256 ^ w)
          ∧ ∀ b, Say.plain s b → (∀ i, i < 16 → b < k + i * p ∨ k + i * p + 16 * w ≤ b) → memGet t.mem b = memGet s.mem b)

/-- MMA: every cell of the accumulator takes the products of all tile steps in increasing k, over the tiles of a repeat and then over the
repeats, from 0 where `clr` asks for it. MMAS: the sum of each block is scaled by its two scale bytes and added in one rounding. A tile of the
first step that cannot be read gives its status and adds nothing. -/
def Obligations.MatrixProducts : Prop :=
  ∀ (e : Entry) (s : State) (i j : Nat), e.cmd.a.toNat < 4 → i < 16 → j < 16 →
    let c := e.cmd
    let fa := c.fmtA.toNat
    let fb := c.fmtB.toNat
    let n := c.d.toNat
    let za := c.flags.getLsbD 0
    let old := if c.flags.getLsbD 1 then 0 else (Say.cell (accOf s e.bank c.a.toNat) i j).toNat
    let tile := fun (f : Nat) (base stride : Word) (r t : Nat) => readTile s c f (base + BitVec.ofNat 64 r * stride) t
    (∀ A B : Nat → Nat → List Nat, Say.Runs .mq 0x01 e s →
        (∀ r t, r < c.reps → t < n → tile fa c.b c.e r t = .ok (A r t) ∧ tile fb c.c c.f r t = .ok (B r t)) →
        ∃ u, exec (.mma e.bank e.seq) s = .next u ∧ Say.Done .mq e 0 0 s u ∧ Say.OnlyAcc e s u
          ∧ Say.cell (accOf u e.bank c.a.toNat) i j = BitVec.ofNat 32 ((List.range c.reps).foldl (fun x r =>
              (List.range n).foldl (fun x t => Say.stepCell za fa fb (A r t) (B r t) i j x) x) old))
    ∧ (∀ f, Say.Runs .mq 0x01 e s → 0 < n → 0 < c.reps → tile fa c.b c.e 0 0 = .error f →
        ∃ u, exec (.mma e.bank e.seq) s = .next u ∧ Say.Done .mq e f.1 f.2 s u ∧ Say.OnlyAcc e s u
          ∧ Say.cell (accOf u e.bank c.a.toNat) i j = BitVec.ofNat 32 old)
    ∧ (∀ (A B : Nat → Nat → List Nat) (sa sb : Nat → Nat → Byte), Say.Runs .mq 0x02 e s →
        let k := if c.flags.getLsbD 4 then 2 else 1
        let nb := n / k
        let at_ := fun (base : Word) (r m : Nat) => base + BitVec.ofNat 64 (r * nb) + BitVec.ofNat 64 m
        (∀ r t, r < c.reps → t < n →
          readTile s c fa (c.b + BitVec.ofNat 64 (r * (n * tileBytes c fa))) t = .ok (A r t)
          ∧ readTile s c fb (c.c + BitVec.ofNat 64 (r * (n * tileBytes c fb))) t = .ok (B r t)) →
        (∀ r m, r < c.reps → m < nb → engRead s (at_ c.e r m) 1 0x51 = ⟨[sa r m], none⟩ ∧ engRead s (at_ c.f r m) 1 0x51 = ⟨[sb r m], none⟩) →
        ∃ u, exec (.mmas e.bank e.seq) s = .next u ∧ Say.Done .mq e 0 0 s u ∧ Say.OnlyAcc e s u
          ∧ Say.cell (accOf u e.bank c.a.toNat) i j = BitVec.ofNat 32 ((List.range c.reps).foldl (fun x r =>
              (List.range nb).foldl (fun x m =>
                let p := (List.range k).foldl (fun p y => Say.stepCell za fa fb (A r (m * k + y)) (B r (m * k + y)) i j p) 0
                if sa r m = 255 ∨ sb r m = 255 then 0x7FC00000
                else (roundF ff32 .rne false (addF .rne [decodeF ff32 x,
                  (decodeF ff32 p).scale (((sa r m).toNat : Int) - 127 + (((sb r m).toNat : Int) - 127))]).1).1) x) old))
/-! ### The copy engine (R153, R189, R195, R340, R382 to R388, R391, R392) -/

/-- What dinject inverts in the byte at transfer offset `x` (R340). -/
def Sys2Proof.Say.flip (e : Entry) (x : Nat) : Byte :=
  match e.inject with
  | some (off, bit) => if x = off.toNat then 1#8 <<< bit.toNat else 0
  | none => 0

/-- `l` repeats of `n` bytes, from `src` to `dst`, whose destinations overlap neither one another nor a source: every byte moves, dinject's
bit apart, and no other byte of memory changes, bark metadata apart (R155). -/
def Sys2Proof.Say.Copies (i : Instr) (e : Entry) (n l : Nat) (src dst : Nat → Word) (s : State) (P : State → Prop) : Prop :=
  ∀ ks kd : Nat → Nat, Memory.wf s.mem = true → (∀ r, r < l → Say.Flat s (src r) n .read (ks r) ∧ Say.Flat s (dst r) n .write (kd r)) →
    (∀ r q, r < l → q < l → (r ≠ q → kd r + n ≤ kd q ∨ kd q + n ≤ kd r) ∧ (kd r + n ≤ ks q ∨ ks q + n ≤ kd r)) →
    ∃ t, exec i s = .next t ∧ P t ∧ (∀ r x, r < l → x < n → memGet t.mem (kd r + x) = memGet s.mem (ks r + x) ^^^ Say.flip e (r * n + x))
      ∧ ∀ a, Say.plain s a → (∀ r, r < l → a < kd r ∨ kd r + n ≤ a) → memGet t.mem a = memGet s.mem a

/-- The repeat `r` of a command's address with a stride. -/
def Sys2Proof.Say.at (base stride : Word) (r : Nat) : Word := base + BitVec.ofNat 64 r * stride

/-- The checksum of a CPYK over bytes in transfer order (R385). -/
def Sys2Proof.Say.checksum (c : Cmd) (v : W32) (bs : List Byte) : W32 := if c.flags.getLsbD 0 then crc32c v bs else adler v bs

/-- CPY moves bytes or converts elements, repeat by repeat; CPYS moves runs; CPYK moves them, or only reads them, and keeps their checksum in
its entry; CFILL repeats a pattern of 8 or 128 bytes. A CPY whose first access to host space the host completes with an error ends with
status 0x76 and copies nothing (which accesses these are is open, log 74). -/
def Obligations.CopyCommands : Prop :=
  ∀ (e : Entry) (s : State),
    let c := e.cmd
    let n := c.c.toNat
    let l := c.reps
    let worked := fun (v : W32) (t : State) => ∀ x ∈ t.core.queue .cq, x.ord = e.ord → x.st = .worked ∧ x.status = 0 ∧ x.ck = v
    (Say.Runs .cq 0x40 e s → c.fmtA = 0 → Say.Copies (.cpy e.bank e.seq) e n l (Say.at c.b c.f) (Say.at c.a c.e) s (Say.Done .cq e 0 0 s))
    ∧ (∀ q, Say.Runs .cq 0x40 e s → c.fmtA = 0 → 0 < n → 0 < l → e.inject = none →
        engPlace s c.b (min n (128 - c.b.toNat % 128)) .read = .ok q → isHostKey q.key = true →
        ∃ t, exec (.cpy e.bank e.seq) s = .next t ∧ (hostFails s q.key = true → Say.Done .cq e 0x76 c.b s t ∧ t.mem = s.mem))
    ∧ (Say.Runs .cq 0x41 e s → Say.Copies (.cpys e.bank e.seq) e n l (Say.at c.b c.c) (Say.at c.a c.c) s (Say.Done .cq e 0 0 s))
    ∧ (∀ v, Say.Runs .cq 0x42 e s → e.ckStart = some v → c.flags.getLsbD 4 = false → c.flags.getLsbD 3 = false → e.inject = none →
        ∀ ks : Nat → Nat, (∀ r, r < l → Say.Flat s (Say.at c.b c.c r) n .read (ks r)) →
        Say.Copies (.cpyk e.bank e.seq) e n l (Say.at c.b c.c) (Say.at c.a c.c) s
          (worked (Say.checksum c v ((List.range l).flatMap fun r => memRead s.mem (ks r) n))))
    ∧ (∀ v, Say.Runs .cq 0x42 e s → e.ckStart = some v → c.flags.getLsbD 4 = false → c.flags.getLsbD 3 = true → e.inject = none →
        ∀ ks : Nat → Nat, (∀ r, r < l → Say.Flat s (Say.at c.b c.c r) n .read (ks r)) →
        ∃ t, exec (.cpyk e.bank e.seq) s = .next t ∧ t.mem = s.mem
          ∧ worked (Say.checksum c v ((List.range l).flatMap fun r => memRead s.mem (ks r) n)) t)
    ∧ (∀ ks kd : Nat → Nat, Say.Runs .cq 0x40 e s → c.fmtA ≠ 0 → c.fmtA ≠ 0x06 → e.inject = none → Memory.wf s.mem = true →
        let ws := fmtWidth c.fmtA.toNat
        let wd := fmtWidth c.fmtB.toNat
        0 < ws → n % ws = 0 → (∀ r, r < l → Say.Flat s (Say.at c.b c.f r) n .read (ks r) ∧ Say.Flat s (Say.at c.a c.e r) (n / ws * wd) .write (kd r)) →
        (∀ r q, r < l → q < l → (r ≠ q → kd r + n / ws * wd ≤ kd q ∨ kd q + n / ws * wd ≤ kd r)
          ∧ (kd r + n / ws * wd ≤ ks q ∨ ks q + n ≤ kd r)) →
        ∃ t, exec (.cpy e.bank e.seq) s = .next t ∧ Say.Done .cq e 0 0 s t
          ∧ (∀ r x, r < l → x < n / ws → memNat t.mem (kd r + wd * x) wd =
              fmtConv c.fmtB.toNat (cpyMode c) (c.flags.getLsbD 2) (fmtDecode c.fmtA.toNat (memNat s.mem (ks r + ws * x) ws)) % 256 ^ wd)
          ∧ ∀ a, Say.plain s a → (∀ r, r < l → a < kd r ∨ kd r + n / ws * wd ≤ a) → memGet t.mem a = memGet s.mem a)
    ∧ (∀ kd : Nat → Nat, Say.Runs .cq 0x43 e s → Memory.wf s.mem = true → (∀ r, r < l → Say.Flat s (Say.at c.a c.e r) n .write (kd r)) →
        (∀ r q, r < l → q < l → r ≠ q → kd r + n ≤ kd q ∨ kd q + n ≤ kd r) →
        ∃ t, exec (.cfill e.bank e.seq) s = .next t ∧ Say.Done .cq e 0 0 s t
          ∧ (∀ r x, r < l → x < n → memGet t.mem (kd r + x) = (match c.vpat with
              | some v => v.extractLsb' (8 * (x % 128)) 8
              | none => c.b.extractLsb' (8 * (x % 8)) 8))
          ∧ ∀ a, Say.plain s a → (∀ r, r < l → a < kd r ∨ kd r + n ≤ a) → memGet t.mem a = memGet s.mem a)

/-- A tile of a grain buffer as CPY leaves it: a SLOW one is written as a PLAIN tile with MODE 0 (R195, R383). -/
def Sys2Proof.Say.grainOut (slot : List Byte) (es : List Nat) : List Byte :=
  if (slot.getD 0 0).getLsbD 5 then
    [0x10#8, 0x04#8, 0x01#8, 0x00#8] ++ es.map (BitVec.ofNat 8) ++ List.replicate (slot.length - (4 + es.length)) 0
  else slot

/-- The operation of SCAT on the `w` bytes in memory, read as `m`, and the operand `o` (R388). -/
def Sys2Proof.Say.scat (c : Cmd) (w m o : Nat) : Nat :=
  let less := if 0x14 ≤ c.fmtA.toNat then decide (m < o) else decide (sintN m (8 * w) < sintN o (8 * w))
  match (c.flags.extractLsb' 3 2).toNat with
  | 0 => o
  | 1 => if c.fmtA = 0x01 then (roundF ff32 .rne false (addF .rne [decodeF ff32 m, decodeF ff32 o]).1).1 else (m + o) % 256 ^ w
  | 2 => if c.fmtA = 0x01 then (minmaxF ff32 false m o).1 else if less then m else o
  | _ => if c.fmtA = 0x01 then (minmaxF ff32 true m o).1 else if less then o else m

/-- CPY of a grain buffer keeps its header and every tile, a SLOW one as a plain tile; a header outside R190 gives status 0x73. GATH collects
elements by index, SCAT performs one element operation after another, CDEC decodes a run of tiles, and CCNT stores a slice's counters
(one whose destination lines have not met the slice before its turn). -/
def Obligations.GrainGatherAndCounters : Prop :=
  ∀ (e : Entry) (s : State), Memory.wf s.mem = true → e.inject = none →
    let c := e.cmd
    let w := elemBytes c
    (∀ ks, Say.Runs .cq 0x40 e s → c.fmtA = 0x06 → Say.Flat s c.b 32 .read ks → grainHdr (memRead s.mem ks 32) = none →
        ∃ t, exec (.cpyGrain e.bank e.seq) s = .next t ∧ Say.Done .cq e 0x73 c.b s t ∧ t.mem = s.mem)
    ∧ (∀ ks kd h (es : Nat → List Nat), Say.Runs .cq 0x40 e s → c.fmtA = 0x06 → grainHdr (memRead s.mem ks 32) = some h →
        let z := 32 * h.slot
        let total := 32 + z * (h.tr * h.tc)
        c.c.toNat = total → Say.Flat s c.b 32 .read ks → Say.Flat s c.b total .read ks → Say.Flat s c.a total .write kd →
        (kd + total ≤ ks ∨ ks + total ≤ kd) →
        (∀ i, i < h.tr * h.tc → Say.Flat s (c.b + BitVec.ofNat 64 (32 + z * i)) z .read (ks + 32 + z * i)
          ∧ decodeTile (memRead s.mem (ks + 32 + z * i) z) = some (es i)) →
        ∃ t, exec (.cpyGrain e.bank e.seq) s = .next t ∧ Say.Done .cq e 0 0 s t ∧ memRead t.mem kd 32 = memRead s.mem ks 32
          ∧ (∀ i, i < h.tr * h.tc → memRead t.mem (kd + 32 + z * i) z = Say.grainOut (memRead s.mem (ks + 32 + z * i) z) (es i))
          ∧ Say.LandsIn kd total s t)
    ∧ (∀ (ix : Nat → Word) (pl : Nat → Place) kd, Say.Runs .cq 0x44 e s →
        let k := c.e.toNat * c.reps
        (∀ j, j < k → readIndex s c j = .ok (ix j) ∧ elemPlace s (c.b + ix j * BitVec.ofNat 64 w) w .read = some (pl j)
          ∧ poisoned s (pl j).key w = false) → Say.Flat s c.a (w * k) .write kd →
        ∃ t, exec (.gath e.bank e.seq) s = .next t ∧ Say.Done .cq e 0 0 s t ∧ Say.LandsIn kd (w * k) s t
          ∧ ∀ j, j < k → memRead t.mem (kd + w * j) w = memRead s.mem (pl j).key w)
    ∧ (∀ (ix : Nat → Word) (pl : Nat → Place) (src : Nat → List Byte), Say.Runs .cq 0x45 e s →
        let k := c.e.toNat * c.reps
        (∀ j, j < k → engRead s (c.b + BitVec.ofNat 64 (w * j)) w 0x70 = ⟨src j, none⟩ ∧ readIndex s c j = .ok (ix j)
          ∧ elemPlace s (c.a + ix j * BitVec.ofNat 64 w) w .write = some (pl j) ∧ poisoned s (pl j).key w = false
          ∧ (pl j).key % w = 0 ∧ (∀ x, x < w → Say.plain s ((pl j).key + x)) ∧ lineHeld s (lineOf (pl j).key) = false ∧ isRepl s (lineOf (pl j).key) = false) →
        (∀ i j, i < k → j < k → i ≠ j → (pl i).key ≠ (pl j).key) →
        ∃ t, exec (.scat e.bank e.seq) s = .next t ∧ Say.Done .cq e 0 0 s t
          ∧ (∀ j, j < k → memNat t.mem (pl j).key w = Say.scat c w (memNat s.mem (pl j).key w) (natOfBytes (src j)) % 256 ^ w)
          ∧ ∀ a, Say.plain s a → (∀ j, j < k → a < (pl j).key ∨ (pl j).key + w ≤ a) → memGet t.mem a = memGet s.mem a)
    ∧ (∀ hb h (sb : Nat → List Byte) (es : Nat → List Nat) kd, Say.Runs .cq 0x4A e s → engRead s c.b 32 0x70 = ⟨hb, none⟩ → grainHdr hb = some h →
        let wd := fmtWidth c.fmtB.toNat
        let n := c.e.toNat
        c.c.toNat + n ≤ h.tr * h.tc → 0 < wd →
        (∀ j, j < n → engRead s (c.b + BitVec.ofNat 64 (32 + 32 * h.slot * (c.c.toNat + j))) (32 * h.slot) 0x70 = ⟨sb j, none⟩
          ∧ decodeTile (sb j) = some (es j)) → Say.Flat s c.a (256 * wd * n) .write kd →
        ∃ t, exec (.cdec e.bank e.seq) s = .next t ∧ Say.Done .cq e 0 0 s t ∧ Say.LandsIn kd (256 * wd * n) s t
          ∧ ∀ j x, j < n → x < 256 → memNat t.mem (kd + 256 * wd * j + wd * x) wd =
              fmtConv c.fmtB.toNat .rne false (.flt (decodeF ffe4 ((es j).getD x 0))) % 256 ^ wd)
    ∧ (∀ kd : Nat → Nat, Say.Runs .cq 0x4B e s → (∀ r, r < c.reps → Say.Flat s (c.a + BitVec.ofNat 64 (192 * r)) 192 .write (kd r)
          ∧ groveAllowed s s.core.num (groveOfTwig (c.b.toNat + r)) = true) →
        (∀ r q, r < c.reps → q < c.reps → r ≠ q → kd r + 192 ≤ kd q ∨ kd q + 192 ≤ kd r) →
        ∃ t, exec (.ccnt e.bank e.seq) s = .next t ∧ Say.Done .cq e 0 0 s t
          ∧ (∀ a, Say.plain s a → (∀ r, r < c.reps → a < kd r ∨ kd r + 192 ≤ a) → memGet t.mem a = memGet s.mem a)
          ∧ ∀ r, r < c.reps → (∀ q i, q < r → i < 192 → isDramKey (kd q + i) = true → homeSlice (kd q + i) ≠ c.b.toNat + r) →
              let x := getSlice s (c.b.toNat + r)
              let count := fun (code : Nat) => (x.lines.filter fun l => l.code == code).length
              ∀ y ∈ [(0, x.lines.length), (1, (x.lines.map (·.sectors)).sum), (2, count 0), (9, count 7), (17, count 15), (18, x.cnt.fillcmp.toNat),
                  (19, x.cnt.wexp.toNat), (20, x.cnt.expevict.toNat), (21, x.cnt.merged.toNat), (22, x.cnt.mcast.toNat), (23, 0)],
                memNat t.mem (kd r + 8 * y.1) 8 = y.2 % 2 ^ 64)
/-! ### Storage and the peer transport (R75 to R81, R389, R390) -/

/-- A storage or peer command that its queue has dispatched and that has nothing outstanding. -/
def Sys2Proof.Say.Starts (opc : Nat) (e : Entry) (s : State) : Prop := Say.Runs .cq opc e s ∧ e.outstanding = 0

/-- The entry's command has done its work with a status; the other entries stand. -/
def Sys2Proof.Say.Ends (e : Entry) (st : BitVec 8) (s t : State) : Prop :=
  (∀ x ∈ t.core.queue .cq, x.ord = e.ord → x.st = .worked ∧ x.status = st) ∧ (∀ x ∈ s.core.queue .cq, x.ord ≠ e.ord → x ∈ t.core.queue .cq)

/-- No part of the range lies in host space: it is device DRAM or the own pool (R389). -/
def Sys2Proof.Say.Inside (s : State) (va : Word) (n : Nat) (acc : Acc) : Prop :=
  ∀ p ∈ lineParts va n, ∀ m q, engPlace { s with mem := m } (va + BitVec.ofNat 64 p.1) p.2 acc = .ok q → q.loc ≠ .host

/-- SRD and SWR check the extent table (none: status 0x80) and hand out pieces that cover the transfer; a source in host space gives 0x70. A
piece that ends well has brought its bytes to their place, one that fails gives 0x81, one that exceeds its timeout 0x82, a destination in
host space 0x71, and the last piece ends the command's work. Above S0 a process is given up to 64 extents, of attached namespaces in their
blocks of 512 B or 4,096 B; another table is refused. That the pieces lie at multiples of the piece's size is the model's choice (log 37), and so
is how a drive answers for a namespace (log 91). -/
def Obligations.StorageCommands : Prop :=
  ∀ (e : Entry) (s : State), Memory.wf s.mem = true →
    let c := e.cmd
    let n := c.c.toNat
    let ext := fun (read : Bool) => extentFor s read (c.e.toNat % 16) (c.e.toNat / 16) c.b.toNat n
    (Say.Starts 0x46 e s → ext true = none → ∃ t, exec (.srd e.bank e.seq) s = .next t ∧ Say.Ends e 0x80 s t ∧ t.io = s.io ∧ t.mem = s.mem)
    ∧ (Say.Starts 0x47 e s → ext false = none → ∃ t, exec (.swr e.bank e.seq) s = .next t ∧ Say.Ends e 0x80 s t ∧ t.io = s.io ∧ t.mem = s.mem)
    ∧ (∀ x, Say.Starts 0x46 e s → ext true = some x →
        let z := pieceBytes (c.e.toNat % 16) x.lba
        let m := (n + z - 1) / z
        ∃ t ps, exec (.srd e.bank e.seq) s = .next t ∧ t.mem = s.mem ∧ t.io.pieces = s.io.pieces ++ ps ∧ ps.length = m
          ∧ (∀ y ∈ t.core.queue .cq, y.ord = e.ord → y.st = .flight ∧ y.outstanding = m)
          ∧ ∀ i p, ps[i]? = some p → p.read = true ∧ p.off = i * z ∧ p.len = min z (n - i * z) ∧ p.lba = c.b.toNat + i * z / x.lba
              ∧ p.addr = c.a + BitVec.ofNat 64 (i * z) ∧ p.seq = e.seq ∧ p.bank = e.bank ∧ p.core = s.core.num)
    ∧ (∀ x k, Say.Starts 0x47 e s → ext false = some x → c.flags.getLsbD 0 = false → Say.Flat s c.a n .read k → Say.Inside s c.a n .read → e.inject = none →
        let z := pieceBytes (c.e.toNat % 16) x.lba
        ∃ t ps, exec (.swr e.bank e.seq) s = .next t ∧ t.mem = s.mem ∧ t.io.pieces = s.io.pieces ++ ps ∧ ps.length = (n + z - 1) / z
          ∧ ∀ i p, ps[i]? = some p → p.read = false ∧ p.off = i * z ∧ p.len = min z (n - i * z) ∧ p.lba = c.b.toNat + i * z / x.lba
              ∧ p.data = memRead s.mem (k + i * z) p.len)
    ∧ (∀ x q, Say.Starts 0x47 e s → ext false = some x → c.flags.getLsbD 0 = false → 0 < n →
        engPlace s c.a (min n (128 - c.a.toNat % 128)) .read = .ok q → q.loc = .host →
        ∃ t, exec (.swr e.bank e.seq) s = .next t ∧ Say.Ends e 0x70 s t ∧ t.io = s.io ∧ t.mem = s.mem)
    ∧ (∀ p data k, p ∈ s.io.pieces → (∀ q ∈ s.io.pieces, q.id = p.id → q = p) → p.core = s.core.num → p.q = .cq → p.bank = e.bank → p.seq = e.seq →
        e ∈ s.core.queue .cq → e.inner = none →
        (∀ x ∈ s.core.queue .cq, (x.bank = e.bank ∧ x.seq = e.seq ∧ x.inner = none) ∨ x.ord = e.ord → x = e) → e.st = .flight →
        pieceOver s p = true → e.inject = none → p.rawb = false → p.ckpt = false → s.ms.poisonList = [] →
        let left := fun (t : State) (st : BitVec 8) => (∀ q, q ∈ t.io.pieces ↔ q ∈ s.io.pieces ∧ q ≠ p)
          ∧ ∀ x ∈ t.core.queue .cq, x.ord = e.ord → x.outstanding = e.outstanding - 1 ∧ x.st = (if e.outstanding ≤ 1 then .worked else .flight)
              ∧ x.status = (if e.status = 0 then st else e.status)
        (p.read = true → data.length = p.len → Say.Flat s p.addr p.len .write k → Say.Inside s p.addr p.len .write →
          ∃ t, exec (.nvmePieceComplete p.id true data) s = .next t ∧ left t 0 ∧ memRead t.mem k p.len = data ∧ Say.LandsIn k p.len s t)
        ∧ (∀ q, p.read = true → data.length = p.len → 0 < p.len → engPlace s p.addr (min p.len (128 - p.addr.toNat % 128)) .write = .ok q →
          q.loc = .host → ∃ t, exec (.nvmePieceComplete p.id true data) s = .next t ∧ left t 0x71 ∧ t.mem = s.mem)
        ∧ (p.read = false → (∃ t, exec (.nvmePieceComplete p.id true data) s = .next t ∧ left t 0 ∧ t.mem = s.mem)
            ∧ (∃ t, exec (.nvmePieceComplete p.id false data) s = .next t ∧ left t 0x81 ∧ t.mem = s.mem)
            ∧ (p.since + nvmeTicks p.drive ≤ s.pkg.time → ∃ t, exec (.nvmePieceTimeout p.id) s = .next t ∧ left t 0x82 ∧ t.mem = s.mem)
            ∧ (s.pkg.time < p.since + nvmeTicks p.drive → exec (.nvmePieceTimeout p.id) s = .next s)))
    ∧ (∀ asid xs, s.pkg.sl = 0 → exec (.extentTableFill asid xs) s = .next s)
    ∧ ∀ (m : Mail Nat) xs, s.pkg.sl ≠ 0 → ∃ t, exec (.extentTableFill m xs) s = .next t ∧ t.mem = s.mem ∧ t.core = s.core
        ∧ ((xs.length ≤ 64 ∧ ∀ x ∈ xs, x.drive < 16 ∧ (x.lba = 512 ∨ x.lba = 4096) ∧ Config.lbaFormat x.drive x.nsid = (x.lba, 0)) →
            t.root.procs = s.root.procs.map (fun p => if p.asid = m.what then { p with extents := xs } else p)
              ∧ t.io.outs = s.io.outs ++ [.msi m.port 0])
        ∧ ((64 < xs.length ∨ ∃ x ∈ xs, 16 ≤ x.drive ∨ (x.lba ≠ 512 ∧ x.lba ≠ 4096) ∨ Config.lbaFormat x.drive x.nsid ≠ (x.lba, 0)) →
            t.root = s.root ∧ t.io.outs = s.io.outs ++ [.refused, .msi m.port 0])

/-- Packet number `i` of a run of bytes that is sent in packets of up to 8,192 B (R78). -/
def Sys2Proof.Say.packet (op : Nat) (p : Peer) (key : W32) (va : Word) (bs : List Byte) (i : Nat) : PeerPkt :=
  let d := (bs.drop (i * 8192)).take 8192
  { ver := 1, op := op, last := i + 1 == (bs.length + 8191) / 8192, refused := false, conn := p.info.connId, seq := p.nextSeq + BitVec.ofNat 32 i, key := key,
    addr := va + BitVec.ofNat 64 (i * 8192), len := d.length, ackseq := 0, data := d }

/-- An acknowledgement (3) or a refusal or gap (4) that goes out on a connection. -/
def Sys2Proof.Say.Answers (conn : Nat) (p : Peer) (op : Nat) (refused : Bool) (n : W32) (s t : State) : Prop :=
  ∃ a, t.io.sentPkts = s.io.sentPkts ++ [(conn, a)] ∧ a.op = op ∧ a.refused = refused ∧ a.ackseq = n ∧ a.conn = p.info.connId

/-- NRD sends one request and NWR its bytes in packets in sequence to the connection's I/O die (R420); a packet that arrives in order is performed,
answered or closes the entry, and acknowledged, one out of order is answered with what has been received; an acknowledgement drops what it covers and ends the command whose
last packet it covers; a refusal ends its command with 0x89; without an acknowledgement within 64 µs, doubled on each retry, the packets are
sent again, and eight retries fail the connection. The choices of the model: the first sequence numbers, LAST of an answer and what a repeated
packet or a gap is answered with (log 50), when retries and the timer start again (log 80), and which packets are dropped (log 86). -/
def Obligations.PeerTransport : Prop :=
  ∀ (conn : Nat) (p : Peer) (pkt : PeerPkt) (e : Entry) (s : State), peer? s conn = some p → Memory.wf s.mem = true → s.ms.heldW = [] → s.ms.poisonList = [] →
    let c := e.cmd
    let n := c.c.toNat
    let onWay := fun (r : PeerPkt) => (⟨.ext, twigOf s.core.num, peerNode conn, .peer conn r⟩ : Packet)
    let out := fun (u : PeerOut) => p.unacked = [u] ∧ u.core = s.core.num ∧ u.bank = e.bank ∧ u.seq = e.seq
    (p.st = .opened → p.closing = false → c.e.toNat = conn →
      (Say.Starts 0x48 e s → ∃ t r, exec (.nrd e.bank e.seq) s = .next t ∧ t.mem = s.mem ∧ t.fab.net = s.fab.net ++ [onWay r]
        ∧ r.ver = 1 ∧ r.op = 1 ∧ r.seq = p.nextSeq ∧ r.addr = c.b ∧ r.len = n ∧ r.key = p.info.key ∧ r.conn = p.info.connId ∧ r.last = true
        ∧ peer? t conn = some { p with nextSeq := p.nextSeq + 1, unacked := p.unacked ++ [⟨r, s.core.num, e.bank, e.seq⟩],
                                       reads := p.reads ++ [⟨s.core.num, e.bank, e.seq, c.a, n, []⟩],
                                       since := (if p.unacked = [] then s.pkg.time else p.since) })
      ∧ (∀ k, Say.Starts 0x49 e s → 0 < n → Say.Flat s c.b n .read k → e.inject = none →
          ∃ t, exec (.nwr e.bank e.seq) s = .next t ∧ t.mem = s.mem
            ∧ t.fab.net = s.fab.net ++ (List.range ((n + 8191) / 8192)).map fun i =>
                onWay (Say.packet 0 p p.info.key c.a (memRead s.mem k n) i)))
    ∧ ((p.st = .closed ∨ (p.st = .opened ∧ p.closing = true)) → c.e.toNat = conn →
        (Say.Starts 0x48 e s → ∃ t, exec (.nrd e.bank e.seq) s = .next t ∧ Say.Ends e 0x8A s t ∧ t.io = s.io)
        ∧ (Say.Starts 0x49 e s → ∃ t, exec (.nwr e.bank e.seq) s = .next t ∧ Say.Ends e 0x8A s t ∧ t.io = s.io))
    ∧ (∀ k, p.st = .opened → pktOk pkt = true → pkt.op = 0 → pkt.seq = p.expect → Say.Flat s pkt.addr pkt.data.length .write k → p.info.asid = s.core.asid →
        inWindow pkt.addr = false → pkt.addr.toNat + pkt.data.length ≤ 2 ^ 47 →
        (granted p.info pkt pkt.data.length true = true → ∃ t, exec (.peerWrite conn pkt) s = .next t ∧ memRead t.mem k pkt.data.length = pkt.data
          ∧ Say.LandsIn k pkt.data.length s t ∧ Say.Answers conn p 3 false pkt.seq s t)
        ∧ (granted p.info pkt pkt.data.length true = false → ∃ t, exec (.peerWrite conn pkt) s = .next t ∧ t.mem = s.mem
          ∧ Say.Answers conn p 4 true pkt.seq s t))
    ∧ (∀ k, p.st = .opened → pktOk pkt = true → pkt.op = 1 → pkt.seq = p.expect → 0 < pkt.len → Say.Flat s pkt.addr pkt.len .read k → p.info.asid = s.core.asid →
        inWindow pkt.addr = false → pkt.addr.toNat + pkt.len ≤ 2 ^ 47 → granted p.info pkt pkt.len false = true →
        ∃ t a, exec (.peerReadreq conn pkt) s = .next t ∧ t.mem = s.mem ∧ a.op = 3 ∧ a.ackseq = pkt.seq
          ∧ t.io.sentPkts = s.io.sentPkts ++ ((List.range ((pkt.len + 8191) / 8192)).map fun i =>
              (conn, Say.packet 2 p pkt.key pkt.addr (memRead s.mem k pkt.len) i)) ++ [(conn, a)])
    ∧ (∀ k r rs, p.st = .opened → p.closing = false → pktOk pkt = true → pkt.op = 2 → pkt.seq = p.expect → p.reads = r :: rs → Say.Runs .cq 0x48 e s → r.core = s.core.num →
        r.bank = e.bank → r.seq = e.seq → e.inject = none → p.conn = conn →
        let bs := r.held ++ pkt.data
        let n := bs.length / 128 * 128
        (pkt.data.length = r.left → Say.Flat s r.dest bs.length .write k →
          ∃ t, exec (.peerReadresp conn pkt) s = .next t ∧ Say.Ends e 0 s t ∧ memRead t.mem k bs.length = bs ∧ Say.LandsIn k bs.length s t
            ∧ Say.Answers conn p 3 false pkt.seq s t)
        ∧ (pkt.data.length < r.left → Say.Flat s r.dest n .write k →
          ∃ t, exec (.peerReadresp conn pkt) s = .next t ∧ t.core.queue .cq = s.core.queue .cq ∧ memRead t.mem k n = bs.take n
            ∧ Say.LandsIn k n s t ∧ Say.Answers conn p 3 false pkt.seq s t
            ∧ peer? t conn = some { p with expect := p.expect + 1,
                                           reads := { r with dest := r.dest + BitVec.ofNat 64 n, left := r.left - pkt.data.length, held := bs.drop n } :: rs }))
    ∧ (p.st = .opened → pktOk pkt = true → pkt.seq ≠ p.expect → ∀ i ∈ [(0, Instr.peerWrite conn pkt), (1, .peerReadreq conn pkt), (2, .peerReadresp conn pkt),
          (5, .peerClose conn pkt)], pkt.op = i.1 →
        ∃ t, exec i.2 s = .next t ∧ t.mem = s.mem ∧ t.core = s.core
          ∧ Say.Answers conn p (if (p.expect - pkt.seq).toNat < 2 ^ 31 then 3 else 4) false (p.expect - 1) s t)
    ∧ (∀ u, p.st = .opened → p.closing = false → out u → Say.Runs .cq 0x49 e s → p.reads = [] →
        (pkt.op = 3 → pktOk pkt = true → u.pkt.op = 0 → u.pkt.last = true → (pkt.ackseq - u.pkt.seq).toNat < 2 ^ 31 →
          ∃ t, exec (.peerAck conn pkt) s = .next t ∧ Say.Ends e 0 s t ∧ peer? t conn = some { p with unacked := [], retries := 0, since := s.pkg.time })
        ∧ (pkt.op = 4 → pktOk pkt = true → pkt.refused = true → u.pkt.op = 0 → u.pkt.last = true → pkt.ackseq = u.pkt.seq →
            ∃ t, exec (.peerNak conn pkt) s = .next t ∧ Say.Ends e 0x89 s t ∧ peer? t conn = some { p with unacked := [], retries := 0, since := s.pkg.time })
        ∧ (pkt.op = 4 → pktOk pkt = true → pkt.refused = false → 2 ^ 31 ≤ (pkt.ackseq - u.pkt.seq).toNat →
            ∃ t, exec (.peerNak conn pkt) s = .next t ∧ t.core = s.core ∧ t.io.sentPkts = s.io.sentPkts ++ [(conn, u.pkt)])
        ∧ (s.pkg.time < p.since + 6400 * 2 ^ p.retries → exec (.peerRetryTimeout conn) s = .next s)
        ∧ (p.since + 6400 * 2 ^ p.retries ≤ s.pkg.time → p.retries < 8 → ∃ t, exec (.peerRetryTimeout conn) s = .next t ∧ t.core = s.core ∧ t.io.sentPkts = s.io.sentPkts ++ [(conn, u.pkt)]
            ∧ peer? t conn = some { p with retries := p.retries + 1, since := s.pkg.time })
        ∧ (p.since + 6400 * 2 ^ p.retries ≤ s.pkg.time → 8 ≤ p.retries → ∃ t, exec (.peerRetryTimeout conn) s = .next t ∧ Say.Ends e 0x88 s t ∧ peer? t conn = some { p with st := .failed, unacked := [] })
        ∧ (pkt.op = 5 → pktOk pkt = true → pkt.seq = p.expect → ∃ t, exec (.peerClose conn pkt) s = .next t ∧ Say.Ends e 0x88 s t
            ∧ peer? t conn = some { p with st := .closed, unacked := [], expect := p.expect + 1 } ∧ Say.Answers conn p 3 false pkt.seq s t))
    ∧ (∀ b, s.pkg.sl ≠ 0 → p.st = .opened → p.closing = false → p.unacked = [] → p.reads = [] →
        ∃ t r, exec (.connectionClose ⟨b, conn⟩) s = .next t ∧ t.io.sentPkts = s.io.sentPkts ++ [(conn, r)] ∧ r.op = 5 ∧ r.seq = p.nextSeq ∧ r.len = 0
          ∧ t.io.outs = s.io.outs ++ [.msi b 0])
    ∧ (∀ b o, s.pkg.sl = 0 → exec (.peerTableOpen ⟨b, conn⟩ o) s = .next s ∧ exec (.connectionClose ⟨b, conn⟩) s = .next s)
    ∧ ∀ b o, s.pkg.sl ≠ 0 → conn < 512 → (p.st = .closed → ∃ t q, exec (.peerTableOpen ⟨b, conn⟩ o) s = .next t ∧ peer? t conn = some q ∧ q.st = .opened
          ∧ q.info = o ∧ q.closing = false ∧ q.unacked = [] ∧ q.nextSeq = 0 ∧ q.expect = 0 ∧ t.io.outs = s.io.outs ++ [.msi b 0])
        ∧ (p.st ≠ .closed → ∃ t, exec (.peerTableOpen ⟨b, conn⟩ o) s = .next t ∧ t.io.peers = s.io.peers
          ∧ t.io.outs = s.io.outs ++ [.refused, .msi b 0])
/-! ### The rule walker (R159 to R180, R393 to R400) -/

/-- A walker command `i` that its queue has dispatched and that is at its beginning; or the same command at the re-read of a record that it
waits for (R167), with what it has read once and kept (R178, R397), of which `K` holds. -/
def Sys2Proof.Say.Walks (own i : Instr) (opc : Nat) (e : Entry) (K : Nat × Nat → Prop) (s : State) : Prop :=
  Say.Runs .gq opc e s ∧ e.status = 0 ∧ e.prog = 0 ∧ ((e.recWait = none ∧ e.frozen = none ∧ i = own) ∨
    (i = .walkerRecordPoll ∧ (∃ f, e.frozen = some f ∧ K f) ∧ ∃ w, e.recWait = some w ∧ w.polled + 64 ≤ s.core.cycles ∧ ∀ x ∈ s.core.gq, x.st = .flight → x.recWait ≠ none → x = e))

/-- The walker command has done its work, with a status. -/
def Sys2Proof.Say.Walked (e : Entry) (st : BitVec 8) (s t : State) : Prop :=
  (∀ x ∈ t.core.gq, x.ord = e.ord → x.st = .worked ∧ x.status = st ∧ x.recWait = none) ∧ t.core.cx = s.core.cx

/-- A state in which a command's engine has written no byte outside `D` and has otherwise only made requests. -/
def Sys2Proof.Say.After (D : Nat → Prop) (s u : State) : Prop :=
  (∀ a, Say.plain s a → ¬D a → memGet u.mem a = memGet s.mem a) ∧ (∀ l ∈ u.poison, l ∈ s.poison)
    ∧ u = { s with mem := u.mem, poison := u.poison, resv := u.resv, mons := u.mons,
                   ms := { s.ms with slices := u.ms.slices, frames := u.ms.frames, sharers := u.ms.sharers },
                   fab := { s.fab with trips := u.fab.trips },
                   core := { s.core with l1 := u.core.l1, gq := u.core.gq, bank := { s.core.bank with counts := u.core.bank.counts } } }

/-- A state in which a command's engine has written nothing, and has made some of its reads. -/
def Sys2Proof.Say.Reading (s u : State) : Prop := Say.After (fun _ => False) s u

/-- A sequence grammar as the walker reads it: X gives the expansion of every symbol, val and raw give a terminal's value and its stored form. -/
def Sys2Proof.Say.Sequence (u : State) (base : Word) (g : Gram) (X : Nat → List Nat) (val raw : Nat → Nat) : Prop :=
  got (readGram u base) = .ok g ∧ g.isMat = false
    ∧ (∀ t, t < g.t → X t = [t] ∧ got (termVal u g t) = .ok (val t) ∧ got (termRaw u g t) = .ok (raw t))
    ∧ ∀ k, g.t ≤ k → k < g.t + g.n → ∃ kids, got (ruleKids u g k) = .ok kids ∧ X k = kids.flatMap X ∧ got (symLen u g k) = .ok (X k).length

/-- The sum of the values of terminals, modulo 2^64: what add.i makes of an expansion (R169). -/
def Sys2Proof.Say.total (val : Nat → Nat) (l : List Nat) : Nat := (l.map val).sum % 2 ^ 64

/-- GEVAL writes the records of its rules in increasing id, each with the sum over the rule's expansion (shown for add.i); GFETCH and GEXP
write the terminals at positions of the expansion, GPREF and a GEXP with `scan` the sums up to them; a position past the end gives 0x64,
with the results before it written. A record that is not valid makes the walker wait; it reads the record again at most once every 64
cycles, and 2^24 cycles without a valid record end the command with status 0x65. -/
def Obligations.WalkerSequences : Prop :=
  ∀ (e : Entry) (i : Instr) (s : State) (g : Gram) (X : Nat → List Nat) (val raw : Nat → Nat), Memory.wf s.mem = true →
    let c := e.cmd
    let w := outWidth g
    let top := X g.start
    let kept := fun (f : Nat × Nat) => gramOf c.a f.1 = g
    let holds := fun (u : State) => Say.Sequence u c.a g X val raw
    let table := fun (u : State) (x : Table) (ok : Nat → Prop) => got (tableFor u g c.c.toNat c.fmtA.toNat x.lift) = .ok x
      ∧ ∀ k, g.t ≤ k → k < g.t + g.n → ok k → ∃ bs, got (validRec u x g k) = .ok bs ∧ recordAttr x.lift bs = [Say.total val (X k)]
    (∀ (kd m : Nat) (ps : Nat → Nat), Say.Walks (.gfetch e.bank e.seq) i 0x81 e kept s →
        let n := c.e.toNat * c.reps
        (∀ u, Say.Reading s u → holds u ∧ ∀ j, j < n → got (walkNum u (c.b + BitVec.ofNat 64 (8 * j)) 8) = .ok (ps j)) →
        m ≤ n → (∀ j, j < m → ps j < top.length) → (m < n → top.length ≤ ps m) → Say.Flat s c.c (w * m) .write kd →
        ∃ t, exec i s = .next t ∧ Say.Walked e (if m = n then 0 else 0x64) s t ∧ Say.LandsIn kd (w * m) s t
          ∧ ∀ j, j < m → memNat t.mem (kd + w * j) w = raw (top.getD (ps j) 0) % 256 ^ w)
    ∧ (∀ (kd : Nat) (x : Table), Say.Walks (.gpref e.bank e.seq) i 0x82 e kept s → (c.b = 0 ∨ c.b = 2) → g.floating = false →
        x.lift = ⟨c.b.toNat, 0, 0, 0⟩ → (∀ u, Say.Reading s u → holds u ∧ table u x fun _ => True) →
        (∀ r, r < c.reps → (c.e + BitVec.ofNat 64 r).toNat < top.length) → Say.Flat s c.f (8 * c.reps) .write kd →
        ∃ t, exec i s = .next t ∧ Say.Walked e 0 s t ∧ Say.LandsIn kd (8 * c.reps) s t
          ∧ ∀ r, r < c.reps → memNat t.mem (kd + 8 * r) 8 = Say.total val (top.take ((c.e + BitVec.ofNat 64 r).toNat + 1)))
    ∧ (∀ kd : Nat, Say.Walks (.gexp e.bank e.seq) i 0x83 e kept s →
        let n := c.e.toNat / 2 ^ 48 * c.reps
        let pos := c.e.toNat % 2 ^ 48
        pos + n ≤ top.length →
        (c.flags.getLsbD 1 = false → (∀ u, Say.Reading s u → holds u) → Say.Flat s c.f (w * n) .write kd →
          ∃ t, exec i s = .next t ∧ Say.Walked e 0 s t ∧ Say.LandsIn kd (w * n) s t
            ∧ ∀ j, j < n → memNat t.mem (kd + w * j) w = raw (top.getD (pos + j) 0) % 256 ^ w)
        ∧ ∀ x, c.flags.getLsbD 1 = true → c.b = 2 → g.floating = false → x.lift = ⟨2, 0, 0, 0⟩ →
          (∀ u, Say.Reading s u → holds u ∧ table u x fun _ => True) → Say.Flat s c.f (8 * n) .write kd →
          ∃ t, exec i s = .next t ∧ Say.Walked e 0 s t ∧ Say.LandsIn kd (8 * n) s t
            ∧ ∀ j, j < n → memNat t.mem (kd + 8 * j) 8 = Say.total val (top.take (pos + j + 1)))
    ∧ (∀ (kr : Nat → Nat) (x : Table), Say.Walks (.geval e.bank e.seq) i 0x80 e kept s → (c.b = 0 ∨ c.b = 2) → g.floating = false →
        x.lift = ⟨c.b.toNat, 0, 0, 0⟩ → c.fmtA.toNat < 128 →
        let lo := c.e.toNat % 2 ^ 32
        let hi := c.e.toNat / 2 ^ 32
        let D := fun (a : Nat) => ∃ k, lo ≤ k ∧ k ≤ hi ∧ kr k ≤ a ∧ a < kr k + 32
        g.t ≤ lo → lo ≤ hi → hi < g.t + g.n → (∀ u, Say.After D s u → holds u ∧ table u x fun k => k < lo) →
        (∀ k, lo ≤ k → k ≤ hi → Say.Flat s (recVa x g k) 32 .write (kr k) ∧ Say.Flat s (recVa x g k) 32 .read (kr k)
          ∧ ∀ j, lo ≤ j → j ≤ hi → j ≠ k → kr k + 32 ≤ kr j ∨ kr j + 32 ≤ kr k) →
        ∃ t, exec i s = .next t ∧ Say.Walked e 0 s t ∧ (∀ a, Say.plain s a → ¬D a → memGet t.mem a = memGet s.mem a)
          ∧ ∀ k, lo ≤ k → k ≤ hi → memNat t.mem (kr k) 8 = (X k).length + c.b.toNat * 2 ^ 48 + c.fmtA.toNat * 2 ^ 56 + 2 ^ 63
              ∧ memNat t.mem (kr k + 8) 8 = Say.total val (X k) ∧ memNat t.mem (kr k + 16) 8 = 0 ∧ memNat t.mem (kr k + 24) 8 = 0)
    ∧ ∀ x k rest, Say.Runs .gq 0x80 e s → e.prog = 0 → (c.b = 0 ∨ c.b = 2) → g.floating = false → x.lift = ⟨c.b.toNat, 0, 0, 0⟩ →
        let lo := c.e.toNat % 2 ^ 32
        let hi := c.e.toNat / 2 ^ 32
        let now := s.core.cycles
        g.t ≤ lo → lo ≤ hi → hi < g.t + g.n → g.t ≤ k →
        (∀ u, Say.Reading s u → holds u ∧ got (tableFor u g c.c.toNat c.fmtA.toNat x.lift) = .ok x
          ∧ got (ruleKids u g lo) = .ok (k :: rest) ∧ got (validRec u x g k) = .error (.record k)) →
        let waits := fun (i : Instr) (w : RecWait) => ∃ t, exec i s = .next t ∧ t.mem = s.mem
          ∧ ∀ y ∈ t.core.gq, y.ord = e.ord → y.st = .flight ∧ y.recWait = some w
        (e.recWait = none → e.frozen = none → waits (.geval e.bank e.seq) ⟨k, now, now⟩)
        ∧ ∀ v f, e.recWait = some v → v.sym = k → e.frozen = some f → kept f → (∀ y ∈ s.core.gq, y.st = .flight → y.recWait ≠ none → y = e) →
            (now < v.polled + 64 → exec .walkerRecordPoll s = .next s)
            ∧ (v.polled + 64 ≤ now → waits .walkerRecordPoll { v with polled := now })
            ∧ (now < v.since + 2 ^ 24 → exec .walkerRecordTimeout s = .next s)
            ∧ (v.since + 2 ^ 24 ≤ now → ∃ t, exec .walkerRecordTimeout s = .next t ∧ Say.Walked e 0x65 s t ∧ t.mem = s.mem
                ∧ ∀ y ∈ t.core.gq, y.ord = e.ord → y.tval = BitVec.ofNat 64 k)

/-- The sum of R173 over symbols with their offsets, from left to right, the first contribution standing by itself: a terminal adds
value·x in one fused rounding, a rule its DOT. -/
def Sys2Proof.Say.dot (g : Gram) (val dots x : Nat → Nat) (q : Nat) (ks : List (Nat × Nat × Nat)) : Nat :=
  ks.tail.foldl (fun a k => if k.1 < g.t then fma32 (val k.1) (x (q + k.2.1)) a else add32 a (dots k.1))
    (match ks with
      | [] => 0
      | k :: _ => if k.1 < g.t then mul32 (val k.1) (x (q + k.2.1)) else dots k.1)

/-- A vector of 2P fp32 rotated by R(n), or by R(−n): for each set bit of `n`, from low to high, every pair (a, c) becomes
(a·cos − c·sin, a·sin + c·cos), each rounded once, `gen b j` giving cos and sin (R174). -/
def Sys2Proof.Say.rotated (p : Nat) (gen : Nat → Nat → Nat × Nat) (back : Bool) (n : Nat) (u : Nat → Nat) : Nat → Nat :=
  ((List.range 32).filter fun b => n.testBit b).foldl (fun u b i =>
    let a := decodeF ff32 (u (i / 2 * 2))
    let c := decodeF ff32 (u (i / 2 * 2 + 1))
    let cos := decodeF ff32 (gen b (i / 2)).1
    let sin := decodeF ff32 (if back then (gen b (i / 2)).2 ^^^ 0x80000000 else (gen b (i / 2)).2)
    let round := fun (y z : Fv) => (roundF ff32 .rne false (addF .rne [y, z]).1).1
    if 2 * p ≤ i then u i
    else if i % 2 = 0 then round (mulF a cos).1 (mulF c sin).1.neg else round (mulF a sin).1 (mulF c cos).1) u

/-- GMV writes DOT of rules, y of rows, or both, each sum as R173 forms it where every rule is anchored (R162); GVM adds x[r] along a row of terminals, and a rule's weight along its terminals; GROT
rotates a query back by each offset, and builds the key block of a rule; GCON reads its block, pushes the internal entries of a tile of
its result to MQ and CQ, and with them at the heads computes the tile from the tiles of its operands, of which it reads those of the steps
that it takes; the last tile ends it, its accumulator and its staging area being open. Which internal entries a tile takes, and their ranges,
are the model's choice (log 30). -/
def Obligations.WalkerProducts : Prop :=
  ∀ (e : Entry) (i : Instr) (s : State) (g : Gram) (val : Nat → Nat) (tab : Table), Memory.wf s.mem = true →
    let c := e.cmd
    let lo := c.e.toNat % 2 ^ 32
    let hi := c.e.toNat / 2 ^ 32
    let ph := (c.flags.extractLsb' 1 2).toNat
    let matrix := fun (op : Nat) (u : State) => got (readGram u c.a) = .ok g ∧ g.isMat = true ∧ g.floating = true
      ∧ got (tableFor u g c.c.toNat c.fmtA.toNat ⟨3, op, 0, 0⟩) = .ok tab ∧ ∀ t, t < g.t → got (termVal u g t) = .ok (val t)
    let recFlat := fun (kr : Nat → Nat) (k : Nat) => Say.Flat s (recVa tab g k) 32 .write (kr k) ∧ Say.Flat s (recVa tab g k) 32 .read (kr k)
    (∀ (kr : Nat → Nat) (kd : Nat) (rules rows : Nat → List (Nat × Nat × Nat)) (len cb dots x : Nat → Nat), c.fmtA.toNat < 128 →
        Say.Walks (.gmv e.bank e.seq) i 0x84 e (fun f => gramOf c.a f.1 = g) s →
        let rule := fun k => if ph = 0 then lo ≤ k ∧ k ≤ hi else if ph = 1 then False else g.t ≤ k ∧ k < g.t + g.n
        let row := fun r => if ph = 0 then False else if ph = 1 then lo ≤ r ∧ r ≤ hi else r < g.rows
        let D := fun (a : Nat) => (∃ k, rule k ∧ kr k ≤ a ∧ a < kr k + 32) ∨ (∃ r, row r ∧ kd + 4 * r ≤ a ∧ a < kd + 4 * r + 4)
        ph < 3 → (ph = 0 → g.t ≤ lo ∧ lo ≤ hi ∧ hi < g.t + g.n) → (ph = 1 → lo ≤ hi ∧ hi < g.rows) →
        (∀ u, Say.After D s u → matrix 0 u ∧ (∀ q, q < g.cols → got (walkNum u (c.b + BitVec.ofNat 64 (4 * q)) 4) = .ok (x q))
          ∧ (∀ k, rule k → got (readRule u g (c.flags.getLsbD 0) k) = .ok ⟨len k, rules k⟩ ∧ got (colBase u g k) = .ok (cb k)
              ∧ cb k + len k ≤ g.cols ∧ dots k = Say.dot g val dots x (cb k) (rules k)
              ∧ (∀ y ∈ rules k, (y.1 < g.t → cb k + y.2.1 < g.cols) ∧ (g.t ≤ y.1 → got (colBase u g y.1) = .ok (cb k + y.2.1))))
          ∧ (∀ r, row r → got (readRow u g (c.flags.getLsbD 0) r) = .ok (rows r)
              ∧ (∀ y ∈ rows r, y.2.1 < g.cols ∧ (g.t ≤ y.1 → got (colBase u g y.1) = .ok y.2.1)))
          ∧ ∀ k, ¬rule k → g.t ≤ k → k < g.t + g.n → ∃ bs, got (validRec u tab g k) = .ok bs ∧ natOfBytes ((bs.drop 8).take 4) = dots k) →
        (∀ k, rule k → len k < 2 ^ 48 ∧ recFlat kr k ∧ ∀ j, rule j → j ≠ k → kr k + 32 ≤ kr j ∨ kr j + 32 ≤ kr k) →
        (∀ r, row r → Say.Flat s (c.f + BitVec.ofNat 64 (4 * r)) 4 .write (kd + 4 * r) ∧ ∀ k, rule k → kr k + 32 ≤ kd + 4 * r ∨ kd + 4 * r + 4 ≤ kr k) →
        ∃ t, exec i s = .next t ∧ Say.Walked e 0 s t ∧ (∀ a, Say.plain s a → ¬D a → memGet t.mem a = memGet s.mem a)
          ∧ (∀ k, rule k → memNat t.mem (kr k) 8 = len k + 3 * 2 ^ 48 + c.fmtA.toNat * 2 ^ 56 + 2 ^ 63 ∧ memNat t.mem (kr k + 8) 4 = dots k % 2 ^ 32)
          ∧ ∀ r, row r → memNat t.mem (kd + 4 * r) 4 = Say.dot g val dots x 0 (rows r) % 2 ^ 32)
    ∧ (∀ (kd q0 v : Nat) (ks : List (Nat × Nat × Nat)), Say.Walks (.gvm e.bank e.seq) i 0x85 e (fun f => gramOf c.a f.1 = g) s →
        let D := fun (a : Nat) => ∃ k ∈ ks, kd + 4 * (q0 + k.2.1) ≤ a ∧ a < kd + 4 * (q0 + k.2.1) + 4
        lo = hi → q0 + (ks.map (·.2.2)).sum ≤ g.cols → (∀ k ∈ ks, k.1 < g.t ∧ q0 + k.2.1 < g.cols ∧ Say.Flat s (c.f + BitVec.ofNat 64 (4 * (q0 + k.2.1))) 4 .write (kd + 4 * (q0 + k.2.1))
          ∧ ∀ m, ∃ p, engPlace { s with mem := m } (c.f + BitVec.ofNat 64 (4 * (q0 + k.2.1))) 4 .amo = .ok p ∧ p.key = kd + 4 * (q0 + k.2.1)) →
        ks.Pairwise (fun y z => y.2.1 ≠ z.2.1) → (kd + 4 * q0) % 4 = 0 →
        (∀ u, Say.After D s u → matrix 1 u ∧
          ((ph = 0 ∧ lo < g.rows ∧ got (readRow u g (c.flags.getLsbD 0) lo) = .ok ks ∧ q0 = 0
              ∧ got (walkNum u (c.b + BitVec.ofNat 64 (4 * lo)) 4) = .ok v)
            ∨ (ph = 1 ∧ g.t ≤ lo ∧ lo < g.t + g.n ∧ (∃ len, got (readRule u g (c.flags.getLsbD 0) lo) = .ok ⟨len, ks⟩)
                ∧ got (colBase u g lo) = .ok q0 ∧ ∃ bs, got (validRec u tab g lo) = .ok bs ∧ natOfBytes ((bs.drop 16).take 4) = v))) →
        ∃ t, exec i s = .next t ∧ Say.Walked e 0 s t ∧ (∀ a, Say.plain s a → ¬D a → memGet t.mem a = memGet s.mem a)
          ∧ ∀ k ∈ ks, memNat t.mem (kd + 4 * (q0 + k.2.1)) 4 = fma32 v (val k.1) (memNat s.mem (kd + 4 * (q0 + k.2.1)) 4) % 2 ^ 32)
    ∧ (∀ (r : Rotary) (kd : Nat) (off query : Nat → Nat) (gen : Nat → Nat → Nat × Nat), Say.Walks (.grot e.bank e.seq) i 0x86 e (fun f => rotaryOf f.2 = r) s →
        let z := 8 * r.p
        c.flags.getLsbD 1 = true →
        (∀ u, Say.Reading s u → got (readRotary u c.b) = .ok r
          ∧ (∀ j, j < r.count → got (walkNum u (r.olist + BitVec.ofNat 64 (4 * j)) 4) = .ok (off j))
          ∧ (∃ bs, got (walkRead u r.qsrc z) = .ok bs ∧ bs.length = z ∧ ∀ j, j < 2 * r.p → natOfBytes ((bs.drop (4 * j)).take 4) = query j)
          ∧ ∀ b, b < 32 → ∃ bs, got (walkRead u (r.gbase + BitVec.ofNat 64 (z * b)) z) = .ok bs ∧ bs.length = z
              ∧ ∀ j, j < r.p → (natOfBytes ((bs.drop (8 * j)).take 4), natOfBytes ((bs.drop (8 * j + 4)).take 4)) = gen b j) →
        Say.Flat s r.out (z * r.count) .write kd →
        ∃ t, exec i s = .next t ∧ Say.Walked e 0 s t ∧ Say.LandsIn kd (z * r.count) s t
          ∧ ∀ j y, j < r.count → y < 2 * r.p → memNat t.mem (kd + z * j + 4 * y) 4 = Say.rotated r.p gen true (off j) query y % 2 ^ 32)
    ∧ (∀ (r : Rotary) (kd kr len : Nat) (ks : List (Nat × Nat × Nat)) (key : Nat → Nat → Nat) (gen : Nat → Nat → Nat × Nat),
        Say.Walks (.grot e.bank e.seq) i 0x86 e (fun f => rotaryOf f.2 = r ∧ gramOf c.a f.1 = g) s → c.fmtA.toNat < 128 → c.flags.getLsbD 1 = false →
        g.floating = true → lo = hi → g.t ≤ lo → lo < g.t + g.n → len < 2 ^ 48 →
        let z := 8 * r.p
        (∀ u, Say.Reading s u → got (readRotary u c.b) = .ok r ∧ got (readGram u c.a) = .ok g
          ∧ got (tableFor u g c.c.toNat c.fmtA.toNat ⟨4, 0, 0, 0⟩) = .ok tab ∧ got (readRule u g (c.flags.getLsbD 0) lo) = .ok ⟨len, ks⟩
          ∧ (g.isMat = true → ∃ q, got (colBase u g lo) = .ok q ∧ q + len ≤ g.cols)
          ∧ (∀ k ∈ ks, k.1 < g.t ∧ k.2.1 < 2 ^ 32 ∧ ∃ bs, got (walkRead u (r.keys + BitVec.ofNat 64 (z * k.1)) z) = .ok bs ∧ bs.length = z
              ∧ ∀ j, j < 2 * r.p → natOfBytes ((bs.drop (4 * j)).take 4) = key k.1 j)
          ∧ ∀ b, b < 32 → ∃ bs, got (walkRead u (r.gbase + BitVec.ofNat 64 (z * b)) z) = .ok bs ∧ bs.length = z
              ∧ ∀ j, j < r.p → (natOfBytes ((bs.drop (8 * j)).take 4), natOfBytes ((bs.drop (8 * j + 4)).take 4)) = gen b j) →
        Say.Flat s r.kbase (z * ks.length) .write kd → Say.Flat s (recVa tab g lo) 32 .write kr → (kd + z * ks.length ≤ kr ∨ kr + 32 ≤ kd) →
        ∃ t, exec i s = .next t ∧ Say.Walked e 0 s t
          ∧ (∀ a, Say.plain s a → (a < kd ∨ kd + z * ks.length ≤ a) → (a < kr ∨ kr + 32 ≤ a) → memGet t.mem a = memGet s.mem a)
          ∧ (∀ j k y, ks[j]? = some k → y < 2 * r.p → memNat t.mem (kd + z * j + 4 * y) 4 = Say.rotated r.p gen false k.2.1 (key k.1) y % 2 ^ 32)
          ∧ memNat t.mem kr 8 = len + 4 * 2 ^ 48 + c.fmtA.toNat * 2 ^ 56 + 2 ^ 63 ∧ memNat t.mem (kr + 8) 8 = r.kbase.toNat
          ∧ memNat t.mem (kr + 16) 2 = r.p)
    ∧ (∀ st tv, Say.Runs .gq 0x87 e s → e.frozen = none → got (readBlock s c.a) = .error (.fault st tv) →
        ∃ t, exec (.gcon e.bank e.seq) s = .next t ∧ Say.Walked e st s t ∧ t.mem = s.mem)
    ∧ (∀ f, Say.Runs .gq 0x87 e s → e.frozen = none → got (readBlock s c.a) = .ok f → e.prog = 0 → s.core.mq.length + 4 ≤ 32 →
        s.core.cq.length + 2 ≤ 32 → s.core.locks.length + 9 ≤ 32 →
        let x := contractionOf f
        let b := x.blk
        let stages := fun (p : GOperand) => if p.kind = 0 ∧ p.fmt = 0x06 then 0x4A#8 else 0x40#8
        let turns := if b.a.tr ∨ b.b.tr then [0x05#8] else []
        (∀ g, x.gram = some g → g.isMat = false) →
        ∃ t ms cs, exec (.gcon e.bank e.seq) s = .next t ∧ t.mem = s.mem ∧ Say.bare t.core.cx = Say.bare s.core.cx
          ∧ t.core.mq = s.core.mq ++ ms ∧ t.core.cq = s.core.cq ++ cs
          ∧ ms.map (·.cmd.opc) = [if b.acc then 0x03#8 else 0x00] ++ turns ++ [0x01#8, 0x04]
          ∧ cs.map (·.cmd.opc) = stages b.b :: (if x.gram = none then [stages b.a] else [])
          ∧ (∀ y ∈ ms ++ cs, y.inner = some e.ord ∧ y.cmd.d = 0 ∧ y.bank = e.bank)
          ∧ (∀ l ∈ s.core.locks, l ∈ t.core.locks) ∧ s.core.locks.length < t.core.locks.length
          ∧ ∀ y ∈ t.core.gq, y.ord = e.ord → y.st = .flight ∧ y.frozen = some f)
    ∧ ∀ (f : Nat × Nat) (kd : Nat → Nat → Nat) (ks : Nat) (P Q : Nat → Option Nat) (A B : Nat → List Nat), Say.Runs .gq 0x87 e s →
        e.frozen = some f → innersOf s.core e.ord ≠ [] → innerRuns s.core e = true →
        let x := contractionOf f
        let b := x.blk
        let per := b.i / 16 * (b.j / 16)
        let n := e.prog / per
        let ti := e.prog % per / (b.j / 16)
        let tj := e.prog % (b.j / 16)
        let last := b.nb * (b.i / 16) * (b.j / 16) ≤ e.prog + 1
        let D := fun (a : Nat) => (∃ y z, y < 16 ∧ z < 16 ∧ kd y z ≤ a ∧ a < kd y z + 4) ∨ (last ∧ ks ≤ a ∧ a < ks + b.sz)
        x.gram = none →
        (∀ y z, y < 16 → z < 16 → Say.Flat s (denseAddr b.o n (16 * ti + y) (16 * tj + z)) 4 .write (kd y z)
          ∧ (b.acc = true → Say.Flat s (denseAddr b.o n (16 * ti + y) (16 * tj + z)) 4 .read (kd y z))
          ∧ (kd y z + 4 ≤ ks ∨ ks + b.sz ≤ kd y z)
          ∧ ∀ y' z', y' < 16 → z' < 16 → (y, z) ≠ (y', z') → kd y z + 4 ≤ kd y' z' ∨ kd y' z' + 4 ≤ kd y z) →
        Say.Flat s b.stage b.sz .write ks →
        (∀ u, Say.Reading s u → ∀ k, k < b.k / 16 → got (blockAt u b.a b.i ti k) = .ok (P k) ∧ got (blockAt u b.b b.k k tj) = .ok (Q k)
          ∧ ∀ p q, P k = some p → Q k = some q → got (operandTile u x b.a x.fa b.k n ti k p) = .ok (A k)
            ∧ got (operandTile u x b.b x.fb b.j n k tj q) = .ok (B k) ∧ (A k).length = 256 ∧ (B k).length = 256) →
        ∃ t, exec (.gcon e.bank e.seq) s = .next t ∧ (∀ a, Say.plain s a → ¬D a → memGet t.mem a = memGet s.mem a)
          ∧ Say.bare t.core.cx = Say.bare s.core.cx
          ∧ (last → Say.Walked e 0 s t ∧ ∀ y ∈ t.core.mq ++ t.core.cq, y.inner ≠ some e.ord)
          ∧ (¬last → ∀ y ∈ t.core.gq, y.ord = e.ord → y.st = .flight ∧ y.prog = e.prog + 1)
          ∧ ∀ y z, y < 16 → z < 16 → memNat t.mem (kd y z) 4 = ((List.range (b.k / 16)).foldl (fun a k =>
              if (P k).isSome && (Q k).isSome then Say.stepCell b.za x.fa x.fb (A k) (B k) y z a else a)
                (if b.acc then memNat s.mem (kd y z) 4 else 0)) % 2 ^ 32
/-! ### Offer trees and multicast (R43 to R57, R216, R300, R328 to R332) -/

/-- OSEND, OSEND.O, OSEND.R and OSEND.OR (R328). -/
def Sys2Proof.Say.osend (ord rel : Bool) (vs rs1 rd : RegNo) : Instr :=
  match ord, rel with
  | false, false => .osend vs rs1 rd
  | true, false => .osendO vs rs1 rd
  | false, true => .osendR vs rs1 rd
  | true, true => .osendOr vs rs1 rd

/-- The OSEND family. No such group, or 0xFFF: cause 0x22 with all ones; a group not permitted: 0x22 with core 0 of its root's twig. A ninth group waits
for a receipt and a full resend buffer for an entry. Else the message, made of vs, the group, the core and its counter, goes to the twig node,
or an ordered or releasing one to the resend buffer; rd takes its number, and SENT and the counter rise. OFENCE waits for the receipts. -/
def Sys2Proof.Say.OfferSends : Prop :=
  ∀ (ord rel : Bool) (vs rs1 rd : RegNo) (s : State),
    let i := Say.osend ord rel vs rs1 rd
    let g := (readX s rs1).toNat % 4096
    let twig := s.core.num / 4
    let m : Msg := ⟨(readV s vs).extractLsb' 0 448, g, s.core.num, s.core.msgSeq, 0, ord, rel⟩
    let room := (∃ l, (g, l) ∈ s.core.track) ∨ s.core.track.length < 8
    ((g = 0xFFF ∨ group? s g = none) → exec i s = .next (takeTrap 0x22 (-1) s))
    ∧ (∀ gr, g ≠ 0xFFF → group? s g = some gr →
      (mayUse s gr = false → exec i s = .next (takeTrap 0x22 (BitVec.ofNat 64 (4 * gr.root.twig)) s))
      ∧ (mayUse s gr = true → ¬room → exec i s = .next (waitFor .tracker s))
      ∧ (mayUse s gr = true → room → 16 ≤ resendUsed s twig → exec i s = .next (waitFor .resend s))
      ∧ (mayUse s gr = true → room → resendUsed s twig < 16 →
          ∃ t, exec i s = .next t ∧ t.core.cx.x = (writeX rd (m.seq.setWidth 64) s).core.cx.x ∧ t.core.cx.pc = s.core.cx.pc + 4
            ∧ t.core.msgSeq = s.core.msgSeq + 1 ∧ tracked t.core g = tracked s.core g ++ [m.seq]
            ∧ (∀ h, h ≠ g → tracked t.core h = tracked s.core h)
            ∧ group? t g = some { gr with sent := gr.sent + 1 } ∧ t.mem = s.mem
            ∧ (¬(ord ∨ rel) → (getNode t ⟨1, twig⟩).inq = (getNode s ⟨1, twig⟩).inq ++ [⟨m, false, none⟩] ∧ t.fab.resend = s.fab.resend)
            ∧ ((ord ∨ rel) → t.fab.nodes = s.fab.nodes ∧ t.fab.resend = s.fab.resend ++ [⟨twig, s.core.num, m, false, s.pkg.nclk⟩])))
    ∧ exec (.ofence rs1) s = .next (if tracked s.core g = [] then adv s else waitFor (.receipts g) s)

/-- OREADY raises the core's readiness by what the inbox has room for beside all readiness, OUNREADY lowers it by at most what there is; rd
takes the part, and the new total leaves for the twig node. A group that the core is no member of gives cause 0x22 with its number. -/
def Sys2Proof.Say.ReadinessInstructions : Prop :=
  ∀ (up : Bool) (rs2 rs1 rd : RegNo) (s : State),
    let i : Instr := if up then .oready rs2 rs1 rd else .ounready rs2 rs1 rd
    let g := (readX s rs1).toNat % 4096
    let n := s.core.num
    let r := readinessOf s.core g
    let a := min (readX s rs2).toNat (if up then 32 - (s.core.ready.map (·.2)).sum - s.core.inbox.length else r)
    let new := if up then r + a else r - a
    ((∀ gr, group? s g = some gr → n ∉ gr.members) → exec i s = .next (takeTrap 0x22 (BitVec.ofNat 64 g) s))
    ∧ (∀ gr, group? s g = some gr → n ∈ gr.members →
        ∃ t, exec i s = .next t ∧ t.core.cx = (adv (writeX rd (BitVec.ofNat 64 a) s)).core.cx ∧ t.mem = s.mem ∧ t.core.inbox = s.core.inbox
          ∧ readinessOf t.core g = new ∧ (∀ h, h ≠ g → readinessOf t.core h = readinessOf s.core h)
          ∧ (⟨⟨1, n / 4⟩, g, n % 4, new⟩ : Update) ∈ t.fab.updates)

/-- OTAKE, OTAKE.A and OPOLL take the oldest message of their group: payload to bytes 0 to 55 of vd, header to 56 to 63, 0 above, rd 0; a
receipt leaves for the sender, but not of a multicast copy; readiness stays. OTAKE.A is an acquire. With no message OPOLL gives −1; the
others give −3 for a rebind posted to the stage whose group it is, and else wait. A group of others gives cause 0x22 with its number. -/
def Sys2Proof.Say.TakingAMessage : Prop :=
  ∀ (vd rs1 rd : RegNo) (s : State), ∀ i ∈ [Instr.otake vd rs1 rd, .otakeA vd rs1 rd, .opoll vd rs1 rd],
    let g := (readX s rs1).toNat % 4096
    let n := s.core.num
    let member := g = 0xFFF ∨ ∃ gr, group? s g = some gr ∧ n ∈ gr.members
    let own := ∃ b, s.core.bank.bound = some b ∧ b.group = some g
    (¬member → exec i s = .next (takeTrap 0x22 (BitVec.ofNat 64 g) s))
    ∧ (∀ (m : Msg) (before after : List Msg), member → s.core.inbox = before ++ m :: after → (∀ x ∈ before, x.group ≠ g) → m.group = g →
        ∃ t, exec i s = .next t ∧ t.core.cx.x = (writeX rd 0 s).core.cx.x ∧ t.core.cx.pc = s.core.cx.pc + 4 ∧ t.mem = s.mem
          ∧ t.core.inbox = before ++ after ∧ t.core.ready = s.core.ready
          ∧ (readV t vd).extractLsb' 0 448 = m.payload ∧ (readV t vd).extractLsb' 512 512 = 0
          ∧ (readV t vd).extractLsb' 448 64 = BitVec.ofNat 64 (m.group % 2 ^ 12 + 2 ^ 12 * (m.sender % 2 ^ 15) + 2 ^ 27 * m.seq.toNat
              + 2 ^ 43 * (m.bounce % 16) + 2 ^ 47 * m.ord.toNat + 2 ^ 48 * m.rel.toNat)
          ∧ (∀ r, r ≠ vd → readV t r = readV s r)
          ∧ t.fab.net = s.fab.net ++ (if g = 0xFFF then [] else [⟨.rsp, n / 4, m.sender / 4, .receipt m.sender g m.seq⟩])
          ∧ (i = .otakeA vd rs1 rd → Say.Acquired t) ∧ (i ≠ .otakeA vd rs1 rd → t.core.l1 = s.core.l1))
    ∧ (member → (∀ x ∈ s.core.inbox, x.group ≠ g) → i = .opoll vd rs1 rd → ∃ t, exec i s = .next t ∧ Say.SetsX rd (-1) s t)
    ∧ (member → (∀ x ∈ s.core.inbox, x.group ≠ g) → i ≠ .opoll vd rs1 rd →
        (∀ r, s.core.bank.rebind = .posted r → own → ∃ t, exec i s = .next t ∧ t.core.cx = (adv (writeX rd (-3) s)).core.cx
          ∧ t.core.bank.rebind = .delivered r ∧ t.core.inbox = s.core.inbox ∧ t.mem = s.mem)
        ∧ ((∀ r, s.core.bank.rebind = .posted r → ¬own) → exec i s = .next (waitFor (.take g) s)))

/-- MSEND: bytes 64 to 77 of vs name the set. An empty grove mask gives 0; a grove outside the partition gives cause 0x22 with the lowest
target of the lowest such grove; an earlier MSEND of the core that its router still holds makes it wait; an empty set gives 0. Else one copy
with group 0xFFF leaves for each present core of the set, and rd takes their number. -/
def Sys2Proof.Say.MulticastSend : Prop :=
  ∀ (vs rd : RegNo) (s : State),
    let v := readV s vs
    let n := s.core.num
    let named := fun (g : Nat) => g < 96 ∧ v.getLsbD (512 + g) = true
    let idx := (v.extractLsb' 608 8).toNat
    let all := v.getLsbD 616
    let inSet := fun (j : Nat) => present s j = true ∧ named (groveOf j) ∧ (all = true ∨ j = coreInGrove (groveOf j) idx) ∧ (v.getLsbD 617 = true ∨ j ≠ n)
    let m : Msg := ⟨v.extractLsb' 0 448, 0xFFF, n, s.core.msgSeq, 0, false, false⟩
    let allowed := ∀ g, named g → groveAllowed s n g = true
    ((∀ g, ¬named g) → ∃ t, exec (.msend vs rd) s = .next t ∧ Say.SetsX rd 0 s t)
    ∧ (∀ g, named g → groveAllowed s n g = false → (∀ h, h < g → named h → groveAllowed s n h = true) →
        exec (.msend vs rd) s = .next (takeTrap 0x22 (BitVec.ofNat 64 (coreInGrove g (if all then 0 else idx))) s))
    ∧ ((∃ g, named g) → allowed → s.core.msendBusy = true → exec (.msend vs rd) s = .next (waitFor .msend s))
    ∧ ((∃ g, named g) → allowed → s.core.msendBusy = false → (∀ j, ¬inSet j) → ∃ t, exec (.msend vs rd) s = .next t ∧ Say.SetsX rd 0 s t)
    ∧ (allowed → s.core.msendBusy = false → (∃ j, inSet j) →
        ∃ (t : State) (set : List Nat), exec (.msend vs rd) s = .next t ∧ set.Nodup ∧ (∀ j, j ∈ set ↔ inSet j)
          ∧ t.fab.net = s.fab.net ++ set.map (fun j => ⟨.msg, n / 4, j / 4, .toCore j m⟩)
          ∧ t.core.cx = (adv (writeX rd (BitVec.ofNat 64 set.length) s)).core.cx ∧ t.core.msgSeq = s.core.msgSeq + 1 ∧ t.core.msendBusy = true
          ∧ t.mem = s.mem)

/-- A node takes its oldest message. Outside the group's extent it goes to the root. Where a child has readiness it goes to the first one
after the pointer, whose count is reserved at once. Else it parks at the root (in a slot, in the home ring, or waiting for a return), goes
back up as a bounce if it came down, or climbs. A bounce of 8 or more goes to the root. A child's total replaces its count and travels up. -/
def Obligations.OfferSteering : Prop :=
  ∀ (s : State) (id : NodeId) (gr : Group) (m : Msg) (down : Bool) (rest : List NodeIn),
    group? s m.group = some gr →
    let e := (getNode s id).ent gr.num
    let n := e.counts.length
    let up := parentOf id
    let sends := fun (p : Packet) => ∃ t, exec (.offerSteer id) s = .next t ∧ t.fab.net = s.fab.net ++ [p] ∧ (getNode t id).inq = rest ∧ t.mem = s.mem
    let plain := (getNode s id).inq = ⟨m, down, none⟩ :: rest ∧ m.bounce < 8
    let dry := ∀ x ∈ e.counts, x = 0
    (plain → id ≠ gr.root → inExtent gr id = false → sends ⟨.msg, id.twig, gr.root.twig, .toNode gr.root false m⟩)
    ∧ (∀ i, plain → id ≠ gr.root → inExtent gr id = true → i < n → 0 < e.counts.getD ((e.rrptr + 1 + i) % n) 0 →
        (∀ j, j < i → e.counts.getD ((e.rrptr + 1 + j) % n) 0 = 0) →
        let c := (e.rrptr + 1 + i) % n
        ∃ t, exec (.offerSteer id) s = .next t ∧ (getNode t id).inq = rest ∧ t.mem = s.mem
          ∧ (getNode t id).ent gr.num = { e with rrptr := c, counts := e.counts.set c (e.counts.getD c 0 - 1) }
          ∧ t.fab.net = s.fab.net ++ [if id.level ≤ 1 then ⟨.msg, id.twig, id.twig, .toCore (4 * id.twig + c) m⟩
              else ⟨.msg, id.twig, (kidNode id c).twig, .toNode (kidNode id c) true m⟩]
          ∧ (⟨up, gr.num, kidNo up.level id.twig, min 255 (e.counts.sum - 1)⟩ : Update) ∈ t.fab.updates)
    ∧ (plain → id ≠ gr.root → inExtent gr id = true → dry → sends (if down
        then ⟨.msg, id.twig, up.twig, .bounce up (kidNo up.level id.twig) 0 { m with bounce := min 15 (m.bounce + 1) }⟩
        else ⟨.msg, id.twig, up.twig, .toNode up false m⟩))
    ∧ (plain → id = gr.root → inExtent gr id = true → dry → Memory.wf s.mem = true → (∀ l, lineHeld s l = false) →
        ∃ t, exec (.offerSteer id) s = .next t ∧ t.fab.net = s.fab.net ∧ (getNode t id).inq = rest
          ∧ (if gr.ring = [] ∧ (getNode s id).parks.length < 32 then (getNode t id).parks = (getNode s id).parks ++ [m] ∧ t.mem = s.mem
            else if gr.ring.length < ringSize gr then
              group? t gr.num = some { gr with ring := gr.ring ++ [m], tail := (gr.tail + 1) % ringSize gr }
              ∧ memRead t.mem (scratchKey gr.slice (gr.home + 64 + 64 * gr.tail)) 64 = msgBytes m
              ∧ Say.MemOnly (scratchKey gr.slice (gr.home + 64 + 64 * gr.tail)) 64 s t
            else group? t gr.num = some { gr with waiting := gr.waiting ++ [m] } ∧ t.mem = s.mem))
    ∧ (∀ c total, (getNode s id).inq = ⟨m, down, some (c, total)⟩ :: rest → 8 ≤ m.bounce → id ≠ gr.root →
        sends ⟨.msg, id.twig, gr.root.twig, .toNode gr.root false m⟩
        ∧ ∀ t, exec (.offerSteer id) s = .next t → ((getNode t id).ent gr.num).counts = e.counts.set c (min 255 total))
    ∧ (∀ u : Update, s.fab.updates.find? (fun v => v.node == id) = some u → u.group = gr.num → id ≠ gr.root → inExtent gr id = true →
        let e' := { e with counts := e.counts.set u.child (min 255 u.total) }
        ∃ t, exec (.readinessUpdate id) s = .next t ∧ (getNode t id).ent gr.num = e' ∧ t.mem = s.mem ∧ t.fab.net = s.fab.net
          ∧ let others := s.fab.updates.erase u
            let c := kidNo up.level id.twig
            t.fab.updates = if e'.counts.sum = e.counts.sum then others
              else (others.filter fun v => !(v.node == up && v.group == gr.num && v.child == c)) ++ [⟨up, gr.num, c, min 255 e'.counts.sum⟩])
    ∧ (∀ (u : Update) (parks : List Msg), s.fab.updates.find? (fun v => v.node == id) = some u → u.group = gr.num → id = gr.root → inExtent gr id = true → u.total = 1 →
        u.child < n → dry → (getNode s id).parks = m :: parks → (getNode s id).rings = [] →
        ∃ t, exec (.readinessUpdate id) s = .next t ∧ (getNode t id).parks = parks ∧ ((getNode t id).ent gr.num).counts = e.counts ∧ t.mem = s.mem
          ∧ ∃ p, t.fab.net = s.fab.net ++ [p] ∧ p.cls = .msg ∧ p.body = if id.level ≤ 1 then .toCore (4 * id.twig + u.child) m
              else .toNode (kidNode id u.child) true m)

/-- A message at a member core lowers its readiness and enters its inbox, or bounces to the twig node with the total 0; a multicast copy
enters only where no readiness promises the slot. A full root returns a message once the sender's resend buffer has an entry; it is sent
again 256 network cycles later. An ordered send leaves the buffer in its turn; for a releasing one the core's dirty shared lines are written
back, and it leaves once those writes and every store of the core have been performed (R216 asks for the earlier ones; that later ones hold it
too is the model's choice, log 43). A receipt lowers the tracker. A packet moves only along an
open route, in order in its class and route, and a router with 4 copies takes no other. The root writes its group record. -/
def Obligations.OfferDelivery : Prop :=
  ∀ (s : State) (m : Msg) (r : Resend) (gr : Group) (before rest : List Msg) (p : Packet) (ps qs : List Packet),
    let n := s.core.num
    let ready := readinessOf s.core m.group
    (s.core.arrivals = before ++ m :: rest → m.group ≠ 0xFFF → (∀ x ∈ before, x.group = 0xFFF) →
      (ready = 0 → ∃ t, exec .offerDeliver s = .next t ∧ t.core.inbox = s.core.inbox ∧ t.core.arrivals = before ++ rest ∧ t.mem = s.mem
        ∧ t.fab.net = s.fab.net ++ [⟨.msg, n / 4, n / 4, .bounce ⟨1, n / 4⟩ (n % 4) 0 { m with bounce := min 15 (m.bounce + 1) }⟩])
      ∧ (0 < ready → ∃ t, exec .offerDeliver s = .next t ∧ t.core.inbox = s.core.inbox ++ [m] ∧ t.core.arrivals = before ++ rest ∧ t.mem = s.mem
        ∧ readinessOf t.core m.group = ready - 1 ∧ t.fab.net = s.fab.net
        ∧ (s.core.cx.st = .waiting (.take m.group) → t.core.cx.st = .ready)))
    ∧ (s.core.arrivals = before ++ m :: rest → m.group = 0xFFF → (∀ x ∈ before, x.group ≠ 0xFFF) →
        ∃ t, exec .msendCopyDeliver s = .next t ∧ t.mem = s.mem ∧ t.core.ready = s.core.ready
          ∧ (if (s.core.ready.map (·.2)).sum + s.core.inbox.length < 32 then t.core.inbox = s.core.inbox ++ [m] ∧ t.core.arrivals = before ++ rest else t = s))
    ∧ (group? s gr.num = some gr → gr.waiting = m :: rest →
        ∃ t, exec (.offerReturn gr.num) s = .next t
          ∧ (if resendUsed s (m.sender / 4) < 16 then t.fab.net = s.fab.net ++ [⟨.rsp, gr.root.twig, m.sender / 4, .returned m.sender m⟩]
              ∧ group? t gr.num = some { gr with waiting := rest, resends := gr.resends + 1 }
            else t = s))
    ∧ (let first := fun (p : Resend → Bool) => s.fab.resend.find? (fun x => x.twig == r.twig && p x) = some r
        let turn := fun (x : Resend) => (tracked (getCore s x.msg.sender) x.msg.group).head? == some x.msg.seq
        let leaves := fun (t : State) => t.fab.resend = s.fab.resend.erase r ∧ (getNode t ⟨1, r.twig⟩).inq = (getNode s ⟨1, r.twig⟩).inq ++ [⟨r.msg, false, none⟩]
        (first (fun x => x.returned && decide (x.since + 256 ≤ s.pkg.nclk)) →
          ∃ t, exec (.resendTimer r.twig) s = .next t ∧ leaves t ∧ t.mem = s.mem)
        ∧ ((∀ x ∈ s.fab.resend, x.twig = r.twig → x.returned = true → s.pkg.nclk < x.since + 256) → exec (.resendTimer r.twig) s = .next s)
        ∧ (first (fun x => !x.returned && x.msg.ord && !x.msg.rel && turn x) →
          ∃ t, exec (.orderedSendRelease r.twig) s = .next t ∧ leaves t ∧ t.mem = s.mem)
        ∧ ((∀ x ∈ s.fab.resend, x.twig = r.twig → x.returned = false → x.msg.ord = true → turn x = false) →
          exec (.orderedSendRelease r.twig) s = .next s)
        ∧ (first (fun x => !x.returned && x.msg.rel && (!x.msg.ord || turn x)) → r.core = n →
            let clean := ∀ l ∈ s.core.l1, l.cls = .shared → l.dirty = 0
            let performed := writesOut s n = false ∧ s.ms.heldW = [] ∧ ∀ x ∈ s.core.ctxsOf false ++ s.core.ctxsOf true, x.late = []
            (s.core.l1.map (·.line)).Nodup → (clean → performed → ∃ t, exec (.releasingSendRelease r.twig) s = .next t ∧ leaves t ∧ t.mem = s.mem)
            ∧ (¬clean ∨ ¬performed → exec (.releasingSendRelease r.twig) s = .next (writeBackShared s))))
    ∧ (s.fab.net = qs ++ p :: ps → (∀ x ∈ qs, ¬(x.cls = p.cls ∧ x.src = p.src ∧ x.dst = p.dst)) →
        (∀ q, p.body = .receipt n m.group q → (∀ x ∈ qs, ∀ h j, x.body ≠ .receipt n h j) →
          (pathOpen s p.src p.dst = false → (∀ x ∈ ps, ∀ h j, x.body ≠ .receipt n h j) → exec .offerReceipt s = .next s)
          ∧ (pathOpen s p.src p.dst = true →
          let left := (tracked s.core m.group).erase q
          ∃ t, exec .offerReceipt s = .next t ∧ t.fab.net = qs ++ ps ∧ tracked t.core m.group = left ∧ t.mem = s.mem
            ∧ (∀ w ∈ [Wait.tracker, .receipts m.group], s.core.cx.st = .waiting w → t.core.cx.st = if left = [] then .ready else .waiting w)))
        ∧ (pathOpen s p.src p.dst = false → exec (.packetArrival p.cls p.src p.dst) s = .next s)
        ∧ (pathOpen s p.src p.dst = true →
            (∀ id down, p.body = .toNode id down m → ∃ t, exec (.packetArrival p.cls p.src p.dst) s = .next t ∧ t.fab.net = qs ++ ps ∧ t.mem = s.mem
              ∧ (getNode t id).inq = (getNode s id).inq ++ [⟨m, down, none⟩])
            ∧ (∀ id c total, p.body = .bounce id c total m → ∃ t, exec (.packetArrival p.cls p.src p.dst) s = .next t ∧ t.fab.net = qs ++ ps ∧ t.mem = s.mem
              ∧ (getNode t id).inq = (getNode s id).inq ++ [⟨m, false, some (c, total)⟩])
            ∧ (p.body = .toCore n m → m.group = 0xFFF → 4 ≤ ((List.range 4).map fun c =>
                ((getCore s (4 * (n / 4) + c)).arrivals.filter fun y => y.group == 0xFFF).length).sum →
                exec (.packetArrival p.cls p.src p.dst) s = .next s)
            ∧ (p.body = .toCore n m → m.group ≠ 0xFFF → ∃ t, exec (.packetArrival p.cls p.src p.dst) s = .next t ∧ t.fab.net = qs ++ ps ∧ t.mem = s.mem
              ∧ t.core.arrivals = s.core.arrivals ++ [m])
            ∧ (∀ k, p.body = .returned k m → ∃ t, exec (.packetArrival p.cls p.src p.dst) s = .next t ∧ t.fab.net = qs ++ ps ∧ t.mem = s.mem
              ∧ t.fab.resend = s.fab.resend ++ [⟨k / 4, k, { m with bounce := 0 }, true, s.pkg.nclk⟩])))
    ∧ (group? s gr.num = some gr → Memory.wf s.mem = true → (∀ l, lineHeld s l = false) →
        let k := scratchKey gr.slice gr.home
        let parked := ((getNode s gr.root).parks.filter fun x => x.group == gr.num).length + gr.ring.length
        ∃ t, exec (.groupRecordUpdate gr.num) s = .next t ∧ Say.MemOnly k 64 s t
          ∧ (∀ f ∈ [(0, 8, gr.sent), (8, 8, gr.taken), (16, 4, parked), (20, 4, gr.head), (24, 4, gr.tail), (28, 4, gr.bounces), (32, 4, gr.resends),
              (36, 1, min 255 (nodeSum s gr.root gr.num))], memNat t.mem (k + f.1) f.2.1 = f.2.2 % 256 ^ f.2.1)
          ∧ memNat t.mem (k + 37) 2 = gr.level % 8 + 2 ^ 4 * (gr.num % 2 ^ 12) ∧ memNat t.mem (k + 39) 4 % 2 ^ 4 = gr.size % 16
          ∧ memNat t.mem (k + 39) 8 / 2 ^ 4 = gr.dropped % 2 ^ 32)

/-- Sending a message (R328), waiting for its receipts (R331), and readiness (R329). -/
def Obligations.SendingAndReadiness : Prop := Say.OfferSends ∧ Say.ReadinessInstructions

/-- Taking a message of a group (R330), and sending a copy to a set of cores (R332). -/
def Obligations.TakingAndMulticast : Prop := Say.TakingAMessage ∧ Say.MulticastSend
/-! ### The timed fabric and the region clocks (R33 to R35, R39 to R41, R333) -/

/-- The bank may make schedule `i` of its kernel active: it is bound to the bank's own stage (R272, R333). -/
def Sys2Proof.Say.Selectable (s : State) (i : Nat) : Prop :=
  ∃ bd l x img r, boundOf s = some (bd, l) ∧ (kernelScheds s l bd.stage)[i]? = some x ∧ imageOf s l = some img
    ∧ img.img.stages[x.stage]? = some r ∧ stageRec s l bd.stage = some r

/-- Beat `b` of the active schedule, with its source and destination cores and the network cycle of its slot; a phase is open (R38, R39). -/
def Sys2Proof.Say.BeatOf (s : State) (b : Nat) (launch src dst cycle entry : Nat) : Prop :=
  ∃ d sch x bd l, openDom s = some d ∧ activeSched s = some sch ∧ sch.beats[b]? = some x ∧ boundOf s = some (bd, l) ∧ s.core.bank.bound = some bd
    ∧ bd.launch = launch ∧ coreOfIndex s l bd.stage x.src = some src ∧ coreOfIndex s l bd.stage x.dst = some dst
    ∧ cycle = d.start + sch.frame * x.frame + x.slot ∧ entry = x.entry

/-- A timed-slot violation that an instruction of the core finds: its bank stops for good with REASON 1, cause 0x21 and the number (R41, R422),
during a swap as soon as that is complete (R102). -/
def Sys2Proof.Say.violation (n : Nat) (s : State) : State :=
  fatalOrLater s.core.bank.num ⟨1, 0x21, BitVec.ofNat 8 n, s.core.cx.pc, false⟩ s

/-- WSEL makes a schedule of the stage active, outside a phase; else it is illegal. WTX sends a beat that names this core and whose slot has
not passed: it waits for the slot's edge, and then both halves leave and it retires; every other WTX is a violation. A beat lands in its half
of the receive entry at its fixed cycle; into an unread half it is dropped and stops the receiving bank, whose launch halts: its halt record has
REASON 1, CAUSE 0x21, the beat's number as ENTRY and PCFLT 0 (R41, R257, R422). WRX takes a full entry, waits for one that is not, and is a
violation where no beat feeds the entry. -/
def Obligations.TimedFabric : Prop :=
  ∀ (vs vd rs1 : RegNo) (s : State) (m : BeatMsg),
    let b := (readX s rs1).toNat
    let n := s.core.num
    let r := recvAt s.core b
    let q := recvAt s.core m.entry
    (s.core.phase = none → Say.Selectable s b → exec (.wsel rs1) s = .next (adv (modBank (fun k => { k with sched := some b }) s)))
    ∧ (¬(s.core.phase = none ∧ Say.Selectable s b) → Say.Illegal (.wsel rs1) s)
    ∧ (∀ launch dst cycle entry, Say.BeatOf s b launch n dst cycle entry → s.pkg.nclk ≤ cycle →
        (groveAllowed s n (groveOf dst) = true →
          exec (.wtx vs rs1) s = .next (modCx (fun c => { c with st := .waiting (.slot b vs), since := s.core.cycles }) s))
        ∧ (groveAllowed s n (groveOf dst) = false → exec (.wtx vs rs1) s = .next (takeTrap 0x22 (BitVec.ofNat 64 dst) s)))
    ∧ ((∀ launch dst cycle entry, Say.BeatOf s b launch n dst cycle entry → cycle < s.pkg.nclk) → exec (.wtx vs rs1) s = .next (Say.violation b s))
    ∧ (∀ k launch dst cycle entry, Say.BeatOf s k launch n dst cycle entry → s.core.cx.st = .waiting (.slot k vs) → s.core.bank.stopped = false →
        s.core.swap = none →
        let lands := fun (j : Nat) => cycle + j + 2 + hops (n / 4) (dst / 4) + 6 * crossings (n / 4) (dst / 4)
        (s.pkg.nclk < cycle → exec (.timedSlotStart s.core.bank.num s.core.cx.id) s = .next s)
        ∧ (cycle ≤ s.pkg.nclk → ∃ t, exec (.timedSlotStart s.core.bank.num s.core.cx.id) s = .next t ∧ t.mem = s.mem
          ∧ t.core.cx = { (adv s).core.cx with st := .ready }
          ∧ t.fab.beats = s.fab.beats ++ [⟨launch, dst, n, k, entry, false, (readV s vs).extractLsb' 0 512, lands 0⟩,
              ⟨launch, dst, n, k, entry, true, (readV s vs).extractLsb' 512 512, lands 1⟩]))
    ∧ (b ≤ 15 → entryFed s b = true → r.lo = true → r.hi = true →
        ∃ t, exec (.wrx vd rs1) s = .next t ∧ readV t vd = r.data ∧ (∀ x, x ≠ vd → readV t x = readV s x) ∧ t.core.cx.x = s.core.cx.x
          ∧ t.core.cx.pc = s.core.cx.pc + 4 ∧ t.mem = s.mem ∧ recvAt t.core b = ⟨0, false, false⟩
          ∧ ∀ e, e ≠ b → recvAt t.core e = recvAt s.core e)
    ∧ (b ≤ 15 → entryFed s b = true → (r.lo && r.hi) = false → exec (.wrx vd rs1) s = .next (waitFor (.recv b) s))
    ∧ (15 < b ∨ entryFed s b = false → exec (.wrx vd rs1) s = .next (Say.violation b s))
    ∧ (firstBeat n s.fab.beats none = some m → m.entry < 16 →
        (s.pkg.nclk < m.lands → exec .beatArrive s = .next s)
        ∧ (∀ k bd, m.lands ≤ s.pkg.nclk → (if m.hi then q.hi else q.lo) = true → (s.core.bankOf k).bound = some bd → bd.launch = m.launch →
            (∀ x, (s.core.bankOf (!k)).bound = some x → x.launch ≠ m.launch) → (s.core.bankOf k).stopped = false → s.ms.poisonList = [] →
            Memory.wf s.mem = true →
            let rec_ := bd.haltPa + 64 * n
            ∃ t, exec .beatArrive s = .next t ∧ t.fab.beats = s.fab.beats.erase m ∧ recvAt t.core m.entry = q
              ∧ (s.core.swap = none → Say.Stopped t k (some m.launch) ∧ ((∀ i, i < 64 → Say.plain s (rec_ + i)) →
                  memGet t.mem (rec_ + 30) = 0x21 ∧ (memGet t.mem (rec_ + 31)).extractLsb' 0 4 = 1 ∧ memNat t.mem (rec_ + 40) 8 = 0
                    ∧ memGet t.mem (rec_ + 48) = BitVec.ofNat 8 m.beat))
              ∧ ∀ w, s.core.swap = some w → t.core.swap = some { w with fatal := w.fatal ++ [(k, ⟨1, 0x21, BitVec.ofNat 8 m.beat, 0, true⟩)] })
        ∧ (m.lands ≤ s.pkg.nclk → (if m.hi then q.hi else q.lo) = false →
            ∃ t, exec .beatArrive s = .next t ∧ t.fab.beats = s.fab.beats.erase m ∧ t.mem = s.mem
              ∧ (recvAt t.core m.entry).data.extractLsb' (if m.hi then 512 else 0) 512 = m.data
              ∧ (recvAt t.core m.entry).data.extractLsb' (if m.hi then 0 else 512) 512 = q.data.extractLsb' (if m.hi then 0 else 512) 512
              ∧ (recvAt t.core m.entry).lo = (q.lo || !m.hi) ∧ (recvAt t.core m.entry).hi = (q.hi || m.hi)
              ∧ ∀ e, e ≠ m.entry → recvAt t.core e = recvAt s.core e))

/-- 10 µs have passed since the region's last change, and none is under way. -/
def Sys2Proof.Say.Spaced (s : State) (g : Nat) : Prop :=
  (rclkOf s g).relock = false ∧ ∀ t, (rclkOf s g).lastEnd = some t → t + 1000 ≤ s.pkg.time

/-- The regions that `p` names become as `f` says, and no other region, nor memory, changes. -/
def Sys2Proof.Say.Regions (i : Instr) (s : State) (p : Nat → Prop) (f : Rclk → Rclk) : Prop :=
  ∃ t, exec i s = .next t ∧ (∀ g, p g → rclkOf t g = f (rclkOf s g)) ∧ (∀ g, ¬p g → rclkOf t g = rclkOf s g) ∧ t.mem = s.mem ∧ t.core = s.core

/-- A target is clamped to 600 to 1,500 MHz and rounded down to 25; written to a joined region it is the target of its whole group. Another
lock group is left once no phase of it is open, and a nonzero new one is asked for a join. The governor starts a change when the target differs
or a join is asked for, no phase defers it, the group makes no other change and 10 µs have passed, in all regions of a group together; 1 µs
later the region runs at its goal, and a join has joined. -/
def Obligations.RegionClocks : Prop :=
  ∀ (g : Nat) (mhz : BitVec 11) (grp : BitVec 7) (s : State),
    let r := rclkOf s g
    let group := lockMembers s r.lockgrp
    let new := max 600 (min 1500 mhz.toNat) / 25 * 25
    let wants := r.joining = true ∨ r.target ≠ r.current
    let deferred := groupPhase s r.lockgrp = true ∨ leavingOpen s r = true
    let busy := r.lockgrp ≠ 0 ∧ (joinUnderWay s r.lockgrp = true ∨ groupRelocks s r.lockgrp = true)
    let goes := fun (n : BitVec 7) (x : Rclk) => { x with lockgrp := n, joined := false, joining := n != 0, inJoin := false,
                                                          left := if r.joined then r.lockgrp else r.left
                                                          leaving := if r.joined then openPhases s r.lockgrp else r.leaving }
    let starts := fun (goal : Nat) (x : Rclk) => { x with relock := true, goal := goal, began := s.pkg.time }
    Say.Regions (.rclkTargetWrite g mhz) s (fun x => if r.joined then x ∈ group else x = g) (fun x => { x with target := new })
    ∧ (grp = r.lockgrp → exec (.rclkJoin g grp) s = .next s)
    ∧ (grp ≠ r.lockgrp → Say.Regions (.rclkJoin g grp) s (· = g) (goes grp))
    ∧ (r.lockgrp = 0 → exec (.rclkLeave g) s = .next s)
    ∧ (r.lockgrp ≠ 0 → Say.Regions (.rclkLeave g) s (· = g) (goes 0))
    ∧ (¬wants ∨ deferred ∨ busy → exec (.governorChange g) s = .next s)
    ∧ (¬deferred → ¬busy → r.joining = true → (¬Say.Spaced s g → exec (.governorChange g) s = .next s)
        ∧ (Say.Spaced s g → Say.Regions (.governorChange g) s (· = g) (fun x => { starts (match group with
            | m :: _ => (rclkOf s m).current
            | [] => r.target) x with joining := false, inJoin := true })))
    ∧ (¬deferred → ¬busy → r.joining = false → r.target ≠ r.current → r.joined = false →
        (¬Say.Spaced s g → exec (.governorChange g) s = .next s)
        ∧ (Say.Spaced s g → Say.Regions (.governorChange g) s (· = g) (starts r.target)))
    ∧ (¬deferred → ¬busy → r.joining = false → r.target ≠ r.current → r.joined = true →
        ((∃ m ∈ group, ¬Say.Spaced s m) → exec (.governorChange g) s = .next s)
        ∧ ((∀ m ∈ group, Say.Spaced s m) → Say.Regions (.governorChange g) s (· ∈ group) (starts r.target)))
    ∧ (r.relock = false ∨ s.pkg.time < r.began + 100 → exec (.relockEnd g) s = .next s)
    ∧ (r.relock = true → r.began + 100 ≤ s.pkg.time → r.joined = false → r.inJoin = false →
        Say.Regions (.relockEnd g) s (· = g) (fun x => { x with relock := false, current := x.goal, lastEnd := some s.pkg.time }))
    ∧ (r.relock = true → r.began + 100 ≤ s.pkg.time → r.joined = false → r.inJoin = true →
        Say.Regions (.relockEnd g) s (· = g) (fun x => { x with relock := false, current := x.goal, joined := true, inJoin := false
                                                                lastEnd := some s.pkg.time
                                                                target := (match group with
                                                                  | m :: _ => (rclkOf s m).target
                                                                  | [] => x.target) }))
    ∧ (r.relock = true → r.began + 100 ≤ s.pkg.time → r.joined = true → (∀ m ∈ group, (rclkOf s m).inJoin = false ∧ (rclkOf s m).joined = true) →
        Say.Regions (.relockEnd g) s (fun x => x ∈ group ∧ (rclkOf s x).relock = true)
          (fun x => { x with relock := false, current := x.goal, lastEnd := some s.pkg.time }))
/-! ### Slices, flushes, replicas, walks and metadata (R140, R141, R144, R148 to R154, R158) -/

/-- The write of the core that WRITEBACK_MERGE takes next: the one that `pick` names of those that may perform, the oldest where it names
none (log 1). -/
def Sys2Proof.Say.NextWrite (s : State) (p : Packet) (w : WriteBack) : Prop :=
  (mergeable s)[s.pick]? = some (p, w) ∨ ((mergeable s)[s.pick]? = none ∧ (mergeable s).head? = some (p, w))

/-- A line filled into L1 is whole there, its clean bytes as memory has them; poison is not installed, and a fill comes behind the core's own
writes to its slice. A write that finds its line at its slice merges by its byte mask and is acknowledged, or is held while a replica stands;
part of a POISON line is dropped. One that misses closes the line's miss register, or opens one, and waits. When the last replica that a held
write waits for goes, the write is performed. A frame changes its mode at most every 100 µs, and every replica of it goes first. A translation
that the twig's TLB holds enters the core's; a walk's enters both, and the waiting context goes on; one that fails leaves no entry (the model's
choice, log 53). A block whose metadata cannot be corrected is listed, and those of its lines that no slice holds read as POISON; a fetch for a
line that is dirty in its slice is taken for that of its write-back, whose data is dropped (log 54). -/
def Obligations.MemorySystem : Prop :=
  ∀ (s : State) (f : Fill) (fs : List Fill) (p : Packet) (w : WriteBack) (h : HeldWrite) (line die frame : Nat) (v : WalkReq) (vs us : List WalkReq)
    (a : AsidVa),
    let n := s.core.num
    let merged := fun (t : State) (line : Nat) (data : BitVec 1024) (mask : BitVec 128) =>
      (∀ x, x < 128 → Say.plain s (line * 128 + x) →
        memGet t.mem (line * 128 + x) = if mask.getLsbD x then data.extractLsb' (8 * x) 8 else memGet s.mem (line * 128 + x))
      ∧ ∀ a, Say.plain s a → a / 128 ≠ line → memGet t.mem a = memGet s.mem a
    let goes := fun (f : Fill) => behind s f.line = false ∧ clearWay s .rsp (readSlice s f.line) (n / 4) = true
    (s.core.fills = f :: fs → ¬goes f → exec .l1Fill s = .next s)
    ∧ (s.core.fills = f :: fs → goes f →
      ∃ t, exec .l1Fill s = .next t ∧ t.core.fills = fs ∧ t.mem = s.mem
        ∧ (poisoned s (f.line * 128) 128 = true → t.core.l1 = s.core.l1)
        ∧ (poisoned s (f.line * 128) 128 = false → ∃ l ∈ t.core.l1, l.line = f.line ∧ l.valid = -1
            ∧ (∀ x, x < 128 → l.dirty.getLsbD x = false → l.data.extractLsb' (8 * x) 8 = memGet s.mem (f.line * 128 + x))
            ∧ l.dirty = ((l1Find s.core f.line).map (·.dirty)).getD 0
            ∧ ∀ y, l1Find s.core f.line = some y → ∀ x, x < 128 → y.dirty.getLsbD x = true → l.data.extractLsb' (8 * x) 8 = y.data.extractLsb' (8 * x) 8))
    ∧ (mergeable s = [] → exec .writebackMerge s = .next s)
    ∧ (Say.NextWrite s p w →
        let home := homeSlice (w.line * 128)
        let x := getSlice s home
        let away := isDramKey (w.line * 128) = true ∧ w.how.held = true ∧ inHomeSlice s w.line = false
        (away → ∃ t, exec .writebackMerge s = .next t ∧ t.mem = s.mem ∧ t.fab = s.fab ∧ t.core = s.core
          ∧ (getSlice t home).misses = if ∃ m ∈ x.misses, m.line = w.line
              then x.misses.map fun m => if m.line = w.line then { m with closed := true, once := m.once && w.how.once } else m
              else if 32 ≤ x.misses.length then x.misses
              else x.misses ++ [⟨w.line, s.pkg.time, 0, true, w.how.once, w.how.lru, w.how.bark, []⟩])
        ∧ (¬away → w.mask ≠ 0 → s.ms.poisonList = [] →
          ∃ t, exec .writebackMerge s = .next t ∧ t.fab.net = s.fab.net.erase p ++ [⟨.rsp, p.dst, p.src, .wrote n⟩]
            ∧ (lineHeld s w.line = true → t.mem = s.mem ∧ t.ms.heldW = s.ms.heldW ++ [⟨n, w.line, w.data, w.mask, w.how, sharersOf s w.line, w.who⟩])
            ∧ (lineHeld s w.line = false → w.line ∈ s.poison → w.mask ≠ -1 → t.mem = s.mem)
            ∧ (lineHeld s w.line = false → (w.line ∉ s.poison ∨ w.mask = -1) → Memory.wf s.mem = true → merged t w.line w.data w.mask)
            ∧ (w.bad = true → w.line ∈ t.poison)))
    ∧ ((∃ x ∈ s.ms.heldW, x.line = line ∧ die ∈ x.wait) → ∃ t, exec (.replicaInvalidateAck line die) s = .next t ∧ die ∉ sharersOf t line)
    ∧ (s.ms.heldW = [h] → h.line = line → h.mask ≠ 0 → h.wait = [die] → s.ms.sharers = [⟨line, [die]⟩] → Memory.wf s.mem = true →
        s.ms.poisonList = [] → line ∉ s.poison →
        ∃ t, exec (.replicaInvalidateAck line die) s = .next t ∧ t.ms.heldW = [] ∧ t.ms.sharers = [] ∧ merged t line h.data h.mask)
    ∧ ((∀ x ∈ s.ms.heldW, x.line = line → die ∉ x.wait) → exec (.replicaInvalidateAck line die) s = .next s)
    ∧ (paExists (frame * 2 ^ 16) = true → isDramKey (frame * 2 ^ 16) = true → s.ms.heldW = [] →
        let old := (s.ms.frames.find? fun x => x.num == frame).getD ⟨frame, none, false, 0, 0⟩
        let early := ∃ t0, old.since = some t0 ∧ s.pkg.time < t0 + 10000
        (early → exec (.pageModeSwitch frame) s = .next s)
        ∧ (¬early → ∃ t, exec (.pageModeSwitch frame) s = .next t ∧ t.mem = s.mem
            ∧ (t.ms.frames.find? fun x => x.num == frame) = some ⟨frame, some s.pkg.time, !old.repl, 0, 0⟩
            ∧ (old.repl = true → ∀ x ∈ t.ms.sharers, x.line / 512 ≠ frame)))
    ∧ (s.core.walks = us ++ v :: vs → (∀ u ∈ us, u.st = .queued) → v.st ≠ .queued →
        let wakes := fun (t : State) (ans : Option (BitVec 128)) => s.core.cx.st = .waiting (.walk v.va) → t.core.cx.st = .ready ∧ t.core.cx.ans = ans
        let went := fun (t : State) => t.core.walks.map (·.va) = (us ++ vs).map (·.va) ∧ t.mem = s.mem
        (∀ x, v.st = .walker → walk s s.core.asid v.va.toNat = .ok x →
          ∃ t, exec .pageWalkComplete s = .next t ∧ went t ∧ x ∈ t.core.tlb ∧ (n / 4, x) ∈ t.ms.twigTlb ∧ t.core.tlb.length ≤ 64 ∧ wakes t none)
        ∧ (∀ e, v.st = .walker → walk s s.core.asid v.va.toNat = .error e →
          ∃ t, exec .pageWalkComplete s = .next t ∧ went t ∧ t.core.tlb = s.core.tlb ∧ t.ms.twigTlb = s.ms.twigTlb ∧ wakes t (some 0))
        ∧ (∀ x, v.st = .twig → s.ms.twigTlb.find? (fun y => y.1 == n / 4 && y.2.covers s.core.asid v.va.toNat) = some x →
          ∃ t, exec .pageWalkComplete s = .next t ∧ went t ∧ x.2 ∈ t.core.tlb ∧ t.core.tlb.length ≤ 64 ∧ t.ms = s.ms ∧ wakes t none))
    ∧ exec (.metadataFetch a true) s = .next s
    ∧ (s.pkg.sl = 3 → barkLine s a.asid a.va = some line → (∀ e ∈ s.ms.poisonList, e.block ≠ blockOf line) →
        let same := fun (b : Nat) => b % 256 = blockOf line % 256 ∧ b / 2 ^ 28 = blockOf line / 2 ^ 28
        let victim := ∃ y ∈ (getSlice s (homeSlice (line * 128))).lines, y.line = line ∧ y.dirty = true
        ∃ t, exec (.metadataFetch a false) s = .next t ∧ ⟨blockOf line, 0⟩ ∈ t.ms.poisonList ∧ (∀ l ∈ s.poison, l ∈ t.poison)
          ∧ ((s.ms.poisonList.filter fun e => decide (same e.block)).length < 64 → t.mem = s.mem)
          ∧ (∀ j, j < 4 → inHomeSlice s (blockLine (blockOf line) j) = false → blockLine (blockOf line) j ∈ t.poison)
          ∧ (victim → (∀ y ∈ (getSlice t (homeSlice (line * 128))).lines, y.line ≠ line)
              ∧ ∃ o, t.io.outs = o ++ [.msi false 33, .msi true 33, .lostBlock (blockLine (blockOf line) 0 * 128)]))

/-- The first read of a slice that need not wait. A hit is answered and makes the line the most recently used, or drops one that was read or
written once; a read of a line on its way joins its register within 64 cycles, and a miss opens one of 32. A fill installs the line with its
code, closes its register and answers all that wait. A write hit gives the line its new code, counts where it outgrows its sectors, and moves
it to the normal class (R150). A release that another core needs is flushed: the owing core writes back its lines for it, acknowledges once
those writes have been performed, and after the last acknowledgement the waiting acquires read again. -/
def Obligations.SlicesAndFlushes : Prop :=
  ∀ (s : State) (n : Nat) (r : SliceReq) (rs : List SliceReq) (y : L2Line) (m : Miss) (ms : List Miss) (p : Packet) (w : WriteBack) (ps qs : List Packet)
    (a : Ack) (line : Nat), s.ms.poisonList = [] →
    let x := getSlice s n
    let k := s.core.num
    let cap := setSectors s n
    let others := x.lines.filter fun q => q.line != r.line
    let reply := fun (t : State) (line : Nat) (w : Asker) => (⟨.rsp, n, w.core / 4, .reply w (some (line, lineNow t line))⟩ : Packet)
    let became := fun (z : Slice) => ∃ t, exec (.sliceAccess n) s = .next t ∧ Say.Wrote s.mem s t ∧ getSlice t n = z
    let hit := fun (z : Slice) => ∃ t, exec (.sliceAccess n) s = .next t ∧ Say.Wrote s.mem s t ∧ getSlice t n = z
      ∧ t.fab.net = s.fab.net ++ r.who.toList.map (reply t r.line)
    (x.reqs = r :: rs →
      (resident x r.line = some y → y.wr = false →
        hit { x with reqs := rs, lines := if y.once then others else if r.how.lru then x.lines else y :: others })
      ∧ (resident x r.line = some y → y.wr = true → rs = [] → exec (.sliceAccess n) s = .next s)
      ∧ (resident x r.line = none → x.misses.length < 32 → (∀ q ∈ x.misses, q.line ≠ r.line) →
        became { x with reqs := rs, misses := x.misses ++ [⟨r.line, s.pkg.time, 1, false, r.how.once, r.how.lru, r.how.bark, r.who.toList⟩] })
      ∧ (rs = [] → resident x r.line = none → 32 ≤ x.misses.length → (∀ q ∈ x.misses, q.line ≠ r.line) → exec (.sliceAccess n) s = .next s)
      ∧ (resident x r.line = none → x.misses.find? (fun q => q.line == r.line) = some m →
        (rs = [] → m.closed = true ∨ 64 < cyclesSince s n m.opened → exec (.sliceAccess n) s = .next s)
        ∧ (m.closed = false → cyclesSince s n m.opened ≤ 64 →
          became { x with reqs := rs, cnt := { x.cnt with merged := x.cnt.merged + 1 }
                          misses := x.misses.map fun q => if q.line = r.line then
                            { q with attached := q.attached + 1, once := q.once && r.how.once, who := q.who ++ r.who.toList } else q })))
    ∧ (x.misses = m :: ms → (n = homeSlice (m.line * 128) ∨ clearWay s .rsp (homeSlice (m.line * 128)) n = true) → resident x m.line = none →
        let c := lineCode s m.line
        let left := x.misses.filter fun q => q.line != m.line
        let served := n = homeSlice (m.line * 128) ∨ dieOfTwig n ∈ sharersOf s m.line
        fitsSet { x with misses := left } m.line c.2 cap = true →
        ∃ t, exec (.sliceFill n) s = .next t ∧ t.mem = s.mem ∧ (getSlice t n).misses = left
          ∧ (served → resident (getSlice t n) m.line = some ⟨m.line, c.1, c.2, m.once, false, m.bark, m.closed⟩) ∧ (¬served → (getSlice t n).lines = x.lines)
          ∧ t.fab.net = s.fab.net ++ m.who.map (reply s m.line)
          ∧ (getSlice t n).cnt.mcast = (if 2 ≤ m.attached then x.cnt.mcast + 1 else x.cnt.mcast)
          ∧ (getSlice t n).cnt.fillcmp = (if c.1 = 7 ∨ ¬served then x.cnt.fillcmp else x.cnt.fillcmp + 1))
    ∧ (Say.NextWrite s p w → n = homeSlice (w.line * 128) → isDramKey (w.line * 128) = true → resident x w.line = some y → y.wr = false →
        w.mask ≠ 0 → lineHeld s w.line = false → (w.line ∉ s.poison ∨ w.mask = -1) → w.bad = false → (∀ i, i < 128 → Say.plain s (w.line * 128 + i)) →
        ∃ t, exec .writebackMerge s = .next t ∧
          let c := lineCode t w.line
          let z : L2Line := { y with code := c.1, sectors := c.2, dirty := true, once := false }
          let lines := if w.how.lru then x.lines.map fun q => if q.line = w.line then z else q else z :: x.lines.filter fun q => q.line != w.line
          (c.2 ≤ y.sectors → getSlice t n = { x with lines := lines })
          ∧ (y.sectors < c.2 → fitsSet x w.line c.2 cap = true → getSlice t n = { x with lines := lines, cnt := { x.cnt with wexp := x.cnt.wexp + 1 } }))
    ∧ (s.fab.net = qs ++ p :: ps → (∀ q ∈ qs, ¬(q.cls = p.cls ∧ q.src = p.src ∧ q.dst = p.dst)) → pathOpen s p.src p.dst = true →
        (p.body = .flush k line n → (∀ q ∈ qs, ∀ l j, q.body ≠ .flush k l j) → (∀ a ∈ s.core.acks, ackReady s a = false) →
          ∃ t ws, exec .flushRequest s = .next t ∧ t.fab.net = qs ++ ps ++ ws ∧ t.mem = s.mem ∧ (∀ q ∈ ws, ∃ v, q.body = .write k v)
            ∧ (∀ l ∈ t.core.l1, l.owed = some line → l.dirty = 0) ∧ line ∉ t.core.relTab
            ∧ t.core.acks = s.core.acks ++ [⟨line, n, (writesOf t k).map (·.line) ++ s.ms.heldW.map (·.line)⟩])
        ∧ ∀ c, p.body = .flushed c line n → ∃ t, exec (.packetArrival p.cls p.src p.dst) s = .next t ∧ t.fab.net = qs ++ ps ∧ t.mem = s.mem
            ∧ ∀ f ∈ (getSlice t n).flushes, f.line = line → c ∉ f.cores)
    ∧ (s.core.acks.find? (ackReady s) = some a →
        ∃ t, exec .flushRequest s = .next t ∧ t.core.acks = s.core.acks.erase a ∧ t.mem = s.mem
          ∧ t.fab.net = s.fab.net ++ [⟨.rsp, k / 4, a.slice, .flushed k a.line a.slice⟩]
          ∧ ∀ l ∈ a.wait, (∀ v ∈ writesOf s k, v.line ≠ l) ∧ ∀ v ∈ s.ms.heldW, v.line ≠ l)
    ∧ ((∃ f ∈ x.flushes, f.line = line ∧ f.cores = []) →
        ∃ t, exec (.flushAck n line) s = .next t ∧ (∀ f ∈ (getSlice t n).flushes, f.line ≠ line) ∧ t.mem = s.mem
          ∧ (∀ d ∈ (getSlice t n).dir, d.line = line → d.cores ≠ []) ∧ (s.core.cx.st = .waiting (.flush line) → t.core.cx.st = .ready))
/-! ### From the ring to the end of a launch (R67 to R73, R88 to R110, R254 to R259) -/

/-- Memory changes only by the completion stamp of `lid` with a status, and only where STAMP can be written (R71, R299). -/
def Sys2Proof.Say.Stamped (asid : Nat) (stamp : Word) (lid : W32) (st : BitVec 8) (s t : State) : Prop :=
  match procPlace s asid stamp .write with
  | none => t.mem = s.mem
  | some p => ((∀ i, i < 8 → Say.plain s (p.key + i)) → memNat t.mem p.key 8 = lid.toNat + 2 ^ 56 * st.toNat) ∧ Say.LandsIn p.key 8 s t

/-- Launch `l` completes with a status: it is forgotten, its LID is remembered with the status, no launch waits for it, its stamp stands at the
place that STAMP led to when it was admitted, and its ring's event is raised where MSIEN asks for it. -/
def Sys2Proof.Say.Ended (l : Launch) (st : BitVec 8) (outs : List HostOut) (s t : State) : Prop :=
  (∀ x ∈ t.root.launches, x.id ≠ l.id ∧ (none, l.id) ∉ x.prereqs) ∧ (∀ p ∈ t.root.procs, p.asid = l.asid → (l.lid, st) ∈ p.remembered)
    ∧ ((∀ i, i < 8 → Say.plain s (l.stampKey + i)) → memNat t.mem l.stampKey 8 = l.lid.toNat + 2 ^ 56 * st.toNat)
    ∧ t.io.outs = s.io.outs ++ (if (getRing s l.ring).msien then [.msi (decide (l.ring / 32 = 1)) (1 + l.ring % 32)] else []) ++ outs

/-- The same, and no other byte of memory changes. -/
def Sys2Proof.Say.Completed (l : Launch) (st : BitVec 8) (outs : List HostOut) (s t : State) : Prop :=
  Say.Ended l st outs s t ∧ Say.LandsIn l.stampKey 8 s t

/-- A ring's oldest descriptor is copied and HEAD moves on. A descriptor within the limits becomes a launch at the gate once firmware names its
halt area; one outside them is stamped 0x04, and one whose STAMP cannot be written sets BADSTAMP. At the gate a launch waits for its
prerequisites; a failed one completes it with 0x02. A launch whose stages have all ended completes with 0x00, and one whose halt has stopped
every core with 0x01 and vector 33, in both cases once their commands have retired and their stores have been performed. That admission is
held until firmware names a halt area that will do, whose tables are written in that step, is the model's choice (log 85 over log 18). -/
def Obligations.LaunchesThroughTheGate : Prop :=
  ∀ (s : State) (port : Bool) (ring : Nat) (area : HaltArea) (c : Copied) (p : Proc) (l : Launch) (q : Place) (pres : List (Option (BitVec 8) × Nat)),
    let k := 32 * port.toNat + ring % 32
    let r := getRing s k
    let quiet := Memory.wf s.mem = true ∧ s.ms.poisonList = [] ∧ s.ms.heldW = []
    let enter := Instr.admission port ⟨ring, area⟩
    (¬(ring < 32 ∧ r.enable = true ∧ r.head ≠ r.tail) → exec (.descriptorCopy port ring) s = .next s)
    ∧ (ring < 32 → r.enable = true → r.head ≠ r.tail →
        let d := ((r.slots.find? fun x => x.1 == r.head.toNat % 64).map (·.2)).getD 0
        ∃ t, exec (.descriptorCopy port ring) s = .next t ∧ t.root = { s.root with copied := s.root.copied ++ [⟨k, d⟩] }
          ∧ getRing t k = { r with head := r.head + 1 } ∧ t.mem = s.mem
          ∧ t.io.outs = s.io.outs ++ (if r.headien then [.msi port (1 + ring)] else []))
    ∧ (s.pkg.sl.toNat < 2 → exec enter s = .next s)
    ∧ (ring < 32 → s.root.copied.find? (fun x => x.ring == k) = some c → 2 ≤ s.pkg.sl.toNat → s.ms.heldW = [] → proc? s r.asid = some p →
        let d := descOf c.desc
        let named := (d.pres.filter (· != 0)).mapM (bindPre s p d.lid)
        let taken := fun (t : State) => t.root.copied = s.root.copied.erase c
        let lidBad := d.lid = 0 ∨ ∃ x ∈ s.root.launches, x.asid = p.asid ∧ x.lid = d.lid
        (p.killed = true → ∃ t, exec enter s = .next t ∧ t = { s with root := t.root } ∧ taken t ∧ t.root.launches = s.root.launches)
        ∧ (p.killed = false → d.stamp.toNat % 8 = 0 → procPlace s p.asid d.stamp .write = some q →
          (¬lidBad → named = some pres → descOk s p d = true → areaOk s p.asid area d.stamp q.key = true →
            ∃ t, exec enter s = .next t ∧ t.mem = (kernelPut p.asid area.writes s).mem ∧ taken t ∧ t.root.nextLaunch = s.root.nextLaunch + 1
              ∧ ∃ x, t.root.launches = s.root.launches ++ [x] ∧ x.id = s.root.nextLaunch ∧ x.asid = p.asid ∧ x.ring = k ∧ x.lid = d.lid ∧ x.stamp = d.stamp
                ∧ x.stampKey = q.key ∧ x.const = d.const ∧ x.image = d.image ∧ x.groves = d.groves ∧ x.prio = d.prio ∧ x.prereqs = pres
                ∧ x.stages = d.stages ∧ x.st = .gate ∧ x.placed = [] ∧ x.haltPa = area.pa ∧ x.haltVa = area.va)
          ∧ (¬lidBad → named = some pres → descOk s p d = true → areaOk s p.asid area d.stamp q.key = false → exec enter s = .next s)
          ∧ (lidBad ∨ named = none ∨ descOk s p d = false → quiet →
            ∃ t, exec enter s = .next t ∧ taken t ∧ t.root.launches = s.root.launches ∧ Say.Stamped p.asid d.stamp d.lid 0x04 s t))
        ∧ (p.killed = false → d.stamp.toNat % 8 ≠ 0 ∨ procPlace s p.asid d.stamp .write = none →
          ∃ t, exec enter s = .next t ∧ taken t ∧ t.root.launches = s.root.launches ∧ t.mem = s.mem
            ∧ getRing t k = { r with badstamp := true, badlid := d.lid } ∧ t.io.outs = s.io.outs ++ [.msi port 33]))
    ∧ (launch? s l.id = some l → l.st = .gate →
        ((∃ x ∈ l.prereqs, x.1 = none) → exec (.launchGatePass l.id) s = .next s)
        ∧ (gateHeld s l = true → exec (.launchGatePass l.id) s = .next s)
        ∧ ((∀ x ∈ l.prereqs, x.1 = some 0) → gateHeld s l = false → s.ms.heldW = [] →
            ∃ t, exec (.launchGatePass l.id) s = .next t ∧ t.mem = s.mem ∧ ∃ n, launch? t l.id = some { l with st := .placing, passed := n }
              ∧ ∀ x ∈ s.root.launches, x.passed < n)
        ∧ ((∀ x ∈ l.prereqs, x.1 ≠ none) → (∃ x ∈ l.prereqs, x.1 ≠ some 0) → gateHeld s l = false → quiet →
            ∃ t, exec (.launchGatePass l.id) s = .next t ∧ Say.Completed l 0x02 [] s t))
    ∧ (launch? s l.id = some l →
        let settled := allRetired s l = true ∧ launchQuiet s l = true ∧ quiet
        let empty := (∀ g ∈ s.fab.groups, g.launch ≠ l.id) ∧ (∀ x ∈ l.placed, boundTo s l.id x = false) ∧ l.origin = none
        (l.st = .running → (∃ x ∈ l.placed, x.gone = false) → exec (.launchEnd l.id) s = .next s)
        ∧ (l.st = .running → (∀ x ∈ l.placed, x.gone = true) → settled →
            ∃ t, exec (.launchEnd l.id) s = .next t ∧ Say.Ended l 0x00 [] s t ∧ (empty → Say.LandsIn l.stampKey 8 s t))
        ∧ (l.st = .halting → l.resumable = false → allStopped s l = true → proc? s l.asid = some p → p.killed = false → settled →
            ∃ t, exec (.launchEnd l.id) s = .next t ∧ Say.Ended l 0x01 [.msi (decide (l.ring / 32 = 1)) 33] s t
              ∧ (empty → Say.LandsIn l.stampKey 8 s t))
        ∧ (allRetired s l = false → exec (.launchEnd l.id) s = .next s))

/-- Placement refuses groves outside the partition with 0x05. A launch of one stage with MAXC = 1, no group and no domain takes the lowest
eligible core of its groves, whose free bank is bound to it with the values of its record and its constant half, and becomes bound; with no
eligible core it waits. A started core begins at its stage's entry with index, count, CONST and stack in x10 to x12 and x2. -/
def Obligations.PlacementAndStart : Prop :=
  ∀ (s : State) (l : Launch) (groves : List Nat) (p : Proc) (pt : Part) (w : Want) (n : Nat) (b : Bool) (x : Placed) (bd : Bound),
    launch? s l.id = some l → s.ms.heldW = [] →
    (l.st ≠ .placing → exec (.placement l.id groves []) s = .next s)
    ∧ (l.st = .placing → placeTurn s l = true → choiceOk s l groves [] = true → 2 ≤ s.pkg.sl.toNat → proc? s l.asid = some p → partOfProc s p = some pt →
        ∀ img, imageOf s l = some img → wantsOf l img.img = some [w] →
        ((∃ g ∈ groves, pt.groves.getLsbD g = false) → Memory.wf s.mem = true → s.ms.poisonList = [] →
          ∃ t, exec (.placement l.id groves []) s = .next t ∧ Say.Completed l 0x05 [] s t)
        ∧ (s.pkg.sl = 3 → (∀ g ∈ groves, pt.groves.getLsbD g = true) → w.desc.blevel = 0 → w.desc.offen = false → w.need = 1 → w.desc.maxc = 1 →
            (∃ y ∈ coresOf groves, eligibleEmpty s w y = true) → sectionMeets s l pt = false →
            ((∀ y ∈ coresOf groves, eligible s l w y = false) → exec (.placement l.id groves []) s = .next s)
            ∧ ((coresOf groves).find? (eligible s l w) = some n → freeBank (getCore s n) = some b →
                let bind : Bound := { launch := l.id, stage := w.stage, index := 0, count := 1, lid := l.lid, const := l.const, entry := stageEntry s l w.stage,
                                      group := stageGroup s l.id w.stage, prio := l.prio, helpers := w.desc.helpers, chan := none, haltVa := l.haltVa
                                      haltPa := l.haltPa, left := false }
                ∀ u, loadConst n b l.const (modCoreAt n (bindCore bind w b l.asid) s) = some u →
                  ∃ t, exec (.placement l.id groves []) s = .next t ∧ getCore t n = getCore u n ∧ ((getCore t n).bankOf b).bound = some bind
                    ∧ (getCore t n).dpoolb0 = w.record.pool0 ∧ (getCore t n).dpoolb1 = w.record.pool1 ∧ (getCore t n).dpoolb2 = w.record.pool2
                    ∧ t.mem = s.mem ∧ launch? t l.id = some { l with st := .bound, placed := [⟨n, b, w.stage, 0, false⟩] })))
    ∧ (l.st ≠ .bound ∨ checkpointed s l = true ∨ (∃ y ∈ l.placed, pathOpen s (ioNode (l.ring / 32 == 1)) (y.core / 4) = false) →
        exec (.stageStart l.id) s = .next s)
    ∧ (l.st = .bound → checkpointed s l = false → (∀ y ∈ l.placed, pathOpen s (ioNode (l.ring / 32 == 1)) (y.core / 4) = true) →
        ∃ t, exec (.stageStart l.id) s = .next t ∧ t.mem = s.mem ∧ launch? t l.id = some { l with st := .running })
    ∧ (l.st = .bound → checkpointed s l = false → l.placed = [x] → pathOpen s (ioNode (l.ring / 32 == 1)) (x.core / 4) = true → x.core = s.core.num → x.bank = s.core.bank.num → s.core.bank.bound = some bd →
        ∃ t, exec (.stageStart l.id) s = .next t ∧ t.mem = s.mem ∧ launch? t l.id = some { l with st := .running }
          ∧ t.core.cx.st = .ready ∧ t.core.cx.id = 0 ∧ t.core.cx.pc = bd.entry
          ∧ readX t 10 = BitVec.ofNat 64 bd.index ∧ readX t 11 = BitVec.ofNat 64 bd.count ∧ readX t 12 = bd.const ∧ readX t 2 = stackTop s.core.bank 0
          ∧ (∀ r, r ∉ [2, 10, 11, 12] → readX t r = 0) ∧ (∀ r, readV t r = 0 ∧ readF t r = 0))

/-- The balancer evaluates a partition at most once every 100 ticks; it posts a rebind to the lowest idle core of a stage that may give to one
whose backlog is above its threshold. Killing a process leaves it killed, its rings disabled, none of its launches running, and none of its
translations or cached lines in the core. A checkpoint stops the running launches of a process's partition, or all, resumably; once they have
stopped, what their cores have not written goes home, and the memory goes to a drive in FUA writes, the last of which ends it. It restores
bytes, and becomes a terminal halt with REASON 3 when a held phase does not close in firmware's time of 1 ms to 60 s; a resumed launch runs
again. The choices of the model: how a checkpoint is asked for and the order of its stream (log 64), the raw form (log 38), and in which states
a kill is accepted (log 63). -/
def Obligations.BalancingKillingAndCheckpoints : Prop :=
  ∀ (s : State) (part asid r : Nat) (l : Launch) (p : Proc) (x : Placed) (place : CkptAt) (data : List Byte) (ask : CkptAsk) (ck : Ckpt),
    let early := ∃ q t0, s.root.parts.find? (fun y => y.id == part) = some q ∧ q.evaluated = some t0 ∧ s.pkg.time < t0 + 100
    (early → exec (.balancerEvaluation part) s = .next s)
    ∧ (¬early → ∃ t, exec (.balancerEvaluation part) s = .next t ∧ t.mem = s.mem ∧ ∀ q ∈ t.root.parts, q.id = part → q.evaluated = some s.pkg.time)
    ∧ (¬early → s.root.launches = [l] → l.st = .running → (proc? s l.asid).map (·.part) = some part →
        (∀ y ∈ l.placed, ∀ k, ((getCore s y.core).bankOf y.bank).rebind ≠ .posted k) → r < l.stages.length → receives s l r = true →
        (∀ k, k < l.stages.length → k ≠ r → receives s l k = false) →
        let can := fun (y : Placed) => y ∈ l.placed ∧ boundTo s l.id y = true ∧ gives s l r y.stage = true ∧ idleCore s l y = true
        can x → (∀ y, can y → y = x ∨ x.core < y.core) → (recentPosts s part).length < 64 →
        ∃ t, exec (.balancerEvaluation part) s = .next t ∧ ((getCore t x.core).bankOf x.bank).rebind = .posted r ∧ t.mem = s.mem
          ∧ ∀ n, n ≠ x.core → getCore t n = getCore s n)
    ∧ (proc? s asid = some p → p.killed = false → hostUp s = true → s.ms.heldW = [] →
        ∃ t, exec (.killProcess asid) s = .next t ∧ (∀ q ∈ t.root.procs, q.asid = asid → q.killed = true) ∧ (∀ q ∈ t.io.rings, q.asid = asid → q.enable = false)
          ∧ (∀ y ∈ t.root.launches, y.asid = asid → y.st = .halting ∧ y.resumable = false)
          ∧ (∀ e ∈ t.core.tlb, e.asid ≠ asid) ∧ (∀ e ∈ t.ms.twigTlb, e.2.asid ≠ asid) ∧ (t.core.asid = asid → t.core.l1 = []))
    ∧ (hostUp s = true →
        let refused := fun (t : State) => t.root = s.root ∧ t.io.outs = s.io.outs ++ [.refused, .msi ask.port 0]
        (s.root.ckpt = none → ∃ t, exec (.checkpointRequest ask) s = .next t ∧ t.mem = s.mem ∧ t.core = s.core
          ∧ (attached ask.drive ask.nsid = false ∨ (∃ a, ask.what = some a ∧ proc? s a = none) → refused t)
          ∧ (attached ask.drive ask.nsid = true → (∀ a, ask.what = some a → (proc? s a).isSome = true) →
              t.root.ckpt = some ⟨ask, false, false⟩ ∧ t.io = s.io
              ∧ t.root.launches = s.root.launches.map fun y => if y.st = .running ∧ ckptHits s ask.what y = true
                then { y with st := .halting, resumable := true, origin := some ⟨none, 5, 0⟩, haltedAt := s.pkg.time } else y))
        ∧ (s.root.ckpt = some ck → ck.ask = ask → ck.streaming = false → s.ms.heldW = [] →
          let pages := ckptPages s ask.what
          let block := max 1 (Config.lbaFormat ask.drive ask.nsid).1
          (ckptReady s ask.what = false → exec (.checkpointRequest ask) s = .next s)
          ∧ (ckptReady s ask.what = true → s.cores = [] → ask.what = none → unwritten s s.core.num = true →
              ∃ t, exec (.checkpointRequest ask) s = .next t ∧ t.mem = s.mem ∧ t.root = s.root ∧ ∀ l ∈ t.core.l1, l.dirty = 0)
          ∧ (ckptReady s ask.what = true → (∀ n ∈ ckptCores s ask.what, unwritten s n = false) →
              ∃ t ps, exec (.checkpointRequest ask) s = .next t ∧ t.mem = s.mem ∧ t.io.pieces = s.io.pieces ++ ps
                ∧ (∀ y ∈ ps, y.ckpt = true ∧ y.read = false ∧ y.fua = true ∧ y.drive = ask.drive ∧ y.nsid = ask.nsid)
                ∧ (ps ≠ [] → t.root.ckpt = some { ck with streaming := true } ∧ t.io.outs = s.io.outs)
                ∧ ∃ cuts : List (List Byte), cuts.flatten = pages.flatMap (streamPage s)
                    ∧ ps.map (·.data) = cuts.map fun bs => bs ++ List.replicate ((bs.length + block - 1) / block * block - bs.length) 0)))
    ∧ (∀ ok y, s.root.ckpt = some ck → s.io.pieces = [y] → y.ckpt = true → y.read = false → pieceOver s y = true →
        ∃ t, exec (.nvmePieceComplete y.id ok []) s = .next t ∧ t.mem = s.mem ∧ t.io.pieces = [] ∧ t.root.ckpt = none
          ∧ t.io.outs = s.io.outs ++ (if ok && !ck.failed then [] else [.refused]) ++ [.msi ck.ask.port 0])
    ∧ (hostUp s = true → Memory.wf s.mem = true → s.ms.heldW = [] → s.ms.poisonList = [] → place.rawb = false →
        (∀ i, i < data.length → allocatable s (place.pa + i) = true ∧ Say.plain s (place.pa + i)) →
        ∃ t, exec (.checkpointRestore place data) s = .next t ∧ memRead t.mem place.pa data.length = data ∧ Say.LandsIn place.pa data.length s t
          ∧ t.io.outs = s.io.outs ++ [.msi place.port 0])
    ∧ (hostUp s = true → s.ms.heldW = [] → place.rawb = true → place.pa % 2 ^ 17 = 0 → allocatableRange s place.pa (2 ^ 17) = true →
        ∃ t, exec (.checkpointRestore place data) s = .next t ∧ t.mem = (rawIn (driveNode place.drive) [place.pa] data s).1.mem
          ∧ t.poison = (rawIn (driveNode place.drive) [place.pa] data s).1.poison)
    ∧ (launch? s l.id = some l → l.st = .halting → l.resumable = true →
        let due := l.haltedAt + max 100000 (min 6000000000 (Config.ckptPolicy l.id)) ≤ s.pkg.time
        let held := ∃ d ∈ s.fab.doms, d.launch = l.id ∧ d.heldHalt = true
        (held → due → ∃ t, exec (.checkpointTimeout l.id) s = .next t ∧ t.mem = s.mem
          ∧ launch? t l.id = some { l with origin := some ⟨none, 3, 0⟩, resumable := false } ∧ ∀ d ∈ t.fab.doms, d.launch = l.id → d.heldHalt = false)
        ∧ (¬held ∨ ¬due → exec (.checkpointTimeout l.id) s = .next s)
        ∧ (allStopped s l = false → exec (.resumeLaunch l.id) s = .next s)
        ∧ (allStopped s l = true → ∃ t, exec (.resumeLaunch l.id) s = .next t ∧ t.mem = s.mem
          ∧ launch? t l.id = some { l with st := .running, origin := none, resumable := false }
          ∧ (∀ y ∈ l.placed, boundTo s l.id y = true → ((getCore t y.core).bankOf y.bank).stopped = false)
          ∧ ∀ d ∈ t.fab.doms, d.launch = l.id → d.heldHalt = false ∧ d.stopNew = false))
/-! ### Package, host ports and the mailbox (R10 to R23, R65 to R68, R82 to R85, R278) -/

/-- A firmware image that passes the verifier is loaded, any other sets FWERR (R84). -/
def Sys2Proof.Say.takes (i : FwImage) (counter : W32) (old : Option FwImage) : Option FwImage × Bool :=
  if i.keyOk ∧ i.sigOk ∧ i.digestOk ∧ counter.toNat ≤ i.version.toNat then (some i, false) else (old, true)

/-- Reset keeps the fuses alone and verifies Serlar. With trained host links S0 becomes S1 and the other two images are verified. The first
trained die enters S2 at 600 MHz; a die that fails training sets ERR. With every die online or failed and no launch past the gate S3 begins and
the clocks rise; the bark metadata is 0x7777. Each sample moves a die's clock by 50 MHz, and 125 °C removes power, as a power loss does. Targets
are clamped, counters only rise, and a channel retires only while no launch holds pages in its range or in its neighbour's. The model's choices:
what memory reads as after reset (log 65 over log 3), that a halt area counts as pages held (log 67), THROT of a die that is not online (log 20). -/
def Obligations.PackageEvents : Prop :=
  ∀ (s : State) (i j : FwImage) (half : List Nat) (die : Nat) (hot mhz twig : Nat) (layers : List Nat) (v : W32),
    let p := s.pkg
    let d := dieAt p die
    let low := fun (q : Pkg) (x : Nat) => q.online.getLsbD x = true ∧ (dieAt q x).clock < (dieAt q x).target
    let due := ∀ t0, d.sampled = some t0 → t0 + 10000 ≤ p.time
    let holds := fun (n : Nat) => ∃ l ∈ s.root.launches, dieOfPa l.haltPa = dieOfTwig n ∨ ∃ x ∈ pagesOf s l.asid, pageIn x n = true
    let next := if twig % 96 % 16 = 15 then twig - 1 else twig + 1
    let throt := fun (q : Pkg) => ∀ x, x < 24 → (q.throt.getLsbD x = true ↔ low q x)
    (∃ t, exec (.deviceReset i half []) s = .next t ∧ t.mem = State.reset.mem ∧ t.core = State.reset.core ∧ t.cores = [] ∧ t.root = State.reset.root
        ∧ t.fab = State.reset.fab ∧ t.io = State.reset.io ∧ t.ms = State.reset.ms ∧ t.pkg.sl = 0 ∧ t.pkg.online = 0 ∧ t.pkg.absent = p.absent
        ∧ t.pkg.rbSerlar = p.rbSerlar ∧ t.pkg.rbMmode = p.rbMmode ∧ t.pkg.rbWalker = p.rbWalker ∧ (t.pkg.serlar, t.pkg.fwerr) = Say.takes i p.rbSerlar none)
    ∧ (p.sl = 0 → p.serlar ≠ none → ∃ t, exec (.hostLinksTrained i j) s = .next t ∧ t.pkg.sl = 1
        ∧ t.pkg.mmode = (Say.takes i p.rbMmode p.mmode).1 ∧ t.pkg.walker = (Say.takes j p.rbWalker p.walker).1
        ∧ t.pkg.fwerr = (p.fwerr || (Say.takes i p.rbMmode none).2 || (Say.takes j p.rbWalker none).2) ∧ t.mem = s.mem ∧ t.core = s.core)
    ∧ (¬(p.sl = 0 ∧ p.serlar ≠ none) → exec (.hostLinksTrained i j) s = .next s)
    ∧ (die < 24 → p.sl = 1 ∨ p.sl = 2 → p.mmode ≠ none → p.walker ≠ none → d.trained = false → d.failed = false →
        (∃ t, exec (.dramTrainingDone die true) s = .next t ∧ t.pkg.sl = 2 ∧ t.pkg.online = p.online ||| (1#24 <<< die)
          ∧ dieAt t.pkg die = { d with trained := true, clock := 600 } ∧ (∀ x, x < 24 → x ≠ die → dieAt t.pkg x = dieAt p x) ∧ t.mem = s.mem ∧ throt t.pkg)
        ∧ (∃ t, exec (.dramTrainingDone die false) s = .next t ∧ t.pkg.sl = p.sl ∧ t.pkg.err = true ∧ t.pkg.online = p.online
          ∧ dieAt t.pkg die = { d with failed := true } ∧ ∀ n, dieOf n = die → present t n = false))
    ∧ (¬(p.sl = 2 ∧ (∀ x ∈ p.dies.toList, x.trained = true ∨ x.failed = true) ∧ ∀ l ∈ s.root.launches, l.st = .gate ∧ l.early = false) → exec .enterS3 s = .next s)
    ∧ (p.sl = 2 → (∀ x ∈ p.dies.toList, x.trained = true ∨ x.failed = true) → (∀ l ∈ s.root.launches, l.st = .gate ∧ l.early = false) →
        ∃ t, exec .enterS3 s = .next t ∧ t.pkg.sl = 3 ∧ (Memory.wf s.mem = true → ∀ a, memGet t.mem a = if isMetaKey a then 0x77 else memGet s.mem a)
          ∧ throt t.pkg
          ∧ ∀ x, x < 24 → dieAt t.pkg x = if (dieAt p x).trained ∧ ¬(dieAt p x).failed then { dieAt p x with clock := (dieAt p x).target } else dieAt p x)
    ∧ (die < 24 → ¬due → exec (.thermalSample die hot layers) s = .next s)
    ∧ (die < 24 → due → d.hot < 9 →
        let top := if p.sl = 2 then min 600 d.target else d.target
        ∃ t, exec (.thermalSample die hot layers) s = .next t ∧ t.mem = s.mem ∧ t.pkg.power = (p.power && decide (hot < 125)) ∧ throt t.pkg
          ∧ (105 < hot → (dieAt t.pkg die).clock = max 500 (d.clock - 50))
          ∧ (hot ≤ 100 → d.clock ≤ top → (dieAt t.pkg die).clock = min top (d.clock + 50))
          ∧ (100 < hot → hot ≤ 105 → d.clock ≤ top → (dieAt t.pkg die).clock = d.clock)
          ∧ (dieAt t.pkg die).hot = (if 115 ≤ hot ∧ d.clock = 500 then d.hot + 1 else 0)
          ∧ ((∃ x ∈ layers, 85 < x) → (dieAt t.pkg die).fastRefresh = true) ∧ ((∀ x ∈ layers, x ≤ 82) → (dieAt t.pkg die).fastRefresh = false)
          ∧ ∀ x, x < 24 → x ≠ die → dieAt t.pkg x = dieAt p x)
    ∧ (die < 24 → due → d.hot = 9 → d.clock = 500 → 115 ≤ hot → ∀ l q pt, l ∈ s.root.launches → l.st = .running →
        proc? s l.asid = some q → partOfProc s q = some pt → (∃ g, g < 96 ∧ pt.groves.getLsbD g = true ∧ dieOfGrove g = die) →
        ∃ t, exec (.thermalSample die hot layers) s = .next t ∧ ∀ y ∈ t.root.launches, y.id = l.id → y.st = .halting ∧ y.resumable = false)
    ∧ (die < 24 → hostUp s = true → ∃ t, exec (.coreClockTargetWrite die mhz) s = .next t ∧ t.mem = s.mem ∧ throt t.pkg
        ∧ dieAt t.pkg die = { d with target := max 500 (min 1000 mhz) } ∧ ∀ x, x < 24 → x ≠ die → dieAt t.pkg x = dieAt p x)
    ∧ (twig < 6144 → hostUp s = true → twig ∉ p.retired →
        (holds twig ∨ holds next → exec (.channelRetirement twig) s = .next s)
        ∧ (¬holds twig → ¬holds next → exec (.channelRetirement twig) s = .next (modPkg (fun q => { q with retired := q.retired ++ [twig] }) s)))
    ∧ exec .powerLoss s = .next (modPkg (fun q => { q with power := false }) s)
    ∧ (hostUp s = true → ∀ port k, let i := Instr.rollbackCounterRaise ⟨port, k⟩ v
        ((rollback p k).toNat < v.toNat → ∃ t, exec i s = .next t ∧ t = { s with pkg := t.pkg, io := { s.io with outs := s.io.outs ++ [.msi port 0] } }
          ∧ rollback t.pkg k = v ∧ ∀ m, m ≠ k → rollback t.pkg m = rollback p m)
        ∧ (v.toNat ≤ (rollback p k).toNat → exec i s = .next { s with io := { s.io with outs := s.io.outs ++ [.refused, .msi port 0] } }))

/-- Below S1 a port serves no ring, window or mailbox request. A doorbell of an enabled ring sets TAIL, or BADTAIL where the distance is above
64 or shrinks; RERR bits clear by 1; RCTL takes MSIEN and HEADIEN. A descriptor slot holds what is written. Window writes and reads act on
allocatable memory of online dies: of a write the served bytes land and every other byte is dropped, and a read that meets another byte or poison
gives all ones with an abort. Writes go in the order of arrival: one waits for the held writes of the device (log 6). -/
def Obligations.HostPorts : Prop :=
  ∀ (s : State) (port : Bool) (ring slot off len : Nat) (tail : W32) (v : Word) (desc : BitVec 2048) (data : List Byte),
    let k := 32 * port.toNat + ring % 32
    let r := getRing s k
    let a := windowBase s port + off
    let ringBecomes := fun (i : Instr) (f : Ring) =>
      ∃ t, exec i s = .next t ∧ getRing t k = f ∧ (∀ m, m ≠ k → getRing t m = getRing s m) ∧ t.mem = s.mem ∧ t.root = s.root ∧ t.core = s.core
    let far := (tail - r.head).toNat
    (hostUp s = false → ∀ i ∈ [Instr.rtailDoorbell port ring tail, .rerrClear port ring v, .hostRegisterWrite port off v, .descriptorSlotWrite port ring slot desc,
        .windowWrite port off data, .windowRead port off len], exec i s = .next s)
    ∧ (hostUp s = true → ring < 32 →
        ringBecomes (.rtailDoorbell port ring tail) (if r.enable = false then r
          else if 64 < far ∨ far < (r.tail - r.head).toNat then { r with badtail := true } else { r with tail := tail })
        ∧ ringBecomes (.rerrClear port ring v) { r with badtail := r.badtail && !v.getLsbD 0, badstamp := r.badstamp && !v.getLsbD 1 }
        ∧ ringBecomes (.hostRegisterWrite port (0x10000 + 0x1000 * ring) v) { r with msien := v.getLsbD 1, headien := v.getLsbD 18 }
        ∧ (slot < 64 → ∃ t, exec (.descriptorSlotWrite port ring slot desc) s = .next t ∧ t.mem = s.mem
            ∧ (getRing t k).slots.find? (fun x => x.1 == slot) = some (slot, desc)
            ∧ (∀ m, m ≠ slot → (getRing t k).slots.find? (fun x => x.1 == m) = r.slots.find? (fun x => x.1 == m))
            ∧ getRing t k = { r with slots := (getRing t k).slots }))
    ∧ (hostUp s = true → off + data.length ≤ 2 ^ 36 → Memory.wf s.mem = true → s.ms.heldW = [] → s.ms.poisonList = [] →
        (∃ t, exec (.windowWrite port off data) s = .next t ∧ t.root = s.root
          ∧ (∀ i, i < data.length → allocatable s (a + i) = true → memGet t.mem (a + i) = data.getD i 0)
          ∧ ∀ b, Say.plain s b → (b < a ∨ a + data.length ≤ b ∨ allocatable s b = false) → memGet t.mem b = memGet s.mem b)
        ∧ ((∀ i, i < data.length → allocatable s (a + i) = false) → exec (.windowWrite port off data) s = .next s))
    ∧ (hostUp s = true → off + len ≤ 2 ^ 36 →
        let good := ∀ i, i < len → allocatable s (a + i) = true ∧ lineOf (a + i) ∉ s.poison
        let reads := fun (bs : List Byte) (abort : Bool) => ∃ t, exec (.windowRead port off len) s = .next t
          ∧ t.io = { s.io with outs := s.io.outs ++ [.read port bs abort] } ∧ t.mem = s.mem ∧ t.core = s.core ∧ t.cores = s.cores ∧ t.root = s.root
        (good → reads (memRead s.mem a len) false) ∧ (¬good → reads (List.replicate len 0xFF) true))

/-- A partition takes groves that no other has, and lines leave a slice whose scratch takes their sectors; with its groves and no launch that
holds cores there it takes new sizes (log 94); a ring is bound to a process of a partition and enabled, and a killed ASID begins anew once its
launches are gone; the window's base moves in 64 GiB steps; a new image that the finaliser accepts and the root kernel maps gets its handle, one
of a known digest has it until reset, for another the reply names what is at fault. An update that verifies is loaded, another sets FWERR and is
refused. The report, signed, holds the nonce, digests, versions, core map and SVCSTAT. Every reply raises vector 0. The model's choices: which
requests are refused and how the reply says so (log 68), the order of the signed bytes (log 17), the root operand (log 8), the mapped image
(log 85). -/
def Obligations.MailboxRequests : Prop :=
  ∀ (s : State) (port : Bool) (part ring asid root base : Nat) (groves : BitVec 96) (scratch : List (Nat × Nat)) (handle : Word) (img : ImageRec)
    (ws : KernelWrites) (fw : FwImage) (nonce : BitVec 256),
    let p := s.pkg
    let tells := fun (o : HostOut) (s : State) => modIo (fun x => { x with outs := x.outs ++ [o] }) s
    let reply := tells (.msi port 0)
    let refused := tells .refused
    let create := Instr.mailboxPartitionCreate ⟨port, part⟩ groves scratch
    let bind := Instr.mailboxRingBind port ring asid part root
    let load := Instr.mailboxImageLoad ⟨port, asid⟩ handle ⟨img, ws⟩
    (hostUp s = false → ∀ i ∈ [create, bind, .mailboxWindowBase port base, load, .mailboxFirmwareUpdate ⟨port, .mmode⟩ fw, .attestationRequest port nonce],
        exec i s = .next s)
    ∧ (hostUp s = true →
        (let bad : Prop := ∃ x ∈ scratch, 6144 ≤ x.1 ∨ groves.getLsbD (groveOfTwig x.1) = false ∨ x.2 ∉ [0, 262144, 524288, 1048576]
          let held : Prop := ∃ x ∈ scratch, ∃ l ∈ s.root.launches, holdsCores l = true ∧ ∃ y ∈ l.placed, y.gone = false ∧ groveOf y.core = groveOfTwig x.1
          let overlap : Prop := ∃ q ∈ s.root.parts, q.id ≠ part ∧ q.groves &&& groves ≠ 0
          let makes := fun (ps : List Part) => ∃ t, exec create s = .next t ∧ t.mem = s.mem ∧ t.core = s.core
            ∧ t.root = { s.root with parts := ps } ∧ t.io.outs = s.io.outs ++ [.msi port 0]
            ∧ ∀ n z, scratch = [(n, z)] → ¬overlap → ∀ k, (((getSlice t n).lines.filter fun (y : L2Line) => Machine.setOf y.line == k).map (·.sectors)).sum ≤ 128 - z / 16384
          ((∀ q ∈ s.root.parts, q.id ≠ part) →
            (bad ∨ overlap → exec create s = .next (reply (refused s))) ∧ (¬bad → ¬overlap → makes (s.root.parts ++ [⟨part, groves, scratch, [], none⟩])))
          ∧ ∀ q, s.root.parts.find? (fun x => x.id == part) = some q →
            (bad ∨ q.groves ≠ groves ∨ held → exec create s = .next (reply (refused s)))
            ∧ (¬bad → q.groves = groves → ¬held → makes (s.root.parts.map fun y => if y.id = part then
                { y with scratch := (y.scratch.filter fun z => scratch.all fun w => w.1 != z.1) ++ scratch } else y)))
        ∧ (ring < 32 → asid < 65536 →
            let mine := ∃ l ∈ s.root.launches, l.asid = asid
            let bound := fun (t : State) => t.mem = s.mem ∧ t.io.outs = s.io.outs ++ [.msi port 0]
              ∧ getRing t (32 * port.toNat + ring) = { getRing s (32 * port.toNat + ring) with enable := true, bound := true, asid := asid }
            ((∀ q ∈ s.root.parts, q.id ≠ part) → exec bind s = .next (reply (refused s)))
            ∧ ((∃ q ∈ s.root.parts, q.id = part) →
                (∀ q, proc? s asid = some q → q.killed = false → ∃ t, exec bind s = .next t ∧ bound t ∧ t.root = s.root)
                ∧ (∀ q, proc? s asid = some q → q.killed = true → mine → exec bind s = .next (reply (refused s)))
                ∧ (proc? s asid = none ∨ (∃ q, proc? s asid = some q ∧ q.killed = true ∧ ¬mine) → ∃ t, exec bind s = .next t ∧ bound t
                    ∧ proc? t asid = some ⟨asid, root, part, false, [], []⟩ ∧ (∀ i ∈ t.root.images, i.asid ≠ asid) ∧ t.root.finals = s.root.finals
                    ∧ (∀ e ∈ t.core.tlb, e.asid ≠ asid) ∧ ∀ e ∈ t.ms.twigTlb, e.2.asid ≠ asid)))
        ∧ (base % 2 ^ 36 = 0 → ∃ t, exec (.mailboxWindowBase port base) s = .next t ∧ windowBase t port = base ∧ windowBase t (!port) = windowBase s (!port)
            ∧ t.mem = s.mem)
        ∧ (base % 2 ^ 36 ≠ 0 → exec (.mailboxWindowBase port base) s = .next (reply (refused s)))
        ∧ ((proc? s asid).isSome = true → s.ms.heldW = [] →
            let t := kernelPut asid ws s
            let fresh := ∀ i ∈ s.root.finals, i.img.digest ≠ img.digest
            let fits := fun (m : ImageRec) => mayPut s asid ws = true ∧ imageMapped t asid m = true
            let gives := fun (h : Word) (m : ImageRec) (new : List Final) =>
              reply (tells (.handle asid h) (modRoot (fun r => { r with images := r.images ++ [⟨h, asid, m⟩], finals := r.finals ++ new }) t))
            (fresh → ∀ o, imageFault img = some o → exec load s = .next (reply (tells (.badImage asid o) s)))
            ∧ (fresh → imageFault img = none → handle ≠ 0 → (∀ i ∈ s.root.finals, i.handle ≠ handle) →
                (fits img → exec load s = .next (gives handle img [⟨handle, img⟩])) ∧ (¬fits img → exec load s = .next s))
            ∧ ∀ i, s.root.finals.find? (fun x => x.img.digest == img.digest) = some i →
                ((∃ j ∈ s.root.images, j.handle = i.handle ∧ j.asid = asid) → exec load s = .next (reply (tells (.handle asid i.handle) s)))
                ∧ ((∀ j ∈ s.root.images, j.handle = i.handle → j.asid ≠ asid) →
                  (fits i.img → exec load s = .next (gives i.handle i.img [])) ∧ (¬fits i.img → exec load s = .next s)))
        ∧ (∀ k, loaded p k ≠ none →
            let ok := fw.keyOk ∧ fw.sigOk ∧ fw.digestOk ∧ (rollback p k).toNat ≤ fw.version.toNat
            (ok → ∃ t, exec (.mailboxFirmwareUpdate ⟨port, k⟩ fw) s = .next (reply t) ∧ t = { s with pkg := t.pkg } ∧ loaded t.pkg k = some fw
              ∧ t.pkg.fwerr = p.fwerr ∧ ∀ m, m ≠ k → loaded t.pkg m = loaded p m)
            ∧ (¬ok → exec (.mailboxFirmwareUpdate ⟨port, k⟩ fw) s = .next (reply (refused (modPkg (fun q => { q with fwerr := true }) s)))))
        ∧ (∀ a b c, p.serlar = some a → p.mmode = some b → p.walker = some c →
            let ds := [a.digest, b.digest, c.digest]
            let vs := [a.version, b.version, c.version]
            let svc := BitVec.ofNat 64 (p.sl.toNat + 4 * p.err.toNat + 8 * p.fwerr.toNat + 2 ^ 8 * p.online.toNat + 2 ^ 32 * p.throt.toNat)
            exec (.attestationRequest port nonce) s = .next (reply (tells (.report port nonce ds vs p.absent svc
              (Config.identitySign (reportBytes nonce ds vs p.absent svc))) s))))
/-! ### Decoding, stepping, reset, and what every step keeps -/

/-- A word of the table decodes to an instruction. -/
def Sys2Proof.Say.reads (w : Nat) (i : Instr) : Prop := decodeTableWord 32 w = some i

/-- Words written out bit by bit from the encodings of the spec decode to the instructions that they stand for: an ADD, an HSTART, a
BARW on channel 5, an LDACQ.W at scope PKG, a CMDQ to CQ, an OSEND.R, an AMOX, a VLD, a VADD.I16, a VFMA.FP32 and a VDOTP; an
unassigned funct value, a nonzero field that must be zero, and queue code 11 are rejected. -/
def Obligations.DecodedWords : Prop :=
  Say.reads 0b00000000001100010000000010110011 (.rv64Instruction (.alu .add 1 2 3))
  ∧ Say.reads 0b00000000001100010000000010001011 (.hstart 3 2 1)
  ∧ Say.reads 0b00000100010100100001001110001011 (.barw 5 4 7)
  ∧ Say.reads 0b00000011010000101010001100001011 (.ldacq .w .pkg 5 6)
  ∧ Say.reads 0b00000000000101001011010100001011 (.cmdq .cq 9 10)
  ∧ Say.reads 0b00000100001100010100000010001011 (.osendR 3 2 1)
  ∧ Say.reads 0b11011000001100010101000010001011 (.amox .cas64 .pkg 3 2 1)
  ∧ Say.reads 0b00000100000000011011001010101011 (.vld .w 3 .nt true 5)
  ∧ Say.reads 0b00000001000110001001000111011011 (.vadd .i16 3 2 1 3)
  ∧ Say.reads 0b01100110001100001010001001011011 (.vfma .fp32 6 2 2 4)
  ∧ Say.reads 0b00011000011000101100010001111011 (.vdotp 3 6 5 .bf 8)
  ∧ decodeTableWord 32 0b00010010001100010001000010001011 = none
  ∧ decodeTableWord 32 0b00000010001100010000000010001011 = none
  ∧ decodeTableWord 32 0b00000000001101001011010100001011 = none

/-- The word that the encoder makes of a well-formed instruction decodes to that instruction, with every operand, whatever follows it. -/
def Obligations.DecodeOfEncode : Prop :=
  ∀ (i : Instr) (w : W32) (rest : List Byte), i.wf = true → encode i = some w → decode (bytesLE w ++ rest) = .ok (i, rest)

/-- What the decoder reads is a well-formed instruction, and not an event of the device. -/
def Obligations.DecodedIsWellFormed : Prop :=
  ∀ (bs rest : List Byte) (i : Instr), decode bs = .ok (i, rest) → i.wf = true ∧ (encode i).isSome = true ∧ rest = bs.drop 4

/-- In the turn of a core that may issue, a step takes the four bytes at the pc, as the core sees them, and is exec of the instruction that
they decode to, with one more core cycle counted; bytes that are no instruction, and a fetch that fails, are exec of the illegal instruction
and of the fetch fault; a page that neither TLB holds is walked first, and a line that an earlier write of the core goes to is waited for.
Where the agenda names an event the step is exec of it, and where it is empty, of the first event that changes the state. What exec answers
is committed (log 88): it stands where every journey within it finds its way open and its writes have room at their slices; else the step
leaves the state before it, and the move waits. A step of an unpowered device is the one that stops. -/
def Obligations.StepRunsTheDecodedInstruction : Prop :=
  ∀ (s : State) (a : Turn) (rest : List Turn) (p : Place) (bs : List Byte) (i : Instr),
    let u := pass a { s with agenda := rest }
    let v := modCore (fun c => { c with cycles := c.cycles + 1, bank := { c.bank with used := c.bank.used + 1 } }) u
    let runs := fun (j : Instr) => step s = commit v (exec j v)
    let k := u.core
    let ready := mwaitOver k = false ∧ k.cx.st = .ready ∧ k.bank.seek = false ∧ k.bank.stopped = false ∧ k.bank.dead = false ∧ k.swap = none
      ∧ haltDue u = false ∧ k.cx.must23 = false ∧ k.bank.used < k.bank.dquantum.toNat
    let miss := tlbMiss u k.cx.pc .exec = true
    let cached := p.loc = .dram ∧ p.ty = .cached
    let hit := cached ∧ l1Hit u p.key 4 = true
    let seen := if hit then l1Bytes u p.key 4
      else if cached then underDirty u p.key 4 (fun i => memGet u.mem (p.key + i)) else memRead u.mem p.key 4
    let bad := (cached ∧ l1Poison u p.key = true) ∨ (¬hit ∧ poisoned u p.key 4 = true)
    let found := ¬miss ∧ resolve u k.cx.pc 4 .exec = .ok p ∧ (p.loc = .dram → behind u (lineOf p.key) = false)
    (s.agenda = a :: rest → s.pkg.power = true →
      (∀ j, a.ev = some j → isEvent j = true → step s = commit u (exec j u))
      ∧ (a.ev = none → ready →
          (found → ¬bad → seen = bs →
            (∀ r, decode bs = .ok (i, r) → runs i)
            ∧ (∀ e, decode bs = .error e → runs (.illegalInstruction (BitVec.ofNat 32 (natOfBytes bs)))))
          ∧ (found → bad → runs (.instructionFetchFault 1))
          ∧ (¬miss → resolve u k.cx.pc 4 .exec = .ok p → p.loc = .dram → behind u (lineOf p.key) = true → step s = .next (waitFor .stores v))
          ∧ (miss → k.cx.ans = none ∨ resolve u k.cx.pc 4 .exec = .ok p → step s = .next (waitFor (.walk k.cx.pc) (tick (enterWalk k.cx.pc u))))
          ∧ (∀ c, ¬miss ∨ k.cx.ans ≠ none → resolve u k.cx.pc 4 .exec = .error c → runs (.instructionFetchFault c))))
    ∧ (s.agenda = [] → s.pkg.power = true → nextEvent s = some i → step s = commit s (exec i s))
    ∧ (∀ b t, (t.fab.trips = [] → commit b (.next t) = .next t)
        ∧ (t.fab.trips ≠ [] → (∀ x ∈ t.fab.trips, tripOpen b x = true) → commit b (.next t) = .next { t with fab := { t.fab with trips := [] } })
        ∧ ((∃ x ∈ t.fab.trips, tripOpen b x = false) → commit b (.next t) = .next b))
    ∧ (s.pkg.power = false → powersUp s = false → step s = .fault .unpowered)

/-- Reset leaves the device at service level 0 with no die online, no error and nothing throttled, memory that lists nothing and is in
canonical form (it reads 0, and 0x77 in the bark metadata: log 3), every region at 1,250 MHz in no lock group, the scheduling registers at 4,096, 0 and 65,536, empty queues and tables, and no
launch, process or partition. -/
def Obligations.ResetState : Prop :=
  let s := State.reset
  Memory.wf s.mem = true ∧ (∀ a, memGet s.mem a = if isMetaKey a then 0x77 else 0) ∧ s.pkg.sl = 0 ∧ s.pkg.err = false ∧ s.pkg.fwerr = false ∧ s.pkg.online = 0 ∧ s.pkg.throt = 0
    ∧ svcstat s.pkg = 0 ∧ (∀ g, (rclkOf s g).target = 1250 ∧ (rclkOf s g).current = 1250 ∧ (rclkOf s g).lockgrp = 0 ∧ (rclkOf s g).joined = false)
    ∧ (∀ n, let c := getCore s n
        c.num = n ∧ c.bank.dquantum = 4096 ∧ c.bank.dyield = 0 ∧ c.bank.dbalwin = 65536 ∧ c.bank.dcksum = 1 ∧ c.mq = [] ∧ c.cq = [] ∧ c.gq = []
        ∧ c.inbox = [] ∧ c.l1 = [] ∧ c.dmemb = 0 ∧ c.msgSeq = 0 ∧ c.cx.recs = [] ∧ c.bank.bound = none)
    ∧ s.root.launches = [] ∧ s.root.procs = [] ∧ s.root.parts = [] ∧ s.fab.groups = [] ∧ s.fab.doms = [] ∧ s.ms.frames = [] ∧ s.fab.trips = []

/-- Every step keeps memory in its canonical form: addresses rise strictly, and no entry holds the byte that an unlisted address reads as. -/
def Obligations.EveryStepKeepsMemoryCanonical : Prop :=
  ∀ s t : State, Memory.wf s.mem = true → step s = .next t → Memory.wf t.mem = true

end
end

