-- ==== Sys2Proof/Laws/Dispatch.lean ====
section
/-! SUPPORT. Which meaning each instruction and event has: `exec` at every constructor. -/

namespace Sys2Proof.Machine

variable (s : State)

theorem exec_enterS3 : exec (.enterS3) s = execEnterS3 s := rfl
theorem exec_descriptorCopy : ∀ port ring, exec (.descriptorCopy port ring) s = execDescriptorCopy port ring s := fun _ _ => rfl
theorem exec_admission : ∀ port ring, exec (.admission port ring) s = execAdmission port ring s := fun _ _ => rfl
theorem exec_launchGatePass : ∀ launch, exec (.launchGatePass launch) s = execLaunchGatePass launch s := fun _ => rfl
theorem exec_placement : ∀ launch groves groups, exec (.placement launch groves groups) s = execPlacement launch groves groups s := fun _ _ _ => rfl
theorem exec_stageStart : ∀ launch, exec (.stageStart launch) s = execStageStart launch s := fun _ => rfl
theorem exec_launchEnd : ∀ launch, exec (.launchEnd launch) s = execLaunchEnd launch s := fun _ => rfl
theorem exec_balancerEvaluation : ∀ part, exec (.balancerEvaluation part) s = execBalancerEvaluation part s := fun _ => rfl
theorem exec_shadowSwap : exec (.shadowSwap) s = execShadowSwap s := rfl
theorem exec_swapComplete : exec (.swapComplete) s = execSwapComplete s := rfl
theorem exec_yieldEvent : exec (.yieldEvent) s = execYieldEvent s := rfl
theorem exec_spillComplete : exec (.spillComplete) s = execSpillComplete s := rfl
theorem exec_fillComplete : exec (.fillComplete) s = execFillComplete s := rfl
theorem exec_quantumExpiry : exec (.quantumExpiry) s = execQuantumExpiry s := rfl
theorem exec_remoteDataReturn : ∀ bank ctx err host, exec (.remoteDataReturn bank ctx err host) s = execRemoteDataReturn bank ctx err host s := fun _ _ _ _ => rfl
theorem exec_packetArrival : ∀ cls src dst, exec (.packetArrival cls src dst) s = execPacketArrival cls src dst s := fun _ _ _ => rfl
theorem exec_governorChange : ∀ grove, exec (.governorChange grove) s = execGovernorChange grove s := fun _ => rfl
theorem exec_relockEnd : ∀ grove, exec (.relockEnd grove) s = execRelockEnd grove s := fun _ => rfl
theorem exec_offerSteer : ∀ node, exec (.offerSteer node) s = execOfferSteer node s := fun _ => rfl
theorem exec_offerDeliver : exec (.offerDeliver) s = execOfferDeliver s := rfl
theorem exec_readinessUpdate : ∀ node, exec (.readinessUpdate node) s = execReadinessUpdate node s := fun _ => rfl
theorem exec_offerReturn : ∀ group, exec (.offerReturn group) s = execOfferReturn group s := fun _ => rfl
theorem exec_resendTimer : ∀ twig, exec (.resendTimer twig) s = execResendTimer twig s := fun _ => rfl
theorem exec_orderedSendRelease : ∀ twig, exec (.orderedSendRelease twig) s = execOrderedSendRelease twig s := fun _ => rfl
theorem exec_releasingSendRelease : ∀ twig, exec (.releasingSendRelease twig) s = execReleasingSendRelease twig s := fun _ => rfl
theorem exec_offerReceipt : exec (.offerReceipt) s = execOfferReceipt s := rfl
theorem exec_groupRecordUpdate : ∀ group, exec (.groupRecordUpdate group) s = execGroupRecordUpdate group s := fun _ => rfl
theorem exec_msendCopyDeliver : exec (.msendCopyDeliver) s = execMsendCopyDeliver s := rfl
theorem exec_barrierTopRelease : ∀ dom, exec (.barrierTopRelease dom) s = execBarrierTopRelease dom s := fun _ => rfl
theorem exec_barrierReleaseArrive : ∀ ch, exec (.barrierReleaseArrive ch) s = execBarrierReleaseArrive ch s := fun _ => rfl
theorem exec_haltWire : exec (.haltWire) s = execHaltWire s := rfl
theorem exec_launchHalt : ∀ launch, exec (.launchHalt launch) s = execLaunchHalt launch s := fun _ => rfl
theorem exec_beatArrive : exec (.beatArrive) s = execBeatArrive s := rfl
theorem exec_storeFaultRecord : ∀ bank ctx err, exec (.storeFaultRecord bank ctx err) s = execStoreFaultRecord bank ctx err s := fun _ _ _ => rfl
theorem exec_asyncStoreFaultTrap : exec (.asyncStoreFaultTrap) s = execAsyncStoreFaultTrap s := rfl
theorem exec_l1Fill : exec (.l1Fill) s = execL1Fill s := rfl
theorem exec_sliceAccess : ∀ slice, exec (.sliceAccess slice) s = execSliceAccess slice s := fun _ => rfl
theorem exec_sliceFill : ∀ slice, exec (.sliceFill slice) s = execSliceFill slice s := fun _ => rfl
theorem exec_flushRequest : exec (.flushRequest) s = execFlushRequest s := rfl
theorem exec_flushAck : ∀ slice line, exec (.flushAck slice line) s = execFlushAck slice line s := fun _ _ => rfl
theorem exec_writebackMerge : exec (.writebackMerge) s = execWritebackMerge s := rfl
theorem exec_replicaInvalidateAck : ∀ line die, exec (.replicaInvalidateAck line die) s = execReplicaInvalidateAck line die s := fun _ _ => rfl
theorem exec_pageModeSwitch : ∀ frame, exec (.pageModeSwitch frame) s = execPageModeSwitch frame s := fun _ => rfl
theorem exec_pageWalkComplete : exec (.pageWalkComplete) s = execPageWalkComplete s := rfl
theorem exec_monitorWake : ∀ bank ctx, exec (.monitorWake bank ctx) s = execMonitorWake bank ctx s := fun _ _ => rfl
theorem exec_reservationExpire : ∀ bank ctx, exec (.reservationExpire bank ctx) s = execReservationExpire bank ctx s := fun _ _ => rfl
theorem exec_metadataFetch : ∀ block ok, exec (.metadataFetch block ok) s = execMetadataFetch block ok s := fun _ _ => rfl
theorem exec_sequencerDispatch : ∀ q, exec (.sequencerDispatch q) s = execSequencerDispatch q s := fun _ => rfl
theorem exec_commandRetire : ∀ q, exec (.commandRetire q) s = execCommandRetire q s := fun _ => rfl
theorem exec_walkerRecordPoll : exec (.walkerRecordPoll) s = execWalkerRecordPoll s := rfl
theorem exec_walkerRecordTimeout : exec (.walkerRecordTimeout) s = execWalkerRecordTimeout s := rfl
theorem exec_nvmePieceComplete : ∀ piece ok data, exec (.nvmePieceComplete piece ok data) s = execNvmePieceComplete piece ok data s := fun _ _ _ => rfl
theorem exec_nvmePieceTimeout : ∀ piece, exec (.nvmePieceTimeout piece) s = execNvmePieceTimeout piece s := fun _ => rfl
theorem exec_dtvecWrite : ∀ a, exec (.dtvecWrite a) s = execDtvecWrite a s := fun _ => rfl
theorem exec_dcksumWrite : ∀ a, exec (.dcksumWrite a) s = execDcksumWrite a s := fun _ => rfl
theorem exec_dinjectWrite : ∀ a, exec (.dinjectWrite a) s = execDinjectWrite a s := fun _ => rfl
theorem exec_dbankYevClear : ∀ a, exec (.dbankYevClear a) s = execDbankYevClear a s := fun _ => rfl
theorem exec_dpoolbWrite : ∀ a n, exec (.dpoolbWrite a n) s = execDpoolbWrite a n s := fun _ _ => rfl
theorem exec_dmembWrite : ∀ a, exec (.dmembWrite a) s = execDmembWrite a s := fun _ => rfl
theorem exec_schedCsrWrite : ∀ a n, exec (.schedCsrWrite a n) s = execSchedCsrWrite a n s := fun _ _ => rfl
theorem exec_csrWrite : ∀ a csr, exec (.csrWrite a csr) s = execCsrWrite a csr s := fun _ _ => rfl
theorem exec_rv64Instruction : ∀ op, exec (.rv64Instruction op) s = execRv64Instruction op s := fun _ => rfl
theorem exec_load : ∀ k rd rs1 imm, exec (.load k rd rs1 imm) s = execLoad k rd rs1 imm s := fun _ _ _ _ => rfl
theorem exec_store : ∀ k rs2 rs1 imm, exec (.store k rs2 rs1 imm) s = execStore k rs2 rs1 imm s := fun _ _ _ _ => rfl
theorem exec_amo : ∀ op dbl aq rl rd rs1 rs2, exec (.amo op dbl aq rl rd rs1 rs2) s = execAmo op dbl aq rl rd rs1 rs2 s := fun _ _ _ _ _ _ _ => rfl
theorem exec_lr : ∀ dbl aq rl rd rs1, exec (.lr dbl aq rl rd rs1) s = execLr dbl aq rl rd rs1 s := fun _ _ _ _ _ => rfl
theorem exec_sc : ∀ dbl aq rl rd rs1 rs2, exec (.sc dbl aq rl rd rs1 rs2) s = execSc dbl aq rl rd rs1 rs2 s := fun _ _ _ _ _ _ => rfl
theorem exec_fence : ∀ fm pred succ rs1 rd, exec (.fence fm pred succ rs1 rd) s = execFence fm pred succ rs1 rd s := fun _ _ _ _ _ => rfl
theorem exec_fenceTso : ∀ rs1 rd, exec (.fenceTso rs1 rd) s = execFenceTso rs1 rd s := fun _ _ => rfl
theorem exec_fenceI : ∀ imm rs1 rd, exec (.fenceI imm rs1 rd) s = execFenceI imm rs1 rd s := fun _ _ _ => rfl
theorem exec_ecall : exec (.ecall) s = execEcall s := rfl
theorem exec_ebreak : exec (.ebreak) s = execEbreak s := rfl
theorem exec_hstart : ∀ rs2 rs1 rd, exec (.hstart rs2 rs1 rd) s = execHstart rs2 rs1 rd s := fun _ _ _ => rfl
theorem exec_hjoin : ∀ rs1 rd, exec (.hjoin rs1 rd) s = execHjoin rs1 rd s := fun _ _ => rfl
theorem exec_hexit : exec (.hexit) s = execHexit s := rfl
theorem exec_hlive : ∀ rd, exec (.hlive rd) s = execHlive rd s := fun _ => rfl
theorem exec_yield : exec (.yield) s = execYield s := rfl
theorem exec_stgend : exec (.stgend) s = execStgend s := rfl
theorem exec_stgbind : exec (.stgbind) s = execStgbind s := rfl
theorem exec_shswap : exec (.shswap) s = execShswap s := rfl
theorem exec_barr : ∀ c rs1, exec (.barr c rs1) s = execBarr c rs1 s := fun _ _ => rfl
theorem exec_bwait : ∀ c rd, exec (.bwait c rd) s = execBwait c rd s := fun _ _ => rfl
theorem exec_barw : ∀ c rs1 rd, exec (.barw c rs1 rd) s = execBarw c rs1 rd s := fun _ _ _ => rfl
theorem exec_btest : ∀ c rd, exec (.btest c rd) s = execBtest c rd s := fun _ _ => rfl
theorem exec_mwaitge : ∀ rs2 rs1 rd, exec (.mwaitge rs2 rs1 rd) s = execMwaitge rs2 rs1 rd s := fun _ _ _ => rfl
theorem exec_mwaiteq : ∀ rs2 rs1 rd, exec (.mwaiteq rs2 rs1 rd) s = execMwaiteq rs2 rs1 rd s := fun _ _ _ => rfl
theorem exec_mwaitne : ∀ rs2 rs1 rd, exec (.mwaitne rs2 rs1 rd) s = execMwaitne rs2 rs1 rd s := fun _ _ _ => rfl
theorem exec_phcomm : ∀ c, exec (.phcomm c) s = execPhcomm c s := fun _ => rfl
theorem exec_phcomp : ∀ c, exec (.phcomp c) s = execPhcomp c s := fun _ => rfl
theorem exec_fences : ∀ pred succ sc, exec (.fences pred succ sc) s = execFences pred succ sc s := fun _ _ _ => rfl
theorem exec_ldacq : ∀ z sc rs1 rd, exec (.ldacq z sc rs1 rd) s = execLdacq z sc rs1 rd s := fun _ _ _ _ => rfl
theorem exec_strel : ∀ z sc rs2 rs1, exec (.strel z sc rs2 rs1) s = execStrel z sc rs2 rs1 s := fun _ _ _ _ => rfl
theorem exec_drains : exec (.drains) s = execDrains s := rfl
theorem exec_cflush : ∀ sc rs1, exec (.cflush sc rs1) s = execCflush sc rs1 s := fun _ _ => rfl
theorem exec_cinv : ∀ sc rs1, exec (.cinv sc rs1) s = execCinv sc rs1 s := fun _ _ => rfl
theorem exec_cpref : ∀ h rs1, exec (.cpref h rs1) s = execCpref h rs1 s := fun _ _ => rfl
theorem exec_rlq : ∀ rs2 rs1 rd, exec (.rlq rs2 rs1 rd) s = execRlq rs2 rs1 rd s := fun _ _ _ => rfl
theorem exec_cmdq : ∀ q rs1 rd, exec (.cmdq q rs1 rd) s = execCmdq q rs1 rd s := fun _ _ _ => rfl
theorem exec_cmdqw : ∀ q rs1 rd, exec (.cmdqw q rs1 rd) s = execCmdqw q rs1 rd s := fun _ _ _ => rfl
theorem exec_cmdcan : ∀ q rs1 rd, exec (.cmdcan q rs1 rd) s = execCmdcan q rs1 rd s := fun _ _ _ => rfl
theorem exec_cmdst : ∀ q rd, exec (.cmdst q rd) s = execCmdst q rd s := fun _ _ => rfl
theorem exec_loopset : ∀ q l rs1, exec (.loopset q l rs1) s = execLoopset q l rs1 s := fun _ _ _ => rfl
theorem exec_loopget : ∀ q l rd, exec (.loopget q l rd) s = execLoopget q l rd s := fun _ _ _ => rfl
theorem exec_osend : ∀ vs rs1 rd, exec (.osend vs rs1 rd) s = execOsend vs rs1 rd s := fun _ _ _ => rfl
theorem exec_osendO : ∀ vs rs1 rd, exec (.osendO vs rs1 rd) s = execOsendO vs rs1 rd s := fun _ _ _ => rfl
theorem exec_osendR : ∀ vs rs1 rd, exec (.osendR vs rs1 rd) s = execOsendR vs rs1 rd s := fun _ _ _ => rfl
theorem exec_osendOr : ∀ vs rs1 rd, exec (.osendOr vs rs1 rd) s = execOsendOr vs rs1 rd s := fun _ _ _ => rfl
theorem exec_oready : ∀ rs2 rs1 rd, exec (.oready rs2 rs1 rd) s = execOready rs2 rs1 rd s := fun _ _ _ => rfl
theorem exec_ounready : ∀ rs2 rs1 rd, exec (.ounready rs2 rs1 rd) s = execOunready rs2 rs1 rd s := fun _ _ _ => rfl
theorem exec_otake : ∀ vd rs1 rd, exec (.otake vd rs1 rd) s = execOtake vd rs1 rd s := fun _ _ _ => rfl
theorem exec_otakeA : ∀ vd rs1 rd, exec (.otakeA vd rs1 rd) s = execOtakeA vd rs1 rd s := fun _ _ _ => rfl
theorem exec_opoll : ∀ vd rs1 rd, exec (.opoll vd rs1 rd) s = execOpoll vd rs1 rd s := fun _ _ _ => rfl
theorem exec_ofence : ∀ rs1, exec (.ofence rs1) s = execOfence rs1 s := fun _ => rfl
theorem exec_msend : ∀ vs rd, exec (.msend vs rd) s = execMsend vs rd s := fun _ _ => rfl
theorem exec_wtx : ∀ vs rs1, exec (.wtx vs rs1) s = execWtx vs rs1 s := fun _ _ => rfl
theorem exec_wsel : ∀ rs1, exec (.wsel rs1) s = execWsel rs1 s := fun _ => rfl
theorem exec_wrx : ∀ vd rs1, exec (.wrx vd rs1) s = execWrx vd rs1 s := fun _ _ => rfl
theorem exec_amox : ∀ op sc rs2 rs1 rd, exec (.amox op sc rs2 rs1 rd) s = execAmox op sc rs2 rs1 rd s := fun _ _ _ _ _ => rfl
theorem exec_idget : ∀ sel rd, exec (.idget sel rd) s = execIdget sel rd s := fun _ _ => rfl
theorem exec_hret : exec (.hret) s = execHret s := rfl
theorem exec_fltpop : ∀ vd rd, exec (.fltpop vd rd) s = execFltpop vd rd s := fun _ _ => rfl
theorem exec_fltcnt : ∀ rd, exec (.fltcnt rd) s = execFltcnt rd s := fun _ => rfl
theorem exec_gstop : ∀ c, exec (.gstop c) s = execGstop c s := fun _ => rfl
theorem exec_vld : ∀ e rs1 h z vd, exec (.vld e rs1 h z vd) s = execVld e rs1 h z vd s := fun _ _ _ _ _ => rfl
theorem exec_vst : ∀ e rs1 h z vs3, exec (.vst e rs1 h z vs3) s = execVst e rs1 h z vs3 s := fun _ _ _ _ _ => rfl
theorem exec_vlds : ∀ e rs2 rs1 h z vd, exec (.vlds e rs2 rs1 h z vd) s = execVlds e rs2 rs1 h z vd s := fun _ _ _ _ _ _ => rfl
theorem exec_vsts : ∀ e rs2 rs1 h z vs3, exec (.vsts e rs2 rs1 h z vs3) s = execVsts e rs2 rs1 h z vs3 s := fun _ _ _ _ _ _ => rfl
theorem exec_vldx : ∀ e vs2 rs1 z vd, exec (.vldx e vs2 rs1 z vd) s = execVldx e vs2 rs1 z vd s := fun _ _ _ _ _ => rfl
theorem exec_vstx : ∀ e vs2 rs1 z vs3, exec (.vstx e vs2 rs1 z vs3) s = execVstx e vs2 rs1 z vs3 s := fun _ _ _ _ _ => rfl
theorem exec_vldl : ∀ e rs1 z vd, exec (.vldl e rs1 z vd) s = execVldl e rs1 z vd s := fun _ _ _ _ => rfl
theorem exec_vstl : ∀ e rs1 z vs3, exec (.vstl e rs1 z vs3) s = execVstl e rs1 z vs3 s := fun _ _ _ _ => rfl
theorem exec_vldb : ∀ e rs1 h vd, exec (.vldb e rs1 h vd) s = execVldb e rs1 h vd s := fun _ _ _ _ => rfl
theorem exec_vstm : ∀ e p rs1 h vs3, exec (.vstm e p rs1 h vs3) s = execVstm e p rs1 h vs3 s := fun _ _ _ _ _ => rfl
theorem exec_vamo : ∀ e op vs2 rs1 vs3, exec (.vamo e op vs2 rs1 vs3) s = execVamo e op vs2 rs1 vs3 s := fun _ _ _ _ _ => rfl
theorem exec_vpref : ∀ e rs1 h, exec (.vpref e rs1 h) s = execVpref e rs1 h s := fun _ _ _ => rfl
theorem exec_vadd : ∀ t vs2 vs1 pg vd, exec (.vadd t vs2 vs1 pg vd) s = execVadd t vs2 vs1 pg vd s := fun _ _ _ _ _ => rfl
theorem exec_vsub : ∀ t vs2 vs1 pg vd, exec (.vsub t vs2 vs1 pg vd) s = execVsub t vs2 vs1 pg vd s := fun _ _ _ _ _ => rfl
theorem exec_vmul : ∀ t vs2 vs1 pg vd, exec (.vmul t vs2 vs1 pg vd) s = execVmul t vs2 vs1 pg vd s := fun _ _ _ _ _ => rfl
theorem exec_vmulh : ∀ t vs2 vs1 pg vd, exec (.vmulh t vs2 vs1 pg vd) s = execVmulh t vs2 vs1 pg vd s := fun _ _ _ _ _ => rfl
theorem exec_vmulhn : ∀ t vs2 vs1 pg vd, exec (.vmulhn t vs2 vs1 pg vd) s = execVmulhn t vs2 vs1 pg vd s := fun _ _ _ _ _ => rfl
theorem exec_vmac : ∀ t vs2 vs1 pg vd, exec (.vmac t vs2 vs1 pg vd) s = execVmac t vs2 vs1 pg vd s := fun _ _ _ _ _ => rfl
theorem exec_vadds : ∀ t vs2 vs1 pg vd, exec (.vadds t vs2 vs1 pg vd) s = execVadds t vs2 vs1 pg vd s := fun _ _ _ _ _ => rfl
theorem exec_vaddsn : ∀ t vs2 vs1 pg vd, exec (.vaddsn t vs2 vs1 pg vd) s = execVaddsn t vs2 vs1 pg vd s := fun _ _ _ _ _ => rfl
theorem exec_vsubs : ∀ t vs2 vs1 pg vd, exec (.vsubs t vs2 vs1 pg vd) s = execVsubs t vs2 vs1 pg vd s := fun _ _ _ _ _ => rfl
theorem exec_vsubsn : ∀ t vs2 vs1 pg vd, exec (.vsubsn t vs2 vs1 pg vd) s = execVsubsn t vs2 vs1 pg vd s := fun _ _ _ _ _ => rfl
theorem exec_vmin : ∀ t vs2 vs1 pg vd, exec (.vmin t vs2 vs1 pg vd) s = execVmin t vs2 vs1 pg vd s := fun _ _ _ _ _ => rfl
theorem exec_vminn : ∀ t vs2 vs1 pg vd, exec (.vminn t vs2 vs1 pg vd) s = execVminn t vs2 vs1 pg vd s := fun _ _ _ _ _ => rfl
theorem exec_vmax : ∀ t vs2 vs1 pg vd, exec (.vmax t vs2 vs1 pg vd) s = execVmax t vs2 vs1 pg vd s := fun _ _ _ _ _ => rfl
theorem exec_vmaxn : ∀ t vs2 vs1 pg vd, exec (.vmaxn t vs2 vs1 pg vd) s = execVmaxn t vs2 vs1 pg vd s := fun _ _ _ _ _ => rfl
theorem exec_vand : ∀ t vs2 vs1 pg vd, exec (.vand t vs2 vs1 pg vd) s = execVand t vs2 vs1 pg vd s := fun _ _ _ _ _ => rfl
theorem exec_vor : ∀ t vs2 vs1 pg vd, exec (.vor t vs2 vs1 pg vd) s = execVor t vs2 vs1 pg vd s := fun _ _ _ _ _ => rfl
theorem exec_vxor : ∀ t vs2 vs1 pg vd, exec (.vxor t vs2 vs1 pg vd) s = execVxor t vs2 vs1 pg vd s := fun _ _ _ _ _ => rfl
theorem exec_vsll : ∀ t vs2 vs1 pg vd, exec (.vsll t vs2 vs1 pg vd) s = execVsll t vs2 vs1 pg vd s := fun _ _ _ _ _ => rfl
theorem exec_vsrl : ∀ t vs2 vs1 pg vd, exec (.vsrl t vs2 vs1 pg vd) s = execVsrl t vs2 vs1 pg vd s := fun _ _ _ _ _ => rfl
theorem exec_vsra : ∀ t vs2 vs1 pg vd, exec (.vsra t vs2 vs1 pg vd) s = execVsra t vs2 vs1 pg vd s := fun _ _ _ _ _ => rfl
theorem exec_vcmp : ∀ t k vs2 vs1 pg pd, exec (.vcmp t k vs2 vs1 pg pd) s = execVcmp t k vs2 vs1 pg pd s := fun _ _ _ _ _ _ => rfl
theorem exec_vsel : ∀ t vs2 vs1 pg vd, exec (.vsel t vs2 vs1 pg vd) s = execVsel t vs2 vs1 pg vd s := fun _ _ _ _ _ => rfl
theorem exec_vfadd : ∀ t vs2 vs1 pg vd, exec (.vfadd t vs2 vs1 pg vd) s = execVfadd t vs2 vs1 pg vd s := fun _ _ _ _ _ => rfl
theorem exec_vfsub : ∀ t vs2 vs1 pg vd, exec (.vfsub t vs2 vs1 pg vd) s = execVfsub t vs2 vs1 pg vd s := fun _ _ _ _ _ => rfl
theorem exec_vfmul : ∀ t vs2 vs1 pg vd, exec (.vfmul t vs2 vs1 pg vd) s = execVfmul t vs2 vs1 pg vd s := fun _ _ _ _ _ => rfl
theorem exec_vfma : ∀ t vs2 vs1 pg vd, exec (.vfma t vs2 vs1 pg vd) s = execVfma t vs2 vs1 pg vd s := fun _ _ _ _ _ => rfl
theorem exec_vfms : ∀ t vs2 vs1 pg vd, exec (.vfms t vs2 vs1 pg vd) s = execVfms t vs2 vs1 pg vd s := fun _ _ _ _ _ => rfl
theorem exec_vfnma : ∀ t vs2 vs1 pg vd, exec (.vfnma t vs2 vs1 pg vd) s = execVfnma t vs2 vs1 pg vd s := fun _ _ _ _ _ => rfl
theorem exec_vfdiv : ∀ t vs2 vs1 pg vd, exec (.vfdiv t vs2 vs1 pg vd) s = execVfdiv t vs2 vs1 pg vd s := fun _ _ _ _ _ => rfl
theorem exec_vfsqrt : ∀ t vs1 pg vd, exec (.vfsqrt t vs1 pg vd) s = execVfsqrt t vs1 pg vd s := fun _ _ _ _ => rfl
theorem exec_vfmin : ∀ t vs2 vs1 pg vd, exec (.vfmin t vs2 vs1 pg vd) s = execVfmin t vs2 vs1 pg vd s := fun _ _ _ _ _ => rfl
theorem exec_vfmax : ∀ t vs2 vs1 pg vd, exec (.vfmax t vs2 vs1 pg vd) s = execVfmax t vs2 vs1 pg vd s := fun _ _ _ _ _ => rfl
theorem exec_vfcmp : ∀ t k vs2 vs1 pg pd, exec (.vfcmp t k vs2 vs1 pg pd) s = execVfcmp t k vs2 vs1 pg pd s := fun _ _ _ _ _ _ => rfl
theorem exec_vfsgn : ∀ t vs2 vs1 pg vd, exec (.vfsgn t vs2 vs1 pg vd) s = execVfsgn t vs2 vs1 pg vd s := fun _ _ _ _ _ => rfl
theorem exec_vfclass : ∀ t vs1 pg vd, exec (.vfclass t vs1 pg vd) s = execVfclass t vs1 pg vd s := fun _ _ _ _ => rfl
theorem exec_vcvtf : ∀ dst src sat vs1 pg vd, exec (.vcvtf dst src sat vs1 pg vd) s = execVcvtf dst src sat vs1 pg vd s := fun _ _ _ _ _ _ => rfl
theorem exec_vcvti : ∀ dst src sat vs1 pg vd, exec (.vcvti dst src sat vs1 pg vd) s = execVcvti dst src sat vs1 pg vd s := fun _ _ _ _ _ _ => rfl
theorem exec_vcvtx : ∀ dst src sat vs1 pg vd, exec (.vcvtx dst src sat vs1 pg vd) s = execVcvtx dst src sat vs1 pg vd s := fun _ _ _ _ _ _ => rfl
theorem exec_vred : ∀ t op vs1 pg vd, exec (.vred t op vs1 pg vd) s = execVred t op vs1 pg vd s := fun _ _ _ _ _ => rfl
theorem exec_vfred : ∀ t op vs1 pg vd, exec (.vfred t op vs1 pg vd) s = execVfred t op vs1 pg vd s := fun _ _ _ _ _ => rfl
theorem exec_vscan : ∀ t op vs1 pg vd, exec (.vscan t op vs1 pg vd) s = execVscan t op vs1 pg vd s := fun _ _ _ _ _ => rfl
theorem exec_vfscan : ∀ t op vs1 pg vd, exec (.vfscan t op vs1 pg vd) s = execVfscan t op vs1 pg vd s := fun _ _ _ _ _ => rfl
theorem exec_vperm : ∀ t vs2 vs1 pg vd, exec (.vperm t vs2 vs1 pg vd) s = execVperm t vs2 vs1 pg vd s := fun _ _ _ _ _ => rfl
theorem exec_vslideup : ∀ t rs2 vs1 pg vd, exec (.vslideup t rs2 vs1 pg vd) s = execVslideup t rs2 vs1 pg vd s := fun _ _ _ _ _ => rfl
theorem exec_vslidedn : ∀ t rs2 vs1 pg vd, exec (.vslidedn t rs2 vs1 pg vd) s = execVslidedn t rs2 vs1 pg vd s := fun _ _ _ _ _ => rfl
theorem exec_vrotl : ∀ t vs2 vs1 pg vd, exec (.vrotl t vs2 vs1 pg vd) s = execVrotl t vs2 vs1 pg vd s := fun _ _ _ _ _ => rfl
theorem exec_vzip : ∀ t vs2 vs1 pg vd, exec (.vzip t vs2 vs1 pg vd) s = execVzip t vs2 vs1 pg vd s := fun _ _ _ _ _ => rfl
theorem exec_vunzip : ∀ t vs2 vs1 pg vd, exec (.vunzip t vs2 vs1 pg vd) s = execVunzip t vs2 vs1 pg vd s := fun _ _ _ _ _ => rfl
theorem exec_vbcast : ∀ t rs1 pg vd, exec (.vbcast t rs1 pg vd) s = execVbcast t rs1 pg vd s := fun _ _ _ _ => rfl
theorem exec_vext : ∀ t rs2 vs1 pg rd, exec (.vext t rs2 vs1 pg rd) s = execVext t rs2 vs1 pg rd s := fun _ _ _ _ _ => rfl
theorem exec_vins : ∀ t rs2 rs1 pg vd, exec (.vins t rs2 rs1 pg vd) s = execVins t rs2 rs1 pg vd s := fun _ _ _ _ _ => rfl
theorem exec_vcmul : ∀ t vs2 vs1 pg vd, exec (.vcmul t vs2 vs1 pg vd) s = execVcmul t vs2 vs1 pg vd s := fun _ _ _ _ _ => rfl
theorem exec_plogic : ∀ t op pb pa pg pd, exec (.plogic t op pb pa pg pd) s = execPlogic t op pb pa pg pd s := fun _ _ _ _ _ _ => rfl
theorem exec_ppopc : ∀ t pa pg rd, exec (.ppopc t pa pg rd) s = execPpopc t pa pg rd s := fun _ _ _ _ => rfl
theorem exec_pfirst : ∀ t pa pg rd, exec (.pfirst t pa pg rd) s = execPfirst t pa pg rd s := fun _ _ _ _ => rfl
theorem exec_psetn : ∀ t rs1 pg pd, exec (.psetn t rs1 pg pd) s = execPsetn t rs1 pg pd s := fun _ _ _ _ => rfl
theorem exec_vid : ∀ t pg vd, exec (.vid t pg vd) s = execVid t pg vd s := fun _ _ _ => rfl
theorem exec_vpopc : ∀ t vs1 pg vd, exec (.vpopc t vs1 pg vd) s = execVpopc t vs1 pg vd s := fun _ _ _ _ => rfl
theorem exec_vclz : ∀ t vs1 pg vd, exec (.vclz t vs1 pg vd) s = execVclz t vs1 pg vd s := fun _ _ _ _ => rfl
theorem exec_vdotp : ∀ fs3 vs2 vs1 p vd, exec (.vdotp fs3 vs2 vs1 p vd) s = execVdotp fs3 vs2 vs1 p vd s := fun _ _ _ _ _ => rfl
theorem exec_vmulp : ∀ fs3 vs2 vs1 p vd, exec (.vmulp fs3 vs2 vs1 p vd) s = execVmulp fs3 vs2 vs1 p vd s := fun _ _ _ _ _ => rfl
theorem exec_vqnt : ∀ fs3 vs1 p vd, exec (.vqnt fs3 vs1 p vd) s = execVqnt fs3 vs1 p vd s := fun _ _ _ _ => rfl
theorem exec_vdqnt : ∀ fs3 vs1 p vd, exec (.vdqnt fs3 vs1 p vd) s = execVdqnt fs3 vs1 p vd s := fun _ _ _ _ => rfl
theorem exec_mzero : ∀ bank seq, exec (.mzero bank seq) s = execMzero bank seq s := fun _ _ => rfl
theorem exec_mma : ∀ bank seq, exec (.mma bank seq) s = execMma bank seq s := fun _ _ => rfl
theorem exec_mmas : ∀ bank seq, exec (.mmas bank seq) s = execMmas bank seq s := fun _ _ => rfl
theorem exec_mlda : ∀ bank seq, exec (.mlda bank seq) s = execMlda bank seq s := fun _ _ => rfl
theorem exec_msta : ∀ bank seq, exec (.msta bank seq) s = execMsta bank seq s := fun _ _ => rfl
theorem exec_mtrn : ∀ bank seq, exec (.mtrn bank seq) s = execMtrn bank seq s := fun _ _ => rfl
theorem exec_cpy : ∀ bank seq, exec (.cpy bank seq) s = execCpy bank seq s := fun _ _ => rfl
theorem exec_cpyGrain : ∀ bank seq, exec (.cpyGrain bank seq) s = execCpyGrain bank seq s := fun _ _ => rfl
theorem exec_cpys : ∀ bank seq, exec (.cpys bank seq) s = execCpys bank seq s := fun _ _ => rfl
theorem exec_cpyk : ∀ bank seq, exec (.cpyk bank seq) s = execCpyk bank seq s := fun _ _ => rfl
theorem exec_cfill : ∀ bank seq, exec (.cfill bank seq) s = execCfill bank seq s := fun _ _ => rfl
theorem exec_gath : ∀ bank seq, exec (.gath bank seq) s = execGath bank seq s := fun _ _ => rfl
theorem exec_scat : ∀ bank seq, exec (.scat bank seq) s = execScat bank seq s := fun _ _ => rfl
theorem exec_srd : ∀ bank seq, exec (.srd bank seq) s = execSrd bank seq s := fun _ _ => rfl
theorem exec_swr : ∀ bank seq, exec (.swr bank seq) s = execSwr bank seq s := fun _ _ => rfl
theorem exec_nrd : ∀ bank seq, exec (.nrd bank seq) s = execNrd bank seq s := fun _ _ => rfl
theorem exec_nwr : ∀ bank seq, exec (.nwr bank seq) s = execNwr bank seq s := fun _ _ => rfl
theorem exec_cdec : ∀ bank seq, exec (.cdec bank seq) s = execCdec bank seq s := fun _ _ => rfl
theorem exec_ccnt : ∀ bank seq, exec (.ccnt bank seq) s = execCcnt bank seq s := fun _ _ => rfl
theorem exec_geval : ∀ bank seq, exec (.geval bank seq) s = execGeval bank seq s := fun _ _ => rfl
theorem exec_gfetch : ∀ bank seq, exec (.gfetch bank seq) s = execGfetch bank seq s := fun _ _ => rfl
theorem exec_gpref : ∀ bank seq, exec (.gpref bank seq) s = execGpref bank seq s := fun _ _ => rfl
theorem exec_gexp : ∀ bank seq, exec (.gexp bank seq) s = execGexp bank seq s := fun _ _ => rfl
theorem exec_gmv : ∀ bank seq, exec (.gmv bank seq) s = execGmv bank seq s := fun _ _ => rfl
theorem exec_gvm : ∀ bank seq, exec (.gvm bank seq) s = execGvm bank seq s := fun _ _ => rfl
theorem exec_grot : ∀ bank seq, exec (.grot bank seq) s = execGrot bank seq s := fun _ _ => rfl
theorem exec_gcon : ∀ bank seq, exec (.gcon bank seq) s = execGcon bank seq s := fun _ _ => rfl
theorem exec_qnop : ∀ bank seq, exec (.qnop bank seq) s = execQnop bank seq s := fun _ _ => rfl
theorem exec_qstamp : ∀ bank seq, exec (.qstamp bank seq) s = execQstamp bank seq s := fun _ _ => rfl
theorem exec_qarr : ∀ bank seq, exec (.qarr bank seq) s = execQarr bank seq s := fun _ _ => rfl
theorem exec_qwait : ∀ bank seq, exec (.qwait bank seq) s = execQwait bank seq s := fun _ _ => rfl
theorem exec_qsig : ∀ bank seq, exec (.qsig bank seq) s = execQsig bank seq s := fun _ _ => rfl
theorem exec_illegalInstruction : ∀ bits, exec (.illegalInstruction bits) s = execIllegalInstruction bits s := fun _ => rfl
theorem exec_instructionFetchFault : ∀ cause, exec (.instructionFetchFault cause) s = execInstructionFetchFault cause s := fun _ => rfl
theorem exec_engineChainEvent : ∀ q bank seq ev, exec (.engineChainEvent q bank seq ev) s = execEngineChainEvent q bank seq ev s := fun _ _ _ _ => rfl
theorem exec_timedSlotStart : ∀ bank ctx, exec (.timedSlotStart bank ctx) s = execTimedSlotStart bank ctx s := fun _ _ => rfl
theorem exec_deviceReset : ∀ img half dead, exec (.deviceReset img half dead) s = execDeviceReset img half dead s := fun _ _ _ => rfl
theorem exec_hostLinksTrained : ∀ mmode walker, exec (.hostLinksTrained mmode walker) s = execHostLinksTrained mmode walker s := fun _ _ => rfl
theorem exec_dramTrainingDone : ∀ die ok, exec (.dramTrainingDone die ok) s = execDramTrainingDone die ok s := fun _ _ => rfl
theorem exec_thermalSample : ∀ die hot layers, exec (.thermalSample die hot layers) s = execThermalSample die hot layers s := fun _ _ _ => rfl
theorem exec_channelRetirement : ∀ twig, exec (.channelRetirement twig) s = execChannelRetirement twig s := fun _ => rfl
theorem exec_eccFatalError : ∀ place, exec (.eccFatalError place) s = execEccFatalError place s := fun _ => rfl
theorem exec_rtailDoorbell : ∀ port ring tail, exec (.rtailDoorbell port ring tail) s = execRtailDoorbell port ring tail s := fun _ _ _ => rfl
theorem exec_rerrClear : ∀ port ring val, exec (.rerrClear port ring val) s = execRerrClear port ring val s := fun _ _ _ => rfl
theorem exec_hostRegisterWrite : ∀ port off val, exec (.hostRegisterWrite port off val) s = execHostRegisterWrite port off val s := fun _ _ _ => rfl
theorem exec_windowWrite : ∀ port off data, exec (.windowWrite port off data) s = execWindowWrite port off data s := fun _ _ _ => rfl
theorem exec_windowRead : ∀ port off len, exec (.windowRead port off len) s = execWindowRead port off len s := fun _ _ _ => rfl
theorem exec_mailboxPartitionCreate : ∀ part groves scratch, exec (.mailboxPartitionCreate part groves scratch) s = execMailboxPartitionCreate part groves scratch s := fun _ _ _ => rfl
theorem exec_mailboxRingBind : ∀ port ring asid part root, exec (.mailboxRingBind port ring asid part root) s = execMailboxRingBind port ring asid part root s := fun _ _ _ _ _ => rfl
theorem exec_mailboxWindowBase : ∀ port base, exec (.mailboxWindowBase port base) s = execMailboxWindowBase port base s := fun _ _ => rfl
theorem exec_mailboxImageLoad : ∀ asid handle img, exec (.mailboxImageLoad asid handle img) s = execMailboxImageLoad asid handle img s := fun _ _ _ => rfl
theorem exec_mailboxFirmwareUpdate : ∀ kind img, exec (.mailboxFirmwareUpdate kind img) s = execMailboxFirmwareUpdate kind img s := fun _ _ => rfl
theorem exec_rollbackCounterRaise : ∀ kind val, exec (.rollbackCounterRaise kind val) s = execRollbackCounterRaise kind val s := fun _ _ => rfl
theorem exec_attestationRequest : ∀ port nonce, exec (.attestationRequest port nonce) s = execAttestationRequest port nonce s := fun _ _ => rfl
theorem exec_extentTableFill : ∀ asid exts, exec (.extentTableFill asid exts) s = execExtentTableFill asid exts s := fun _ _ => rfl
theorem exec_peerTableOpen : ∀ conn o, exec (.peerTableOpen conn o) s = execPeerTableOpen conn o s := fun _ _ => rfl
theorem exec_connectionClose : ∀ conn, exec (.connectionClose conn) s = execConnectionClose conn s := fun _ => rfl
theorem exec_killProcess : ∀ asid, exec (.killProcess asid) s = execKillProcess asid s := fun _ => rfl
theorem exec_checkpointRequest : ∀ asid, exec (.checkpointRequest asid) s = execCheckpointRequest asid s := fun _ => rfl
theorem exec_checkpointRestore : ∀ pa data, exec (.checkpointRestore pa data) s = execCheckpointRestore pa data s := fun _ _ => rfl
theorem exec_checkpointTimeout : ∀ launch, exec (.checkpointTimeout launch) s = execCheckpointTimeout launch s := fun _ => rfl
theorem exec_resumeLaunch : ∀ launch, exec (.resumeLaunch launch) s = execResumeLaunch launch s := fun _ => rfl
theorem exec_rclkTargetWrite : ∀ grove mhz, exec (.rclkTargetWrite grove mhz) s = execRclkTargetWrite grove mhz s := fun _ _ => rfl
theorem exec_rclkJoin : ∀ grove grp, exec (.rclkJoin grove grp) s = execRclkJoin grove grp s := fun _ _ => rfl
theorem exec_rclkLeave : ∀ grove, exec (.rclkLeave grove) s = execRclkLeave grove s := fun _ => rfl
theorem exec_peerWrite : ∀ conn pkt, exec (.peerWrite conn pkt) s = execPeerWrite conn pkt s := fun _ _ => rfl
theorem exec_peerReadreq : ∀ conn pkt, exec (.peerReadreq conn pkt) s = execPeerReadreq conn pkt s := fun _ _ => rfl
theorem exec_peerReadresp : ∀ conn pkt, exec (.peerReadresp conn pkt) s = execPeerReadresp conn pkt s := fun _ _ => rfl
theorem exec_peerAck : ∀ conn pkt, exec (.peerAck conn pkt) s = execPeerAck conn pkt s := fun _ _ => rfl
theorem exec_peerNak : ∀ conn pkt, exec (.peerNak conn pkt) s = execPeerNak conn pkt s := fun _ _ => rfl
theorem exec_peerClose : ∀ conn pkt, exec (.peerClose conn pkt) s = execPeerClose conn pkt s := fun _ _ => rfl
theorem exec_peerRetryTimeout : ∀ conn, exec (.peerRetryTimeout conn) s = execPeerRetryTimeout conn s := fun _ => rfl
theorem exec_descriptorSlotWrite : ∀ port ring slot desc, exec (.descriptorSlotWrite port ring slot desc) s = execDescriptorSlotWrite port ring slot desc s := fun _ _ _ _ => rfl
theorem exec_coreClockTargetWrite : ∀ die mhz, exec (.coreClockTargetWrite die mhz) s = execCoreClockTargetWrite die mhz s := fun _ _ => rfl
theorem exec_powerLoss : exec (.powerLoss) s = execPowerLoss s := rfl

end Sys2Proof.Machine
end

