-- ==== Sys2Proof/Laws/State.lean ====
section
/-! SUPPORT. What each update of a part of the state leaves: one lemma for each field. -/

namespace Sys2Proof.Machine

variable (s : State)

/-! `modCore` changes `core` only. -/
@[simp] theorem modCore_core (f : Core → Core) : (modCore f s).core = f s.core := rfl
@[simp] theorem modCore_cores (f : Core → Core) : (modCore f s).cores = s.cores := rfl
@[simp] theorem modCore_mem (f : Core → Core) : (modCore f s).mem = s.mem := rfl
@[simp] theorem modCore_poison (f : Core → Core) : (modCore f s).poison = s.poison := rfl
@[simp] theorem modCore_resv (f : Core → Core) : (modCore f s).resv = s.resv := rfl
@[simp] theorem modCore_mons (f : Core → Core) : (modCore f s).mons = s.mons := rfl
@[simp] theorem modCore_pkg (f : Core → Core) : (modCore f s).pkg = s.pkg := rfl
@[simp] theorem modCore_fab (f : Core → Core) : (modCore f s).fab = s.fab := rfl
@[simp] theorem modCore_ms (f : Core → Core) : (modCore f s).ms = s.ms := rfl
@[simp] theorem modCore_io (f : Core → Core) : (modCore f s).io = s.io := rfl
@[simp] theorem modCore_root (f : Core → Core) : (modCore f s).root = s.root := rfl
@[simp] theorem modCore_agenda (f : Core → Core) : (modCore f s).agenda = s.agenda := rfl
@[simp] theorem modCore_free (f : Core → Core) : (modCore f s).free = s.free := rfl
@[simp] theorem modCore_pick (f : Core → Core) : (modCore f s).pick = s.pick := rfl

/-! `modFab` changes `fab` only. -/
@[simp] theorem modFab_core (f : Fab → Fab) : (modFab f s).core = s.core := rfl
@[simp] theorem modFab_cores (f : Fab → Fab) : (modFab f s).cores = s.cores := rfl
@[simp] theorem modFab_mem (f : Fab → Fab) : (modFab f s).mem = s.mem := rfl
@[simp] theorem modFab_poison (f : Fab → Fab) : (modFab f s).poison = s.poison := rfl
@[simp] theorem modFab_resv (f : Fab → Fab) : (modFab f s).resv = s.resv := rfl
@[simp] theorem modFab_mons (f : Fab → Fab) : (modFab f s).mons = s.mons := rfl
@[simp] theorem modFab_pkg (f : Fab → Fab) : (modFab f s).pkg = s.pkg := rfl
@[simp] theorem modFab_fab (f : Fab → Fab) : (modFab f s).fab = f s.fab := rfl
@[simp] theorem modFab_ms (f : Fab → Fab) : (modFab f s).ms = s.ms := rfl
@[simp] theorem modFab_io (f : Fab → Fab) : (modFab f s).io = s.io := rfl
@[simp] theorem modFab_root (f : Fab → Fab) : (modFab f s).root = s.root := rfl
@[simp] theorem modFab_agenda (f : Fab → Fab) : (modFab f s).agenda = s.agenda := rfl
@[simp] theorem modFab_free (f : Fab → Fab) : (modFab f s).free = s.free := rfl
@[simp] theorem modFab_pick (f : Fab → Fab) : (modFab f s).pick = s.pick := rfl

/-! `modMs` changes `ms` only. -/
@[simp] theorem modMs_core (f : MemSys → MemSys) : (modMs f s).core = s.core := rfl
@[simp] theorem modMs_cores (f : MemSys → MemSys) : (modMs f s).cores = s.cores := rfl
@[simp] theorem modMs_mem (f : MemSys → MemSys) : (modMs f s).mem = s.mem := rfl
@[simp] theorem modMs_poison (f : MemSys → MemSys) : (modMs f s).poison = s.poison := rfl
@[simp] theorem modMs_resv (f : MemSys → MemSys) : (modMs f s).resv = s.resv := rfl
@[simp] theorem modMs_mons (f : MemSys → MemSys) : (modMs f s).mons = s.mons := rfl
@[simp] theorem modMs_pkg (f : MemSys → MemSys) : (modMs f s).pkg = s.pkg := rfl
@[simp] theorem modMs_fab (f : MemSys → MemSys) : (modMs f s).fab = s.fab := rfl
@[simp] theorem modMs_ms (f : MemSys → MemSys) : (modMs f s).ms = f s.ms := rfl
@[simp] theorem modMs_io (f : MemSys → MemSys) : (modMs f s).io = s.io := rfl
@[simp] theorem modMs_root (f : MemSys → MemSys) : (modMs f s).root = s.root := rfl
@[simp] theorem modMs_agenda (f : MemSys → MemSys) : (modMs f s).agenda = s.agenda := rfl
@[simp] theorem modMs_free (f : MemSys → MemSys) : (modMs f s).free = s.free := rfl
@[simp] theorem modMs_pick (f : MemSys → MemSys) : (modMs f s).pick = s.pick := rfl

/-! `modPkg` changes `pkg` only. -/
@[simp] theorem modPkg_core (f : Pkg → Pkg) : (modPkg f s).core = s.core := rfl
@[simp] theorem modPkg_cores (f : Pkg → Pkg) : (modPkg f s).cores = s.cores := rfl
@[simp] theorem modPkg_mem (f : Pkg → Pkg) : (modPkg f s).mem = s.mem := rfl
@[simp] theorem modPkg_poison (f : Pkg → Pkg) : (modPkg f s).poison = s.poison := rfl
@[simp] theorem modPkg_resv (f : Pkg → Pkg) : (modPkg f s).resv = s.resv := rfl
@[simp] theorem modPkg_mons (f : Pkg → Pkg) : (modPkg f s).mons = s.mons := rfl
@[simp] theorem modPkg_pkg (f : Pkg → Pkg) : (modPkg f s).pkg = f s.pkg := rfl
@[simp] theorem modPkg_fab (f : Pkg → Pkg) : (modPkg f s).fab = s.fab := rfl
@[simp] theorem modPkg_ms (f : Pkg → Pkg) : (modPkg f s).ms = s.ms := rfl
@[simp] theorem modPkg_io (f : Pkg → Pkg) : (modPkg f s).io = s.io := rfl
@[simp] theorem modPkg_root (f : Pkg → Pkg) : (modPkg f s).root = s.root := rfl
@[simp] theorem modPkg_agenda (f : Pkg → Pkg) : (modPkg f s).agenda = s.agenda := rfl
@[simp] theorem modPkg_free (f : Pkg → Pkg) : (modPkg f s).free = s.free := rfl
@[simp] theorem modPkg_pick (f : Pkg → Pkg) : (modPkg f s).pick = s.pick := rfl

/-! `modIo` changes `io` only. -/
@[simp] theorem modIo_core (f : Io → Io) : (modIo f s).core = s.core := rfl
@[simp] theorem modIo_cores (f : Io → Io) : (modIo f s).cores = s.cores := rfl
@[simp] theorem modIo_mem (f : Io → Io) : (modIo f s).mem = s.mem := rfl
@[simp] theorem modIo_poison (f : Io → Io) : (modIo f s).poison = s.poison := rfl
@[simp] theorem modIo_resv (f : Io → Io) : (modIo f s).resv = s.resv := rfl
@[simp] theorem modIo_mons (f : Io → Io) : (modIo f s).mons = s.mons := rfl
@[simp] theorem modIo_pkg (f : Io → Io) : (modIo f s).pkg = s.pkg := rfl
@[simp] theorem modIo_fab (f : Io → Io) : (modIo f s).fab = s.fab := rfl
@[simp] theorem modIo_ms (f : Io → Io) : (modIo f s).ms = s.ms := rfl
@[simp] theorem modIo_io (f : Io → Io) : (modIo f s).io = f s.io := rfl
@[simp] theorem modIo_root (f : Io → Io) : (modIo f s).root = s.root := rfl
@[simp] theorem modIo_agenda (f : Io → Io) : (modIo f s).agenda = s.agenda := rfl
@[simp] theorem modIo_free (f : Io → Io) : (modIo f s).free = s.free := rfl
@[simp] theorem modIo_pick (f : Io → Io) : (modIo f s).pick = s.pick := rfl

/-! `modRoot` changes `root` only. -/
@[simp] theorem modRoot_core (f : Root → Root) : (modRoot f s).core = s.core := rfl
@[simp] theorem modRoot_cores (f : Root → Root) : (modRoot f s).cores = s.cores := rfl
@[simp] theorem modRoot_mem (f : Root → Root) : (modRoot f s).mem = s.mem := rfl
@[simp] theorem modRoot_poison (f : Root → Root) : (modRoot f s).poison = s.poison := rfl
@[simp] theorem modRoot_resv (f : Root → Root) : (modRoot f s).resv = s.resv := rfl
@[simp] theorem modRoot_mons (f : Root → Root) : (modRoot f s).mons = s.mons := rfl
@[simp] theorem modRoot_pkg (f : Root → Root) : (modRoot f s).pkg = s.pkg := rfl
@[simp] theorem modRoot_fab (f : Root → Root) : (modRoot f s).fab = s.fab := rfl
@[simp] theorem modRoot_ms (f : Root → Root) : (modRoot f s).ms = s.ms := rfl
@[simp] theorem modRoot_io (f : Root → Root) : (modRoot f s).io = s.io := rfl
@[simp] theorem modRoot_root (f : Root → Root) : (modRoot f s).root = f s.root := rfl
@[simp] theorem modRoot_agenda (f : Root → Root) : (modRoot f s).agenda = s.agenda := rfl
@[simp] theorem modRoot_free (f : Root → Root) : (modRoot f s).free = s.free := rfl
@[simp] theorem modRoot_pick (f : Root → Root) : (modRoot f s).pick = s.pick := rfl

/-! `modCx` changes one part of the core only. -/
theorem modCx_core (f : Ctx → Ctx) : (modCx f s).core = { s.core with cx := f s.core.cx } := rfl
@[simp] theorem modCx_cores (f : Ctx → Ctx) : (modCx f s).cores = s.cores := rfl
@[simp] theorem modCx_mem (f : Ctx → Ctx) : (modCx f s).mem = s.mem := rfl
@[simp] theorem modCx_poison (f : Ctx → Ctx) : (modCx f s).poison = s.poison := rfl
@[simp] theorem modCx_resv (f : Ctx → Ctx) : (modCx f s).resv = s.resv := rfl
@[simp] theorem modCx_mons (f : Ctx → Ctx) : (modCx f s).mons = s.mons := rfl
@[simp] theorem modCx_pkg (f : Ctx → Ctx) : (modCx f s).pkg = s.pkg := rfl
@[simp] theorem modCx_fab (f : Ctx → Ctx) : (modCx f s).fab = s.fab := rfl
@[simp] theorem modCx_ms (f : Ctx → Ctx) : (modCx f s).ms = s.ms := rfl
@[simp] theorem modCx_io (f : Ctx → Ctx) : (modCx f s).io = s.io := rfl
@[simp] theorem modCx_root (f : Ctx → Ctx) : (modCx f s).root = s.root := rfl
@[simp] theorem modCx_agenda (f : Ctx → Ctx) : (modCx f s).agenda = s.agenda := rfl
@[simp] theorem modCx_free (f : Ctx → Ctx) : (modCx f s).free = s.free := rfl
@[simp] theorem modCx_pick (f : Ctx → Ctx) : (modCx f s).pick = s.pick := rfl
@[simp] theorem modCx_core_cx (f : Ctx → Ctx) : (modCx f s).core.cx = f s.core.cx := rfl
@[simp] theorem modCx_core_bank (f : Ctx → Ctx) : (modCx f s).core.bank = s.core.bank := rfl
@[simp] theorem modCx_core_shadow (f : Ctx → Ctx) : (modCx f s).core.shadow = s.core.shadow := rfl
@[simp] theorem modCx_core_num (f : Ctx → Ctx) : (modCx f s).core.num = s.core.num := rfl
@[simp] theorem modCx_core_priv (f : Ctx → Ctx) : (modCx f s).core.priv = s.core.priv := rfl
@[simp] theorem modCx_core_asid (f : Ctx → Ctx) : (modCx f s).core.asid = s.core.asid := rfl
@[simp] theorem modCx_core_mq (f : Ctx → Ctx) : (modCx f s).core.mq = s.core.mq := rfl
@[simp] theorem modCx_core_cq (f : Ctx → Ctx) : (modCx f s).core.cq = s.core.cq := rfl
@[simp] theorem modCx_core_gq (f : Ctx → Ctx) : (modCx f s).core.gq = s.core.gq := rfl
@[simp] theorem modCx_core_locks (f : Ctx → Ctx) : (modCx f s).core.locks = s.core.locks := rfl
@[simp] theorem modCx_core_inbox (f : Ctx → Ctx) : (modCx f s).core.inbox = s.core.inbox := rfl
@[simp] theorem modCx_core_l1 (f : Ctx → Ctx) : (modCx f s).core.l1 = s.core.l1 := rfl
@[simp] theorem modCx_core_swap (f : Ctx → Ctx) : (modCx f s).core.swap = s.core.swap := rfl
@[simp] theorem modCx_core_cycles (f : Ctx → Ctx) : (modCx f s).core.cycles = s.core.cycles := rfl
@[simp] theorem modCx_core_mcsr (f : Ctx → Ctx) : (modCx f s).core.mcsr = s.core.mcsr := rfl
@[simp] theorem modCx_core_halts (f : Ctx → Ctx) : (modCx f s).core.halts = s.core.halts := rfl

/-! `modBank` changes one part of the core only. -/
theorem modBank_core (f : Bank → Bank) : (modBank f s).core = { s.core with bank := f s.core.bank } := rfl
@[simp] theorem modBank_cores (f : Bank → Bank) : (modBank f s).cores = s.cores := rfl
@[simp] theorem modBank_mem (f : Bank → Bank) : (modBank f s).mem = s.mem := rfl
@[simp] theorem modBank_poison (f : Bank → Bank) : (modBank f s).poison = s.poison := rfl
@[simp] theorem modBank_resv (f : Bank → Bank) : (modBank f s).resv = s.resv := rfl
@[simp] theorem modBank_mons (f : Bank → Bank) : (modBank f s).mons = s.mons := rfl
@[simp] theorem modBank_pkg (f : Bank → Bank) : (modBank f s).pkg = s.pkg := rfl
@[simp] theorem modBank_fab (f : Bank → Bank) : (modBank f s).fab = s.fab := rfl
@[simp] theorem modBank_ms (f : Bank → Bank) : (modBank f s).ms = s.ms := rfl
@[simp] theorem modBank_io (f : Bank → Bank) : (modBank f s).io = s.io := rfl
@[simp] theorem modBank_root (f : Bank → Bank) : (modBank f s).root = s.root := rfl
@[simp] theorem modBank_agenda (f : Bank → Bank) : (modBank f s).agenda = s.agenda := rfl
@[simp] theorem modBank_free (f : Bank → Bank) : (modBank f s).free = s.free := rfl
@[simp] theorem modBank_pick (f : Bank → Bank) : (modBank f s).pick = s.pick := rfl
@[simp] theorem modBank_core_cx (f : Bank → Bank) : (modBank f s).core.cx = s.core.cx := rfl
@[simp] theorem modBank_core_bank (f : Bank → Bank) : (modBank f s).core.bank = f s.core.bank := rfl
@[simp] theorem modBank_core_shadow (f : Bank → Bank) : (modBank f s).core.shadow = s.core.shadow := rfl
@[simp] theorem modBank_core_num (f : Bank → Bank) : (modBank f s).core.num = s.core.num := rfl
@[simp] theorem modBank_core_priv (f : Bank → Bank) : (modBank f s).core.priv = s.core.priv := rfl
@[simp] theorem modBank_core_asid (f : Bank → Bank) : (modBank f s).core.asid = s.core.asid := rfl
@[simp] theorem modBank_core_mq (f : Bank → Bank) : (modBank f s).core.mq = s.core.mq := rfl
@[simp] theorem modBank_core_cq (f : Bank → Bank) : (modBank f s).core.cq = s.core.cq := rfl
@[simp] theorem modBank_core_gq (f : Bank → Bank) : (modBank f s).core.gq = s.core.gq := rfl
@[simp] theorem modBank_core_locks (f : Bank → Bank) : (modBank f s).core.locks = s.core.locks := rfl
@[simp] theorem modBank_core_inbox (f : Bank → Bank) : (modBank f s).core.inbox = s.core.inbox := rfl
@[simp] theorem modBank_core_l1 (f : Bank → Bank) : (modBank f s).core.l1 = s.core.l1 := rfl
@[simp] theorem modBank_core_swap (f : Bank → Bank) : (modBank f s).core.swap = s.core.swap := rfl
@[simp] theorem modBank_core_cycles (f : Bank → Bank) : (modBank f s).core.cycles = s.core.cycles := rfl
@[simp] theorem modBank_core_mcsr (f : Bank → Bank) : (modBank f s).core.mcsr = s.core.mcsr := rfl
@[simp] theorem modBank_core_halts (f : Bank → Bank) : (modBank f s).core.halts = s.core.halts := rfl

/-! Retiring an instruction changes the pc, instret, the counts of the records and the answer of the host. -/
@[simp] theorem adv_cores : (adv s).cores = s.cores := rfl
@[simp] theorem adv_mem : (adv s).mem = s.mem := rfl
@[simp] theorem adv_poison : (adv s).poison = s.poison := rfl
@[simp] theorem adv_resv : (adv s).resv = s.resv := rfl
@[simp] theorem adv_mons : (adv s).mons = s.mons := rfl
@[simp] theorem adv_pkg : (adv s).pkg = s.pkg := rfl
@[simp] theorem adv_fab : (adv s).fab = s.fab := rfl
@[simp] theorem adv_ms : (adv s).ms = s.ms := rfl
@[simp] theorem adv_io : (adv s).io = s.io := rfl
@[simp] theorem adv_root : (adv s).root = s.root := rfl
@[simp] theorem adv_agenda : (adv s).agenda = s.agenda := rfl
@[simp] theorem adv_free : (adv s).free = s.free := rfl
@[simp] theorem adv_pick : (adv s).pick = s.pick := rfl
@[simp] theorem adv_core_bank : (adv s).core.bank = s.core.bank := rfl
@[simp] theorem adv_core_shadow : (adv s).core.shadow = s.core.shadow := rfl
@[simp] theorem adv_core_num : (adv s).core.num = s.core.num := rfl
@[simp] theorem adv_core_priv : (adv s).core.priv = s.core.priv := rfl
@[simp] theorem adv_core_asid : (adv s).core.asid = s.core.asid := rfl
@[simp] theorem adv_core_mq : (adv s).core.mq = s.core.mq := rfl
@[simp] theorem adv_core_cq : (adv s).core.cq = s.core.cq := rfl
@[simp] theorem adv_core_gq : (adv s).core.gq = s.core.gq := rfl
@[simp] theorem adv_core_locks : (adv s).core.locks = s.core.locks := rfl
@[simp] theorem adv_core_l1 : (adv s).core.l1 = s.core.l1 := rfl
@[simp] theorem adv_core_mcsr : (adv s).core.mcsr = s.core.mcsr := rfl
@[simp] theorem adv_cx_id : (adv s).core.cx.id = s.core.cx.id := rfl
@[simp] theorem adv_cx_st : (adv s).core.cx.st = s.core.cx.st := rfl
@[simp] theorem adv_cx_x : (adv s).core.cx.x = s.core.cx.x := rfl
@[simp] theorem adv_cx_f : (adv s).core.cx.f = s.core.cx.f := rfl
@[simp] theorem adv_cx_v : (adv s).core.cx.v = s.core.cx.v := rfl
@[simp] theorem adv_cx_p : (adv s).core.cx.p = s.core.cx.p := rfl
@[simp] theorem adv_cx_pc : (adv s).core.cx.pc = s.core.cx.pc + 4 := rfl
@[simp] theorem adv_cx_fflags : (adv s).core.cx.fflags = s.core.cx.fflags := rfl
@[simp] theorem adv_cx_frm : (adv s).core.cx.frm = s.core.cx.frm := rfl
@[simp] theorem adv_cx_dtvec : (adv s).core.cx.dtvec = s.core.cx.dtvec := rfl
@[simp] theorem adv_cx_dtpc : (adv s).core.cx.dtpc = s.core.cx.dtpc := rfl
@[simp] theorem adv_cx_dtcause : (adv s).core.cx.dtcause = s.core.cx.dtcause := rfl
@[simp] theorem adv_cx_dtval : (adv s).core.cx.dtval = s.core.cx.dtval := rfl
@[simp] theorem adv_cx_dtstat : (adv s).core.cx.dtstat = s.core.cx.dtstat := rfl
@[simp] theorem adv_cx_hm : (adv s).core.cx.hm = s.core.cx.hm := rfl
@[simp] theorem adv_cx_pe : (adv s).core.cx.pe = s.core.cx.pe := rfl
@[simp] theorem adv_cx_recs : (adv s).core.cx.recs = s.core.cx.recs.map Rec.tick := rfl
@[simp] theorem adv_cx_lost : (adv s).core.cx.lost = s.core.cx.lost := rfl
@[simp] theorem adv_cx_must23 : (adv s).core.cx.must23 = s.core.cx.must23 := rfl
@[simp] theorem adv_cx_marks : (adv s).core.cx.marks = s.core.cx.marks := rfl
@[simp] theorem adv_cx_ans : (adv s).core.cx.ans = none := rfl
@[simp] theorem adv_cx_got : (adv s).core.cx.got = [] := rfl
@[simp] theorem adv_cx_asks : (adv s).core.cx.asks = s.core.cx.asks := rfl
@[simp] theorem adv_cx_behind : (adv s).core.cx.behind = s.core.cx.behind := rfl
@[simp] theorem adv_cx_since : (adv s).core.cx.since = s.core.cx.since := rfl
@[simp] theorem adv_cx_instret : (adv s).core.cx.instret = s.core.cx.instret + 1 := rfl

/-! `visit` notes a journey, and changes nothing else (log 88). -/
@[simp] theorem visit_core (c : TClass) (a b : Nat) : (visit c a b s).core = s.core := rfl
@[simp] theorem visit_cores (c : TClass) (a b : Nat) : (visit c a b s).cores = s.cores := rfl
@[simp] theorem visit_mem (c : TClass) (a b : Nat) : (visit c a b s).mem = s.mem := rfl
@[simp] theorem visit_poison (c : TClass) (a b : Nat) : (visit c a b s).poison = s.poison := rfl
@[simp] theorem visit_resv (c : TClass) (a b : Nat) : (visit c a b s).resv = s.resv := rfl
@[simp] theorem visit_mons (c : TClass) (a b : Nat) : (visit c a b s).mons = s.mons := rfl
@[simp] theorem visit_pkg (c : TClass) (a b : Nat) : (visit c a b s).pkg = s.pkg := rfl
@[simp] theorem visit_ms (c : TClass) (a b : Nat) : (visit c a b s).ms = s.ms := rfl
@[simp] theorem visit_io (c : TClass) (a b : Nat) : (visit c a b s).io = s.io := rfl
@[simp] theorem visit_root (c : TClass) (a b : Nat) : (visit c a b s).root = s.root := rfl
@[simp] theorem visit_agenda (c : TClass) (a b : Nat) : (visit c a b s).agenda = s.agenda := rfl
@[simp] theorem visit_free (c : TClass) (a b : Nat) : (visit c a b s).free = s.free := rfl
@[simp] theorem visit_pick (c : TClass) (a b : Nat) : (visit c a b s).pick = s.pick := rfl
@[simp] theorem visit_fab_rclk (c : TClass) (a b : Nat) : (visit c a b s).fab.rclk = s.fab.rclk := rfl
@[simp] theorem visit_fab_net (c : TClass) (a b : Nat) : (visit c a b s).fab.net = s.fab.net := rfl
@[simp] theorem visit_fab_nodes (c : TClass) (a b : Nat) : (visit c a b s).fab.nodes = s.fab.nodes := rfl
@[simp] theorem visit_fab_updates (c : TClass) (a b : Nat) : (visit c a b s).fab.updates = s.fab.updates := rfl
@[simp] theorem visit_fab_resend (c : TClass) (a b : Nat) : (visit c a b s).fab.resend = s.fab.resend := rfl
@[simp] theorem visit_fab_groups (c : TClass) (a b : Nat) : (visit c a b s).fab.groups = s.fab.groups := rfl
@[simp] theorem visit_fab_doms (c : TClass) (a b : Nat) : (visit c a b s).fab.doms = s.fab.doms := rfl
@[simp] theorem visit_fab_releases (c : TClass) (a b : Nat) : (visit c a b s).fab.releases = s.fab.releases := rfl
@[simp] theorem visit_fab_beats (c : TClass) (a b : Nat) : (visit c a b s).fab.beats = s.fab.beats := rfl
@[simp] theorem visit_trips (c : TClass) (a b : Nat) : (visit c a b s).fab.trips = s.fab.trips ++ [(c, a, b)] := rfl

end Sys2Proof.Machine
end

