-- ==== Sys2Proof/Laws/Registers.lean ====
section
/-! SUPPORT. The laws of the register accessors: what is read back, what is left alone, and that retiring leaves every register. -/

namespace Sys2Proof.Machine

/-- x0 reads 0 and keeps nothing; another x register reads what it was given (R7). -/
theorem readX_writeX_self (r : RegNo) (v : Word) (s : State) : readX (writeX r v s) r = if r = 0 then 0 else v := by
  unfold readX writeX
  split
  · rfl
  · simp [modCx]

theorem readX_writeX_other {r q : RegNo} (h : q ≠ r) (v : Word) (s : State) : readX (writeX r v s) q = readX s q := by
  have : r.toNat ≠ q.toNat := fun e => h (BitVec.eq_of_toNat_eq e.symm)
  unfold readX writeX
  by_cases hr : r = 0
  · simp [hr]
  · rw [if_neg hr]
    simp only [modCx, Vector.getElem_set_ne _ _ this]

/-- Writing an x register changes nothing but the x registers. -/
theorem writeX_frame (r : RegNo) (v : Word) (s : State) :
    writeX r v s = modCx (fun c => { c with x := (writeX r v s).core.cx.x }) s := by
  unfold writeX
  split <;> rfl

theorem readF_writeF_self (r : RegNo) (v : Word) (s : State) : readF (writeF r v s) r = v := by
  simp [readF, writeF, modCx]

theorem readF_writeF_other {r q : RegNo} (h : q ≠ r) (v : Word) (s : State) : readF (writeF r v s) q = readF s q := by
  have : r.toNat ≠ q.toNat := fun e => h (BitVec.eq_of_toNat_eq e.symm)
  simp [readF, writeF, modCx, Vector.getElem_set_ne, this]

theorem readV_writeV_other {r q : RegNo} (h : q ≠ r) (v : VReg) (pm : PReg) (s : State) :
    readV (writeV r v pm s) q = readV s q := by
  have : r.toNat ≠ q.toNat := fun e => h (BitVec.eq_of_toNat_eq e.symm)
  simp [readV, writeV, modCx, Vector.getElem_set_ne, this]

/-- A write of a whole vector register reads back. -/
theorem readV_writeV_all (r : RegNo) (v : VReg) (s : State) : readV (writeV r v (-1) s) r = v := by
  simp only [readV, writeV, modCx, Vector.getElem_set_self, if_true]

/-- p0 reads all ones and keeps nothing; another predicate reads what it was given (R119). -/
theorem readP_writeP_self (p : PredNo) (v : PReg) (s : State) : readP (writeP p v s) p = if p = 0 then -1 else v := by
  unfold readP writeP
  split
  · rfl
  · simp [modCx]

theorem readP_writeP_other {p q : PredNo} (h : q ≠ p) (v : PReg) (s : State) : readP (writeP p v s) q = readP s q := by
  have : p.toNat ≠ q.toNat := fun e => h (BitVec.eq_of_toNat_eq e.symm)
  unfold readP writeP
  by_cases hr : p = 0
  · simp [hr]
  · rw [if_neg hr]
    simp only [modCx, Vector.getElem_set_ne _ _ this]

/-- Writing a predicate changes nothing but the predicates. -/
theorem writeP_frame (p : PredNo) (v : PReg) (s : State) :
    writeP p v s = modCx (fun c => { c with p := (writeP p v s).core.cx.p }) s := by
  unfold writeP
  split <;> rfl

@[simp] theorem readX_adv (s : State) (r : RegNo) : readX (adv s) r = readX s r := rfl
@[simp] theorem readF_adv (s : State) (r : RegNo) : readF (adv s) r = readF s r := rfl
@[simp] theorem readV_adv (s : State) (r : RegNo) : readV (adv s) r = readV s r := rfl
@[simp] theorem readP_adv (s : State) (p : PredNo) : readP (adv s) p = readP s p := rfl
@[simp] theorem governing_adv (s : State) (p : PredNo) : governing (adv s) p = governing s p := rfl

end Sys2Proof.Machine
end

