-- ==== Sys2Proof/Laws/Elements.lean ====
section
/-! SUPPORT. The elements of a vector register: bit by bit what the masked writes of R7 and R344 leave. -/

namespace Sys2Proof.Machine

/-- Bit `b` of a number made of elements of `w` bits. -/
theorem natOfElems_testBit (w : Nat) (hw : 0 < w) : ∀ (es : List Nat) (b : Nat),
    (natOfElems w es).testBit b = (es.getD (b / w) 0).testBit (b % w)
  | [], b => by simp [natOfElems]
  | e :: es, b => by
    have h : natOfElems w (e :: es) = 2 ^ w * natOfElems w es + e % 2 ^ w := by simp [natOfElems]; omega
    rw [h, Nat.testBit_two_pow_mul_add _ (Nat.mod_lt _ (Nat.two_pow_pos w))]
    by_cases hb : b < w
    · simp [hb, Nat.div_eq_of_lt hb, Nat.mod_eq_of_lt hb, Nat.testBit_mod_two_pow]
    · have hb' : w ≤ b := Nat.le_of_not_lt hb
      rw [if_neg hb, natOfElems_testBit w hw es (b - w)]
      obtain ⟨c, rfl⟩ := Nat.exists_eq_add_of_le hb'
      simp [Nat.add_div_left _ hw]

/-- Bit `b` of a register made of elements of `w` bits. -/
theorem ofElems_getLsbD {n w : Nat} (hw : 0 < w) (es : List Nat) {b : Nat} (hb : b < n) :
    (ofElems n w es).getLsbD b = (es.getD (b / w) 0).testBit (b % w) := by
  rw [ofElems, BitVec.getLsbD_ofNat, natOfElems_testBit w hw, decide_eq_true hb, Bool.true_and]

/-- Bit `b` of the mask of a byte mask (R7). -/
theorem byteMask_getLsbD (m : PReg) {b : Nat} (hb : b < 1024) : (byteMask m).getLsbD b = m.getLsbD (b / 8) := by
  have h8 : b / 8 < 128 := by omega
  rw [byteMask, ofElems_getLsbD (by decide) _ hb]
  rw [List.getD_eq_getElem?_getD, List.getElem?_map, List.getElem?_range h8, Option.map_some, Option.getD_some]
  cases m.getLsbD (b / 8)
  · simp
  · rw [if_pos rfl, show (255 : Nat) = 2 ^ 8 - 1 by rfl, Nat.testBit_two_pow_sub_one]; simp; omega

/-- The bytes of the mask take the new value, the others keep the old one (WriteV, R7). -/
theorem mergeV_getLsbD (old v : VReg) (pm : PReg) {b : Nat} (hb : b < 1024) :
    (mergeV old v pm).getLsbD b = if pm.getLsbD (b / 8) then v.getLsbD b else old.getLsbD b := by
  rw [mergeV, BitVec.getLsbD_or, BitVec.getLsbD_and, BitVec.getLsbD_and, BitVec.getLsbD_not, byteMask_getLsbD pm hb, decide_eq_true hb]
  cases pm.getLsbD (b / 8) <;> simp
  
/-- An element is a field of the register (R119). -/
theorem elemAt_eq (w : Nat) {n : Nat} (v : BitVec n) (i : Nat) : elemAt w v i = (v.extractLsb' (w * i) w).toNat := by
  simp [elemAt, BitVec.extractLsb'_toNat]

/-- Bit `b` of a register after a masked write (R7). -/
theorem readV_writeV_self (r : RegNo) (v : VReg) (pm : PReg) (s : State) {b : Nat} (hb : b < 1024) :
    (readV (writeV r v pm s) r).getLsbD b = if pm.getLsbD (b / 8) then v.getLsbD b else (readV s r).getLsbD b := by
  have h8 : b / 8 < 128 := by omega
  simp only [readV, writeV, modCx, Vector.getElem_set_self]
  split
  · rename_i h; subst h
    rw [if_pos]
    exact BitVec.getLsbD_allOnes.trans (decide_eq_true h8)
  · exact mergeV_getLsbD _ _ _ hb

/-- A sum of shifted groups is the number made of them. -/
theorem sum_groups (w : Nat) (g : Nat → Nat) (hg : ∀ i, g i < 2 ^ w) : ∀ (n k : Nat),
    ((List.range' k n).map fun i => g i * 2 ^ (w * i)).sum = 2 ^ (w * k) * natOfElems w ((List.range' k n).map g)
  | 0, k => by simp [natOfElems]
  | n + 1, k => by
    rw [List.range'_succ, List.map_cons, List.map_cons, List.sum_cons, sum_groups w g hg n (k + 1), natOfElems, Nat.mod_eq_of_lt (hg k)]
    rw [Nat.mul_add w, Nat.mul_one, Nat.pow_add]
    ring

/-- Every bit of a group is its element's (R344). -/
theorem groupMask_getLsbD {w : Nat} (hw : w = 1 ∨ w = 2 ∨ w = 4 ∨ w = 8) (f : Nat → Bool) {b : Nat} (hb : b < 128) :
    (groupMask w f).getLsbD b = f (b / w) := by
  have hw0 : 0 < w := by omega
  have hd : b / w < 128 / w := by
    rcases hw with rfl | rfl | rfl | rfl <;> omega
  have hg : (fun i => if f i then (2 ^ w - 1) * 2 ^ (w * i) else 0)
      = fun i => (if f i then 2 ^ w - 1 else 0) * 2 ^ (w * i) := by
    funext i; cases f i <;> simp
  have hs := sum_groups w (fun i => if f i then 2 ^ w - 1 else 0)
    (fun i => by have := Nat.two_pow_pos w; split <;> omega) (128 / w) 0
  rw [groupMask, BitVec.getLsbD_ofNat, decide_eq_true hb, Bool.true_and, hg, List.range_eq_range', hs, Nat.mul_zero, Nat.pow_zero,
    Nat.one_mul, natOfElems_testBit w hw0, ← List.range_eq_range', List.getD_eq_getElem?_getD, List.getElem?_map,
    List.getElem?_range hd, Option.map_some, Option.getD_some]
  cases f (b / w)
  · simp
  · simp only [if_true, Nat.testBit_two_pow_sub_one, decide_eq_true (Nat.mod_lt b hw0)]

/-- A byte is written when the governing bit of its element is 1 (R343, R344). -/
theorem activeMask_getLsbD {w : Nat} (hw : w = 1 ∨ w = 2 ∨ w = 4 ∨ w = 8) (pm : PReg) {b : Nat} (hb : b < 128) :
    (activeMask w pm).getLsbD b = pm.getLsbD (w * (b / w)) := by
  have h2 : w * (b / w) < 128 := Nat.lt_of_le_of_lt (Nat.mul_div_le b w) hb
  unfold activeMask
  split
  · rename_i h; subst h
    exact (BitVec.getLsbD_allOnes.trans (decide_eq_true hb)).trans (BitVec.getLsbD_allOnes.trans (decide_eq_true h2)).symm
  · rw [groupMask_getLsbD hw _ hb]; rfl

/-- What an element write leaves: an active element takes the value, truncated, and another keeps its own (R344). -/
theorem lane_writeElems {w : Nat} (hw : w = 1 ∨ w = 2 ∨ w = 4 ∨ w = 8) (vd : RegNo) (pm : PReg) (f : Nat → Nat) (s : State) {j : Nat}
    (hj : j < 128 / w) :
    (readV (writeElems w vd pm f s) vd).extractLsb' (8 * w * j) (8 * w)
      = if pm.getLsbD (w * j) then BitVec.ofNat (8 * w) (f j) else (readV s vd).extractLsb' (8 * w * j) (8 * w) := by
  apply BitVec.eq_of_getLsbD_eq
  intro i hi
  have hw0 : 0 < w := by omega
  have h1 : 8 * w * j + i < 1024 := by
    have : 8 * w * j + 8 * w ≤ 1024 := by rcases hw with rfl | rfl | rfl | rfl <;> omega
    omega
  have h2 : (8 * w * j + i) / 8 < 128 := by omega
  have h3 : (8 * w * j + i) / 8 / w = j := by
    rw [Nat.div_div_eq_div_mul, Nat.mul_add_div (by omega), Nat.div_eq_of_lt hi]; omega
  have h4 : (8 * w * j + i) / (8 * w) = j := by
    rw [Nat.mul_add_div (by omega), Nat.div_eq_of_lt hi]; omega
  have h5 : (8 * w * j + i) % (8 * w) = i := by rw [Nat.mul_add_mod, Nat.mod_eq_of_lt hi]
  rw [BitVec.getLsbD_extractLsb', decide_eq_true hi, Bool.true_and, writeElems, readV_writeV_self _ _ _ _ h1,
    activeMask_getLsbD hw pm h2, h3, ofElems_getLsbD (by omega) _ h1, h4, h5, List.getD_eq_getElem?_getD, List.getElem?_map,
    List.getElem?_range hj, Option.map_some, Option.getD_some]
  cases pm.getLsbD (w * j)
  · simp [hi]
  · rw [if_pos rfl, if_pos rfl, BitVec.getLsbD_ofNat, decide_eq_true hi, Bool.true_and]

end Sys2Proof.Machine
end

