-- ==== Sys2Proof/Laws/Memory.lean ====
section
/-! SUPPORT. The laws of memory: a read after a write, and that every operation keeps the canonical form. -/

namespace Sys2Proof.Machine

theorem memGet_below {lo : Nat} : ∀ {m : List Host.Cell} {a : Nat}, Memory.wfFrom lo m = true → a < lo → memGet m a = memDefault a
  | [], _, _, _ => rfl
  | (k, b) :: m, a, h, ha => by
    simp [Memory.wfFrom] at h
    have : a < k := by omega
    simp [memGet, this, Nat.ne_of_gt this]

/-- A byte that has just been written reads as it was written. -/
theorem memGet_memSet_self : ∀ {m : List Host.Cell} {lo a : Nat} (v : Byte), Memory.wfFrom lo m = true → memGet (memSet m a v) a = v
  | [], _, a, v, _ => by
    by_cases h : v = memDefault a <;> simp [memSet, memGet, h]
  | (k, b) :: m, lo, a, v, h => by
    simp [Memory.wfFrom] at h
    unfold memSet
    by_cases hk : k = a
    · subst hk
      by_cases hv : v = memDefault k
      · simp [hv]; exact memGet_below h.2 (by omega)
      · simp [hv, memGet]
    · by_cases hl : a < k
      · by_cases hv : v = memDefault a <;> simp [hk, hl, hv, memGet]
      · simp [hk, hl, memGet]; exact memGet_memSet_self v h.2

/-- Every other byte reads as before. -/
theorem memGet_memSet_other : ∀ {m : List Host.Cell} {lo a c : Nat} (v : Byte), Memory.wfFrom lo m = true → c ≠ a →
    memGet (memSet m a v) c = memGet m c
  | [], _, a, c, v, _, hc => by
    by_cases h : v = memDefault a
    · simp [memSet, h]
    · by_cases hl : c < a <;> simp [memSet, memGet, h, Ne.symm hc]
  | (k, b) :: m, lo, a, c, v, h, hc => by
    simp [Memory.wfFrom] at h
    unfold memSet
    by_cases hk : k = a
    · subst hk
      by_cases hv : v = memDefault k
      · by_cases hl : c < k
        · simp [hv, memGet, hl, Ne.symm hc]; exact memGet_below h.2 (by omega)
        · simp [hv, memGet, hl, Ne.symm hc]
      · simp [hv, memGet, Ne.symm hc]
    · by_cases hl : a < k
      · by_cases hv : v = memDefault a
        · simp [hk, hl, hv]
        · by_cases hc2 : c < a
          · have h1 : c < k := by omega
            have h2 : k ≠ c := by omega
            simp [hk, hl, hv, memGet, hc2, h1, h2, Ne.symm hc]
          · simp [hk, hl, hv, memGet, hc2, Ne.symm hc]
      · simp only [hk, hl, if_false, memGet]
        rw [memGet_memSet_other v h.2 hc]

/-- Writing a byte keeps the canonical form. -/
theorem wfFrom_memSet : ∀ {m : List Host.Cell} {lo a : Nat} (v : Byte), Memory.wfFrom lo m = true → lo ≤ a →
    Memory.wfFrom lo (memSet m a v) = true
  | [], lo, a, v, _, ha => by
    by_cases h : v = memDefault a <;> simp [memSet, Memory.wfFrom, h, ha]
  | (k, b) :: m, lo, a, v, h, ha => by
    have h0 := h
    simp [Memory.wfFrom] at h
    unfold memSet
    by_cases hk : k = a
    · subst hk
      by_cases hv : v = memDefault k
      · simp [hv]; exact wfFrom_mono h.2 (by omega)
      · simp [hv, Memory.wfFrom, h.1.1, h.2]
    · by_cases hl : a < k
      · by_cases hv : v = memDefault a
        · simp [hk, hl, hv, h0]
        · simp [hk, hl, hv, Memory.wfFrom, ha, h.1.2, h.2]
      · simp [hk, hl, Memory.wfFrom, h.1]; exact wfFrom_memSet v h.2 (by omega)
where
  wfFrom_mono : ∀ {m : List Host.Cell} {lo hi : Nat}, Memory.wfFrom hi m = true → lo ≤ hi → Memory.wfFrom lo m = true
    | [], _, _, _, _ => rfl
    | (k, b) :: m, lo, hi, h, hl => by
      simp [Memory.wfFrom] at h ⊢
      exact ⟨⟨by omega, h.1.2⟩, h.2⟩

theorem wf_memSet {m : List Host.Cell} (a : Nat) (v : Byte) (h : Memory.wf m = true) : Memory.wf (memSet m a v) = true :=
  wfFrom_memSet v h (Nat.zero_le a)

theorem wf_memWrite : ∀ (bs : List Byte) {m : List Host.Cell} (a : Nat), Memory.wf m = true → Memory.wf (memWrite m a bs) = true
  | [], _, _, h => h
  | b :: bs, _, a, h => wf_memWrite bs (a + 1) (wf_memSet a b h)

/-- Bytes outside a run that is written read as before. -/
theorem memGet_memWrite_other : ∀ (bs : List Byte) {m : List Host.Cell} {a c : Nat}, Memory.wf m = true → (c < a ∨ a + bs.length ≤ c) →
    memGet (memWrite m a bs) c = memGet m c
  | [], _, _, _, _, _ => rfl
  | b :: bs, m, a, c, h, hc => by
    simp only [memWrite, List.length_cons] at hc ⊢
    rw [memGet_memWrite_other bs (wf_memSet a b h) (by omega)]
    exact memGet_memSet_other b h (by omega)

/-- Each byte of a run reads as it was written. -/
theorem memGet_memWrite_self : ∀ (bs : List Byte) {m : List Host.Cell} {a : Nat} (i : Nat) (hi : i < bs.length), Memory.wf m = true →
    memGet (memWrite m a bs) (a + i) = bs[i]
  | [], _, _, _, hi, _ => absurd hi (by simp)
  | b :: bs, m, a, 0, _, h => by
    simp only [memWrite, Nat.add_zero, List.getElem_cons_zero]
    rw [memGet_memWrite_other bs (wf_memSet a b h) (by omega)]
    exact memGet_memSet_self b h
  | b :: bs, m, a, i + 1, hi, h => by
    simp only [memWrite, List.getElem_cons_succ]
    have := memGet_memWrite_self bs (a := a + 1) i (by simpa using hi) (wf_memSet a b h)
    rw [← this]; congr 1; omega

theorem wf_foldl {β : Type} (f : List Host.Cell → β → List Host.Cell) (hf : ∀ m b, Memory.wf m = true → Memory.wf (f m b) = true) :
    ∀ (l : List β) {m : List Host.Cell}, Memory.wf m = true → Memory.wf (l.foldl f m) = true
  | [], _, h => h
  | b :: l, m, h => wf_foldl f hf l (hf m b h)

theorem wf_memMerge {m : List Host.Cell} (a : Nat) (bs : List Byte) (mask : BitVec 128) (h : Memory.wf m = true) :
    Memory.wf (memMerge m a bs mask) = true := by
  apply wf_foldl _ _ _ h
  intro m i h
  split
  · exact wf_memSet _ _ h
  · exact h

end Sys2Proof.Machine
end

