-- ==== Sys2Proof/Laws/Steps.lean ====
section
/-! SUPPORT. What committing a move, and a step, can do. -/

namespace Sys2Proof.Machine

/-- After a move the device is in the state that the move gives, its journeys done, or in the one before it (log 88). -/
theorem travel_cases (s t : State) : travel s t = { t with fab := { t.fab with trips := [] } } ∨ travel s t = s := by
  unfold travel
  split
  · next h => exact .inl (by rw [← List.isEmpty_iff.mp h])
  · split
    · exact .inl rfl
    · exact .inr rfl

/-- A move that ends in a next state is committed to one; a fault or a refusal stays what it is. -/
theorem commit_next {s t : State} {o : Out} (h : commit s o = .next t) : ∃ u, o = .next u ∧ t = travel s u := by
  cases o with
  | next u => exact ⟨u, rfl, (Host.Outcome.next.inj h).symm⟩
  | fault f => cases h
  | refused r => cases h

/-- A next state of a step is that of the turn, or that of the turn's instruction once committed. -/
theorem step_next {s t : State} (h : step s = .next t) :
    (turn s).2 = none ∧ t = (turn s).1 ∨ ∃ i u, (turn s).2 = some i ∧ exec i (turn s).1 = .next u ∧ t = travel (turn s).1 u := by
  unfold step at h
  split at h
  · match ht : turn s with
    | (v, some i) =>
      rw [ht] at h
      obtain ⟨u, hu, rfl⟩ := commit_next h
      exact .inr ⟨i, u, rfl, hu, rfl⟩
    | (v, none) =>
      rw [ht] at h
      exact .inl ⟨rfl, (Host.Outcome.next.inj h).symm⟩
  · cases h

/-- What holds of the state before a move and of the state that the move gives holds after it, where it does not speak of the journeys. -/
theorem travel_keeps {P : State → Prop} (hp : ∀ t, P t → P { t with fab := { t.fab with trips := [] } }) {s t : State} (hs : P s) (ht : P t) :
    P (travel s t) := by
  obtain h | h := travel_cases s t
  · rw [h]; exact hp t ht
  · rw [h]; exact hs

end Sys2Proof.Machine
end

