-- ==== Sys2Proof/Laws/Walker.lean ====
section
/-! SUPPORT. What a computation of the rule walker comes to, step by step. -/

namespace Sys2Proof.Machine

/-- A computation that goes on comes to what its second part comes to, or to the fault of its first. -/
theorem got_bind {α β : Type} (m : Walk α) (f : α → Walk β) : got (m >>= f) = (got m).bind fun a => got (f a) := by
  show ((ExceptT.bindCont f m.run.run.1).run.1) = _
  unfold got
  cases m.run.run.1 <;> rfl

/-- A value at once. -/
@[simp] theorem got_pure {α : Type} (a : α) : got (pure a : Walk α) = .ok a := rfl

/-- A computation that stops at once. -/
@[simp] theorem got_throw {α : Type} (e : Stuck) : got (throw e : Walk α) = .error e := rfl

/-- A fault of the walker. -/
@[simp] theorem got_walkFault {α : Type} (st : BitVec 8) (n : Nat) : got (walkFault st n : Walk α) = .error (.fault st (BitVec.ofNat 64 n)) := rfl

/-- A read comes to the bytes, or to the fault of its first part that fails. -/
theorem got_walkRead (s : State) (va : Word) (n : Nat) :
    got (walkRead s va n) = match (engRead s va n 0x67).fail with
      | some f => .error (.fault f.1 f.2)
      | none => .ok (engRead s va n 0x67).bytes := by
  unfold walkRead readWith
  generalize engRead s va n 0x67 = r
  obtain ⟨bs, f⟩ := r
  cases f <;> rfl

/-- A number read is the number of its bytes. -/
theorem got_walkNum (s : State) (va : Word) (n : Nat) : got (walkNum s va n) = (got (walkRead s va n)).map natOfBytes := by
  unfold walkNum
  rw [got_bind]
  cases got (walkRead s va n) <;> rfl

/-- A read with a status of its own comes to its bytes where no part fails. -/
theorem got_readWith {gen : BitVec 8} {s : State} {va : Word} {n : Nat} {bs : List Byte} (h : engRead s va n gen = ⟨bs, none⟩) :
    got (readWith gen s va n) = .ok bs := by
  unfold readWith; rw [h]; rfl

/-- A list of computations comes to the list of their results. -/
theorem got_mapM {α β : Type} {f : α → Walk β} {g : α → β} {l : List α} (h : ∀ a ∈ l, got (f a) = .ok (g a)) : got (l.mapM f) = .ok (l.map g) := by
  have loop : ∀ acc : List β, got (List.mapM.loop f l acc) = .ok (acc.reverse ++ l.map g) := by
    induction l with
    | nil => intro acc; simp [List.mapM.loop]
    | cons a l ih =>
      intro acc
      rw [List.mapM.loop, got_bind, h a (List.mem_cons_self ..)]
      simpa [Except.bind] using ih (fun b hb => h b (List.mem_cons_of_mem _ hb)) (g a :: acc)
  simpa [List.mapM] using loop []

/-- The elements read of a dense operand are the numbers of their bytes. -/
theorem got_readElems {s : State} {w : Nat} {l : List Word} {f : Word → List Byte} (h : ∀ a ∈ l, engRead s a w 0x70 = ⟨f a, none⟩) :
    got (readElems s w l) = .ok (l.map fun a => natOfBytes (f a)) :=
  got_mapM fun a ha => by rw [got_bind, got_readWith (h a ha)]; rfl

end Sys2Proof.Machine
end

