-- ==== Sys2Proof/Tests/Slice0.lean ====
section
/-! SUPPORT. Tests: ill-formed terms refused, words of the spec decoded, single instructions on small states, and for every
statement states and operands that meet its hypotheses. -/

namespace Sys2Proof.Tests
open Sys2Proof Sys2Proof.Machine

set_option Elab.async false

/-! ### Helpers -/

/-- What a function of the next state gives, where an instruction answers one. -/
def after {α : Type} (i : Instr) (s : State) (f : State → α) : Option α :=
  match exec i s with
  | .next t => some (f t)
  | _ => none

/-- A state with x registers set. -/
def px (l : List (RegNo × Word)) (s : State) : State := l.foldl (fun s p => writeX p.1 p.2 s) s

/-- A state with v registers set. -/
def pv (l : List (RegNo × VReg)) (s : State) : State := l.foldl (fun s p => writeV p.1 p.2 (-1) s) s

/-- A state with f registers set. -/
def pf (l : List (RegNo × Word)) (s : State) : State := l.foldl (fun s p => writeF p.1 p.2 s) s

/-- A state with bytes at memory keys. -/
def pm (l : List (Nat × List Byte)) (s : State) : State := { s with mem := l.foldl (fun m p => memWrite m p.1 p.2) s.mem }

/-- An element of a v register as a number. -/
def el (n i : Nat) (r : RegNo) (s : State) : Nat := (Say.lane n (readV s r) i).toNat

/-- An instruction of the row RV64_INSTRUCTION. -/
abbrev rv (i : Rv) : Instr := .rv64Instruction i

/-! ### Ill-formed terms are refused -/

/-- A term that each check of `Rv.wf` refuses. -/
theorem test_ill_formed_standard :
    ([Rv.fp .add .s 1 2 3 5, .fsqrt .d 1 2 6, .fma .fmadd .s 1 2 3 4 5, .fcvtToInt .w .s 1 2 6, .fcvtFromInt .lu .d 1 2 5, .fcvtSD 1 2 6, .fcvtDS 1 2 5,
      .csr ⟨.rw, 1, .reg 2⟩ 0x810, .csr ⟨.rs, 1, .reg 2⟩ 0x803]).all (fun i => !(Instr.rv64Instruction i).wf) = true := by decide

/-- CSR rows whose term writes nothing, or names another row's register; FENCE with the fields of FENCE.TSO; selectors, widths and codes
that R288, R290 and R294 make illegal. -/
theorem test_ill_formed_words :
    ([Instr.dtvecWrite ⟨.rs, 1, .reg 0⟩, .dcksumWrite ⟨.rc, 1, .imm 0⟩, .dinjectWrite ⟨.rs, 1, .imm 0⟩, .dbankYevClear ⟨.rc, 1, .reg 0⟩,
      .dmembWrite ⟨.rs, 1, .reg 0⟩, .dpoolbWrite ⟨.rw, 1, .reg 2⟩ 3, .schedCsrWrite ⟨.rw, 1, .reg 2⟩ 3, .csrWrite ⟨.rw, 1, .reg 2⟩ 0x810,
      .fence 8 3 3 0 0, .idget 14 1, .vamo .b .add 1 2 3, .vamo .h .swap 1 2 3, .vamo .d .min 1 2 3, .vamo .d .faddF32 1 2 3,
      .vcvtx .fp32 .fp32 false 1 0 2]).all (fun i => !i.wf) = true := by decide

/-- Events that name a die, twig, ring, slot, grove, node or slice that does not exist (R8, R24, R43, R65). -/
theorem test_ill_formed_events :
    ([Instr.dramTrainingDone 24 true, .thermalSample 24 0 [], .coreClockTargetWrite 24 600, .channelRetirement 6144, .resendTimer 6144,
      .orderedSendRelease 6144, .releasingSendRelease 6144, .rtailDoorbell false 32 0, .rerrClear false 32 0, .mailboxRingBind false 32 0 0 0,
      .descriptorCopy false 32, .admission true ⟨32, ⟨0, 0, []⟩⟩, .descriptorSlotWrite false 31 64 0, .rclkTargetWrite 96 1250, .rclkJoin 96 1, .rclkLeave 96,
      .governorChange 96, .relockEnd 96, .offerSteer ⟨0, 5⟩, .readinessUpdate ⟨8, 5⟩, .offerSteer ⟨1, 6144⟩, .sliceAccess 6144, .sliceFill 6144,
      .flushAck 6144 0]).all (fun i => !i.wf) = true := by decide

/-! ### Words written out from the encodings of the spec -/

/-- Every word of the list decodes to its instruction, and the encoder gives the word back. -/
def reads (l : List (Nat × Instr)) : Bool :=
  l.all fun x => decodeTableWord 32 x.1 == some x.2 && (encode x.2).map (·.toNat) == some x.1 && x.2.wf

/-- The reason for which a word is rejected (R301). -/
def rejects (r : Reject) (l : List Nat) : Bool := l.all fun w => decode (bytesLE (BitVec.ofNat 32 w)) == .error r

/-- R285, R286. -/
theorem test_decode_contexts : reads [
    (0b00000000001100010000000010001011, .hstart 3 2 1),
    (0b00000010000010101000010010001011, .hjoin 21 9),
    (0b00000100000000000000000000001011, .hexit),
    (0b00000110000000000000111110001011, .hlive 31),
    (0b00001000000000000000000000001011, .yield),
    (0b00001010000000000000000000001011, .stgend),
    (0b00001100000000000000000000001011, .stgbind),
    (0b00001110000000000000000000001011, .shswap)] = true := by decide

/-- R286. -/
theorem test_decode_barriers : reads [
    (0b00000000010110001001000000001011, .barr 5 17),
    (0b00000010011100000001010100001011, .bwait 7 10),
    (0b00000100001000100001001110001011, .barw 2 4 7),
    (0b00000110000100000001111100001011, .btest 1 30),
    (0b00001000110001011001010100001011, .mwaitge 12 11 10),
    (0b00001011111100001001100000001011, .mwaiteq 31 1 16),
    (0b00001100001011101001001010001011, .mwaitne 2 29 5),
    (0b00001110010000000001000000001011, .phcomm 4),
    (0b00010000011000000001000000001011, .phcomp 6)] = true := by decide

/-- R286. -/
theorem test_decode_ordering : reads [
    (0b00000000001000001010000110001011, .fences 1 2 .die),
    (0b00000011010000101010001100001011, .ldacq .w .pkg 5 6),
    (0b00000101010001001010111010001011, .strel .d .sys 20 9),
    (0b00000110000000000010000000001011, .drains),
    (0b00001000000010010010000100001011, .cflush .grove 18),
    (0b00001010000000011010000010001011, .cinv .twig 3),
    (0b00001100000001000010000110001011, .cpref .once 8),
    (0b00001110011000111010010000001011, .rlq 6 7 8)] = true := by decide

/-- R286. -/
theorem test_decode_queues : reads [
    (0b00000000000101001011010100001011, .cmdq .cq 9 10),
    (0b00000010001001011011011000001011, .cmdqw .gq 11 12),
    (0b00000100000001101011011100001011, .cmdcan .mq 13 14),
    (0b00000110001000000011011110001011, .cmdst .gq 15),
    (0b00001001100110000011000000001011, .loopset .cq 6 16),
    (0b00001010110000000011100010001011, .loopget .mq 3 17)] = true := by decide

/-- R286. -/
theorem test_decode_messages : reads [
    (0b00000001100000010100000010001011, .osend 24 2 1),
    (0b00000011100000010100000010001011, .osendO 24 2 1),
    (0b00000101100000010100000010001011, .osendR 24 2 1),
    (0b00000111100000010100000010001011, .osendOr 24 2 1),
    (0b00001000001100010100000010001011, .oready 3 2 1),
    (0b00001011001110010100100010001011, .ounready 19 18 17),
    (0b00001100011110100100111100001011, .otake 7 20 30),
    (0b00001110011110100100111100001011, .otakeA 7 20 30),
    (0b00010000011110100100111100001011, .opoll 7 20 30),
    (0b00010010000010110100000000001011, .ofence 22),
    (0b00010100000100000100111000001011, .msend 1 28),
    (0b00010110110011001100000000001011, .wtx 12 25),
    (0b00011000000011010100000000001011, .wsel 26),
    (0b00011011101100011100000000001011, .wrx 27 3)] = true := by decide

/-- R287, R288. -/
theorem test_decode_atomicsAndIdentity : reads [
    (0b00001000010101010101001100001011, .amox .addI32 .pkg 5 10 6),
    (0b11011000001100010101000010001011, .amox .cas64 .pkg 3 2 1),
    (0b00110000000100010101000110001011, .amox .addBf16x2 .core 1 2 3),
    (0b11111010100101000101001110001011, .amox .fmaxF32 .sys 9 8 7),
    (0b10000100100101000101001110001011, .amox .and64 .grove 9 8 7),
    (0b10110010100101000101001110001011, .amox .swap32 .twig 9 8 7),
    (0b00000000110100000110001010001011, .idget 13 5)] = true := by decide

/-- R286. -/
theorem test_decode_traps : reads [
    (0b00000000000000000111000000001011, .hret),
    (0b00000010101100000111011000001011, .fltpop 11 12),
    (0b00000100000000000111011010001011, .fltcnt 13),
    (0b00000110001100000111000000001011, .gstop 3)] = true := by decide

/-- R289, R290. -/
theorem test_decode_vectorMemory : reads [
    (0b00000100000000011011001010101011, .vld .w 3 .nt true 5),
    (0b00001000000011111100001100101011, .vst .b 31 .l2only false 6),
    (0b00010110010000101111001100101011, .vlds .d 4 5 .once true 6),
    (0b00011010011101000000010010101011, .vsts .h 7 8 .dflt false 9),
    (0b00100100101001011001011000101011, .vldx .w 10 11 true 12),
    (0b00101000110101110000011110101011, .vstx .b 13 14 false 15),
    (0b00110010000010000001100010101011, .vldl .h 16 true 17),
    (0b00111110000010010000100110101011, .vstl .d 18 false 19),
    (0b01000100000010100010101010101011, .vldb .w 20 .nt 21),
    (0b01001110001010110110101110101011, .vstm .d 2 22 .once 23),
    (0b01010101100011001111110100101011, .vamo .w .faddF32 24 25 26),
    (0b01010110000100010101000110101011, .vamo .d .xor 1 2 3),
    (0b01011010000011011100000000101011, .vpref .h 27 .l2only)] = true := by decide

/-- R291, R292. -/
theorem test_decode_vectorIntegers_1 : reads [
    (0b00000000000100000100000111011011, .vadd .i8 2 1 0 3),
    (0b00000101000110010001010001011011, .vsub .i16 3 4 1 8),
    (0b00001010001000011110011011011011, .vmul .i32 4 7 2 13),
    (0b00001111001010101011100101011011, .vmulh .i64 5 10 3 18),
    (0b00010000001100110100101111011011, .vmulhn .i8 6 13 0 23),
    (0b00010101001111000001111001011011, .vmac .i16 7 16 1 28),
    (0b00011010010001001110000011011011, .vadds .i32 8 19 2 1),
    (0b00011111010011011011001101011011, .vaddsn .i64 9 22 3 6),
    (0b00100000010101100100010111011011, .vsubs .i8 10 25 0 11),
    (0b00100101010111110001100001011011, .vsubsn .i16 11 28 1 16),
    (0b00101010011001111110101011011011, .vmin .i32 12 31 2 21),
    (0b00101111011010001011110101011011, .vminn .i64 13 2 3 26),
    (0b00110000011100010100111111011011, .vmax .i8 14 5 0 31),
    (0b00110101011110100001001001011011, .vmaxn .i16 15 8 1 4),
    (0b00111010100000101110010011011011, .vand .i32 16 11 2 9),
    (0b00111111100010111011011101011011, .vor .i64 17 14 3 14)] = true := by decide

/-- R291, R292. -/
theorem test_decode_vectorIntegers_2 : reads [
    (0b01000000100101000100100111011011, .vxor .i8 18 17 0 19),
    (0b01000101100111010001110001011011, .vsll .i16 19 20 1 24),
    (0b01001010101001011110111011011011, .vsrl .i32 20 23 2 29),
    (0b01001111101011101011000101011011, .vsra .i64 21 26 3 2),
    (0b10110100101101110100001111011011, .vrotl .i8 22 29 0 7),
    (0b11100111000001111001000101011011, .vpopc .i64 30 1 2),
    (0b11101000000000011110010011011011, .vclz .i8 7 2 9)] = true := by decide

/-- R291 to R294. -/
theorem test_decode_vectorFloats : reads [
    (0b01011010000100000101000111011011, .vfadd .fp32 2 1 1 3),
    (0b01011000101000000100000111011011, .vfadd .fp16 20 1 0 3),
    (0b01011101101010010001010001011011, .vfsub .bf16 21 4 1 8),
    (0b01100010101100011110011011011011, .vfmul .fp32 22 7 2 13),
    (0b01100100101110101011100101011011, .vfma .fp16 23 10 3 18),
    (0b01101001110000110100101111011011, .vfms .bf16 24 13 0 23),
    (0b01101110110011000001111001011011, .vfnma .fp32 25 16 1 28),
    (0b01110000110101001110000011011011, .vfdiv .fp16 26 19 2 1),
    (0b01111001110111011011001101011011, .vfmin .bf16 27 22 3 6),
    (0b01111110111001100100010111011011, .vfmax .fp32 28 25 0 11),
    (0b10000100111011110001100001011011, .vfsgn .fp16 29 28 1 16),
    (0b11001101111101111110101011011011, .vcmul .bf16 30 31 2 21),
    (0b01110101000000010011001011011011, .vfsqrt .bf16 4 3 5),
    (0b10001000000000011000001111011011, .vfclass .fp16 6 0 7),
    (0b10000010010000100101011101011011, .vfcmp .fp32 .un 8 9 1 2),
    (0b10000000010000100101001111011011, .vfcmp .fp16 .lt 8 9 1 3)] = true := by decide

/-- R294, R361. -/
theorem test_decode_vectorConversions : reads [
    (0b10010110000000000100001011011011, .vcvtx .fp32 .fp16 false 1 0 5),
    (0b10001111011100101001010111011011, .vcvtf .e4m3n .n32 true 10 1 11),
    (0b10001101100110101001010111011011, .vcvtf .e8m0 .i64 false 10 1 11),
    (0b10010010101010110010011011011011, .vcvti .n32 .e8m0 false 12 2 13),
    (0b10010000011000110010011011011011, .vcvti .i8 .e5m2 true 12 2 13),
    (0b10010100110010111011011111011011, .vcvtx .e5m2 .bf16 true 14 3 15)] = true := by decide

/-- R292, R293. -/
theorem test_decode_vectorMoves : reads [
    (0b10101000010010001000000011011011, .vperm .i8 9 2 0 1),
    (0b10101101010100010101001101011011, .vslideup .i16 10 5 1 6),
    (0b10110010010110100010010111011011, .vslidedn .i32 11 8 2 11),
    (0b10111011011000101111100001011011, .vzip .i64 12 11 3 16),
    (0b10111100011010111000101011011011, .vunzip .i8 13 14 0 21),
    (0b11000101011101000101110101011011, .vext .i16 14 17 1 26),
    (0b11001010011111010010111111011011, .vins .i32 15 20 2 31),
    (0b01010111100001011111001001011011, .vsel .i64 16 23 3 4),
    (0b11000010000001111101000111011011, .vbcast .i32 31 1 3),
    (0b11100001000000000010001001011011, .vid .i16 2 4),
    (0b10011001001000010101001101011011, .vred .i16 .maxn 5 1 6),
    (0b10100011001110011100010001011011, .vscan .i64 .xor 7 0 8),
    (0b10011110000010100111010101011011, .vfred .fp32 .min 9 3 10),
    (0b10100100000100101110011001011011, .vfscan .fp16 .max 11 2 12)] = true := by decide

/-- R292, R293. -/
theorem test_decode_predicates : reads [
    (0b01010011000010001011100011011011, .vcmp .i64 .ltn 1 2 3 1),
    (0b01010000000010001011001001011011, .vcmp .i8 .ne 1 2 3 0),
    (0b11010010000010001011011011011011, .plogic .i32 .andn 1 2 3 1),
    (0b11010101000000001110101001011011, .ppopc .i16 3 2 20),
    (0b11011000000000000111101011011011, .pfirst .i8 1 3 21),
    (0b11011110000000010100000011011011, .psetn .i32 5 0 1)] = true := by decide

/-- R295. -/
theorem test_decode_formatPairs : reads [
    (0b00011000011000101100010001111011, .vdotp 3 6 5 .bf 8),
    (0b11111010000100010010000111111011, .vmulp 31 1 2 .e5e4 3),
    (0b00100100000000101110001111111011, .vqnt 4 5 .i8 7),
    (0b01000110000001001001010101111011, .vdqnt 8 9 .e4e5 10)] = true := by decide

/-- R279; shapes of the RISC-V unprivileged specification. -/
theorem test_decode_standardIntegers_1 : reads [
    (0b00010010001101000101001010110111, .rv64Instruction (.lui 5 0x12345)),
    (0b10101011110011011110001100010111, .rv64Instruction (.auipc 6 0xABCDE)),
    (0b01000110100000000010000011101111, .rv64Instruction (.jal 1 0x1234)),
    (0b01111111010000010000000011100111, .rv64Instruction (.jalr 1 2 0x7F4)),
    (0b11111110001100010101110011100011, .rv64Instruction (.branch .ge 2 3 0xFFC)),
    (0b00100100001100010110001101100011, .rv64Instruction (.branch .ltu 2 3 0x123)),
    (0b10000001001000100000000110010011, .rv64Instruction (.opImm .addi 3 4 0x812)),
    (0b10000001001000100010000110010011, .rv64Instruction (.opImm .slti 3 4 0x812)),
    (0b10000001001000100011000110010011, .rv64Instruction (.opImm .sltiu 3 4 0x812)),
    (0b10000001001000100100000110010011, .rv64Instruction (.opImm .xori 3 4 0x812)),
    (0b10000001001000100110000110010011, .rv64Instruction (.opImm .ori 3 4 0x812)),
    (0b10000001001000100111000110010011, .rv64Instruction (.opImm .andi 3 4 0x812)),
    (0b00000010101100100001000110010011, .rv64Instruction (.shift .slli 3 4 43)),
    (0b00000010101100100101000110010011, .rv64Instruction (.shift .srli 3 4 43)),
    (0b01000010101100100101000110010011, .rv64Instruction (.shift .srai 3 4 43)),
    (0b01100010101100100101000110010011, .rv64Instruction (.shift .rori 3 4 43))] = true := by decide

/-- R279; shapes of the RISC-V unprivileged specification. -/
theorem test_decode_standardIntegers_2 : reads [
    (0b10000000000000100000000110011011, .rv64Instruction (.addiw 3 4 0x800)),
    (0b01000001010100100101000110011011, .rv64Instruction (.shiftW .sraiw 3 4 21)),
    (0b00001010000100100001000110011011, .rv64Instruction (.slliUw 3 4 33))] = true := by decide

/-- R279; shapes of the RISC-V unprivileged specification. -/
theorem test_decode_standardRegisters_1 : reads [
    (0b00000000001100010000000010110011, .rv64Instruction (.alu .add 1 2 3)),
    (0b01000000001100010000000010110011, .rv64Instruction (.alu .sub 1 2 3)),
    (0b00000000001100010001000010110011, .rv64Instruction (.alu .sll 1 2 3)),
    (0b00000000001100010010000010110011, .rv64Instruction (.alu .slt 1 2 3)),
    (0b00000000001100010011000010110011, .rv64Instruction (.alu .sltu 1 2 3)),
    (0b00000000001100010100000010110011, .rv64Instruction (.alu .xor 1 2 3)),
    (0b00000000001100010101000010110011, .rv64Instruction (.alu .srl 1 2 3)),
    (0b01000000001100010101000010110011, .rv64Instruction (.alu .sra 1 2 3)),
    (0b00000000001100010110000010110011, .rv64Instruction (.alu .or 1 2 3)),
    (0b00000000001100010111000010110011, .rv64Instruction (.alu .and 1 2 3)),
    (0b00000010001100010000000010110011, .rv64Instruction (.alu .mul 1 2 3)),
    (0b00000010001100010001000010110011, .rv64Instruction (.alu .mulh 1 2 3)),
    (0b00000010001100010010000010110011, .rv64Instruction (.alu .mulhsu 1 2 3)),
    (0b00000010001100010011000010110011, .rv64Instruction (.alu .mulhu 1 2 3)),
    (0b00000010001100010100000010110011, .rv64Instruction (.alu .div 1 2 3)),
    (0b00000010001100010101000010110011, .rv64Instruction (.alu .divu 1 2 3))] = true := by decide

/-- R279; shapes of the RISC-V unprivileged specification. -/
theorem test_decode_standardRegisters_2 : reads [
    (0b00000010001100010110000010110011, .rv64Instruction (.alu .rem 1 2 3)),
    (0b00000010001100010111000010110011, .rv64Instruction (.alu .remu 1 2 3)),
    (0b00100000001100010010000010110011, .rv64Instruction (.alu .sh1add 1 2 3)),
    (0b00100000001100010100000010110011, .rv64Instruction (.alu .sh2add 1 2 3)),
    (0b00100000001100010110000010110011, .rv64Instruction (.alu .sh3add 1 2 3)),
    (0b01000000001100010111000010110011, .rv64Instruction (.alu .andn 1 2 3)),
    (0b01000000001100010110000010110011, .rv64Instruction (.alu .orn 1 2 3)),
    (0b01000000001100010100000010110011, .rv64Instruction (.alu .xnor 1 2 3)),
    (0b00001010001100010110000010110011, .rv64Instruction (.alu .max 1 2 3)),
    (0b00001010001100010111000010110011, .rv64Instruction (.alu .maxu 1 2 3)),
    (0b00001010001100010100000010110011, .rv64Instruction (.alu .min 1 2 3)),
    (0b00001010001100010101000010110011, .rv64Instruction (.alu .minu 1 2 3)),
    (0b01100000001100010001000010110011, .rv64Instruction (.alu .rol 1 2 3)),
    (0b01100000001100010101000010110011, .rv64Instruction (.alu .ror 1 2 3)),
    (0b00001110001100010101000010110011, .rv64Instruction (.alu .czeroEqz 1 2 3)),
    (0b00001110001100010111000010110011, .rv64Instruction (.alu .czeroNez 1 2 3))] = true := by decide

/-- R279; shapes of the RISC-V unprivileged specification. -/
theorem test_decode_standardRegisters_3 : reads [
    (0b00000000001100010000000010111011, .rv64Instruction (.alu .addw 1 2 3)),
    (0b01000000001100010000000010111011, .rv64Instruction (.alu .subw 1 2 3)),
    (0b00000000001100010001000010111011, .rv64Instruction (.alu .sllw 1 2 3)),
    (0b00000000001100010101000010111011, .rv64Instruction (.alu .srlw 1 2 3)),
    (0b01000000001100010101000010111011, .rv64Instruction (.alu .sraw 1 2 3)),
    (0b00000010001100010000000010111011, .rv64Instruction (.alu .mulw 1 2 3)),
    (0b00000010001100010100000010111011, .rv64Instruction (.alu .divw 1 2 3)),
    (0b00000010001100010101000010111011, .rv64Instruction (.alu .divuw 1 2 3)),
    (0b00000010001100010110000010111011, .rv64Instruction (.alu .remw 1 2 3)),
    (0b00000010001100010111000010111011, .rv64Instruction (.alu .remuw 1 2 3)),
    (0b00001000001100010000000010111011, .rv64Instruction (.alu .adduw 1 2 3)),
    (0b00100000001100010010000010111011, .rv64Instruction (.alu .sh1adduw 1 2 3)),
    (0b00100000001100010100000010111011, .rv64Instruction (.alu .sh2adduw 1 2 3)),
    (0b00100000001100010110000010111011, .rv64Instruction (.alu .sh3adduw 1 2 3)),
    (0b01100000001100010001000010111011, .rv64Instruction (.alu .rolw 1 2 3)),
    (0b01100000001100010101000010111011, .rv64Instruction (.alu .rorw 1 2 3))] = true := by decide

/-- R279; shapes of the RISC-V unprivileged specification. -/
theorem test_decode_standardRegisters_4 : reads [
    (0b01100000000001001001010000010011, .rv64Instruction (.unary .clz 8 9)),
    (0b01100000000101001001010000010011, .rv64Instruction (.unary .ctz 8 9)),
    (0b01100000001001001001010000010011, .rv64Instruction (.unary .cpop 8 9)),
    (0b01100000010001001001010000010011, .rv64Instruction (.unary .sextb 8 9)),
    (0b01100000010101001001010000010011, .rv64Instruction (.unary .sexth 8 9)),
    (0b01101011100001001101010000010011, .rv64Instruction (.unary .rev8 8 9)),
    (0b00101000011101001101010000010011, .rv64Instruction (.unary .orcb 8 9)),
    (0b01100000000001001001010000011011, .rv64Instruction (.unary .clzw 8 9)),
    (0b01100000000101001001010000011011, .rv64Instruction (.unary .ctzw 8 9)),
    (0b01100000001001001001010000011011, .rv64Instruction (.unary .cpopw 8 9)),
    (0b00001000000001001100010000111011, .rv64Instruction (.unary .zexth 8 9))] = true := by decide

/-- R279; shapes of the RISC-V unprivileged specification. -/
theorem test_decode_standardMemory_1 : reads [
    (0b01111111111100101000001000000011, .load .lb 4 5 2047),
    (0b01111111111000101001001000000011, .load .lh 4 5 2046),
    (0b01111111110100101010001000000011, .load .lw 4 5 2045),
    (0b01111111110000101011001000000011, .load .ld 4 5 2044),
    (0b01111111101100101100001000000011, .load .lbu 4 5 2043),
    (0b01111111101000101101001000000011, .load .lhu 4 5 2042),
    (0b01111111100100101110001000000011, .load .lwu 4 5 2041),
    (0b00000000100000101010001000000111, .load .flw 4 5 8),
    (0b00000001000000101011001000000111, .load .fld 4 5 16),
    (0b01111110011000101000000010100011, .store .sb 6 5 2017),
    (0b01111110011000101001000100100011, .store .sh 6 5 2018),
    (0b01111110011000101010000110100011, .store .sw 6 5 2019),
    (0b01111110011000101011001000100011, .store .sd 6 5 2020),
    (0b00000000011000101010010000100111, .store .fsw 6 5 8),
    (0b00000000011000101011100000100111, .store .fsd 6 5 16),
    (0b00001000001100010010000010101111, .amo .swap false false false 1 2 3)] = true := by decide

/-- R279; shapes of the RISC-V unprivileged specification. -/
theorem test_decode_standardMemory_2 : reads [
    (0b00000010001100010011000010101111, .amo .add true false true 1 2 3),
    (0b00100100001100010010000010101111, .amo .xor false true false 1 2 3),
    (0b01100110001100010011000010101111, .amo .and true true true 1 2 3),
    (0b01000000001100010010000010101111, .amo .or false false false 1 2 3),
    (0b10000010001100010011000010101111, .amo .min true false true 1 2 3),
    (0b10100100001100010010000010101111, .amo .max false true false 1 2 3),
    (0b11000110001100010011000010101111, .amo .minu true true true 1 2 3),
    (0b11100000001100010010000010101111, .amo .maxu false false false 1 2 3),
    (0b00010100000000010011000010101111, .lr true true false 1 2),
    (0b00011010001100010010000010101111, .sc false false true 1 2 3),
    (0b00001111001100000000000000001111, .fence 0 15 3 0 0),
    (0b10000011001100000000000000001111, .fenceTso 0 0),
    (0b00000000000000000001000000001111, .fenceI 0 0 0)] = true := by decide

/-- R279; shapes of the RISC-V unprivileged specification. -/
theorem test_decode_standardFloats_1 : reads [
    (0b00000000001100010000000011010011, .rv64Instruction (.fp .add .s 1 2 3 0)),
    (0b00001010001100010001000011010011, .rv64Instruction (.fp .sub .d 1 2 3 1)),
    (0b00010000001100010010000011010011, .rv64Instruction (.fp .mul .s 1 2 3 2)),
    (0b00011010001100010011000011010011, .rv64Instruction (.fp .div .d 1 2 3 3)),
    (0b01011010000000010111000011010011, .rv64Instruction (.fsqrt .d 1 2 7)),
    (0b00100000001100010000000011000011, .rv64Instruction (.fma .fmadd .s 1 2 3 4 0)),
    (0b00100010001100010001000011000111, .rv64Instruction (.fma .fmsub .d 1 2 3 4 1)),
    (0b00100000001100010010000011001011, .rv64Instruction (.fma .fnmsub .s 1 2 3 4 2)),
    (0b00100010001100010011000011001111, .rv64Instruction (.fma .fnmadd .d 1 2 3 4 3)),
    (0b00100010001100010000000011010011, .rv64Instruction (.fsgn .sgnj .d 1 2 3)),
    (0b00100010001100010001000011010011, .rv64Instruction (.fsgn .sgnjn .d 1 2 3)),
    (0b00100010001100010010000011010011, .rv64Instruction (.fsgn .sgnjx .d 1 2 3)),
    (0b00101000001100010000000011010011, .rv64Instruction (.fminmax false .s 1 2 3)),
    (0b00101010001100010001000011010011, .rv64Instruction (.fminmax true .d 1 2 3)),
    (0b10100000001100010000000011010011, .rv64Instruction (.fcmp .le .s 1 2 3)),
    (0b10100000001100010001000011010011, .rv64Instruction (.fcmp .lt .s 1 2 3))] = true := by decide

/-- R279; shapes of the RISC-V unprivileged specification. -/
theorem test_decode_standardFloats_2 : reads [
    (0b10100000001100010010000011010011, .rv64Instruction (.fcmp .eq .s 1 2 3)),
    (0b11100010000000010001000011010011, .rv64Instruction (.fclass .d 1 2)),
    (0b11000000000000010001000011010011, .rv64Instruction (.fcvtToInt .w .s 1 2 1)),
    (0b11010000000000010001000011010011, .rv64Instruction (.fcvtFromInt .w .s 1 2 1)),
    (0b11000010000100010001000011010011, .rv64Instruction (.fcvtToInt .wu .d 1 2 1)),
    (0b11010010000100010001000011010011, .rv64Instruction (.fcvtFromInt .wu .d 1 2 1)),
    (0b11000000001000010001000011010011, .rv64Instruction (.fcvtToInt .l .s 1 2 1)),
    (0b11010000001000010001000011010011, .rv64Instruction (.fcvtFromInt .l .s 1 2 1)),
    (0b11000010001100010001000011010011, .rv64Instruction (.fcvtToInt .lu .d 1 2 1)),
    (0b11010010001100010001000011010011, .rv64Instruction (.fcvtFromInt .lu .d 1 2 1)),
    (0b01000000000100010111000011010011, .rv64Instruction (.fcvtSD 1 2 7)),
    (0b01000010000000010000000011010011, .rv64Instruction (.fcvtDS 1 2 0)),
    (0b11100000000000010000000011010011, .rv64Instruction (.fmvToInt .s 1 2)),
    (0b11110010000000010000000011010011, .rv64Instruction (.fmvFromInt .d 1 2))] = true := by decide

/-- R279; shapes of the RISC-V unprivileged specification. -/
theorem test_decode_standardSystem : reads [
    (0b00000000000000000000000001110011, .ecall),
    (0b00000000000100000000000001110011, .ebreak),
    (0b00110000001000000000000001110011, .rv64Instruction (.mret)),
    (0b00010000010100000000000001110011, .rv64Instruction (.wfi)),
    (0b11000000000100000010001111110011, .rv64Instruction (.csr ⟨.rs, 7, .reg 0⟩ 0xC01)),
    (0b00000000000101001011001111110011, .rv64Instruction (.csr ⟨.rc, 7, .reg 9⟩ 0x001)),
    (0b00110000000001001001001111110011, .rv64Instruction (.csr ⟨.rw, 7, .reg 9⟩ 0x300))] = true := by decide

/-- R279, R337. -/
theorem test_decode_csrWrites : reads [
    (0b10000001000001001001001111110011, .dtvecWrite ⟨.rw, 7, .reg 9⟩),
    (0b10000000100101001010001111110011, .dcksumWrite ⟨.rs, 7, .reg 9⟩),
    (0b10000000101000100101001111110011, .dinjectWrite ⟨.rw, 7, .imm 4⟩),
    (0b01111100000010000111000001110011, .dbankYevClear ⟨.rc, 0, .imm 16⟩),
    (0b10000000100001001001000001110011, .dmembWrite ⟨.rw, 0, .reg 9⟩),
    (0b10000000001000011001001001110011, .dpoolbWrite ⟨.rw, 4, .reg 3⟩ 2),
    (0b10000000011011111110001001110011, .schedCsrWrite ⟨.rs, 4, .imm 31⟩ 1),
    (0b10000000001100011001001001110011, .csrWrite ⟨.rw, 4, .reg 3⟩ 0x803),
    (0b01111100001000011001001001110011, .csrWrite ⟨.rw, 4, .reg 3⟩ 0x7C2)] = true := by decide

theorem test_reject_major : rejects .major [0x00000000, 0xFFFFFFFF, 0x00000057] = true := by decide

theorem test_reject_unassigned : rejects .unassigned [0x1000000B, 0x1200100B, 0x1000200B, 0x0C00300B, 0x1C00400B, 0x0800700B, 0x6000002B, 0xEC00005B] = true := by decide

theorem test_reject_mustBeZero : rejects .mustBeZero [0x0210000B, 0x0400008B, 0x0080100B, 0x0600208B, 0x0010002B, 0x4000102B, 0x7408005B, 0x0410007B] = true := by decide

theorem test_reject_queueCode : rejects .queueCode [0x0030300B] = true := by decide

theorem test_reject_scopeCode : rejects .scopeCode [0x0C00500B, 0x0E00500B, 0x0260200B] = true := by decide

theorem test_reject_typeCode : rejects .typeCode [0x5B00005B] = true := by decide

theorem test_reject_selector : rejects .selector [0x00E0600B, 0x50000C5B, 0xD0000C5B, 0x80000A5B] = true := by decide

theorem test_reject_conversion : rejects .conversion [0x8C38005B, 0x9780005B] = true := by decide

theorem test_reject_pairCode : rejects .pairCode [0x0000707B] = true := by decide

theorem test_reject_standard : rejects .standard [0x0200301B, 0x08000033, 0x0F32820F, 0x1230128F, 0x80F0000F] = true := by decide

/-! ### Vector instructions (chapter 15) -/

/-- Bytes 0x80, 0x7F, 0xFF and 1 in v1; bytes 0xFF, 0x7F, 1 and 9 in v2 (R356). -/
def vb : State := pv [(1, 0x01FF7F80), (2, 0x09017FFF)] State.reset

theorem test_vadd_wraps : after (.vadd .i8 2 1 0 3) vb (el 32 0 3) = some 0x0A00FE7F := by decide +kernel
theorem test_vsub_order : after (.vsub .i8 2 1 0 3) vb (el 32 0 3) = some 0xF8FE0081 := by decide +kernel
theorem test_vmul_low : after (.vmul .i8 2 1 0 3) vb (el 32 0 3) = some 0x09FF0180 := by decide +kernel
theorem test_vmulh_signed : after (.vmulh .i8 2 1 0 3) vb (el 32 0 3) = some 0x00FF3F00 := by decide +kernel
theorem test_vmulhn_unsigned : after (.vmulhn .i8 2 1 0 3) vb (el 32 0 3) = some 0x00003F7F := by decide +kernel
theorem test_vmac_adds_old : after (.vmac .i8 2 1 0 2) vb (el 32 0 2) = some 0x1200807F := by decide +kernel
theorem test_vadds_clamps : after (.vadds .i8 2 1 0 3) vb (el 32 0 3) = some 0x0A007F80 := by decide +kernel
theorem test_vsubs_clamps : after (.vsubs .i8 1 2 0 3) vb (el 32 0 3) = some 0x0802007F := by decide +kernel
theorem test_vaddsn_clamps : after (.vaddsn .i8 2 1 0 3) vb (el 32 0 3) = some 0x0AFFFEFF := by decide +kernel
theorem test_vsubsn_clamps : after (.vsubsn .i8 2 1 0 3) vb (el 32 0 3) = some 0x00FE0000 := by decide +kernel
theorem test_vmin_signed : after (.vmin .i8 2 1 0 3) vb (el 32 0 3) = some 0x01FF7F80 := by decide +kernel
theorem test_vmax_signed : after (.vmax .i8 2 1 0 3) vb (el 32 0 3) = some 0x09017FFF := by decide +kernel
theorem test_vminn_unsigned : after (.vminn .i8 2 1 0 3) vb (el 32 0 3) = some 0x01017F80 := by decide +kernel
theorem test_vmaxn_unsigned : after (.vmaxn .i8 2 1 0 3) vb (el 32 0 3) = some 0x09FF7FFF := by decide +kernel
theorem test_vand : after (.vand .i64 2 1 0 3) vb (el 32 0 3) = some 0x01017F80 := by decide +kernel
theorem test_vor : after (.vor .i64 2 1 0 3) vb (el 32 0 3) = some 0x09FF7FFF := by decide +kernel
theorem test_vxor : after (.vxor .i64 2 1 0 3) vb (el 32 0 3) = some 0x08FE007F := by decide +kernel
/-- Shift amounts modulo 8: 7, 7, 1 and 1. -/
theorem test_vsll_modulo : after (.vsll .i8 2 1 0 3) vb (el 32 0 3) = some 0x02FE8000 := by decide +kernel
theorem test_vsrl_modulo : after (.vsrl .i8 2 1 0 3) vb (el 32 0 3) = some 0x007F0001 := by decide +kernel
theorem test_vsra_sign : after (.vsra .i8 2 1 0 3) vb (el 32 0 3) = some 0x00FF00FF := by decide +kernel
theorem test_vrotl : after (.vrotl .i8 2 1 0 3) vb (el 32 0 3) = some 0x02FFBF40 := by decide +kernel
theorem test_vpopc : after (.vpopc .i8 1 0 3) vb (el 32 0 3) = some 0x01080701 := by decide +kernel
theorem test_vclz_of_zero : after (.vclz .i16 1 0 3) vb (el 64 0 3) = some 0x0010001000070001 := by decide +kernel
/-- An inactive element keeps its value (R344): only byte 1 of p1 is set. -/
theorem test_inactive_keeps :
    after (.vadd .i8 2 1 1 2) (writeP 1 2 vb) (el 32 0 2) = some 0x0901FEFF := by decide +kernel
/-- VCMP sets whole groups, LTN compares unsigned, and a write to p0 is discarded (R119, R357). -/
theorem test_vcmp_unsigned : after (.vcmp .i8 .ltn 2 1 0 1) vb (fun t => readP t 1) = some 9 := by decide +kernel
theorem test_vcmp_p0 : after (.vcmp .i8 .ne 2 1 0 0) vb (fun t => readP t 0) = some (-1) := by decide +kernel
theorem test_vsel : after (.vsel .i8 2 1 1 3) (writeP 1 5 vb) (el 32 0 3) = some 0x09FF7F80 := by decide +kernel
/-- VRED adds the old element 0 and every active element; the other elements of vd stay (R363). -/
theorem test_vred : after (.vred .i8 .add 1 1 2) (writeP 1 9 vb) (el 32 0 2) = some 0x09017F80 := by decide +kernel
theorem test_vscan : after (.vscan .i8 .maxn 1 1 2) (writeP 1 7 vb) (el 32 0 2) = some 0x09FF8080 := by decide +kernel
theorem test_vperm_out_of_range : after (.vperm .i8 2 1 0 3) vb (el 32 0 3) = some 0x007F0000 := by decide +kernel
theorem test_vslideup : after (.vslideup .i8 5 1 0 3) (px [(5, 2)] vb) (el 64 0 3) = some 0x01FF7F800000 := by decide +kernel
theorem test_vslidedn_same_register : after (.vslidedn .i8 5 1 0 1) (px [(5, 3)] vb) (el 32 0 1) = some 1 := by decide +kernel
theorem test_vzip : after (.vzip .i8 2 1 0 3) vb (el 64 0 3) = some 0x090101FF7F7FFF80 := by decide +kernel
theorem test_vunzip : after (.vunzip .i8 2 1 0 1) vb (fun t => (el 16 0 1 t, el 16 32 1 t)) = some (0xFF80, 0x01FF) := by decide +kernel
theorem test_vbcast : after (.vbcast .i16 5 0 3) (px [(5, 0x12345)] vb) (el 32 0 3) = some 0x23452345 := by decide +kernel
theorem test_vid : after (.vid .i32 0 3) vb (el 64 15 3) = some 0x1F0000001E := by decide +kernel
theorem test_vext_sign : after (.vext .i8 5 1 0 6) (px [(5, 2)] vb) (fun t => readX t 6) = some (-1) := by decide +kernel
theorem test_vins : after (.vins .i8 5 6 0 1) (px [(5, 1), (6, 0xABC)] vb) (el 32 0 1) = some 0x01FFBC80 := by decide +kernel
theorem test_plogic_normalises :
    after (.plogic .i16 .andn 2 1 0 3) (writeP 1 1 (writeP 2 4 vb)) (fun t => readP t 3) = some 3 := by decide +kernel
theorem test_ppopc : after (.ppopc .i32 1 0 5) (writeP 1 0x111F vb) (fun t => readX t 5) = some 4 := by decide +kernel
theorem test_pfirst_none : after (.pfirst .i32 1 2 5) (writeP 1 0x10 (writeP 2 0xF vb)) (fun t => readX t 5) = some (-1) := by decide +kernel
theorem test_psetn : after (.psetn .i32 5 0 1) (px [(5, 3)] vb) (fun t => readP t 1) = some 0xFFF := by decide +kernel

/-- In v1: 1.0, the smallest subnormal, −0 and a signalling NaN; in v2: 2^−24, 1.0, 0 and 1.0 (fp32). -/
def vf : State := pv [(1, 0x7F800001800000000000000013F800000), (2, 0x3F800000000000003F80000033800000)] State.reset

/-- 1.0 + 2^−24 is a tie that goes to even under RNE, and up under RUP, with NX (R186). -/
theorem test_vfadd_tie : after (.vfadd .fp32 2 1 0 3) (pv [(1, 0x3F800000), (2, 0x33800000)] State.reset)
    (fun t => (el 32 0 3 t, t.core.cx.fflags)) = some (0x3F800000, 1) := by decide +kernel
theorem test_vfsub_sign : after (.vfsub .fp16 2 1 0 3) (pv [(1, 0x3C00), (2, 0x4000)] State.reset) (el 16 0 3) = some 0xBC00 := by decide +kernel
theorem test_vfmul : after (.vfmul .bf16 2 1 0 3) (pv [(1, 0x3FC0), (2, 0xC040)] State.reset) (el 16 0 3) = some 0xC090 := by decide +kernel
theorem test_vfdiv_by_zero : after (.vfdiv .fp16 2 1 0 3) (pv [(1, 0xBC00)] State.reset)
    (fun t => (el 16 0 3 t, t.core.cx.fflags.getLsbD 3)) = some (0xFC00, true) := by decide +kernel
/-- (1 + 2^−23)² − (1 + 2^−22) is exactly 2^−46: one rounding (R358). -/
theorem test_vfms_once : after (.vfms .fp32 2 1 0 3) (pv [(1, 0x3F800001), (2, 0x3F800001), (3, 0x3F800002)] State.reset) (el 32 0 3)
    = some 0x28800000 := by decide +kernel
theorem test_vfma : after (.vfma .fp16 2 1 0 3) (pv [(1, 0x4000), (2, 0x4200), (3, 0x3C00)] State.reset) (el 16 0 3) = some 0x4700 := by decide +kernel
theorem test_vfnma : after (.vfnma .fp16 2 1 0 3) (pv [(1, 0x4000), (2, 0x4200), (3, 0x3C00)] State.reset) (el 16 0 3) = some 0xC500 := by decide +kernel
theorem test_vfsqrt_minus_zero : after (.vfsqrt .fp16 1 0 3) (pv [(1, 0x44008000)] State.reset) (el 32 0 3) = some 0x40008000 := by decide +kernel
theorem test_vfmin_zero_and_nan : after (.vfmin .fp16 2 1 0 3) (pv [(1, 0x7E000000), (2, 0x3C008000)] State.reset) (el 32 0 3)
    = some 0x3C008000 := by decide +kernel
theorem test_vfmax : after (.vfmax .fp16 2 1 0 3) (pv [(1, 0x7E000000), (2, 0x7E008000)] State.reset) (el 32 0 3) = some 0x7E000000 := by decide +kernel
/-- LT of a quiet NaN sets NV and gives 0; UN gives 1 without it (R359). -/
theorem test_vfcmp_nan :
    after (.vfcmp .fp32 .lt 2 1 1 2) (writeP 1 1 (pv [(1, 0x7FC00000)] State.reset)) (fun t => (readP t 2, t.core.cx.fflags)) = some (0, 16)
    ∧ after (.vfcmp .fp32 .un 2 1 1 2) (writeP 1 1 (pv [(1, 0x7FC00000)] State.reset)) (fun t => (readP t 2, t.core.cx.fflags)) = some (15, 0) := by
  decide +kernel
theorem test_vfsgn_nan_payload : after (.vfsgn .fp16 2 1 0 3) (pv [(1, 0x7D01), (2, 0x8000)] State.reset)
    (fun t => (el 16 0 3 t, t.core.cx.fflags)) = some (0xFD01, 0) := by decide +kernel
theorem test_vfclass : after (.vfclass .fp16 1 0 3) (pv [(1, 0x7D0180010001FC00)] State.reset) (el 64 0 3) = some 0x0100000400200001 := by decide +kernel
/-- (1 + 2i)(3 + 4i) = −5 + 10i (R360). -/
theorem test_vcmul : after (.vcmul .fp16 2 1 0 3) (pv [(1, 0x40003C00), (2, 0x44004200)] State.reset) (el 32 0 3) = some 0x4900C500 := by decide +kernel
/-- A narrowing conversion clears the rest of vd (R361); 448 is the largest e4m3n value under SAT (R183). -/
theorem test_vcvtx_narrows : after (.vcvtx .e4m3n .fp32 true 1 0 3) (pv [(1, 0x461C4000), (3, -1)] State.reset)
    (fun t => (el 8 0 3 t, el 8 32 3 t)) = some (0x7E, 0) := by decide +kernel
theorem test_vcvti_nan_sat : after (.vcvti .i8 .fp16 true 1 0 3) (pv [(1, 0xDC007E00)] State.reset)
    (fun t => (el 16 0 3 t, t.core.cx.fflags.getLsbD 4)) = some (0x8000, true) := by decide +kernel
theorem test_vcvtf_unsigned : after (.vcvtf .fp32 .n8 false 1 0 3) (pv [(1, 0xFF)] State.reset) (el 32 0 3) = some 0x437F0000 := by decide +kernel
theorem test_vcvtx_equal_codes : after (.vcvtx .fp32 .fp32 false 1 0 3) (modCx (fun c => { c with dtvec := 0x1001 }) State.reset)
    (fun t => (t.core.cx.dtcause, t.core.cx.hm)) = some (2, true) := by decide +kernel
/-- 1 + 2 + 3 + 4 added to 10 in lane 0 of an i8 VDOTP (R368). -/
theorem test_vdotp_i8 : after (.vdotp 0 2 1 .i8 3) (pv [(1, 0x04030201), (2, 0x01010101), (3, 10)] State.reset) (el 32 0 3) = some 20 := by decide +kernel
/-- Scales 128 and 127: the product 1.0 · 1.0 doubled (R369); a NaN scale gives the canonical NaN with NV. -/
theorem test_vmulp_scales : after (.vmulp 4 2 1 .fp 3) (pf [(4, 0x7F80)] (pv [(1, 0x3C00), (2, 0x3C00)] State.reset)) (el 32 0 3)
    = some 0x40000000 := by decide +kernel
theorem test_vmulp_nan_scale : after (.vmulp 4 2 1 .fp 3) (pf [(4, 0xFF80)] State.reset) (fun t => (el 32 5 3 t, t.core.cx.fflags))
    = some (0x7FC00000, 16) := by decide +kernel
/-- VQNT writes 32 elements at 32·q and leaves the others (R370); VDQNT reads them back. -/
theorem test_vqnt_quarter : after (.vqnt 4 1 .i8 3) (pf [(4, 0x1007F)] (pv [(1, 0x43000000), (3, 5)] State.reset))
    (fun t => (el 8 32 3 t, el 8 0 3 t, t.core.cx.fflags.getLsbD 4)) = some (0x7F, 5, true) := by decide +kernel
theorem test_vdqnt : after (.vdqnt 4 1 .i8 3) (pf [(4, 0x80)] (pv [(1, 0xFD)] State.reset)) (el 32 0 3) = some 0xC0C00000 := by decide +kernel
/-- frm = 100 makes a rounding vector instruction illegal (R188, R346). -/
theorem test_dynamic_mode_illegal : after (.vfadd .fp32 2 1 0 3) (modCx (fun c => { c with frm := 4, dtvec := 0x1001 }) State.reset)
    (fun t => (t.core.cx.dtcause, t.core.cx.pc)) = some (2, 0x1000) := by decide +kernel

/-- What the statements about rounding instructions ask of frm, at the codes where their clauses meet (R188). -/
theorem witness_float_modes : devMode (modCx (fun c => { c with frm := 3 }) State.reset).core.cx.frm = some .rup
    ∧ devMode (modCx (fun c => { c with frm := 4 }) State.reset).core.cx.frm = none := by decide +kernel

/-! ### The standard profile (R279) -/

theorem test_lui_sign : after (rv (.lui 1 0x80000)) State.reset (fun t => readX t 1) = some 0xFFFFFFFF80000000 := by decide +kernel
theorem test_auipc : after (rv (.auipc 1 0xFFFFF)) (modCx (fun c => { c with pc := 0x1000 }) State.reset) (fun t => readX t 1) = some 0 := by decide +kernel
theorem test_addi_x0 : after (rv (.opImm .addi 0 0 5)) State.reset (fun t => (readX t 0, t.core.cx.pc)) = some (0, 4) := by decide +kernel
theorem test_sltiu_extends : after (rv (.opImm .sltiu 1 2 0xFFF)) (px [(2, 5)] State.reset) (fun t => readX t 1) = some 1 := by decide +kernel
theorem test_addiw : after (rv (.addiw 1 2 1)) (px [(2, 0x17FFFFFFF)] State.reset) (fun t => readX t 1) = some 0xFFFFFFFF80000000 := by decide +kernel
theorem test_mulhsu : after (rv (.alu .mulhsu 1 2 3)) (px [(2, -1), (3, -1)] State.reset) (fun t => readX t 1) = some (-1) := by decide +kernel
theorem test_div_overflow : after (rv (.alu .div 1 2 3)) (px [(2, 0x8000000000000000), (3, -1)] State.reset) (fun t => readX t 1)
    = some 0x8000000000000000 := by decide +kernel
theorem test_remw_by_zero : after (rv (.alu .remw 1 2 3)) (px [(2, 0x80000005)] State.reset) (fun t => readX t 1)
    = some 0xFFFFFFFF80000005 := by decide +kernel
theorem test_sh3adduw : after (rv (.alu .sh3adduw 1 2 3)) (px [(2, 0xF00000001), (3, 100)] State.reset) (fun t => readX t 1) = some 108 := by decide +kernel
theorem test_roriw : after (rv (.shiftW .roriw 1 2 1)) (px [(2, 3)] State.reset) (fun t => readX t 1) = some 0xFFFFFFFF80000001 := by decide +kernel
theorem test_orcb : after (rv (.unary .orcb 1 2)) (px [(2, 0x0100000020000400)] State.reset) (fun t => readX t 1) = some 0xFF000000FF00FF00 := by decide +kernel
theorem test_ctz_zero : after (rv (.unary .ctzw 1 2)) State.reset (fun t => readX t 1) = some 32 := by decide +kernel
theorem test_czero : after (rv (.alu .czeroNez 1 2 3)) (px [(2, 7), (3, 1)] State.reset) (fun t => readX t 1) = some 0 := by decide +kernel
/-- JALR clears bit 0 of its target, and its source may be its destination. -/
theorem test_jalr_same : after (rv (.jalr 1 1 3)) (px [(1, 0x102)] State.reset) (fun t => (t.core.cx.pc, readX t 1)) = some (0x104, 4) := by decide +kernel
/-- A taken jump to an address that is no multiple of 4 traps on the jump with cause 0 and writes nothing (R282). -/
theorem test_jal_misaligned : after (rv (.jal 1 1)) (modCx (fun c => { c with dtvec := 0x1001 }) State.reset)
    (fun t => (t.core.cx.dtcause, t.core.cx.dtval, t.core.cx.dtpc, readX t 1)) = some (0, 2, 0, 0) := by decide +kernel
theorem test_bltu_unsigned : after (rv (.branch .ltu 1 2 8)) (px [(1, 1), (2, -1)] State.reset) (fun t => t.core.cx.pc) = some 16 := by decide +kernel
theorem test_blt_not_taken : after (rv (.branch .lt 1 2 8)) (px [(1, 1), (2, -1)] State.reset) (fun t => t.core.cx.pc) = some 4 := by decide +kernel
theorem test_wfi_user : after (rv .wfi) (modCx (fun c => { c with dtvec := 0x1001 }) State.reset) (fun t => t.core.cx.dtcause) = some 2 := by decide +kernel
theorem test_mret : after (rv .mret) (modCore (fun c => { c with priv := .m, mcsr := { c.mcsr with mepc := 0x40, mpie := true } }) State.reset)
    (fun t => (t.core.cx.pc, t.core.priv, t.core.mcsr.mie)) = some (0x40, .u, true) := by decide +kernel
/-- An S operand that is not NaN-boxed reads as the canonical NaN, and the result is boxed. -/
theorem test_fadd_unboxed : after (rv (.fp .add .s 1 2 3 0)) (pf [(2, 0x3F800000), (3, 0xFFFFFFFF3F800000)] State.reset) (fun t => readF t 1)
    = some 0xFFFFFFFF7FC00000 := by decide +kernel
theorem test_fsub_d : after (rv (.fp .sub .d 1 2 3 0)) (pf [(2, 0x3FF0000000000000), (3, 0x4000000000000000)] State.reset) (fun t => readF t 1)
    = some 0xBFF0000000000000 := by decide +kernel
theorem test_fcvt_wu_negative : after (rv (.fcvtToInt .wu .d 1 2 1)) (pf [(2, 0xBFF0000000000000)] State.reset)
    (fun t => (readX t 1, t.core.cx.fflags)) = some (0, 16) := by decide +kernel
theorem test_fsgnjn : after (rv (.fsgn .sgnjn .d 1 2 3)) (pf [(2, 1), (3, 2)] State.reset) (fun t => readF t 1) = some 0x8000000000000001 := by decide +kernel
theorem test_reserved_mode : after (rv (.fp .add .s 1 2 3 7)) (modCx (fun c => { c with frm := 5, dtvec := 0x1001 }) State.reset)
    (fun t => (t.core.cx.dtcause, t.core.cx.dtval)) = some (2, 0x003170D3) := by decide +kernel

/-- Where the clauses about jumps and branches meet (R282): a target that is a multiple of 4, and one that is not. -/
theorem witness_jumps : ((0 : Word) + (BitVec.signExtend 64 (2 : BitVec 20)) * 2).toNat % 4 = 0
    ∧ ((0 : Word) + (BitVec.signExtend 64 (1 : BitVec 20)) * 2).toNat % 4 ≠ 0
    ∧ readX State.reset 1 = readX State.reset 2 ∧ ¬readX State.reset 1 ≠ readX State.reset 2
    ∧ (modCore (fun c => { c with priv := .m }) State.reset).core.priv = .m ∧ State.reset.core.priv ≠ .m := by decide +kernel

/-- What the statements about F and D ask of the mode (R188): RMM is a mode of a standard instruction, 101 is none. -/
theorem witness_standard_modes : stdMode 4 0 = some .rmm ∧ stdMode 7 4 = some .rmm ∧ stdMode 7 3 = some .rup ∧ stdMode 7 5 = none ∧ stdMode 5 0 = none := by
  decide +kernel

/-! ### CSRs (R97, R116, R242, R337 to R342) -/

/-- M-mode. -/
def machine : State := modCore (fun c => { c with priv := .m }) State.reset

theorem test_dtvec_mode : after (.dtvecWrite ⟨.rw, 2, .reg 1⟩) (px [(1, 0x1003)] State.reset) (fun t => (t.core.cx.dtvec, readX t 2)) = some (0x1000, 0) := by decide +kernel
theorem test_dtvec_same_register : after (.dtvecWrite ⟨.rs, 1, .reg 1⟩) (px [(1, 0x1000)] (modCx (fun c => { c with dtvec := 1 }) State.reset))
    (fun t => (t.core.cx.dtvec, readX t 1)) = some (0x1001, 1) := by decide +kernel
theorem test_dcksum : after (.dcksumWrite ⟨.rc, 2, .imm 1⟩) State.reset (fun t => (t.core.bank.dcksum, readX t 2)) = some (0, 1) := by decide +kernel
theorem test_dinject_fired : after (.dinjectWrite ⟨.rw, 2, .imm 2⟩) (modBank (fun b => { b with dinject := ⟨true, true, 5, 7⟩ }) State.reset)
    (fun t => (t.core.bank.dinject, readX t 2)) = some (⟨false, false, 0, 0⟩, 0x717) := by decide +kernel
theorem test_dbank_yev : after (.dbankYevClear ⟨.rs, 0, .imm 0⟩) machine (fun t => t.core.yev) = some false := by decide +kernel
theorem test_dmemb_user : after (.dmembWrite ⟨.rw, 0, .reg 1⟩) (modCx (fun c => { c with dtvec := 0x1001 }) State.reset)
    (fun t => (t.core.cx.dtcause, t.core.cx.dtval)) = some (2, 0x80809073) := by decide +kernel
theorem test_dquantum_floor : after (.schedCsrWrite ⟨.rw, 2, .reg 1⟩ 0) (px [(1, 5)] machine) (fun t => (t.core.bank.dquantum, readX t 2))
    = some (1024, 4096) := by decide +kernel
/-- A pool boundary that breaks R115 is not written. -/
theorem test_dpoolb0 : after (.dpoolbWrite ⟨.rw, 2, .reg 1⟩ 0) (px [(1, 5121)] machine) (fun t => (t.core.dpoolb0, readX t 2))
    = some (0x1B800, 0x1B800) := by decide +kernel
theorem test_dhstack : after (.csrWrite ⟨.rw, 2, .reg 1⟩ 0x803) (px [(1, 0x123F)] State.reset) (fun t => t.core.bank.dhstack) = some 0x1230 := by decide +kernel
theorem test_dtcause_bits : after (.csrWrite ⟨.rw, 2, .reg 1⟩ 0x812) (px [(1, -1)] State.reset) (fun t => t.core.cx.dtcause) = some 0x1FF := by decide +kernel

/-- The CSR clauses: a source that writes and one that does not, a layout that R115 allows and one that it refuses, both modes, the value of
dtvec at each MODE, the floor of 1,024, and a number that is no CSR. -/
theorem witness_csrs : CsrArgs.writes ⟨.rs, 1, .reg 2⟩ = true ∧ CsrArgs.writes ⟨.rs, 1, .reg 0⟩ = false ∧ CsrArgs.writes ⟨.rw, 1, .reg 0⟩ = true
    ∧ machine.core.priv = .m ∧ State.reset.core.priv ≠ .m ∧ BitVec.extractLsb' 8 2 0x7C0#12 = 3 ∧ csrRead State.reset 0x7FF = none
    ∧ csrRead State.reset 0x815 = none ∧ (1023 : Word) < 1024 := by decide +kernel
/-- 22 slots, lanes of 4 KiB and a scratchpad that ends at 896 KiB are the largest layout; 1 slot is too few (R115). -/
theorem witness_layouts : Say.PoolLayout 112640 243712 917504 ∧ ¬Say.PoolLayout 5120 5120 393216 := by
  refine ⟨⟨⟨22, by decide, by decide, rfl⟩, ⟨4, by decide, rfl⟩, by decide⟩, ?_⟩
  rintro ⟨⟨ns, h1, -, h2⟩, -⟩
  omega

/-! ### Scalar memory, atomics and ordering (chapters 7, 10, 14) -/

/-- An address of the own scratchpad, and its memory key. -/
def ownVa : Word := 0xFFFFFF0000020000
/-- Its memory key. -/
def ownKey : Nat := poolKey 0 0x20000

/-- A CACHED page of device DRAM at 0x400000, in the core's TLB, and a page of host space at 0x500000. -/
def paged : State := modCore (fun c => { c with tlb := [⟨0, 0x400000, 0x10000, 12, true, true, true, true, true, .cached, false, false⟩,
  ⟨0, 0x500000, 2 ^ 51, 12, true, true, false, true, true, .device, false, false⟩] }) State.reset

/-- x1 = the own scratchpad, x2 = the DRAM page, x3 = the page of host space, x4 = an address without a translation. -/
def addrs : State := px [(1, ownVa), (2, 0x400000), (3, 0x500000), (4, 0x600000)] (pm [(ownKey, [0x80, 0xFF, 3, 4, 5, 6, 7, 0x88]), (0x10000, [0x11, 0x92])] paged)

/-- A registered handler at 0x1000. -/
def handled (s : State) : State := modCx (fun c => { c with dtvec := 0x1001 }) s

/-- The answer to what the current context waited for has come, without an error (R99). -/
def answered (s : State) : State := modCx (fun c => { c with ans := some 0 }) s

/-- Its line has come with it, as its slice sent it (R151). -/
def served (s : State) : State := modCx (fun c => { c with ans := some 0, got := [(0x200, 0x9211)] }) s

/-- The host has answered it with an error (R74). -/
def refused (s : State) : State := modCx (fun c => { c with ans := some 1 }) s

theorem test_lb_sign : after (.load .lb 5 1 0) addrs (fun t => readX t 5) = some 0xFFFFFFFFFFFFFF80 := by decide +kernel
theorem test_lwu_misaligned : after (.load .lwu 5 1 1) addrs (fun t => readX t 5) = some 0x050403FF := by decide +kernel
theorem test_flw_boxes : after (.load .flw 5 1 0) addrs (fun t => readF t 5) = some 0xFFFFFFFF0403FF80 := by decide +kernel
/-- A load that crosses a 128 B line takes cause 4 (R282). -/
theorem test_load_crosses_line : after (.load .ld 5 1 121) (handled addrs) (fun t => (t.core.cx.dtcause, t.core.cx.dtval)) = some (4, ownVa + 121) := by decide +kernel
/-- A page that neither TLB holds is walked first (R144); the walk's answer is the fault. -/
theorem test_load_walks : after (.load .lb 5 4 0) (handled addrs) (fun t => (t.core.cx.st, t.core.cx.dtcause)) = some (.waiting (.walk 0x600000), 0) := by decide +kernel
theorem test_load_page_fault : after (.load .lb 5 4 0) (answered (handled addrs)) (fun t => (t.core.cx.dtcause, t.core.cx.dtval)) = some (13, 0x600000) := by decide +kernel
/-- A store to a CACHED page stands in L1; a load of the core sees it, memory does not (R140). -/
theorem test_store_stands_in_l1 : after (.store .sh 1 2 1) addrs
    (fun t => (memRead t.mem 0x10000 4, l1Bytes t 0x10001 2, l1Hit t 0x10000 4)) = some ([0x11, 0x92, 0, 0], [0, 0], false) := by decide +kernel
theorem test_store_own : after (.store .sb 2 1 3) (px [(2, 0x1FF)] addrs) (fun t => memRead t.mem ownKey 5) = some [0x80, 0xFF, 3, 0xFF, 5] := by decide +kernel
/-- A store without a translation completes and leaves a record to come (R247). -/
theorem test_store_fails_late : after (.store .sd 1 4 0) addrs (fun t => (t.core.cx.pc, t.core.cx.late.map fun l => l.bad.map (·.2.cause))) = some (4, [some 15]) := by decide +kernel
theorem test_amomin_signed : after (.amo .min false false false 5 1 6) (px [(6, 0x7FFFFFFF)] addrs)
    (fun t => (readX t 5, memRead t.mem ownKey 4)) = some (0x0403FF80, [0x80, 0xFF, 3, 4]) := by decide +kernel
theorem test_amoswap_same_register : after (.amo .swap true true true 1 1 1) addrs
    (fun t => (readX t 1, memNat t.mem ownKey 8)) = some (0x880706050403FF80, 0xFFFFFF0000020000) := by decide +kernel
theorem test_amox_cas : after (.amox .cas64 .pkg 6 1 5) (px [(5, 0x880706050403FF80), (6, 9)] addrs)
    (fun t => (readX t 5, memNat t.mem ownKey 8)) = some (0x880706050403FF80, 9) := by decide +kernel
theorem test_amox_bf16x2 : after (.amox .addBf16x2 .core 6 1 5) (px [(6, 0x3F803F80)] (pm [(ownKey, [0x80, 0x3F, 0x00, 0x40])] addrs))
    (fun t => memNat t.mem ownKey 4) = some 0x40404000 := by decide +kernel
/-- LR anywhere but on a CACHED page of device DRAM takes cause 5 (R281). -/
theorem test_lr_scratchpad : after (.lr false false false 5 1) (handled addrs) (fun t => t.core.cx.dtcause) = some 5 := by decide +kernel
/-- LR is made at the home slice: the context waits for the answer (R281). -/
theorem test_lr_waits : after (.lr false false false 5 2) addrs (fun t => (t.core.cx.st, t.resv, t.core.cx.pc)) = some (.waiting .remote, [], 0) := by decide +kernel
theorem test_lr_reserves : after (.lr false false false 5 2) (answered addrs) (fun t => (readX t 5, t.resv.map (·.line))) = some (0x9211, [0x200]) := by decide +kernel
theorem test_sc_without_reservation : after (.sc false false false 5 2 1) (answered addrs) (fun t => (readX t 5, memNat t.mem 0x10000 4)) = some (1, 0x9211) := by decide +kernel
theorem test_sc_with_reservation : after (.sc false false false 5 2 6) (px [(6, 7)] (answered { addrs with resv := [⟨0, false, 0, 0x200, 0⟩] }))
    (fun t => (readX t 5, memNat t.mem 0x10000 4, t.resv)) = some (0, 7, []) := by decide +kernel
/-- A dirty byte of a shared line. -/
def dirtied : State := modCore (fun c => { c with l1 := [⟨0x200, 0x55, 1, 1, .shared, none, false, false, false, none⟩] }) addrs
/-- A fence with W before it sends the byte back and waits for it; one without does not (R210). -/
theorem test_fence_writes_back : after (.fence 0 1 2 0 0) dirtied (fun t => ((writesOf t 0).map (·.data), t.core.cx.st, t.core.cx.pc)) = some ([0x55], .waiting .stores, 0) := by decide +kernel
theorem test_fence_read_keeps : after (.fence 0 2 1 0 0) dirtied (fun t => (memRead t.mem 0x10000 1, t.core.l1.map (·.dirty))) = some ([0x11], [1]) := by decide +kernel
theorem test_fence_tso : after (.fenceTso 0 0) dirtied (fun t => (t.core.l1.map (·.dirty), t.core.cx.pc)) = some ([0], 0) := by decide +kernel
theorem test_fences_core : after (.fences 1 2 .core) dirtied (fun t => memRead t.mem 0x10000 1) = some [0x11] := by decide +kernel
theorem test_fence_i : after (.fenceI 0 0 0) dirtied (fun t => (t.core.cx.pc, t.core.l1.length)) = some (4, 1) := by decide +kernel
theorem test_drains_waits : after .drains (modCx (fun c => { c with late := [⟨some (0, ⟨9, 8, 0, 15, 8, 0, 0, 0, 0, false⟩), []⟩] }) addrs)
    (fun t => (t.core.cx.st, t.core.cx.pc)) = some (.waiting .stores, 0) := by decide +kernel
theorem test_drains_records : after .drains (modCx (fun c => { c with recs := [⟨9, 8, 0, 15, 8, 0, 0, 0, 0, false⟩] }) addrs)
    (fun t => (t.core.cx.pc, t.core.cx.must23)) = some (4, true) := by decide +kernel
/-- LDACQ reads at the home slice: the core's own dirty byte goes there first, and another core's L1 is not asked. -/
theorem test_ldacq : after (.ldacq .h .pkg 2 5) dirtied (fun t => ((writesOf t 0).map (·.data), t.core.cx.st)) = some ([0x55], .waiting .remote) := by decide +kernel
theorem test_ldacq_answered : after (.ldacq .h .pkg 2 5) (answered addrs) (fun t => readX t 5) = some 0xFFFFFFFFFFFF9211 := by decide +kernel
theorem test_strel : after (.strel .h .sys 6 1) (px [(6, 0x1234)] addrs) (fun t => memRead t.mem ownKey 3) = some [0x34, 0x12, 3] := by decide +kernel
theorem test_strel_releases_first : after (.strel .h .sys 6 1) dirtied (fun t => ((writesOf t 0).length, t.core.cx.st, t.core.cx.pc)) = some (1, .waiting .stores, 0) := by decide +kernel
theorem test_cflush : after (.cflush .pkg 2) dirtied (fun t => ((writesOf t 0).map (·.line), t.core.l1.map (·.dirty))) = some ([0x200], [0]) := by decide +kernel
theorem test_cinv : after (.cinv .pkg 2) dirtied (fun t => ((writesOf t 0).map (·.mask), t.core.l1.length)) = some ([1], 0) := by decide +kernel
theorem test_cpref : after (.cpref .dflt 2) addrs (fun t => (t.core.fills.map (·.line), t.core.cx.pc)) = some ([0x200], 4) := by decide +kernel
/-- A source and a destination of the other bank cover the range: bits 0, 1 and 2 (R321). -/
theorem test_rlq : after (.rlq 6 1 5) (px [(6, 16)] (modCore (fun c => { c with locks :=
    [⟨0xFFFFFF0000020000, 0xFFFFFF0000020008, false, false, .cq, 1, 1⟩, ⟨0xFFFFFF000002000F, 0xFFFFFF0000020020, true, true, .mq, 1, 2⟩] }) addrs))
    (fun t => readX t 5) = some 7 := by decide +kernel

/-- The places of the own scratchpad, of the DRAM page and of the page of host space. -/
def ownPlace : Place := ⟨ownKey, .own, .uncached, false, true, false⟩
/-- The DRAM page. -/
def dramPlace : Place := ⟨0x10000, .dram, .cached, false, true, false⟩
/-- The page of host space. -/
def hostPlace : Place := ⟨2 ^ 51, .host, .device, false, true, false⟩

/-- A lock on the first 8 bytes of the own scratchpad's page. -/
def lockedOwn : State := modCore (fun c => { c with locks := [⟨0xFFFFFF0000020000, 0xFFFFFF0000020008, false, false, .cq, 1, 1⟩] }) addrs

theorem places : resolve addrs ownVa 8 .read = .ok ownPlace ∧ resolve addrs ownVa 8 .write = .ok ownPlace ∧ resolve addrs ownVa 8 .amo = .ok ownPlace
    ∧ resolve addrs 0x400000 8 .read = .ok dramPlace ∧ resolve addrs 0x400000 8 .write = .ok dramPlace ∧ resolve addrs 0x400000 8 .amo = .ok dramPlace
    ∧ resolve addrs 0x500000 8 .read = .ok hostPlace ∧ resolve addrs 0x500000 8 .write = .ok hostPlace
    ∧ resolve addrs 0x600000 8 .read = .error 13 ∧ resolve addrs 0x600000 8 .write = .error 15 := by decide +kernel

/-- A state in which the DRAM line is under a range lock at its last byte. -/
def lockedDram : State := modCore (fun c => { c with locks := [⟨0x40007F, 0x400080, true, false, .cq, 1, 1⟩] }) addrs

/-- A load of the own scratchpad does not leave the core; one of a CACHED line does, unless L1 has its bytes; nothing stands in its way. -/
theorem witness_open : (Say.Open addrs ownVa 8 .read ownPlace ∧ Say.Open addrs 0x400000 8 .read dramPlace)
    ∧ (Say.Open dirtied 0x400000 1 .read dramPlace ∧ Say.Open (answered addrs) 0x400000 8 .read dramPlace)
    ∧ Say.leaves addrs ownPlace 8 = false ∧ Say.leaves addrs dramPlace 8 = true ∧ Say.leaves dirtied dramPlace 1 = false
    ∧ addrs.core.cx.ans = none ∧ (answered addrs).core.cx.ans ≠ none := by
  unfold Say.Open
  refine ⟨?_, ?_, ?_⟩ <;> decide +kernel

/-- A store of the context to host space under way. -/
def storing : State := modCx (fun c => { c with late := [⟨none, [⟨0, ⟨9, 8, 0, 7, 8, 0, 0, 0, 0, false⟩, [(2 ^ 51, 1)]⟩]⟩] }) addrs

/-- The other clauses about loads: the last bytes of a line, the first offset that crosses it, a locked byte and the first that is
not, a page to be walked, poison, and the host's answers. -/
theorem witness_loads : ownVa.toNat % 128 + 8 ≤ 128 ∧ (ownVa + 120).toNat % 128 + 8 ≤ 128 ∧ (ownVa + 121).toNat % 128 + 8 > 128
    ∧ locked addrs.core ownVa 8 = false ∧ locked lockedOwn.core (ownVa + 7) 1 = true ∧ locked lockedOwn.core (ownVa + 8) 1 = false
    ∧ tlbMiss addrs 0x600000 .read = true ∧ tlbMiss addrs 0x500000 .read = false ∧ locked addrs.core 0x600000 8 = false
    ∧ (answered addrs).core.cx.ans = some 0 ∧ (refused addrs).core.cx.ans = some 1 ∧ hostBusy addrs = false ∧ hostBusy storing = true
    ∧ gotLine (served addrs) 0x200 = some 0x9211 ∧ gotLine (answered addrs) 0x200 = none ∧ dramPlace.loc = .dram ∧ hostPlace.loc = .host ∧ devBusy (answered addrs) = false
    ∧ (let s := { addrs with poison := [lineOf ownKey] }; poisoned s ownKey 8 = true ∧ behind s (lineOf ownKey) = false ∧ tlbMiss s ownVa .read = false)
    ∧ bankOfKey hostPlace.key = none ∧ devBusy addrs = false ∧ poisoned addrs (2 ^ 51) 8 = false := by decide +kernel

/-- A store into the own scratchpad, into a CACHED page and to host space; one with no translation and one onto poison. -/
theorem witness_stores : (ownVa + 121).toNat % 128 + 8 > 128 ∧ locked lockedOwn.core ownVa 8 = true ∧ locked addrs.core ownVa 8 = false
    ∧ poisoned addrs ownKey 8 = false ∧ lineHeld addrs (lineOf ownKey) = false ∧ l1Poison addrs 0x10000 = false ∧ devBusy addrs = false
    ∧ poisoned { addrs with poison := [lineOf ownKey] } ownKey 8 = true ∧ 0x10000 % 128 + 8 ≤ 128 ∧ ownKey % 128 + 8 ≤ 128
    ∧ hostPlace.ty = .device ∧ hostPlace.key % 128 + 8 ≤ 128
    ∧ hostBusy storing = true ∧ (∃ w ∈ writesOf (sendWrite ⟨0x300, 1, 1, Placing.dflt, true, false, none⟩ addrs) 0, w.dev = true) := by decide +kernel

/-- Read-modify-writes: an aligned and a misaligned address; a release that waits, and one that need not; an access that waits for its home, and
whose answer has come. -/
theorem witness_atomics : ownVa.toNat % 8 = 0 ∧ (ownVa + 4).toNat % 8 ≠ 0 ∧ (ownVa + 1).toNat % 4 ≠ 0
    ∧ tlbMiss addrs ownVa .amo = false ∧ tlbMiss addrs 0x400000 .amo = false
    ∧ storesOut (Say.released (some .pkg) (lineOf ownKey) dirtied) = true ∧ storesOut (Say.released (some .pkg) (lineOf ownKey) addrs) = false
    ∧ poisoned addrs ownKey 8 = false ∧ Say.Clear true ownPlace (Say.released (some .pkg) (lineOf ownKey) addrs) ∧ Say.Clear false ownPlace addrs
    ∧ (answered addrs).core.cx.ans ≠ none ∧ poisoned (answered addrs) 0x10000 8 = false
    ∧ Say.Clear true dramPlace (flushOwn dramPlace (answered addrs)) := by
  unfold Say.Clear; decide +kernel

/-- A reservation of the DRAM line, at a core cycle count. -/
def reserved (n : Nat) : State := answered (modCore (fun c => { c with cycles := n }) { addrs with resv := [⟨0, false, 0, 0x200, 0⟩] })

/-- LR and SC: on a page that takes them and on the scratchpad, with a reservation one cycle short of its end, and at it. -/
theorem witness_reservations : ¬(ownPlace.loc = .dram ∧ ownPlace.ty = .cached) ∧ dramPlace.loc = .dram ∧ dramPlace.ty = .cached
    ∧ tlbMiss addrs 0x400000 .write = false ∧ tlbMiss addrs ownVa .write = false ∧ tlbMiss addrs ownVa .read = false
    ∧ storesOut (writeBackShared dirtied) = true ∧ storesOut (writeBackShared addrs) = false
    ∧ needsFlush (answered addrs) 0x200 = false ∧ behind (flushOwn dramPlace (answered addrs)) 0x200 = false ∧ poisoned (answered addrs) 0x10000 8 = false
    ∧ (let s := reserved 4095
       Say.Clear true dramPlace (flushOwn dramPlace s) ∧ poisoned s 0x10000 8 = false ∧ s.core.cx.ans ≠ none
        ∧ ∃ r ∈ s.resv, (r.core = s.core.num ∧ r.bank = s.core.bank.num ∧ r.ctx = s.core.cx.id) ∧ r.line = 0x200 ∧ s.core.cycles < r.cycle + 4096)
    ∧ (let s := reserved 4096
       Say.Clear true dramPlace (flushOwn dramPlace s)
        ∧ ¬∃ r ∈ s.resv, (r.core = s.core.num ∧ r.bank = s.core.bank.num ∧ r.ctx = s.core.cx.id) ∧ r.line = 0x200 ∧ s.core.cycles < r.cycle + 4096) := by
  unfold Say.Clear; decide +kernel

/-- Fences with empty and other sets, with and without a write under way; LDACQ and STREL, at once, sent, and answered. -/
theorem witness_fences : (0 : BitVec 4) = 0 ∧ (1 : BitVec 4) ≠ 0 ∧ (2 : BitVec 2) ≠ 0
    ∧ storesOut (writeBackShared dirtied) = true ∧ storesOut (writeBackShared addrs) = false ∧ storesOut addrs = false
    ∧ storesOut (modCx (fun c => { c with late := [⟨some (0, ⟨9, 8, 0, 15, 8, 0, 0, 0, 0, false⟩), []⟩] }) addrs) = true
    ∧ tlbMiss addrs 0x400000 .read = false ∧ needsFlush addrs 0x200 = false ∧ behind (flushOwn dramPlace (answered addrs)) 0x200 = false
    ∧ devBusy addrs = false ∧ storePoison addrs ownPlace 8 = false ∧ ownKey % 128 + 8 ≤ 128
    ∧ storesOut (Say.released (some .sys) (lineOf ownKey) (flushOwn ownPlace dirtied)) = true
    ∧ storesOut (Say.released (some .sys) (lineOf ownKey) (flushOwn ownPlace addrs)) = false ∧ lineHeld addrs (lineOf ownKey) = false := by decide +kernel

/-- CFLUSH and CINV of a window, of host space, of a locked line, of a line that L1 has and of one that it lacks. -/
theorem witness_cache_operations : inWindow ownVa = true ∧ inWindow 0x400000 = false ∧ inWindow 0x500000 = false ∧ hostPlace.loc = .host ∧ dramPlace.loc ≠ .host
    ∧ locked addrs.core (BitVec.ofNat 64 (0x400000 / 128 * 128)) 128 = false ∧ locked lockedDram.core (BitVec.ofNat 64 (0x400000 / 128 * 128)) 128 = true
    ∧ tlbMiss addrs 0x400000 .read = false ∧ l1Find addrs.core 0x200 = none ∧ (∃ x, l1Find dirtied.core 0x200 = some x ∧ x.dirty ≠ 0)
    ∧ resolve addrs 0x400000 1 .read = .ok dramPlace ∧ resolve addrs 0x500000 1 .read = .ok hostPlace := by
  refine ⟨rfl, rfl, rfl, rfl, nofun, rfl, rfl, rfl, rfl, ⟨_, rfl, ?_⟩, rfl, rfl⟩
  decide

/-- A FENCE with rd nonzero and an empty predecessor set is a hint: it decodes, and does nothing (R284). -/
theorem test_fence_hint : decodeTableWord 32 0x0030028F = some (.fence 0 0 3 0 5)
    ∧ after (.fence 0 0 3 0 5) dirtied (fun t => (t.core.l1.map (·.dirty), t.core.cx.pc)) = some ([1], 4) := by decide +kernel

/-! ### Vector memory (R347 to R355) -/

/-- Bytes 1 to 8 at the own scratchpad's page; p1 has byte 1 set. -/
def vmem : State := writeP 1 2 (pv [(2, 0x03020100)] (px [(5, 4)] (pm [(ownKey, [1, 2, 3, 4, 5, 6, 7, 8])] addrs)))

/-- With z = 1 the inactive elements of a load become zero; with z = 0 every element is active. -/
theorem test_vld_inactive_zero : after (.vld .b 1 .dflt true 3) (pv [(3, -1)] vmem) (el 32 0 3) = some 0x0200 := by decide +kernel
theorem test_vlds_stride : after (.vlds .b 5 1 .dflt false 3) vmem (el 16 0 3) = some 0x0501 := by decide +kernel
theorem test_vldx_index : after (.vldx .b 2 1 false 3) vmem (el 32 0 3) = some 0x04030201 := by decide +kernel
theorem test_vldb : after (.vldb .h 1 .dflt 3) vmem (el 64 15 3) = some 0x0201020102010201 := by decide +kernel
theorem test_vst_masked : after (.vst .b 1 .dflt true 3) (pv [(3, 0xCCBBAA)] vmem) (fun t => memRead t.mem ownKey 4) = some [1, 0xBB, 3, 4] := by decide +kernel
/-- Elements of 4 bytes at a stride of 0 all go to one place: the highest stays (R348). -/
theorem test_vsts_order : after (.vsts .w 0 1 .dflt false 3) (pv [(3, 7), (3, 7 * 2 ^ 992)] vmem) (fun t => memRead t.mem ownKey 4)
    = some [7, 0, 0, 0] := by decide +kernel
theorem test_vstx : after (.vstx .b 2 1 true 3) (pv [(3, 0xCCBBAA)] vmem) (fun t => memRead t.mem ownKey 4) = some [1, 0xBB, 3, 4] := by decide +kernel
theorem test_vstm_predicate : after (.vstm .b 2 1 .dflt 3) (writeP 2 4 (pv [(3, 0xCCBBAA)] vmem)) (fun t => memRead t.mem ownKey 4) = some [1, 2, 0xCC, 4] := by decide +kernel
/-- Lane slices of 1 KiB from dpoolb0 on (R115, R353): a store and a load of every lane at offset 4. -/
def laned : State := px [(1, 4)] (modCore (fun c => { c with dpoolb1 := 0x1B800 + 32768 }) State.reset)
theorem test_vstl_lane : after (.vstl .w 1 false 3) (pv [(3, 9 * 2 ^ 32)] laned) (fun t => memRead t.mem (poolKey 0 (0x1B800 + 1024 + 4)) 4)
    = some [9, 0, 0, 0] := by decide +kernel
theorem test_vldl_lane : after (.vldl .w 1 false 3) (pm [(poolKey 0 (0x1B800 + 31 * 1024 + 4), [5, 6])] laned) (el 32 31 3) = some 0x605 := by decide +kernel
theorem test_vamo_order : after (.vamo .w .add 0 1 3) (pv [(3, 5 + 6 * 2 ^ 32)] vmem) (fun t => memNat t.mem ownKey 4) = some (0x04030201 + 11) := by decide +kernel
theorem test_vpref : after (.vpref .w 2 .nt) addrs (fun t => t.core.fills.map (·.line)) = some [0x200] := by decide +kernel

/-- Elements at the two ends of the own scratchpad; an element of one byte past its end is not its own. -/
theorem witness_own : Say.Own addrs (BitVec.ofNat 64 (ownWindow + 0x1B800)) 8 ∧ Say.Own addrs (BitVec.ofNat 64 (ownWindow + 0xDFFF8)) 8
    ∧ ¬Say.Own addrs (BitVec.ofNat 64 (ownWindow + 0xE0000)) 1 := by unfold Say.Own; decide +kernel
/-- All elements of a load, a store and a VAMO of words; the offsets of a lane slice; VAMO's widths. -/
theorem witness_vector_memory :
    (∀ j, j < 32 → active 4 (zPred vmem true) j = true → Say.Own vmem (readX vmem 1 + BitVec.ofNat 64 (4 * j)) 4)
    ∧ (∀ j, j < 32 → Say.Own vmem (readX vmem 1 + (Say.lane 32 (readV vmem 3) j).zeroExtend 64) 4)
    ∧ Memory.wf vmem.mem = true ∧ (readX laned 1).toNat % 4 = 0 ∧ (readX laned 1).toNat + 4 ≤ laneSize laned.core
    ∧ (∀ l, l < 32 → locked laned.core (BitVec.ofNat 64 (ownWindow + laneOff laned.core l (readX laned 1).toNat)) 4 = false
        ∧ poisoned laned (poolKey laned.core.num (laneOff laned.core l (readX laned 1).toNat)) 4 = false
        ∧ ∀ b, b < 4 → lineHeld laned (lineOf (poolKey laned.core.num (laneOff laned.core l (readX laned 1).toNat) + b)) = false)
    ∧ vamoOk .w .faddF32 = true ∧ vamoOk .d .faddF32 = false ∧ vamoOk .h .add = false := by
  unfold Say.Own; and_intros <;> decide +kernel
/-- A prefetch of a CACHED line that L1 lacks. -/
theorem witness_prefetch : ∃ p, prefetchPlace addrs (readX addrs 2) = some p ∧ p.ty = .cached ∧ l1Find addrs.core (lineOf p.key) = none :=
  ⟨dramPlace, rfl, rfl, rfl⟩

/-! ### Traps and records (chapter 11) -/

/-- Entry to the handler: PE and frm are saved with the pc, and PE is cleared (R243). -/
theorem test_handler_entry : after .ebreak (modCx (fun c => { c with pc := 0x40, frm := 5 }) (handled State.reset))
    (fun t => ((t.core.cx.dtpc, t.core.cx.dtcause, t.core.cx.dtval), t.core.cx.dtstat, t.core.cx.pc, t.core.cx.hm, t.core.cx.pe))
    = some ((0x40, 3, 0x40), 0x2C0, 0x1000, true, false) := by decide +kernel
theorem test_ecall_user : after .ecall (handled State.reset) (fun t => t.core.cx.dtcause) = some 8 := by decide +kernel
theorem test_illegal : after (.illegalInstruction 0xFFFFFFFF) (handled State.reset) (fun t => (t.core.cx.dtcause, t.core.cx.dtval)) = some (2, 0xFFFFFFFF) := by decide +kernel
theorem test_fetch_fault : after (.instructionFetchFault 12) (modCx (fun c => { c with pc := 0x88 }) (handled State.reset))
    (fun t => (t.core.cx.dtcause, t.core.cx.dtval)) = some (12, 0x88) := by decide +kernel
/-- A trap without a registered handler stops the bank (R241). -/
theorem test_no_handler : after .ebreak State.reset (fun t => t.core.bank.stopped) = some true := by decide +kernel
theorem test_hret : after .hret (modCx (fun c => { c with hm := true, pe := false, dtstat := 0x1C0, dtpc := 0x44 }) State.reset)
    (fun t => (t.core.cx.pc, t.core.cx.pe, t.core.cx.frm, t.core.cx.hm)) = some (0x44, true, 3, false) := by decide +kernel
theorem test_hret_outside : after .hret (handled State.reset) (fun t => (t.core.cx.dtcause, t.core.cx.dtval)) = some (2, 0x700B) := by decide +kernel

/-- A record of a store at 0x99. -/
def rec9 : Rec := ⟨0x99, 8, 0x40, 15, 8, 0, 0, 0, 3, false⟩
/-- A context with a record. -/
def recorded : State := modCx (fun c => { c with recs := [rec9], lost := 2, st := .ready }) (handled State.reset)
theorem test_fltpop : after (.fltpop 3 5) recorded (fun t => (el 64 0 3 t, el 64 2 3 t, readX t 5, t.core.cx.recs.length)) = some (0x99, 0x40, 0, 0) := by decide +kernel
theorem test_fltpop_empty : after (.fltpop 3 5) (pv [(3, 7)] State.reset) (fun t => (el 64 0 3 t, readX t 5)) = some (7, -1) := by decide +kernel
theorem test_fltcnt : after (.fltcnt 5) recorded (fun t => readX t 5) = some 0x20001 := by decide +kernel
theorem test_store_fault_trap : after .asyncStoreFaultTrap recorded (fun t => (t.core.cx.dtcause, t.core.cx.dtval)) = some (0x123, 0x99) := by decide +kernel
theorem test_record_lost : after (.storeFaultRecord false 0 0) (modCx (fun c => { c with recs := List.replicate 8 rec9, late := [⟨some (0, rec9), []⟩] }) State.reset)
    (fun t => (t.core.cx.recs.length, t.core.cx.lost, t.core.cx.late.length)) = some (8, 1, 0) := by decide +kernel

/-- The two paths of a trap, and where they meet: MODE 1 with and without handler mode, cause 0x21, M-mode. -/
theorem witness_traps : (handled State.reset).core.priv ≠ .m ∧ (handled State.reset).core.cx.dtvec.extractLsb' 0 2 = 1
    ∧ (handled State.reset).core.cx.hm = false ∧ (0x23 : BitVec 8) ≠ 0x21 ∧ State.reset.core.cx.dtvec.extractLsb' 0 2 ≠ 1 ∧ machine.core.priv = .m
    ∧ recorded.core.cx.recs = [rec9] ∧ recorded.core.cx.st ≠ .free ∧ recorded.core.bank.stopped = false ∧ recorded.core.swap = none := by decide +kernel
/-- HRET in handler mode with a legal and with a reserved dtstat, and outside. -/
theorem witness_hret : BitVec.extractLsb' 10 54 (0x3C0 : Word) = 0 ∧ BitVec.extractLsb' 10 54 (0x400 : Word) ≠ 0 ∧ State.reset.core.cx.hm = false := by decide +kernel
/-- A store with one element that has failed here and one that the host may refuse: the lower one is recorded. -/
def lateBoth : Late := ⟨some (2, rec9), [⟨1, { rec9 with va := 0x88 }, [(2 ^ 51, 5)]⟩]⟩

/-- Where the device's failure and the host's meet in one store, the lowest failing element is recorded (R247). -/
theorem test_one_record : after (.storeFaultRecord false 0 2) (modCx (fun c => { c with late := [lateBoth] }) State.reset)
    (fun t => (t.core.cx.recs.map (·.va), memRead t.mem (2 ^ 51) 1)) = some ([0x88], [0]) := by decide +kernel
theorem test_host_element_performs : after (.storeFaultRecord false 0 0) (modCx (fun c => { c with late := [lateBoth] }) State.reset)
    (fun t => (t.core.cx.recs.map (·.va), memRead t.mem (2 ^ 51) 1)) = some ([0x99], [5]) := by decide +kernel

/-- A late store that nothing holds up: with a failure, with none, and the records' number below 8 and at it. -/
theorem witness_records : (let s := modCx (fun c => { c with late := [lateBoth] }) State.reset
      hostOut s s.core.num s.core.bank.num s.core.cx.id lateBoth = false ∧ s.ms.heldW = [] ∧ s.core.cx.recs = [])
    ∧ (∀ x ∈ lateBoth.bad.toList, x.1 = 2) ∧ (List.replicate 7 rec9).length < 8 ∧ 8 ≤ (List.replicate 8 rec9).length
    ∧ recorded.core.cx.recs.length ≤ 8 ∧ State.reset.core.cx.behind = 0 := by decide +kernel
/-- No line is held after reset. -/
theorem witness_no_line_held (k : Nat) : lineHeld (modCx (fun c => { c with late := [lateBoth] }) State.reset) k = false := rfl

/-! ### Stops (R64, R253 to R255) -/

/-- A stage's launch, and the stage at core 0. -/
def bound1 : Bound := ⟨1, 0, 0, 1, 7, 0, 0x1000, none, 1, 10, none, 0, 0, false⟩
/-- Its launch. -/
def launch1 : Launch :=
  { id := 1, asid := 0, ring := 0, lid := 7, stamp := 0, const := 0, image := 0, groves := 1, prio := 1, prereqs := [], stages := [],
    bal := [], st := .running, placed := [⟨0, false, 0, 0, false⟩], origin := none, starters := [], resumable := false, passed := 0, haltPa := 0, haltVa := 0, stampKey := 0, early := false, haltedAt := 0 }
/-- Core 0 runs the launch, enabled on channel 3, which its active bank holds. -/
def running : State :=
  { modCore (fun c => { c with cx := { c.cx with st := .ready }, bank := { c.bank with bound := some bound1 }, dmemb := 0x8000
                               chans := c.chans.set 3 ⟨false, false, false, some false⟩ }) (handled State.reset) with
    root := { Root.reset with launches := [launch1], procs := [⟨0, 0, 1, false, [], []⟩], parts := [⟨1, 1, [], [], none⟩] } }

theorem test_gstop : after (.gstop 3) running (fun t => (t.core.bank.stopped, t.root.launches.map (·.st))) = some (true, [.halting]) := by decide +kernel
theorem test_gstop_other_channel : after (.gstop 2) running (fun t => t.core.cx.dtcause) = some 2 := by decide +kernel
theorem test_ecc_slot : after (.eccFatalError (.slot false 0)) running (fun t => t.core.bank.stopped) = some true := by decide +kernel
theorem test_halt_wire : after .haltWire (modCore (fun c => { c with halts := [⟨1, none, 1, 5, 0, 0, true⟩] }) running)
    (fun t => (t.core.bank.stopped, t.core.halts.length)) = some (true, 0) := by decide +kernel
theorem test_launch_halt : after (.launchHalt 1) { running with root := { running.root with launches := [{ launch1 with st := .halting, origin := some ⟨none, 3, 0⟩ }] } }
    (fun t => t.core.halts.map (·.launch)) = some [1] := by decide +kernel

/-- A swap under way. -/
def swapping : Swap := ⟨false, false, [], []⟩

/-- The two banks of core 0 in each other's place: the launch is in the shadow bank, which holds channel 3. -/
def shadowed : State := modCore (fun c => { c with bank := c.shadow, shadow := c.bank }) running

/-- Halts that come on a channel: the shadow bank holds it still, or holds it no longer; a bank that halts, and one that waits for a swap. -/
theorem witness_channel_halts : (enOf shadowed.core 3 = true ∧ (shadowed.core.chans[3]).owner = some false ∧ shadowed.core.bank.num = true)
    ∧ ¬(enOf shadowed.core 2 = true ∧ (shadowed.core.chans[2]).owner = some false)
    ∧ (shadowed.core.bankOf false).bound = some bound1 ∧ (shadowed.core.bankOf true).bound = none ∧ shadowed.core.swap = none ∧ bound1.left = false
    ∧ (modCore (fun c => { c with swap := some swapping }) shadowed).core.swap = some swapping := by decide +kernel
/-- A halt on channel 3 stops the shadow bank that holds it; one on channel 2 is dropped (R61). -/
theorem test_halt_on_channel : after .haltWire (modCore (fun c => { c with halts := [⟨1, some 3, 1, 5, 0, 0, true⟩] }) shadowed)
      (fun t => ((t.core.bankOf false).stopped, t.core.halts.length)) = some (true, 0)
    ∧ after .haltWire (modCore (fun c => { c with halts := [⟨1, some 2, 1, 5, 0, 0, true⟩] }) shadowed)
      (fun t => ((t.core.bankOf false).stopped, t.core.halts.length)) = some (false, 0) := by decide +kernel

/-- What HaltsAndStops asks: a channel of the bank and one that is not, a live slot, a bound bank, a queue entry, a swap, places in the pool and in
DRAM, a halt that reaches the core, and the launch of the core, halting. -/
theorem witness_stops : (enOf running.core 3 = true ∧ (running.core.chans[3]).owner = some running.core.bank.num ∧ ¬enOf running.core 2 = true)
    ∧ (∃ x, running.core.ctx? false 0 = some x ∧ x.st ≠ .free) ∧ running.core.bank.bound = some bound1 ∧ bound1.left = false
    ∧ running.core.shadow.bound = none ∧ running.core.swap = none ∧ running.core.halts = [] ∧ running.core.bank.stopped = false
    ∧ (modCore (fun c => { c with swap := some swapping }) running).core.swap = some swapping ∧ (5 : Nat) < 1572864
    ∧ isDramKey 0x10000 = true ∧ paExists 0x10000 = true ∧ (let m : HaltMsg := ⟨1, none, 1, 5, 0, 0, true⟩; m.terminal = true ∧ m.chan = none ∧ m.launch = bound1.launch)
    ∧ (let l := { launch1 with st := .halting, origin := some ⟨none, 3, 0⟩ }
       launch? { running with root := { running.root with launches := [l] } } 1 = some l ∧ l.resumable = false ∧ ∃ p ∈ l.placed, p.core = running.core.num) := by
  refine ⟨by decide +kernel, ⟨running.core.cx, rfl, nofun⟩, ?_⟩
  and_intros <;> decide +kernel

/-! ### Contexts, helpers, stages and swaps (chapters 5 and 14) -/

/-- A context that is ready. -/
def readyCtx (id : Nat) : Ctx := { Ctx.reset id with st := .ready }
/-- The control context and helper 2 of the running stage. -/
def helped : State := modBank (fun b => { b with ctxs := [readyCtx 2] }) running

theorem test_quantum : after .quantumExpiry (modBank (fun b => { b with used := 4096 }) helped) (fun t => (t.core.cx.id, t.core.bank.used)) = some (2, 0) := by decide +kernel
theorem test_remote_data : after (.remoteDataReturn false 0 5 []) (modCx (fun c => { c with st := .waiting .host }) running)
    (fun t => (t.core.cx.st, t.core.cx.ans)) = some (.ready, some 5) := by decide +kernel
/-- Helper 1 starts with its argument in x10, its stack in x2 and the handler of its parent (R307). -/
theorem test_hstart : after (.hstart 6 5 7) (px [(5, 0x80), (6, 9)] (modBank (fun b => { b with dhstack := 0x1000, dhstksz := 0x100 }) helped))
    (fun t => (readX t 7, t.core.bank.ctxs.map (·.id), (t.core.bank.ctxs.map fun x => (x.x[10], x.x[2], x.pc)).head?)) = some (1, [1, 2], some (9, 0x1200, 0x80)) := by
  decide +kernel
theorem test_hstart_misaligned : after (.hstart 6 5 7) (px [(5, 0x82)] helped) (fun t => (t.core.cx.dtcause, t.core.cx.dtval)) = some (0, 0x82) := by decide +kernel
theorem test_hjoin_free : after (.hjoin 5 6) (px [(5, 1), (6, 9)] helped) (fun t => readX t 6) = some 0 := by decide +kernel
theorem test_hjoin_live : after (.hjoin 5 6) (px [(5, 2)] helped) (fun t => t.core.cx.id) = some 2 := by decide +kernel
theorem test_hlive : after (.hlive 5) helped (fun t => readX t 5) = some 5 := by decide +kernel
theorem test_hexit_control : after .hexit helped (fun t => t.core.cx.dtcause) = some 2 := by decide +kernel
theorem test_hexit_wakes_join : after .hexit (modCore (fun c => { c with cx := readyCtx 2, bank := { c.bank with ctxs := [{ readyCtx 0 with st := .waiting (.join 2) }] } }) running)
    (fun t => (t.core.cx.id, t.core.cx.st, t.core.bank.ctxs.length)) = some (0, .ready, 0) := by decide +kernel
theorem test_yield : after .yield helped (fun t => (t.core.cx.id, t.core.bank.ctxs.map (·.pc))) = some (2, [4]) := by decide +kernel
theorem test_stgend : after .stgend running (fun t => (t.core.cx.st, t.core.bank.bound.isNone)) = some (.free, true) := by decide +kernel
theorem test_stgend_waits : after .stgend helped (fun t => t.core.bank.ctxs.map (·.st)) = some [.waiting .helpers] := by decide +kernel
theorem test_stgbind_none : after .stgbind running (fun t => t.core.cx.dtcause) = some 2 := by decide +kernel
theorem test_shswap_user : after .shswap running (fun t => t.core.cx.dtcause) = some 2 := by decide +kernel

/-- A second launch of a higher class in the shadow bank, just bound. -/
def doubled : State := modCore (fun c => { c with fresh := some true, shadow := { c.shadow with ctxs := [readyCtx 0], bound := some { bound1 with launch := 2, prio := 2 } } }) running
theorem test_shswap : after .shswap (modCore (fun c => { c with priv := .m, dsave0 := 0x80 }) doubled) (fun t => (t.core.swap.isSome, t.core.spilling, t.core.priv))
    = some (true, some false, .u) := by decide +kernel
theorem test_shadow_swap : after .shadowSwap doubled (fun t => t.core.swap) = some (some ⟨false, false, [], []⟩) := by decide +kernel
theorem test_swap_complete : after .swapComplete (modCore (fun c => { c with swap := some ⟨false, false, [], []⟩ }) doubled)
    (fun t => (t.core.bank.num, t.core.shadow.bound.map (·.launch), t.core.cycles)) = some (true, some 1, 24) := by decide +kernel
/-- Every context of the bank has waited longer than WAIT, and the shadow bank has a ready one: M-mode is entered (R104). -/
def yielding : State := modCore (fun c => { c with cycles := 101, cx := { c.cx with st := .waiting .remote, pc := 0x40 }, bank := { c.bank with dyield := 100 } }) doubled
theorem test_yield_event : after .yieldEvent yielding (fun t => (t.core.priv, t.core.yev, t.core.mcsr.mepc)) = some (.m, true, 0x40) := by decide +kernel
theorem test_yield_event_early : after .yieldEvent (modCore (fun c => { c with cycles := 100 }) yielding) (fun t => t.core.priv) = some .u := by decide +kernel
/-- The outgoing bank's x5 is 7: it goes to byte 40 of the slot of context 0 (R118). -/
def spilling : State := modCore (fun c => { c with spilling := some true, dsave1 := 0x10000, shadow := { c.shadow with ctxs := [{ readyCtx 0 with x := c.cx.x.set 5 7 }] } }) doubled
theorem test_spill : (slotImage { readyCtx 0 with x := (Ctx.reset 0).x.set 5 7 })[40]? = some 7
    ∧ after .spillComplete (modCore (fun c => { c with dsave1 := -1 }) spilling) (fun t => (t.core.shadow.spilled, t.core.spilling)) = some (true, none) := by decide +kernel
theorem test_fill : after .fillComplete (pm [(0x10000 + 40, [9])] (modCore (fun c => { c with swap := some ⟨false, true, [], []⟩, shadow := { c.shadow with spilled := true } }) spilling))
    (fun t => (t.core.shadow.ctxs.map (fun x => x.x[5]), t.core.swap.map (·.fill))) = some ([9], some false) := by decide +kernel

/-- An instruction that waits hands the core to the next ready context (R98). -/
theorem test_wait_switches : (waitFor .remote helped).core.cx.id = 2 ∧ (waitFor .remote helped).core.bank.used = 0
    ∧ (waitFor .remote running).core.cx.st = .waiting .remote ∧ (waitFor .remote running).core.bank.seek = true := by decide +kernel

/-- ContextSwitches: the quantum spent and one instruction short of it, another context ready and none, data that returns. -/
theorem witness_switches : helped.core.priv = .u ∧ helped.core.cx.id < 11 ∧ helped.core.cx.st ≠ .free ∧ (∀ x ∈ helped.core.bank.ctxs, x.id ≠ helped.core.cx.id)
    ∧ helped.core.bank.ctxs.Pairwise (fun x y => x.id < y.id) ∧ helped.core.mwsw = false
    ∧ helped.core.bank.dquantum.toNat ≤ (modBank (fun b => { b with used := 4096 }) helped).core.bank.used ∧ ¬helped.core.bank.dquantum.toNat ≤ 4095
    ∧ Say.NextReady helped 2
    ∧ (let s := modBank (fun b => { b with ctxs := [{ readyCtx 2 with st := .waiting .host }] }) running
       askedOut s 0 false 2 = false ∧ (s.core.ctx? false 2).map (·.st) = some (.waiting .host) ∧ 2 ≠ s.core.cx.id)
    ∧ (let s := modCx (fun c => { c with st := .waiting .remote }) running
       askedOut s 0 false 0 = false ∧ (s.core.ctx? false 0).map (·.st) = some (.waiting .remote)) := by
  unfold Say.NextReady; decide +kernel
/-- Context 2 waits for the west die's answer. -/
def hostWaiting : State :=
  let s := modBank (fun b => { b with ctxs := [{ readyCtx 2 with st := .waiting .host }] }) running
  { s with io := { s.io with asked := [(⟨0, false, 2, some 0⟩, 6144)] } }
/-- Its way is open, and not while the core's region relocks. -/
theorem witness_host_answers : (∀ a ∈ hostAsked hostWaiting false 2, clearWay hostWaiting .ext a.2 (twigOf hostWaiting.core.num) = true)
    ∧ (hostAsked hostWaiting false 2).length = 1 ∧ askedOut hostWaiting 0 false 2 = false ∧ hostWaiting.core.cx.st = .ready
    ∧ (let s := modFab (fun f => { f with rclk := [(0, { rclkOf State.reset 0 with relock := true })] }) hostWaiting
       ∃ a ∈ hostAsked s false 2, clearWay s .ext a.2 (twigOf s.core.num) = false) := by decide +kernel
/-- With no other context, and the current one waiting, no context is ready. -/
theorem witness_none_ready (i : Nat) : ¬Say.NextReady (modCx (fun c => { c with st := .waiting .remote }) running) i := by
  rintro ⟨k, -, -, ⟨x, hx, -, hs⟩, -⟩
  have h : (modCx (fun c => { c with st := .waiting .remote }) running).core.ctxsOf (modCx (fun c => { c with st := .waiting .remote }) running).core.bank.num
      = [(modCx (fun c => { c with st := .waiting .remote }) running).core.cx] := rfl
  rw [h, List.mem_singleton] at hx
  subst hx
  exact absurd hs (by decide +kernel)

/-- Helpers: a ring of contexts, ids 1 and 2 free and live, all ten live, an entry that is and one that is not a multiple of 4, the ends of
HJOIN's range. -/
theorem witness_helpers : Say.Ring helped ∧ helped.core.cx.id = 0 ∧ Say.Live helped 2 ∧ ¬Say.Live helped 1 ∧ slotFree helped.core = true
    ∧ BitVec.extractLsb' 0 2 (0x80 : Word) = 0 ∧ BitVec.extractLsb' 0 2 (0x82 : Word) ≠ 0
    ∧ (let s := modBank (fun b => { b with ctxs := (List.range 10).map fun i => readyCtx (i + 1) }) running
       Say.Ring s ∧ ∀ id, id < 11 → 1 ≤ id → Say.Live s id)
    ∧ (let s := modCore (fun c => { c with cx := readyCtx 2, bank := { c.bank with ctxs := [{ readyCtx 0 with st := .waiting (.join 2) }] } }) running
       Say.Ring s ∧ s.core.cx.id ≠ 0 ∧ s.core.cx.st ≠ .free ∧ s.core.priv = .u ∧ Say.NextReady (adv helped) 2) := by
  unfold Say.Ring Say.Live Say.NextReady; decide +kernel

/-- A rebind of core 0 of the running launch to stage 1 has been delivered. -/
def rebound : State :=
  let s := modBank (fun b => { b with rebind := .delivered 1 }) running
  { s with root := { s.root with images := [⟨0, 0, ⟨0, 0x10000, [], [], [], [], [⟨0, 0, 0, 0, 0, 0, 0, 0, 0⟩], [], []⟩⟩]
                                 launches := [{ launch1 with stages := [⟨0, 1, 1, 0, 0, false, 0, 0⟩, ⟨0x100, 1, 2, 0, 0, false, 0, 0⟩] }] } }
theorem test_stgbind : after .stgbind rebound (fun t => (t.core.cx.pc, readX t 10, readX t 11, t.core.bank.bound.map (·.stage))) = some (0x10100, 0, 1, some 1) := by decide +kernel

/-- StageEndAndRebind: no helper live and one live, a record held, a bound bank, a delivered rebind whose launch has its image. -/
theorem witness_stage_end : ¬Say.Live running 2 ∧ Say.Live helped 2 ∧ running.core.cx.id = 0 ∧ storesOut running = false ∧ running.core.cx.recs = [] ∧ recorded.core.cx.recs = [rec9] ∧ storesOut recorded = false
    ∧ running.core.bank.bound = some bound1 ∧ (∀ q, ∀ e ∈ running.core.queue q, e.bank ≠ running.core.bank.num) ∧ Say.Holds doubled.core.bank
    ∧ running.core.bank.rebind = .none := by
  refine ⟨?_, ?_, ?_, ?_, ?_, ?_, ?_, ?_, fun q => ?_, ⟨?_, bound1, rfl, rfl⟩, ?_⟩
  any_goals unfold Say.Live
  any_goals cases q
  all_goals decide +kernel
/-- A rebind that has been delivered to the one core of its launch, whose image and stage are known. -/
theorem witness_rebind : rebound.core.bank.rebind = .delivered 1 ∧ rebound.core.bank.bound = some bound1 ∧ bound1.stage ≠ 1
    ∧ ∃ l p im d, launch? rebound 1 = some l ∧ (l.placed.filter fun q => q.core == 0) = [p] ∧ p.gone = false ∧ p.stage = bound1.stage
        ∧ imageOf rebound l = some im ∧ l.stages[1]? = some d := by
  refine ⟨rfl, rfl, by decide, _, _, _, _, rfl, rfl, rfl, rfl, rfl, rfl⟩
/-- Swaps: a shadow bank that holds a launch of a higher class, and one that holds none. -/
theorem witness_swaps : Say.Holds doubled.core.shadow ∧ ¬Say.Holds running.core.shadow ∧ doubled.core.priv = .u ∧ doubled.core.swap = none
    ∧ doubled.core.fresh = some doubled.core.shadow.num ∧ doubled.core.shadow.stopped = false ∧ bound1.prio < 2 ∧ doubled.core.bank.num ≠ doubled.core.shadow.num
    ∧ (∀ y ∈ doubled.core.shadow.ctxs, y.id = doubled.core.shadow.cur → y = readyCtx 0) :=
  ⟨⟨by decide +kernel, { bound1 with launch := 2, prio := 2 }, rfl, rfl⟩, (by rintro ⟨-, d, hd, -⟩; cases hd), by and_intros <;> decide +kernel⟩
/-- The yield event one cycle late enough and not; a save area; the spill's context. -/
theorem witness_yield : yielding.core.bank.dyield ≠ 0 ∧ yielding.core.yev = false
    ∧ (∀ y ∈ yielding.core.ctxsOf yielding.core.bank.num, y.st ≠ .free → y.st = .waiting .remote ∧ yielding.core.bank.dyield.toNat < yielding.core.cycles - y.since)
    ∧ (∃ y ∈ yielding.core.shadow.ctxs, y.st = .ready) ∧ State.reset.core.bank.dyield = 0 ∧ saveOk 0x10000 = true ∧ 0x10000 % 2 ^ 37 + 112640 ≤ metaOffset ∧ Memory.wf spilling.mem = true
    ∧ spilling.core.spilling = some true ∧ spilling.core.swap = none ∧ spilling.core.shadow.num = true
    ∧ (∀ y ∈ spilling.core.shadow.ctxs, y.recs.length ≤ 8) := by decide +kernel
/-- Nothing is held for replicas where no frame is shared. -/
theorem witness_no_held (l : Nat) : lineHeld spilling l = false := rfl

/-! ### Barriers, phases and monitor waits (chapters 4 and 14) -/

/-- The domain of the running launch on channel 3. -/
def dom1 : Dom := { id := 1, chan := 3, launch := 1, stage := 0, level := 1, members := [0], left := [], arrived := [], phase := false, start := 0, heldHalt := false, stopNew := false }
/-- The core has arrived on channel 3. -/
def arrived : State := modCore (fun c => { c with chans := c.chans.set 3 ⟨true, false, false, some false⟩ }) { running with fab := { Fab.reset with doms := [dom1] } }
/-- The core has not arrived, and the last flag was 1. -/
def released : State := modCore (fun c => { c with chans := c.chans.set 3 ⟨false, true, false, some false⟩ }) arrived
theorem test_barr : after (.barr 3 5) (px [(5, 3)] released) (fun t => ((t.core.chans[3]).a, t.fab.doms.map (·.arrived))) = some (true, [[(0, true, .plain)]]) := by decide +kernel
theorem test_barr_waits : after (.barr 3 5) arrived (fun t => (t.core.cx.st, t.core.cx.pc)) = some (.waiting (.barrier 3), 0) := by decide +kernel
theorem test_bwait : after (.bwait 3 5) released (fun t => readX t 5) = some 1 := by decide +kernel
theorem test_btest : after (.btest 3 5) released (fun t => readX t 5) = some 3 ∧ after (.btest 3 5) (px [(5, 9)] arrived) (fun t => readX t 5) = some 0 := by decide +kernel
theorem test_barw_marks : after (.barw 3 5 6) released (fun t => (t.core.cx.marks, t.core.cx.st)) = some ([0], .waiting (.barrier 3)) := by decide +kernel
theorem test_phcomm : after (.phcomm 3) released (fun t => t.fab.doms.map (·.arrived)) = some [[(0, false, .opening)]] := by decide +kernel
theorem test_phcomp_without_phase : after (.phcomp 3) released (fun t => t.core.cx.dtcause) = some 2 := by decide +kernel
theorem test_barrier_other_channel : after (.bwait 2 5) released (fun t => t.core.cx.dtcause) = some 2 := by decide +kernel
/-- The release of an episode is the OR of the flags, and goes to every member. -/
theorem test_top_release : after (.barrierTopRelease 1) { arrived with fab := { arrived.fab with doms := [{ dom1 with members := [0, 1], arrived := [(0, false, .plain), (1, true, .plain)] }] } }
    (fun t => (t.fab.releases.map (·.flag), t.fab.doms.map (·.arrived))) = some ([true, true], [[]]) := by decide +kernel
/-- Arrivals with different tags are a violation (R313). -/
theorem test_top_mixed : after (.barrierTopRelease 1) { arrived with fab := { arrived.fab with doms := [{ dom1 with members := [0, 1], arrived := [(0, false, .plain), (1, true, .opening)] }] } }
    (fun t => (t.fab.releases.length, t.root.launches.map (·.st))) = some (0, [.halting]) := by decide +kernel
theorem test_release_arrives : after (.barrierReleaseArrive 3) (modCx (fun c => { c with st := .waiting (.barrier 3) }) { arrived with fab := { arrived.fab with releases := [⟨0, 3, true, .opening⟩] } })
    (fun t => ((t.core.chans[3]).f, (t.core.chans[3]).a, t.core.phase, t.core.cx.st)) = some (true, false, some 3, .ready) := by decide +kernel

theorem test_mwaitge_unsigned : after (.mwaitge 6 1 5) (px [(6, 0x7F)] (modCx (fun c => { c with st := .ready }) addrs)) (fun t => (readX t 5, t.core.cx.pc))
    = some (0x880706050403FF80, 4) := by decide +kernel
theorem test_mwaiteq_reads_at_home : after (.mwaiteq 0 2 5) (modCx (fun c => { c with st := .ready }) addrs) (fun t => (t.mons, t.core.cx.st)) = some ([], .waiting .remote) := by
  decide +kernel
theorem test_mwaiteq_arms : after (.mwaiteq 0 2 5) (answered (modCx (fun c => { c with st := .ready }) addrs)) (fun t => (t.mons.map (·.line), t.core.cx.st))
    = some ([0x200], .waiting (.monitor 0x200)) := by decide +kernel
theorem test_mwaitne_host : after (.mwaitne 0 3 5) (handled (modCx (fun c => { c with st := .ready }) addrs)) (fun t => t.core.cx.dtcause) = some 5 := by decide +kernel
theorem test_monitor_wake : after (.monitorWake false 0) (modCx (fun c => { c with st := .waiting (.monitor 0x200) }) { addrs with mons := [⟨0, false, 0, 0x200, true⟩] })
    (fun t => t.core.cx.st) = some .ready := by decide +kernel
theorem test_reservation_expires : after (.reservationExpire false 0) (modCore (fun c => { c with cycles := 4096 }) { addrs with resv := [⟨0, false, 0, 1, 0⟩, ⟨1, false, 0, 2, 0⟩] })
    (fun t => t.resv.map (·.line)) = some [2] := by decide +kernel

/-- Barriers and phases: a channel of the bank, one that is not, A set and clear, a mark and none, an open phase and none. -/
theorem witness_barriers : Say.Member released 3 ∧ ¬Say.Member released 2 ∧ (arrived.core.chans[3]).a = true ∧ (released.core.chans[3]).a = false
    ∧ released.core.cx.pc ∉ released.core.cx.marks ∧ (modCx (fun c => { c with marks := [0] }) released).core.cx.pc ∈ (modCx (fun c => { c with marks := [0] }) released).core.cx.marks
    ∧ released.core.phase = none ∧ (modCore (fun c => { c with phase := some 3 }) released).core.phase = some 3
    ∧ (let s := modCore (fun c => { c with phase := some 3 }) released; storesOut (writeBackShared s) = false ∧ delivered (writeBackShared s) 0 = true)
    ∧ (let s := modFab (fun f => { f with beats := [⟨1, 5, 0, 0, 0, true, 0, 9⟩] }) (modCore (fun c => { c with phase := some 3 }) released); delivered (writeBackShared s) 0 = false)
    ∧ (let s := modCore (fun c => { c with l1 := [⟨0x200, 0x55, 1, 1, .shared, none, false, false, false, none⟩] }) released; storesOut (writeBackShared s) = true) := by
  unfold Say.Member; decide +kernel
/-- Releases: every member has arrived, with one tag or with two; a phase that may open, and one whose groves have no lock group (R38). -/
theorem witness_releases : (∀ n ∈ dom1.members, n ∉ dom1.left → ∃ a ∈ [(0, false, PhTag.opening)], a.1 = n) ∧ phaseCheck running dom1.members = false
    ∧ phaseCheck { running with fab := { Fab.reset with rclk := [(0, ⟨1250, 1250, 5, false, true, false, false, 0, [], 0, 0, none⟩)] } } dom1.members = true
    ∧ dom1.stopNew = false ∧ dom1.heldHalt = false ∧ running.core.dmemb.getLsbD (4 * 3 + 3) = true := by decide +kernel
/-- Monitor waits: aligned and not, locked, of host space, with the condition met and not. -/
theorem witness_monitors : (modCx (fun c => { c with st := .ready }) addrs).core.cx.st = .ready ∧ locked lockedOwn.core ownVa 8 = true
    ∧ Say.monHolds (.mwaitge 6 1 5) 5 5 = true ∧ Say.monHolds (.mwaitge 6 1 5) 4 5 = false ∧ Say.monHolds (.mwaiteq 6 1 5) 5 5 = true
    ∧ Say.monHolds (.mwaitne 6 1 5) 5 5 = false ∧ addrs.core.shadow.bound = none
    ∧ tlbMiss addrs 0x400000 .read = false ∧ tlbMiss addrs 0x500000 .read = false ∧ Say.Ring addrs ∧ addrs.core.cx.ans = none
    ∧ (answered addrs).core.cx.ans ≠ none ∧ needsFlush addrs 0x200 = false ∧ behind (flushOwn dramPlace (answered addrs)) 0x200 = false
    ∧ poisoned addrs 0x10000 8 = false ∧ addrs.core.swap = none := by
  unfold Say.Ring; decide +kernel

/-! ### Queues, sequencers and control commands (chapters 6, 14 and 16) -/

/-- A command word of an opcode with no operand used. -/
def cmdOf (opc : BitVec 8) : Cmd :=
  { opc := opc, sw := false, ch := false, sq := 0, ev := 0, stag := 0, otag := 0, a := 0, b := 0, c := 0, d := 0, e := 0, f := 0, vpat := none,
    c1 := 1, c2 := 1, fmtA := 0, fmtB := 0, scope := .pkg, flags := 0 }

/-- A dispatched entry of the active bank with sequence value 1. -/
def entryOf (c : Cmd) : Entry :=
  { bank := false, seq := 1, ord := 1, cmd := c, st := .flight, cancelled := false, landed := false, released := false, consumed := false, status := 0,
    tval := 0, srcBad := false, seqField := none, inject := none, ckStart := none, ck := 0, outstanding := 0, recWait := none, prog := 0, pc := 0, ctx := 0,
    icBase := none, icDone := 0 }

/-- A queue that holds the entry of one command. -/
def queued (q : Queue) (e : Entry) (s : State) : State := modCore (fun c => c.setQueue q [e]) s

/-- The status of the first entry of a queue, once its command has worked. -/
def ended (q : Queue) (s : State) : Option (BitVec 8) := (s.core.queue q).head?.bind fun e => if e.st = .worked then some e.status else none

/-- The bytes of a QNOP at the own scratchpad. -/
def qnopWord : State := pm [(ownKey, [0xC0, 0, 0, 0, 0, 0, 0, 0])] addrs
theorem test_cmdq : after (.cmdq .cq 1 5) qnopWord (fun t => (readX t 5, t.core.cq.map (·.cmd.opc), t.core.bank.seqCq)) = some (1, [0xC0], 1) := by decide +kernel
/-- CPY pushed to MQ, and an opcode that is not listed, are refused (R297). -/
theorem test_cmdq_refused : after (.cmdq .mq 1 5) (pm [(ownKey, [0x40, 0, 0, 0, 0, 0, 0, 0])] addrs) (fun t => (readX t 5, t.core.mq.length)) = some (-2, 0)
    ∧ after (.cmdq .cq 1 5) (pm [(ownKey, [0x4C, 0, 0, 0, 0, 0, 0, 0])] addrs) (fun t => readX t 5) = some (-2) := by decide +kernel
theorem test_cmdq_misaligned : after (.cmdq .cq 2 5) (px [(2, ownVa + 16)] (handled addrs)) (fun t => (t.core.cx.dtcause, t.core.cx.dtval)) = some (4, ownVa + 16) := by decide +kernel
theorem test_cmdqw_returns : after (.cmdqw .gq 1 5) (px [(1, 3)] (modBank (fun b => { b with doneGq := 4, seqGq := 9 }) State.reset)) (fun t => readX t 5) = some 4 := by decide +kernel
theorem test_cmdqw_waits : after (.cmdqw .gq 1 5) (px [(1, 5)] (modBank (fun b => { b with doneGq := 4, seqGq := 9 }) State.reset)) (fun t => t.core.cx.st)
    = some (.waiting (.cmd .gq 5)) := by decide +kernel
theorem test_cmdcan : after (.cmdcan .cq 1 5) (px [(1, 1)] (queued .cq { entryOf (cmdOf 0xC0) with st := .queued } State.reset))
    (fun t => (readX t 5, t.core.cq.map (·.cancelled))) = some (0, [true]) := by decide +kernel
theorem test_cmdcan_dispatched : after (.cmdcan .cq 1 5) (px [(1, 1)] (queued .cq (entryOf (cmdOf 0xC0)) State.reset))
    (fun t => (readX t 5, t.core.cq.map (·.cancelled))) = some (1, [false]) := by decide +kernel
theorem test_cmdst : after (.cmdst .mq 5) (modBank (fun b => { b with doneMq := 6 }) State.reset) (fun t => readX t 5) = some 6 := by decide +kernel
theorem test_loopset : after (.loopset .gq 7 1) (px [(1, 0x100000005)] State.reset) (fun t => (t.core.bank.loop .gq 7, t.core.bank.loop .cq 7)) = some (5, 0) := by decide +kernel
theorem test_loopget_l0 : after (.loopget .mq 0 5) State.reset (fun t => readX t 5) = some 1 := by decide +kernel
theorem test_idget : after (.idget 10 5) (modCore (fun c => { c with num := 4099 }) State.reset) (fun t => readX t 5) = some 1024
    ∧ after (.idget 5 6) running (fun t => readX t 6) = some (-1) := by decide +kernel

theorem test_dispatch : after (.sequencerDispatch .cq) (queued .cq { entryOf { cmdOf 0xC0 with sw := true } with st := .queued } running)
    (fun t => (t.core.cq.map (·.st), t.core.parkCq)) = some ([.flight], true) := by decide +kernel
theorem test_retire_counts : after (.commandRetire .cq) (queued .cq { entryOf (cmdOf 0xC0) with st := .worked } running)
    (fun t => (t.core.cq.length, t.core.bank.doneCq)) = some (0, 1) := by decide +kernel
/-- A command that failed writes its stamp, the status in the top byte, and makes a record with cause 0x24 (R252, R299). -/
theorem test_retire_fault : after (.commandRetire .cq) (queued .cq { entryOf { cmdOf 0xC2 with d := ownVa } with st := .worked, status := 0x52, tval := 0x77 } running)
    (fun t => (memNat t.mem ownKey 8, t.core.cx.recs.map (fun r => (r.va, r.cause, r.status)))) = some (0x5200000000000001, [(0x77, 0x24, 0x52)]) := by decide +kernel
theorem test_chain_event : after (.engineChainEvent .cq false 1 1)
    (modCore (fun c => { c with mq := [{ entryOf { cmdOf 0xC0 with otag := 9 } with st := .held }] })
      (queued .cq { entryOf { cmdOf 0x40 with ch := true, sq := 0, ev := 1, stag := 9 } with st := .worked } running))
    (fun t => (t.core.mq.map (·.st), t.core.cq.map (·.landed))) = some ([.queued], [true]) := by decide +kernel
theorem test_qnop : after (.qnop false 1) (queued .cq (entryOf (cmdOf 0xC0)) running) (ended .cq) = some (some 0) := by decide +kernel
theorem test_qstamp : after (.qstamp false 1) (queued .gq (entryOf (cmdOf 0xC1)) running) (ended .gq) = some (some 0) := by decide +kernel
theorem test_qarr : after (.qarr false 1) (queued .mq (entryOf { cmdOf 0xC2 with a := 3, b := 1 }) released)
    (fun t => ((t.core.chans[3]).a, t.fab.doms.map (·.arrived))) = some (true, [[(0, true, .plain)]]) := by decide +kernel
theorem test_qsig : after (.qsig false 1) (queued .cq (entryOf { cmdOf 0xC4 with a := ownVa, b := -1 }) (pm [(ownKey, [1])] running))
    (fun t => memNat t.mem ownKey 8) = some 0 := by decide +kernel
theorem test_qwait_met : after (.qwait false 1) (queued .cq { entryOf { cmdOf 0xC3 with a := ownVa, b := 1 } with st := .queued } (pm [(ownKey, [1])] running)) (ended .cq)
    = some (some 0) := by decide +kernel
theorem test_qwait_not_met : after (.qwait false 1) (queued .cq { entryOf { cmdOf 0xC3 with a := ownVa, b := 1, flags := 2 } with st := .queued } (pm [(ownKey, [1])] running))
    (fun t => t.core.cq.map (·.st)) = some [.queued] := by decide +kernel

/-- IDGET: the ends of the selectors, a stage, a group and none; CMDQ: aligned and not, a word that is taken, refused, and finds no room. -/
theorem witness_queues : (13#12).toNat < 14 ∧ running.core.bank.bound = some bound1 ∧ bound1.group = none ∧ State.reset.core.bank.bound = none
    ∧ ownVa.toNat % 32 = 0 ∧ (ownVa + 16).toNat % 32 ≠ 0
    ∧ (match memLoad ownVa 32 .dflt qnopWord with
        | .ok g => (capture g.st .cq (natOfBytes g.bytes)).isSome && ((capture g.st .cq (natOfBytes g.bytes)).bind (checkCmd g.st)).isSome
            && (capture g.st .mq (natOfBytes (0x40 :: g.bytes.drop 1))).isNone && decide ((g.st.core.queue .cq).length < 32)
        | .error _ => false) = true
    ∧ (match memLoad (0x600000 : Word) 32 .dflt (answered addrs), memLoad (0x600000 : Word) 32 .dflt addrs with
        | .error (.trap c _), .error (.wait w _) => c == 13 && w == .walk 0x600000
        | _, _ => false) = true
    ∧ (let s := { running with root := { running.root with parts := [⟨1, 1, [], [], none⟩] } }
       ∀ p ∈ s.root.parts, p.groves.getLsbD (groveOf s.core.num) = true)
    ∧ (modBank (fun b => { b with seqCq := 5, doneCq := 4 }) State.reset).core.bank.seqCq.toNat < 6 ∧ ((4 : Word).toNat < 5 ∧ (5 : Word).toNat ≤ 5) := by decide +kernel

/-- The command of an entry may be carried out. -/
theorem runs_of (q : Queue) (opc : Nat) (e : Entry) (s : State) (h : (s.core.queue q) = [e]) (h1 : e.st = .flight) (h2 : e.cancelled = false)
    (h3 : e.cmd.opc.toNat = opc) (h4 : enginesGo s = true ∧ e.inner = none ∧ e.loose = [] ∧ s.ms.poisonList = []) : Say.Runs q opc e s :=
  ⟨⟨by simp [h], h1, h2, h4.2.1, h3, h4.1, fun x hx _ => by simpa [h] using hx⟩, h4.2.2.1, h4.2.2.2⟩

/-- Control commands: each that runs, a channel with A set and clear, a place, a condition met and not met. -/
theorem witness_control : Say.Runs .cq 0xC0 (entryOf (cmdOf 0xC0)) (queued .cq (entryOf (cmdOf 0xC0)) running)
    ∧ Say.Runs .gq 0xC1 (entryOf (cmdOf 0xC1)) (queued .gq (entryOf (cmdOf 0xC1)) running)
    ∧ Say.Runs .mq 0xC2 (entryOf (cmdOf 0xC2)) (queued .mq (entryOf (cmdOf 0xC2)) running)
    ∧ Say.Runs .cq 0xC4 (entryOf (cmdOf 0xC4)) (queued .cq (entryOf (cmdOf 0xC4)) running)
    ∧ engPlace running ownVa 8 .amo = .ok ownPlace ∧ engPlace running ownVa 8 .read = .ok ownPlace ∧ ownKey % 8 = 0
    ∧ seqHead (queued .cq { entryOf (cmdOf 0xC3) with st := .queued } running).core .cq = some { entryOf (cmdOf 0xC3) with st := .queued }
    ∧ mayDispatch (queued .cq { entryOf (cmdOf 0xC3) with st := .queued } running).core .cq { entryOf (cmdOf 0xC3) with st := .queued } = true
    ∧ (running.core.bankOf false).stopped = false ∧ (modBank (fun b => { b with stopped := true }) running).core.bank.stopped = true
    ∧ enginesGo (sequencerRelease running) = true ∧ enginesGo (sequencerRelease { running with core := { running.core with l1 := [⟨0x200, 0x55, 1, 1, .shared, some 5, false, false, false, none⟩] } }) = false
    ∧ enginesGo (flushOwn ownPlace (sequencerRelease running)) = true ∧ poisoned running ownKey 8 = false ∧ lineHeld running (lineOf ownKey) = false
    ∧ needsFlush running (lineOf ownKey) = false ∧ ownPlace.loc = .own :=
  by
  refine ⟨?_, ?_, ?_, ?_, ?_⟩
  any_goals exact runs_of _ _ _ _ rfl rfl rfl rfl ⟨rfl, rfl, rfl, rfl⟩
  and_intros <;> decide +kernel

/-- Two commands of CQ, the second behind a destination of the first. -/
def pairCq (l : List Lock) : State :=
  modCore (fun c => { c with cq := [{ entryOf (cmdOf 0x40) with ord := 1 }, { entryOf (cmdOf 0x40) with st := EntrySt.queued, ord := 2, seq := 2 }], locks := l }) running
theorem dispatch_checks :
    mayDispatch (pairCq [⟨0, 8, true, false, .cq, 1, 1⟩, ⟨4, 12, false, false, .cq, 2, 2⟩]).core .cq { entryOf (cmdOf 0x40) with st := EntrySt.queued, ord := 2, seq := 2 } = false
    ∧ mayDispatch (pairCq []).core .cq { entryOf (cmdOf 0x40) with st := EntrySt.queued, ord := 2, seq := 2 } = true := by decide +kernel
/-- The second command, one that closes a free run, goes although it reads what the first writes; the bytes that both name are noted (R128). -/
def freeRun : State :=
  modCore (fun c => { c with
    cq := [{ entryOf (cmdOf 0x40) with ord := 1 }, { entryOf { cmdOf 0x40 with sw := true } with st := EntrySt.queued, ord := 2, seq := 2 }],
    locks := [⟨0, 8, true, false, .cq, 1, 1⟩, ⟨4, 12, false, false, .cq, 2, 2⟩] }) running
theorem test_dispatch_free : after (.sequencerDispatch .cq) freeRun (fun t => (t.core.cq.map (·.st), t.core.cq.map (·.loose)))
    = some ([.flight, .flight], [[], [(4, 8)]]) := by decide +kernel
/-- A core with a store that has not ended. -/
def lateBothCore : Core := (modCx (fun c => { c with late := [lateBoth] }) running).core

/-- A command that is chained to its successor's tag at retirement, with a status, and the successor that is held in MQ. -/
def chained (ev : BitVec 4) (st : BitVec 8) : State :=
  modCore (fun c => { c with mq := [{ entryOf { cmdOf 0xC0 with otag := 9 } with st := .held, ord := 2 }]
                             locks := [⟨0, 8, true, false, .cq, 1, 1⟩, ⟨8, 16, true, false, .mq, 2, 1⟩] })
    (queued .cq { entryOf { cmdOf 0x40 with ch := true, sq := 0, ev := ev, stag := 9 } with st := .worked, status := st } running)
/-- A chain still to come is released at retirement, and cancelled after a failure, with the locks of what it held (R130, R131). -/
theorem test_retire_chain : after (.commandRetire .cq) (chained 1 0) (fun t => t.core.mq.map fun z => (z.st, z.cancelled)) = some [(.queued, false)]
    ∧ after (.commandRetire .cq) (chained 0 0x52) (fun t => (t.core.mq.map fun z => (z.st, z.cancelled), t.core.locks.length)) = some ([(.queued, true)], 0) := by
  decide +kernel
/-- What the clauses about a chain at retirement ask; a CFILL of count 0 keeps its source until it retires (R126). -/
theorem witness_chains :
    ((chained 1 0).core.queue .mq).find? (fun z => z.bank == false && z.st == .held && !z.cancelled && z.cmd.otag == 9)
        = some { entryOf { cmdOf 0xC0 with otag := 9 } with st := .held, ord := 2 }
    ∧ ((chained 1 0).core.queue .cq).length = 1 ∧ 0 = queueNum .mq ∧ (∀ p, ∀ y ∈ (chained 1 0).core.queue p, y.ord = 1 → p = .cq)
    ∧ noSource 0x43 = true ∧ ({ cmdOf 0x43 with c1 := 0 } : Cmd).reps = 0 ∧ noSource 0x40 = false
    ∧ peerSend (cmdOf 0x40) = false ∧ noneLate running.core = true ∧ noneLate lateBothCore = false
    ∧ enginesGo (writeBackShared running) = true ∧ enginesGo (writeBackShared { running with core := { running.core with l1 := [⟨0x200, 0x55, 1, 1, .shared, none, false, false, false, none⟩] } }) = false := by
  refine ⟨by decide +kernel, by decide +kernel, by decide +kernel, fun p => ?_, by decide +kernel⟩
  cases p <;> decide +kernel

/-- Sequencers: a waiting command that may be dispatched, one that an earlier destination keeps back, an entry that has worked, one in flight
and a cancelled one, with a stamp and without, and a held successor. -/
theorem witness_sequencers :
    ((pairCq []).core.queue .cq).find? Entry.waiting = some { entryOf (cmdOf 0x40) with st := EntrySt.queued, ord := 2, seq := 2 }
    ∧ entryByOrd (pairCq []).core 1 = some { entryOf (cmdOf 0x40) with ord := 1 } ∧ (entryOf (cmdOf 0x40)).landed = false
    ∧ lastStamps { entryOf (cmdOf 0x40) with st := .worked } = [0]
    ∧ lastStamps { entryOf { cmdOf 0x40 with d := ownVa } with st := .worked } = [ownVa] ∧ ownVa ≠ 0 ∧ ownVa.toNat % 8 = 0
    ∧ poisoned running ownKey 8 = false ∧ lineHeld running (lineOf ownKey) = false ∧ bound1.left = false ∧ running.core.bank.dead = false
    ∧ running.core.cx.recs.length < 8
    ∧ (modCore (fun c => { c with mq := [{ entryOf { cmdOf 0xC0 with otag := 9 } with st := .held }] }) running).core.mq.find?
        (fun z => z.bank == false && z.st == .held && !z.cancelled && z.cmd.otag == 9) = some { entryOf { cmdOf 0xC0 with otag := 9 } with st := .held } :=
  ⟨rfl, rfl, by and_intros <;> decide +kernel⟩

/-! ### The engines (chapters 9, 10 and 16) -/

/-- No write is held where no replica stands and none waits. -/
theorem held_none {s : State} (a : s.ms.heldW = []) (b : s.ms.sharers = []) (l : Nat) : lineHeld s l = false := by
  simp [lineHeld, writeHeld, sharersOf, a, b]

/-- A place below the metadata of its die is none of its bytes. -/
theorem plain_of {k : Nat} (h : k % 2 ^ 37 < metaOffset) (s : State) : Say.plain s k := by
  intro _ b
  have hx : (b % 256 ^^^ (4177920 + b / 256 % 2 ^ 20 / 64) % 256) < 2 ^ 8 := Nat.xor_lt_two_pow (by omega) (by omega)
  unfold metaKey
  unfold metaOffset at h
  dsimp only
  have hn : b / 256 % 2 ^ 20 / 64 < 16384 := by omega
  have hy : b / 256 % 64 < 64 := by omega
  generalize b / 256 % 2 ^ 20 / 64 = n at hn hx ⊢
  generalize b / 256 % 64 = y at hy ⊢
  generalize (b % 256 ^^^ (4177920 + n) % 256) = x at hx ⊢
  generalize b / 2 ^ 28 = q
  omega

/-- Whether a range of a window lies at consecutive keys, without poison and with no write held. -/
def flatCheck (s : State) (va : Word) (n : Nat) (acc : Acc) (k : Nat) : Bool :=
  ((lineParts va n).all fun p => inWindow (va + BitVec.ofNat 64 p.1) && match engPlace s (va + BitVec.ofNat 64 p.1) p.2 acc with
    | .ok q => q.key == k + p.1 && (!poisoned s q.key p.2 && !hostFails s q.key)
    | .error _ => false) && s.ms.heldW.isEmpty && s.ms.sharers.isEmpty && s.ms.frames.isEmpty
    && decide (k % 2 ^ 37 + n ≤ metaOffset)

/-- A range of a window that passes the check is flat, whatever stands in memory. -/
theorem flat_of_check {s : State} {va : Word} {n : Nat} {acc : Acc} {k : Nat} (h : flatCheck s va n acc k = true) : Say.Flat s va n acc k := by
  simp only [flatCheck, Bool.and_eq_true, List.all_eq_true] at h
  obtain ⟨⟨⟨⟨h1, h2⟩, h3⟩, h4⟩, h5⟩ := h
  constructor
  · intro p hp m
    obtain ⟨hw, hq⟩ := h1 p hp
    have e : engPlace { s with mem := m } (va + BitVec.ofNat 64 p.1) p.2 acc = engPlace s (va + BitVec.ofNat 64 p.1) p.2 acc := by
      unfold engPlace; rw [if_pos hw, if_pos hw]; rfl
    rw [e]
    revert hq
    cases engPlace s (va + BitVec.ofNat 64 p.1) p.2 acc with
    | error c => simp
    | ok q => intro hq; obtain ⟨a, b, c⟩ := (by simpa using hq : q.key = k + p.1 ∧ poisoned s q.key p.2 = false ∧ hostFails s q.key = false); exact ⟨q, rfl, a, b, c⟩
  · intro i hi
    have a : s.ms.heldW = [] := by simpa using h2
    have b : s.ms.sharers = [] := by simpa using h3
    have c : s.ms.frames = [] := by simpa using h4
    have e : (k + i) % 2 ^ 37 < metaOffset := by
      have h := of_decide_eq_true h5
      unfold metaOffset at h ⊢
      omega
    exact ⟨plain_of e s, held_none a b _, fun _ => by simp [isRepl, c]⟩

theorem test_mzero : after (.mzero false 1) (queued .mq (entryOf { cmdOf 0x00 with a := 2 }) (modBank (fun b => { b with acc := b.acc.set 2 7 }) running))
    (fun t => (accOf t false 2, ended .mq t)) = some (0, some 0) := by decide +kernel
theorem test_mtrn : after (.mtrn false 1) (queued .mq (entryOf { cmdOf 0x05 with a := 0, b := 1 }) (modBank (fun b => { b with acc := b.acc.set 1 (7 * 2 ^ 32) }) running))
    (fun t => Say.cell (accOf t false 0) 1 0) = some 7 := by decide +kernel
theorem test_mlda : after (.mlda false 1) (queued .mq (entryOf { cmdOf 0x03 with a := 1, b := ownVa }) (pm [(ownKey + 68, [3, 4])] running))
    (fun t => Say.cell (accOf t false 1) 1 1) = some 0x403 := by decide +kernel
theorem test_mlda_fault : after (.mlda false 1) (queued .mq (entryOf { cmdOf 0x03 with a := 1, b := 0x600000 }) running) (ended .mq) = some (some 0x52) := by decide +kernel
/-- An i32 accumulator stored as i8 with saturation: 300 becomes 127 (R381). -/
theorem test_msta_saturates : after (.msta false 1) (queued .mq (entryOf { cmdOf 0x04 with b := ownVa, c := 16, fmtA := 0x12, fmtB := 0x10, flags := 1 })
    (modBank (fun b => { b with acc := b.acc.set 0 300 }) running)) (fun t => memRead t.mem ownKey 2) = some [0x7F, 0] := by decide +kernel
/-- One tile of i8: the row 1, 2 of A by the column 3, 4 of B is 11 (R197). -/
theorem test_mma_i8 : after (.mma false 1) (queued .mq (entryOf { cmdOf 0x01 with b := ownVa, c := ownVa + 256, d := 1, fmtA := 0x10, fmtB := 0x10 })
    (pm [(ownKey, [1, 2]), (ownKey + 256, [3]), (ownKey + 272, [4])] running)) (fun t => (Say.cell (accOf t false 0) 0 0, ended .mq t)) = some (11, some 0) := by decide +kernel
/-- A block's sum 1.0 with scales 128 and 127 adds 2.0; a scale of 255 makes a NaN (R196). -/
theorem test_mmas_scale : scaledAdd 128 127 0 0x3F800000 = 0x40000000 ∧ scaledAdd 255 127 0 0x3F800000 = 0x7FC00000 := by decide +kernel
theorem test_mmas_fault : after (.mmas false 1) (queued .mq (entryOf { cmdOf 0x02 with b := 0x600000, c := ownVa + 256, d := 1, e := ownVa + 512, f := ownVa + 513, fmtA := 4, fmtB := 4 })
    running) (ended .mq) = some (some 0x51) := by decide +kernel

theorem test_cpy : after (.cpy false 1) (queued .cq (entryOf { cmdOf 0x40 with a := ownVa + 200, b := ownVa, c := 3 }) (pm [(ownKey, [1, 2, 3, 4])] running))
    (fun t => (memRead t.mem (ownKey + 200) 4, ended .cq t)) = some ([1, 2, 3, 0], some 0) := by decide +kernel
theorem test_cpy_converts : after (.cpy false 1) (queued .cq (entryOf { cmdOf 0x40 with a := ownVa + 256, b := ownVa, c := 4, fmtA := 0x01, fmtB := 0x02 })
    (pm [(ownKey, [0, 0, 0x80, 0x3F])] running)) (fun t => memRead t.mem (ownKey + 256) 2) = some [0, 0x3C] := by decide +kernel
theorem test_cpys : after (.cpys false 1) (queued .cq (entryOf { cmdOf 0x41 with a := ownVa + 256, b := ownVa, c := 2, c1 := 2 }) (pm [(ownKey, [1, 2, 3, 4])] running))
    (fun t => memRead t.mem (ownKey + 256) 4) = some [1, 2, 3, 4] := by decide +kernel
/-- The CRC-32C of the nine digits 1 to 9 is 0xE3069283 (its published check value); `init` starts from 0 (R385). -/
theorem test_cpyk_crc : after (.cpyk false 1) (queued .cq { entryOf { cmdOf 0x42 with a := ownVa + 256, b := ownVa, c := 9, flags := 13 } with ckStart := some 0 }
    (pm [(ownKey, [0x31, 0x32, 0x33, 0x34, 0x35, 0x36, 0x37, 0x38, 0x39])] running)) (fun t => t.core.cq.map (·.ck)) = some [0xE3069283] := by decide +kernel
theorem test_cfill : after (.cfill false 1) (queued .cq (entryOf { cmdOf 0x43 with a := ownVa, b := 0x0807060504030201, c := 10 }) running)
    (fun t => memRead t.mem ownKey 11) = some [1, 2, 3, 4, 5, 6, 7, 8, 1, 2, 0] := by decide +kernel
/-- The launch with the page of device DRAM in the core's TLB. -/
def collecting : State := modCore (fun c => { c with tlb := paged.core.tlb }) running
theorem test_gath : after (.gath false 1) (queued .cq (entryOf { cmdOf 0x44 with a := ownVa + 256, b := 0x400000, c := ownVa, e := 2, flags := 1 })
    (pm [(0x10000, [1, 2, 3, 4, 5, 6]), (ownKey, [2, 0, 0, 0, 1])] collecting)) (fun t => memRead t.mem (ownKey + 256) 4) = some [5, 6, 3, 4] := by decide +kernel
/-- Two elements that SCAT adds at one place (R388). -/
theorem test_scat_adds : after (.scat false 1) (queued .cq (entryOf { cmdOf 0x45 with a := 0x400000, b := ownVa + 256, c := ownVa, e := 2, fmtA := 0x14, flags := 8 })
    (pm [(0x10000, [7]), (ownKey + 256, [2, 3])] collecting)) (fun t => (memRead t.mem 0x10000 1, ended .cq t)) = some ([12], some 0) := by decide +kernel
theorem test_cpy_grain_bad_header : after (.cpyGrain false 1) (queued .cq (entryOf { cmdOf 0x40 with a := ownVa + 256, b := ownVa, c := 64, fmtA := 6, fmtB := 6 }) running) (ended .cq)
    = some (some 0x73) := by decide +kernel
theorem test_ccnt : after (.ccnt false 1) (queued .cq (entryOf { cmdOf 0x4B with a := ownVa, b := 0 }) (modSlice 0 (fun x => { x with cnt := { x.cnt with mcast := 9 } }) running))
    (fun t => memNat t.mem (ownKey + 176) 8) = some 9 := by decide +kernel

/-- Engine ranges: a KiB of the own scratchpad, wherever a line begins. -/
theorem witness_flat : Say.Flat running ownVa 1024 .read ownKey ∧ Say.Flat running (ownVa + 5) 300 .write (ownKey + 5) ∧ Say.Flat running ownVa 0 .write ownKey :=
  ⟨flat_of_check (by decide +kernel), flat_of_check (by decide +kernel), flat_of_check (by decide +kernel)⟩
/-- At service level 3 too. -/
theorem witness_flat_s3 : Say.Flat (modPkg (fun p => { p with sl := 3 }) running) ownVa 1024 .write ownKey := flat_of_check (by decide +kernel)

/-! ### Matrix, copy and grain ranges (chapters 9, 14 and 16) -/

/-- Matrix commands: each that runs, an accumulator's KiB and its rows, a tile that can be read and one that cannot, and scale bytes. -/
theorem witness_matrix : (∀ o ∈ [0x00, 0x05, 0x03, 0x04, 0x01, 0x02], Say.Runs .mq o (entryOf (cmdOf (BitVec.ofNat 8 o))) (queued .mq (entryOf (cmdOf (BitVec.ofNat 8 o))) running))
    ∧ Say.Flat running ownVa 1024 .read ownKey
    ∧ (∀ i, i < 16 → Say.Flat running (ownVa + BitVec.ofNat 64 i * 64) (16 * 4) .write (ownKey + i * 64))
    ∧ (readTile running { cmdOf 1 with b := ownVa } 0x10 (ownVa + BitVec.ofNat 64 0 * 0) 0).toOption.isSome = true
    ∧ (match readTile running { cmdOf 1 with b := 0x600000 } 0x10 (0x600000 + BitVec.ofNat 64 0 * 0) 0 with
        | .error f => f.1 == 0x51
        | .ok _ => false) = true
    ∧ engRead running ownVa 1 0x51 = ⟨[0], none⟩ ∧ Memory.wf running.mem = true
    ∧ (engRead running 0x600000 1024 0x52).fail = some (0x52, 0x600000) := by
  refine ⟨?_, flat_of_check (by decide +kernel), ?_, by and_intros <;> decide +kernel⟩
  · intro o h
    simp only [List.mem_cons, List.not_mem_nil, or_false] at h
    rcases h with rfl | rfl | rfl | rfl | rfl | rfl <;> exact runs_of _ _ _ _ rfl rfl rfl rfl ⟨rfl, rfl, rfl, rfl⟩
  · have h : ∀ i ∈ List.range 16, flatCheck running (ownVa + BitVec.ofNat 64 i * 64) (16 * 4) .write (ownKey + i * 64) = true := by decide +kernel
    exact fun i hi => flat_of_check (h i (List.mem_range.mpr hi))

/-- A copy of two repeats of 64 B, 64 B apart, from one KiB to the next. -/
theorem witness_copy : (∀ o ∈ [0x40, 0x41, 0x42, 0x43], Say.Runs .cq o (entryOf (cmdOf (BitVec.ofNat 8 o))) (queued .cq (entryOf (cmdOf (BitVec.ofNat 8 o))) running))
    ∧ (∀ r, r < 2 → Say.Flat running (Say.at ownVa 64 r) 64 .read (ownKey + 64 * r)
        ∧ Say.Flat running (Say.at (ownVa + 1024) 64 r) 64 .write (ownKey + 1024 + 64 * r))
    ∧ (∀ r q, r < 2 → q < 2 → (r ≠ q → ownKey + 1024 + 64 * r + 64 ≤ ownKey + 1024 + 64 * q ∨ ownKey + 1024 + 64 * q + 64 ≤ ownKey + 1024 + 64 * r)
        ∧ (ownKey + 1024 + 64 * r + 64 ≤ ownKey + 64 * q ∨ ownKey + 64 * q + 64 ≤ ownKey + 1024 + 64 * r))
    ∧ fmtWidth 0x01 = 4 ∧ 64 % fmtWidth 0x01 = 0 ∧ 64 / fmtWidth 0x01 * fmtWidth 0x01 = 64 ∧ (cmdOf 0x41).reps = 1
    ∧ (entryOf (cmdOf 0x40)).inject = none := by
  refine ⟨?_, ?_, by intros; omega, by and_intros <;> decide +kernel⟩
  · intro o h
    simp only [List.mem_cons, List.not_mem_nil, or_false] at h
    rcases h with rfl | rfl | rfl | rfl <;> exact runs_of _ _ _ _ rfl rfl rfl rfl ⟨rfl, rfl, rfl, rfl⟩
  · have h : ∀ r ∈ List.range 2, (flatCheck running (Say.at ownVa 64 r) 64 .read (ownKey + 64 * r)
        && flatCheck running (Say.at (ownVa + 1024) 64 r) 64 .write (ownKey + 1024 + 64 * r)) = true := by decide +kernel
    intro r hr
    have := h r (List.mem_range.mpr hr)
    rw [Bool.and_eq_true] at this
    exact ⟨flat_of_check this.1, flat_of_check this.2⟩

/-- The host clause of CPY: a copy of 64 B whose source is a page of host space. -/
theorem witness_copy_host : let e := entryOf { cmdOf 0x40 with a := ownVa, b := 0x500000, c := 64 }
    Say.Runs .cq 0x40 e (queued .cq e collecting) ∧ e.cmd.fmtA = 0 ∧ 0 < e.cmd.c.toNat ∧ 0 < e.cmd.reps ∧ e.inject = none
    ∧ engPlace (queued .cq e collecting) e.cmd.b (min e.cmd.c.toNat (128 - e.cmd.b.toNat % 128)) .read = .ok ⟨2 ^ 51, .host, .device, false, true, false⟩
    ∧ isHostKey (2 ^ 51) = true :=
  ⟨runs_of _ _ _ _ rfl rfl rfl rfl ⟨rfl, rfl, rfl, rfl⟩, by and_intros <;> decide +kernel⟩

/-- A buffer of one PLAIN tile in a slot of 288 B (R190, R191): elements 5, 6, 7 and zeros. -/
def grainBuf : State := pm [(ownKey, [0x47, 0x52, 0x4E, 0x31, 1, 0, 1, 0, 9]), (ownKey + 32, [0x10, 0x04, 0x01, 0x00, 5, 6, 7])] collecting

/-- A FAST tile of tokens that keep MODE 5 and of nibble 8 has elements of value 128 + 8 times 5 (R191, R192). -/
theorem test_tile_fast : decodeTile ([0x05, 0xA4, 0x00, 0x00] ++ List.replicate 32 0 ++ List.replicate 128 0x88 ++ List.replicate 124 0)
    = some (List.replicate 256 168) := by decide +kernel
theorem test_cpy_grain : after (.cpyGrain false 1) (queued .cq (entryOf { cmdOf 0x40 with a := ownVa + 512, b := ownVa, c := 320, fmtA := 6, fmtB := 6 }) grainBuf)
    (fun t => (ended .cq t, memRead t.mem (ownKey + 512 + 32) 8)) = some (some 0, [0x10, 0x04, 0x01, 0x00, 5, 6, 7, 0]) := by decide +kernel
/-- 0x38 as e4m3n is 1.0 (R383). -/
theorem test_cdec : after (.cdec false 1) (queued .cq (entryOf { cmdOf 0x4A with a := ownVa + 1024, b := ownVa, c := 0, e := 1, fmtB := 0x02 })
      (pm [(ownKey + 37, [0x38])] grainBuf)) (fun t => (ended .cq t, memNat t.mem (ownKey + 1024 + 2) 2)) = some (some 0, 0x3C00) := by decide +kernel
theorem test_cdec_bad_tile : after (.cdec false 1) (queued .cq (entryOf { cmdOf 0x4A with a := ownVa + 1024, b := ownVa, c := 0, e := 1, fmtB := 0x02 })
      (pm [(ownKey + 32, [0x50])] grainBuf)) (ended .cq) = some (some 0x74) := by decide +kernel

/-- Grain, gather and counter commands: a header inside and outside R190, a tile, an element's place and the counters' place. -/
theorem witness_grain : (∀ o ∈ [0x40, 0x44, 0x45, 0x4A, 0x4B], Say.Runs .cq o (entryOf (cmdOf (BitVec.ofNat 8 o))) (queued .cq (entryOf (cmdOf (BitVec.ofNat 8 o))) grainBuf))
    ∧ (Say.Flat grainBuf ownVa 320 .read ownKey ∧ Say.Flat grainBuf (ownVa + 32) 288 .read (ownKey + 32) ∧ Say.Flat grainBuf (ownVa + 512) 320 .write (ownKey + 512)
      ∧ Say.Flat grainBuf ownVa 32 .read ownKey ∧ Say.Flat grainBuf (ownVa + 1024) (256 * 2 * 1) .write (ownKey + 1024)
      ∧ Say.Flat grainBuf (ownVa + 512) 192 .write (ownKey + 512))
    ∧ grainHdr (memRead grainBuf.mem ownKey 32) = some ⟨1, 1, 9⟩ ∧ grainHdr (memRead running.mem ownKey 32) = none
    ∧ (decodeTile (memRead grainBuf.mem (ownKey + 32) 288)).isSome = true ∧ 32 + 32 * 9 * (1 * 1) = 320
    ∧ engRead grainBuf ownVa 32 0x70 = ⟨memRead grainBuf.mem ownKey 32, none⟩
    ∧ (readIndex grainBuf { cmdOf 0x44 with c := ownVa + 20 } 0).toOption = some 0 ∧ elemPlace grainBuf 0x400000 2 .read = some dramPlace ∧ elemPlace grainBuf 0x400000 2 .write = some dramPlace
    ∧ poisoned grainBuf 0x10000 2 = false ∧ lineHeld grainBuf (lineOf 0x10000) = false ∧ isRepl grainBuf (lineOf 0x10000) = false
    ∧ groveAllowed grainBuf grainBuf.core.num (groveOfTwig 0) = true ∧ Memory.wf grainBuf.mem = true := by
  refine ⟨?_, ⟨?_, ?_, ?_, ?_, ?_, ?_⟩, by and_intros <;> decide +kernel⟩
  any_goals exact flat_of_check (by decide +kernel)
  intro o h
  simp only [List.mem_cons, List.not_mem_nil, or_false] at h
  rcases h with rfl | rfl | rfl | rfl | rfl <;> exact runs_of _ _ _ _ rfl rfl rfl rfl ⟨rfl, rfl, rfl, rfl⟩

/-! ### The rule walker (chapters 10 and 16) -/

/-- Whether every part of a range leads to a window that no core's layout bounds but the own, or to a page that the TLB holds, at keys below `lim`. -/
def steadyCheck (s : State) (va : Word) (n lim : Nat) : Bool :=
  s.poison.isEmpty && s.pkg.sl != 3 && (lineParts va n).all fun p =>
    let a := va + BitVec.ofNat 64 p.1
    (regionOf a != 0xFFFFFE) && (inWindow a || (canonical a.toNat && (s.core.tlb.find? fun t => t.covers s.core.asid a.toNat).isSome))
      && match engPlace s a p.2 .read with
        | .ok q => decide (q.key + p.2 ≤ lim)
        | .error _ => true

/-- A translation in the core's TLB is the one that is used. -/
theorem lookup_tlb {s : State} {asid a : Nat} {t : Tlb} (h : s.core.tlb.find? (fun t => t.covers asid a) = some t) : lookup s asid a = .ok t := by
  unfold lookup; rw [h]

/-- Reads of the same parts are the same read. -/
theorem foldl_parts {s u : State} {va : Word} {gen : BitVec 8} {l : List (Nat × Nat)}
    (h : ∀ p ∈ l, engReadPart u (va + BitVec.ofNat 64 p.1) p.2 gen = engReadPart s (va + BitVec.ofNat 64 p.1) p.2 gen) (z : EngRead) :
    l.foldl (fun r p => match r.fail with
      | some _ => r
      | none => let x := engReadPart u (va + BitVec.ofNat 64 p.1) p.2 gen; ⟨r.bytes ++ x.bytes, x.fail⟩) z
    = l.foldl (fun r p => match r.fail with
      | some _ => r
      | none => let x := engReadPart s (va + BitVec.ofNat 64 p.1) p.2 gen; ⟨r.bytes ++ x.bytes, x.fail⟩) z := by
  induction l generalizing z with
  | nil => rfl
  | cons p l ih =>
    simp only [List.foldl_cons]
    rw [h p (List.mem_cons_self ..)]
    exact ih (fun q hq => h q (List.mem_cons_of_mem _ hq)) _

/-- Such a range reads the same in every state that differs from the first by bytes from `lim` on and by bookkeeping. -/
theorem engRead_after {D : Nat → Prop} {s u : State} {va : Word} {n lim : Nat} (gen : BitVec 8) (hu : Say.After D s u) (hD : ∀ a, D a → lim ≤ a)
    (h : steadyCheck s va n lim = true) : engRead u va n gen = engRead s va n gen := by
  obtain ⟨hm, hp, hu⟩ := hu
  simp only [steadyCheck, Bool.and_eq_true, List.all_eq_true] at h
  obtain ⟨⟨h0, hs⟩, h⟩ := h
  have hs : s.pkg.sl ≠ 3 := by simpa using hs
  have h0 : s.poison = [] := by simpa using h0
  have h1 : u.poison = [] := List.eq_nil_iff_forall_not_mem.mpr fun l hl => by simpa [h0] using hp l hl
  have part : ∀ p ∈ lineParts va n, engReadPart u (va + BitVec.ofNat 64 p.1) p.2 gen = engReadPart s (va + BitVec.ofNat 64 p.1) p.2 gen := by
    intro p hpm
    obtain ⟨hw, hk⟩ := h p hpm
    have he : engPlace u (va + BitVec.ofNat 64 p.1) p.2 .read = engPlace s (va + BitVec.ofNat 64 p.1) p.2 .read := by
      have hr : ¬regionOf (va + BitVec.ofNat 64 p.1) = 0xFFFFFE := by simpa using hw.1
      replace hw := hw.2
      cases hi : inWindow (va + BitVec.ofNat 64 p.1)
      · rw [hi, Bool.false_or, Bool.and_eq_true] at hw
        obtain ⟨t, ht⟩ := Option.isSome_iff_exists.mp hw.2
        have ha : u.core.asid = s.core.asid := by rw [hu]
        have hb : u.core.tlb = s.core.tlb := by rw [hu]
        simp only [engPlace, hi, Bool.false_eq_true, if_false, resolvePage]
        have hg : u.pkg = s.pkg := by rw [hu]
        rw [lookup_tlb (hb ▸ ha ▸ ht), lookup_tlb ht, hg]
      · rw [hu]; simp only [engPlace, hi, if_true, resolveWindow, hr, if_false]; rfl
    unfold engReadPart
    rw [he]
    revert hk
    cases engPlace s (va + BitVec.ofNat 64 p.1) p.2 .read with
    | error c => simp
    | ok q =>
      intro hk
      have hk : q.key + p.2 ≤ lim := by simpa using hk
      have hr : memRead u.mem q.key p.2 = memRead s.mem q.key p.2 := by
        apply List.map_congr_left
        intro i hi
        exact hm _ (fun e => absurd e hs) fun hd => by have := hD _ hd; have := List.mem_range.mp hi; omega
      have hc : hostFails u q.key = hostFails s q.key := by unfold hostFails; rw [hu]
      simp [poisoned, h0, h1, hr, hc]
  exact foldl_parts part _

/-- The same of a read of the walker. -/
theorem walkRead_after {D : Nat → Prop} {s u : State} {va : Word} {n lim : Nat} (hu : Say.After D s u) (hD : ∀ a, D a → lim ≤ a)
    (h : steadyCheck s va n lim = true) : walkRead u va n = walkRead s va n := by
  unfold walkRead readWith; rw [engRead_after 0x67 hu hD h]

/-- Words of 4 bytes, little-endian. -/
def words (l : List Nat) : List Byte := l.flatMap (bytesOfNat 4)
/-- A sequence of one rule over two terminals of format i8, values 7 and 9, in device DRAM (R159 to R161), and two positions. -/
def gramBytes : List Byte :=
  words [0x314d5247, 0x10801, 2, 1, 2] ++ List.replicate 12 0 ++ words [2, 0, 4, 5, 6] ++ List.replicate 16 0 ++ words [1, 0xffffffff, 0xffffffff, 2] ++ List.replicate 12 0 ++ [7, 9]
def grammar : State := pm [(0x10000, gramBytes), (ownKey, [1, 0, 0, 0, 0, 0, 0, 0, 0])] collecting
/-- A command on it, dispatched. -/
def walking (c : Cmd) : State := queued .gq (entryOf { c with a := 0x400000 }) grammar

theorem test_gfetch : after (.gfetch false 1) (walking { cmdOf 0x81 with b := ownVa, c := ownVa + 0x800, e := 2 })
    (fun t => (ended .gq t, memRead t.mem (ownKey + 0x800) 3)) = some (some 0, [9, 7, 0]) := by decide +kernel
theorem test_gexp : after (.gexp false 1) (walking { cmdOf 0x83 with e := 0x0001000000000001, f := ownVa + 0x800 })
    (fun t => (ended .gq t, memRead t.mem (ownKey + 0x800) 2)) = some (some 0, [9, 0]) := by decide +kernel
theorem test_gexp_past : after (.gexp false 1) (walking { cmdOf 0x83 with e := 0x0001000000000002, f := ownVa + 0x800 })
    (fun t => (ended .gq t, t.core.gq.map (·.tval))) = some (some 0x64, [2]) := by decide +kernel

/-- GEVAL of the rule needs its partition's slices to hold its record: without scratch it faults before any write (R164, R177). -/
theorem test_geval_scratch : after (.geval false 1) (walking { cmdOf 0x80 with b := 0, e := 0x200000002 }) (ended .gq) = some (some 0x60) := by decide +kernel
theorem test_geval_range : after (.geval false 1) (walking { cmdOf 0x80 with b := 0, e := 0x100000001 }) (ended .gq) = some (some 0x64) := by decide +kernel
/-- A descriptor with a reserved bit set (R170). -/
theorem test_gpref_descriptor : after (.gpref false 1) (walking { cmdOf 0x82 with b := 0x2000, f := ownVa + 0x800 }) (ended .gq) = some (some 0x2B) := by decide +kernel

/-- A 1 by 1 matrix whose terminal is fp32 1.5, and x = 2.0 (R159, R162). -/
def matBytes : List Byte :=
  words [0x314d5247, 0x80802, 1, 0, 0, 1, 1, 0, 1] ++ List.replicate 12 0 ++ words [4, 0, 5, 0, 0x3fc00000] ++ List.replicate 16 0 ++ words [1, 0]
def matrix : State := pm [(0x10000, matBytes), (ownKey, [0, 0, 0, 0x40])] collecting
/-- A command on it, dispatched. -/
def multiplying (c : Cmd) : State := queued .gq (entryOf { c with a := 0x400000 }) matrix
/-- GMV over the row: 1.5 by 2.0 is 3.0; GVM adds 3.0 to 1.0 (R173, R396). -/
theorem test_gmv : after (.gmv false 1) (multiplying { cmdOf 0x84 with b := ownVa, f := ownVa + 0x800, flags := 2 })
    (fun t => (ended .gq t, memNat t.mem (ownKey + 0x800) 4)) = some (some 0, 0x40400000) := by decide +kernel
theorem test_gvm : after (.gvm false 1) (pm [(ownKey + 0x800, [0, 0, 0x80, 0x3F])] (multiplying { cmdOf 0x85 with b := ownVa, f := ownVa + 0x800 }))
    (fun t => (ended .gq t, memNat t.mem (ownKey + 0x800) 4)) = some (some 0, 0x40800000) := by decide +kernel
/-- A sequence given to GMV has no rows (R396). -/
theorem test_gmv_sequence : after (.gmv false 1) (walking { cmdOf 0x84 with b := ownVa, f := ownVa + 0x800, flags := 2 }) (ended .gq) = some (some 0x2B) := by decide +kernel
theorem test_gcon_bad : after (.gcon false 1) (queued .gq (entryOf { cmdOf 0x87 with a := ownVa }) running) (ended .gq) = some (some 0x66) := by decide +kernel
theorem test_grot_bad : after (.grot false 1) (walking { cmdOf 0x86 with b := ownVa + 0x100, flags := 2 }) (ended .gq) = some (some 0x66) := by decide +kernel

/-- A rotary block with P = 1 and two queries of offsets 0 and 1, generator 0 a quarter turn: cos 0, sin 1 (R174, R397). -/
def turning : State := pm [(ownKey + 0x100, bytesOfNat 8 ((ownVa + 0x400).toNat) ++ List.replicate 16 0 ++ bytesOfNat 8 ((ownVa + 0x180).toNat) ++ bytesOfNat 8 ((ownVa + 0x190).toNat)
      ++ bytesOfNat 8 ((ownVa + 0x800).toNat) ++ [1, 0, 0, 0, 2]),
    (ownKey + 0x180, [0, 0, 0x80, 0x3F, 0, 0, 0, 0x40]), (ownKey + 0x194, [1]), (ownKey + 0x404, [0, 0, 0x80, 0x3F])]
  (walking { cmdOf 0x86 with b := ownVa + 0x100, flags := 2 })
/-- (1, 2) turned back by a quarter is (2, -1); turned by nothing it stays (R174). -/
theorem test_grot : after (.grot false 1) turning (fun t => (ended .gq t, (List.range 4).map fun i => memNat t.mem (ownKey + 0x800 + 4 * i) 4))
    = some (some 0, [0x3F800000, 0x40000000, 0x40000000, 0xBF800000]) := by decide +kernel

/-- The grammar's header as the walker reads it. -/
def gram1 : Gram := ⟨0x400000, false, 1, 2, 1, 2, 0, 0, 2, 4, 5, 6, 0, 0⟩
/-- A GFETCH of the terminal at position 1. -/
def fetchCmd : Cmd := { cmdOf 0x81 with b := ownVa, c := ownVa + 0x800, e := 1, a := 0x400000 }
def fetching : State := walking fetchCmd

/-- What the walker reads of the grammar and of the position. -/
def gramReads : List (Word × List Byte) :=
  [(0x400000, gramBytes.take 64), (0x400040, (gramBytes.drop 64).take 16), (0x400050, [2, 0, 0, 0, 0, 0, 0, 0]), (0x400060, [7]), (0x400061, [9]),
    (ownVa, [1, 0, 0, 0, 0, 0, 0, 0])]

/-- A state in which the walker reads given bytes below a key. -/
def steady (lim : Nat) (l : List (Word × List Byte)) (s : State) : Bool :=
  l.all fun r => steadyCheck s r.1 r.2.length lim && decide (engRead s r.1 r.2.length 0x67 = ⟨r.2, none⟩)

/-- It reads them whatever has been written from that key on. -/
theorem reads_after {D : Nat → Prop} {s u : State} {lim : Nat} {l : List (Word × List Byte)} (hs : steady lim l s = true) (hu : Say.After D s u)
    (hD : ∀ a, D a → lim ≤ a) : ∀ p ∈ l, got (walkRead u p.1 p.2.length) = .ok p.2 := by
  intro p hp
  have h := List.all_eq_true.mp hs p hp
  rw [Bool.and_eq_true] at h
  rw [walkRead_after hu hD h.1, got_walkRead, of_decide_eq_true h.2]

/-- Bytes read are a number read. -/
theorem num_of {u : State} {va : Word} {n : Nat} {bs : List Byte} (h : got (walkRead u va n) = .ok bs) : got (walkNum u va n) = .ok (natOfBytes bs) := by
  rw [got_walkNum, h]; rfl

/-- A sequence's header that is read, with START's length. -/
theorem gram_of {u : State} {b : Word} {bs : List Byte} {g : Gram} (h : got (walkRead u b 64) = .ok bs) (hb : (b.toNat % 64 != 0 || inWindow b) = false)
    (hg : gramOf b (natOfBytes bs) = g) (hf : badField (natOfBytes bs) g = none) (hm : g.isMat = false) (hl : got (symLen u g g.start) = .ok g.len) :
    got (readGram u b) = .ok g := by
  unfold readGram
  rw [hb, if_neg (by decide), got_bind, num_of h]
  simp only [Except.bind, hg, hf, hm]
  rw [if_neg (by decide), got_bind, hl]
  simp [Except.bind]

/-- A rule's length that is read. -/
theorem len_of {u : State} {g : Gram} {c v : Nat} {bs : List Byte} (h : got (walkRead u (g.at (16 * g.olen + 8 * (c - g.t))) 8) = .ok bs)
    (hc : ¬c < g.t) (hv : natOfBytes bs = v) (h2 : (decide (v < 2) || decide (v ≥ 2 ^ 48)) = false) : got (symLen u g c) = .ok v := by
  unfold symLen
  rw [if_neg hc, got_bind, num_of h]
  simp only [Except.bind, hv, h2, Bool.false_eq_true, if_false]
  rfl

/-- A rule's children that are read. -/
theorem kids_of {u : State} {g : Gram} {k : Nat} {bs : List Byte} {l : List Nat} (h : got (walkRead u (g.at (16 * g.orule + 16 * (k - g.t))) 16) = .ok bs)
    (hl : kidsOf k (elemsIn 4 bs) = some l) : got (ruleKids u g k) = .ok l := by
  unfold ruleKids
  rw [got_bind, h]
  simp only [Except.bind, hl]
  rfl

/-- The expansions of the grammar's symbols. -/
def spans (k : Nat) : List Nat := if k < 2 then [k] else [0, 1]
/-- The values of its terminals. -/
def vals (t : Nat) : Nat := if t = 0 then 7 else 9

/-- A terminal of i8 that is read. -/
theorem term_of {u : State} {g : Gram} {t : Nat} {b : Byte} (h : got (walkRead u (g.at (16 * g.oterm + t)) 1) = .ok [b]) (hg : g.tf = 1)
    (hb : b.toNat < 128) : got (termRaw u g t) = .ok b.toNat ∧ got (termVal u g t) = .ok b.toNat := by
  have r : got (termRaw u g t) = .ok b.toNat := by
    unfold termRaw
    rw [hg, if_neg (by decide), show termWidth 1 = 1 from rfl, Nat.mul_one, num_of h]
    simp [natOfBytes]
  refine ⟨r, ?_⟩
  unfold termVal
  rw [got_bind, r, hg]
  have e : ∀ b : Byte, b.toNat < 128 → (sextN b.toNat (8 * termWidth 1)).toNat = b.toNat := by decide +kernel
  exact congrArg Except.ok (e b hb)

/-- The grammar read. -/
theorem sequence_of {u : State} (r : ∀ p ∈ gramReads, got (walkRead u p.1 p.2.length) = .ok p.2) : Say.Sequence u 0x400000 gram1 spans vals vals := by
  have h0 : got (walkRead u 0x400000 64) = .ok (gramBytes.take 64) := r (0x400000, gramBytes.take 64) (by decide)
  have h1 : got (walkRead u (gram1.at (16 * gram1.orule + 16 * (2 - gram1.t))) 16) = .ok ((gramBytes.drop 64).take 16) := r (0x400040, (gramBytes.drop 64).take 16) (by decide)
  have h2 : got (walkRead u (gram1.at (16 * gram1.olen + 8 * (2 - gram1.t))) 8) = .ok [2, 0, 0, 0, 0, 0, 0, 0] := r (0x400050, [2, 0, 0, 0, 0, 0, 0, 0]) (by decide)
  have h3 : got (walkRead u (gram1.at (16 * gram1.oterm + 0)) 1) = .ok [7] := r (0x400060, [7]) (by decide)
  have h4 : got (walkRead u (gram1.at (16 * gram1.oterm + 1)) 1) = .ok [9] := r (0x400061, [9]) (by decide)
  have l2 : got (symLen u gram1 2) = .ok 2 := len_of h2 (by decide) rfl (by decide)
  refine ⟨gram_of h0 (by decide) (by decide +kernel) (by decide +kernel) rfl l2, rfl, fun t ht => ?_, fun k h h' => ?_⟩
  · rcases (by change t < 2 at ht; omega : t = 0 ∨ t = 1) with rfl | rfl
    · have a := term_of h3 rfl (by decide); exact ⟨rfl, a.2, a.1⟩
    · have a := term_of h4 rfl (by decide); exact ⟨rfl, a.2, a.1⟩
  · obtain rfl : k = 2 := by change 2 ≤ k at h; change k < 3 at h'; omega
    exact ⟨[0, 1], kids_of h1 (by decide +kernel), by decide, l2⟩

/-- GFETCH of position 1 at its beginning: the grammar, the position and the destination. -/
theorem witness_walker : Say.Walks (.gfetch false 1) (.gfetch false 1) 0x81 (entryOf fetchCmd) (fun f => gramOf 0x400000 f.1 = gram1) fetching
    ∧ (∀ u, Say.Reading fetching u → Say.Sequence u 0x400000 gram1 spans vals vals ∧ got (walkNum u (ownVa + BitVec.ofNat 64 (8 * 0)) 8) = .ok 1)
    ∧ Say.Flat fetching (ownVa + 0x800 + BitVec.ofNat 64 (outWidth gram1 * 0)) (outWidth gram1) .write (ownKey + 0x800 + outWidth gram1 * 0)
    ∧ 1 < (spans gram1.start).length ∧ (spans gram1.start).length ≤ 2 ∧ Memory.wf fetching.mem = true := by
  refine ⟨⟨runs_of _ _ _ _ rfl rfl rfl rfl ⟨rfl, rfl, rfl, rfl⟩, rfl, rfl, .inl ⟨rfl, rfl, rfl⟩⟩, ?_, flat_of_check (by decide +kernel), by decide, by decide, by decide +kernel⟩
  intro u hu
  have r := reads_after (lim := ownKey + 2 ^ 20) (l := gramReads) (by decide +kernel) hu nofun
  exact ⟨sequence_of r, num_of (r (ownVa, [1, 0, 0, 0, 0, 0, 0, 0]) (by decide))⟩

/-- The same command at the re-read of a record, with the header that it has kept. -/
def kept : Entry := { entryOf fetchCmd with recWait := some ⟨2, 0, 0⟩, frozen := some (natOfBytes (gramBytes.take 64), 0) }
theorem witness_walker_reread : Say.Walks (.gfetch false 1) .walkerRecordPoll 0x81 kept (fun f => gramOf 0x400000 f.1 = gram1)
    (modCore (fun c => { c with cycles := 64 }) (queued .gq kept grammar)) :=
  ⟨runs_of _ _ _ _ rfl rfl rfl rfl ⟨rfl, rfl, rfl, rfl⟩, rfl, rfl, .inr ⟨rfl, ⟨_, rfl, by decide +kernel⟩, _, rfl, by decide, fun x hx _ _ => List.mem_singleton.mp hx⟩⟩

/-- The matrix's header as the walker reads it. -/
def mat1 : Gram := ⟨0x400000, true, 8, 1, 0, 0, 1, 1, 1, 0, 0, 4, 0, 5⟩
/-- GMV of its row, and GVM of its row. -/
def gmvCmd : Cmd := { cmdOf 0x84 with b := ownVa, f := ownVa + 0x800, flags := 2, a := 0x400000 }
def gvmCmd : Cmd := { cmdOf 0x85 with b := ownVa, f := ownVa + 0x800, a := 0x400000 }

/-- What the walker reads of the matrix and of x. -/
def matReads : List (Word × List Byte) :=
  [(0x400000, matBytes.take 64), (0x400040, [0, 0, 0xC0, 0x3F]), (0x400050, [0, 0, 0, 0]), (0x400054, [1, 0, 0, 0]), (0x400058, [0, 0, 0, 0]), (ownVa, [0, 0, 0, 0x40])]

/-- The matrix read, whatever has been written from the destination on. -/
theorem matrix_of {D : Nat → Prop} {s u : State} (hs : steady (ownKey + 0x800) matReads s = true) (hu : Say.After D s u) (hD : ∀ a, D a → ownKey + 0x800 ≤ a) :
    got (readGram u 0x400000) = .ok mat1 ∧ (∀ o, got (tableFor u mat1 0 0 o) = .ok ⟨partSlices s, 0, 0, o⟩) ∧ got (termVal u mat1 0) = .ok 0x3FC00000
      ∧ got (walkNum u ownVa 4) = .ok 0x40000000 ∧ got (readRow u mat1 false 0) = .ok [(0, 0, 1)] := by
  have r := reads_after hs hu hD
  have n0 : got (walkNum u 0x400000 64) = .ok (natOfBytes (matBytes.take 64)) := num_of (r (0x400000, matBytes.take 64) (by decide))
  have n1 : got (walkNum u (mat1.at 64) 4) = .ok 0x3FC00000 := num_of (r (0x400040, [0, 0, 0xC0, 0x3F]) (by decide))
  have n2 : got (walkNum u (mat1.at (80 + 4 * 0)) 4) = .ok 0 := num_of (r (0x400050, [0, 0, 0, 0]) (by decide))
  have n3 : got (walkNum u (mat1.at (80 + 4 * 0 + 4)) 4) = .ok 1 := num_of (r (0x400054, [1, 0, 0, 0]) (by decide))
  have h4 : got (walkRead u (mat1.at (80 + 4 * (1 + 1 + 0))) 4) = .ok [0, 0, 0, 0] := r (0x400058, [0, 0, 0, 0]) (by decide)
  have hp : partSlices u = partSlices s := by rw [hu.2.2]; rfl
  refine ⟨?_, fun o => ?_, ?_, num_of (r (ownVa, [0, 0, 0, 0x40]) (by decide)), ?_⟩
  · have hg : gramOf 0x400000 (natOfBytes (matBytes.take 64)) = mat1 := by decide +kernel
    have hb : badField (natOfBytes (matBytes.take 64)) mat1 = none := by decide +kernel
    unfold readGram
    rw [if_neg (by decide), got_bind, n0]
    simp only [Except.bind, hg, hb]
    rfl
  · unfold tableFor; simp [hp, show mat1.n = 0 from rfl]
  · unfold termVal termRaw
    rw [got_bind, if_neg (by decide)]
    show ((got (walkNum u (mat1.at 64) 4)).bind _) = _
    rw [n1]; rfl
  · unfold readRow
    rw [got_bind]
    show ((got (walkNum u (mat1.at (80 + 4 * 0)) 4)).bind _) = _
    rw [n2]
    simp only [Except.bind]
    rw [got_bind]
    show ((got (walkNum u (mat1.at (80 + 4 * 0 + 4)) 4)).bind _) = _
    rw [n3]
    simp only [Except.bind]
    rw [if_neg (by decide), got_bind]
    show ((got (walkRead u (mat1.at (80 + 4 * (1 + 1 + 0))) 4)).bind _) = _
    rw [h4]; rfl

/-- GMV of a row at its beginning: the matrix, x and y. -/
theorem witness_gmv :
    let s := queued .gq (entryOf gmvCmd) matrix
    let D := fun (a : Nat) => (∃ k, False ∧ 0 ≤ a ∧ a < k + 32) ∨ (∃ r, (0 ≤ r ∧ r ≤ 0) ∧ ownKey + 0x800 + 4 * r ≤ a ∧ a < ownKey + 0x800 + 4 * r + 4)
    Say.Walks (.gmv false 1) (.gmv false 1) 0x84 (entryOf gmvCmd) (fun f => gramOf 0x400000 f.1 = mat1) s ∧ (gmvCmd.flags.extractLsb' 1 2).toNat = 1
      ∧ (∀ u, Say.After D s u → got (readGram u gmvCmd.a) = .ok mat1 ∧ got (tableFor u mat1 0 0 ⟨3, 0, 0, 0⟩) = .ok ⟨partSlices s, 0, 0, ⟨3, 0, 0, 0⟩⟩
        ∧ got (termVal u mat1 0) = .ok 0x3FC00000 ∧ got (walkNum u (gmvCmd.b + BitVec.ofNat 64 (4 * 0)) 4) = .ok 0x40000000
        ∧ got (readRow u mat1 (gmvCmd.flags.getLsbD 0) 0) = .ok [(0, 0, 1)])
      ∧ mat1.n = 0 ∧ mat1.cols = 1 ∧ mat1.rows = 1 ∧ mat1.isMat = true ∧ mat1.floating = true
      ∧ Say.Flat s (gmvCmd.f + BitVec.ofNat 64 (4 * 0)) 4 .write (ownKey + 0x800 + 4 * 0) ∧ Memory.wf s.mem = true := by
  refine ⟨⟨runs_of _ _ _ _ rfl rfl rfl rfl ⟨rfl, rfl, rfl, rfl⟩, rfl, rfl, .inl ⟨rfl, rfl, rfl⟩⟩, rfl, fun u hu => ?_, rfl, rfl, rfl, rfl, rfl,
    flat_of_check (by decide +kernel), by decide +kernel⟩
  obtain ⟨h, t, v, x, r⟩ := matrix_of (by decide +kernel) hu fun a h => by
    obtain ⟨k, c, -⟩ | ⟨r, -, c, -⟩ := h
    · exact c.elim
    · exact le_trans (Nat.le_add_right _ _) c
  exact ⟨h, t _, v, x, r⟩

/-- GVM of a row at its beginning: the matrix, x and z. -/
theorem witness_gvm :
    let s := queued .gq (entryOf gvmCmd) matrix
    let D := fun (a : Nat) => ∃ k ∈ [((0 : Nat), (0 : Nat), (1 : Nat))], ownKey + 0x800 + 4 * (0 + k.2.1) ≤ a ∧ a < ownKey + 0x800 + 4 * (0 + k.2.1) + 4
    Say.Walks (.gvm false 1) (.gvm false 1) 0x85 (entryOf gvmCmd) (fun f => gramOf 0x400000 f.1 = mat1) s
      ∧ (∀ u, Say.After D s u → got (readGram u gvmCmd.a) = .ok mat1 ∧ got (tableFor u mat1 0 0 ⟨3, 1, 0, 0⟩) = .ok ⟨partSlices s, 0, 0, ⟨3, 1, 0, 0⟩⟩
        ∧ got (termVal u mat1 0) = .ok 0x3FC00000 ∧ got (walkNum u (gvmCmd.b + BitVec.ofNat 64 (4 * 0)) 4) = .ok 0x40000000
        ∧ got (readRow u mat1 (gvmCmd.flags.getLsbD 0) 0) = .ok [(0, 0, 1)])
      ∧ 0 + 1 ≤ mat1.cols ∧ Say.Flat s (gvmCmd.f + BitVec.ofNat 64 (4 * (0 + 0))) 4 .write (ownKey + 0x800 + 4 * (0 + 0)) ∧ (ownKey + 0x800 + 4 * 0) % 4 = 0
      ∧ ∀ m, ∃ p, engPlace { s with mem := m } (gvmCmd.f + BitVec.ofNat 64 (4 * (0 + 0))) 4 .amo = .ok p ∧ p.key = ownKey + 0x800 + 4 * (0 + 0) := by
  refine ⟨⟨runs_of _ _ _ _ rfl rfl rfl rfl ⟨rfl, rfl, rfl, rfl⟩, rfl, rfl, .inl ⟨rfl, rfl, rfl⟩⟩, fun u hu => ?_, by decide, flat_of_check (by decide +kernel),
    by decide +kernel, fun m => ?_⟩
  · obtain ⟨h, t, v, x, r⟩ := matrix_of (by decide +kernel) hu fun a ⟨k, _, h, _⟩ => le_trans (Nat.le_add_right _ _) h
    exact ⟨h, t _, v, x, r⟩
  · obtain ⟨q, h, k, _⟩ := (flat_of_check (s := queued .gq (entryOf gvmCmd) matrix) (va := gvmCmd.f) (n := 4) (acc := .amo) (k := ownKey + 0x800) (by decide +kernel)).1
      (0, 4) (by decide +kernel) m
    exact ⟨q, h, k⟩

/-! ### Contractions (R398 to R400) -/

/-- An operand of the block: an address, a format, and rows of 16 elements. -/
def operand (a : Word) (f : Byte) : List Byte := bytesOfNat 8 a.toNat ++ [0, f, 0, 0, 16, 0, 0, 0] ++ List.replicate 16 0
/-- A product of 16 by 16 matrices of i8 in the own scratchpad. -/
def conBytes : List Byte :=
  [0x47, 0x43, 0x4F, 0x4E, 0, 0, 0, 0, 16, 0, 0, 0, 16, 0, 0, 0, 16, 0, 0, 0, 1, 0, 0, 0] ++ bytesOfNat 8 (ownVa + 0x400).toNat ++ [0, 2, 0, 0]
    ++ List.replicate 28 0 ++ operand (ownVa + 0x1000) 0x10 ++ operand (ownVa + 0x1100) 0x10 ++ operand (ownVa + 0x2000) 0x12
/-- A GCON on it at its beginning; row 0 of A is 2, 5 and column 0 of B is 3, 7. -/
def contracting : State :=
  pm [(ownKey, conBytes), (ownKey + 0x1000, [2, 5]), (ownKey + 0x1100, [3]), (ownKey + 0x1110, [7])] (queued .gq (entryOf { cmdOf 0x87 with a := ownVa }) running)
/-- The block as it is held. -/
def frozenCon : Nat × Nat := (natOfBytes conBytes, 0)
/-- The GCON's entry once its block has been read, with the internal entries of its one part at the heads. -/
def conEntry : Entry := { entryOf { cmdOf 0x87 with a := ownVa } with frozen := some frozenCon }
def parted : State :=
  modCore (fun c => { c with gq := [conEntry], mq := [{ entryOf { cmdOf 0x01 with a := 0 } with ord := 5, inner := some 1 }]
                             cq := [{ entryOf (cmdOf 0x40) with ord := 6, inner := some 1 }] }) contracting

/-- The block is read, and the entries of a tile go to MQ, MZERO, MMA and MSTA, and to CQ, one for each staged operand (R400). -/
theorem test_gcon : after (.gcon false 1) contracting (fun t => (t.core.gq.map (·.frozen), t.core.mq.map (·.cmd.opc), t.core.cq.map (·.cmd.opc)))
    = some ([some frozenCon], [0x00, 0x01, 0x04], [0x40, 0x40]) := by decide +kernel
/-- The byte of A, and of B, at an address. -/
def tileA (a : Word) : List Byte := [if a = ownVa + 0x1000 then 2 else if a = ownVa + 0x1001 then 5 else 0]
def tileB (a : Word) : List Byte := [if a = ownVa + 0x1100 then 3 else if a = ownVa + 0x1110 then 7 else 0]

/-- GCON: a block that is read and one that is refused, room for a part, and the part at its end, whatever has been written but the result. -/
theorem witness_contraction :
    (Say.Runs .gq 0x87 (entryOf { cmdOf 0x87 with a := ownVa }) contracting ∧ got (readBlock contracting ownVa) = .ok frozenCon
      ∧ got (readBlock (queued .gq (entryOf { cmdOf 0x87 with a := ownVa }) running) ownVa) = .error (.fault 0x66 ownVa)
      ∧ contracting.core.mq.length + 4 ≤ 32 ∧ contracting.core.cq.length + 2 ≤ 32 ∧ contracting.core.locks.length + 9 ≤ 32)
    ∧ Say.Runs .gq 0x87 conEntry parted ∧ innersOf parted.core 1 ≠ [] ∧ innerRuns parted.core conEntry = true ∧ (contractionOf frozenCon).gram = none
    ∧ (∀ y z, y < 16 → z < 16 → Say.Flat parted (denseAddr (contractionOf frozenCon).blk.o 0 y z) 4 .write (ownKey + 0x2000 + 64 * y + 4 * z))
    ∧ Say.Flat parted (contractionOf frozenCon).blk.stage (contractionOf frozenCon).blk.sz .write (ownKey + 0x400)
    ∧ (∀ u, Say.Reading parted u → got (blockAt u (contractionOf frozenCon).blk.a 16 0 0) = .ok (some 0) ∧ got (blockAt u (contractionOf frozenCon).blk.b 16 0 0) = .ok (some 0)
        ∧ ∃ A B, got (operandTile u (contractionOf frozenCon) (contractionOf frozenCon).blk.a 0x10 16 0 0 0 0) = .ok A
          ∧ got (operandTile u (contractionOf frozenCon) (contractionOf frozenCon).blk.b 0x10 16 0 0 0 0) = .ok B ∧ A.length = 256 ∧ B.length = 256) := by
  refine ⟨⟨runs_of _ _ _ _ rfl rfl rfl rfl ⟨rfl, rfl, rfl, rfl⟩, by and_intros <;> decide +kernel⟩, runs_of _ _ _ _ rfl rfl rfl rfl ⟨rfl, rfl, rfl, rfl⟩,
    by decide +kernel, by decide +kernel, by decide +kernel, ?_, flat_of_check (by decide +kernel), ?_⟩
  · have h : ∀ y ∈ List.range 16, ∀ z ∈ List.range 16,
        flatCheck parted (denseAddr (contractionOf frozenCon).blk.o 0 y z) 4 .write (ownKey + 0x2000 + 64 * y + 4 * z) = true := by decide +kernel
    exact fun y z hy hz => flat_of_check (h y (List.mem_range.mpr hy) z (List.mem_range.mpr hz))
  · intro u hu
    have e : ∀ x ∈ [((contractionOf frozenCon).blk.a, tileA), ((contractionOf frozenCon).blk.b, tileB)],
        got (operandTile u (contractionOf frozenCon) x.1 0x10 16 0 0 0 0) = .ok ((tileAddrs x.1 0 0 0).map fun a => natOfBytes (x.2 a)) := by
      intro x hx
      have c : (x.1.kind == 0 && (tileAddrs x.1 0 0 0).all fun a =>
          steadyCheck parted a 1 (ownKey + 2 ^ 20) && decide (engRead parted a 1 0x70 = ⟨x.2 a, none⟩)) = true := by
        simp only [List.mem_cons, List.not_mem_nil, or_false] at hx
        rcases hx with rfl | rfl <;> decide +kernel
      rw [Bool.and_eq_true, List.all_eq_true] at c
      unfold operandTile
      rw [beq_iff_eq.mp c.1]
      simp only [show (0x10 = 0x06) = False from by decide, if_false]
      rw [got_readElems (f := x.2) fun a ha => ?_]
      · have d := c.2 a ha
        rw [Bool.and_eq_true] at d
        have d2 := of_decide_eq_true d.2
        rw [← d2]
        exact engRead_after 0x70 hu nofun d.1
    have ea := e ((contractionOf frozenCon).blk.a, tileA) (List.mem_cons_self ..)
    have eb := e ((contractionOf frozenCon).blk.b, tileB) (List.mem_cons_of_mem _ (List.mem_cons_self ..))
    refine ⟨by rw [blockAt, if_neg (by decide +kernel)]; rfl, by rw [blockAt, if_neg (by decide +kernel)]; rfl, _, _, ea, eb, ?_, ?_⟩ <;> rw [List.length_map, tileAddrs, List.length_map, List.length_range]

/-! ### Rule-result tables (R164 to R172) -/

/-- The slices of grove 0. -/
def slices0 : List Nat := (List.range 6144).filter fun i => groveOfTwig i == 0
/-- The partition of grove 0 with 256 KiB of scratch at each of its slices. -/
def scratched (s : State) : State := { s with root := { s.root with parts := [⟨1, 1, slices0.map fun i => (i, 262144), [], none⟩] } }
/-- A GEVAL of the one rule with add.i, its table at offset 0. -/
def evalCmd : Cmd := { cmdOf 0x80 with a := 0x400000, b := 2, e := 0x200000002 }
def evaluating : State := scratched (walking evalCmd)
/-- The table of it. -/
def table1 : Table := ⟨slices0, 0, 0, ⟨2, 0, 0, 0⟩⟩

theorem test_geval : after (.geval false 1) evaluating (fun t => (ended .gq t, memNat t.mem (scratchKey 2 0) 8, memNat t.mem (scratchKey 2 8) 8))
    = some (some 0, 2 + 2 * 2 ^ 48 + 2 ^ 63, 16) := by decide +kernel

/-- A table does not depend on what a command has written. -/
theorem table_after {D : Nat → Prop} {s u : State} (hu : Say.After D s u) (g : Gram) (tb ep : Nat) (o : Lift) : tableFor u g tb ep o = tableFor s g tb ep o := by
  rw [hu.2.2]; rfl

/-- GEVAL of a rule: the grammar, whatever has been written into the record, its place, and the table. -/
theorem witness_geval : Say.Walks (.geval false 1) (.geval false 1) 0x80 (entryOf evalCmd) (fun f => gramOf 0x400000 f.1 = gram1) evaluating
    ∧ (∀ u, Say.After (fun a => ∃ k, 2 ≤ k ∧ k ≤ 2 ∧ scratchKey 2 0 ≤ a ∧ a < scratchKey 2 0 + 32) evaluating u →
        Say.Sequence u 0x400000 gram1 spans vals vals ∧ got (tableFor u gram1 0 0 ⟨2, 0, 0, 0⟩) = .ok table1)
    ∧ (Say.Flat evaluating (recVa table1 gram1 2) 32 .write (scratchKey 2 0) ∧ Say.Flat evaluating (recVa table1 gram1 2) 32 .read (scratchKey 2 0))
    ∧ evalCmd.e.toNat % 2 ^ 32 = 2 ∧ evalCmd.e.toNat / 2 ^ 32 = 2 ∧ gram1.t ≤ 2 ∧ 2 < gram1.t + gram1.n ∧ gram1.floating = false ∧ Memory.wf evaluating.mem = true := by
  refine ⟨⟨runs_of _ _ _ _ rfl rfl rfl rfl ⟨rfl, rfl, rfl, rfl⟩, rfl, rfl, .inl ⟨rfl, rfl, rfl⟩⟩, fun u hu => ⟨?_, ?_⟩,
    ⟨flat_of_check (by decide +kernel), flat_of_check (by decide +kernel)⟩, by and_intros <;> decide +kernel⟩
  · exact sequence_of (reads_after (lim := scratchKey 2 0) (by decide +kernel) hu fun a ⟨_, _, _, h, _⟩ => h)
  · rw [table_after hu]; decide +kernel

/-- The record of the rule, valid for add.i: 7 + 9 = 16. -/
def record2 : List Byte := [2, 0, 0, 0, 0, 0, 2, 0x80, 16] ++ List.replicate 23 0
/-- A GPREF of the sum up to position 0, in a table that holds the record. -/
def prefCmd : Cmd := { cmdOf 0x82 with a := 0x400000, b := 2, e := 0, f := ownVa + 0x800 }
def prefixing : State := pm [(scratchKey 2 0, record2)] (scratched (walking prefCmd))
theorem test_gpref : after (.gpref false 1) (scratched (walking prefCmd)) (fun t => (ended .gq t, memNat t.mem (ownKey + 0x800) 8)) = some (some 0, 7) := by decide +kernel

/-- GPREF, and a GEXP with `scan`: the grammar and the valid records of its table. -/
theorem witness_scan : Say.Walks (.gpref false 1) (.gpref false 1) 0x82 (entryOf prefCmd) (fun f => gramOf 0x400000 f.1 = gram1) prefixing
    ∧ (∀ u, Say.Reading prefixing u → Say.Sequence u 0x400000 gram1 spans vals vals ∧ got (tableFor u gram1 0 0 ⟨2, 0, 0, 0⟩) = .ok table1
        ∧ got (validRec u table1 gram1 2) = .ok record2 ∧ recordAttr ⟨2, 0, 0, 0⟩ record2 = [Say.total vals (spans 2)])
    ∧ Say.Flat prefixing prefCmd.f (8 * prefCmd.reps) .write (ownKey + 0x800) ∧ Memory.wf prefixing.mem = true := by
  refine ⟨⟨runs_of _ _ _ _ rfl rfl rfl rfl ⟨rfl, rfl, rfl, rfl⟩, rfl, rfl, .inl ⟨rfl, rfl, rfl⟩⟩, fun u hu => ⟨?_, ?_, ?_, by decide +kernel⟩,
    flat_of_check (by decide +kernel), by decide +kernel⟩
  · exact sequence_of (reads_after (lim := 2 ^ 62) (by decide +kernel) hu nofun)
  · rw [table_after hu]; decide +kernel
  · have r := reads_after (lim := 2 ^ 62) (l := [(recVa table1 gram1 2, record2)]) (by decide +kernel) hu nofun
    have h : got (walkRead u (recVa table1 gram1 2) 32) = .ok record2 := r (recVa table1 gram1 2, record2) (.head _)
    unfold validRec
    rw [got_bind, h]
    simp only [Except.bind]
    rw [if_pos (by decide +kernel)]
    rfl

/-- A sequence of two rules: 2 stands for 0 1, and 3 for 2 0. -/
def gramBytes2 : List Byte :=
  words [0x314d5247, 0x10801, 2, 2, 3] ++ List.replicate 12 0 ++ words [3, 0, 4, 6, 7] ++ List.replicate 12 0
def ruleBytes (k : Nat) : List Byte := [BitVec.ofNat 8 (2 * k), 0, 0, 0, BitVec.ofNat 8 (1 - k), 0, 0, 0, 0xFF, 0xFF, 0xFF, 0xFF, 0xFF, 0xFF, 0xFF, 0xFF]
def gram2 : Gram := ⟨0x400000, false, 1, 2, 2, 3, 0, 0, 3, 4, 6, 7, 0, 0⟩
def spans2 (k : Nat) : List Nat := if k < 2 then [k] else if k = 2 then [0, 1] else [0, 1, 0]
/-- What the walker reads of it. -/
def gramReads2 : List (Word × List Byte) :=
  [(0x400000, gramBytes2), (0x400040, ruleBytes 0), (0x400050, ruleBytes 1), (0x400060, [2, 0, 0, 0, 0, 0, 0, 0]), (0x400068, [3, 0, 0, 0, 0, 0, 0, 0]),
    (0x400070, [7]), (0x400071, [9])]
/-- 32 bytes that are no valid record. -/
def noRecord : List Byte := List.replicate 32 0
/-- A GEVAL of rule 3, whose child's record is not valid. -/
def laterCmd : Cmd := { cmdOf 0x80 with a := 0x400000, b := 2, e := 0x300000003 }
def lacking : State :=
  scratched (queued .gq (entryOf laterCmd) (pm [(0x10000, gramBytes2 ++ ruleBytes 0 ++ ruleBytes 1 ++ [2, 0, 0, 0, 0, 0, 0, 0, 3, 0, 0, 0, 0, 0, 0, 0, 7, 9])] collecting))

/-- The walker waits for the record (R167); it asks again after 64 cycles, and gives up after 2^24. -/
theorem test_record_wait : after (.geval false 1) lacking (fun t => t.core.gq.map (·.recWait)) = some [some ⟨2, 0, 0⟩] := by decide +kernel
theorem test_record_poll : after .walkerRecordPoll (modCore (fun c => { c with cycles := 64, gq := [{ entryOf laterCmd with recWait := some ⟨2, 0, 0⟩ }] }) lacking)
    (fun t => t.core.gq.map (·.recWait)) = some [some ⟨2, 0, 64⟩] := by decide +kernel
theorem test_record_timeout : after .walkerRecordTimeout (modCore (fun c => { c with cycles := 2 ^ 24, gq := [{ entryOf laterCmd with recWait := some ⟨2, 0, 0⟩ }] }) lacking)
    (fun t => (ended .gq t, t.core.gq.map (·.tval))) = some (some 0x65, [2]) := by decide +kernel

/-- The record clauses: the grammar, a first child that is a rule, and its record, which is not valid. -/
theorem witness_record_wait : Say.Runs .gq 0x80 (entryOf laterCmd) lacking ∧ laterCmd.e.toNat % 2 ^ 32 = 3 ∧ laterCmd.e.toNat / 2 ^ 32 = 3
    ∧ (∀ u, Say.Reading lacking u → Say.Sequence u 0x400000 gram2 spans2 vals vals ∧ got (tableFor u gram2 0 0 ⟨2, 0, 0, 0⟩) = .ok table1
        ∧ got (ruleKids u gram2 3) = .ok (2 :: [0]) ∧ got (validRec u table1 gram2 2) = .error (.record 2)) := by
  refine ⟨runs_of _ _ _ _ rfl rfl rfl rfl ⟨rfl, rfl, rfl, rfl⟩, by decide, by decide, fun u hu => ?_⟩
  have r := reads_after (lim := 2 ^ 62) (l := gramReads2) (by decide +kernel) hu nofun
  have h0 : got (walkRead u 0x400000 64) = .ok gramBytes2 := r (0x400000, gramBytes2) (by decide)
  have h1 : got (walkRead u (gram2.at (16 * gram2.orule + 16 * (2 - gram2.t))) 16) = .ok (ruleBytes 0) := r (0x400040, ruleBytes 0) (by decide)
  have h2 : got (walkRead u (gram2.at (16 * gram2.orule + 16 * (3 - gram2.t))) 16) = .ok (ruleBytes 1) := r (0x400050, ruleBytes 1) (by decide)
  have h3 : got (walkRead u (gram2.at (16 * gram2.olen + 8 * (2 - gram2.t))) 8) = .ok [2, 0, 0, 0, 0, 0, 0, 0] := r (0x400060, [2, 0, 0, 0, 0, 0, 0, 0]) (by decide)
  have h4 : got (walkRead u (gram2.at (16 * gram2.olen + 8 * (3 - gram2.t))) 8) = .ok [3, 0, 0, 0, 0, 0, 0, 0] := r (0x400068, [3, 0, 0, 0, 0, 0, 0, 0]) (by decide)
  have h5 : got (walkRead u (gram2.at (16 * gram2.oterm + 0)) 1) = .ok [7] := r (0x400070, [7]) (by decide)
  have h6 : got (walkRead u (gram2.at (16 * gram2.oterm + 1)) 1) = .ok [9] := r (0x400071, [9]) (by decide)
  have q := reads_after (lim := 2 ^ 62) (l := [(recVa table1 gram2 2, noRecord)]) (by decide +kernel) hu nofun
  have h7 : got (walkRead u (recVa table1 gram2 2) 32) = .ok noRecord := q (recVa table1 gram2 2, noRecord) (.head _)
  have l2 : got (symLen u gram2 2) = .ok 2 := len_of h3 (by decide) rfl (by decide)
  have l3 : got (symLen u gram2 3) = .ok 3 := len_of h4 (by decide) rfl (by decide)
  have k3 : got (ruleKids u gram2 3) = .ok [2, 0] := kids_of h2 (by decide +kernel)
  refine ⟨⟨gram_of h0 (by decide) (by decide +kernel) (by decide +kernel) rfl l3, rfl, fun t ht => ?_, fun k h h' => ?_⟩, ?_, k3, ?_⟩
  · rcases (by change t < 2 at ht; omega : t = 0 ∨ t = 1) with rfl | rfl
    · have a := term_of h5 rfl (by decide); exact ⟨rfl, a.2, a.1⟩
    · have a := term_of h6 rfl (by decide); exact ⟨rfl, a.2, a.1⟩
  · rcases (by change 2 ≤ k at h; change k < 4 at h'; omega : k = 2 ∨ k = 3) with rfl | rfl
    · exact ⟨[0, 1], kids_of h1 (by decide +kernel), by decide, l2⟩
    · exact ⟨[2, 0], k3, by decide, l3⟩
  · rw [table_after hu]; decide +kernel
  · unfold validRec
    rw [got_bind, h7]
    simp only [Except.bind]
    rw [if_neg (by decide +kernel)]
    rfl

/-! ### Rotations (R174, R397) -/

/-- Bytes of generator `b` of `turning`: a quarter turn for the first, zeros for the others. -/
def genBytes (b : Nat) : List Byte := if b = 0 then [0, 0, 0, 0, 0, 0, 0x80, 0x3F] else List.replicate 8 0
/-- What the walker reads of the generators. -/
def genReads : List (Word × List Byte) := (List.range 32).map fun b => (ownVa + 0x400 + BitVec.ofNat 64 (8 * b), genBytes b)
/-- A generator as cosine and sine. -/
def quarter (b _ : Nat) : Nat × Nat := if b = 0 then (0, 0x3F800000) else (0, 0)

/-- The generators that are read. -/
theorem gens_of {u : State} (r : ∀ p ∈ genReads, got (walkRead u p.1 p.2.length) = .ok p.2) (b : Nat) (hb : b < 32) :
    ∃ bs, got (walkRead u (ownVa + 0x400 + BitVec.ofNat 64 (8 * 1 * b)) (8 * 1)) = .ok bs ∧ bs.length = 8 * 1
      ∧ ∀ j, j < 1 → (natOfBytes ((bs.drop (8 * j)).take 4), natOfBytes ((bs.drop (8 * j + 4)).take 4)) = quarter b j := by
  have h := r _ (List.mem_map_of_mem (f := fun b => (ownVa + 0x400 + BitVec.ofNat 64 (8 * b), genBytes b)) (List.mem_range.mpr hb))
  have n : (genBytes b).length = 8 := by unfold genBytes; split <;> rfl
  rw [n] at h
  refine ⟨genBytes b, h, n, fun j hj => ?_⟩
  obtain rfl : j = 0 := by omega
  unfold genBytes quarter
  split <;> decide +kernel

/-- A rotary block that is read, with legal fields. -/
theorem rotary_of {u : State} {va : Word} {bs : List Byte} {r : Rotary} (h : got (walkRead u va 64) = .ok bs)
    (hv : (let v := natOfBytes bs
           (if bits v 384 7 < 1 || bits v 384 7 > 64 || bits v 391 25 != 0 || bits v 448 64 != 0 then none
            else some ⟨BitVec.ofNat 64 (bits v 0 64), BitVec.ofNat 64 (bits v 64 64), BitVec.ofNat 64 (bits v 128 64), BitVec.ofNat 64 (bits v 192 64),
              BitVec.ofNat 64 (bits v 256 64), BitVec.ofNat 64 (bits v 320 64), bits v 384 7, bits v 416 32⟩ : Option Rotary)) = some r) : got (readRotary u va) = .ok r := by
  unfold readRotary
  rw [got_bind, num_of h]
  simp only [Except.bind]
  revert hv
  dsimp only
  split
  · simp
  · intro e; simp only [Option.some.injEq] at e; subst e; simp_all; rfl

/-- The block of `turning`. -/
def turnBytes : List Byte :=
  bytesOfNat 8 (ownVa + 0x400).toNat ++ List.replicate 16 0 ++ bytesOfNat 8 (ownVa + 0x180).toNat ++ bytesOfNat 8 (ownVa + 0x190).toNat ++ bytesOfNat 8 (ownVa + 0x800).toNat
    ++ [1, 0, 0, 0, 2, 0, 0, 0] ++ List.replicate 8 0
def turn1 : Rotary := ⟨ownVa + 0x400, 0, 0, ownVa + 0x180, ownVa + 0x190, ownVa + 0x800, 1, 2⟩
/-- The query and the two offsets that it is turned by. -/
def turnReads : List (Word × List Byte) :=
  [(ownVa + 0x100, turnBytes), (ownVa + 0x190 + BitVec.ofNat 64 (4 * 0), [0, 0, 0, 0]), (ownVa + 0x190 + BitVec.ofNat 64 (4 * 1), [1, 0, 0, 0]),
    (ownVa + 0x180, [0, 0, 0x80, 0x3F, 0, 0, 0, 0x40])]
def turnCmd : Cmd := { cmdOf 0x86 with b := ownVa + 0x100, flags := 2, a := 0x400000 }

/-- GROT of queries: the block, the offsets, the query, the generators and the destination. -/
theorem witness_grot_query : Say.Walks (.grot false 1) (.grot false 1) 0x86 (entryOf turnCmd) (fun f => rotaryOf f.2 = turn1) turning ∧ turnCmd.flags.getLsbD 1 = true
    ∧ (∀ u, Say.Reading turning u → got (readRotary u turnCmd.b) = .ok turn1
      ∧ (∀ j, j < turn1.count → got (walkNum u (turn1.olist + BitVec.ofNat 64 (4 * j)) 4) = .ok j)
      ∧ (∃ bs, got (walkRead u turn1.qsrc (8 * turn1.p)) = .ok bs ∧ bs.length = 8 * turn1.p
          ∧ ∀ j, j < 2 * turn1.p → natOfBytes ((bs.drop (4 * j)).take 4) = if j = 0 then 0x3F800000 else 0x40000000)
      ∧ ∀ b, b < 32 → ∃ bs, got (walkRead u (turn1.gbase + BitVec.ofNat 64 (8 * turn1.p * b)) (8 * turn1.p)) = .ok bs ∧ bs.length = 8 * turn1.p
          ∧ ∀ j, j < turn1.p → (natOfBytes ((bs.drop (8 * j)).take 4), natOfBytes ((bs.drop (8 * j + 4)).take 4)) = quarter b j)
    ∧ Say.Flat turning turn1.out (8 * turn1.p * turn1.count) .write (ownKey + 0x800) ∧ Memory.wf turning.mem = true := by
  refine ⟨⟨runs_of _ _ _ _ rfl rfl rfl rfl ⟨rfl, rfl, rfl, rfl⟩, rfl, rfl, .inl ⟨rfl, rfl, rfl⟩⟩, rfl, fun u hu => ?_, flat_of_check (by decide +kernel), by decide +kernel⟩
  have r := reads_after (lim := 2 ^ 62) (l := turnReads) (by decide +kernel) hu nofun
  have q := reads_after (lim := 2 ^ 62) (l := genReads) (by decide +kernel) hu nofun
  refine ⟨rotary_of (r (ownVa + 0x100, turnBytes) (by decide)) (by decide +kernel), fun j hj => ?_,
    ⟨_, r (ownVa + 0x180, [0, 0, 0x80, 0x3F, 0, 0, 0, 0x40]) (by decide), rfl, fun j hj => ?_⟩, gens_of q⟩
  · rcases (by change j < 2 at hj; omega : j = 0 ∨ j = 1) with rfl | rfl
    · exact num_of (r (ownVa + 0x190 + BitVec.ofNat 64 (4 * 0), [0, 0, 0, 0]) (by decide))
    · exact num_of (r (ownVa + 0x190 + BitVec.ofNat 64 (4 * 1), [1, 0, 0, 0]) (by decide))
  · rcases (by change j < 2 at hj; omega : j = 0 ∨ j = 1) with rfl | rfl <;> decide +kernel

/-- A sequence of one rule over two terminals of fp32. -/
def gramBytesF : List Byte := gramBytes.set 6 8
def gramF : Gram := { gram1 with tf := 8 }
/-- A block whose key block goes to 0x800; the keys, at 0x600, are zeros. -/
def keyBytes : List Byte :=
  bytesOfNat 8 (ownVa + 0x400).toNat ++ bytesOfNat 8 (ownVa + 0x600).toNat ++ bytesOfNat 8 (ownVa + 0x800).toNat ++ List.replicate 24 0 ++ [1, 0, 0, 0] ++ List.replicate 12 0
def key1 : Rotary := ⟨ownVa + 0x400, ownVa + 0x600, ownVa + 0x800, 0, 0, 0, 1, 0⟩
def keyCmd : Cmd := { cmdOf 0x86 with b := ownVa + 0x100, a := 0x400000, e := 0x200000002 }
def keying : State :=
  scratched (queued .gq (entryOf keyCmd) (pm [(0x10000, gramBytesF), (ownKey + 0x100, keyBytes), (ownKey + 0x404, [0, 0, 0x80, 0x3F])] collecting))
def keyReads : List (Word × List Byte) :=
  [(ownVa + 0x100, keyBytes), (0x400000, gramBytesF.take 64), (0x400040, (gramBytes.drop 64).take 16), (0x400050, [2, 0, 0, 0, 0, 0, 0, 0]),
    (ownVa + 0x600 + BitVec.ofNat 64 (8 * 1 * 0), List.replicate 8 0), (ownVa + 0x600 + BitVec.ofNat 64 (8 * 1 * 1), List.replicate 8 0)]
/-- The table of a rotation. -/
def tableF : Table := ⟨slices0, 0, 0, ⟨4, 0, 0, 0⟩⟩

/-- The rule that is read, with the offsets of its two terminals. -/
theorem rule_of {u : State} (hk : got (ruleKids u gramF 2) = .ok [0, 1]) (hl : got (symLen u gramF 2) = .ok 2) :
    got (readRule u gramF false 2) = .ok ⟨2, [(0, 0, 1), (1, 1, 1)]⟩ := by
  unfold readRule
  rw [got_bind, hk]
  simp only [Except.bind]
  rw [got_bind, hl]
  simp only [Except.bind]
  rfl

/-- GROT of a key block: the block, the sequence, its rule, the keys, the generators and the destinations. -/
theorem witness_grot_keys : Say.Walks (.grot false 1) (.grot false 1) 0x86 (entryOf keyCmd) (fun f => rotaryOf f.2 = key1 ∧ gramOf 0x400000 f.1 = gramF) keying ∧ keyCmd.flags.getLsbD 1 = false ∧ gramF.floating = true
    ∧ keyCmd.e.toNat % 2 ^ 32 = 2 ∧ keyCmd.e.toNat / 2 ^ 32 = 2 ∧ gramF.isMat = false
    ∧ (∀ u, Say.Reading keying u → got (readRotary u keyCmd.b) = .ok key1 ∧ got (readGram u keyCmd.a) = .ok gramF
      ∧ got (tableFor u gramF keyCmd.c.toNat keyCmd.fmtA.toNat ⟨4, 0, 0, 0⟩) = .ok tableF
      ∧ got (readRule u gramF (keyCmd.flags.getLsbD 0) 2) = .ok ⟨2, [(0, 0, 1), (1, 1, 1)]⟩
      ∧ (∀ k ∈ [((0 : Nat), (0 : Nat), (1 : Nat)), (1, 1, 1)], k.1 < gramF.t ∧ k.2.1 < 2 ^ 32 ∧ ∃ bs, got (walkRead u (key1.keys + BitVec.ofNat 64 (8 * key1.p * k.1)) (8 * key1.p)) = .ok bs
          ∧ bs.length = 8 * key1.p ∧ ∀ j, j < 2 * key1.p → natOfBytes ((bs.drop (4 * j)).take 4) = 0)
      ∧ ∀ b, b < 32 → ∃ bs, got (walkRead u (key1.gbase + BitVec.ofNat 64 (8 * key1.p * b)) (8 * key1.p)) = .ok bs ∧ bs.length = 8 * key1.p
          ∧ ∀ j, j < key1.p → (natOfBytes ((bs.drop (8 * j)).take 4), natOfBytes ((bs.drop (8 * j + 4)).take 4)) = quarter b j)
    ∧ Say.Flat keying key1.kbase (8 * key1.p * 2) .write (ownKey + 0x800) ∧ Say.Flat keying (recVa tableF gramF 2) 32 .write (scratchKey 2 0) := by
  refine ⟨⟨runs_of _ _ _ _ rfl rfl rfl rfl ⟨rfl, rfl, rfl, rfl⟩, rfl, rfl, .inl ⟨rfl, rfl, rfl⟩⟩, rfl, rfl, by decide, by decide, rfl, fun u hu => ?_,
    flat_of_check (by decide +kernel), flat_of_check (by decide +kernel)⟩
  have r := reads_after (lim := 2 ^ 62) (l := keyReads) (by decide +kernel) hu nofun
  have q := reads_after (lim := 2 ^ 62) (l := genReads) (by decide +kernel) hu nofun
  have h1 : got (walkRead u (gramF.at (16 * gramF.orule + 16 * (2 - gramF.t))) 16) = .ok ((gramBytes.drop 64).take 16) := r (0x400040, (gramBytes.drop 64).take 16) (by decide)
  have h2 : got (walkRead u (gramF.at (16 * gramF.olen + 8 * (2 - gramF.t))) 8) = .ok [2, 0, 0, 0, 0, 0, 0, 0] := r (0x400050, [2, 0, 0, 0, 0, 0, 0, 0]) (by decide)
  have l2 : got (symLen u gramF 2) = .ok 2 := len_of h2 (by decide) rfl (by decide)
  refine ⟨rotary_of (r (ownVa + 0x100, keyBytes) (by decide)) (by decide +kernel),
    gram_of (r (0x400000, gramBytesF.take 64) (by decide)) (by decide) (by decide +kernel) (by decide +kernel) rfl l2, ?_,
    rule_of (kids_of h1 (by decide +kernel)) l2, fun k hk => ?_, gens_of q⟩
  · rw [table_after hu]; decide +kernel
  · rcases (by simpa using hk : k = (0, 0, 1) ∨ k = (1, 1, 1)) with rfl | rfl
    · exact ⟨by decide, by decide, _, r (ownVa + 0x600 + BitVec.ofNat 64 (8 * 1 * 0), List.replicate 8 0) (by decide), rfl, fun j hj => by
        rcases (by change j < 2 at hj; omega : j = 0 ∨ j = 1) with rfl | rfl <;> decide⟩
    · exact ⟨by decide, by decide, _, r (ownVa + 0x600 + BitVec.ofNat 64 (8 * 1 * 1), List.replicate 8 0) (by decide), rfl, fun j hj => by
        rcases (by change j < 2 at hj; omega : j = 0 ∨ j = 1) with rfl | rfl <;> decide⟩

/-! ### Storage and the peer transport (chapters 4 and 16) -/

/-- Blocks 0 to 999 of namespace 1 of drive 0, of 512 B, for reading and writing. -/
def ext1 : Extent := ⟨0, 1, 0, 1000, 512, true, true⟩
/-- A read and a write of 8 B under way for the first command of CQ. -/
def piece (read : Bool) : Piece := ⟨3, 0, .cq, false, 1, read, 0, 8, 0, 1, 0, ownVa, [], false, false, 0, false⟩
/-- A storage command dispatched, with one piece outstanding. -/
def moving (opc : BitVec 8) (p : Piece) : State :=
  let s := queued .cq { entryOf { cmdOf opc with c := 512, e := 16 } with outstanding := 1 } running
  { s with io := { s.io with pieces := [p] }, root := { s.root with procs := [⟨0, 0, 1, false, [ext1], []⟩] } }

/-- S1, at the latest time that any timeout waits for. -/
def serving : State := { running with pkg := { running.pkg with sl := 1, time := 6000000000 } }

theorem test_srd_no_extent : after (.srd false 1) (queued .cq (entryOf { cmdOf 0x46 with c := 512, e := 16 }) running) (ended .cq) = some (some 0x80) := by decide +kernel
theorem test_swr_past_extent : after (.swr false 1) (queued .cq (entryOf { cmdOf 0x47 with b := 1000, c := 512, e := 16 }) (moving 0x47 (piece false))) (ended .cq)
    = some (some 0x80) := by decide +kernel
theorem test_piece_complete : after (.nvmePieceComplete 3 true [1, 2, 3, 4, 5, 6, 7, 8]) (moving 0x46 (piece true))
    (fun t => (ended .cq t, memRead t.mem ownKey 8, t.io.pieces.length)) = some (some 0, [1, 2, 3, 4, 5, 6, 7, 8], 0) := by decide +kernel
theorem test_piece_fails : after (.nvmePieceComplete 3 false []) (moving 0x47 (piece false)) (ended .cq) = some (some 0x81) := by decide +kernel
theorem test_piece_times_out : ended .cq (endPiece (piece false) false 0x82 [] (moving 0x47 (piece false))) = some 0x82 := by decide +kernel
theorem test_extents_refused : after (.extentTableFill ⟨true, 0⟩ (List.replicate 65 ext1)) serving (fun t => (t.root.procs.map (·.extents), t.io.outs))
    = some ([[]], [.refused, .msi true 0]) := by decide +kernel
theorem test_extents_s0 : after (.extentTableFill ⟨false, 0⟩ [ext1]) running (fun t => t.root.procs.map (·.extents)) = some [[]] := by decide +kernel

/-- Storage commands: an extent that covers the transfer and none, and a range. -/
theorem witness_storage : Say.Starts 0x46 (entryOf { cmdOf 0x46 with c := 512, e := 16 }) (queued .cq (entryOf { cmdOf 0x46 with c := 512, e := 16 }) (moving 0x46 (piece true)))
    ∧ Say.Starts 0x47 (entryOf { cmdOf 0x47 with a := ownVa, c := 512, e := 16 }) (queued .cq (entryOf { cmdOf 0x47 with a := ownVa, c := 512, e := 16 }) (moving 0x47 (piece false)))
    ∧ Say.Flat (moving 0x47 (piece false)) ownVa 512 .read ownKey ∧ Say.Flat (moving 0x46 (piece true)) ownVa 8 .write ownKey
    ∧ extentFor (moving 0x46 (piece true)) true 0 1 0 512 = some ext1 ∧ extentFor (moving 0x46 (piece true)) false 0 1 999 512 = some ext1
    ∧ extentFor (moving 0x46 (piece true)) true 0 1 1000 512 = none ∧ extentFor running true 0 1 0 512 = none :=
  ⟨⟨runs_of _ _ _ _ rfl rfl rfl rfl ⟨rfl, rfl, rfl, rfl⟩, rfl⟩, ⟨runs_of _ _ _ _ rfl rfl rfl rfl ⟨rfl, rfl, rfl, rfl⟩, rfl⟩,
    flat_of_check (by decide +kernel), flat_of_check (by decide +kernel), by and_intros <;> decide +kernel⟩

/-- Whether no part of a range of a window lies in host space. -/
def insideCheck (s : State) (va : Word) (n : Nat) (acc : Acc) : Bool :=
  (lineParts va n).all fun p => inWindow (va + BitVec.ofNat 64 p.1) && match engPlace s (va + BitVec.ofNat 64 p.1) p.2 acc with
    | .ok q => q.loc != .host
    | .error _ => true
/-- It does not, whatever stands in memory. -/
theorem inside_of_check {s : State} {va : Word} {n : Nat} {acc : Acc} (h : insideCheck s va n acc = true) : Say.Inside s va n acc := by
  intro p hp m q hq
  simp only [insideCheck, List.all_eq_true, Bool.and_eq_true] at h
  obtain ⟨hw, hk⟩ := h p hp
  have e : engPlace { s with mem := m } (va + BitVec.ofNat 64 p.1) p.2 acc = engPlace s (va + BitVec.ofNat 64 p.1) p.2 acc := by
    unfold engPlace; rw [if_pos hw, if_pos hw]; rfl
  rw [e] at hq
  rw [hq] at hk
  simpa using hk
/-- The own pool, and a page of host space, as source and as destination. -/
theorem witness_storage_places : Say.Inside (moving 0x47 (piece false)) ownVa 512 .read ∧ Say.Inside (moving 0x46 (piece true)) ownVa 8 .write
    ∧ engPlace collecting 0x500000 (min 512 (128 - 0)) .read = .ok hostPlace ∧ engPlace collecting 0x500000 (min 8 (128 - 0)) .write = .ok hostPlace
    ∧ hostPlace.loc = .host ∧ (moving 0x46 (piece true)).ms.poisonList = [] ∧ (piece true).ckpt = false ∧ (piece true).rawb = false :=
  ⟨inside_of_check (by decide +kernel), inside_of_check (by decide +kernel), by and_intros <;> decide +kernel⟩

/-- Pieces: one of a dispatched command that may end, before its timeout and after; extents that a process is given and some that it is not. -/
theorem witness_pieces : piece true ∈ (moving 0x46 (piece true)).io.pieces ∧ (∀ q ∈ (moving 0x46 (piece true)).io.pieces, q.id = (piece true).id → q = piece true)
    ∧ (let s := moving 0x46 (piece true)
       let e := { entryOf { cmdOf 0x46 with c := 512, e := 16 } with outstanding := 1 }
       s.core.queue .cq = [e] ∧ e.st = .flight ∧ e.inner = none ∧ e.inject = none ∧ (piece true).core = s.core.num ∧ (piece true).bank = e.bank ∧ (piece true).seq = e.seq
         ∧ pieceOver s (piece true) = true ∧ Memory.wf s.mem = true ∧ s.pkg.time = 0)
    ∧ (piece true).since + nvmeTicks (piece true).drive ≤ serving.pkg.time ∧ (moving 0x46 (piece true)).pkg.time < (piece true).since + nvmeTicks (piece true).drive
    ∧ serving.pkg.sl ≠ 0 ∧ [ext1].length ≤ 64 ∧ ext1.drive < 16 ∧ ext1.lba = 512 ∧ 64 < (List.replicate 65 ext1).length ∧ ({ ext1 with lba := 1024 } : Extent).lba ≠ 4096 := by
  refine ⟨List.mem_singleton.mpr rfl, fun q h _ => List.mem_singleton.mp h, by decide +kernel, ?_, ?_, by decide +kernel⟩
  · change 0 + max 100000 (min 6000000000 (Config.nvmePolicy 0)) ≤ 6000000000
    omega
  · change 0 < 0 + max 100000 (min 6000000000 (Config.nvmePolicy 0))
    omega

/-- A connection whose peer may write and read the DRAM page with key 5 (R79). -/
def peer1 : Peer := ⟨7, .opened, false, ⟨0, 77, 5, [⟨5, 0x400000, 4096, true, true⟩]⟩, 20, 10, 0, 0, [], []⟩
/-- A packet that arrives on it. -/
def pkt1 (op : Nat) (seq : W32) (data : List Byte) : PeerPkt := ⟨1, op, true, false, 77, seq, 5, 0x400000, data.length, 0, data⟩
/-- A peer command, dispatched, on a connection. -/
def peering (e : Entry) (p : Peer) : State :=
  let s := queued .cq e collecting
  { s with io := { s.io with peers := [p] } }
/-- NWR and NRD commands of connection 7. -/
def nwr1 : Entry := entryOf { cmdOf 0x49 with a := 0x9000, b := ownVa, c := 4, e := 7 }
def nrd1 : Entry := entryOf { cmdOf 0x48 with a := ownVa, b := 0x9000, c := 4, e := 7 }
/-- The connection with the write's packet not acknowledged, and with the read under way. -/
def peerSent : Peer := { peer1 with nextSeq := 21, unacked := [⟨{ pkt1 0 20 [1, 2, 3, 4] with addr := 0x9000 }, 0, false, 1⟩] }
def peerRead : Peer := { peer1 with reads := [⟨0, false, 1, ownVa, 4, []⟩] }

/-- What the packets in the mesh carry to connections. -/
def onMesh (t : State) : List (Nat × PeerPkt) :=
  t.fab.net.filterMap fun q => match q.body with
    | .peer c r => some (c, r)
    | _ => none

theorem test_nrd : after (.nrd false 1) (peering nrd1 peer1) onMesh = some [(7, { pkt1 1 20 [] with addr := 0x9000, len := 4, key := 5 })] := by decide +kernel
theorem test_nrd_closed : after (.nrd false 1) (peering nrd1 { peer1 with st := .closed }) (ended .cq) = some (some 0x8A) := by decide +kernel
theorem test_nwr : after (.nwr false 1) (pm [(ownKey, [1, 2, 3, 4])] (peering nwr1 peer1)) onMesh = some [(7, { pkt1 0 20 [1, 2, 3, 4] with addr := 0x9000 })] := by decide +kernel
theorem test_peer_write : after (.peerWrite 7 (pkt1 0 10 [8, 9])) (peering nwr1 peer1) (fun t => (memRead t.mem 0x10000 2, t.io.sentPkts.map fun p => (p.2.op, p.2.ackseq)))
    = some ([8, 9], [(3, 10)]) := by decide +kernel
theorem test_peer_write_key : after (.peerWrite 7 { pkt1 0 10 [8, 9] with key := 6 }) (peering nwr1 peer1) (fun t => (memRead t.mem 0x10000 1, t.io.sentPkts.map fun p => (p.2.op, p.2.refused)))
    = some ([0], [(4, true)]) := by decide +kernel
theorem test_peer_read : after (.peerReadreq 7 { pkt1 1 10 [] with len := 2 }) (pm [(0x10000, [5, 6])] (peering nwr1 peer1))
    (fun t => t.io.sentPkts.map fun p => (p.2.op, p.2.data)) = some [(2, [5, 6]), (3, [])] := by decide +kernel
theorem test_peer_read_answer : after (.peerReadresp 7 (pkt1 2 10 [1, 2, 3, 4])) (peering nrd1 peerRead) (fun t => (memRead t.mem ownKey 4, ended .cq t))
    = some ([1, 2, 3, 4], some 0) := by decide +kernel
theorem test_peer_gap : after (.peerReadresp 7 (pkt1 2 12 [1, 2, 3, 4])) (peering nrd1 peerRead) (fun t => (ended .cq t, t.io.sentPkts.map fun p => (p.2.op, p.2.refused, p.2.ackseq)))
    = some (none, [(4, false, 9)]) := by decide +kernel
theorem test_peer_ack : after (.peerAck 7 { pkt1 3 0 [] with ackseq := 20 }) (peering nwr1 peerSent) (ended .cq) = some (some 0) := by decide +kernel
theorem test_peer_nak : after (.peerNak 7 { pkt1 4 0 [] with ackseq := 20, refused := true }) (peering nwr1 peerSent) (ended .cq) = some (some 0x89) := by decide +kernel
/-- S1, 64 µs doubled eight times after the last packet. -/
def late6400 (p : Peer) : State := let s := peering nwr1 p; { s with pkg := { s.pkg with sl := 1, time := 6400 * 2 ^ 8 } }
theorem test_peer_retry : after (.peerRetryTimeout 7) (late6400 peerSent) (fun t => (t.io.sentPkts.length, t.io.peers.map (·.retries))) = some (1, [1]) := by decide +kernel
theorem test_peer_retries_end : after (.peerRetryTimeout 7) (late6400 { peerSent with retries := 8, since := 0 }) (fun t => (ended .cq t, t.io.peers.map (·.st)))
    = some (some 0x88, [.failed]) := by decide +kernel
theorem test_peer_close : after (.peerClose 7 (pkt1 5 10 [])) (peering nwr1 peerSent) (fun t => (ended .cq t, t.io.peers.map (·.st))) = some (some 0x88, [.closed]) := by decide +kernel
theorem test_connection_close : after (.connectionClose ⟨false, 7⟩) (late6400 peer1) (fun t => t.io.sentPkts.map fun p => (p.2.op, p.2.seq)) = some [(5, 20)] := by decide +kernel
theorem test_peer_open : after (.peerTableOpen ⟨false, 7⟩ peer1.info) (late6400 { peer1 with st := .closed }) (fun t => t.io.peers.map fun p => (p.st, p.nextSeq)) = some [(.opened, 0)] := by decide +kernel

/-- Whether a range lies in pages that the TLB holds, at consecutive keys, without poison and with no write held. -/
def pageCheck (s : State) (va : Word) (n : Nat) (acc : Acc) (k : Nat) : Bool :=
  ((lineParts va n).all fun p =>
    let a := va + BitVec.ofNat 64 p.1
    !inWindow a && (s.core.tlb.find? fun t => t.covers s.core.asid a.toNat).isSome && match engPlace s a p.2 acc with
      | .ok q => q.key == k + p.1 && (!poisoned s q.key p.2 && !hostFails s q.key)
      | .error _ => false) && s.ms.heldW.isEmpty && s.ms.sharers.isEmpty && s.ms.frames.isEmpty
    && decide (k % 2 ^ 37 + n ≤ metaOffset)

/-- Such a range is flat, whatever stands in memory. -/
theorem flat_of_page {s : State} {va : Word} {n : Nat} {acc : Acc} {k : Nat} (h : pageCheck s va n acc k = true) : Say.Flat s va n acc k := by
  simp only [pageCheck, Bool.and_eq_true, List.all_eq_true, Bool.not_eq_true'] at h
  obtain ⟨⟨⟨⟨h1, h2⟩, h3⟩, h4⟩, h5⟩ := h
  constructor
  · intro p hp m
    obtain ⟨⟨hw, hs⟩, hq⟩ := h1 p hp
    obtain ⟨t, ht⟩ := Option.isSome_iff_exists.mp hs
    have e : engPlace { s with mem := m } (va + BitVec.ofNat 64 p.1) p.2 acc = engPlace s (va + BitVec.ofNat 64 p.1) p.2 acc := by
      simp only [engPlace, hw, Bool.false_eq_true, if_false, resolvePage]
      rw [lookup_tlb ht, lookup_tlb (s := { s with mem := m }) ht]
    rw [e]
    revert hq
    cases engPlace s (va + BitVec.ofNat 64 p.1) p.2 acc with
    | error c => simp
    | ok q => intro hq; obtain ⟨a, b, c⟩ := (by simpa using hq : q.key = k + p.1 ∧ poisoned s q.key p.2 = false ∧ hostFails s q.key = false); exact ⟨q, rfl, a, b, c⟩
  · intro i hi
    have a : s.ms.heldW = [] := by simpa using h2
    have b : s.ms.sharers = [] := by simpa using h3
    have c : s.ms.frames = [] := by simpa using h4
    have e : (k + i) % 2 ^ 37 < metaOffset := by
      have h := of_decide_eq_true h5
      unfold metaOffset at h ⊢
      omega
    exact ⟨plain_of e s, held_none a b _, fun _ => by simp [isRepl, c]⟩

/-- The commands of a connection, the ranges, and an entry that waits for its peer. -/
theorem witness_peer_commands : peer? (peering nwr1 peer1) 7 = some peer1 ∧ Say.Starts 0x48 nrd1 (peering nrd1 peer1) ∧ Say.Starts 0x49 nwr1 (peering nwr1 peer1)
    ∧ Say.Flat (peering nwr1 peer1) ownVa 4 .read ownKey ∧ Say.Flat (peering nrd1 peerRead) ownVa 4 .write ownKey
    ∧ Say.Flat (peering nwr1 peer1) 0x400000 2 .write 0x10000 ∧ Say.Flat (peering nwr1 peer1) 0x400000 2 .read 0x10000
    ∧ nwr1.cmd.e.toNat = 7 ∧ 0 < nwr1.cmd.c.toNat ∧ nwr1.inject = none ∧ peer1.closing = false ∧ peer1.info.asid = (peering nwr1 peer1).core.asid
    ∧ Memory.wf (peering nwr1 peer1).mem = true ∧ (peering nwr1 peer1).ms.heldW = [] ∧ (peering nwr1 peer1).ms.poisonList = [] ∧ peer1.st = .opened :=
  ⟨by rfl, ⟨runs_of _ _ _ _ rfl rfl rfl rfl ⟨rfl, rfl, rfl, rfl⟩, rfl⟩, ⟨runs_of _ _ _ _ rfl rfl rfl rfl ⟨rfl, rfl, rfl, rfl⟩, rfl⟩, flat_of_check (by decide +kernel), flat_of_check (by decide +kernel),
    flat_of_page (by decide +kernel), flat_of_page (by decide +kernel), by rfl, by and_intros <;> decide +kernel⟩

/-- A response that does not end the read: of the bytes that it completes to 128 the multiple is performed, and the rest is held. -/
theorem test_peer_read_part : after (.peerReadresp 7 (pkt1 2 10 (List.replicate 100 5))) (peering nrd1 { peerRead with reads := [⟨0, false, 1, ownVa, 200, List.replicate 30 4⟩] })
    (fun t => (memRead t.mem (ownKey + 29) 2 ++ memRead t.mem (ownKey + 127) 2, t.io.peers.map fun p => p.reads.map (·.held.length)))
    = some ([4, 5, 5, 0], [[2]]) := by decide +kernel
theorem witness_peer_read_part : Say.Flat (peering nrd1 { peerRead with reads := [⟨0, false, 1, ownVa, 200, List.replicate 30 4⟩] }) ownVa 128 .write ownKey
    ∧ (List.replicate 30 4 ++ (pkt1 2 10 (List.replicate 100 5)).data).length / 128 * 128 = 128 ∧ (pkt1 2 10 (List.replicate 100 5)).data.length < 200
    ∧ pktOk (pkt1 2 10 (List.replicate 100 5)) = true :=
  ⟨flat_of_check (by decide +kernel), by decide +kernel⟩

/-- Packets in order and out of it, what is granted and what is not, what is not acknowledged, and the time of a retry. -/
theorem witness_peer_packets : (∃ r, peerRead.reads = [r] ∧ r.core = (peering nrd1 peerRead).core.num ∧ r.bank = nrd1.bank ∧ r.seq = nrd1.seq ∧ r.left = (pkt1 2 10 [1, 2, 3, 4]).data.length)
    ∧ granted peer1.info (pkt1 0 10 [8, 9]) 2 true = true ∧ granted peer1.info { pkt1 0 10 [8, 9] with key := 6 } 2 true = false
    ∧ granted peer1.info (pkt1 1 10 []) 2 false = true ∧ pktOk (pkt1 0 10 [8, 9]) = true ∧ pktOk { pkt1 1 10 [] with len := 2 } = true ∧ pktOk (pkt1 2 10 [1, 2, 3, 4]) = true
    ∧ pktOk (pkt1 3 0 []) = true ∧ pktOk (pkt1 5 10 []) = true ∧ inWindow 0x400000 = false ∧ peer1.expect = (pkt1 0 10 []).seq
    ∧ peer1.expect ≠ (pkt1 0 12 []).seq ∧ ((10 : W32) - 12).toNat ≥ 2 ^ 31 ∧ ((10 : W32) - 9).toNat < 2 ^ 31
    ∧ (∃ u, peerSent.unacked = [u] ∧ u.core = (peering nwr1 peerSent).core.num ∧ u.bank = nwr1.bank ∧ u.seq = nwr1.seq ∧ u.pkt.op = 0 ∧ u.pkt.last = true ∧ ((20 : W32) - u.pkt.seq).toNat < 2 ^ 31
        ∧ 2 ^ 31 ≤ ((19 : W32) - u.pkt.seq).toNat)
    ∧ (peering nwr1 peerSent).pkg.time < peerSent.since + 6400 * 2 ^ peerSent.retries ∧ peerSent.since + 6400 * 2 ^ peerSent.retries ≤ (late6400 peerSent).pkg.time
    ∧ (late6400 peerSent).pkg.sl ≠ 0 ∧ (peering nwr1 peerSent).pkg.sl = 0 :=
  ⟨⟨_, rfl, by decide +kernel⟩, by and_intros <;> first | rfl | decide +kernel | exact ⟨_, rfl, by decide +kernel⟩⟩

/-! ### Offer trees and multicast (chapters 3 and 14) -/

/-- Group 5 of the launch's stage: cores 0 and 1 of twig 0, with its home at slice 0. -/
def grp5 : Group := ⟨5, 1, ⟨1, 0⟩, 1, 0, 1, [0, 1], 0, 0, 0, 0, 0, 0, 0, 0, 0, 0, [], []⟩
/-- A message of core 1 to it. -/
def msg5 : Msg := ⟨0x1234, 5, 1, 9, 0, false, false⟩
/-- x1 = 5, x2 = 40; the fabric holds the group and whatever `f` gives it. -/
def grouped (f : Fab → Fab) : State := px [(1, 5), (2, 40)] { running with fab := f { Fab.reset with groups := [grp5] } }
/-- The group's node with a queue and its counts. -/
def node5 (q : List NodeIn) (counts : List Nat) (f : Fab) : Fab := { f with nodes := [⟨⟨1, 0⟩, [⟨5, counts, 0⟩], q, [], []⟩] }

theorem test_osend : after (.osend 3 1 5) (modCore (fun c => { c with msgSeq := 7 }) (grouped id)) (fun t => (readX t 5, t.core.msgSeq, (getNode t ⟨1, 0⟩).inq.map (·.msg.seq)))
    = some (7, 8, [7]) := by decide +kernel
theorem test_osend_no_group : after (.osend 3 2 5) (grouped id) (fun t => (t.core.cx.dtcause, t.core.cx.dtval)) = some (0x22, -1) := by decide +kernel
theorem test_osend_ordered : after (.osendO 3 1 5) (grouped id) (fun t => (t.fab.resend.map (fun r => (r.msg.ord, r.msg.rel)), t.core.track)) = some ([(true, false)], [(5, [0])]) := by decide +kernel
theorem test_osend_releasing : after (.osendR 3 1 5) (grouped id) (fun t => t.fab.resend.map fun r => (r.msg.ord, r.msg.rel)) = some [(false, true)] := by decide +kernel
theorem test_osend_both : after (.osendOr 3 1 5) (grouped id) (fun t => t.fab.resend.map fun r => (r.msg.ord, r.msg.rel)) = some [(true, true)] := by decide +kernel
theorem test_ofence : after (.ofence 1) (grouped id) (fun t => t.core.cx.pc) = some 4 := by decide +kernel
theorem test_ofence_waits : after (.ofence 1) (modCore (fun c => { c with track := [(5, [0])] }) (grouped id)) (fun t => t.core.cx.st) = some (.waiting (.receipts 5)) := by decide +kernel
/-- Readiness and messages share the 32 slots of the inbox (R46). -/
theorem test_oready : after (.oready 2 1 5) (modCore (fun c => { c with inbox := [msg5] }) (grouped id)) (fun t => (readX t 5, t.fab.updates.map (·.total))) = some (31, [31]) := by decide +kernel
theorem test_ounready : after (.ounready 2 1 5) (modCore (fun c => { c with ready := [(5, 3)] }) (grouped id)) (fun t => (readX t 5, t.core.ready, t.fab.updates.map (·.total)))
    = some (3, [], [0]) := by decide +kernel
/-- Header: group 5, sender 1, number 9 (R300); the receipt goes to the sender. -/
theorem test_otake : after (.otake 3 1 5) (modCore (fun c => { c with inbox := [{ msg5 with group := 0xFFF }, msg5] }) (grouped id))
    (fun t => (el 64 0 3 t, el 64 7 3 t, t.core.inbox.length, t.fab.net.map (·.body))) = some (0x1234, 5 + 2 ^ 12 + 9 * 2 ^ 27, 1, [.receipt 1 5 9]) := by decide +kernel
theorem test_otake_waits : after (.otake 3 1 5) (grouped id) (fun t => (t.core.cx.st, t.core.cx.pc)) = some (.waiting (.take 5), 0) := by decide +kernel
/-- OTAKE.A drops the clean lines of shared class (R216). -/
theorem test_otake_acquire : after (.otakeA 3 1 5) (modCore (fun c => { c with inbox := [msg5], l1 := [⟨0x200, 0x55, 0, 1, .shared, none, false, false, false, none⟩] }) (grouped id)) (fun t => t.core.l1.length)
    = some 0 := by decide +kernel
theorem test_otake_rebind : after (.otakeA 3 1 5) (modBank (fun b => { b with rebind := .posted 1, bound := some { bound1 with group := some 5 } }) (grouped id))
    (fun t => (readX t 5, t.core.bank.rebind)) = some (-3, .delivered 1) := by decide +kernel
theorem test_opoll_empty : after (.opoll 3 1 5) (grouped id) (fun t => readX t 5) = some (-1) := by decide +kernel
/-- Index 1 of grove 0, SELF clear: one copy (R332). -/
theorem test_msend : after (.msend 3 5) (pv [(3, 2 ^ 512 + 2 ^ 608)] (grouped id)) (fun t => (readX t 5, t.core.msendBusy, t.fab.net.map (·.dst))) = some (1, true, [0]) := by decide +kernel
theorem test_msend_partition : after (.msend 3 5) (pv [(3, 2 ^ 513 + 2 ^ 608)] (grouped id)) (fun t => (t.core.cx.dtcause, t.core.cx.dtval)) = some (0x22, 33) := by decide +kernel

/-- The pointer passes child 1, whose count is then reserved at once (R48). -/
theorem test_steer : after (.offerSteer ⟨1, 0⟩) (grouped (node5 [⟨msg5, false, none⟩] [1, 2, 0, 0])) (fun t => ((getNode t ⟨1, 0⟩).ent 5, t.fab.net.map (·.body)))
    = some (⟨5, [1, 1, 0, 0], 1⟩, [.toCore 1 msg5]) := by decide +kernel
theorem test_steer_parks : after (.offerSteer ⟨1, 0⟩) (grouped (node5 [⟨msg5, false, none⟩] [0, 0, 0, 0])) (fun t => ((getNode t ⟨1, 0⟩).parks, t.fab.net.length)) = some ([msg5], 0) := by decide +kernel
theorem test_readiness_update : after (.readinessUpdate ⟨1, 0⟩) (grouped fun f => { node5 [] [0, 0, 0, 0] f with updates := [⟨⟨1, 0⟩, 5, 1, 3⟩] })
    (fun t => ((getNode t ⟨1, 0⟩).ent 5).counts) = some [0, 3, 0, 0] := by decide +kernel
theorem test_deliver : after .offerDeliver (modCore (fun c => { c with arrivals := [msg5], ready := [(5, 2)] }) (grouped id)) (fun t => (t.core.inbox, t.core.ready)) = some ([msg5], [(5, 1)]) := by decide +kernel
theorem test_deliver_bounces : after .offerDeliver (modCore (fun c => { c with arrivals := [msg5] }) (grouped id)) (fun t => t.fab.net.map (·.body))
    = some [.bounce ⟨1, 0⟩ 0 0 { msg5 with bounce := 1 }] := by decide +kernel
theorem test_copy_deliver : after .msendCopyDeliver (modCore (fun c => { c with arrivals := [{ msg5 with group := 0xFFF }], ready := [(5, 31)] }) (grouped id)) (fun t => (t.core.inbox.length, t.core.ready))
    = some (1, [(5, 31)]) := by decide +kernel
theorem test_copy_waits : after .msendCopyDeliver (modCore (fun c => { c with arrivals := [{ msg5 with group := 0xFFF }], ready := [(5, 32)] }) (grouped id)) (fun t => t.core.arrivals.length) = some 1 := by decide +kernel
theorem test_return : after (.offerReturn 5) (grouped fun f => { f with groups := [{ grp5 with waiting := [msg5] }] }) (fun t => (t.fab.groups.map (·.resends), t.fab.net.map (·.body)))
    = some ([1], [.returned 1 msg5]) := by decide +kernel
/-- 256 network cycles after the return (R52). -/
theorem test_resend_timer : after (.resendTimer 0) { grouped (fun f => { f with resend := [⟨0, 1, msg5, true, 10⟩] }) with pkg := { State.reset.pkg with nclk := 266 } } (fun t => t.fab.resend.length) = some 0
    ∧ after (.resendTimer 0) { grouped (fun f => { f with resend := [⟨0, 1, msg5, true, 10⟩] }) with pkg := { State.reset.pkg with nclk := 265 } } (fun t => t.fab.resend.length) = some 1 := by decide +kernel
/-- Core 0's ordered message 3 waits for the receipt of message 2 (R54). -/
theorem test_ordered_release : after (.orderedSendRelease 0) (modCore (fun c => { c with track := [(5, [2, 3])] }) (grouped fun f => { f with resend := [⟨0, 0, ⟨0, 5, 0, 3, 0, true, false⟩, false, 0⟩] }))
      (fun t => t.fab.resend.length) = some 1
    ∧ after (.orderedSendRelease 0) (modCore (fun c => { c with track := [(5, [3])] }) (grouped fun f => { f with resend := [⟨0, 0, ⟨0, 5, 0, 3, 0, true, false⟩, false, 0⟩] }))
      (fun t => (t.fab.resend.length, (getNode t ⟨1, 0⟩).inq.length)) = some (0, 1) := by decide +kernel
/-- Core 0's releasing message 3 in the resend buffer (R216). -/
def releasing (s : State) : State := { s with fab := { Fab.reset with resend := [⟨0, 0, ⟨0, 5, 0, 3, 0, false, true⟩, false, 0⟩] } }
/-- The dirty shared line is written back first; with nothing dirty and nothing under way the message leaves. -/
theorem test_releasing_release : after (.releasingSendRelease 0) (releasing dirtied) (fun t => (t.core.l1.map (·.dirty), t.fab.resend.length)) = some ([0], 1)
    ∧ after (.releasingSendRelease 0) (releasing addrs) (fun t => t.fab.resend.length) = some 0 := by decide +kernel
theorem test_receipt : after .offerReceipt (modCore (fun c => { c with track := [(5, [8, 9])] }) (grouped fun f => { f with net := [⟨.rsp, 0, 0, .receipt 0 5 8⟩] })) (fun t => (t.core.track, t.fab.net.length))
    = some ([(5, [9])], 0) := by decide +kernel
theorem test_arrival : after (.packetArrival .msg 0 0) (grouped fun f => { f with net := [⟨.msg, 0, 0, .toCore 0 msg5⟩] }) (fun t => (t.core.arrivals, t.fab.net.length)) = some ([msg5], 0) := by decide +kernel
/-- A fifth copy at a twig router with four stays in the mesh (R57). -/
def crowded : State := modCore (fun c => { c with arrivals := List.replicate 4 { msg5 with group := 0xFFF } }) (grouped fun f => { f with net := [⟨.msg, 1, 0, .toCore 0 { msg5 with group := 0xFFF }⟩] })
theorem test_arrival_full : after (.packetArrival .msg 1 0) crowded (fun t => t.fab.net.length) = some 1 := by decide +kernel
theorem test_arrival_held : after (.packetArrival .msg 0 0) (grouped fun f => { f with net := [⟨.msg, 0, 0, .toCore 0 msg5⟩], rclk := [(0, { rclkOf State.reset 0 with relock := true })] })
    (fun t => t.fab.net.length) = some 1 := by decide +kernel
/-- SENT at byte 0, TAKEN at 8, LEVEL and NUM at 37 (R53). -/
theorem test_group_record : after (.groupRecordUpdate 5) (grouped fun f => { f with groups := [{ grp5 with sent := 3, taken := 2 }] })
    (fun t => (memNat t.mem (scratchKey 0 0) 8, memNat t.mem (scratchKey 0 8) 8, memNat t.mem (scratchKey 0 37) 2)) = some (3, 2, 1 + 5 * 16) := by decide +kernel

/-- Offers: groups that exist, are permitted and have the core as a member, and those that do not; room in the tracker and in the resend buffer,
and none. -/
theorem witness_offers : group? (grouped id) 5 = some grp5 ∧ group? (grouped id) 40 = none ∧ mayUse (grouped id) grp5 = true ∧ mayUse (grouped id) { grp5 with part := 2 } = false
    ∧ (readX (grouped id) 1).toNat % 4096 = 5 ∧ (grouped id).core.num ∈ grp5.members ∧ (2 : Nat) ∉ grp5.members
    ∧ (grouped id).core.track.length < 8 ∧ resendUsed (grouped id) 0 < 16
    ∧ ¬((∃ l, (5, l) ∈ (modCore (fun c => { c with track := (List.range 8).map fun g => (g + 10, [0]) }) (grouped id)).core.track) ∨ ((List.range 8).map fun g => (g + 10, [(0 : BitVec 16)])).length < 8)
    ∧ 16 ≤ resendUsed (grouped fun f => { f with resend := List.replicate 16 ⟨0, 0, msg5, true, 0⟩ }) 0
    ∧ (∀ x ∈ ([{ msg5 with group := 0xFFF }] : List Msg), x.group ≠ 5) ∧ msg5.group = 5 := by
  refine ⟨rfl, rfl, ?_⟩
  and_intros
  any_goals decide +kernel
  rintro (⟨l, h⟩ | h)
  · have : ∀ p ∈ (List.range 8).map (fun g => (g + 10, [(0 : BitVec 16)])), p.1 ≠ 5 := by decide
    exact this _ h rfl
  · exact absurd h (by decide)

/-- MSEND: a set of one core, one of none, none named, a grove outside the partition, and an MSEND that its router still holds. -/
theorem witness_msend : (let v : VReg := 2 ^ 512 + 2 ^ 608
      v.getLsbD 512 = true ∧ (v.extractLsb' 608 8).toNat = 1 ∧ v.getLsbD 616 = false ∧ present State.reset (coreInGrove 0 1) = true ∧ groveOf (coreInGrove 0 1) = 0
        ∧ (∀ g, g < 96 ∧ v.getLsbD (512 + g) = true → groveAllowed running 0 g = true))
    ∧ groveAllowed running 0 1 = false ∧ running.core.msendBusy = false
    ∧ (∀ g, ¬(g < 96 ∧ (0 : VReg).getLsbD (512 + g) = true)) := by
  have h : ∀ g ∈ List.range 96, (2 ^ 512 + 2 ^ 608 : VReg).getLsbD (512 + g) = true → groveAllowed running 0 g = true := by decide +kernel
  and_intros
  any_goals decide +kernel
  · exact fun g hg => h g (List.mem_range.mpr hg.1) hg.2
  · simp

/-- Steering and delivery: a node inside and outside the group's extent, counts and none, park slots full and not, a resend entry that is due. -/
theorem witness_steering : (let s := grouped (node5 [⟨msg5, false, none⟩] [1, 2, 0, 0])
      (getNode s ⟨1, 0⟩).inq = ⟨msg5, false, none⟩ :: [] ∧ msg5.bounce < 8 ∧ inExtent grp5 ⟨1, 0⟩ = true ∧ inExtent grp5 ⟨1, 1⟩ = false
        ∧ inExtent { grp5 with level := 2, root := nodeAt 2 0 } ⟨1, 0⟩ = true ∧ (⟨1, 0⟩ : NodeId) ≠ nodeAt 2 0
        ∧ 0 < ((getNode s ⟨1, 0⟩).ent 5).counts.getD 1 0 ∧ ((getNode s ⟨1, 0⟩).ent 5).counts.length = 4)
    ∧ (∀ x ∈ ((getNode (grouped (node5 [] [0, 0, 0, 0])) ⟨1, 0⟩).ent 5).counts, x = 0) ∧ 8 ≤ ({ msg5 with bounce := 8 } : Msg).bounce
    ∧ (∀ l, lineHeld (grouped id) l = false) ∧ Memory.wf (grouped id).mem = true
    ∧ (grouped fun f => { f with updates := [⟨⟨1, 0⟩, 5, 1, 1⟩] }).fab.updates = [⟨⟨1, 0⟩, 5, 1, 1⟩]
    ∧ pathOpen (grouped id) 0 1 = true ∧ pathOpen (grouped fun f => { f with rclk := [(0, { rclkOf State.reset 0 with relock := true })] }) 0 1 = false
    ∧ 4 ≤ ((List.range 4).map fun c => ((getCore crowded (4 * 0 + c)).arrivals.filter fun y => y.group == 0xFFF).length).sum :=
  by
  and_intros
  any_goals decide +kernel
  · exact fun l => held_none rfl rfl l

/-- A group at its root: a total of 1 that arrives releases the parked message. A releasing send whose core has nothing dirty and nothing under
way, and one whose core has. -/
theorem witness_group_releases : (let s := grouped (fun f => { node5 [] [0, 0, 0, 0] f with nodes := [⟨⟨1, 0⟩, [⟨5, [0, 0, 0, 0], 0⟩], [], [msg5], []⟩], updates := [⟨⟨1, 0⟩, 5, 1, 1⟩] })
      s.fab.updates.find? (fun v => v.node == ⟨1, 0⟩) = some ⟨⟨1, 0⟩, 5, 1, 1⟩ ∧ (⟨1, 0⟩ : NodeId) = grp5.root ∧ inExtent grp5 ⟨1, 0⟩ = true ∧ (getNode s ⟨1, 0⟩).parks = msg5 :: []
        ∧ (getNode s ⟨1, 0⟩).rings = [])
    ∧ (let s := releasing addrs
       (∃ r, s.fab.resend.find? (fun x => x.twig == 0 && (!x.returned && x.msg.rel && (!x.msg.ord || inTurn s x.msg))) = some r ∧ r.core = s.core.num)
         ∧ s.core.l1 = [] ∧ writesOut s 0 = false ∧ s.ms.heldW = [] ∧ (∀ x ∈ s.core.ctxsOf false ++ s.core.ctxsOf true, x.late = []))
    ∧ (releasing dirtied).core.l1 = [⟨0x200, 0x55, 1, 1, .shared, none, false, false, false, none⟩] :=
  ⟨⟨rfl, rfl, by decide +kernel, rfl, rfl⟩, ⟨⟨_, rfl, rfl⟩, rfl, rfl, rfl, by decide +kernel⟩, rfl⟩

/-! ### The timed fabric and the region clocks (chapters 2, 3 and 14) -/

/-- A schedule of frames of 8 cycles: core 0 to core 1 in slot 3, core 1 to core 0 in slot 4, entry 2 (R272). -/
def sched1 : Sched := ⟨0, 0, 8, [⟨0, 3, 0, 1, 2⟩, ⟨0, 4, 1, 0, 2⟩]⟩
/-- The launch on cores 0 and 1, its phase open from cycle 100 on, the schedule active; `n` is the network cycle. -/
def timed (n : Nat) : State :=
  let s := modCore (fun c => { c with phase := some 3, bank := { c.bank with sched := some 0 } }) running
  { s with pkg := { s.pkg with nclk := n }, fab := { Fab.reset with doms := [{ dom1 with members := [0, 1], phase := true, start := 100 }] }
           root := { s.root with images := [⟨0, 0, ⟨0, 0x10000, [], [], [], [], [⟨0, 0, 0, 0, 0, 0, 0, 0, 0⟩], [sched1], []⟩⟩]
                                 launches := [{ launch1 with stages := [⟨0, 1, 2, 0, 0, false, 0, 0⟩], placed := [⟨0, false, 0, 0, false⟩, ⟨1, false, 0, 1, false⟩] }] } }
/-- The schedule with no phase open. -/
def untimed : State := modCore (fun c => { c with phase := none, bank := { c.bank with sched := none } }) (timed 100)
/-- A WTX of beat 0 waits for its slot. -/
def slotted (n : Nat) : State := modCx (fun c => { c with st := .waiting (.slot 0 3) }) (pv [(3, 2 ^ 512 * 5 + 6)] (timed n))
/-- A beat of the launch that lands in entry 2 of core 0 at cycle 110. -/
def beat1 (hi : Bool) : BeatMsg := ⟨1, 0, 1, 1, 2, hi, 7, 110⟩

theorem test_wsel : after (.wsel 1) untimed (fun t => t.core.bank.sched) = some (some 0) := by decide +kernel
theorem test_wsel_phase : after (.wsel 1) (timed 100) (fun t => (t.core.cx.dtcause, t.core.cx.pc)) = some (2, 0x1000) := by decide +kernel
theorem test_wtx_waits : after (.wtx 3 1) (timed 103) (fun t => t.core.cx.st) = some (.waiting (.slot 0 3)) := by decide +kernel
theorem test_wtx_late : after (.wtx 3 1) (timed 104) (fun t => (t.core.bank.dead || t.core.bank.stopped, t.fab.beats.length)) = some (true, 0) := by decide +kernel
/-- Slot 3 begins at cycle 103; the halves land 2 and 3 cycles later on the same twig (R40). -/
theorem test_slot_start : after (.timedSlotStart false 0) (slotted 103) (fun t => (t.fab.beats.map fun b => (b.hi, b.data, b.lands), t.core.cx.st))
    = some ([(false, 6, 105), (true, 5, 106)], .ready) := by decide +kernel
theorem test_slot_early : after (.timedSlotStart false 0) (slotted 102) (fun t => t.fab.beats.length) = some 0 := by decide +kernel
theorem test_wrx : after (.wrx 4 1) (px [(1, 2)] (modCore (setRecv 2 ⟨9, true, true⟩) (timed 100))) (fun t => (readV t 4, (recvAt t.core 2).lo)) = some (9, false) := by decide +kernel
theorem test_wrx_waits : after (.wrx 4 1) (px [(1, 2)] (modCore (setRecv 2 ⟨9, true, false⟩) (timed 100))) (fun t => t.core.cx.st) = some (.waiting (.recv 2)) := by decide +kernel
theorem test_beat : after .beatArrive { timed 110 with fab := { (timed 110).fab with beats := [beat1 true] } } (fun t => ((recvAt t.core 2).data, (recvAt t.core 2).hi)) = some (2 ^ 512 * 7, true) := by decide +kernel
/-- A beat into a half that has not been read is not written (R41). -/
theorem test_beat_unread : after .beatArrive (modCore (setRecv 2 ⟨9, true, false⟩) { timed 110 with fab := { (timed 110).fab with beats := [beat1 false] } })
    (fun t => ((recvAt t.core 2).data, t.core.bank.dead || t.core.bank.stopped)) = some (9, true) := by decide +kernel

/-- The bound stage of core 0 in `timed`. -/
def unread : State :=
  modCore (fun c => { setRecv 2 ⟨9, true, false⟩ c with bank := { c.bank with bound := c.bank.bound.map fun b => { b with haltPa := 0x80000000 } } })
    { timed 110 with fab := { (timed 110).fab with beats := [beat1 false] } }
/-- The halt record of core 0 names the beat: CAUSE 0x21, REASON 1, PCFLT 0 and ENTRY 1 (R257). -/
theorem test_unread_record : after .beatArrive unread (fun t => (memGet t.mem 0x8000001E, (memGet t.mem 0x8000001F).extractLsb' 0 4, memNat t.mem 0x80000028 8, memGet t.mem 0x80000030))
    = some (0x21, 1, 0, 1) := by decide +kernel
/-- A beat into an unread half of the active bank, outside a swap and during one. -/
theorem witness_unread : firstBeat unread.core.num unread.fab.beats none = some (beat1 false) ∧ (beat1 false).lands ≤ unread.pkg.nclk
    ∧ (recvAt unread.core (beat1 false).entry).lo = true ∧ (∃ bd, (unread.core.bankOf false).bound = some bd ∧ bd.launch = (beat1 false).launch
      ∧ ∀ i, i < 64 → Say.plain unread (bd.haltPa + 64 * unread.core.num + i))
    ∧ (∀ x, (unread.core.bankOf true).bound = some x → x.launch ≠ (beat1 false).launch) ∧ (unread.core.bankOf false).stopped = false
    ∧ unread.ms.poisonList = [] ∧ Memory.wf unread.mem = true ∧ unread.core.swap = none
    ∧ (modCore (fun c => { c with swap := some swapping }) unread).core.swap = some swapping := by
  refine ⟨by decide +kernel, by decide +kernel, by decide +kernel, ⟨_, rfl, rfl, ?_⟩, ?_, rfl, rfl, rfl, rfl, rfl⟩
  · intro i hi
    refine plain_of ?_ _
    have h2 : unread.core.num = 0 := by decide +kernel
    show (0x80000000 + 64 * unread.core.num + i) % 2 ^ 37 < 0x1FE0000000
    rw [h2]
    omega
  · intro x h
    have h2 : (unread.core.bankOf true).bound = none := by decide +kernel
    cases h2.symm.trans h

/-- The timed fabric: schedules that may be made active and not, beats before and after their slots, entries fed and not, and beats that land. -/
theorem witness_timed : Say.Selectable untimed 0 ∧ untimed.core.phase = none ∧ ¬((timed 100).core.phase = none ∧ Say.Selectable (timed 100) 0)
    ∧ Say.BeatOf (timed 103) 0 1 0 1 103 2 ∧ Say.BeatOf (slotted 103) 0 1 0 1 103 2 ∧ (timed 103).pkg.nclk ≤ 103
    ∧ (slotted 103).core.cx.st = .waiting (.slot 0 3) ∧ (slotted 103).core.bank.stopped = false ∧ (slotted 103).core.swap = none
    ∧ groveAllowed (timed 103) 0 (groveOf 1) = true ∧ entryFed (timed 100) 2 = true ∧ entryFed (timed 100) 3 = false
    ∧ (beat1 true).core = (timed 110).core.num ∧ (beat1 true).entry < 16 ∧ (beat1 true).lands ≤ (timed 110).pkg.nclk ∧ (timed 109).pkg.nclk < (beat1 true).lands
    ∧ ∀ launch dst cycle entry, Say.BeatOf (timed 104) 0 launch (timed 104).core.num dst cycle entry → cycle < (timed 104).pkg.nclk := by
  refine ⟨⟨_, _, _, _, _, rfl, rfl, rfl, rfl, rfl⟩, rfl, fun h => absurd h.1 (by decide +kernel), ⟨_, _, _, _, _, by and_intros <;> rfl⟩,
    ⟨_, _, _, _, _, by and_intros <;> rfl⟩, ?_⟩
  and_intros
  any_goals decide +kernel
  rintro launch dst cycle entry ⟨d, sch, x, bd, l, hd, hs, hb, _, _, _, _, _, hc, _⟩
  have h1 : openDom (timed 104) = some { dom1 with members := [0, 1], phase := true, start := 100 } := by rfl
  have h2 : activeSched (timed 104) = some sched1 := by rfl
  rw [h1] at hd; rw [h2] at hs
  cases hd; cases hs
  have : x = ⟨0, 3, 0, 1, 2⟩ := by simpa [sched1] using hb.symm
  subst this
  rw [hc]; decide

/-- Region 0 with `r`, at time 2000. -/
def clocked (r : Rclk) : State := { State.reset with pkg := { State.reset.pkg with time := 2000 }, fab := { Fab.reset with rclk := [(0, r), (1, { r with target := 900, current := 900 })] } }
/-- 1,000 MHz, and 1,200 wanted. -/
def rclk1 : Rclk := ⟨1200, 1000, 0, false, false, false, false, 0, [], 0, 0, some 1000⟩
/-- The target of both regions and whether they are relocking. -/
def clocks (t : State) : List (Nat × Nat × Bool) := [0, 1].map fun g => ((rclkOf t g).target, (rclkOf t g).current, (rclkOf t g).relock)

/-- Clamped and rounded down to 25 (R34). -/
theorem test_target : after (.rclkTargetWrite 0 1049) (clocked rclk1) clocks = some [(1025, 1000, false), (900, 900, false)] := by decide +kernel
theorem test_target_joined : after (.rclkTargetWrite 0 2000) (clocked { rclk1 with lockgrp := 4, joined := true }) clocks = some [(1500, 1000, false), (1500, 900, false)] := by decide +kernel
theorem test_join : after (.rclkJoin 0 4) (clocked rclk1) (fun t => ((rclkOf t 0).joining, (rclkOf t 0).lockgrp)) = some (true, 4) := by decide +kernel
theorem test_leave : after (.rclkLeave 0) (clocked { rclk1 with lockgrp := 4, joined := true }) (fun t => ((rclkOf t 0).joined, (rclkOf t 0).lockgrp, (rclkOf t 1).joined)) = some (false, 0, true) := by decide +kernel
/-- 10 µs after the last change (R33). -/
theorem test_governor : after (.governorChange 0) (clocked rclk1) (fun t => (clocks t, (rclkOf t 0).goal)) = some ([(1200, 1000, true), (900, 900, false)], 1200) := by decide +kernel
theorem test_governor_spaced : after (.governorChange 0) (clocked { rclk1 with lastEnd := some 1001 }) clocks = some [(1200, 1000, false), (900, 900, false)] := by decide +kernel
theorem test_relock_end : after (.relockEnd 0) (clocked { rclk1 with relock := true, goal := 1200, began := 1900 }) (fun t => (rclkOf t 0).current) = some 1200
    ∧ after (.relockEnd 0) (clocked { rclk1 with relock := true, goal := 1200, began := 1901 }) (fun t => (rclkOf t 0).current) = some 1000 := by decide +kernel

/-- Region clocks: a region alone, joined and joining, with its last change long ago and lately, with its group's phase open and not. -/
theorem witness_clocks : Say.Spaced (clocked rclk1) 0 ∧ ¬Say.Spaced (clocked { rclk1 with lastEnd := some 1001 }) 0
    ∧ (rclkOf (clocked rclk1) 0).target ≠ (rclkOf (clocked rclk1) 0).current ∧ groupPhase (clocked rclk1) 0 = false
    ∧ lockMembers (clocked { rclk1 with lockgrp := 4, joined := true }) 4 = [0, 1]
    ∧ groupPhase { clocked { rclk1 with lockgrp := 4, joined := true } with fab := { (clocked { rclk1 with lockgrp := 4, joined := true }).fab with doms := [{ dom1 with members := [0, 1], phase := true }] } } 4 = true
    ∧ (∀ m ∈ lockMembers (clocked { rclk1 with lockgrp := 4, joined := true }) 4, Say.Spaced (clocked { rclk1 with lockgrp := 4, joined := true }) m)
    ∧ (rclkOf (clocked { rclk1 with relock := true, began := 1900 }) 0).began + 100 ≤ 2000
    ∧ (rclkOf (clocked rclk1) 0).lockgrp = 0 ∧ leavingOpen (clocked rclk1) rclk1 = false ∧ leavingOpen { clocked rclk1 with fab := { (clocked rclk1).fab with doms := [{ dom1 with members := [0, 1], phase := true }] } } { rclk1 with leaving := [(1, dom1.start)] } = true
    ∧ (let s := clocked { rclk1 with lockgrp := 4, joined := true, relock := true, began := 1900 }
       joinUnderWay s 4 = false ∧ groupRelocks s 4 = true ∧ ∀ m ∈ lockMembers s 4, (rclkOf s m).inJoin = false ∧ (rclkOf s m).joined = true)
    ∧ joinUnderWay (clocked { rclk1 with lockgrp := 4, relock := true, inJoin := true }) 4 = true := by
  have h : ∀ r : Rclk, r.relock = false → r.lastEnd = some 1000 → ∀ m ∈ [0, 1], Say.Spaced (clocked r) m := by
    intro r hr hl m hm
    simp only [List.mem_cons, List.not_mem_nil, or_false] at hm
    rcases hm with rfl | rfl <;> exact ⟨hr, fun t ht => by
      have : some 1000 = some t := hl.symm.trans ht
      cases this; exact Nat.le_refl 2000⟩
  exact ⟨h _ rfl rfl 0 (by decide), fun hs => absurd (hs.2 1001 rfl) (by decide), by decide, by decide +kernel, by decide +kernel, by decide +kernel, fun m hm => h _ rfl rfl m hm, by and_intros <;> decide +kernel⟩

/-! ### The memory system (chapter 7) -/

/-- Words 1000 to 1031 take two sectors; with 0x80000000 in the sixth they take four (R147's example). -/
theorem test_bark : (barkCode ((List.range 32).flatMap fun i => bytesOfNat 4 (1000 + i))).2 = 2
    ∧ (barkCode ((List.range 32).flatMap fun i => bytesOfNat 4 (if i = 5 then 0x80000000 else 1000 + i))).2 = 4 := by decide +kernel

/-- A write that a slice may hold, at most recent use. -/
def held2 : Placing := ⟨true, false, false, false⟩
/-- One that no slice holds: it merges where it arrives. -/
def unheld : Placing := ⟨false, false, false, false⟩
/-- A write of core 0 to byte 1 of the line 0x200. -/
def write2 (how : Placing) : WriteBack := ⟨0x200, 0x5566, 2, how, false, false, none⟩
/-- Its packet, on its way to slice 2. -/
def packet2 (how : Placing) : Packet := ⟨.req, 0, 2, .write 0 (write2 how)⟩
/-- That write under way. -/
def underway (how : Placing) (s : State) : State := { s with fab := { s.fab with net := [packet2 how] } }
theorem test_fill_line : after .l1Fill (modCore (fun c => { c with fills := [⟨0x200, .priv, false, false⟩] }) addrs) (fun t => (t.core.l1.map fun l => (l.line, l.data % 65536, l.dirty), t.core.fills.length))
    = some ([(0x200, 0x9211, 0)], 0) := by decide +kernel
/-- The fetched bytes go under the dirty one (R140). -/
theorem test_fill_under_dirty : after .l1Fill (modCore (fun c => { c with fills := [⟨0x200, .shared, false, false⟩] }) dirtied) (fun t => t.core.l1.map fun l => (l.data % 65536, l.dirty)) = some [(0x9255, 1)] := by decide +kernel
theorem test_merge : after .writebackMerge (underway unheld addrs) (fun t => (memRead t.mem 0x10000 2, t.fab.net)) = some ([0x11, 0x55], [⟨.rsp, 2, 0, .wrote 0⟩]) := by decide +kernel
/-- One that a slice is to hold misses there: it opens a register, closed, and waits (R148). -/
theorem test_merge_misses : after .writebackMerge (underway held2 addrs) (fun t => (memRead t.mem 0x10000 2, t.fab.net.length, (getSlice t 2).misses.map fun m => (m.line, m.closed))) = some ([0x11, 0x92], 1, [(0x200, true)]) := by decide +kernel
/-- A write to a line of which a die holds a replica waits for it (R154). -/
def replicated : State := modMs (fun m => { m with sharers := [⟨0x200, [3]⟩], heldW := [⟨0, 0x200, 0x77, 1, held2, [3], none⟩] }) addrs
theorem test_merge_held : after .writebackMerge (underway unheld replicated) (fun t => (memRead t.mem 0x10000 2, t.ms.heldW.length)) = some ([0x11, 0x92], 2) := by decide +kernel
theorem test_replica_gone : after (.replicaInvalidateAck 0x200 3) replicated (fun t => (memRead t.mem 0x10000 1, t.ms.heldW.length, t.ms.sharers.length)) = some ([0x77], 0, 0) := by decide +kernel
theorem test_replica_other : after (.replicaInvalidateAck 0x200 4) replicated (fun t => t.ms.heldW.length) = some 1 := by decide +kernel
/-- 100 µs in a mode at least (R154). -/
theorem test_page_mode : after (.pageModeSwitch 1) { addrs with pkg := { addrs.pkg with time := 10000 } } (fun t => t.ms.frames) = some [⟨1, some 10000, true, 0, 0⟩]
    ∧ after (.pageModeSwitch 1) { modMs (fun m => { m with frames := [⟨1, some 1, true, 0, 0⟩] }) addrs with pkg := { addrs.pkg with time := 10000 } } (fun t => t.ms.frames)
      = some [⟨1, some 1, true, 0, 0⟩] := by decide +kernel
/-- A 1 GiB leaf at level 2 (R143): the tables stand at 0x20000 and 0x21000. -/
def walked : State := pm [(0x20000, bytesOfNat 8 (0x21 * 2 ^ 10 + 1)), (0x21008, bytesOfNat 8 (0x40000 * 2 ^ 10 + 0xDF))]
  (modCore (fun c => { c with walks := [⟨0x40001234, .walker⟩] }) { State.reset with root := { Root.reset with procs := [⟨0, 0x20000, 1, false, [], []⟩] } })
theorem test_walk : after .pageWalkComplete walked (fun t => (t.core.tlb.map fun x => (x.va, x.pa, x.bits), t.core.walks.length)) = some ([(0x40000000, 0x40000000, 30)], 0) := by decide +kernel
/-- One that waits for a walker is passed over (R144). -/
theorem test_walk_queued : after .pageWalkComplete (modCore (fun c => { c with walks := [⟨0x40001234, .queued⟩] }) walked) (fun t => (t.core.tlb.length, t.core.walks.length)) = some (0, 1) := by decide +kernel
theorem test_walk_fails : after .pageWalkComplete (modCore (fun c => { c with walks := [⟨0x80001234, .walker⟩] }) walked) (fun t => (t.core.tlb.length, t.core.walks.length)) = some (0, 0) := by decide +kernel

/-- The page in bark form (bit 60 of its leaf), at S3. -/
def barked : State :=
  let s := pm [(0x21008, bytesOfNat 8 (2 ^ 60 + 0x40000 * 2 ^ 10 + 0xDF))] walked
  { s with pkg := { s.pkg with sl := 3 } }
theorem test_metadata : after (.metadataFetch ⟨0, 0x40000000⟩ false) barked (fun t => (t.ms.poisonList.map (·.block), t.poison.length)) = some ([blockOf 0x800000], 4) := by decide +kernel

/-- Slice 2, the home of the DRAM page's first line, as `f` leaves it. -/
def sliced (f : Slice → Slice) : State := modSlice 2 f addrs
/-- The line as a slice holds it, and a request for it. -/
def line2 (once : Bool) : L2Line := ⟨0x200, 0, 0, once, false, false, false⟩
/-- The core that asks, in its context 0. -/
def asker2 : Asker := ⟨0, false, 0, none⟩
def req2 : SliceReq := ⟨0x200, held2, some asker2⟩
/-- A miss register for it, opened at time 0 with two reads. -/
def miss2 : Miss := ⟨0x200, 0, 2, false, true, false, false, [asker2]⟩
theorem test_home : homeSlice 0x10000 = 2 := by decide +kernel
theorem test_slice_hit_once : after (.sliceAccess 2) (sliced fun x => { x with lines := [line2 true], reqs := [req2] })
    (fun t => ((getSlice t 2).lines.length, (getSlice t 2).reqs.length, t.fab.net.map fun p => p.src)) = some (0, 0, [2]) := by decide +kernel
/-- A write that outgrows its line's sectors is counted, and the line is of the normal class again (R149, R150). -/
def sliceHit : State := underway held2 (sliced fun x => { x with lines := [line2 true] })
theorem test_write_hit : after .writebackMerge sliceHit (fun t => ((getSlice t 2).cnt.wexp, (getSlice t 2).lines.map fun y => (y.once, y.dirty, decide (y.sectors > 0))))
    = some (1, [(false, true, true)]) := by decide +kernel
theorem test_slice_fill : after (.sliceFill 2) (sliced fun x => { x with misses := [miss2] })
    (fun t => ((getSlice t 2).lines.map fun y => (y.line, y.once), (getSlice t 2).misses.length, (getSlice t 2).cnt.mcast, t.fab.net.length)) = some ([(0x200, true)], 0, 1, 1) := by decide +kernel
theorem test_slice_fill_none : after (.sliceFill 2) addrs (fun t => (getSlice t 2).lines.length) = some 0 := by decide +kernel
/-- The core owes the release at 0x8000 the line 0x200 (R141). -/
def owing : State := { modSlice 2 (fun x => { x with flushes := [⟨0x100, [0]⟩], dir := [⟨0x100, [0]⟩] }) (modCore (fun c => { c with l1 := [⟨0x200, 0x55, 1, 1, .shared, some 0x100, false, false, false, none⟩], relTab := [0x100] }) addrs) with
  fab := { Fab.reset with net := [⟨.rsp, 2, 0, .flush 0 0x100 2⟩] } }
/-- The core writes the line back for the release, and acknowledges once that has been performed. -/
theorem test_flush_request : after .flushRequest owing (fun t => ((writesOf t 0).map (·.line), t.core.relTab, t.core.acks)) = some ([0x200], [], [⟨0x100, 2, [0x200]⟩]) := by decide +kernel
/-- An acknowledgement that waits for no write. -/
def acking : State := modCore (fun c => { c with acks := [⟨0x100, 2, [0x200]⟩] }) (modSlice 2 (fun x => { x with flushes := [⟨0x100, [0]⟩] }) addrs)
theorem test_flush_acknowledged : after .flushRequest acking (fun t => (t.core.acks.length, t.fab.net)) = some (0, [⟨.rsp, 0, 2, .flushed 0 0x100 2⟩]) := by decide +kernel
theorem test_flush_counted : after (.packetArrival .rsp 0 2) { acking with fab := { acking.fab with net := [⟨.rsp, 0, 2, .flushed 0 0x100 2⟩] } }
    (fun t => (t.fab.net.length, (getSlice t 2).flushes)) = some (0, [⟨0x100, []⟩]) := by decide +kernel
theorem test_flush_ack : after (.flushAck 2 0x100) (modCx (fun c => { c with st := .waiting (.flush 0x100) }) (modSlice 2 (fun x => { x with flushes := [⟨0x100, []⟩] }) addrs))
    (fun t => ((getSlice t 2).flushes.length, t.core.cx.st)) = some (0, .ready) := by decide +kernel

/-- The memory system: a fill that goes and one behind a write, a write that merges, one that misses and one to POISON, held writes, frames,
walks and metadata. -/
theorem witness_memory : (let s := modCore (fun c => { c with fills := [⟨0x200, .priv, false, false⟩] }) addrs
      s.core.fills = ⟨0x200, .priv, false, false⟩ :: [] ∧ behind s 0x200 = false ∧ clearWay s .rsp (readSlice s 0x200) (s.core.num / 4) = true
        ∧ behind (underway held2 s) 0x200 = true)
    ∧ poisoned addrs (0x200 * 128) 128 = false ∧ poisoned { addrs with poison := [0x200] } (0x200 * 128) 128 = true
    ∧ (∀ how, how = held2 ∨ how = unheld → (mergeable (underway how addrs))[(underway how addrs).pick]? = some (packet2 how, write2 how)) ∧ mergeable addrs = []
    ∧ (let s := { underway unheld addrs with pick := 9 }
       (mergeable s)[s.pick]? = none ∧ (mergeable s).head? = some (packet2 unheld, write2 unheld))
    ∧ (isDramKey (0x200 * 128) = true ∧ held2.held = true ∧ inHomeSlice addrs 0x200 = false ∧ (write2 unheld).mask ≠ 0 ∧ (write2 unheld).mask ≠ -1)
    ∧ lineHeld addrs 0x200 = false ∧ lineHeld replicated 0x200 = true ∧ replicated.ms.heldW = [⟨0, 0x200, 0x77, 1, held2, [3], none⟩] ∧ replicated.ms.sharers = [⟨0x200, [3]⟩]
    ∧ Memory.wf replicated.mem = true ∧ (replicated.ms.poisonList = [] ∧ 0x200 ∉ replicated.poison) ∧ paExists (1 * 2 ^ 16) = true ∧ isDramKey (1 * 2 ^ 16) = true
    ∧ addrs.ms.heldW = [] ∧ barked.pkg.sl = 3 ∧ barkLine barked 0 0x40000000 = some 0x800000 ∧ barked.ms.poisonList = []
    ∧ inHomeSlice barked (blockLine (blockOf 0x800000) 0) = false
    ∧ (let s := modSlice (homeSlice (0x800000 * 128)) (fun x => { x with lines := [{ line2 false with line := 0x800000, dirty := true }] }) barked
       ∃ y ∈ (getSlice s (homeSlice (0x800000 * 128))).lines, y.line = 0x800000 ∧ y.dirty = true) := by
  refine ⟨by decide +kernel, by decide +kernel, by decide +kernel, ?_, ?_⟩
  · rintro _ (rfl | rfl) <;> decide +kernel
  · and_intros <;> decide +kernel

/-- Walks: one that a walker makes behind one that waits, one that fails, and a translation of the twig's TLB. -/
theorem witness_walks : (let s := modCore (fun c => { c with walks := [⟨0x5000, .queued⟩, ⟨0x40001234, .walker⟩] }) walked
      s.core.walks = [⟨0x5000, .queued⟩] ++ ⟨0x40001234, .walker⟩ :: [] ∧ ∃ x, walk s s.core.asid 0x40001234 = .ok x
        ∧ (modMs (fun m => { m with twigTlb := [(0, x)] }) s).ms.twigTlb.find? (fun y => y.1 == s.core.num / 4 && y.2.covers s.core.asid 0x40001234) = some (0, x))
    ∧ ∃ e, walk walked walked.core.asid 0x80001234 = .error e := by
  refine ⟨⟨rfl, ?_⟩, ?_⟩
  · have h : ((walk (modCore (fun c => { c with walks := [⟨0x5000, .queued⟩, ⟨0x40001234, .walker⟩] }) walked) walked.core.asid 0x40001234).toOption.map
        fun x => decide ([(0, x)].find? (fun y : Nat × Tlb => y.1 == walked.core.num / 4 && y.2.covers walked.core.asid 0x40001234) = some (0, x))) = some true := by decide +kernel
    cases hw : walk (modCore (fun c => { c with walks := [⟨0x5000, .queued⟩, ⟨0x40001234, .walker⟩] }) walked) walked.core.asid 0x40001234 with
    | error e => rw [hw] at h; cases h
    | ok x =>
      rw [hw] at h
      exact ⟨x, hw, of_decide_eq_true (Option.some.inj h)⟩
  · have h : (walk walked walked.core.asid 0x80001234).toOption.isNone = true := by decide +kernel
    cases hw : walk walked walked.core.asid 0x80001234 with
    | error e => exact ⟨e, rfl⟩
    | ok x => rw [hw] at h; cases h

/-- Slices: a line that is there, requests, registers open, full, closed and old, a fill that fits, and a write that hits. -/
theorem witness_slices : (getSlice (sliced fun x => { x with lines := [line2 false], reqs := [req2] }) 2).reqs = [req2]
    ∧ resident (getSlice (sliced fun x => { x with lines := [line2 false] }) 2) 0x200 = some (line2 false) ∧ resident (getSlice addrs 2) 0x200 = none
    ∧ (line2 false).wr = false ∧ ({ line2 false with wr := true } : L2Line).wr = true ∧ addrs.ms.poisonList = []
    ∧ (List.replicate 32 { miss2 with line := 0x300 }).length = 32 ∧ (getSlice (sliced fun x => { x with misses := [miss2] }) 2).misses.find? (fun q => q.line == 0x200) = some miss2
    ∧ cyclesSince { addrs with pkg := { addrs.pkg with time := 2000 } } 2 0 > 64 ∧ cyclesSince addrs 2 0 ≤ 64
    ∧ (let s := sliced fun x => { x with misses := [miss2] }
       2 = homeSlice (miss2.line * 128) ∧ fitsSet { getSlice s 2 with misses := [] } miss2.line (lineCode s miss2.line).2 (setSectors s 2) = true) := by and_intros <;> decide +kernel
theorem witness_write_hit : (mergeable sliceHit)[sliceHit.pick]? = some (packet2 held2, write2 held2) ∧ 2 = homeSlice ((write2 held2).line * 128)
    ∧ resident (getSlice sliceHit 2) 0x200 = some (line2 true) ∧ lineHeld sliceHit 0x200 = false ∧ 0x200 ∉ sliceHit.poison ∧ sliceHit.ms.poisonList = []
    ∧ after .writebackMerge sliceHit (fun t => decide ((line2 true).sectors < (lineCode t 0x200).2) && fitsSet (getSlice sliceHit 2) 0x200 (lineCode t 0x200).2 (setSectors sliceHit 2)) = some true
    ∧ ∀ i, i < 128 → Say.plain sliceHit (0x200 * 128 + i) := by
  refine ⟨by decide +kernel, by decide +kernel, by decide +kernel, by decide +kernel, by decide +kernel, rfl, by decide +kernel, fun i hi => plain_of ?_ _⟩
  show (0x200 * 128 + i) % 2 ^ 37 < 0x1FE0000000
  omega

/-- Flushes: a request that arrives, an acknowledgement that may go and one that arrives, and a flush that waits for no core. -/
theorem witness_flushes : owing.fab.net = [] ++ ⟨.rsp, 2, 0, .flush owing.core.num 0x100 2⟩ :: [] ∧ pathOpen owing 2 0 = true ∧ (∀ a ∈ owing.core.acks, ackReady owing a = false)
    ∧ acking.core.acks.find? (ackReady acking) = some ⟨0x100, 2, [0x200]⟩ ∧ pathOpen acking 0 2 = true ∧ acking.ms.poisonList = []
    ∧ ∃ f ∈ (getSlice (modSlice 2 (fun x => { x with flushes := [⟨0x100, []⟩] }) addrs) 2).flushes, f.line = 0x100 ∧ f.cores = [] := by and_intros <;> decide +kernel

/-! ### Launches (chapters 4, 5, 11 and 12) -/

/-- A descriptor of image 9 with CONST at 0x40000000, STAMP at 0x40000100, LID 5, one grove, priority 1, and one stage of one core (R69, R70). -/
def desc1 : BitVec 2048 := 9 + 0x40000000 * 2 ^ 64 + 0x40000100 * 2 ^ 128 + 5 * 2 ^ 192 + 2 ^ 352 + 2 ^ 360 + 2 ^ 362 + (2 ^ 32 + 2 ^ 48) * 2 ^ 512
/-- The record of its stage: two register slots, no lane slices. -/
def record1 : StageRec := ⟨0, 0, 10240, 10240, 917504, 0, 0, 1, 0⟩
/-- Its image. -/
def img9 : ImageRec := ⟨7, 0x40010000, [], [], [], [], [record1], [], []⟩
/-- A halt area at 2 GiB, in a page that the process may only read (R257). -/
def area1 : HaltArea := ⟨0x80000000, 0x80000000, []⟩
/-- Ring 0 of the west port with the descriptor, the process's tables, its partition of grove 0, and its image; the device is in S3. -/
def hosted : State :=
  let s := { pm [(0x21010, bytesOfNat 8 (0x80000 * 2 ^ 10 + 0x53))] walked with io := { walked.io with rings := [{ ringReset 0 with enable := true, bound := true, msien := true, tail := 1, slots := [(0, desc1)] }] } }
  { s with pkg := { s.pkg with sl := 3, online := 1 }
           root := { s.root with parts := [⟨1, 1, [], [], none⟩], images := [⟨9, 0, img9⟩] } }
/-- The descriptor has been copied. -/
def copied (d : BitVec 2048) : State := { hosted with root := { hosted.root with copied := [⟨0, d⟩] } }
/-- The launch of the descriptor as it stands at the gate. -/
def launch5 : Launch :=
  { id := 1, asid := 0, ring := 0, lid := 5, stamp := 0x40000100, const := 0x40000000, image := 9, groves := 1, prio := 1, prereqs := [],
    stages := [⟨0, 1, 1, 0, 0, false, 0, 0⟩], bal := [], st := .gate, placed := [], origin := none, starters := [], resumable := false, passed := 0, haltPa := 0x80000000, haltVa := 0x80000000, stampKey := 0x40000100, early := false, haltedAt := 0 }
/-- The device with that launch. -/
def holding (l : Launch) : State := { hosted with root := { hosted.root with launches := [l], nextLaunch := 2 } }

theorem test_copy : after (.descriptorCopy false 0) hosted (fun t => (t.root.copied.map (·.desc), (getRing t 0).head)) = some ([desc1], 1) := by decide +kernel
theorem test_copy_empty : after (.descriptorCopy false 1) hosted (fun t => t.root.copied.length) = some 0 := by decide +kernel
theorem test_descriptor : (let d := descOf desc1
    (d.image, d.const, d.stamp, d.lid) = (9, 0x40000000, 0x40000100, 5) ∧ (d.groves, d.prio, d.nstage, d.rsvd, d.stageRsvd) = (1, 1, 1, false, false) ∧ d.stages = [⟨0, 1, 1, 0, 0, false, 0, 0⟩]) := by
  decide +kernel
theorem test_admission : after (.admission false ⟨0, area1⟩) (copied desc1) (fun t => t.root.launches.map fun l => (l.lid, l.st, l.prio)) = some [(5, .gate, 1)] := by decide +kernel
/-- A second descriptor of the LID of a launch that has not ended is stamped 0x04 (R72). -/
theorem test_admission_refused : after (.admission false ⟨0, area1⟩) { copied desc1 with root := { (copied desc1).root with launches := [launch5] } } (fun t => (memNat t.mem 0x40000100 8, t.root.launches.length))
    = some (0x0400000000000005, 1) := by decide +kernel
theorem test_gate : after (.launchGatePass 1) (holding launch5) (fun t => t.root.launches.map fun l => (l.st, l.passed)) = some [(.placing, 1)] := by decide +kernel
/-- A prerequisite that ended with another status than 0 (R89). -/
theorem test_gate_failed : after (.launchGatePass 1) (holding { launch5 with prereqs := [(some 1, 0)] }) (fun t => (memNat t.mem 0x40000100 8, t.root.launches.length, t.io.outs))
    = some (0x0200000000000005, 0, [.msi false 1]) := by decide +kernel
theorem test_placement_refused : after (.placement 1 [1] []) (holding { launch5 with st := .placing }) (fun t => (memNat t.mem 0x40000100 8, t.root.launches.length)) = some (0x0500000000000005, 0) := by decide +kernel
theorem test_placement : after (.placement 1 [0] []) (holding { launch5 with st := .placing }) (fun t => (t.root.launches.map fun l => (l.st, l.placed), t.core.bank.bound.map (·.entry)))
    = some ([(.bound, [⟨0, false, 0, 0, false⟩])], some 0x40010000) := by decide +kernel
theorem test_placement_later : after (.placement 1 [0] []) (holding launch5) (fun t => t.root.launches.map (·.st)) = some [.gate] := by decide +kernel
/-- The launch bound to core 0. -/
def bound5 : Bound := ⟨1, 0, 0, 1, 5, 0x40000000, 0x40010000, none, 1, 0, none, 0x80000000, 0x80000000, false⟩
def placed5 (st : LaunchSt) : State :=
  modBank (fun b => { b with bound := some bound5 }) (holding { launch5 with st := st, placed := [⟨0, false, 0, 0, false⟩] })
theorem test_start : after (.stageStart 1) (placed5 .bound) (fun t => (t.core.cx.pc, t.core.cx.st, readX t 11, readX t 12)) = some (0x40010000, .ready, 1, 0x40000000) := by decide +kernel
theorem test_start_later : after (.stageStart 1) (placed5 .placing) (fun t => t.root.launches.map (·.st)) = some [.placing] := by decide +kernel
theorem test_end : after (.launchEnd 1) (holding { launch5 with st := .running, placed := [⟨0, false, 0, 0, true⟩] }) (fun t => (memNat t.mem 0x40000100 8, t.root.launches.length, t.io.outs))
    = some (5, 0, [.msi false 1]) := by decide +kernel
theorem test_end_early : after (.launchEnd 1) (placed5 .running) (fun t => t.root.launches.length) = some 1 := by decide +kernel

/-- Launches: a ring with and without a descriptor, a descriptor within the limits, prerequisites met, unknown and failed, and what has ended. -/
theorem witness_launches : ((getRing hosted 0).enable = true ∧ (getRing hosted 0).head ≠ (getRing hosted 0).tail ∧ (getRing hosted 0).slots.find? (fun x => x.1 == (getRing hosted 0).head.toNat % 64) = some (0, desc1)
    ∧ (copied desc1).root.copied = [⟨0, desc1⟩] ∧ proc? (copied desc1) 0 = some ⟨0, 0x20000, 1, false, [], []⟩ ∧ (descOf desc1).stamp.toNat % 8 = 0
    ∧ (procPlace (copied desc1) 0 (descOf desc1).stamp .write).isSome = true ∧ descOk (copied desc1) ⟨0, 0x20000, 1, false, [], []⟩ (descOf desc1) = true
    ∧ (descOf desc1).pres = [0, 0, 0, 0] ∧ launch? (holding launch5) 1 = some launch5 ∧ gateHeld (holding launch5) launch5 = false ∧ Memory.wf (holding launch5).mem = true
    ∧ (∀ x ∈ launch5.placed, boundTo (holding launch5) 1 x = false) ∧ (∀ g ∈ (holding launch5).fab.groups, g.launch ≠ 1)
    ∧ descOk (copied desc1) ⟨0, 0x20000, 1, false, [], []⟩ { descOf desc1 with groves := 2 } = false)
    ∧ ∀ l, lineHeld (holding launch5) l = false := ⟨by decide +kernel, held_none (by decide +kernel) (by decide +kernel)⟩

/-- Admission and the gate: a halt area that may be one and one that may not, a LID in use, a killed process, a launch held at S2, and one to end
whose commands have retired. -/
theorem witness_admission : (procPlace (copied desc1) 0 (descOf desc1).stamp .write).map (fun q => (areaOk (copied desc1) 0 area1 (descOf desc1).stamp q.key,
      areaOk (copied desc1) 0 ⟨0x80000000, 0x40000000, []⟩ (descOf desc1).stamp q.key)) = some (true, false) ∧ (copied desc1).ms.heldW = []
    ∧ 2 ≤ (copied desc1).pkg.sl.toNat ∧ (descOf desc1).lid ≠ 0 ∧ (copied desc1).root.launches = [] ∧ (launch5.asid = 0 ∧ launch5.lid = (descOf desc1).lid)
    ∧ ((descOf desc1).pres.filter (· != 0)).mapM (bindPre (copied desc1) ⟨0, 0x20000, 1, false, [], []⟩ (descOf desc1).lid) = some []
    ∧ (let s := { (holding launch5) with pkg := { (holding launch5).pkg with sl := 2, dies := (holding launch5).pkg.dies.map fun d => { d with trained := true } } }
       gateHeld s launch5 = true ∧ gateHeld s { launch5 with early := true } = false)
    ∧ (∃ x ∈ [((none : Option (BitVec 8)), 4)], x.1 = none) ∧ (∃ x ∈ [(some (1#8), 0)], x.1 ≠ some 0)
    ∧ (let l := { launch5 with st := .running, placed := [⟨0, false, 0, 0, true⟩] }
       allRetired (holding l) l = true ∧ launchQuiet (holding l) l = true ∧ l.origin = none ∧ ∀ x ∈ l.placed, x.gone = true)
    ∧ (let l := { launch5 with st := .halting, placed := [⟨0, false, 0, 0, false⟩] }
       let s := modBank (fun b => { b with bound := some bound5, stopped := true }) (holding l)
       allStopped s l = true ∧ allRetired s l = true ∧ launchQuiet s l = true ∧ s.ms.poisonList = [] ∧ (proc? s l.asid).map (·.killed) = some false)
    ∧ (let s := queued .cq (entryOf (cmdOf 0x40)) (placed5 .running)
       allRetired s { launch5 with st := .running, placed := [⟨0, false, 0, 0, false⟩] } = false) := by and_intros <;> decide +kernel

/-- Placement and start: groves in and outside the partition, eligible cores, the lowest of them, and a bound core. -/
theorem witness_placement : (let l := { launch5 with st := .placing }
      let s := holding l
      launch? s 1 = some l ∧ placeTurn s l = true ∧ choiceOk s l [0] [] = true ∧ choiceOk s l [1] [] = true ∧ partOfProc s ⟨0, 0x20000, 1, false, [], []⟩ = some ⟨1, 1, [], [], none⟩
        ∧ imageOf s l = some ⟨9, 0, img9⟩ ∧ wantsOf l img9 = some [⟨0, ⟨0, 1, 1, 0, 0, false, 0, 0⟩, record1, 1⟩]
        ∧ (1 : BitVec 96).getLsbD 0 = true ∧ (1 : BitVec 96).getLsbD 1 = false ∧ sectionMeets s l ⟨1, 1, [], [], none⟩ = false
        ∧ (coresOf [0]).find? (eligible s l ⟨0, ⟨0, 1, 1, 0, 0, false, 0, 0⟩, record1, 1⟩) = some 0 ∧ freeBank (getCore s 0) = some false ∧ 0 ∈ coresOf [0]
        ∧ eligibleEmpty s ⟨0, ⟨0, 1, 1, 0, 0, false, 0, 0⟩, record1, 1⟩ 0 = true ∧ pathOpen s (ioNode (launch5.ring / 32 == 1)) (0 / 4) = true)
    ∧ (let b : Bound := ⟨1, 0, 0, 1, 5, 0x40000000, 0x40010000, none, 1, 0, none, 0x80000000, 0x80000000, false⟩
       (loadConst 0 false 0x40000000 (modCoreAt 0 (bindCore b ⟨0, ⟨0, 1, 1, 0, 0, false, 0, 0⟩, record1, 1⟩ false 0) (holding { launch5 with st := .placing }))).isSome = true)
    ∧ (placed5 .bound).core.bank.bound = some bound5 ∧ checkpointed (placed5 .bound) { launch5 with st := .bound } = false := by
  and_intros <;> decide +kernel

/-- Stage 0 has group 5 with a backlog of 3 above its threshold 2, stage 1 has group 6 with none; core 0 of stage 1 is idle (R106, R107). -/
def launch2 : Launch :=
  { launch5 with st := .running, stages := [⟨0, 1, 2, 0, 0, true, 0, 0⟩, ⟨0, 0, 2, 0, 0, true, 0, 0⟩], bal := [⟨2, false⟩, ⟨2, false⟩], placed := [⟨0, false, 1, 0, false⟩] }
def balancing (sent : Nat) : State :=
  let s := modCore (fun c => { c with ready := [(6, 1)], cycles := 70000, bank := { c.bank with bound := some { bound5 with stage := 1, group := some 6 } } }) (holding launch2)
  { s with fab := { s.fab with groups := [{ grp5 with sent := sent }, { grp5 with num := 6, stage := 1 }] } }
theorem test_balancer : after (.balancerEvaluation 1) (balancing 3) (fun t => t.core.bank.rebind) = some (.posted 0)
    ∧ after (.balancerEvaluation 1) (balancing 2) (fun t => t.core.bank.rebind) = some .none := by decide +kernel
/-- The launch is stamped 0x03, its ring disabled, and vector 33 raised (R259). -/
theorem test_kill : after (.killProcess 0) (placed5 .running) (fun t => (memNat t.mem 0x40000100 8, t.io.outs, (getRing t 0).enable, t.root.launches.length)) = some (0x0300000000000005, [.msi false 1, .msi false 1, .msi false 33], false, 0) := by
  decide +kernel
theorem test_kill_tlb : after (.killProcess 0) { paged with root := hosted.root, pkg := hosted.pkg } (fun t => (t.core.tlb.length, t.root.procs.map (·.killed))) = some (0, [true]) := by decide +kernel
/-- A checkpoint of process 0, asked for at the west port, to drive 3. -/
def ask0 : CkptAsk := ⟨false, some 0, 3, 1, 64⟩
theorem test_checkpoint_stops : (ckptStop ask0 (placed5 .running)).root.launches.map (fun l => (l.st, l.resumable)) = [(.halting, true)] := by decide +kernel
/-- A process that is not there: the request is refused (R86), whatever the drive answers. -/
theorem test_checkpoint_refused : after (.checkpointRequest { ask0 with drive := 16 }) hosted (fun t => (t.root.ckpt, t.io.outs)) = some (none, [.refused, .msi false 0]) := by decide +kernel
/-- The device before any die is online. -/
def offline : State := modPkg (fun p => { p with online := 0 }) hosted
theorem test_restore : after (.checkpointRestore ⟨false, 3, false, 0x40000200⟩ [1, 2]) hosted (fun t => (memRead t.mem 0x40000200 2, t.io.outs)) = some ([1, 2], [.msi false 0])
    ∧ after (.checkpointRestore ⟨false, 3, false, 0x40000200⟩ [1, 2]) offline (fun t => memRead t.mem 0x40000200 2) = some [0, 0] := by decide +kernel
/-- The last write of a checkpoint has landed: it is over, and the port is told (R65, R86). -/
def lastPiece : Piece :=
  { id := 4, core := 0, q := .cq, bank := false, seq := 0, read := false, off := 0, len := 4096, drive := 3, nsid := 1, lba := 64, addr := 0, data := [], fua := true, rawb := false, since := 0, ckpt := true }
def streaming : State := { hosted with io := { hosted.io with pieces := [lastPiece] }, root := { hosted.root with ckpt := some ⟨ask0, true, false⟩ } }
theorem test_checkpoint_over : after (.nvmePieceComplete 4 true []) streaming (fun t => (t.root.ckpt, t.io.pieces.length, t.io.outs)) = some (none, 0, [.msi false 0])
    ∧ after (.nvmePieceComplete 4 false []) streaming (fun t => t.io.outs) = some [.refused, .msi false 0] := by decide +kernel
/-- The launch stopped for a checkpoint. -/
def halted (held : Bool) : State :=
  let s := modBank (fun b => { b with bound := some bound5, stopped := true }) (holding { launch5 with st := .halting, resumable := true, origin := some ⟨none, 5, 0⟩, placed := [⟨0, false, 0, 0, false⟩] })
  { s with fab := { s.fab with doms := [{ dom1 with heldHalt := held }] }, pkg := { s.pkg with time := 6000000000 } }
theorem due_checkpoint : 0 + ckptTicks 1 ≤ 6000000000 := by unfold ckptTicks; omega
/-- The held phase has not closed in firmware's time: a terminal halt with REASON 3 (R256). -/
theorem test_checkpoint_timeout : ∃ t, exec (.checkpointTimeout 1) (halted true) = .next t
    ∧ (launch? t 1).map (fun l => (l.resumable, l.origin)) = some (false, some ⟨none, 3, 0⟩) := by
  have h : launch? (halted true) 1 = some { launch5 with st := .halting, resumable := true, origin := some ⟨none, 5, 0⟩, placed := [⟨0, false, 0, 0, false⟩] } := rfl
  refine ⟨_, by simp only [exec, execCheckpointTimeout, h]; exact if_pos (by rw [Bool.and_eq_true]; exact ⟨by decide +kernel, decide_eq_true due_checkpoint⟩), by decide +kernel⟩
theorem test_resume : after (.resumeLaunch 1) (halted false) (fun t => (t.root.launches.map (·.st), t.core.bank.stopped)) = some ([.running], false) := by decide +kernel
theorem test_resume_early : after (.resumeLaunch 1) (modBank (fun b => { b with stopped := false }) (halted false)) (fun t => t.root.launches.map (·.st)) = some [.halting] := by decide +kernel

/-- Balancing, killing and checkpoints: stages that receive and give, an idle core, a process, memory that may be restored, held phases. -/
theorem witness_balancing : receives (balancing 3) launch2 0 = true ∧ receives (balancing 3) launch2 1 = false ∧ gives (balancing 3) launch2 0 1 = true
    ∧ idleCore (balancing 3) launch2 ⟨0, false, 1, 0, false⟩ = true ∧ boundTo (balancing 3) 1 ⟨0, false, 1, 0, false⟩ = true ∧ (recentPosts (balancing 3) 1).length < 64
    ∧ (proc? (balancing 3) launch2.asid).map (·.part) = some 1 ∧ hostUp hosted = true ∧ proc? hosted 0 = some ⟨0, 0x20000, 1, false, [], []⟩
    ∧ allocatable hosted 0x40000200 = true ∧ allocatable hosted 0x40000201 = true ∧ allocatableRange hosted 0x40000000 (2 ^ 17) = true
    ∧ (halted true).root.launches.map (allStopped (halted true)) = [true] := by and_intros <;> decide +kernel

/-- A partition evaluated 99 ticks ago and one never, checkpoints that are ready to stream and not, a held phase that is due and not. -/
theorem witness_checkpoints : (let q : Part := ⟨1, 1, [], [], some 1⟩; q.evaluated = some 1 ∧ 100 < 1 + 100) ∧ (∀ q ∈ (balancing 3).root.parts, q.evaluated = none)
    ∧ (balancing 3).root.launches = [launch2] ∧ hosted.ms.heldW = [] ∧ hosted.root.ckpt = none ∧ (proc? hosted 0).isSome = true
    ∧ ckptReady (halted true) (some 0) = true ∧ ckptReady (placed5 .running) (some 0) = false
    ∧ (∃ d ∈ (halted true).fab.doms, d.launch = launch5.id ∧ d.heldHalt = true) ∧ (∀ d ∈ (halted false).fab.doms, d.heldHalt = false)
    ∧ launch5.haltedAt + max 100000 (min 6000000000 (Config.ckptPolicy launch5.id)) ≤ (halted true).pkg.time
    ∧ (placed5 .running).pkg.time < launch5.haltedAt + max 100000 (min 6000000000 (Config.ckptPolicy launch5.id)) := by
  and_intros
  any_goals decide +kernel
  · change 0 + max 100000 (min 6000000000 (Config.ckptPolicy 1)) ≤ 6000000000
    omega
  · change 0 < 0 + max 100000 (min 6000000000 (Config.ckptPolicy 1))
    omega

/-- The checkpoint of all memory under way, asked for by `ask0` but for the process. -/
def checkpointing (s : State) : State := { s with root := { s.root with ckpt := some ⟨{ ask0 with what := none }, false, false⟩ } }
/-- A checkpoint that streams, one whose core has a dirty line and one that has none, the last piece, and memory that a restore may write. Whether
a drive has the namespace is free (log 91): the statement says what happens in either case. -/
theorem witness_stream : (checkpointing hosted).root.ckpt = some ⟨{ ask0 with what := none }, false, false⟩ ∧ (checkpointing hosted).ms.heldW = []
    ∧ (∀ s, s = checkpointing hosted ∨ s = checkpointing { dirtied with pkg := hosted.pkg } → ckptReady s none = true ∧ s.cores = [] ∧ hostUp s = true)
    ∧ unwritten (checkpointing { dirtied with pkg := hosted.pkg }) 0 = true ∧ (∀ n ∈ ckptCores (checkpointing hosted) none, unwritten (checkpointing hosted) n = false)
    ∧ pieceOver streaming lastPiece = true ∧ proc? hosted 7 = none ∧ hosted.ms.poisonList = [] ∧ 0x40000000 % 2 ^ 17 = 0
    ∧ (∀ i, i < 2 → Say.plain hosted (0x40000200 + i)) := by
  refine ⟨by decide +kernel, by decide +kernel, ?_, by decide +kernel, by decide +kernel, by decide +kernel, by decide +kernel, by decide +kernel, by decide +kernel, ?_⟩
  · rintro _ (rfl | rfl) <;> decide +kernel
  · intro i hi
    refine plain_of ?_ _
    unfold metaOffset
    omega

/-! ### The package, the host and the mailbox (chapters 1, 4 and 5) -/

/-- A firmware image that passes the verifier, of security version 3. -/
def fw3 : FwImage := ⟨true, true, true, 3, 5⟩
/-- The device in a service level with its three images. -/
def level (sl : BitVec 2) : State := { State.reset with pkg := { State.reset.pkg with sl := sl, serlar := some fw3, mmode := some fw3, walker := some fw3 } }
/-- Die 0 online with a clock, in S3. -/
def warm (clock hot : Nat) : State := modPkg (fun p => { p with online := 1, dies := p.dies.set 0 { p.dies[0] with trained := true, clock := clock, target := 900, hot := hot } }) (level 3)

theorem test_power_loss : after .powerLoss (level 3) (fun t => t.pkg.power) = some false := by decide +kernel
/-- The fuses outlive a reset (R14, R84). -/
theorem test_reset : after (.deviceReset fw3 [] []) { level 3 with pkg := { (level 3).pkg with absent := [7], rbSerlar := 4 }, mem := [(5, 6)] } (fun t => (t.pkg.sl, t.pkg.absent, t.pkg.fwerr, t.mem.length))
    = some (0, [7], true, 0) := by decide +kernel
theorem test_links : after (.hostLinksTrained fw3 { fw3 with sigOk := false }) (level 0) (fun t => (t.pkg.sl, t.pkg.fwerr)) = some (1, true) := by decide +kernel
theorem test_training : after (.dramTrainingDone 4 true) (level 1) (fun t => (t.pkg.sl, t.pkg.online, (dieAt t.pkg 4).clock)) = some (2, 16, 600) := by decide +kernel
theorem test_training_fails : after (.dramTrainingDone 4 false) (level 1) (fun t => (t.pkg.sl, t.pkg.online, t.pkg.err)) = some (1, 0, true) := by decide +kernel
theorem test_s3_early : after .enterS3 (level 2) (fun t => t.pkg.sl) = some 2 := by decide +kernel
theorem test_s3 : after .enterS3 (modPkg (fun p => { p with online := -1, dies := p.dies.map fun d => { d with trained := true, clock := 600, target := 900 } }) (level 2)) (fun t => (t.pkg.sl, (dieAt t.pkg 23).clock)) = some (3, 900) := by
  decide +kernel
/-- Above 105 °C the clock comes down by 50 MHz, at 100 °C and below it rises by 50 MHz up to the target (R13). -/
theorem test_sample : after (.thermalSample 0 106 []) (warm 800 0) (fun t => (dieAt t.pkg 0).clock) = some 750
    ∧ after (.thermalSample 0 100 [86]) (warm 880 0) (fun t => ((dieAt t.pkg 0).clock, (dieAt t.pkg 0).fastRefresh)) = some (900, true) := by decide +kernel
theorem test_sample_power : after (.thermalSample 0 125 []) (warm 500 3) (fun t => (t.pkg.power, (dieAt t.pkg 0).hot)) = some (false, 4) := by decide +kernel
theorem test_clock_target : after (.coreClockTargetWrite 0 1200) (warm 800 0) (fun t => ((dieAt t.pkg 0).target, t.pkg.throt)) = some (1000, 1) := by decide +kernel
theorem test_retire_channel : after (.channelRetirement 70) (holding launch5) (fun t => t.pkg.retired) = some [70] ∧ after (.channelRetirement 5) (holding launch5) (fun t => t.pkg.retired) = some [] := by decide +kernel
theorem test_rollback : after (.rollbackCounterRaise ⟨true, .walker⟩ 9) (level 3) (fun t => (t.pkg.rbWalker, t.io.outs)) = some (9, [.msi true 0])
    ∧ after (.rollbackCounterRaise ⟨true, .walker⟩ 9) (modPkg (fun p => { p with rbWalker := 10 }) (level 3)) (fun t => (t.pkg.rbWalker, t.io.outs)) = some (10, [.refused, .msi true 0]) := by
  decide +kernel

/-- TAIL moves, unless the distance exceeds 64 (R67). -/
theorem test_doorbell : after (.rtailDoorbell false 0 64) hosted (fun t => ((getRing t 0).tail, (getRing t 0).badtail)) = some (64, false)
    ∧ after (.rtailDoorbell false 0 65) hosted (fun t => ((getRing t 0).tail, (getRing t 0).badtail)) = some (1, true) := by decide +kernel
theorem test_rerr : after (.rerrClear false 0 1) { hosted with io := { hosted.io with rings := [{ ringReset 0 with badtail := true, badstamp := true }] } } (fun t => ((getRing t 0).badtail, (getRing t 0).badstamp)) = some (false, true) := by
  decide +kernel
theorem test_rctl : after (.hostRegisterWrite false 0x10000 0x40000) hosted (fun t => ((getRing t 0).msien, (getRing t 0).headien)) = some (false, true) := by decide +kernel
theorem test_slot : after (.descriptorSlotWrite false 0 63 7) hosted (fun t => (getRing t 0).slots) = some [(63, 7), (0, desc1)] := by decide +kernel
theorem test_window_write : after (.windowWrite false 0x100 [1, 2]) hosted (fun t => memRead t.mem 0x100 2) = some [1, 2] ∧ after (.windowWrite false 0x100 [1, 2]) offline (fun t => memRead t.mem 0x100 2) = some [0, 0] := by decide +kernel
/-- Of a write that crosses into the metadata region the bytes before it land and the others are dropped (R66). -/
theorem test_window_mixed : after (.windowWrite false 0xFDFFFFFFF [1, 2]) { hosted with io := { hosted.io with winWest := 0x1000000000 } } (fun t => (memGet t.mem 0x1FDFFFFFFF, memGet t.mem 0x1FE0000000)) = some (1, 0x77)
    ∧ after (.windowRead false 0xFDFFFFFFF 2) { hosted with io := { hosted.io with winWest := 0x1000000000 } } (fun t => t.io.outs) = some [.read false [0xFF, 0xFF] true] := by decide +kernel
theorem test_window_read : after (.windowRead false 0x20000 1) hosted (fun t => t.io.outs) = some [.read false [1] false] ∧ after (.windowRead false 0x20000 1) offline (fun t => t.io.outs) = some [.read false [0xFF] true] := by decide +kernel
theorem test_partition : after (.mailboxPartitionCreate ⟨false, 2⟩ 6 [(8, 262144)]) hosted (fun t => t.root.parts.map (·.groves)) = some [1, 6]
    ∧ after (.mailboxPartitionCreate ⟨false, 2⟩ 3 []) hosted (fun t => (t.root.parts.length, t.io.outs)) = some (1, [.refused, .msi false 0]) := by decide +kernel
/-- The partition of that name takes new scratch sizes while no launch holds cores there, and no other groves (R138). -/
theorem test_partition_again : after (.mailboxPartitionCreate ⟨false, 1⟩ 1 [(3, 262144)]) hosted (fun t => (t.root.parts.map (·.scratch), t.io.outs)) = some ([[(3, 262144)]], [.msi false 0])
    ∧ after (.mailboxPartitionCreate ⟨false, 1⟩ 2 []) hosted (fun t => t.io.outs) = some [.refused, .msi false 0]
    ∧ after (.mailboxPartitionCreate ⟨false, 1⟩ 1 [(3, 262144)]) (placed5 .running) (fun t => t.io.outs) = some [.refused, .msi false 0] := by decide +kernel
theorem test_ring_bind : after (.mailboxRingBind true 3 44 1 0x9000) hosted (fun t => ((getRing t 35).enable, (getRing t 35).asid, t.io.outs)) = some (true, 44, [.msi true 0]) := by decide +kernel
theorem test_ring_bind_refused : after (.mailboxRingBind true 3 44 2 0x9000) hosted (fun t => ((getRing t 35).enable, t.io.outs)) = some (false, [.refused, .msi true 0]) := by decide +kernel
theorem test_window_base : after (.mailboxWindowBase true 0x1000000000) hosted (fun t => (t.io.winEast, t.io.winWest)) = some (0x1000000000, 0) ∧ after (.mailboxWindowBase true 0x1000) hosted (fun t => t.io.winEast) = some 0 := by decide +kernel
/-- A new image of one stage record. -/
def img8 : ImageRec := ⟨8, 0x90000000, [], [], [], [], [record1], [], []⟩
theorem test_image_load : after (.mailboxImageLoad ⟨false, 0⟩ 12 ⟨img8, []⟩) hosted (fun t => (t.root.images.map (·.handle), t.io.outs)) = some ([9, 12], [.handle 0 12, .msi false 0]) := by decide +kernel
/-- One register slot is too few (R115). -/
theorem test_image_refused : after (.mailboxImageLoad ⟨false, 0⟩ 12 ⟨{ img8 with stages := [{ record1 with pool0 := 5120, pool1 := 5120 }] }, []⟩) hosted (fun t => (t.root.images.length, t.io.outs)) = some (1, [.badImage 0 (.record 0), .msi false 0]) := by decide +kernel
/-- An image of a known digest has its handle until reset, also for a process that loads it anew (R278). -/
def known : State := { hosted with root := { hosted.root with images := [], finals := [⟨9, { img9 with textVa := 0x90000000 }⟩] } }
theorem test_image_known : after (.mailboxImageLoad ⟨false, 0⟩ 12 ⟨img9, []⟩) known (fun t => (t.root.images.map (·.handle), t.io.outs)) = some ([9], [.handle 0 9, .msi false 0]) := by decide +kernel
theorem test_fw_update : after (.mailboxFirmwareUpdate ⟨false, .mmode⟩ { fw3 with version := 4 }) (level 1) (fun t => t.pkg.mmode.map (·.version)) = some (some 4)
    ∧ after (.mailboxFirmwareUpdate ⟨false, .mmode⟩ { fw3 with digestOk := false }) (level 1) (fun t => (t.pkg.fwerr, t.io.outs)) = some (true, [.refused, .msi false 0]) := by decide +kernel
/-- SVCSTAT of S3 with die 0 online and throttled (R19). -/
theorem test_attestation : after (.attestationRequest false 77) (warm 800 0) (fun t => t.io.outs.map fun o => match o with
    | .report _ n d v a c _ => n == 77 && d == [5, 5, 5] && v == [3, 3, 3] && a.isEmpty && c == 0x103
    | .msi port n => !port && n == 0
    | _ => false) = some [true, true] := by decide +kernel
theorem test_s0_port : after (.attestationRequest false 77) (level 0) (fun t => t.io.outs.length) = some 0 := by decide +kernel

/-- The package: images that pass and fail, dies that train, levels, and samples. -/
theorem witness_package : (level 0).pkg.sl = 0 ∧ (level 0).pkg.serlar ≠ none ∧ (level 1).pkg.mmode ≠ none ∧ (dieAt (level 1).pkg 4).trained = false ∧ (dieAt (level 1).pkg 4).failed = false
    ∧ (warm 800 0).pkg.online.getLsbD 0 = true ∧ (dieAt (warm 800 0).pkg 0).hot < 9 ∧ hostUp (level 1) = true ∧ hostUp (level 0) = false ∧ (70 : Nat) ∉ (level 3).pkg.retired
    ∧ ((modPkg (fun p => { p with dies := p.dies.map fun d => { d with trained := true } }) (level 2)).pkg.dies.toList.all fun d => d.trained || d.failed) = true
    ∧ (dieAt (warm 500 9).pkg 0).hot = 9 ∧ (dieAt (warm 500 9).pkg 0).clock = 500
    ∧ (proc? (placed5 .running) 0).bind (partOfProc (placed5 .running)) = some ⟨1, 1, [], [], none⟩ ∧ (1 : BitVec 96).getLsbD 0 = true ∧ dieOfGrove 0 = 0
    ∧ (dieAt (warm 800 0).pkg 0).sampled = none ∧ (let d := { dieAt (warm 800 0).pkg 0 with sampled := some 1 }; d.sampled = some 1 ∧ (warm 800 0).pkg.time < 1 + 10000)
    ∧ (∃ l ∈ (holding launch5).root.launches, dieOfPa l.haltPa = dieOfTwig 5) ∧ (level 3).root.launches = []
    ∧ (∀ l ∈ (holding launch5).root.launches, l.st = .gate) ∧ { launch5 with early := true }.early ≠ false := by and_intros <;> decide +kernel

/-- Host ports and the mailbox: rings, allocatable memory, partitions, processes and images, known and new. -/
theorem witness_host : hostUp hosted = true ∧ (getRing hosted 0).enable = true ∧ (getRing hosted 1).enable = false ∧ allocatable hosted 0x20000 = true ∧ allocatable offline 0x20000 = false
    ∧ lineOf 0x20000 ∉ hosted.poison ∧ lineOf 0x20000 ∈ ({ hosted with poison := [0x400] } : State).poison ∧ Memory.wf hosted.mem = true
    ∧ (proc? hosted 0).isSome = true ∧ proc? hosted 44 = none ∧ imageOk img8 = true ∧ (∀ i ∈ hosted.root.finals, i.img.digest ≠ 8 ∧ i.handle ≠ 12)
    ∧ known.root.finals.find? (fun x => x.img.digest == img9.digest) = some ⟨9, { img9 with textVa := 0x90000000 }⟩ ∧ (∀ j ∈ known.root.images, j.handle = 9 → j.asid ≠ 0)
    ∧ mayPut known 0 [] = true ∧ imageMapped known 0 { img9 with textVa := 0x90000000 } = true
    ∧ loaded (level 1).pkg .mmode ≠ none ∧ hosted.root.parts.find? (fun x => x.id == 1) = some ⟨1, 1, [], [], none⟩ ∧ (∀ q ∈ hosted.root.parts, q.id ≠ 2 ∧ q.groves &&& 6 = 0)
    ∧ (∃ q ∈ hosted.root.parts, q.id ≠ 2 ∧ q.groves &&& 3 ≠ 0) ∧ (∃ l ∈ (placed5 .running).root.launches, holdsCores l = true ∧ ∃ y ∈ l.placed, y.gone = false ∧ groveOf y.core = groveOfTwig 3)
    ∧ hosted.ms.poisonList = [] ∧ allocatable hosted 0x1FDFFFFFFF = true ∧ allocatable hosted 0x1FE0000000 = false ∧ 0x1000000000 % 2 ^ 36 = 0
    ∧ pathOpen hosted (ioNode false) (homeSlice 0x20000) = true ∧ hosted.ms.heldW = [] ∧ imageFault img8 = none
    ∧ imageFault { img8 with stages := [{ record1 with pool0 := 5120, pool1 := 5120 }] } = some (.record 0) ∧ imageMapped hosted 0 img8 = true
    ∧ imageMapped hosted 0 { img8 with text := [.word 0] } = false ∧ writesOk hosted [(0x20000, [1])] = true ∧ mayRemap hosted 0 = true ∧ mayRemap (placed5 .running) 0 = false
    ∧ (let q : Proc := ⟨0, 0x20000, 1, true, [], []⟩; proc? { hosted with root := { hosted.root with procs := [q] } } 0 = some q ∧ q.killed = true)
    ∧ (∃ l ∈ (holding launch5).root.launches, l.asid = 0) ∧ (∀ l ∈ hosted.root.launches, l.asid ≠ 0) ∧ (level 1).pkg.serlar = some fw3 := by and_intros <;> decide +kernel

/-! ### Decoding, stepping and reset -/

/-- An ADD at the pc of core 0, with one turn of that core on the agenda. -/
def stepping : State := { State.reset.withFetchWord 32 0x003100B3 with agenda := [⟨0, 0, 0, 0, none, 0⟩] }

/-- What a step reaches, where it reaches a next state. -/
def stepped {α : Type} (s : State) (f : State → α) : Option α :=
  match step s with
  | .next t => some (f t)
  | _ => none

theorem test_step_add : stepped (px [(2, 40), (3, 2)] stepping) (fun t => (readX t 1, t.core.cx.pc - stepping.core.cx.pc, t.core.cycles)) = some (42, 4, stepping.core.cycles + 1) := by decide +kernel
/-- A word that is no instruction takes cause 2 with its bits as the value (R240). -/
theorem test_step_illegal : stepped { handled (State.reset.withFetchWord 32 0x12311 ) with agenda := [⟨0, 0, 0, 0, none, 0⟩] } (fun t => (t.core.cx.dtcause, t.core.cx.dtval)) = some (2, 0x12311) := by decide +kernel
theorem test_step_event : stepped { stepping with agenda := [⟨0, 0, 0, 0, some .powerLoss, 0⟩] } (fun t => (t.pkg.power, t.core.cx.pc == stepping.core.cx.pc)) = some (false, true) := by decide +kernel
theorem test_step_unpowered : (match step { State.reset with pkg := { State.reset.pkg with power := false } } with
  | .fault f => some f
  | _ => none) = some .unpowered := by decide +kernel

/-- Encoding: a well-formed instruction with a word; bytes that decode. -/
theorem witness_encoding : (Instr.hstart 3 2 1).wf = true ∧ encode (.hstart 3 2 1) = some 0x0031008B ∧ (decode (bytesLE (0x0031008B : W32) ++ [1, 2])).toOption = some (.hstart 3 2 1, [1, 2]) := by decide +kernel

/-- Steps: a turn with an event and one without, a core that may issue, the bytes at its pc, an empty agenda and an event that moves, a device without power. -/
theorem witness_step : stepping.agenda = ⟨0, 0, 0, 0, none, 0⟩ :: [] ∧ stepping.pkg.power = true ∧ isEvent .powerLoss = true
    ∧ (let u := Machine.pass ⟨0, 0, 0, 0, none, 0⟩ { stepping with agenda := [] }
       let k := u.core
       k.cx.st = .ready ∧ k.bank.stopped = false ∧ k.bank.dead = false ∧ k.swap = none ∧ haltDue u = false ∧ k.cx.must23 = false ∧ k.bank.used < k.bank.dquantum.toNat
       ∧ mwaitOver k = false ∧ k.bank.seek = false ∧ tlbMiss u k.cx.pc .exec = false
       ∧ (match resolve u k.cx.pc 4 .exec with
          | .ok p => !poisoned u p.key 4 && !behind u (lineOf p.key) && !l1Hit u p.key 4 && !l1Poison u p.key && decide ((if p.loc = .dram ∧ p.ty = .cached then underDirty u p.key 4 (fun i => memGet u.mem (p.key + i)) else memRead u.mem p.key 4) = [0xB3, 0x00, 0x31, 0x00])
          | .error _ => false) = true)
    ∧ (decode [0xB3, 0x00, 0x31, 0x00]).toOption = some (.rv64Instruction (.alu .add 1 2 3), [])
    ∧ (let u := px [] (modCx (fun c => { c with pc := 0x900000 }) State.reset)
       tlbMiss u u.core.cx.pc .exec = true ∧ u.core.cx.ans = none)
    ∧ nextEvent { State.reset with fab := { Fab.reset with updates := [⟨⟨1, 0⟩, 5, 0, 1⟩] } } = some (.readinessUpdate ⟨1, 0⟩)
    ∧ powersUp { State.reset with pkg := { State.reset.pkg with power := false } } = false := by decide +kernel
/-- A move whose journey is open, and one of a write that finds no room: the state before it stays (log 88). -/
theorem witness_commit : (let t := visit .req 0 2 State.reset; t.fab.trips ≠ [] ∧ ∀ x ∈ t.fab.trips, tripOpen State.reset x = true)
    ∧ tripOpen State.reset noRoom = false ∧ State.reset.fab.trips = [] := by decide +kernel
/-- A fetch behind the core's own write to the line waits; one of a POISON line takes cause 1 (R157, R208). -/
def codePage : State := { modCx (fun c => { c with pc := 0x400000 }) (handled (paged.withFetchWord 32 0x003100B3)) with mem := memWrite paged.mem 0x10000 [0xB3, 0x00, 0x31, 0x00] }
/-- A write of the core to the line of the pc, under way. -/
def codeStore : State := underway unheld codePage
theorem test_step_poison : stepped { codePage with poison := [0x200] } (fun t => t.core.cx.dtcause) = some 1 := by decide +kernel
theorem test_step_behind : stepped codeStore (fun t => t.core.cx.st) = some (.waiting .stores) := by decide +kernel
theorem witness_fetch : (let u := Machine.pass ⟨0, 0, 0, 0, none, 0⟩ { codePage with agenda := [] }
      tlbMiss u u.core.cx.pc .exec = false ∧ haltDue u = false ∧ (match resolve u u.core.cx.pc 4 .exec with
        | .ok p => lineOf p.key == 0x200 && decide (p.loc = .dram ∧ p.ty = .cached) && !l1Hit u p.key 4 && poisoned { u with poison := [0x200] } p.key 4
            && behind (underway unheld u) 0x200 && decide (underDirty u p.key 4 (fun i => memGet u.mem (p.key + i)) = [0xB3, 0x00, 0x31, 0x00])
        | .error _ => false) = true)
    ∧ (let l : L1Line := ⟨0x200, 0, -1, 0, .shared, none, true, false, false, none⟩
       let u := modCore (fun c => { c with l1 := [l] }) codePage
       l1Hit u 0x10000 4 = true ∧ l1Poison u 0x10000 = true ∧ l1Bytes u 0x10000 4 = [0, 0, 0, 0]) := by decide +kernel

/-- Reset, whose memory is in canonical form, makes a step. -/
theorem witness_canonical : Memory.wf stepping.mem = true ∧ (stepped stepping fun t => Memory.wf t.mem) = some true := by decide +kernel

/-! Witnesses by statement: rounding and format clauses of the vector statements witness_float_modes; StandardFloatInstructions witness_standard_modes;
StandardIntegerAndJumps witness_jumps; CSRs witness_csrs and witness_layouts; scalar memory witness_open, witness_loads, witness_stores, witness_atomics,
witness_reservations, witness_fences, witness_cache_operations; vector memory witness_own, witness_vector_memory, witness_prefetch; exceptions and records
witness_traps, witness_hret, witness_records, witness_stops, witness_channel_halts; contexts and swaps witness_switches, witness_none_ready, witness_helpers, witness_stage_end,
witness_rebind, witness_swaps, witness_yield; barriers witness_no_held, witness_no_line_held, witness_barriers, witness_releases, witness_monitors; queues witness_queues,
witness_control, witness_sequencers; engines witness_flat, witness_flat_s, witness_chains, witness_matrix, witness_copy, witness_copy_host, witness_grain; storage and peers witness_storage, witness_storage_places, witness_host_answers,
witness_pieces, witness_peer_commands, witness_peer_packets, witness_peer_read_part; walker witness_walker, witness_walker_reread, witness_geval, witness_scan, witness_record_wait, witness_gmv, witness_gvm,
witness_contraction, witness_grot_query, witness_grot_keys; fabric witness_offers, witness_msend, witness_steering, witness_group_releases, witness_timed,
witness_unread, witness_clocks; memory witness_memory, witness_walks, witness_slices, witness_write_hit, witness_flushes; launches witness_launches, witness_admission, witness_placement,
witness_balancing, witness_checkpoints, witness_stream; package witness_package, witness_host; decoding and steps witness_encoding, witness_step, witness_commit, witness_fetch, witness_canonical. -/

end Sys2Proof.Tests
end

section
/-! SUPPORT. The package's dies, firmware and memory under the events of bring-up, power and clocks (R10 to R23, R84). -/

namespace Sys2Proof.Machine

/-! ### Dies, and the throttle mask that follows their clocks (R13, R19, R21) -/

theorem dieAt_modDie_self {d : Nat} (hd : d < 24) (f : Die → Die) (p : Pkg) : dieAt (modDie d f p) d = f (dieAt p d) := by
  simp [dieAt, modDie, hd]

theorem dieAt_modDie_other {d x : Nat} (hx : x ≠ d) (f : Die → Die) (p : Pkg) : dieAt (modDie d f p) x = dieAt p x := by
  simp [dieAt, modDie, Vector.getElem?_setIfInBounds_ne hx.symm]

/-- A change of a die is seen in that die, and in no other. -/
theorem dieAt_modDie {d : Nat} (hd : d < 24) (f : Die → Die) (p : Pkg) :
    dieAt (modDie d f p) d = f (dieAt p d) ∧ ∀ x, x < 24 → x ≠ d → dieAt (modDie d f p) x = dieAt p x :=
  ⟨dieAt_modDie_self hd f p, fun _ _ hx => dieAt_modDie_other hx f p⟩

/-- A change of every die of the package changes each of them. -/
theorem dieAt_map {x : Nat} (hx : x < 24) (f : Die → Die) (p : Pkg) : dieAt { p with dies := p.dies.map f } x = f (dieAt p x) := by
  simp [dieAt, hx]

/-- No core of a die that has failed is present (R21). -/
theorem present_of_failed {s : State} {n : Nat} (h : (dieAt s.pkg (dieOf n)).failed = true) : present s n = false := by
  unfold dieAt at h
  unfold present
  cases hd : s.pkg.dies[dieOf n]? with
  | none => simp [hd, Die.reset] at h
  | some d => simp_all

/-- A bit of a mask that collects the numbers of a list. -/
theorem collectBits_getLsbD {x : Nat} (hx : x < 24) : ∀ (l : List Nat) (m : BitVec 24),
    (l.foldl (fun m d => m ||| (1#24 <<< d)) m).getLsbD x = (m.getLsbD x || decide (x ∈ l))
  | [], m => by simp
  | d :: l, m => by
    have hbit : (1#24 <<< d).getLsbD x = decide (x = d) := by
      rw [BitVec.getLsbD_shiftLeft, BitVec.getLsbD_one, decide_eq_true hx, Bool.eq_iff_iff]
      simp only [Bool.true_and, Bool.and_eq_true, Bool.not_eq_true', decide_eq_true_eq, decide_eq_false_iff_not]
      omega
    rw [List.foldl_cons, collectBits_getLsbD hx l, BitVec.getLsbD_or, hbit]
    simp [List.mem_cons, Bool.or_assoc, Bool.decide_or]

/-- The throttle mask names the online dies whose clock is below their target (R19). -/
def ThrotFollows (p : Pkg) : Prop :=
  ∀ x, x < 24 → (p.throt.getLsbD x = true ↔ p.online.getLsbD x = true ∧ (dieAt p x).clock < (dieAt p x).target)

theorem throtFollows_setThrot (p : Pkg) : ThrotFollows (setThrot p) := by
  intro x hx
  show (throtOf p).getLsbD x = true ↔ p.online.getLsbD x = true ∧ (dieAt p x).clock < (dieAt p x).target
  unfold throtOf
  rw [collectBits_getLsbD hx]
  simp [hx]

/-! ### Firmware (R84) -/

/-- The verifier's answer, as the statements say it. -/
theorem takes_eq (i : FwImage) (c : W32) (old : Option FwImage) :
    Say.takes i c old = if verified i c then (some i, false) else (old, true) := by
  simp [Say.takes, verified, and_assoc]

/-- FWERR does not depend on the image that was loaded before. -/
theorem takes_snd (i : FwImage) (c : W32) (old : Option FwImage) : (Say.takes i c old).2 = (Say.takes i c none).2 := by
  rw [takes_eq, takes_eq]; split <;> rfl

/-- The loaded image of a kind replaced. -/
def setLoaded (k : FwKind) (x : Option FwImage) (p : Pkg) : Pkg :=
  match k with
  | .serlar => { p with serlar := x } | .mmode => { p with mmode := x } | .walker => { p with walker := x }

/-- All that checking an image changes: the loaded image of its kind, and FWERR. -/
theorem takeFw_eq (k : FwKind) (i : FwImage) (p : Pkg) : takeFw k i p =
    setLoaded k (Say.takes i (rollback p k) (loaded p k)).1 { p with fwerr := p.fwerr || (Say.takes i (rollback p k) none).2 } := by
  unfold takeFw
  rw [← takes_snd i _ (loaded p k), takes_eq]
  split
  · cases k <;> simp [setLoaded, loadFw]
  · cases k <;> simp [setLoaded, loaded]

/-! ### Reset, training and the service levels (R20, R21, R23) -/

/-- Reset lists no core but core 0, and every core reads as reset leaves it. -/
theorem getCore_reset (n : Nat) : getCore State.reset n = Core.reset n := by
  unfold getCore
  split
  · next h => subst h; rfl
  · rfl

/-- A reset with every link alive marks no die failed. -/
theorem exec_deviceReset_linksAlive (i : FwImage) (half : List Nat) (s : State) :
    exec (.deviceReset i half []) s = .next { State.reset with
      pkg := takeFw .serlar i { Pkg.reset with
        absent := s.pkg.absent, rbSerlar := s.pkg.rbSerlar, rbMmode := s.pkg.rbMmode, rbWalker := s.pkg.rbWalker, halfLinks := half }
      agenda := s.agenda, free := s.free } := rfl

theorem exec_hostLinksTrained_atS0 {i j : FwImage} {s : State} (h0 : s.pkg.sl = 0) (hs : s.pkg.serlar ≠ none) :
    exec (.hostLinksTrained i j) s = .next (modPkg (fun p => takeFw .walker j (takeFw .mmode i { p with sl := 1 })) s) := by
  rw [exec_hostLinksTrained]
  unfold execHostLinksTrained
  rw [if_neg (by simpa [h0] using hs)]

theorem exec_hostLinksTrained_stays {i j : FwImage} {s : State} (h : ¬(s.pkg.sl = 0 ∧ s.pkg.serlar ≠ none)) :
    exec (.hostLinksTrained i j) s = .next s := by
  rw [exec_hostLinksTrained]
  unfold execHostLinksTrained
  rw [if_pos (by simpa [imp_iff_not_or] using h)]

/-- A die trains at S1 or S2, once both images that Serlar verifies are loaded. -/
theorem exec_dramTrainingDone_trains {s : State} {die : Nat} (hd : die < 24) (hsl : s.pkg.sl = 1 ∨ s.pkg.sl = 2) (hm : s.pkg.mmode ≠ none)
    (hw : s.pkg.walker ≠ none) (ht : (dieAt s.pkg die).trained = false) (hf : (dieAt s.pkg die).failed = false) (ok : Bool) :
    exec (.dramTrainingDone die ok) s = .next (modPkg (fun p =>
      if ok then setThrot { modDie die (fun d => { d with trained := true, clock := 600 }) p with online := p.online ||| (1#24 <<< die), sl := 2 }
      else { modDie die (fun d => { d with failed := true }) p with err := true }) s) := by
  have hlevel : ¬(s.pkg.sl = 0 ∨ s.pkg.sl = 3) := by
    rcases hsl with h | h <;> rw [h] <;> decide
  rw [exec_dramTrainingDone]
  unfold execDramTrainingDone
  rw [if_neg (by simpa [hd, hm, hw, ht, hf] using hlevel)]
  cases ok <;> rfl

theorem diesSettled_iff (s : State) : diesSettled s = true ↔ ∀ x ∈ s.pkg.dies.toList, x.trained = true ∨ x.failed = true := by
  simp [diesSettled, List.all_eq_true, -Vector.all_toList, -Vector.mem_toList_iff]

theorem passedGate_eq_false_iff (s : State) : passedGate s = false ↔ ∀ l ∈ s.root.launches, l.st = .gate ∧ l.early = false := by
  simp [passedGate]

theorem exec_enterS3_rises {s : State} (h2 : s.pkg.sl = 2) (hd : ∀ x ∈ s.pkg.dies.toList, x.trained = true ∨ x.failed = true)
    (hg : ∀ l ∈ s.root.launches, l.st = .gate ∧ l.early = false) :
    exec .enterS3 s = .next (modPkg (fun p => setThrot { p with
        sl := 3, dies := p.dies.map fun d => if d.trained && !d.failed then { d with clock := d.target } else d })
      { s with mem := s.mem.filter fun c => !isMetaKey c.1 }) := by
  rw [exec_enterS3]
  unfold execEnterS3
  rw [if_neg (by simp [h2, (diesSettled_iff s).mpr hd, (passedGate_eq_false_iff s).mpr hg])]

theorem exec_enterS3_stays {s : State} (h : ¬(s.pkg.sl = 2 ∧ (∀ x ∈ s.pkg.dies.toList, x.trained = true ∨ x.failed = true)
    ∧ ∀ l ∈ s.root.launches, l.st = .gate ∧ l.early = false)) : exec .enterS3 s = .next s := by
  rw [← diesSettled_iff, ← passedGate_eq_false_iff] at h
  rw [exec_enterS3]
  unfold execEnterS3
  rw [if_pos (by simpa [imp_iff_not_or, or_assoc] using h)]

/-- With the entries of the bark metadata gone, each of its bytes reads 0x77 (R155), and every other byte as before. -/
theorem memGet_dropMeta : ∀ {m : List Host.Cell} {lo : Nat} (a : Nat), Memory.wfFrom lo m = true →
    memGet (m.filter fun c => !isMetaKey c.1) a = if isMetaKey a then 0x77 else memGet m a
  | [], _, a, _ => by simp [memGet, memDefault]
  | (k, b) :: m, lo, a, h => by
    obtain ⟨-, htail⟩ : _ ∧ Memory.wfFrom (k + 1) m = true := by simpa [Memory.wfFrom] using h
    have ih := memGet_dropMeta a htail
    by_cases hk : isMetaKey k
    · rw [List.filter_cons_of_neg (by simpa using hk), ih]
      split
      · rfl
      · next ha =>
        have hka : k ≠ a := by rintro rfl; exact ha hk
        rw [memGet, if_neg hka]
        split
        · exact memGet_below htail (by omega)
        · rfl
    · rw [List.filter_cons_of_pos (by simpa using hk), memGet, memGet, ih]
      by_cases hka : k = a
      · subst hka; simp [hk]
      · by_cases ha : isMetaKey a <;> simp [hka, ha, memDefault]

/-! ### Samples, clock targets and retirement (R10, R13, R15) -/

/-- A sample is due where none has been taken, or the last is 100 µs old (R13). -/
theorem sampleDue_iff (s : State) (die : Nat) :
    sampleDue s die = true ↔ ∀ t, (dieAt s.pkg die).sampled = some t → t + 10000 ≤ s.pkg.time := by
  unfold sampleDue sampleTicks
  cases (dieAt s.pkg die).sampled <;> simp

theorem exec_thermalSample_notDue {s : State} {die hot : Nat} {layers : List Nat} (h : sampleDue s die = false) :
    exec (.thermalSample die hot layers) s = .next s := by
  rw [exec_thermalSample]
  unfold execThermalSample
  rw [if_pos (by simp [h])]

/-- The count of hot samples after one more (R13). -/
theorem sampleDie_hot (sl : BitVec 2) (time hot : Nat) (layers : List Nat) (d : Die) :
    (sampleDie sl time hot layers d).hot = if 115 ≤ hot ∧ d.clock = 500 then d.hot + 1 else 0 := by
  simp [sampleDie]

/-- A cool die's clock rises towards its limit, which at S2 is at most 600 MHz (R10, R13). -/
theorem sampledClock_cool {sl : BitVec 2} {d : Die} {hot : Nat} (hcool : hot ≤ 100)
    (hle : d.clock ≤ if sl = 2 then min 600 d.target else d.target) :
    sampledClock sl d hot = min (if sl = 2 then min 600 d.target else d.target) (d.clock + 50) := by
  unfold sampledClock
  rw [if_neg (by omega), if_neg (by omega), if_pos hcool]

/-- Between 100 and 105 °C the clock stays. -/
theorem sampledClock_mild {sl : BitVec 2} {d : Die} {hot : Nat} (hwarm : 100 < hot) (hmild : hot ≤ 105)
    (hle : d.clock ≤ if sl = 2 then min 600 d.target else d.target) : sampledClock sl d hot = d.clock := by
  unfold sampledClock
  rw [if_neg (by omega), if_neg (by omega), if_neg (by omega)]

theorem sampleDie_fastRefresh_above {sl : BitVec 2} {time hot : Nat} {layers : List Nat} {d : Die} (h : ∃ x ∈ layers, 85 < x) :
    (sampleDie sl time hot layers d).fastRefresh = true := by
  have habove : layers.any (85 < ·) = true := by simpa using h
  show (layers.any (85 < ·) || _) = true
  rw [habove, Bool.true_or]

theorem sampleDie_fastRefresh_below {sl : BitVec 2} {time hot : Nat} {layers : List Nat} {d : Die} (h : ∀ x ∈ layers, x ≤ 82) :
    (sampleDie sl time hot layers d).fastRefresh = false := by
  have hnone : ∀ k, 82 ≤ k → layers.any (k < ·) = false := fun k hk => by
    simpa using fun x hx => (h x hx).trans hk
  show (layers.any (85 < ·) || (d.fastRefresh && layers.any (82 < ·))) = false
  rw [hnone 85 (by decide), hnone 82 le_rfl, Bool.and_false, Bool.or_false]

/-- A sample that is not the tenth hot one changes its die and perhaps the power, and stops nothing. -/
theorem exec_thermalSample_belowTen {s : State} {die hot : Nat} {layers : List Nat} (hd : die < 24) (hdue : sampleDue s die = true)
    (hcount : (dieAt s.pkg die).hot < 9) :
    exec (.thermalSample die hot layers) s = .next (modPkg (fun p =>
      { setThrot (modDie die (sampleDie s.pkg.sl s.pkg.time hot layers) p) with power := p.power && decide (hot < 125) }) s) := by
  have hten : (sampleDie s.pkg.sl s.pkg.time hot layers (dieAt s.pkg die)).hot ≠ 10 := by
    rw [sampleDie_hot]; split <;> omega
  rw [exec_thermalSample]
  unfold execThermalSample
  rw [if_neg (by simp [hd, hdue])]
  simp only [if_neg hten]
  split
  · next h => simp [modPkg, modDie, setThrot, Nat.not_lt.mpr h]
  · next h => simp [modPkg, modDie, setThrot, Nat.lt_of_not_le h]

/-- The tenth hot sample at 500 MHz stops the partitions on the die, and leaves the root kernel's tables as that stop does. -/
theorem exec_thermalSample_tenth {s : State} {die hot : Nat} {layers : List Nat} (hd : die < 24) (hdue : sampleDue s die = true)
    (hcount : (dieAt s.pkg die).hot = 9) (hclock : (dieAt s.pkg die).clock = 500) (hhot : 115 ≤ hot) :
    ∃ t f, exec (.thermalSample die hot layers) s = .next t ∧ t.root = (thermalStop die (modPkg f s)).root := by
  have hten : (sampleDie s.pkg.sl s.pkg.time hot layers (dieAt s.pkg die)).hot = 10 := by
    rw [sampleDie_hot, if_pos ⟨hhot, hclock⟩, hcount]
  rw [exec_thermalSample]
  unfold execThermalSample
  rw [if_neg (by simp [hd, hdue])]
  simp only [if_pos hten]
  refine ⟨_, fun p => setThrot (modDie die (fun _ => { sampleDie s.pkg.sl s.pkg.time hot layers (dieAt s.pkg die) with hot := 0 }) p), rfl, ?_⟩
  split <;> rfl

/-- Every launch with the id is halting for good. -/
def HaltsForGood (id : Nat) (s : State) : Prop := ∀ y ∈ s.root.launches, y.id = id → y.st = .halting ∧ y.resumable = false

theorem haltsForGood_notifyRoot_self (id : Nat) (o : Origin) (ns : List Nat) (s : State) : HaltsForGood id (notifyRoot id o ns s) := by
  intro y hy hid
  obtain ⟨l, -, rfl⟩ := List.mem_map.mp hy
  by_cases hl : l.id = id <;> simp_all

/-- A further notice, of this launch or of another, starts nothing again. -/
theorem HaltsForGood.notifyRoot {id : Nat} {s : State} (h : HaltsForGood id s) (k : Nat) (o : Origin) (ns : List Nat) :
    HaltsForGood id (Machine.notifyRoot k o ns s) := by
  intro y hy hid
  obtain ⟨l, hl, rfl⟩ := List.mem_map.mp hy
  by_cases hk : l.id = k
  · simp [hk]
  · rw [if_neg hk] at hid ⊢
    exact h l hl hid

theorem haltsForGood_foldl_notifyRoot (o : Origin) {id : Nat} : ∀ (ls : List Launch) {s : State},
    HaltsForGood id s ∨ (∃ l ∈ ls, l.id = id) → HaltsForGood id (ls.foldl (fun s l => notifyRoot l.id o [] s) s)
  | [], _, h => h.resolve_right (by simp)
  | l :: ls, s, h => by
    apply haltsForGood_foldl_notifyRoot o ls
    by_cases hl : l.id = id
    · exact .inl (hl ▸ haltsForGood_notifyRoot_self l.id o [] s)
    · rcases h with h | ⟨m, hm, hid⟩
      · exact .inl (h.notifyRoot l.id o [])
      · rcases List.mem_cons.mp hm with rfl | hm
        · exact absurd hid hl
        · exact .inr ⟨m, hm, hid⟩

/-- The thermal stop halts a running launch of a partition that has a grove on the die (R13, R255). -/
theorem haltsForGood_thermalStop {die g : Nat} {s : State} {l : Launch} {q : Proc} {pt : Part} (hl : l ∈ s.root.launches)
    (hrun : l.st = .running) (hq : proc? s l.asid = some q) (hpt : partOfProc s q = some pt) (hg : g < 96)
    (hown : pt.groves.getLsbD g = true) (hdie : dieOfGrove g = die) : HaltsForGood l.id (thermalStop die s) := by
  apply haltsForGood_foldl_notifyRoot
  refine .inr ⟨l, List.mem_filter.mpr ⟨hl, ?_⟩, rfl⟩
  have hgrove : (grovesOf pt.groves).any (fun g => dieOfGrove g == die) = true :=
    List.any_eq_true.mpr ⟨g, by simp [grovesOf, hg, hown], by simp [hdie]⟩
  simp [hrun, hq, hpt, hgrove]

theorem exec_coreClockTargetWrite_up {s : State} {die : Nat} (mhz : Nat) (hd : die < 24) (hup : hostUp s = true) :
    exec (.coreClockTargetWrite die mhz) s
      = .next (modPkg (fun p => setThrot (modDie die (fun d => { d with target := max 500 (min 1000 mhz) }) p)) s) := by
  rw [exec_coreClockTargetWrite]
  unfold execCoreClockTargetWrite
  rw [if_neg (by simp [hd, hup])]

theorem rangeHeld_iff (s : State) (n : Nat) : rangeHeld s n = true ↔
    ∃ l ∈ s.root.launches, dieOfPa l.haltPa = dieOfTwig n ∨ ∃ x ∈ pagesOf s l.asid, pageIn x n = true := by
  simp [rangeHeld]

/-- A channel in service retires where no launch holds pages in its range or in that of its neighbour, and else stays (R15). -/
theorem exec_channelRetirement_up {s : State} {twig : Nat} (ht : twig < 6144) (hup : hostUp s = true) (hin : twig ∉ s.pkg.retired) :
    exec (.channelRetirement twig) s = if rangeHeld s twig || rangeHeld s (neighbourOf twig) then .next s
      else .next (modPkg (fun q => { q with retired := q.retired ++ [twig] }) s) := by
  rw [exec_channelRetirement]
  unfold execChannelRetirement
  simp [Nat.not_le.mpr ht, hup, hin]

/-! ### Anti-rollback counters (R84) -/

/-- The counter of a kind set to a value. -/
def setRollback (k : FwKind) (v : W32) (p : Pkg) : Pkg :=
  match k with
  | .serlar => { p with rbSerlar := v } | .mmode => { p with rbMmode := v } | .walker => { p with rbWalker := v }

theorem rollback_setRollback_self (k : FwKind) (v : W32) (p : Pkg) : rollback (setRollback k v p) k = v := by
  cases k <;> rfl

theorem rollback_setRollback_other {k m : FwKind} (h : m ≠ k) (v : W32) (p : Pkg) : rollback (setRollback k v p) m = rollback p m := by
  cases k <;> cases m <;> simp_all [setRollback, rollback]

theorem exec_rollbackCounterRaise_rises {s : State} {port : Bool} {k : FwKind} {v : W32} (hup : hostUp s = true)
    (h : (rollback s.pkg k).toNat < v.toNat) :
    exec (.rollbackCounterRaise ⟨port, k⟩ v) s = .next (msi port 0 (modPkg (setRollback k v) s)) := by
  rw [exec_rollbackCounterRaise]
  unfold execRollbackCounterRaise
  rw [if_neg (by simp [hup]), if_neg (Nat.not_le.mpr h)]
  rfl

theorem exec_rollbackCounterRaise_refused {s : State} {port : Bool} {k : FwKind} {v : W32} (hup : hostUp s = true)
    (h : v.toNat ≤ (rollback s.pkg k).toNat) :
    exec (.rollbackCounterRaise ⟨port, k⟩ v) s = .next (msi port 0 (mailRefuse s)) := by
  rw [exec_rollbackCounterRaise]
  unfold execRollbackCounterRaise
  rw [if_neg (by simp [hup]), if_pos h]

end Sys2Proof.Machine
end

section
/-! PROOFS. What reset leaves, and the events of bring-up, power and clocks. -/

namespace Sys2Proof.Proofs
open Sys2Proof Sys2Proof.Machine

/-- Settles O59: each field as the model's reset value gives it; for the cores by `getCore_reset`. -/
theorem resetState : Obligations.ResetState := by
  refine ⟨rfl, fun a => rfl, rfl, rfl, rfl, rfl, rfl, rfl, fun g => ⟨rfl, rfl, rfl, rfl⟩, fun n => ?_, rfl, rfl, rfl, rfl, rfl, rfl, rfl⟩
  simp only [getCore_reset]
  and_intros <;> rfl

/-- Settles O52: each event's equation gives its next state, and the laws of dies, firmware images and memory say what that state holds. -/
theorem packageEvents : Obligations.PackageEvents := by
  intro s i j half die hot mhz twig layers v p d low due holds next throt
  have hfollows : ∀ q, throt (setThrot q) := throtFollows_setThrot
  have hdue : sampleDue s die = true ↔ due := sampleDue_iff s die
  refine ⟨?reset, ?links, exec_hostLinksTrained_stays, ?training, exec_enterS3_stays, ?enterS3, ?notDue, ?sample, ?tenth, ?target, ?retire,
    exec_powerLoss s, ?counter⟩
  case reset =>
    refine ⟨_, exec_deviceReset_linksAlive i half s, rfl, rfl, rfl, rfl, rfl, rfl, rfl, ?_⟩
    rw [takeFw_eq]
    and_intros <;> rfl
  case links =>
    intro h0 hs
    refine ⟨_, exec_hostLinksTrained_atS0 h0 hs, ?_⟩
    rw [modPkg_pkg, takeFw_eq, takeFw_eq]
    and_intros <;> rfl
  case training =>
    intro hd hsl hm hw ht hf
    have htrain := exec_dramTrainingDone_trains hd hsl hm hw ht hf
    obtain ⟨htrained, hothers⟩ := dieAt_modDie hd (fun y => { y with trained := true, clock := 600 }) p
    have hfailed := dieAt_modDie_self hd (fun y => { y with failed := true }) p
    exact ⟨⟨_, htrain true, rfl, rfl, htrained, hothers, rfl, hfollows _⟩,
      ⟨_, htrain false, rfl, rfl, rfl, hfailed, fun n hn => present_of_failed (hn ▸ congrArg Die.failed hfailed)⟩⟩
  case enterS3 =>
    intro h2 hd hg
    refine ⟨_, exec_enterS3_rises h2 hd hg, rfl, fun hwf a => memGet_dropMeta a hwf, hfollows _, fun x hx => ?_⟩
    exact (dieAt_map hx _ p).trans (by simp)
  case notDue => exact fun _ h => exec_thermalSample_notDue (Bool.eq_false_iff.mpr (mt hdue.mp h))
  case sample =>
    intro hd h hcount
    obtain ⟨hdie, hothers⟩ := dieAt_modDie hd (sampleDie p.sl p.time hot layers) p
    refine ⟨_, exec_thermalSample_belowTen hd (hdue.mpr h) hcount, rfl, rfl, hfollows _, fun hhot => ?_, fun hcool hle => ?_,
      fun hwarm hmild hle => ?_, ?_, fun hlayer => ?_, fun hlayers => ?_, hothers⟩
    · exact (congrArg Die.clock hdie).trans (if_pos hhot)
    · exact (congrArg Die.clock hdie).trans (sampledClock_cool hcool hle)
    · exact (congrArg Die.clock hdie).trans (sampledClock_mild hwarm hmild hle)
    · exact (congrArg Die.hot hdie).trans (sampleDie_hot ..)
    · exact (congrArg Die.fastRefresh hdie).trans (sampleDie_fastRefresh_above hlayer)
    · exact (congrArg Die.fastRefresh hdie).trans (sampleDie_fastRefresh_below hlayers)
  case tenth =>
    intro hd h hcount hclock hhot l q pt hl hrun hq hpt ⟨g, hg, hown, hgd⟩
    obtain ⟨t, f, ht, hroot⟩ := exec_thermalSample_tenth hd (hdue.mpr h) hcount hclock hhot
    refine ⟨t, ht, ?_⟩
    rw [hroot]
    exact haltsForGood_thermalStop (s := modPkg f s) hl hrun hq hpt hg hown hgd
  case target =>
    intro hd hup
    obtain ⟨hdie, hothers⟩ := dieAt_modDie hd (fun y => { y with target := max 500 (min 1000 mhz) }) p
    exact ⟨_, exec_coreClockTargetWrite_up mhz hd hup, rfl, hfollows _, hdie, hothers⟩
  case retire =>
    intro ht hup hin
    have hheld : (rangeHeld s twig || rangeHeld s (neighbourOf twig)) = true ↔ holds twig ∨ holds next := by
      rw [Bool.or_eq_true, rangeHeld_iff, rangeHeld_iff]
      exact Iff.rfl
    rw [exec_channelRetirement_up ht hup hin]
    exact ⟨fun h => if_pos (hheld.mpr h), fun hown hother => if_neg (mt hheld.mp (not_or.mpr ⟨hown, hother⟩))⟩
  case counter =>
    intro hup port k
    refine ⟨fun h => ⟨_, exec_rollbackCounterRaise_rises hup h, rfl, rollback_setRollback_self k v p,
      fun m hm => rollback_setRollback_other hm v p⟩, fun h => ?_⟩
    rw [exec_rollbackCounterRaise_refused hup h]
    simp [msi, mailRefuse, modIo]

end Sys2Proof.Proofs
end

section
/-! SUPPORT. The clock regions and their governors (R33 to R35). -/

namespace Sys2Proof.Machine

/-! ### RCLK of each region under its updates -/

@[simp] theorem modRclk_mem (g : Nat) (f : Rclk → Rclk) (s : State) : (modRclk g f s).mem = s.mem := rfl
@[simp] theorem modRclk_core (g : Nat) (f : Rclk → Rclk) (s : State) : (modRclk g f s).core = s.core := rfl

theorem rclkOf_modRclk_self (g : Nat) (f : Rclk → Rclk) (s : State) : rclkOf (modRclk g f s) g = f (rclkOf s g) := by
  simp [modRclk, rclkOf]

theorem rclkOf_modRclk_other {g x : Nat} (h : x ≠ g) (f : Rclk → Rclk) (s : State) : rclkOf (modRclk g f s) x = rclkOf s x := by
  have hkeep : ∀ l : List (Nat × Rclk), (l.filter fun y => y.1 != g).find? (fun y => y.1 == x) = l.find? fun y => y.1 == x := by
    intro l
    rw [List.find?_filter]
    congr 1
    funext y
    by_cases hy : y.1 = x <;> simp [hy, h]
  simp [modRclk, rclkOf, Ne.symm h, hkeep]

theorem foldl_modRclk_frame (f : Rclk → Rclk) : ∀ (gs : List Nat) (s : State),
    (gs.foldl (fun s g => modRclk g f s) s).mem = s.mem ∧ (gs.foldl (fun s g => modRclk g f s) s).core = s.core
  | [], _ => ⟨rfl, rfl⟩
  | g :: gs, s => foldl_modRclk_frame f gs (modRclk g f s)

theorem rclkOf_foldl_modRclk_other (f : Rclk → Rclk) {gs : List Nat} {x : Nat} (s : State) (hx : x ∉ gs) :
    rclkOf (gs.foldl (fun s g => modRclk g f s) s) x = rclkOf s x := by
  induction gs generalizing s with
  | nil => rfl
  | cons g gs ih =>
    rw [List.mem_cons, not_or] at hx
    rw [List.foldl_cons, ih _ hx.2, rclkOf_modRclk_other hx.1]

/-- A change of listed regions that is the same when made twice: a list may name a region more than once. -/
theorem rclkOf_foldl_modRclk_mem (f : Rclk → Rclk) {gs : List Nat} {x : Nat} (s : State) (hx : x ∈ gs)
    (hf : f (f (rclkOf s x)) = f (rclkOf s x)) : rclkOf (gs.foldl (fun s g => modRclk g f s) s) x = f (rclkOf s x) := by
  induction gs generalizing s with
  | nil => exact absurd hx List.not_mem_nil
  | cons g gs ih =>
    rw [List.foldl_cons]
    by_cases hg : x = g
    · subst hg
      have hself := rclkOf_modRclk_self x f s
      by_cases hgs : x ∈ gs
      · rw [ih _ hgs (by rw [hself, hf, hf]), hself, hf]
      · rw [rclkOf_foldl_modRclk_other f _ hgs, hself]
    · have hsame := rclkOf_modRclk_other hg f s
      rw [ih _ ((List.mem_cons.mp hx).resolve_left hg) (by rw [hsame, hf]), hsame]

/-- A move that changes one region. -/
theorem regions_modRclk {i : Instr} {s : State} {g : Nat} {f : Rclk → Rclk} (h : exec i s = .next (modRclk g f s)) :
    Say.Regions i s (· = g) f :=
  ⟨_, h, fun _ hx => hx ▸ rclkOf_modRclk_self g f s, fun _ hx => rclkOf_modRclk_other hx f s, rfl, rfl⟩

/-- A move that changes the regions of a list. -/
theorem regions_foldl {i : Instr} {s : State} {gs : List Nat} {f : Rclk → Rclk}
    (h : exec i s = .next (gs.foldl (fun s g => modRclk g f s) s)) (hf : ∀ x ∈ gs, f (f (rclkOf s x)) = f (rclkOf s x)) :
    Say.Regions i s (· ∈ gs) f :=
  ⟨_, h, fun x hx => rclkOf_foldl_modRclk_mem f s hx (hf x hx), fun _ hx => rclkOf_foldl_modRclk_other f s hx, foldl_modRclk_frame f gs s⟩

/-- What a change does to the regions it names is all that counts, and which these are. -/
theorem regions_congr {i : Instr} {s : State} {p q : Nat → Prop} {f k : Rclk → Rclk} (h : Say.Regions i s p f)
    (hp : ∀ x, q x ↔ p x) (hf : ∀ x, q x → k (rclkOf s x) = f (rclkOf s x)) : Say.Regions i s q k := by
  obtain ⟨t, ht, hin, hout, hframe⟩ := h
  exact ⟨t, ht, fun x hx => (hin x ((hp x).mp hx)).trans (hf x hx).symm, fun x hx => hout x (mt (hp x).mpr hx), hframe⟩

/-! ### Targets, joins and leaves (R34, R35) -/

theorem exec_rclkTargetWrite_joined {s : State} {g : Nat} (mhz : BitVec 11) (h : (rclkOf s g).joined = true) :
    exec (.rclkTargetWrite g mhz) s = .next ((lockMembers s (rclkOf s g).lockgrp).foldl
      (fun s g => modRclk g (fun x => { x with target := clampMhz mhz.toNat }) s) s) := by
  rw [exec_rclkTargetWrite]
  unfold execRclkTargetWrite
  rw [if_pos h]

theorem exec_rclkTargetWrite_alone {s : State} {g : Nat} (mhz : BitVec 11) (h : (rclkOf s g).joined = false) :
    exec (.rclkTargetWrite g mhz) s = .next (modRclk g (fun x => { x with target := clampMhz mhz.toNat }) s) := by
  rw [exec_rclkTargetWrite]
  unfold execRclkTargetWrite
  rw [if_neg (Bool.eq_false_iff.mp h)]

theorem exec_rclkJoin_same {s : State} {g : Nat} {grp : BitVec 7} (h : grp = (rclkOf s g).lockgrp) :
    exec (.rclkJoin g grp) s = .next s := by
  rw [exec_rclkJoin, execRclkJoin, if_pos h]

theorem exec_rclkJoin_other {s : State} {g : Nat} {grp : BitVec 7} (h : grp ≠ (rclkOf s g).lockgrp) :
    exec (.rclkJoin g grp) s = .next (setGroup g grp s) := by
  rw [exec_rclkJoin, execRclkJoin, if_neg h]

theorem exec_rclkLeave_none {s : State} {g : Nat} (h : (rclkOf s g).lockgrp = 0) : exec (.rclkLeave g) s = .next s := by
  rw [exec_rclkLeave, execRclkLeave, if_pos h]

theorem exec_rclkLeave_some {s : State} {g : Nat} (h : (rclkOf s g).lockgrp ≠ 0) :
    exec (.rclkLeave g) s = .next (setGroup g 0 s) := by
  rw [exec_rclkLeave, execRclkLeave, if_neg h]

/-! ### The governor (R33, R35, R42) -/

theorem spaced_iff (s : State) (g : Nat) : spaced s g = true ↔ Say.Spaced s g := by
  unfold spaced Say.Spaced
  cases h : (rclkOf s g).lastEnd <;> simp [h]

theorem all_spaced_iff (s : State) (gs : List Nat) : gs.all (spaced s) = true ↔ ∀ m ∈ gs, Say.Spaced s m := by
  simp only [List.all_eq_true, spaced_iff]

/-- What keeps the governor from a change whatever its spacing: none is wanted, a phase defers it, or its group makes another. -/
def governorHeld (s : State) (r : Rclk) : Bool :=
  !wantsChange r || phaseDefers s r || (r.lockgrp != 0 && (joinUnderWay s r.lockgrp || groupRelocks s r.lockgrp))

theorem governorHeld_iff (s : State) (r : Rclk) : governorHeld s r = true ↔
    ¬(r.joining = true ∨ r.target ≠ r.current) ∨ (groupPhase s r.lockgrp = true ∨ leavingOpen s r = true)
      ∨ (r.lockgrp ≠ 0 ∧ (joinUnderWay s r.lockgrp = true ∨ groupRelocks s r.lockgrp = true)) := by
  simp [governorHeld, wantsChange, phaseDefers, or_assoc]

theorem exec_governorChange_held {s : State} {g : Nat} (h : governorHeld s (rclkOf s g) = true) :
    exec (.governorChange g) s = .next s := by
  rw [exec_governorChange]
  unfold execGovernorChange
  exact if_pos h

/-- The change that a region starts at a time, towards a frequency. -/
def Rclk.start (time goal : Nat) (x : Rclk) : Rclk := { x with relock := true, goal := goal, began := time }

/-- The frequency of a lock group: that of its first member, and for the first of a group the region's own target (R35). -/
def joinGoal (s : State) (r : Rclk) : Nat :=
  match lockMembers s r.lockgrp with
  | m :: _ => (rclkOf s m).current
  | [] => r.target

theorem exec_governorChange_join {s : State} {g : Nat} (h : governorHeld s (rclkOf s g) = false) (hj : (rclkOf s g).joining = true) :
    (¬Say.Spaced s g → exec (.governorChange g) s = .next s)
    ∧ (Say.Spaced s g → exec (.governorChange g) s = .next (modRclk g (fun x =>
        { x.start s.pkg.time (joinGoal s (rclkOf s g)) with joining := false, inJoin := true }) s)) := by
  rw [exec_governorChange, ← spaced_iff]
  unfold governorHeld at h
  unfold execGovernorChange
  simp only [h, hj, Bool.false_eq_true, if_false, if_true]
  exact ⟨fun hs => if_pos (by simpa using hs), fun hs => if_neg (by simp [hs])⟩

/-- The changes that start together start at one time. -/
theorem foldl_start (goal : Nat) (gs : List Nat) (s : State) :
    gs.foldl (fun t g => modRclk g (Rclk.start t.pkg.time goal) t) s = gs.foldl (fun t g => modRclk g (Rclk.start s.pkg.time goal) t) s := by
  induction gs generalizing s with
  | nil => rfl
  | cons g gs ih => exact ih (modRclk g _ s)

/-- A region that changes its frequency does so with its group, or alone where it is no member of one. -/
theorem exec_governorChange_target {s : State} {g : Nat} {gs : List Nat} (h : governorHeld s (rclkOf s g) = false)
    (hj : (rclkOf s g).joining = false) (hgs : gs = if (rclkOf s g).joined then lockMembers s (rclkOf s g).lockgrp else [g]) :
    (¬(∀ m ∈ gs, Say.Spaced s m) → exec (.governorChange g) s = .next s)
    ∧ ((∀ m ∈ gs, Say.Spaced s m) → exec (.governorChange g) s
        = .next (gs.foldl (fun t g' => modRclk g' (Rclk.start s.pkg.time (rclkOf s g).target) t) s)) := by
  subst hgs
  rw [exec_governorChange, ← foldl_start, ← all_spaced_iff]
  unfold governorHeld at h
  unfold execGovernorChange
  simp only [h, hj, Bool.false_eq_true, if_false]
  exact ⟨fun hs => if_neg hs, fun hs => if_pos hs⟩

/-! ### The end of a relock (R33, R35) -/

theorem exec_relockEnd_notDue {s : State} {g : Nat} (h : (rclkOf s g).relock = false ∨ s.pkg.time < (rclkOf s g).began + 100) :
    exec (.relockEnd g) s = .next s := by
  rw [exec_relockEnd]
  unfold execRelockEnd
  exact if_pos (by simpa using h)

/-- A region at the end of its change; a join takes over the target of the group (R35). -/
def Rclk.finish (s : State) (x : Rclk) : Rclk :=
  { x with
    relock := false, current := x.goal, joined := x.joined || x.inJoin, inJoin := false, lastEnd := some s.pkg.time
    target := if x.inJoin then (match lockMembers s x.lockgrp with
      | m :: _ => (rclkOf s m).target
      | [] => x.target) else x.target }

theorem Rclk.finish_of_not_inJoin {x : Rclk} (s : State) (h : x.inJoin = false) :
    x.finish s = { x with relock := false, current := x.goal, lastEnd := some s.pkg.time } := by
  obtain ⟨⟩ := x
  subst h
  simp [Rclk.finish]

theorem Rclk.finish_of_inJoin {x : Rclk} (s : State) (h : x.inJoin = true) :
    x.finish s = { x with
      relock := false, current := x.goal, joined := true, inJoin := false, lastEnd := some s.pkg.time
      target := (match lockMembers s x.lockgrp with
        | m :: _ => (rclkOf s m).target
        | [] => x.target) } := by
  simp [Rclk.finish, h]

@[simp] theorem Rclk.finish_finish (s : State) (x : Rclk) : (x.finish s).finish s = x.finish s := by
  simp [Rclk.finish]

theorem exec_relockEnd_due {s : State} {g : Nat} {gs : List Nat} (hr : (rclkOf s g).relock = true) (ht : (rclkOf s g).began + 100 ≤ s.pkg.time)
    (hgs : gs = if (rclkOf s g).joined then (lockMembers s (rclkOf s g).lockgrp).filter fun g => (rclkOf s g).relock else [g]) :
    exec (.relockEnd g) s = .next (gs.foldl (fun t g' => modRclk g' (Rclk.finish s) t) s) := by
  subst hgs
  rw [exec_relockEnd]
  unfold execRelockEnd
  exact if_neg (by simp [hr, ht])

end Sys2Proof.Machine
end

section
/-! SUPPORT. Write-back of the shared lines, arrivals, communication phases and releases (R38, R58, R62, R210, R217, R312, R313). -/

namespace Sys2Proof.Machine

/-! ### The write-back of L1 lines (R141, R210) -/

/-- What the write-back of lines leaves of a state: memory, the domains, and of the core what a barrier instruction reads. -/
structure WroteBack (s t : State) : Prop where
  mem : t.mem = s.mem
  doms : t.fab.doms = s.fab.doms
  num : t.core.num = s.core.num
  chans : t.core.chans = s.core.chans
  bound : t.core.bank.bound = s.core.bank.bound
  x : t.core.cx.x = s.core.cx.x
  pc : t.core.cx.pc = s.core.cx.pc

theorem WroteBack.refl (s : State) : WroteBack s s := ⟨rfl, rfl, rfl, rfl, rfl, rfl, rfl⟩

theorem WroteBack.trans {s t u : State} (h : WroteBack s t) (k : WroteBack t u) : WroteBack s u :=
  ⟨k.mem.trans h.mem, k.doms.trans h.doms, k.num.trans h.num, k.chans.trans h.chans, k.bound.trans h.bound, k.x.trans h.x, k.pc.trans h.pc⟩

/-- Asking again for a line changes, of a context, only the requests that it awaits. -/
theorem wroteBack_staleAsks (line : Nat) (s : State) : WroteBack s (staleAsks line s) := by
  refine ⟨rfl, rfl, rfl, rfl, rfl, ?_, ?_⟩ <;>
    simp only [staleAsks, modCore, Core.mapCtxs] <;> split <;> rfl

theorem wroteBack_sendBytes (x : L1Line) (mask : BitVec 128) (s : State) : WroteBack s (sendBytes x mask s) := by
  unfold sendBytes
  split
  · exact .refl s
  · obtain ⟨hmem, hdoms, hnum, hchans, hbound, hx, hpc⟩ := wroteBack_staleAsks x.line s
    exact ⟨hmem, hdoms, hnum, hchans, hbound, hx, hpc⟩

theorem sendBytes_l1 (x : L1Line) (mask : BitVec 128) (s : State) : (sendBytes x mask s).core.l1 = s.core.l1 := by
  unfold sendBytes
  split <;> rfl

theorem wroteBack_writeBackLine (line : Nat) (s : State) : WroteBack s (writeBackLine line s) := by
  unfold writeBackLine
  split
  · exact .refl s
  · exact .trans (t := modCore _ s) ⟨rfl, rfl, rfl, rfl, rfl, rfl, rfl⟩ (wroteBack_sendBytes ..)

/-- A line that has been written back is clean, and every other stands as before. -/
theorem mem_l1_writeBackLine {line : Nat} {s : State} {l : L1Line} (h : l ∈ (writeBackLine line s).core.l1) :
    (l ∈ s.core.l1 ∧ l.line ≠ line) ∨ l.dirty = 0 := by
  unfold writeBackLine at h
  split at h
  case h_1 hnone =>
    exact .inl ⟨h, fun hl => by simpa [hl] using List.find?_eq_none.mp hnone l h⟩
  case h_2 x hx =>
    have hline : x.line = line := by simpa using List.find?_some hx
    rw [sendBytes_l1] at h
    obtain ⟨y, hy, rfl⟩ := List.mem_map.mp (List.mem_of_mem_filter h)
    split
    · exact .inr rfl
    · next hne => exact .inl ⟨hy, fun hl => hne (hl.trans hline.symm)⟩

theorem wroteBack_foldl : ∀ (ks : List Nat) (s : State), WroteBack s (ks.foldl (fun s l => writeBackLine l s) s)
  | [], s => .refl s
  | k :: ks, s => (wroteBack_writeBackLine k s).trans (wroteBack_foldl ks _)

theorem mem_l1_foldl_writeBackLine {l : L1Line} : ∀ {ks : List Nat} {s : State}, l ∈ (ks.foldl (fun s l => writeBackLine l s) s).core.l1 →
    (l ∈ s.core.l1 ∧ l.line ∉ ks) ∨ l.dirty = 0
  | [], _, h => .inl ⟨h, List.not_mem_nil⟩
  | k :: ks, s, h => by
    rcases mem_l1_foldl_writeBackLine (ks := ks) h with ⟨hmem, hks⟩ | hclean
    · rcases mem_l1_writeBackLine hmem with ⟨hmem, hk⟩ | hclean
      · exact .inl ⟨hmem, by simp [hk, hks]⟩
      · exact .inr hclean
    · exact .inr hclean

theorem wroteBack_writeBackShared (s : State) : WroteBack s (writeBackShared s) := wroteBack_foldl _ s

/-- After an eager write-back no shared line of L1 is dirty (R210). -/
theorem writeBackShared_clean {s : State} {l : L1Line} (h : l ∈ (writeBackShared s).core.l1) (hcls : l.cls = .shared) : l.dirty = 0 := by
  rcases mem_l1_foldl_writeBackLine h with ⟨hmem, hnot⟩ | hclean
  · by_contra hdirty
    exact hnot (List.mem_map.mpr ⟨l, List.mem_filter.mpr ⟨hmem, by simpa [hcls] using hdirty⟩, rfl⟩)
  · exact hclean

theorem eagerRelease_waits {s : State} (h : storesOut (writeBackShared s) = true) :
    eagerRelease s = .error (.wait .stores (writeBackShared s)) := by
  simp [eagerRelease, drained, h, bind, Except.bind]

theorem eagerRelease_done {s : State} (h : storesOut (writeBackShared s) = false) : eagerRelease s = .ok (writeBackShared s) := by
  simp [eagerRelease, drained, h, bind, Except.bind, pure, Except.pure]

/-! ### Acquires and arrivals (R62, R210, R217, R305, R312) -/

/-- What an acquire leaves (R210). -/
theorem acquired_invalidateShared (s : State) : Say.Acquired (invalidateShared s) := by
  intro l hl hcls
  obtain ⟨y, -, rfl⟩ := List.mem_map.mp (List.mem_of_mem_filter hl)
  split
  · exact (BitVec.and_assoc ..).trans (by simp)
  · next h => exact absurd (by simp only [if_neg h] at hcls; exact hcls) h

@[simp] theorem modBankOf_chans (b : Bool) (f : Bank → Bank) (c : Core) : (c.modBankOf b f).chans = c.chans := by
  unfold Core.modBankOf; split <;> rfl
@[simp] theorem modBankOf_cx (b : Bool) (f : Bank → Bank) (c : Core) : (c.modBankOf b f).cx = c.cx := by
  unfold Core.modBankOf; split <;> rfl
@[simp] theorem modBankOf_l1 (b : Bool) (f : Bank → Bank) (c : Core) : (c.modBankOf b f).l1 = c.l1 := by
  unfold Core.modBankOf; split <;> rfl

@[simp] theorem modCx_core_chans (f : Ctx → Ctx) (s : State) : (modCx f s).core.chans = s.core.chans := rfl

theorem modChan_self (k : BitVec 3) (f : Chan → Chan) (c : Core) :
    (modChan k f c).chans[k.toNat]'k.isLt = f (c.chans[k.toNat]'k.isLt) := by
  simp [modChan]

theorem modChan_other {k j : BitVec 3} (h : j ≠ k) (f : Chan → Chan) (c : Core) :
    (modChan k f c).chans[j.toNat]'j.isLt = c.chans[j.toNat]'j.isLt := by
  have : k.toNat ≠ j.toNat := fun e => h (BitVec.eq_of_toNat_eq e.symm)
  simp [modChan, Vector.getElem_set_ne, this]

@[simp] theorem arrive_chans (k : BitVec 3) (flag : Bool) (tag : PhTag) (s : State) :
    (arrive k flag tag s).core.chans = (modChan k (fun x => { x with a := true }) s.core).chans := modBankOf_chans ..
@[simp] theorem arrive_cx (k : BitVec 3) (flag : Bool) (tag : PhTag) (s : State) : (arrive k flag tag s).core.cx = s.core.cx := modBankOf_cx ..
@[simp] theorem arrive_l1 (k : BitVec 3) (flag : Bool) (tag : PhTag) (s : State) : (arrive k flag tag s).core.l1 = s.core.l1 := modBankOf_l1 ..

/-- An arrival made after the write-back, with its mark set. -/
theorem arrived_arrive (k : BitVec 3) (flag : Bool) (tag : PhTag) (s : State) :
    Say.Arrived s (setMark (arrive k flag tag (writeBackShared s))) k flag tag := by
  obtain ⟨hmem, hdoms, hnum, hchans, hbound, hx, -⟩ := wroteBack_writeBackShared s
  refine ⟨?_, ?_, hmem, ?_, fun l hl => ?_, fun bd hbd d hd hchan hlaunch hin hleft => ?_⟩
  · simp [setMark, modChan_self]
  · simp [setMark, modChan_self, hchans]
  · simpa [setMark] using hx
  · exact writeBackShared_clean (by simpa [setMark] using hl)
  · refine List.mem_map.mpr ⟨d, hdoms ▸ hd, ?_⟩
    simp [boundLaunch, hbound, hbd, hnum, hchan, hlaunch, hin, hleft]

/-- The mark of an instruction that has arrived. -/
theorem marked_arrive (k : BitVec 3) (flag : Bool) (tag : PhTag) (s : State) :
    (setMark (arrive k flag tag (writeBackShared s))).core.cx.pc = s.core.cx.pc
      ∧ (setMark (arrive k flag tag (writeBackShared s))).core.cx.pc ∈ (setMark (arrive k flag tag (writeBackShared s))).core.cx.marks := by
  refine ⟨?_, List.mem_cons_self⟩
  simpa [setMark] using (wroteBack_writeBackShared s).pc

/-! ### Communication phases (R38, R62, R313) -/

theorem channelOk_iff (s : State) (k : BitVec 3) : channelOk s.core k = true ↔ Say.Member s k := by
  simp [channelOk, enOf, Say.Member]

theorem marked_iff (c : Ctx) : marked c = true ↔ c.pc ∈ c.marks := by simp [marked]

/-- A phase instruction on a channel that is not the bank's is illegal. -/
theorem phase_illegal_of_not_member {s : State} {k : BitVec 3} (h : ¬Say.Member s k) :
    Say.Illegal (.phcomm k) s ∧ Say.Illegal (.phcomp k) s := by
  rw [← channelOk_iff] at h
  constructor
  · simp [Say.Illegal, exec_phcomm, execPhcomm, phcommStep, h, orTrap, illegalT, Say.wordOf]
  · simp [Say.Illegal, exec_phcomp, execPhcomp, phcompStep, h, orTrap, illegalT, Say.wordOf]

/-- With its own mark, a phase instruction waits for the release, and then completes. -/
theorem exec_phase_marked {s : State} {k : BitVec 3} (h : Say.Member s k) (hm : s.core.cx.pc ∈ s.core.cx.marks) :
    ∀ i ∈ [Instr.phcomm k, .phcomp k],
      exec i s = .next (if arrivedAt s.core k then waitFor (.barrier k) s else finishPhase s) := by
  rw [← channelOk_iff] at h
  rw [← marked_iff] at hm
  simp only [List.mem_cons, List.not_mem_nil, or_false]
  rintro i (rfl | rfl)
  · cases ha : arrivedAt s.core k <;> simp [exec_phcomm, execPhcomm, phcommStep, h, hm, ha, orTrap]
  · cases ha : arrivedAt s.core k <;> simp [exec_phcomp, execPhcomp, phcompStep, h, hm, ha, orTrap]

theorem phcomm_illegal_of_phase {s : State} {k : BitVec 3} (h : Say.Member s k) (hm : s.core.cx.pc ∉ s.core.cx.marks) (hp : s.core.phase ≠ none) :
    Say.Illegal (.phcomm k) s := by
  rw [← channelOk_iff] at h
  rw [← marked_iff] at hm
  have hp : s.core.phase.isSome = true := Option.isSome_iff_ne_none.mpr hp
  simp [Say.Illegal, exec_phcomm, execPhcomm, phcommStep, h, hm, hp, orTrap, illegalT, Say.wordOf]

theorem phcomp_illegal_of_phase {s : State} {k : BitVec 3} (h : Say.Member s k) (hm : s.core.cx.pc ∉ s.core.cx.marks) (hp : s.core.phase ≠ some k) :
    Say.Illegal (.phcomp k) s := by
  rw [← channelOk_iff] at h
  rw [← marked_iff] at hm
  simp [Say.Illegal, exec_phcomp, execPhcomp, phcompStep, h, hm, hp, orTrap, illegalT, Say.wordOf]

/-- An opening arrival comes after an eager release (R217). -/
theorem exec_phcomm_unphased {s : State} {k : BitVec 3} (h : Say.Member s k) (hm : s.core.cx.pc ∉ s.core.cx.marks)
    (ha : (s.core.chans[k.toNat]'k.isLt).a = false) (hp : s.core.phase = none) :
    (storesOut (writeBackShared s) = true → exec (.phcomm k) s = .next (waitFor .stores (writeBackShared s)))
    ∧ (storesOut (writeBackShared s) = false →
        exec (.phcomm k) s = .next (waitFor (.barrier k) (setMark (arrive k false .opening (writeBackShared s))))) := by
  rw [← channelOk_iff] at h
  rw [← marked_iff] at hm
  rw [exec_phcomm]
  unfold execPhcomm phcommStep
  constructor <;> intro hs
  · simp [h, hm, arrivedAt, ha, hp, eagerRelease_waits hs, orTrap, bind, Except.bind]
  · simp [h, hm, arrivedAt, ha, hp, eagerRelease_done hs, orTrap, bind, Except.bind, throw, throwThe, MonadExceptOf.throw]

/-- A closing arrival comes after an eager release, once the core's own traffic is delivered (R62, R217). -/
theorem exec_phcomp_phased {s : State} {k : BitVec 3} (h : Say.Member s k) (hm : s.core.cx.pc ∉ s.core.cx.marks)
    (ha : (s.core.chans[k.toNat]'k.isLt).a = false) (hp : s.core.phase = some k) :
    (storesOut (writeBackShared s) = true → exec (.phcomp k) s = .next (waitFor .stores (writeBackShared s)))
    ∧ (storesOut (writeBackShared s) = false → delivered (writeBackShared s) (writeBackShared s).core.num = false →
        exec (.phcomp k) s = .next (waitFor (.delivery k) (writeBackShared s)))
    ∧ (storesOut (writeBackShared s) = false → delivered (writeBackShared s) (writeBackShared s).core.num = true →
        exec (.phcomp k) s = .next (waitFor (.barrier k) (setMark (arrive k false .closing (writeBackShared s))))) := by
  rw [← channelOk_iff] at h
  rw [← marked_iff] at hm
  rw [exec_phcomp]
  unfold execPhcomp phcompStep
  refine ⟨fun hs => ?_, fun hs hd => ?_, fun hs hd => ?_⟩
  · simp [h, hm, arrivedAt, ha, hp, eagerRelease_waits hs, orTrap, bind, Except.bind]
  all_goals
    simp [h, hm, arrivedAt, ha, hp, hd, eagerRelease_done hs, orTrap, bind, Except.bind, throw, throwThe, MonadExceptOf.throw]

/-! ### The top node (R38, R58, R313) -/

theorem allArrived_iff (d : Dom) :
    allArrived d = true ↔ d.arrived ≠ [] ∧ ∀ n ∈ d.members, n ∉ d.left → ∃ a ∈ d.arrived, a.1 = n := by
  simp [allArrived, imp_iff_not_or]

/-- The tag that a top node takes an episode for: that of the first arrival. -/
def firstTag (d : Dom) : PhTag := (d.arrived.head?.map fun a => a.2.2).getD .plain

theorem firstTag_of_all {d : Dom} {tag : PhTag} (hne : d.arrived ≠ []) (h : ∀ a ∈ d.arrived, a.2.2 = tag) : firstTag d = tag := by
  obtain ⟨a, as, harrived⟩ := List.exists_cons_of_ne_nil hne
  simpa [firstTag, harrived] using h a (harrived ▸ List.mem_cons_self)

theorem any_differs_iff (d : Dom) : (d.arrived.any fun a => a.2.2 != firstTag d) = true ↔ ∃ a ∈ d.arrived, ∃ b ∈ d.arrived, a.2.2 ≠ b.2.2 := by
  cases harrived : d.arrived with
  | nil => simp
  | cons c as =>
    have hfirst : firstTag d = c.2.2 := by simp [firstTag, harrived]
    rw [List.any_eq_true, hfirst]
    constructor
    · rintro ⟨a, ha, hne⟩
      exact ⟨a, ha, c, List.mem_cons_self, by simpa using hne⟩
    · rintro ⟨a, ha, b, hb, hne⟩
      by_cases h : a.2.2 = c.2.2
      · exact ⟨b, hb, by simpa [← h] using Ne.symm hne⟩
      · exact ⟨a, ha, by simpa using h⟩

section TopNode
variable {s : State} {d : Dom} (hfind : s.fab.doms.find? (fun e => e.id == d.id) = some d) (hall : allArrived d = true)
include hfind hall

theorem exec_barrierTopRelease_mixed (h : ∃ a ∈ d.arrived, ∃ b ∈ d.arrived, a.2.2 ≠ b.2.2) :
    exec (.barrierTopRelease d.id) s = .next (topViolation d s) := by
  have hdiffers := (any_differs_iff d).mpr h
  unfold firstTag at hdiffers
  simp [exec_barrierTopRelease, execBarrierTopRelease, hfind, hall, hdiffers]

/-- What a top node does once all have arrived with one tag. -/
theorem exec_barrierTopRelease_agreed {tag : PhTag} (h : ∀ a ∈ d.arrived, a.2.2 = tag) :
    exec (.barrierTopRelease d.id) s = .next (if tag = .plain then sendRelease d (d.arrived.any fun a => a.2.1) .plain s
      else if tag = .closing then heldHalts d (sendRelease d false .closing (modDom d.id (fun d => { d with phase := false }) s))
      else if d.stopNew then s
      else if !phaseCheck s d.members then topViolation d s
      else sendRelease d false .opening
        (modDom d.id (fun d => { d with phase := true, start := s.pkg.nclk + 16 }) (keepLeaving d (s.pkg.nclk + 16) s))) := by
  have htag := firstTag_of_all ((allArrived_iff d).mp hall).1 h
  have hsame : (d.arrived.any fun a => a.2.2 != firstTag d) = false :=
    Bool.eq_false_iff.mpr fun hdiffers => by
      obtain ⟨a, ha, b, hb, hne⟩ := (any_differs_iff d).mp hdiffers
      exact hne ((h a ha).trans (h b hb).symm)
  rw [htag] at hsame
  unfold firstTag at htag
  rw [exec_barrierTopRelease]
  unfold execBarrierTopRelease
  simp only [hfind, hall, htag, hsame, Bool.not_true, Bool.false_eq_true, if_false]
  cases tag
  · rfl
  · cases d.stopNew <;> cases phaseCheck s d.members <;> rfl
  · rfl

end TopNode

/-- A domain once the top node has released it. -/
def Dom.released (tag : PhTag) (nclk : Nat) (e : Dom) : Dom :=
  { e with
    arrived := []
    phase := if tag = .plain then e.phase else decide (tag = .opening)
    start := if tag = .opening then nclk + 16 else e.start }

theorem Dom.released_opening (nclk : Nat) (e : Dom) :
    e.released .opening nclk = { e with arrived := [], phase := true, start := nclk + 16 } := rfl
theorem Dom.released_closing (nclk : Nat) (e : Dom) : e.released .closing nclk = { e with arrived := [], phase := false } := rfl

@[simp] theorem modDom_mem (id : Nat) (f : Dom → Dom) (s : State) : (modDom id f s).mem = s.mem := rfl
@[simp] theorem modDom_core (id : Nat) (f : Dom → Dom) (s : State) : (modDom id f s).core = s.core := rfl
@[simp] theorem sendRelease_mem (d : Dom) (flag : Bool) (tag : PhTag) (s : State) : (sendRelease d flag tag s).mem = s.mem := rfl
@[simp] theorem sendRelease_core (d : Dom) (flag : Bool) (tag : PhTag) (s : State) : (sendRelease d flag tag s).core = s.core := rfl

theorem doms_sendRelease (d : Dom) (flag : Bool) (tag : PhTag) (s : State) :
    (sendRelease d flag tag s).fab.doms = s.fab.doms.map fun e => if e.id = d.id then { e with arrived := [] } else e := rfl

theorem doms_sendRelease_modDom {f : Dom → Dom} {tag : PhTag} {nclk : Nat} (hid : ∀ e, (f e).id = e.id)
    (hf : ∀ e, { f e with arrived := [] } = e.released tag nclk) (d : Dom) (flag : Bool) (s : State) :
    (sendRelease d flag tag (modDom d.id f s)).fab.doms = s.fab.doms.map fun e => if e.id = d.id then e.released tag nclk else e := by
  rw [doms_sendRelease, modDom, modFab_fab, List.map_map]
  refine List.map_congr_left fun e _ => ?_
  by_cases he : e.id = d.id
  · rw [Function.comp_apply, if_pos he, if_pos he, if_pos ((hid e).trans he), hf]
  · simp [he]

theorem heldHalts_none {d : Dom} (h : d.heldHalt = false) (s : State) : heldHalts d s = s := if_neg (by simp [h])

theorem mem_releases_sendRelease {d : Dom} {n : Nat} (hn : n ∈ d.members) (hleft : n ∉ d.left) (flag : Bool) (tag : PhTag) (s : State) :
    ⟨n, d.chan, flag, tag⟩ ∈ (sendRelease d flag tag s).fab.releases :=
  List.mem_append_right _ (List.mem_map.mpr ⟨n, List.mem_filter.mpr ⟨hn, by simpa using hleft⟩, rfl⟩)

/-- Regions that stay in a group a phase of which opens are all that this changes of the fabric (R35). -/
theorem keepLeaving_frame (d : Dom) (start : Nat) (s : State) : (keepLeaving d start s).mem = s.mem ∧ (keepLeaving d start s).core = s.core
    ∧ (keepLeaving d start s).fab.doms = s.fab.doms := by
  unfold keepLeaving
  split <;> exact ⟨rfl, rfl, rfl⟩

theorem decide_plain_and {tag : PhTag} (h : tag ≠ .plain) (p : Prop) [Decidable p] : decide (tag = .plain ∧ p) = false :=
  decide_eq_false fun hp => h hp.1

/-- The release of a domain: what becomes of the domains, who is sent it, and what stays. -/
theorem releases_of_agreed {s : State} {d : Dom} {tag : PhTag} (hfind : s.fab.doms.find? (fun e => e.id == d.id) = some d)
    (hall : allArrived d = true) (h : ∀ a ∈ d.arrived, a.2.2 = tag)
    (hmay : tag = .plain ∨ (tag = .opening ∧ d.stopNew = false ∧ phaseCheck s d.members = true) ∨ (tag = .closing ∧ d.heldHalt = false)) :
    ∃ t, exec (.barrierTopRelease d.id) s = .next t
      ∧ t.fab.doms = s.fab.doms.map (fun e => if e.id = d.id then e.released tag s.pkg.nclk else e)
      ∧ (∀ n ∈ d.members, n ∉ d.left → ⟨n, d.chan, decide (tag = .plain ∧ ∃ a ∈ d.arrived, a.2.1 = true), tag⟩ ∈ t.fab.releases)
      ∧ t.mem = s.mem ∧ t.core = s.core := by
  have hexec := exec_barrierTopRelease_agreed hfind hall h
  rcases hmay with rfl | ⟨rfl, hnew, hcheck⟩ | ⟨rfl, hheld⟩
  · rw [if_pos rfl] at hexec
    have hflag : (d.arrived.any fun a => a.2.1) = decide (PhTag.plain = .plain ∧ ∃ a ∈ d.arrived, a.2.1 = true) := by
      simp only [true_and, ← List.any_eq_true, Bool.decide_eq_true]
    exact ⟨_, hexec, rfl, fun n hn hleft => hflag ▸ mem_releases_sendRelease hn hleft .., rfl, rfl⟩
  · rw [if_neg (by decide), if_neg (by decide), if_neg (by simp [hnew]), if_neg (by simp [hcheck])] at hexec
    obtain ⟨hmem, hcore, hdoms⟩ := keepLeaving_frame d (s.pkg.nclk + 16) s
    refine ⟨_, hexec, ?_, fun n hn hleft => ?_, by simp [hmem], by simp [hcore]⟩
    · rw [doms_sendRelease_modDom (f := fun e => { e with phase := true, start := s.pkg.nclk + 16 }) (fun _ => rfl)
        fun e => (Dom.released_opening s.pkg.nclk e).symm, hdoms]
    · rw [decide_plain_and (by decide)]
      exact mem_releases_sendRelease hn hleft ..
  · rw [if_neg (by decide), if_pos rfl, heldHalts_none hheld] at hexec
    refine ⟨_, hexec, ?_, fun n hn hleft => ?_, rfl, rfl⟩
    · exact doms_sendRelease_modDom (f := fun e => { e with phase := false }) (fun _ => rfl)
        (fun e => (Dom.released_closing s.pkg.nclk e).symm) d false s
    · rw [decide_plain_and (by decide)]
      exact mem_releases_sendRelease hn hleft ..

@[simp] theorem modCoreAt_fab (n : Nat) (f : Core → Core) (s : State) : (modCoreAt n f s).fab = s.fab := by
  unfold modCoreAt; split <;> rfl

theorem foldl_modCoreAt_fab (f : Core → Core) : ∀ (ns : List Nat) (s : State), (ns.foldl (fun s n => modCoreAt n f s) s).fab = s.fab
  | [], _ => rfl
  | n :: ns, s => (foldl_modCoreAt_fab f ns _).trans (modCoreAt_fab n f s)

/-- A violation found at a top node sends no release. -/
theorem topViolation_releases (d : Dom) (s : State) : (topViolation d s).fab.releases = s.fab.releases := by
  simp [topViolation, notifyRoot, modDom, foldl_modCoreAt_fab]

/-- A violation found at a top node halts the launch for good (R41). -/
theorem haltsForGood_topViolation (d : Dom) (s : State) : HaltsForGood d.launch (topViolation d s) :=
  haltsForGood_notifyRoot_self d.launch _ _ _

/-! ### A release at a core (R62, R312, R313) -/

/-- The core that a release has reached, before the contexts that wait for it go on. -/
def Core.released (r : Release) (c : Core) : Core :=
  { modChan r.chan (fun x => { x with f := r.flag, a := false, parity := !x.parity }) c with
    phase := match r.tag with
      | .plain => c.phase
      | .opening => some r.chan
      | .closing => none }

theorem released_chan_self (r : Release) (c : Core) : (c.released r).chans[r.chan.toNat]'r.chan.isLt
    = { c.chans[r.chan.toNat]'r.chan.isLt with f := r.flag, a := false, parity := !(c.chans[r.chan.toNat]'r.chan.isLt).parity } :=
  modChan_self r.chan (fun x => { x with f := r.flag, a := false, parity := !x.parity }) c

theorem released_chan_other {r : Release} {k : BitVec 3} (h : k ≠ r.chan) (c : Core) :
    (c.released r).chans[k.toNat]'k.isLt = c.chans[k.toNat]'k.isLt :=
  modChan_other h (fun x => { x with f := r.flag, a := false, parity := !x.parity }) c

theorem exec_barrierReleaseArrive_enabled {s : State} {r : Release}
    (hfind : s.fab.releases.find? (fun q => q.core == s.core.num && q.chan == r.chan) = some r) (hen : enOf s.core r.chan = true) :
    exec (.barrierReleaseArrive r.chan) s = .next (wake (fun _ _ w => w == .barrier r.chan)
      (modCore (Core.released r) (modFab (fun f => { f with releases := f.releases.erase r }) s))) := by
  rw [exec_barrierReleaseArrive]
  unfold execBarrierReleaseArrive
  simp only [hfind]
  exact if_neg (by simp [hen])

theorem Ctx.with_st_self {x : Ctx} {st : CtxSt} (h : x.st = st) : { x with st := st } = x := by
  subst h; rfl

/-- The end of a wait makes the current context ready where that is what it waits for, and changes nothing else of it. -/
theorem wakeCore_cx (v : Wait) (c : Core) :
    (wakeCore (fun _ _ w => w == v) c).cx = { c.cx with st := if c.cx.st = .waiting v then .ready else c.cx.st } := by
  unfold wakeCore Core.mapCtxs
  cases hst : c.cx.st with
  | free => simp [hst, Ctx.with_st_self hst]
  | ready => simp [hst, Ctx.with_st_self hst]
  | waiting w => by_cases hw : w = v <;> simp [hst, hw, Ctx.with_st_self hst]

end Sys2Proof.Machine
end

section
/-! PROOFS. Communication phases and barrier releases, the timed fabric, and the region clocks. -/

namespace Sys2Proof.Proofs
open Sys2Proof Sys2Proof.Machine

/-! ### Phases and releases (R38, R58, R62, R312, R313) -/

/-- PHCOMM and PHCOMP (R38, R62, R313): the mark, the phase and A decide which branch is taken, and an arrival follows the eager release. -/
theorem communicationPhases : Say.CommunicationPhases := by
  intro c s ch mark e
  refine ⟨phase_illegal_of_not_member, phcomm_illegal_of_phase, phcomp_illegal_of_phase, ?waits, ?stores, ?opens, ?closes, ?traffic, ?completes⟩
  case waits =>
    intro h hm ha
    have hexec := exec_phase_marked h hm
    rw [show arrivedAt s.core c = true from ha, if_pos rfl] at hexec
    exact ⟨hexec _ (by simp), hexec _ (by simp)⟩
  case stores =>
    exact fun h hm ha hs => ⟨fun hp => (exec_phcomm_unphased h hm ha hp).1 hs, fun hp => (exec_phcomp_phased h hm ha hp).1 hs⟩
  case opens =>
    exact fun h hm ha hp hs =>
      ⟨_, (exec_phcomm_unphased h hm ha hp).2 hs, arrived_arrive c false .opening s, marked_arrive c false .opening s⟩
  case closes =>
    exact fun h hm ha hp hs hd =>
      ⟨_, (exec_phcomp_phased h hm ha hp).2.2 hs hd, arrived_arrive c false .closing s, marked_arrive c false .closing s⟩
  case traffic =>
    exact fun h hm ha hp hs hd => (exec_phcomp_phased h hm ha hp).2.1 hs hd
  case completes =>
    intro h hm ha i hi
    refine ⟨finishPhase s, ?_, acquired_invalidateShared (clearMark s), rfl, rfl, rfl, fun p => by simp [finishPhase, invalidateShared, clearMark]⟩
    rw [exec_phase_marked h hm i hi, if_neg (by simp [show arrivedAt s.core c = false from ha])]

/-- The release of a domain at its top node, and its arrival at a core (R38, R58, R62, R312, R313). -/
theorem barrierReleases : Say.BarrierReleases := by
  intro s d tag r
  refine ⟨fun hfind hmembers hne => ?top, fun hfind hen => ?core⟩
  case top =>
    have hall : allArrived d = true := (allArrived_iff d).mpr ⟨hne, hmembers⟩
    refine ⟨fun hsame hmay => ?_, fun hbad => ⟨topViolation d s, ?_, topViolation_releases d s, haltsForGood_topViolation d s⟩⟩
    · exact releases_of_agreed hfind hall hsame hmay
    · rcases hbad with hmixed | ⟨hopening, hnew, hcheck⟩
      · exact exec_barrierTopRelease_mixed hfind hall hmixed
      · rw [exec_barrierTopRelease_agreed hfind hall hopening]
        simp [hnew, hcheck]
  case core =>
    refine ⟨_, exec_barrierReleaseArrive_enabled hfind hen, rfl, rfl, ?_, fun k hk => ?_, ?_, wakeCore_cx ..⟩
    · exact released_chan_self r s.core
    · exact released_chan_other hk s.core
    · cases hr : r.tag <;> simp [wake, wakeCore, Core.mapCtxs, Core.released, hr]

/-- Settles O29: communication phases, and the releases of barriers. -/
theorem phasesAndBarrierReleases : Obligations.PhasesAndBarrierReleases := ⟨communicationPhases, barrierReleases⟩

/-! ### Region clocks (R33 to R35) -/

/-- Settles O46: each event is an update of one region or of the joined members of its group, and what it makes of a region, made twice, is
the same. -/
theorem regionClocks : Obligations.RegionClocks := by
  intro g mhz grp s r group new wants deferred busy goes starts
  have hheld : governorHeld s r = true ↔ ¬wants ∨ deferred ∨ busy := governorHeld_iff s r
  have hfree : wants → ¬deferred → ¬busy → governorHeld s r = false := fun hw hd hb =>
    Bool.eq_false_iff.mpr fun h => (hheld.mp h).elim (· hw) (·.elim hd hb)
  refine ⟨?target, exec_rclkJoin_same, fun h => regions_modRclk (exec_rclkJoin_other h), exec_rclkLeave_none,
    fun h => regions_modRclk (exec_rclkLeave_some h), fun h => exec_governorChange_held (hheld.mpr h), ?join, ?alone, ?together,
    exec_relockEnd_notDue, ?endAlone, ?endJoin, ?endTogether⟩
  case target =>
    cases hj : r.joined
    · exact regions_congr (regions_modRclk (exec_rclkTargetWrite_alone mhz hj)) (by simp) fun _ _ => rfl
    · exact regions_congr (regions_foldl (exec_rclkTargetWrite_joined mhz hj) fun _ _ => rfl) (by simp [group, r]) fun _ _ => rfl
  case join =>
    intro hd hb hj
    obtain ⟨hstays, hstarts⟩ := exec_governorChange_join (hfree (.inl hj) hd hb) hj
    exact ⟨hstays, fun hs => regions_modRclk (hstarts hs)⟩
  case alone =>
    intro hd hb hj ht halone
    obtain ⟨hstays, hstarts⟩ := exec_governorChange_target (hfree (.inr ht) hd hb) hj (if_neg (Bool.eq_false_iff.mp halone)).symm
    rw [List.forall_mem_singleton] at hstays hstarts
    exact ⟨hstays, fun hs => regions_modRclk (hstarts hs)⟩
  case together =>
    intro hd hb hj ht hjoined
    obtain ⟨hstays, hstarts⟩ := exec_governorChange_target (gs := group) (hfree (.inr ht) hd hb) hj (if_pos hjoined).symm
    exact ⟨fun ⟨m, hm, hs⟩ => hstays fun hall => hs (hall m hm), fun hs => regions_foldl (hstarts hs) fun _ _ => rfl⟩
  case endAlone =>
    intro hr ht halone hin
    have h := exec_relockEnd_due hr ht (if_neg (Bool.eq_false_iff.mp halone)).symm
    exact regions_congr (regions_modRclk h) (fun _ => Iff.rfl) fun x hx => hx ▸ (Rclk.finish_of_not_inJoin s hin).symm
  case endJoin =>
    intro hr ht halone hin
    have h := exec_relockEnd_due hr ht (if_neg (Bool.eq_false_iff.mp halone)).symm
    exact regions_congr (regions_modRclk h) (fun _ => Iff.rfl) fun x hx => hx ▸ (Rclk.finish_of_inJoin s hin).symm
  case endTogether =>
    intro hr ht hjoined hmembers
    have h := exec_relockEnd_due hr ht (if_pos hjoined).symm
    exact regions_congr (regions_foldl h fun x _ => Rclk.finish_finish s (rclkOf s x)) (by simp [group, r]) fun x hx =>
      (Rclk.finish_of_not_inJoin s (hmembers x hx.1).1).symm

/-! ### The timed fabric (R39 to R41, R257) -/

/-- A byte of memory after a move. -/
def byteAfter (i : Instr) (s : State) (a : Nat) : Option Byte :=
  match exec i s with
  | .next t => some (memGet t.mem a)
  | _ => none

theorem byteAfter_of_next {i : Instr} {s t : State} (h : exec i s = .next t) (a : Nat) : byteAfter i s a = some (memGet t.mem a) := by
  unfold byteAfter
  rw [h]

/-- Launch 1 on core 0, with a halt area that begins 38 bytes below a line, so that the core's halt record straddles two lines. -/
def straddlingBound : Bound :=
  { launch := 1, stage := 0, index := 0, count := 1, lid := 0, const := 0, entry := 0, group := none, prio := 0, helpers := 0, chan := none
    haltVa := 0, haltPa := 2 ^ 22 - 38, left := false }

/-- A beat of the launch for the low half of receive entry 2 of core 0. -/
def straddlingBeat : BeatMsg := { launch := 1, core := 0, src := 1, beat := 0, entry := 2, hi := false, data := 0, lands := 0 }

/-- A write held at the record's second line until die 0 gives up its replica. -/
def heldAtSecondLine : HeldWrite := { core := 0, line := 2 ^ 15, data := 0, mask := 1, how := Placing.dflt, wait := [0], who := none }

/-- A later write of byte 120 of the record's first line, which is byte 30 of the record. Both lines have one home slice, where it stands
behind the other write (R24, R208). -/
def heldAtFirstLine : HeldWrite := { core := 0, line := 2 ^ 15 - 1, data := 0, mask := 1#128 <<< 120, how := Placing.dflt, wait := [], who := none }

/-- The beat finds the half unread, while the two writes are held. -/
def straddling : State :=
  { modCore (fun c => { setRecv 2 ⟨0, true, false⟩ c with bank := { c.bank with bound := some straddlingBound } }) State.reset with
    fab := { Fab.reset with beats := [straddlingBeat] }
    ms := { MemSys.reset with heldW := [heldAtSecondLine, heldAtFirstLine] } }

/-- The record's first line takes CAUSE; then the replica of the second line goes, the held writes follow, and byte 30 is 0 again. -/
theorem straddling_cause : byteAfter .beatArrive straddling (straddlingBound.haltPa + 64 * straddling.core.num + 30) = some 0 := by decide +kernel

/-- Refutes O45: a halt record that straddles two lines is written line by line, each once the replicas of that line are gone (R154, R257). A
write to the first line that is held behind one to the second, at their one home slice, performs between the two and overwrites what the record
has in the first line; in `straddling` that is its CAUSE. The halt areas that launches are given begin at multiples of 2 MiB (`areaOk`), so that no
record of theirs straddles a line; the statement does not ask this of `haltPa`. -/
theorem not_timedFabric : ¬Obligations.TimedFabric := by
  intro h
  obtain ⟨-, -, -, -, -, -, -, -, hbeat⟩ := h 0 0 0 straddling straddlingBeat
  obtain ⟨-, hunread, -⟩ := hbeat rfl (by decide)
  obtain ⟨t, ht, -, -, hstop, -⟩ := hunread false straddlingBound (Nat.le_refl 0) rfl rfl rfl (fun x hx => by cases hx) rfl rfl rfl
  obtain ⟨-, hrecord⟩ := hstop rfl
  obtain ⟨hcause, -⟩ := hrecord fun i _ hsl => absurd hsl (by decide)
  have hzero := (byteAfter_of_next ht _).symm.trans straddling_cause
  rw [hcause] at hzero
  exact absurd hzero (by decide)

end Sys2Proof.Proofs
end

section
/-! SUPPORT. The barrier instructions on a channel (R59, R62, R217, R305, R311, R312). -/

namespace Sys2Proof.Machine

@[simp] theorem readX_invalidateShared (s : State) (r : RegNo) : readX (invalidateShared s) r = readX s r := rfl
@[simp] theorem readX_clearMark (s : State) (r : RegNo) : readX (clearMark s) r = readX s r := rfl

/-- Writing an x register changes no other part of the context. -/
@[simp] theorem writeX_cx_pc (r : RegNo) (v : Word) (s : State) : (writeX r v s).core.cx.pc = s.core.cx.pc := by
  rw [writeX_frame]; rfl
@[simp] theorem writeX_cx_marks (r : RegNo) (v : Word) (s : State) : (writeX r v s).core.cx.marks = s.core.cx.marks := by
  rw [writeX_frame]; rfl
@[simp] theorem writeX_mem (r : RegNo) (v : Word) (s : State) : (writeX r v s).mem = s.mem := by
  rw [writeX_frame]; rfl
@[simp] theorem writeX_core_l1 (r : RegNo) (v : Word) (s : State) : (writeX r v s).core.l1 = s.core.l1 := by
  rw [writeX_frame]; rfl

/-- An acquire changes nothing of the context that retires with a write of an x register. -/
theorem adv_writeX_invalidateShared_cx (r : RegNo) (v : Word) (s : State) :
    (adv (writeX r v (invalidateShared s))).core.cx = (adv (writeX r v s)).core.cx := by
  simp only [adv, writeX]
  split <;> rfl

theorem readX_congr {s t : State} (h : t.core.cx.x = s.core.cx.x) (r : RegNo) : readX t r = readX s r := by
  unfold readX; rw [h]

/-- A retired write of one x register. -/
theorem setsX_adv_writeX (rd : RegNo) (v : Word) (s : State) : Say.SetsX rd v s (adv (writeX rd v s)) := by
  refine ⟨⟨?_, fun r hr => ?_, fun a => by simp⟩, ?_⟩
  · rw [adv_cx_x, ← writeX_frame]
  · rw [readX_adv, readX_writeX_other hr]
  · rw [readX_adv, readX_writeX_self]

/-! ### A channel that is not the bank's, and one where A is set (R62, R311, R312) -/

theorem barrier_illegal_of_not_member {s : State} {k : BitVec 3} (h : ¬Say.Member s k) (rs1 rd : RegNo) :
    Say.Illegal (.barr k rs1) s ∧ Say.Illegal (.bwait k rd) s ∧ Say.Illegal (.btest k rd) s ∧ Say.Illegal (.barw k rs1 rd) s := by
  rw [← channelOk_iff] at h
  refine ⟨?barr, ?bwait, ?btest, ?barw⟩
  case barr => simp [Say.Illegal, exec_barr, execBarr, barrStep, h, orTrap, illegalT, Say.wordOf]
  case bwait => simp [Say.Illegal, exec_bwait, execBwait, bwaitStep, h, orTrap, illegalT, Say.wordOf]
  case btest => simp [Say.Illegal, exec_btest, execBtest, btestStep, h, orTrap, illegalT, Say.wordOf]
  case barw => simp [Say.Illegal, exec_barw, execBarw, barwStep, h, orTrap, illegalT, Say.wordOf]

section Channel
variable {s : State} {k : BitVec 3} (h : Say.Member s k)
include h

/-- While A is set the instructions wait for the release, but for BTEST. -/
theorem exec_barrier_pending (ha : arrivedAt s.core k = true) (rs1 rd : RegNo) :
    exec (.barr k rs1) s = .next (waitFor (.barrier k) s) ∧ exec (.bwait k rd) s = .next (waitFor (.barrier k) s)
      ∧ exec (.barw k rs1 rd) s = .next (waitFor (.barrier k) s) ∧ exec (.btest k rd) s = .next (adv (writeX rd 0 s)) := by
  rw [← channelOk_iff] at h
  refine ⟨?barr, ?bwait, ?barw, ?btest⟩
  case barr => simp [exec_barr, execBarr, barrStep, h, ha, orTrap]
  case bwait => simp [exec_bwait, execBwait, bwaitStep, h, ha, orTrap]
  case barw => simp [exec_barw, execBarw, barwStep, h, ha, orTrap]
  case btest => simp [exec_btest, execBtest, btestStep, h, ha, orTrap]

/-! ### A is clear -/

variable (ha : arrivedAt s.core k = false)
include ha

theorem exec_bwait_clear (rd : RegNo) : exec (.bwait k rd) s = .next (finishBarrier k rd s) := by
  rw [← channelOk_iff] at h
  simp [exec_bwait, execBwait, bwaitStep, h, ha, orTrap]

theorem exec_btest_clear (rd : RegNo) :
    exec (.btest k rd) s = .next (adv (writeX rd (if flagAt s.core k then 3 else 1) (invalidateShared s))) := by
  rw [← channelOk_iff] at h
  simp [exec_btest, execBtest, btestStep, h, ha, orTrap]

/-- BARR arrives after an eager release (R217). -/
theorem exec_barr_clear (rs1 : RegNo) :
    (storesOut (writeBackShared s) = true → exec (.barr k rs1) s = .next (waitFor .stores (writeBackShared s)))
    ∧ (storesOut (writeBackShared s) = false →
        exec (.barr k rs1) s = .next (adv (arrive k ((readX s rs1).getLsbD 0) .plain (writeBackShared s)))) := by
  have hx : readX (writeBackShared s) rs1 = readX s rs1 := readX_congr (wroteBack_writeBackShared s).x rs1
  rw [← channelOk_iff] at h
  rw [exec_barr]
  unfold execBarr barrStep
  constructor <;> intro hs
  · simp [h, ha, eagerRelease_waits hs, orTrap, bind, Except.bind]
  · simp [h, ha, eagerRelease_done hs, hx, orTrap, bind, Except.bind, pure, Except.pure]

/-- BARW without its mark arrives as BARR does, takes the mark and waits (R305). -/
theorem exec_barw_unmarked (hm : s.core.cx.pc ∉ s.core.cx.marks) (rs1 rd : RegNo) :
    (storesOut (writeBackShared s) = true → exec (.barw k rs1 rd) s = .next (waitFor .stores (writeBackShared s)))
    ∧ (storesOut (writeBackShared s) = false → exec (.barw k rs1 rd) s
        = .next (waitFor (.barrier k) (setMark (arrive k ((readX s rs1).getLsbD 0) .plain (writeBackShared s))))) := by
  have hx : readX (writeBackShared s) rs1 = readX s rs1 := readX_congr (wroteBack_writeBackShared s).x rs1
  rw [← channelOk_iff] at h
  rw [← marked_iff] at hm
  rw [exec_barw]
  unfold execBarw barwStep
  constructor <;> intro hs
  · simp [h, hm, ha, eagerRelease_waits hs, orTrap, bind, Except.bind]
  · simp [h, hm, ha, eagerRelease_done hs, hx, orTrap, bind, Except.bind, throw, throwThe, MonadExceptOf.throw]

/-- BARW with its mark completes as BWAIT does (R305). -/
theorem exec_barw_marked (hm : s.core.cx.pc ∈ s.core.cx.marks) (rs1 rd : RegNo) :
    exec (.barw k rs1 rd) s = .next (finishBarrier k rd (clearMark s)) := by
  rw [← channelOk_iff] at h
  rw [← marked_iff] at hm
  simp [exec_barw, execBarw, barwStep, h, hm, ha, orTrap]

end Channel

/-- A retired write of an x register after an acquire leaves what the acquire left (R210). -/
theorem acquired_adv_writeX (rd : RegNo) (v : Word) (s : State) : Say.Acquired (adv (writeX rd v (invalidateShared s))) := by
  intro l hl
  rw [adv_core_l1, writeX_core_l1] at hl
  exact acquired_invalidateShared s l hl

/-- An arrival made after the write-back that retires its instruction. -/
theorem arrived_adv_arrive (k : BitVec 3) (flag : Bool) (tag : PhTag) (s : State) :
    Say.Arrived s (adv (arrive k flag tag (writeBackShared s))) k flag tag := arrived_arrive k flag tag s

end Sys2Proof.Machine
end

section
/-! PROOFS. The barrier instructions. -/

namespace Sys2Proof.Proofs
open Sys2Proof Sys2Proof.Machine

/-- Settles O27: A and the mark decide which branch a barrier instruction takes; an arrival follows the eager release, and a completed
episode is an acquire and one write of rd. -/
theorem barriers : Obligations.Barriers := by
  intro c rs1 rd s ch f mark e
  refine ⟨fun h => barrier_illegal_of_not_member h rs1 rd, fun h ha => ?pending, fun h ha => ⟨fun hs => ?stores, fun hs => ?barr, ?bwait, ?btest,
    fun hm hs => ?arrives, fun hm => ?completes⟩⟩
  case pending =>
    obtain ⟨hbarr, hbwait, hbarw, hbtest⟩ := exec_barrier_pending h ha rs1 rd
    exact ⟨hbarr, hbwait, hbarw, _, hbtest, setsX_adv_writeX rd 0 s⟩
  case stores => exact ⟨(exec_barr_clear h ha rs1).1 hs, fun hm => (exec_barw_unmarked h ha hm rs1 rd).1 hs⟩
  case barr =>
    refine ⟨_, (exec_barr_clear h ha rs1).2 hs, arrived_adv_arrive .., ?_⟩
    rw [adv_cx_pc, arrive_cx, (wroteBack_writeBackShared s).pc]
  case bwait =>
    exact ⟨_, exec_bwait_clear h ha rd, acquired_adv_writeX rd _ s, adv_writeX_invalidateShared_cx rd _ s, by simp [finishBarrier, invalidateShared]⟩
  case btest =>
    have hvalue : (if flagAt s.core c then 3 else 1 : Word) = 1 + 2 * f := by
      show _ = 1 + 2 * (if flagAt s.core c then 1 else 0 : Word)
      split <;> rfl
    exact ⟨_, hvalue ▸ exec_btest_clear h ha rd, acquired_adv_writeX rd _ s, adv_writeX_invalidateShared_cx rd _ s, by simp [invalidateShared]⟩
  case arrives =>
    exact ⟨_, (exec_barw_unmarked h ha hm rs1 rd).2 hs, arrived_arrive .., marked_arrive ..⟩
  case completes =>
    refine ⟨_, exec_barw_marked h ha hm rs1 rd, acquired_adv_writeX rd _ (clearMark s), ?_, ?_, fun r hr => ?_, ?_, fun p => ?_⟩
    · simp [finishBarrier, invalidateShared, clearMark]
    · simp [finishBarrier, invalidateShared, clearMark]
    · rw [finishBarrier, readX_adv, readX_writeX_other hr, readX_invalidateShared, readX_clearMark]
    · rw [finishBarrier, readX_adv, readX_writeX_self]; rfl
    · simp [finishBarrier, invalidateShared, clearMark]

end Sys2Proof.Proofs
end

section
/-! PROOFS. Offer steering. -/

namespace Sys2Proof.Proofs
open Sys2Proof Sys2Proof.Machine

/-- The totals under way after a move. -/
def updatesAfter (i : Instr) (s : State) : Option (List Update) :=
  match exec i s with
  | .next t => some t.fab.updates
  | _ => none

theorem updatesAfter_of_next {i : Instr} {s t : State} (h : exec i s = .next t) : updatesAfter i s = some t.fab.updates := by
  unfold updatesAfter
  rw [h]

/-- Group 5 over the whole package: its root is the one node of level 7 (R43). -/
def packageGroup : Group :=
  { num := 5, level := 7, root := ⟨7, twigAt 47 31⟩, launch := 1, stage := 0, part := 1, members := [0], slice := 0, home := 0, size := 0
    sent := 0, taken := 0, head := 0, tail := 0, bounces := 0, resends := 0, dropped := 0, ring := [], waiting := [] }

/-- A message to the group. -/
def packageMsg : Msg := { payload := 0, group := 5, sender := 0, seq := 0, bounce := 0, ord := false, rel := false }

/-- A second id of level 7, at twig (32, 0), which is no node of the trees. -/
def strayNode : NodeId := ⟨7, 32⟩

/-- A total of 1 from its child 0. -/
def strayUpdate : Update := ⟨strayNode, 5, 0, 1⟩

/-- The total is under way to it. -/
def straying : State := { State.reset with fab := { Fab.reset with groups := [packageGroup], updates := [strayUpdate] } }

/-- The model numbers the id as a child of a node of level 8, though its parent is the node of level 7. -/
theorem straying_updates : updatesAfter (.readinessUpdate strayNode) straying = some [⟨parentOf strayNode, 5, 0, 1⟩] := by decide +kernel

/-- Refutes O41: the statement numbers a node among its parent's children by the parent's level, the model by the node's own level + 1. The two
are one at every node below the root of a tree; but the statement asks nothing of `id`, and for an id of level 7 that is not the top node (R43
knows no such node) `parentOf` is the top node itself, of level 7: its child extent that holds twig (32, 0) is number 1, and the model's total
names number 0. -/
theorem not_offerSteering : ¬Obligations.OfferSteering := by
  intro h
  obtain ⟨-, -, -, -, -, hupdate, -⟩ := h straying strayNode packageGroup packageMsg false [] rfl
  obtain ⟨t, ht, -, -, -, hupdates⟩ := hupdate strayUpdate rfl rfl (by decide) (by decide)
  have hmodel := (updatesAfter_of_next ht).symm.trans straying_updates
  rw [hupdates] at hmodel
  exact absurd hmodel (by decide +kernel)

end Sys2Proof.Proofs
end

section
/-! SUPPORT. Lists, cores, nodes and groups of the offer trees (R43, R44, R46, R48, R54). -/

namespace Sys2Proof.Machine

/-! ### The first element that a search picks -/

theorem find?_first {α : Type} {p : α → Bool} {a : α} {before rest : List α} (hbefore : ∀ x ∈ before, p x = false) (ha : p a = true) :
    (before ++ a :: rest).find? p = some a := by
  rw [List.find?_append, List.find?_eq_none.mpr fun x hx => by simp [hbefore x hx], List.find?_cons_of_pos ha, Option.none_or]

theorem erase_first {α : Type} [BEq α] [LawfulBEq α] {a : α} {before rest : List α} (h : a ∉ before) :
    (before ++ a :: rest).erase a = before ++ rest := by
  rw [List.erase_append_right _ h, List.erase_cons_head]

/-! ### A change of one core -/

theorem modCoreAt_self (f : Core → Core) (s : State) : modCoreAt s.core.num f s = modCore f s := if_pos rfl

theorem modCoreAt_core (n : Nat) (f : Core → Core) (s : State) :
    (modCoreAt n f s).core = if s.core.num = n then f s.core else s.core := by
  unfold modCoreAt; split <;> rfl

@[simp] theorem modCoreAt_mem (n : Nat) (f : Core → Core) (s : State) : (modCoreAt n f s).mem = s.mem := by
  unfold modCoreAt; split <;> rfl

/-- What a change of a core keeps of every core it keeps of the core whose turn it is. -/
theorem modCoreAt_keeps {α : Type} (part : Core → α) {f : Core → Core} (h : ∀ c, part (f c) = part c) (n : Nat) (s : State) :
    part (modCoreAt n f s).core = part s.core := by
  rw [modCoreAt_core]
  split
  · exact h s.core
  · rfl

theorem getCore_self (s : State) : getCore s s.core.num = s.core := if_pos rfl

@[simp] theorem wakeStores_fab (n : Nat) (s : State) : (wakeStores n s).fab = s.fab := modCoreAt_fab ..
@[simp] theorem wakeStores_mem (n : Nat) (s : State) : (wakeStores n s).mem = s.mem := modCoreAt_mem ..
@[simp] theorem recvAtBank_fab (n : Nat) (b : Bool) (s : State) : (recvAtBank n b s).fab = s.fab := modCoreAt_fab ..
@[simp] theorem recvAtBank_mem (n : Nat) (b : Bool) (s : State) : (recvAtBank n b s).mem = s.mem := modCoreAt_mem ..

/-- A context that is ready stays so when waits end. -/
theorem wakeCore_ready {c : Core} (p : Bool → Nat → Wait → Bool) (h : c.cx.st = .ready) : (wakeCore p c).cx.st = .ready := by
  simp [wakeCore, Core.mapCtxs, h]

/-- A wait that is picked ends. -/
theorem wakeCore_waiting {c : Core} {w : Wait} {p : Bool → Nat → Wait → Bool} (h : c.cx.st = .waiting w) (hp : p c.bank.num c.cx.id w = true) :
    (wakeCore p c).cx.st = .ready := by
  simp [wakeCore, Core.mapCtxs, h, hp]

/-! ### Readiness and the tracker (R46, R54) -/

theorem readinessOf_setReadyOf_self (g v : Nat) (c : Core) : readinessOf (setReadyOf g v c) g = v := by
  unfold readinessOf setReadyOf
  by_cases hv : v = 0
  · have hnone : (c.ready.filter fun x => x.1 != g).find? (fun x => x.1 == g) = none := by simp
    simp [hv, hnone]
  · simp [hv]

theorem readinessOf_congr {c d : Core} (h : d.ready = c.ready) (g : Nat) : readinessOf d g = readinessOf c g := by
  unfold readinessOf; rw [h]

theorem tracked_setTracked_self (g : Nat) (l : List (BitVec 16)) (c : Core) : tracked (setTracked g l c) g = l := by
  have hnone : (c.track.filter fun x => x.1 != g).find? (fun x => x.1 == g) = none := by simp
  unfold tracked setTracked
  cases l <;> simp [List.find?_append, hnone]

/-! ### Nodes and groups (R43, R44) -/

theorem getNode_congr {s t : State} (h : t.fab.nodes = s.fab.nodes) (id : NodeId) : getNode t id = getNode s id := by
  unfold getNode; rw [h]

theorem getNode_id (s : State) (id : NodeId) : (getNode s id).id = id := by
  unfold getNode
  cases h : s.fab.nodes.find? fun n => n.id == id with
  | none => rfl
  | some n => simpa using List.find?_some h

theorem getNode_modNode_self (id : NodeId) {f : Node → Node} (hf : ∀ n, (f n).id = n.id) (s : State) :
    getNode (modNode id f s) id = f (getNode s id) := by
  have hid : (f (getNode s id)).id = id := (hf _).trans (getNode_id s id)
  simp [getNode, modNode] at hid ⊢
  simp [hid]

/-- A message that comes to a node stands last there. -/
theorem inq_modNode_append (id : NodeId) (i : NodeIn) (s : State) :
    (getNode (modNode id (fun n => { n with inq := n.inq ++ [i] }) s) id).inq = (getNode s id).inq ++ [i] :=
  congrArg Node.inq (getNode_modNode_self id (f := fun n => { n with inq := n.inq ++ [i] }) (fun _ => rfl) s)

theorem group?_modGroup_self {s : State} {g : Nat} {x : Group} (h : group? s g = some x) {f : Group → Group} (hf : ∀ x, (f x).num = x.num) :
    group? (modGroup g f s) g = some (f x) := by
  have hnum : x.num = g := by simpa using List.find?_some h
  have hsame : ((fun x : Group => x.num == g) ∘ fun x => if x.num = g then f x else x) = fun x => x.num == g := by
    funext x
    simp only [Function.comp_apply]
    split <;> simp [hf]
  unfold group? at h ⊢
  simp only [modGroup, modFab_fab]
  rw [List.find?_map, hsame, h, Option.map_some, if_pos hnum]

/-! ### A message that enters the inbox (R46, R48, R57) -/

section IntoInbox
variable (m : Msg) (s : State)

@[simp] theorem intoInbox_fab : (intoInbox m s).fab = s.fab := by simp [intoInbox, wake]
@[simp] theorem intoInbox_mem : (intoInbox m s).mem = s.mem := by simp [intoInbox, wake]

/-- Entering the inbox keeps of the core what the end of waits, the counts of a bank and the inbox itself keep. -/
theorem intoInbox_keeps {α : Type} (part : Core → α) (hwake : ∀ p c, part (wakeCore p c) = part c)
    (hbank : ∀ b f (c : Core), part (c.modBankOf b f) = part c) :
    part (intoInbox m s).core = part { s.core with inbox := s.core.inbox ++ [m] } := by
  unfold intoInbox wakeStores wake recvAtBank
  rw [modCoreAt_keeps part fun c => hwake _ c, modCore_core, hwake, modCoreAt_keeps part fun c => hbank _ _ c, modCore_core]

theorem intoInbox_inbox : (intoInbox m s).core.inbox = s.core.inbox ++ [m] :=
  intoInbox_keeps m s Core.inbox (fun _ _ => rfl) fun b f c => by unfold Core.modBankOf; split <;> rfl
theorem intoInbox_arrivals : (intoInbox m s).core.arrivals = s.core.arrivals :=
  intoInbox_keeps m s Core.arrivals (fun _ _ => rfl) fun b f c => by unfold Core.modBankOf; split <;> rfl
theorem intoInbox_ready : (intoInbox m s).core.ready = s.core.ready :=
  intoInbox_keeps m s Core.ready (fun _ _ => rfl) fun b f c => by unfold Core.modBankOf; split <;> rfl

/-- The context that waits for a message of the group goes on. -/
theorem intoInbox_st (h : s.core.cx.st = .waiting (.take m.group)) : (intoInbox m s).core.cx.st = .ready := by
  have hcx : (recvAtBank s.core.num (groupBank s s.core.num m.group) (modCore (fun c => { c with inbox := c.inbox ++ [m] }) s)).core.cx
      = s.core.cx := modCoreAt_keeps Core.cx (fun c => modBankOf_cx ..) ..
  have hwoken : ∀ u : State, u.core.cx = s.core.cx → (wake (fun _ _ w => w == .take m.group) u).core.cx.st = .ready := fun u hu =>
    wakeCore_waiting (hu ▸ h) (by simp)
  unfold intoInbox wakeStores
  rw [modCoreAt_core]
  split
  · exact wakeCore_ready _ (hwoken _ hcx)
  · exact hwoken _ hcx

end IntoInbox

/-! ### The resend buffer (R52, R54, R216) -/

@[simp] theorem wakeResend_fab (twig : Nat) (s : State) : (wakeResend twig s).fab = s.fab := by
  simp [wakeResend, List.range_succ]
@[simp] theorem wakeResend_mem (twig : Nat) (s : State) : (wakeResend twig s).mem = s.mem := by
  simp [wakeResend, List.range_succ]

/-- A message that leaves the resend buffer stands last at its twig node. -/
theorem leaveResend_leaves (r : Resend) (s : State) : (leaveResend r s).fab.resend = s.fab.resend.erase r
    ∧ (getNode (leaveResend r s) ⟨1, r.twig⟩).inq = (getNode s ⟨1, r.twig⟩).inq ++ [⟨r.msg, false, none⟩] ∧ (leaveResend r s).mem = s.mem := by
  refine ⟨by simp [leaveResend, placeAtTwig, modNode], ?_, by simp [leaveResend, placeAtTwig, modNode]⟩
  rw [leaveResend, getNode_congr (congrArg Fab.nodes (wakeResend_fab r.twig _)), placeAtTwig, inq_modNode_append]
  rfl

/-- What the write-back of lines does besides `WroteBack`: writes of the core join the mesh, and nothing else of the memory system or of
its late stores changes. -/
structure SentWrites (s t : State) : Prop where
  ms : t.ms = s.ms
  net : s.fab.net <+: t.fab.net
  late : noneLate t.core = noneLate s.core

theorem SentWrites.refl (s : State) : SentWrites s s := ⟨rfl, List.prefix_rfl, rfl⟩

theorem SentWrites.trans {s t u : State} (h : SentWrites s t) (k : SentWrites t u) : SentWrites s u :=
  ⟨k.ms.trans h.ms, h.net.trans k.net, k.late.trans h.late⟩

theorem insertCtx_map {f : Ctx → Ctx} (hf : ∀ x, (f x).id = x.id) (x : Ctx) : ∀ l : List Ctx, insertCtx (f x) (l.map f) = (insertCtx x l).map f
  | [] => rfl
  | y :: l => by
    simp only [List.map_cons, insertCtx, hf]
    split
    · rfl
    · split
      · rfl
      · rw [insertCtx_map hf x l, List.map_cons]

/-- A change of every context that leaves its late stores. -/
theorem noneLate_mapCtxs {f : Bool → Ctx → Ctx} (hid : ∀ b x, (f b x).id = x.id) (hlate : ∀ b x, (f b x).late = x.late) (c : Core) :
    noneLate (c.mapCtxs f) = noneLate c := by
  have hall : ∀ b, ((c.mapCtxs f).ctxsOf b).all (fun x => x.late.isEmpty) = (c.ctxsOf b).all (fun x => x.late.isEmpty) := fun b => by
    unfold Core.ctxsOf Core.mapCtxs
    dsimp only
    split
    · simp [insertCtx_map (hid _), List.all_map, Function.comp_def, hlate]
    · simp [List.all_map, Function.comp_def, hlate]
  simp only [noneLate, List.all_append, hall]

theorem sentWrites_staleAsks (line : Nat) (s : State) : SentWrites s (staleAsks line s) := by
  refine ⟨rfl, List.prefix_rfl, noneLate_mapCtxs (fun b x => ?_) (fun b x => ?_) s.core⟩ <;> (split <;> rfl)

theorem sentWrites_sendBytes (x : L1Line) (mask : BitVec 128) (s : State) : SentWrites s (sendBytes x mask s) := by
  unfold sendBytes
  split
  · exact .refl s
  · obtain ⟨hms, hnet, hlate⟩ := sentWrites_staleAsks x.line s
    exact ⟨hms, hnet.trans (List.prefix_append ..), hlate⟩

theorem sentWrites_writeBackLine (line : Nat) (s : State) : SentWrites s (writeBackLine line s) := by
  unfold writeBackLine
  split
  · exact .refl s
  · exact .trans (t := modCore _ s) ⟨rfl, List.prefix_rfl, rfl⟩ (sentWrites_sendBytes ..)

theorem sentWrites_foldl : ∀ (ks : List Nat) (s : State), SentWrites s (ks.foldl (fun s l => writeBackLine l s) s)
  | [], s => .refl s
  | k :: ks, s => (sentWrites_writeBackLine k s).trans (sentWrites_foldl ks _)

theorem sentWrites_writeBackShared (s : State) : SentWrites s (writeBackShared s) := sentWrites_foldl _ s

/-- A write under way stays under way while packets only join the mesh. -/
theorem writesOut_mono {s t : State} {n : Nat} (h : s.fab.net <+: t.fab.net) (hout : writesOut s n = true) : writesOut t n = true := by
  obtain ⟨ps, hps⟩ := h
  unfold writesOut at hout ⊢
  rw [← hps, List.any_append, hout, Bool.true_or]

theorem l1Find_of_mem {c : Core} {x : L1Line} (hnodup : (c.l1.map (·.line)).Nodup) (h : x ∈ c.l1) : l1Find c x.line = some x := by
  obtain ⟨before, rest, hl1⟩ := List.append_of_mem h
  rw [l1Find, hl1]
  refine find?_first (fun y hy => ?_) (by simp)
  rw [hl1, List.map_append, List.map_cons] at hnodup
  have hne := (List.nodup_append.mp hnodup).2.2 y.line (List.mem_map_of_mem hy) x.line List.mem_cons_self
  simpa using hne

theorem writesOut_writeBackLine {s : State} {x : L1Line} (hfind : l1Find s.core x.line = some x) (hdirty : x.dirty ≠ 0) :
    writesOut (writeBackLine x.line s) s.core.num = true := by
  unfold writeBackLine sendBytes writesOut
  simp only [hfind, if_neg hdirty]
  simp [sendWrite, countSent, inject, staleAsks, Core.mapCtxs]

/-- With every shared line clean there is nothing to write back. -/
theorem writeBackShared_of_clean {s : State} (h : ∀ l ∈ s.core.l1, l.cls = .shared → l.dirty = 0) : writeBackShared s = s := by
  have hnone : s.core.l1.filter (fun l => l.cls == .shared && l.dirty != 0) = [] := by
    simpa [List.filter_eq_nil_iff] using h
  unfold writeBackShared writeBackWhere
  rw [hnone]
  rfl

/-- A dirty shared line leaves a write of the core under way. -/
theorem writesOut_writeBackShared {s : State} (hnodup : (s.core.l1.map (·.line)).Nodup) {l : L1Line} (hl : l ∈ s.core.l1)
    (hcls : l.cls = .shared) (hdirty : l.dirty ≠ 0) : writesOut (writeBackShared s) s.core.num = true := by
  have hmem : l ∈ s.core.l1.filter (fun l => l.cls == .shared && l.dirty != 0) := List.mem_filter.mpr ⟨hl, by simpa [hcls] using hdirty⟩
  unfold writeBackShared writeBackWhere
  cases hdirties : s.core.l1.filter (fun l => l.cls == .shared && l.dirty != 0) with
  | nil => exact absurd (hdirties ▸ hmem) List.not_mem_nil
  | cons x xs =>
    obtain ⟨hx, hxdirty⟩ := List.mem_filter.mp (hdirties ▸ List.mem_cons_self : x ∈ s.core.l1.filter _)
    have hxdirty : x.dirty ≠ 0 := by simp at hxdirty; exact hxdirty.2
    rw [List.map_cons, List.foldl_cons]
    exact writesOut_mono (sentWrites_foldl _ _).net (writesOut_writeBackLine (l1Find_of_mem hnodup hx) hxdirty)

/-- A step that the core whose turn it is makes itself. -/
theorem atCore_self {f : State → State} {s : State} (h : (f s).core.num = s.core.num) : atCore s.core.num f s = f s := by
  unfold atCore turnTo
  rw [if_pos (show s.core.num = s.core.num from rfl), if_pos h]

theorem quiet_iff (s : State) : quiet s s.core.num = true ↔ writesOut s s.core.num = false ∧ s.ms.heldW = [] ∧ noneLate s.core = true := by
  simp [quiet, getCore_self, noneLate, and_assoc]

theorem noneLate_iff (c : Core) : noneLate c = true ↔ ∀ x ∈ c.ctxsOf false ++ c.ctxsOf true, x.late = [] := by
  simp only [noneLate, List.all_eq_true, List.isEmpty_iff]

/-- After the write-back the core is quiet where it was, and nothing has been written back. -/
theorem quiet_writeBackShared {s : State} (hnodup : (s.core.l1.map (·.line)).Nodup) :
    quiet (writeBackShared s) s.core.num = true ↔ (∀ l ∈ s.core.l1, l.cls = .shared → l.dirty = 0) ∧ quiet s s.core.num = true := by
  constructor
  · intro hq
    obtain ⟨hms, hnet, hlate⟩ := sentWrites_writeBackShared s
    rw [← (wroteBack_writeBackShared s).num, quiet_iff, (wroteBack_writeBackShared s).num, hms, hlate] at hq
    obtain ⟨hout, hheld, hnone⟩ := hq
    refine ⟨fun l hl hcls => ?_, (quiet_iff s).mpr ⟨?_, hheld, hnone⟩⟩
    · by_contra hdirty
      exact absurd (writesOut_writeBackShared hnodup hl hcls hdirty) (by simp [hout])
    · exact Bool.eq_false_iff.mpr fun h => absurd (writesOut_mono hnet h) (by simp [hout])
  · rintro ⟨hclean, hq⟩
    rwa [writeBackShared_of_clean hclean]

end Sys2Proof.Machine
end

section
/-! SUPPORT. Writes of slice scratch, and the record of an offer group (R53, R137). -/

namespace Sys2Proof.Machine

/-! ### Bytes of a number, and of memory (R4) -/

@[simp] theorem length_bytesOfNat : ∀ n v : Nat, (bytesOfNat n v).length = n
  | 0, _ => rfl
  | n + 1, v => by rw [bytesOfNat, List.length_cons, length_bytesOfNat n]

theorem natOfBytes_bytesOfNat : ∀ n v : Nat, natOfBytes (bytesOfNat n v) = v % 256 ^ n
  | 0, v => by simp [bytesOfNat, natOfBytes, Nat.mod_one]
  | n + 1, v => by
    rw [bytesOfNat, natOfBytes, natOfBytes_bytesOfNat n, BitVec.toNat_ofNat, show 256 ^ (n + 1) = 256 * 256 ^ n from Nat.pow_succ', Nat.mod_mul]

theorem bytesOfNat_append : ∀ n m v : Nat, bytesOfNat (n + m) v = bytesOfNat n v ++ bytesOfNat m (v / 256 ^ n)
  | 0, m, v => by simp [bytesOfNat]
  | n + 1, m, v => by
    rw [Nat.add_right_comm, bytesOfNat, bytesOfNat_append n m, bytesOfNat, Nat.div_div_eq_div_mul, ← Nat.pow_succ']
    rfl

theorem memRead_add (m : List Host.Cell) (k n w : Nat) : memRead m k (n + w) = memRead m k n ++ memRead m (k + n) w := by
  simp [memRead, List.range_add, Nat.add_assoc, Function.comp_def]

@[simp] theorem length_memRead (m : List Host.Cell) (k n : Nat) : (memRead m k n).length = n := by simp [memRead]

/-- The first field of bytes that are read, and the bytes after it. -/
theorem memRead_field {m : List Host.Cell} {k n w v : Nat} {bs : List Byte} (h : memRead m k (n + w) = bytesOfNat n v ++ bs) :
    memNat m k n = v % 256 ^ n ∧ memRead m (k + n) w = bs := by
  rw [memRead_add] at h
  obtain ⟨hfield, hrest⟩ := List.append_inj h (by simp)
  exact ⟨by rw [memNat, hfield, natOfBytes_bytesOfNat], hrest⟩

/-- Bytes inside a number that is read. -/
theorem memNat_within {m : List Host.Cell} {k j n w v : Nat} (h : memRead m k (j + (n + w)) = bytesOfNat (j + (n + w)) v) :
    memNat m (k + j) n = v / 256 ^ j % 256 ^ n := by
  rw [bytesOfNat_append] at h
  have hrest := (memRead_field h).2
  rw [bytesOfNat_append] at hrest
  exact (memRead_field hrest).1

theorem memRead_memWrite {m : List Host.Cell} (hwf : Memory.wf m = true) (k : Nat) (bs : List Byte) :
    memRead (memWrite m k bs) k bs.length = bs :=
  List.ext_getElem (by simp) fun i _ hi => by simp [memRead, memGet_memWrite_self bs i hi hwf]

theorem memWrite_append : ∀ (as bs : List Byte) (m : List Host.Cell) (k : Nat),
    memWrite m k (as ++ bs) = memWrite (memWrite m k as) (k + as.length) bs
  | [], _, _, _ => rfl
  | a :: as, bs, m, k => by
    rw [List.cons_append, memWrite, memWrite_append as bs, memWrite, List.length_cons, Nat.add_right_comm, Nat.add_assoc]

/-! ### Writes of slice scratch (R138, R139) -/

theorem lineHeld_congr {s t : State} (h : t.ms = s.ms) (l : Nat) : lineHeld t l = lineHeld s l := by
  unfold lineHeld sharersOf writeHeld; rw [h]

theorem scratch_not_dram {k : Nat} (h : isScratchKey k = true) : isDramKey (lineOf k * 128) = false := by
  have hk : 2 ^ 61 ≤ k := of_decide_eq_true h
  exact decide_eq_false (by unfold lineOf; omega)

/-- A write of one line of slice scratch that nothing holds performs, and no slice's lines change. -/
theorem performChunk_scratch {s : State} {k : Nat} (hk : isScratchKey k = true) (hheld : ∀ l, lineHeld s l = false) (how : Placing) (bs : List Byte) :
    (performChunk how k bs s).mem = memWrite s.mem k bs ∧ (performChunk how k bs s).ms = s.ms := by
  have hdram := scratch_not_dram hk
  unfold performChunk performNow performFrom writeLine fetchNow
  rw [if_neg (by simp [hheld]), if_pos (by simp [hdram])]
  simp only [wholeLine, hdram]
  constructor <;> split <;> rfl

/-- The part of a run that lies in its first line is written, and then the rest. -/
theorem memWrite_take_drop (n : Nat) (bs : List Byte) (m : List Host.Cell) (k : Nat) :
    memWrite (memWrite m k (bs.take n)) (k + n) (bs.drop n) = memWrite m k bs := by
  by_cases hfits : n ≤ bs.length
  · conv_rhs => rw [← List.take_append_drop n bs, memWrite_append, List.length_take, Nat.min_eq_left hfits]
  · rw [List.drop_eq_nil_of_le (by omega), List.take_of_length_le (by omega)]
    rfl

theorem foldl_performChunk_scratch (how : Placing) (fuel : Nat) : ∀ (k : Nat) (bs : List Byte) (s : State), bs.length ≤ fuel →
    isScratchKey k = true → (∀ l, lineHeld s l = false) →
    ((chunksF fuel k bs).foldl (fun s c => performChunk how c.1 c.2 s) s).mem = memWrite s.mem k bs := by
  induction fuel with
  | zero =>
    intro k bs s hlen _ _
    rw [List.length_eq_zero_iff.mp (Nat.le_zero.mp hlen)]
    rfl
  | succ fuel ih =>
    intro k bs s hlen hk hheld
    cases bs with
    | nil => rfl
    | cons b bs =>
      obtain ⟨hmem, hms⟩ := performChunk_scratch hk hheld how ((b :: bs).take (128 - k % 128))
      have hnext : isScratchKey (k + (128 - k % 128)) = true :=
        decide_eq_true (Nat.le_add_right_of_le (of_decide_eq_true hk))
      have hrest : ((b :: bs).drop (128 - k % 128)).length ≤ fuel := by
        rw [List.length_drop]; omega
      rw [chunksF, List.foldl_cons, ih _ _ _ hrest hnext fun l => (lineHeld_congr hms l).trans (hheld l), hmem, memWrite_take_drop]

/-- A write of slice scratch that nothing holds leaves memory with its bytes written. -/
theorem perform_scratch {s : State} {k : Nat} (hk : isScratchKey k = true) (hheld : ∀ l, lineHeld s l = false) (bs : List Byte) :
    (perform k bs s).mem = memWrite s.mem k bs :=
  foldl_performChunk_scratch Placing.dflt bs.length k bs s le_rfl hk hheld

theorem isScratchKey_scratchKey (slice off : Nat) : isScratchKey (scratchKey slice off) = true := by
  exact decide_eq_true (by unfold scratchKey; omega)

/-! ### The group record (R53) -/

@[simp] theorem length_groupRecord (s : State) (g : Group) : (groupRecord s g).length = 64 := by simp [groupRecord]

/-- The root node's move leaves the record at the group's home, and the rest of memory as it was. -/
theorem exec_groupRecordUpdate_writes {s : State} {gr : Group} (hgr : group? s gr.num = some gr) (hwf : Memory.wf s.mem = true)
    (hheld : ∀ l, lineHeld s l = false) :
    ∃ t, exec (.groupRecordUpdate gr.num) s = .next t ∧ Say.MemOnly (scratchKey gr.slice gr.home) 64 s t
      ∧ memRead t.mem (scratchKey gr.slice gr.home) 64 = groupRecord s gr := by
  have hlen := length_groupRecord s gr
  rw [exec_groupRecordUpdate]
  unfold execGroupRecordUpdate
  simp only [hgr, hlen]
  by_cases hsame : memRead s.mem (scratchKey gr.slice gr.home) 64 = groupRecord s gr
  · exact ⟨s, by rw [if_pos hsame], fun _ _ => rfl, hsame⟩
  · have hmem := perform_scratch (isScratchKey_scratchKey gr.slice gr.home) hheld (groupRecord s gr)
    refine ⟨_, by rw [if_neg hsame], fun a ha => ?_, ?_⟩
    · rw [hmem, memGet_memWrite_other _ hwf (by rwa [hlen])]
    · rw [hmem]
      conv_lhs => rw [← hlen, memRead_memWrite hwf]

/-- The last 28 bytes of a record: the root's total, LEVEL, NUM, SIZE and DROPPED. -/
def recordTail (total level num size dropped : Nat) : Nat :=
  min 255 total + 2 ^ 8 * (level % 8) + 2 ^ 12 * (num % 2 ^ 12) + 2 ^ 24 * (size % 16) + 2 ^ 28 * (dropped % 2 ^ 32)

/-- The parts of that number: its byte 0, its bytes 1 and 2, and what stands from byte 3 on. -/
theorem recordTail_fields (total level num size dropped : Nat) :
    let v := recordTail total level num size dropped
    v / 256 ^ 0 % 256 ^ 1 = min 255 total % 256 ^ 1 ∧ v / 256 ^ 1 % 256 ^ 2 = level % 8 + 2 ^ 4 * (num % 2 ^ 12)
      ∧ v / 256 ^ 3 % 256 ^ 4 % 2 ^ 4 = size % 16 ∧ v / 256 ^ 3 % 256 ^ 8 / 2 ^ 4 = dropped % 2 ^ 32 := by
  have := Nat.mod_lt level (show 0 < 8 by decide)
  have := Nat.mod_lt num (show 0 < 2 ^ 12 by decide)
  have := Nat.mod_lt size (show 0 < 16 by decide)
  have := Nat.mod_lt dropped (show 0 < 2 ^ 32 by decide)
  have := Nat.min_le_left 255 total
  simp only [recordTail]
  refine ⟨?_, ?_, ?_, ?_⟩ <;> omega

/-- What the fields of a record read as that stands at `k` (R53). -/
theorem groupRecord_fields {m : List Host.Cell} {k : Nat} {s : State} {gr : Group} (h : memRead m k 64 = groupRecord s gr) :
    (∀ f ∈ [(0, 8, gr.sent), (8, 8, gr.taken), (16, 4, parkedOf s gr), (20, 4, gr.head), (24, 4, gr.tail), (28, 4, gr.bounces), (32, 4, gr.resends),
        (36, 1, min 255 (nodeSum s gr.root gr.num))], memNat m (k + f.1) f.2.1 = f.2.2 % 256 ^ f.2.1)
      ∧ memNat m (k + 37) 2 = gr.level % 8 + 2 ^ 4 * (gr.num % 2 ^ 12) ∧ memNat m (k + 39) 4 % 2 ^ 4 = gr.size % 16
      ∧ memNat m (k + 39) 8 / 2 ^ 4 = gr.dropped % 2 ^ 32 := by
  simp only [groupRecord, List.append_assoc] at h
  obtain ⟨hsent, h⟩ := memRead_field (n := 8) (w := 56) h
  obtain ⟨htaken, h⟩ := memRead_field (n := 8) (w := 48) h
  obtain ⟨hparked, h⟩ := memRead_field (n := 4) (w := 44) h
  obtain ⟨hhead, h⟩ := memRead_field (n := 4) (w := 40) h
  obtain ⟨htail, h⟩ := memRead_field (n := 4) (w := 36) h
  obtain ⟨hbounces, h⟩ := memRead_field (n := 4) (w := 32) h
  obtain ⟨hresends, h⟩ := memRead_field (n := 4) (w := 28) h
  obtain ⟨htotal, hlevel, hsize, hdropped⟩ := recordTail_fields (nodeSum s gr.root gr.num) gr.level gr.num gr.size gr.dropped
  have hbyte := (memNat_within (j := 0) (n := 1) (w := 27) h).trans htotal
  have hword := (memNat_within (j := 1) (n := 2) (w := 25) h).trans hlevel
  have hquad := (congrArg (· % 2 ^ 4) (memNat_within (j := 3) (n := 4) (w := 21) h)).trans hsize
  have hoct := (congrArg (· / 2 ^ 4) (memNat_within (j := 3) (n := 8) (w := 17) h)).trans hdropped
  refine ⟨?_, hword, hquad, hoct⟩
  simp only [List.mem_cons, List.not_mem_nil, or_false, forall_eq_or_imp, forall_eq]
  exact ⟨hsent, htaken, hparked, hhead, htail, hbounces, hresends, hbyte⟩

end Sys2Proof.Machine
end

section
/-! SUPPORT. Deliveries, returns, resends, receipts and arrivals of packets (R27, R48 to R54, R57). -/

namespace Sys2Proof.Machine

/-! ### At the core (R46, R48, R50, R57) -/

/-- The core with the messages that have reached it replaced. -/
def withArrivals (l : List Msg) (s : State) : State := modCore (fun c => { c with arrivals := l }) s

/-- The arrived message leaves its place. -/
theorem modCore_erase_arrival {s : State} {m : Msg} {before rest : List Msg} (harr : s.core.arrivals = before ++ m :: rest) (hm : m ∉ before) :
    modCore (fun c => { c with arrivals := c.arrivals.erase m }) s = withArrivals (before ++ rest) s := by
  show withArrivals (s.core.arrivals.erase m) s = _
  rw [harr, erase_first hm]

section AtTheCore
variable {s : State} {m : Msg} {before rest : List Msg} (harr : s.core.arrivals = before ++ m :: rest)
include harr

/-- The first message of an offer group that has reached the core enters the inbox where the core is ready for it, and bounces elsewhere. -/
theorem exec_offerDeliver_first (hm : m.group ≠ 0xFFF) (hbefore : ∀ x ∈ before, x.group = 0xFFF) :
    (readinessOf s.core m.group = 0 → exec .offerDeliver s = .next (bounceFrom s.core.num m.bounced (withArrivals (before ++ rest) s)))
    ∧ (0 < readinessOf s.core m.group → exec .offerDeliver s
        = .next (intoInbox m (setReadiness s.core.num m.group (readinessOf s.core m.group - 1) (withArrivals (before ++ rest) s)))) := by
  have hfirst : s.core.arrivals.find? (fun x => x.group != 0xFFF) = some m :=
    harr ▸ find?_first (fun x hx => by simp [hbefore x hx]) (by simp [hm])
  have herase := modCore_erase_arrival harr fun h => hm (hbefore m h)
  rw [exec_offerDeliver]
  unfold execOfferDeliver
  simp only [hfirst, herase]
  exact ⟨fun hready => if_pos hready, fun hready => if_neg (Nat.pos_iff_ne_zero.mp hready)⟩

/-- The first multicast copy enters the inbox where a slot is free, or goes on waiting. -/
theorem exec_msendCopyDeliver_first (hm : m.group = 0xFFF) (hbefore : ∀ x ∈ before, x.group ≠ 0xFFF) :
    exec .msendCopyDeliver s = .next (if readySum s.core + s.core.inbox.length < 32
      then intoInbox m (withArrivals (before ++ rest) s) else s) := by
  have hfirst : s.core.arrivals.find? (fun x => x.group == 0xFFF) = some m :=
    harr ▸ find?_first (fun x hx => by simp [hbefore x hx]) (by simp [hm])
  have herase := modCore_erase_arrival harr fun h => hbefore m h hm
  rw [exec_msendCopyDeliver]
  unfold execMsendCopyDeliver
  simp only [hfirst, herase]
  by_cases hroom : readySum s.core + s.core.inbox.length < 32
  · rw [if_pos hroom, if_pos (show _ < Config.inboxSlots from hroom)]
  · rw [if_neg hroom, if_neg (show ¬_ < Config.inboxSlots from hroom)]

end AtTheCore

/-- A message that the core bounces returns to its twig node with the core's total. -/
theorem bounceFrom_own_net (m : Msg) (s : State) : (bounceFrom s.core.num m s).fab.net = s.fab.net
    ++ [⟨.msg, s.core.num / 4, s.core.num / 4, .bounce ⟨1, s.core.num / 4⟩ (s.core.num % 4) (readinessOf s.core m.group) m⟩] := by
  simp [bounceFrom, getCore_self, twigOf]

@[simp] theorem setReadiness_mem (n g v : Nat) (s : State) : (setReadiness n g v s).mem = s.mem := modCoreAt_mem ..
@[simp] theorem setReadiness_net (n g v : Nat) (s : State) : (setReadiness n g v s).fab.net = s.fab.net :=
  show (modCoreAt n (setReadyOf g v) s).fab.net = s.fab.net from congrArg Fab.net (modCoreAt_fab ..)
theorem setReadiness_core (g v : Nat) (s : State) : (setReadiness s.core.num g v s).core = setReadyOf g v s.core :=
  congrArg State.core (modCoreAt_self (setReadyOf g v) s)

/-! ### Returns and resends (R51, R52, R54, R216) -/

theorem exec_offerReturn_first {s : State} {gr : Group} {m : Msg} {rest : List Msg} (hgr : group? s gr.num = some gr) (hwait : gr.waiting = m :: rest) :
    exec (.offerReturn gr.num) s = .next (if resendUsed s (m.sender / 4) < 16
      then inject ⟨.rsp, gr.root.twig, m.sender / 4, .returned m.sender m⟩
        (modGroup gr.num (fun x => { x with waiting := rest, resends := x.resends + 1 }) s)
      else s) := by
  rw [exec_offerReturn]
  unfold execOfferReturn
  simp only [hgr, hwait, resendSlots, ge_iff_le, twigOf]
  by_cases hroom : resendUsed s (m.sender / 4) < 16
  · rw [if_neg (by omega), if_pos hroom]
  · rw [if_pos (by omega), if_neg hroom]

theorem exec_resendTimer_first {s : State} {r : Resend}
    (h : s.fab.resend.find? (fun x => x.twig == r.twig && (x.returned && decide (x.since + 256 ≤ s.pkg.nclk))) = some r) :
    exec (.resendTimer r.twig) s = .next (leaveResend r s) := by
  simp only [exec_resendTimer, execResendTimer, Bool.and_assoc, h]

theorem exec_resendTimer_none {s : State} {twig : Nat}
    (h : ∀ x ∈ s.fab.resend, x.twig = twig → x.returned = true → s.pkg.nclk < x.since + 256) : exec (.resendTimer twig) s = .next s := by
  have hnone : s.fab.resend.find? (fun x => x.twig == twig && x.returned && decide (x.since + 256 ≤ s.pkg.nclk)) = none := by
    simpa [List.find?_eq_none] using h
  simp only [exec_resendTimer, execResendTimer, hnone]

theorem exec_orderedSendRelease_first {s : State} {r : Resend}
    (h : s.fab.resend.find? (fun x => x.twig == r.twig && (!x.returned && x.msg.ord && !x.msg.rel && inTurn s x.msg)) = some r) :
    exec (.orderedSendRelease r.twig) s = .next (leaveResend r s) := by
  simp only [Bool.and_assoc] at h
  simp only [exec_orderedSendRelease, execOrderedSendRelease, Bool.and_assoc, h]

theorem exec_orderedSendRelease_none {s : State} {twig : Nat}
    (h : ∀ x ∈ s.fab.resend, x.twig = twig → x.returned = false → x.msg.ord = true → inTurn s x.msg = false) :
    exec (.orderedSendRelease twig) s = .next s := by
  have hnone : s.fab.resend.find? (fun x => x.twig == twig && !x.returned && x.msg.ord && !x.msg.rel && inTurn s x.msg) = none := by
    rw [List.find?_eq_none]
    intro x hx hp
    simp only [Bool.and_eq_true, Bool.not_eq_true', beq_iff_eq] at hp
    obtain ⟨⟨⟨⟨htwig, hreturned⟩, hord⟩, -⟩, hturn⟩ := hp
    simp [h x hx htwig hreturned hord] at hturn
  simp only [exec_orderedSendRelease, execOrderedSendRelease, hnone]

/-- A releasing send of the core whose turn it is writes back the core's dirty shared lines, and leaves once the core is quiet. -/
theorem exec_releasingSendRelease_own {s : State} {r : Resend}
    (h : s.fab.resend.find? (fun x => x.twig == r.twig && (!x.returned && x.msg.rel && (!x.msg.ord || inTurn s x.msg))) = some r)
    (hcore : r.core = s.core.num) :
    exec (.releasingSendRelease r.twig) s
      = .next (if quiet (writeBackShared s) s.core.num then leaveResend r (writeBackShared s) else writeBackShared s) := by
  simp only [Bool.and_assoc] at h
  simp only [exec_releasingSendRelease, execReleasingSendRelease, Bool.and_assoc, h, hcore, atCore_self (wroteBack_writeBackShared s).num]

/-! ### Receipts (R49, R54) -/

/-- A packet that OFFER_RECEIPT may take: a receipt for the core, first on an open route. -/
def receiptHere (s : State) (p : Packet) : Bool :=
  match p.body with
  | .receipt n _ _ => n == s.core.num && mayArrive s p
  | _ => false

theorem receiptHere_of_own {s : State} {p : Packet} {g : Nat} {q : BitVec 16} (hbody : p.body = .receipt s.core.num g q)
    (h : mayArrive s p = true) : receiptHere s p = true := by
  simp [receiptHere, hbody, h]

theorem receiptHere_of_closed {s : State} {p : Packet} (h : mayArrive s p = false) : receiptHere s p = false := by
  unfold receiptHere
  split <;> simp [h]

theorem receiptHere_of_other {s : State} {p : Packet} (h : ∀ g q, p.body ≠ .receipt s.core.num g q) : receiptHere s p = false := by
  unfold receiptHere
  split
  · next n g q hbody =>
    have hne : n ≠ s.core.num := fun hn => h g q (hn ▸ hbody)
    simp [hne]
  · rfl

/-- The core takes a receipt: its tracker falls, and where the group's entry is free the waits on it end. -/
def takeReceipt (p : Packet) (g : Nat) (q : BitVec 16) (s : State) : State :=
  let t := modCore (fun c => setTracked g ((tracked c g).erase q) c) (recvAtBank s.core.num (groupBank s s.core.num g) (takePacket p s))
  if (tracked t.core g).isEmpty then wake (fun _ _ w => w == .tracker || w == .receipts g) t else t

theorem exec_offerReceipt_none {s : State} (h : ∀ x ∈ s.fab.net, receiptHere s x = false) : exec .offerReceipt s = .next s := by
  have hnone : s.fab.net.find? (receiptHere s) = none := List.find?_eq_none.mpr fun x hx => by simp [h x hx]
  rw [exec_offerReceipt]
  unfold execOfferReceipt
  dsimp only
  split
  · rfl
  · next p hp => exact absurd (hnone.symm.trans hp) (by simp)

theorem exec_offerReceipt_some {s : State} {p : Packet} {n g : Nat} {q : BitVec 16} (hfind : s.fab.net.find? (receiptHere s) = some p)
    (hbody : p.body = .receipt n g q) : exec .offerReceipt s = .next (takeReceipt p g q s) := by
  rw [exec_offerReceipt]
  unfold execOfferReceipt
  dsimp only
  split
  · next hp => exact absurd (hfind.symm.trans hp) (by simp)
  · next p' hp =>
    obtain rfl : p = p' := Option.some.inj (hfind.symm.trans hp)
    simp only [hbody]
    rfl

section TakeReceipt
variable (p : Packet) (g : Nat) (q : BitVec 16) (s : State)

@[simp] theorem takeReceipt_mem : (takeReceipt p g q s).mem = s.mem := by
  unfold takeReceipt
  dsimp only
  split <;> simp [wake, takePacket]

theorem takeReceipt_fab : (takeReceipt p g q s).fab = (takePacket p s).fab := by
  unfold takeReceipt
  dsimp only
  split <;> simp [wake]

/-- The core before the waits end. -/
theorem receiptTracked (b : Bool) :
    let c := (modCore (fun c => setTracked g ((tracked c g).erase q) c) (recvAtBank s.core.num b (takePacket p s))).core
    tracked c g = (tracked s.core g).erase q ∧ c.cx = s.core.cx := by
  have htrack : (recvAtBank s.core.num b (takePacket p s)).core.track = s.core.track :=
    modCoreAt_keeps Core.track (fun c => by unfold Core.modBankOf; split <;> rfl) ..
  refine ⟨?_, modCoreAt_keeps Core.cx (fun c => modBankOf_cx ..) ..⟩
  rw [modCore_core, tracked_setTracked_self]
  unfold tracked
  rw [htrack]

theorem takeReceipt_tracked : tracked (takeReceipt p g q s).core g = (tracked s.core g).erase q := by
  obtain ⟨htracked, -⟩ := receiptTracked p g q s (groupBank s s.core.num g)
  unfold takeReceipt
  dsimp only
  split
  · exact htracked
  · exact htracked

/-- A context that waits for a tracker entry or for the group's receipts goes on once the entry is free. -/
theorem takeReceipt_st {w : Wait} (hw : w = .tracker ∨ w = .receipts g) (hst : s.core.cx.st = .waiting w) :
    (takeReceipt p g q s).core.cx.st = if (tracked s.core g).erase q = [] then .ready else .waiting w := by
  obtain ⟨htracked, hcx⟩ := receiptTracked p g q s (groupBank s s.core.num g)
  unfold takeReceipt
  dsimp only
  rw [htracked]
  by_cases hfree : (tracked s.core g).erase q = []
  · rw [if_pos hfree, if_pos (by simp [hfree])]
    exact wakeCore_waiting (hcx ▸ hst) (by simpa using hw)
  · rw [if_neg hfree, if_neg (by simpa using hfree), hcx, hst]

end TakeReceipt

/-! ### Packets that arrive (R27, R28, R57) -/

section Packets
variable {s : State} {p : Packet} {qs ps : List Packet} (hnet : s.fab.net = qs ++ p :: ps)
  (hqs : ∀ x ∈ qs, ¬(x.cls = p.cls ∧ x.src = p.src ∧ x.dst = p.dst))
include hnet hqs

theorem find?_route : s.fab.net.find? (fun q => q.cls == p.cls && q.src == p.src && q.dst == p.dst) = some p :=
  hnet ▸ find?_first (fun x hx => by simpa [and_assoc] using hqs x hx) (by simp)

theorem takePacket_net : (takePacket p s).fab.net = qs ++ ps := by
  show s.fab.net.erase p = _
  rw [hnet]
  exact erase_first fun h => hqs p h ⟨rfl, rfl, rfl⟩

theorem mayArrive_first : mayArrive s p = pathOpen s p.src p.dst := by
  unfold mayArrive routeHead
  rw [find?_route hnet hqs, beq_self_eq_true, Bool.true_and]

/-- The first packet of a route stays while the route is not open or its destination does not take it, whatever it carries. -/
theorem exec_packetArrival_stays (h : (pathOpen s p.src p.dst && accepts s p) = false) : exec (.packetArrival p.cls p.src p.dst) s = .next s := by
  rw [exec_packetArrival]
  unfold execPacketArrival
  simp only [find?_route hnet hqs, h]
  split <;> rfl

/-- Else it is delivered; messages come this way, receipts do not. -/
theorem exec_packetArrival_delivers (hpath : pathOpen s p.src p.dst = true) (haccepts : accepts s p = true) (hmsg : p.body.msg?.isSome = true) :
    exec (.packetArrival p.cls p.src p.dst) s = .next (deliverPacket p (takePacket p s)) := by
  rw [exec_packetArrival]
  unfold execPacketArrival
  simp only [find?_route hnet hqs, hpath, haccepts]
  split
  · next h => simp [h, Payload.msg?] at hmsg
  · next h => simp [h, Payload.msg?] at hmsg
  · next h => simp [h, Payload.msg?] at hmsg
  · rfl

/-- A receipt for the core is taken only along an open route. -/
theorem exec_offerReceipt_closed (hpath : pathOpen s p.src p.dst = false) (hbefore : ∀ x ∈ qs, ∀ h j, x.body ≠ .receipt s.core.num h j)
    (hafter : ∀ x ∈ ps, ∀ h j, x.body ≠ .receipt s.core.num h j) : exec .offerReceipt s = .next s := by
  refine exec_offerReceipt_none fun x hx => ?_
  rw [hnet, List.mem_append, List.mem_cons] at hx
  rcases hx with hx | rfl | hx
  · exact receiptHere_of_other (hbefore x hx)
  · exact receiptHere_of_closed ((mayArrive_first hnet hqs).trans hpath)
  · exact receiptHere_of_other (hafter x hx)

/-- Along an open route it is taken. -/
theorem exec_offerReceipt_open {g : Nat} {q : BitVec 16} (hpath : pathOpen s p.src p.dst = true) (hbody : p.body = .receipt s.core.num g q)
    (hbefore : ∀ x ∈ qs, ∀ h j, x.body ≠ .receipt s.core.num h j) : exec .offerReceipt s = .next (takeReceipt p g q s) := by
  refine exec_offerReceipt_some ?_ hbody
  rw [hnet]
  exact find?_first (fun x hx => receiptHere_of_other (hbefore x hx)) (receiptHere_of_own hbody ((mayArrive_first hnet hqs).trans hpath))

end Packets

end Sys2Proof.Machine
end

section
/-! PROOFS. Deliveries and receipts of the offer trees. -/

namespace Sys2Proof.Proofs
open Sys2Proof Sys2Proof.Machine

/-- Settles O42: for each event, its equation and what the state operations leave. -/
theorem offerDelivery : Obligations.OfferDelivery := by
  intro s m r gr before rest p ps qs n ready
  refine ⟨fun harr hm hbefore => ⟨fun hready => ?bounces, fun hready => ?enters⟩, fun harr hm hbefore => ?copy, fun hgr hwait => ?returned, ?resends,
    fun hnet hqs => ⟨fun q hbody hbefore => ?receipt, fun hpath => exec_packetArrival_stays hnet hqs (by rw [hpath, Bool.false_and]), fun hpath => ?arrivals⟩,
    fun hgr hwf hheld => ?record⟩
  case bounces =>
    refine ⟨_, (exec_offerDeliver_first harr hm hbefore).1 hready, rfl, rfl, rfl, ?_⟩
    refine (bounceFrom_own_net m.bounced (withArrivals (before ++ rest) s)).trans ?_
    rw [show readinessOf (withArrivals (before ++ rest) s).core m.bounced.group = 0 from hready]
    rfl
  case enters =>
    have hcore : (setReadiness s.core.num m.group (readinessOf s.core m.group - 1) (withArrivals (before ++ rest) s)).core
        = setReadyOf m.group (readinessOf s.core m.group - 1) (withArrivals (before ++ rest) s).core := setReadiness_core ..
    refine ⟨_, (exec_offerDeliver_first harr hm hbefore).2 hready, ?_, ?_, by simp [withArrivals], ?_, by simp [withArrivals], fun hst => ?_⟩
    · rw [intoInbox_inbox, hcore]; rfl
    · rw [intoInbox_arrivals, hcore]; rfl
    · rw [readinessOf_congr (intoInbox_ready ..), hcore, readinessOf_setReadyOf_self]
    · exact intoInbox_st _ _ (by rw [hcore]; exact hst)
  case copy =>
    refine ⟨_, exec_msendCopyDeliver_first harr hm hbefore, ?_⟩
    show _ ∧ _ ∧ if readySum s.core + s.core.inbox.length < 32 then _ else _
    split
    · exact ⟨by simp [withArrivals], intoInbox_ready .., intoInbox_inbox .., intoInbox_arrivals ..⟩
    · exact ⟨rfl, rfl, rfl⟩
  case returned =>
    refine ⟨_, exec_offerReturn_first hgr hwait, ?_⟩
    split
    · exact ⟨rfl, group?_modGroup_self hgr (f := fun x => { x with waiting := rest, resends := x.resends + 1 }) fun _ => rfl⟩
    · rfl
  case resends =>
    intro first turn leaves
    have hleaves : leaves (leaveResend r s) ∧ (leaveResend r s).mem = s.mem := by
      obtain ⟨hresend, hinq, hmem⟩ := leaveResend_leaves r s
      exact ⟨⟨hresend, hinq⟩, hmem⟩
    refine ⟨fun hfirst => ⟨_, exec_resendTimer_first hfirst, hleaves⟩, exec_resendTimer_none,
      fun hfirst => ⟨_, exec_orderedSendRelease_first hfirst, hleaves⟩, exec_orderedSendRelease_none, ?releasing⟩
    case releasing =>
      intro hfirst hcore clean performed hnodup
      have hexec := exec_releasingSendRelease_own hfirst hcore
      have hquiet : quiet (writeBackShared s) s.core.num = true ↔ clean ∧ performed := by
        rw [quiet_writeBackShared hnodup, quiet_iff, noneLate_iff]
      refine ⟨fun hclean hperformed => ?_, fun hnot => ?_⟩
      · rw [if_pos (hquiet.mpr ⟨hclean, hperformed⟩), writeBackShared_of_clean hclean] at hexec
        exact ⟨_, hexec, hleaves⟩
      · rwa [if_neg fun h => hnot.elim (· (hquiet.mp h).1) (· (hquiet.mp h).2)] at hexec
  case receipt =>
    refine ⟨fun hpath hafter => exec_offerReceipt_closed hnet hqs hpath hbefore hafter, fun hpath => ?_⟩
    refine ⟨_, exec_offerReceipt_open hnet hqs hpath hbody hbefore, ?_, takeReceipt_tracked .., takeReceipt_mem .., fun w hw hst => ?_⟩
    · rw [takeReceipt_fab, takePacket_net hnet hqs]
    · exact takeReceipt_st p m.group q s (by simpa using hw) hst
  case arrivals =>
    have hdelivered := exec_packetArrival_delivers hnet hqs hpath
    have htaken := takePacket_net hnet hqs
    refine ⟨fun id down hbody => ?toNode, fun id c total hbody => ?bounce, fun hbody hm hfull => ?held, fun hbody hm => ?toCore, fun k hbody => ?resend⟩
    case toNode =>
      refine ⟨_, hdelivered (by simp [hbody, accepts]) (by simp [hbody, Payload.msg?]), ?_⟩
      simp only [deliverPacket, hbody]
      exact ⟨htaken, rfl, inq_modNode_append ..⟩
    case bounce =>
      refine ⟨_, hdelivered (by simp [hbody, accepts]) (by simp [hbody, Payload.msg?]), ?_⟩
      simp only [deliverPacket, hbody]
      exact ⟨htaken, rfl, inq_modNode_append ..⟩
    case held =>
      refine exec_packetArrival_stays hnet hqs ?_
      have hcopies : ¬copiesHeld s (twigOf n) < copySlots := Nat.not_lt.mpr hfull
      simp [accepts, hbody, hm, hcopies]
    case toCore =>
      refine ⟨_, hdelivered (by simp [hbody, accepts, hm]) (by simp [hbody, Payload.msg?]), ?_⟩
      simp only [deliverPacket, hbody, if_neg hm]
      refine ⟨(congrArg Fab.net (modCoreAt_fab ..)).trans htaken, modCoreAt_mem .., ?_⟩
      exact congrArg (fun u => u.core.arrivals) (modCoreAt_self (fun c => { c with arrivals := c.arrivals ++ [m] }) (takePacket p s))
    case resend =>
      refine ⟨_, hdelivered (by simp [hbody, accepts]) (by simp [hbody, Payload.msg?]), ?_⟩
      simp only [deliverPacket, hbody]
      exact ⟨htaken, rfl, rfl⟩
  case record =>
    obtain ⟨t, ht, honly, hread⟩ := exec_groupRecordUpdate_writes hgr hwf hheld
    exact ⟨t, ht, honly, groupRecord_fields hread⟩

end Sys2Proof.Proofs
end

section
/-! SUPPORT. What the writes of memory leave of the cores (R149, R154, R157, R158, R257). -/

namespace Sys2Proof.Machine

/-! ### Writes at slices change no core -/

/-- No core changes. -/
structure SameCores (s t : State) : Prop where
  core : t.core = s.core
  cores : t.cores = s.cores

theorem SameCores.refl (s : State) : SameCores s s := ⟨rfl, rfl⟩

theorem SameCores.trans {s t u : State} (h : SameCores s t) (k : SameCores t u) : SameCores s u :=
  ⟨k.core.trans h.core, k.cores.trans h.cores⟩

theorem sameCores_foldl {β : Type} {f : State → β → State} (hf : ∀ s x, SameCores s (f s x)) : ∀ (l : List β) (s : State), SameCores s (l.foldl f s)
  | [], s => .refl s
  | x :: l, s => (hf s x).trans (sameCores_foldl hf l _)

theorem sameCores_poisonLines (ls : List Nat) (s : State) : SameCores s (poisonLines ls s) := ⟨rfl, rfl⟩
theorem sameCores_setMeta (block v : Nat) (s : State) : SameCores s (setMeta block v s) := ⟨rfl, rfl⟩

theorem sameCores_noteCode (line code : Nat) (s : State) : SameCores s (noteCode line code s) := by
  unfold noteCode
  split
  · exact .refl s
  · exact sameCores_setMeta ..

theorem sameCores_loseSector (block : Nat) (s : State) : SameCores s (loseSector block s) :=
  (sameCores_foldl (fun s b => sameCores_setMeta b 0xFFFF s) _ s).trans (sameCores_poisonLines ..)

theorem sameCores_markWritten (line : Nat) (s : State) : SameCores s (markWritten line s) := by
  unfold markWritten
  dsimp only
  split
  · exact .trans (t := setMeta _ _ (modMs _ s)) ⟨rfl, rfl⟩ (sameCores_loseSector ..)
  · exact ⟨rfl, rfl⟩

theorem sameCores_leaveSlice (x y : Slice) (s : State) : SameCores s (leaveSlice x y s) := by
  refine sameCores_foldl (fun s l => ?_) _ s
  have hnote : SameCores s (if l.bark && l.code = 15 && x.num = homeSlice (l.line * 128) then noteCode l.line 15 s else s) := by
    split
    · exact sameCores_noteCode ..
    · exact .refl s
  dsimp only
  generalize (if l.bark && l.code = 15 && x.num = homeSlice (l.line * 128) then noteCode l.line 15 s else s) = u at hnote ⊢
  refine hnote.trans ?_
  split
  · exact .refl _
  · split
    · exact .refl _
    · split
      · exact sameCores_markWritten ..
      · split
        · exact .refl _
        · exact sameCores_poisonLines ..

theorem sameCores_setSlice (x y : Slice) (s : State) : SameCores s (setSlice x y s) :=
  .trans (t := modSlice x.num (fun _ => y) s) ⟨rfl, rfl⟩ (sameCores_leaveSlice x y _)

theorem sameCores_fillMiss {slice : Nat} {m : Miss} {s t : State} (h : fillMiss slice m s = some t) : SameCores s t := by
  obtain ⟨y, -, rfl⟩ := Option.map_eq_some_iff.mp h
  exact (sameCores_setSlice ..).trans (sameCores_foldl (f := fun s w => answer slice m.line w s) (fun s w => ⟨rfl, rfl⟩) _ _)

/-- A fill, or the wait for room. -/
theorem sameCores_fillMiss_getD (slice : Nat) (m : Miss) (s : State) : SameCores s ((fillMiss slice m s).getD (waitRoom s)) := by
  cases h : fillMiss slice m s with
  | none => exact ⟨rfl, rfl⟩
  | some t => exact sameCores_fillMiss h

theorem sameCores_fetchNow (line : Nat) (how : Placing) (s : State) : SameCores s (fetchNow line how s) := by
  unfold fetchNow
  dsimp only
  split
  · exact .refl s
  · split
    · exact sameCores_fillMiss_getD ..
    · split
      · exact ⟨rfl, rfl⟩
      · exact sameCores_fillMiss_getD ..

theorem sameCores_wholeLine (line : Nat) (s : State) : SameCores s (wholeLine line s) := by
  unfold wholeLine
  dsimp only
  split
  · exact .trans (t := { s with poison := s.poison.filter (fun l => l != line) }) ⟨rfl, rfl⟩ (sameCores_markWritten ..)
  · exact ⟨rfl, rfl⟩

theorem sameCores_countFrame (line die : Nat) (write : Bool) (s : State) : SameCores s (countFrame line die write s) := by
  unfold countFrame
  split <;> exact ⟨rfl, rfl⟩

theorem sameCores_recode (line : Nat) (how : Placing) (fetched : Bool) (s : State) : SameCores s (recode line how fetched s) := by
  unfold recode
  dsimp only
  split
  · exact .refl s
  · split
    · exact ⟨rfl, rfl⟩
    · exact sameCores_setSlice ..

theorem sameCores_writeLine (how : Placing) (die line : Nat) (whole : Bool) (f : List Host.Cell → List Host.Cell) (s : State) :
    SameCores s (writeLine how die line whole f s) := by
  have hfetch := sameCores_fetchNow line how s
  unfold writeLine
  dsimp only
  generalize fetchNow line how s = u at hfetch ⊢
  have hdisturb : SameCores s (disturb line { u with mem := f u.mem }) := hfetch.trans ⟨rfl, rfl⟩
  generalize disturb line { u with mem := f u.mem } = v at hdisturb ⊢
  have hwhole : SameCores s (if whole then wholeLine line v else v) := by
    split
    · exact hdisturb.trans (sameCores_wholeLine ..)
    · exact hdisturb
  generalize (if whole then wholeLine line v else v) = w at hwhole ⊢
  split
  · exact hwhole
  · refine .trans ?_ (sameCores_recode ..)
    split
    · exact (hwhole.trans (sameCores_countFrame ..)).trans (sameCores_noteCode ..)
    · exact hwhole.trans (sameCores_countFrame ..)

theorem sameCores_performNow (how : Placing) (k : Nat) (bs : List Byte) (s : State) : SameCores s (performNow how k bs s) := by
  unfold performNow performFrom
  exact sameCores_writeLine ..

theorem sameCores_perform (k : Nat) (bs : List Byte) (s : State) : SameCores s (perform k bs s) := by
  refine sameCores_foldl (fun s c => ?_) _ s
  unfold performChunk
  split
  · exact ⟨rfl, rfl⟩
  · exact sameCores_performNow ..

theorem sameCores_mergeNow (core line : Nat) (data : BitVec 1024) (mask : BitVec 128) (how : Placing) (s : State) :
    SameCores s (mergeNow core line data mask how s) := by
  unfold mergeNow
  split
  · exact .refl s
  · exact sameCores_writeLine ..

/-! ### Writes of the root kernel keep what runs on the core (R154, R257) -/

/-- What the dropped stores and the ended waits that come with a write leave of the core whose turn it is. -/
structure KeepsRun (s t : State) : Prop where
  num : t.core.num = s.core.num
  active : t.core.bank.num = s.core.bank.num
  pc : t.core.cx.pc = s.core.cx.pc
  x : t.core.cx.x = s.core.cx.x
  halts : t.core.halts = s.core.halts

theorem KeepsRun.refl (s : State) : KeepsRun s s := ⟨rfl, rfl, rfl, rfl, rfl⟩

theorem KeepsRun.trans {s t u : State} (h : KeepsRun s t) (k : KeepsRun t u) : KeepsRun s u :=
  ⟨k.num.trans h.num, k.active.trans h.active, k.pc.trans h.pc, k.x.trans h.x, k.halts.trans h.halts⟩

theorem KeepsRun.of_core {s t : State} (h : t.core = s.core) : KeepsRun s t := by
  constructor <;> rw [h]

theorem SameCores.keepsRun {s t : State} (h : SameCores s t) : KeepsRun s t := .of_core h.core

theorem KeepsRun.modMs {s t : State} (h : KeepsRun s t) (f : MemSys → MemSys) : KeepsRun s (Machine.modMs f t) :=
  ⟨h.num, h.active, h.pc, h.x, h.halts⟩

theorem keepsRun_foldl {β : Type} {f : State → β → State} (hf : ∀ s x, KeepsRun s (f s x)) : ∀ (l : List β) (s : State), KeepsRun s (l.foldl f s)
  | [], s => .refl s
  | x :: l, s => (hf s x).trans (keepsRun_foldl hf l _)

theorem getCore_num (s : State) (n : Nat) : (getCore s n).num = n := by
  unfold getCore
  split
  · next h => exact h
  · cases h : s.cores.find? fun c => c.num == n with
    | none => rfl
    | some c => simpa using List.find?_some h

theorem find?_insertCore_self (c : Core) : ∀ l : List Core, (insertCore c l).find? (fun d => d.num == c.num) = some c
  | [] => by simp [insertCore]
  | d :: l => by
    unfold insertCore
    split
    · simp
    · split
      · simp
      · next hne =>
        rw [List.find?_cons_of_neg (by simpa using Ne.symm hne), find?_insertCore_self c l]

/-- A step of another core that leaves the rest of the cores gives the turn back to this core as it was. -/
theorem atCore_other {n : Nat} {f : State → State} {s : State} (hn : s.core.num ≠ n) (hnum : (f (turnTo n s)).core.num = n)
    (hcores : (f (turnTo n s)).cores = (turnTo n s).cores) : (atCore n f s).core = s.core := by
  unfold atCore
  rw [turnTo, if_neg (by rw [hnum]; exact hn.symm)]
  show getCore (f (turnTo n s)) s.core.num = s.core
  rw [getCore, if_neg (by rw [hnum]; exact hn.symm), hcores, turnTo, if_neg hn]
  show ((insertCore s.core _).find? _).getD _ = _
  rw [find?_insertCore_self, Option.getD_some]

theorem keepsRun_atCore {f : State → State} (hf : ∀ s, KeepsRun s (f s) ∧ (f s).cores = s.cores) (n : Nat) (s : State) : KeepsRun s (atCore n f s) := by
  by_cases hn : s.core.num = n
  · subst hn
    rw [atCore_self (hf s).1.num]
    exact (hf s).1
  · have hturn : (turnTo n s).core.num = n := by
      rw [turnTo, if_neg hn]
      exact getCore_num s n
    exact .of_core (atCore_other hn ((hf _).1.num.trans hturn) (hf _).2)

/-- A change of a context that leaves its pc and its x registers. -/
theorem keepsRun_modCtx {f : Ctx → Ctx} (hpc : ∀ x, (f x).pc = x.pc) (hx : ∀ x, (f x).x = x.x) (b : Bool) (id : Nat) (s : State) :
    KeepsRun s (modCore (·.modCtx b id f) s) := by
  by_cases hb : s.core.bank.num = b
  · by_cases hid : s.core.cx.id = id
    · constructor <;> simp [Core.modCtx, hb, hid, hpc, hx]
    · constructor <;> simp [Core.modCtx, hb, hid]
  · constructor <;> simp [Core.modCtx, hb]

theorem sameCores_saveRecs (b : Bool) (id : Nat) (s : State) : SameCores s (saveRecs b id s) := by
  unfold saveRecs
  dsimp only
  split
  · exact .refl s
  · split
    · exact .refl s
    · exact (sameCores_perform ..).trans (sameCores_perform ..)

theorem keepsRun_pushRec (b : Bool) (id : Nat) (r : Rec) (s : State) : KeepsRun s (pushRec b id r s) ∧ (pushRec b id r s).cores = s.cores := by
  have hctx : KeepsRun s (modCore (·.modCtx b id (appendRec r)) s) :=
    keepsRun_modCtx (fun x => by unfold appendRec; split <;> rfl) (fun x => by unfold appendRec; split <;> rfl) b id s
  have hsave := sameCores_saveRecs b id (modCore (·.modCtx b id (appendRec r)) s)
  exact ⟨hctx.trans hsave.keepsRun, hsave.cores⟩

theorem keepsRun_recordDropped (core : Nat) (who : Option StoreOf) (s : State) : KeepsRun s (recordDropped core who s) := by
  unfold recordDropped
  split
  · exact .refl s
  · exact keepsRun_atCore (fun s => keepsRun_pushRec ..) ..

/-- The end of waits changes of the current context at most whether it waits. -/
theorem wakeCore_cx_cases (p : Bool → Nat → Wait → Bool) (c : Core) :
    (wakeCore p c).cx = c.cx ∨ (wakeCore p c).cx = { c.cx with st := .ready } := by
  unfold wakeCore Core.mapCtxs
  dsimp only
  split
  · split
    · exact .inr rfl
    · exact .inl rfl
  · exact .inl rfl

theorem keepsRun_wakeAll (p : Wait → Bool) (s : State) : KeepsRun s (wakeAll p s) := by
  have hcx : (wakeAll p s).core.cx = s.core.cx ∨ (wakeAll p s).core.cx = { s.core.cx with st := .ready } := wakeCore_cx_cases ..
  refine ⟨rfl, rfl, ?_, ?_, rfl⟩ <;> rcases hcx with h | h <;> rw [h]

theorem keepsRun_performHeld : ∀ (fuel : Nat) (s : State), KeepsRun s (performHeld fuel s)
  | 0, s => .refl s
  | fuel + 1, s => by
    unfold performHeld
    split
    · exact .refl s
    · next i h _ =>
      refine .trans (.trans ?_ (keepsRun_wakeAll ..)) (keepsRun_performHeld fuel _)
      have herase : KeepsRun s (modMs (fun m => { m with heldW := m.heldW.eraseIdx i }) s) := ⟨rfl, rfl, rfl, rfl, rfl⟩
      split
      · exact herase.trans (keepsRun_recordDropped ..)
      · exact herase.trans (sameCores_mergeNow ..).keepsRun

theorem keepsRun_dropSharer (p : Nat → Bool) (gone : Nat → Bool) (s : State) : KeepsRun s (dropSharer p gone s) := by
  refine .trans (KeepsRun.modMs ?_ _) (keepsRun_performHeld ..)
  refine keepsRun_foldl ?_ _ s
  exact fun s x => ⟨rfl, rfl, rfl, rfl, rfl⟩

theorem keepsRun_performIo (how : Placing) (io k : Nat) (bs : List Byte) (s : State) : KeepsRun s (performIo how io k bs s) := by
  refine keepsRun_foldl (fun s c => ?_) _ s
  refine .trans (.trans (keepsRun_dropSharer (fun l => l == lineOf c.1) (fun _ => true) s) ?_) (sameCores_writeLine ..).keepsRun
  unfold visitFrom
  split
  · exact .refl _
  · exact ⟨rfl, rfl, rfl, rfl, rfl⟩

theorem keepsRun_writeRecord (pa : Nat) (bs : List Byte) (s : State) : KeepsRun s (writeRecord pa bs s) :=
  (keepsRun_performIo Placing.dflt (ioNode false) pa bs s).trans ⟨rfl, rfl, rfl, rfl, rfl⟩

end Sys2Proof.Machine
end

section
/-! SUPPORT. Stops of a bank, HALT wires, and the halts of a launch (R61, R64, R253 to R255). -/

namespace Sys2Proof.Machine

/-! ### A bank stops (R254, R257) -/

theorem bankOf_modBankOf_self {b : Bool} {f : Bank → Bank} (hf : ∀ k, (f k).num = k.num) (c : Core) : (c.modBankOf b f).bankOf b = f (c.bankOf b) := by
  unfold Core.modBankOf Core.bankOf
  by_cases hb : c.bank.num = b <;> simp [hb, hf]

/-- The core as the stop of a bank leaves it. -/
def stopOf (b terminal : Bool) (c : Core) : Core :=
  if terminal then cancelBank b (c.modBankOf b fun k => { k with stopped := true }) else c.modBankOf b fun k => { k with stopped := true }

theorem stopOf_stopped (b terminal : Bool) (c : Core) : ((stopOf b terminal c).bankOf b).stopped = true := by
  have hbank : ((c.modBankOf b fun k => { k with stopped := true }).bankOf b).stopped = true :=
    congrArg Bank.stopped (bankOf_modBankOf_self (f := fun k => { k with stopped := true }) (fun _ => rfl) c)
  unfold stopOf
  split
  · exact hbank
  · exact hbank

theorem keepsRun_stopOf (b terminal : Bool) (s : State) : KeepsRun s (modCore (stopOf b terminal) s) := by
  have hbank : KeepsRun s (modCore (·.modBankOf b fun k => { k with stopped := true }) s) := by
    constructor <;> simp only [modCore_core, Core.modBankOf] <;> split <;> rfl
  obtain ⟨hnum, hactive, hpc, hx, hhalts⟩ := hbank
  cases terminal <;> exact ⟨hnum, hactive, hpc, hx, hhalts⟩

/-- The halt record of a bank of the core, written where the bank holds a launch (R257). -/
def withRecord (b : Bool) (st : Stop) (s : State) : State :=
  match (s.core.bankOf b).bound with
  | none => s
  | some bd => writeRecord (bd.haltPa + 64 * s.core.num) (haltRecord s.core b st s.pkg.time) s

theorem keepsRun_withRecord (b : Bool) (st : Stop) (s : State) : KeepsRun s (withRecord b st s) := by
  unfold withRecord
  split
  · exact .refl s
  · exact keepsRun_writeRecord ..

theorem stopBank_own_eq (b : Bool) (st : Stop) (terminal again : Bool) (s : State) : stopBank s.core.num b st terminal again s
    = if (s.core.bankOf b).stopped && !again then s else modCoreAt s.core.num (stopOf b terminal) (withRecord b st s) := by
  unfold stopBank
  rw [getCore_self]
  rfl

/-- A stop of a bank of the core whose turn it is. -/
theorem stopBank_own (b : Bool) (st : Stop) (terminal again : Bool) (s : State) :
    ((stopBank s.core.num b st terminal again s).core.bankOf b).stopped = true ∧ KeepsRun s (stopBank s.core.num b st terminal again s) := by
  rw [stopBank_own_eq]
  split
  · next h => exact ⟨(Bool.and_eq_true_iff.mp h).1, .refl s⟩
  · have hrecord := keepsRun_withRecord b st s
    rw [← hrecord.num, modCoreAt_self]
    exact ⟨stopOf_stopped .., hrecord.trans (keepsRun_stopOf ..)⟩

/-! ### HALT wires and the root kernel (R64, R254) -/

theorem modCoreAt_other {n : Nat} {s : State} (h : n ≠ s.core.num) (f : Core → Core) : (modCoreAt n f s).core = s.core :=
  (modCoreAt_core n f s).trans (if_neg h.symm)

theorem foldl_modCoreAt_other {f : Nat → Core → Core} : ∀ {js : List Nat} {s : State}, (∀ j ∈ js, j ≠ s.core.num) →
    (js.foldl (fun s j => modCoreAt j (f j) s) s).core = s.core
  | [], _, _ => rfl
  | j :: js, s, h => by
    have hj := modCoreAt_other (h j List.mem_cons_self) (f j)
    rw [List.foldl_cons, foldl_modCoreAt_other fun i hi => ?_, hj]
    rw [hj]
    exact h i (List.mem_cons_of_mem _ hi)

/-- The wire of a channel reaches other cores. -/
theorem driveHalt_core {n : Nat} {s : State} (hn : n = s.core.num) (k : BitVec 3) (m : HaltMsg) : (driveHalt n k m s).core = s.core := by
  unfold driveHalt
  split
  · rfl
  · exact foldl_modCoreAt_other fun j hj => by simpa [hn] using (List.mem_filter.mp hj).2

theorem foldl_driveHalt_core {n : Nat} (m : HaltMsg) : ∀ (ks : List (BitVec 3)) {s : State}, n = s.core.num →
    (ks.foldl (fun s k => driveHalt n k m s) s).core = s.core
  | [], _, _ => rfl
  | k :: ks, s, hn => by
    have hk := driveHalt_core hn k m
    rw [List.foldl_cons, foldl_driveHalt_core m ks (hk ▸ hn), hk]

/-- A bank has stopped once its core shows it and the root kernel has been told. -/
theorem stopped_notifyRoot {s : State} {b : Bool} (h : (s.core.bankOf b).stopped = true) (launch : Nat) (o : Origin) (ns : List Nat) :
    Say.Stopped (notifyRoot launch o ns s) b (some launch) :=
  ⟨h, fun _ hk => Option.some.inj hk ▸ haltsForGood_notifyRoot_self launch o ns s⟩

/-- A fatal stop of a bank of the core (R254). -/
theorem stopped_fatalStopAt (b : Bool) (st : Stop) (s : State) :
    Say.Stopped (fatalStopAt s.core.num b st s) b ((s.core.bankOf b).bound.map (·.launch)) := by
  unfold fatalStopAt
  dsimp only
  rw [getCore_self]
  obtain ⟨hstopped, hkeeps⟩ := stopBank_own b st true (underCheckpoint s (s.core.bankOf b)) s
  cases hbound : (s.core.bankOf b).bound with
  | none => exact ⟨hstopped, fun k hk => by cases hk⟩
  | some bd =>
    refine stopped_notifyRoot ?_ bd.launch _ _
    rw [foldl_driveHalt_core _ _ hkeeps.num.symm]
    exact hstopped

theorem fatalOrLater_now {s : State} (h : s.core.swap = none) (b : Bool) (st : Stop) : fatalOrLater b st s = fatalStopAt s.core.num b st s := by
  unfold fatalOrLater
  rw [h]

theorem fatalOrLater_later {s : State} {w : Swap} (h : s.core.swap = some w) (b : Bool) (st : Stop) : fatalOrLater b st s
    = modCore (fun c => { c with swap := some { w with fatal := w.fatal ++ [(b, { st with swapped := true })] } }) s := by
  unfold fatalOrLater
  rw [h]

/-! ### GSTOP (R254, R255, R336) -/

theorem exec_gstop_other {s : State} {k : BitVec 3} (h : ¬Say.Member s k) : Say.Illegal (.gstop k) s := by
  rw [← channelOk_iff] at h
  simp [Say.Illegal, exec_gstop, execGstop, gstopStep, h, orTrap, illegalT, Say.wordOf]

/-- GSTOP retires and stops the active bank. -/
theorem exec_gstop_member {s : State} {k : BitVec 3} (h : Say.Member s k) :
    ∃ t, exec (.gstop k) s = .next t ∧ Say.Stopped t s.core.bank.num (s.core.bank.bound.map (·.launch)) ∧ KeepsRun (adv s) t := by
  rw [← channelOk_iff] at h
  obtain ⟨hstopped, hkeeps⟩ := stopBank_own s.core.bank.num ⟨0, 0, 0, s.core.cx.pc, false⟩ true false (adv s)
  rw [adv_core_num] at hstopped hkeeps
  rw [exec_gstop]
  unfold execGstop gstopStep
  dsimp only
  rw [if_neg (by simp [h])]
  cases hbound : s.core.bank.bound with
  | none => exact ⟨_, rfl, ⟨hstopped, fun k hk => by cases hk⟩, hkeeps⟩
  | some bd =>
    have hcore := driveHalt_core hkeeps.num.symm k ⟨bd.launch, none, 0, 0, 0, 0, true⟩
    refine ⟨_, rfl, stopped_notifyRoot ?_ bd.launch _ _, hkeeps.trans ?_⟩
    · exact (congrArg (fun c => (c.bankOf s.core.bank.num).stopped) hcore).trans hstopped
    · exact .of_core hcore

/-! ### A halt that reaches the core (R61, R64, R254) -/

/-- The one bank of the core that holds a launch. -/
theorem bankOfLaunch_eq {c : Core} {b : Bool} {bd : Bound} (hbound : (c.bankOf b).bound = some bd)
    (hother : ∀ x, (c.bankOf (!b)).bound = some x → x.launch ≠ bd.launch) : bankOfLaunch c bd.launch = some b := by
  have hnot : ((c.bankOf (!b)).bound.map (·.launch) == some bd.launch) = false := by
    cases hx : (c.bankOf (!b)).bound with
    | none => rfl
    | some x => simpa using hother x hx
  unfold bankOfLaunch
  cases b
  · simp [hbound]
  · rw [Bool.not_true] at hnot
    simp [hbound, hnot]

/-- A halt goes by its channel, where it has one. -/
theorem haltApplies_iff {c : Core} {b : Bool} {m : HaltMsg} :
    haltApplies c b m = true ↔ ∀ k, m.chan = some k → enOf c k = true ∧ (c.chans[k.toNat]'k.isLt).owner = some b := by
  unfold haltApplies
  cases m.chan <;> simp

/-- The core without its oldest halt. -/
def haltTaken (ms : List HaltMsg) (s : State) : State := modCore (fun c => { c with halts := ms }) s

section HaltWire
variable {s : State} {m : HaltMsg} {ms : List HaltMsg} {b : Bool}
  (hhalts : s.core.halts = m :: ms) (hterminal : m.terminal = true) (hb : bankOfLaunch s.core m.launch = some b)
include hhalts hterminal hb

/-- A terminal halt is taken from the wire whatever releases are on their way; its channel and a swap decide what becomes of it. -/
theorem exec_haltWire_terminal : exec .haltWire s = .next (
    if !haltApplies s.core b m then haltTaken ms s
    else match s.core.swap with
      | some w => modCore (fun c => { c with swap := some { w with halts := w.halts ++ [m] } }) (haltTaken ms s)
      | none => haltBank b m false (haltTaken ms s)) := by
  have htaken : bankOfLaunch (haltTaken ms s).core m.launch = some b := hb
  rw [exec_haltWire]
  unfold execHaltWire
  simp only [hhalts, hterminal, Bool.not_true, Bool.false_and, Bool.false_eq_true, if_false]
  rw [← haltTaken, htaken]
  show (if !haltApplies s.core b m then _ else _) = _
  split
  · rfl
  · cases hswap : s.core.swap <;> simp only [haltTaken, modCore_core, hswap]

theorem exec_haltWire_dropped (happlies : haltApplies s.core b m = false) : exec .haltWire s = .next (haltTaken ms s) := by
  rw [exec_haltWire_terminal hhalts hterminal hb, happlies]
  rfl

theorem exec_haltWire_swap (happlies : haltApplies s.core b m = true) {w : Swap} (hswap : s.core.swap = some w) : exec .haltWire s
    = .next (modCore (fun c => { c with halts := ms, swap := some { w with halts := w.halts ++ [m] } }) s) := by
  rw [exec_haltWire_terminal hhalts hterminal hb, happlies, hswap]
  rfl

/-- The halt stops a bank whose core has not left its stage. -/
theorem exec_haltWire_stops (happlies : haltApplies s.core b m = true) (hswap : s.core.swap = none) {bd : Bound}
    (hbound : (s.core.bankOf b).bound = some bd) (hleft : bd.left = false) :
    ∃ t, exec .haltWire s = .next t ∧ (t.core.bankOf b).stopped = true ∧ t.core.halts = ms := by
  obtain ⟨hstopped, hkeeps⟩ := stopBank_own b ⟨m.reason, m.cause, m.entry, m.pcflt, false⟩ m.terminal false (haltTaken ms s)
  refine ⟨_, ?_, hstopped, hkeeps.halts⟩
  have hbound' : ((haltTaken ms s).core.bankOf b).bound = some bd := hbound
  rw [exec_haltWire_terminal hhalts hterminal hb, happlies, hswap]
  simp [haltBank, hbound', hleft]

end HaltWire

/-! ### The root kernel halts a launch (R254) -/

/-- The core as the root kernel's halt of a launch leaves it. -/
def haltSent (m : HaltMsg) (c : Core) : Core :=
  match bankOfLaunch c m.launch with
  | none => c
  | some b =>
    if (c.bankOf b).stopped then (if m.terminal then cancelBank b c else c)
    else if c.halts.any (fun h => h.launch == m.launch && h.chan == none && h.terminal == m.terminal) then c
    else { c with halts := c.halts ++ [m] }

theorem sendHalt_core (m : HaltMsg) (n : Nat) (s : State) : (sendHalt m n s).core = if s.core.num = n then haltSent m s.core else s.core :=
  modCoreAt_core n (haltSent m) s

section LaunchHalt
variable {c : Core} {m : HaltMsg} {b : Bool}
  (hb : bankOfLaunch c m.launch = some b) (hstopped : (c.bankOf b).stopped = false) (hchan : m.chan = none)
include hb hstopped

theorem haltSent_first (hhalts : c.halts = []) : haltSent m c = { c with halts := [m] } := by
  simp [haltSent, hb, hstopped, hhalts]

include hchan in
/-- With a halt of the launch under way no other is sent. -/
theorem haltSent_again : haltSent m { c with halts := [m] } = { c with halts := [m] } := by
  have hb' : bankOfLaunch { c with halts := [m] } m.launch = some b := hb
  have hstopped' : (({ c with halts := [m] } : Core).bankOf b).stopped = false := hstopped
  simp [haltSent, hb', hstopped', hchan]

include hchan in
/-- The halts of a launch that are sent once this core has one leave it. -/
theorem foldl_sendHalt_again : ∀ (ps : List Placed) {s : State}, s.core = { c with halts := [m] } →
    (ps.foldl (fun s p => sendHalt m p.core s) s).core = { c with halts := [m] }
  | [], _, hs => hs
  | p :: ps, s, hs => by
    refine foldl_sendHalt_again ps ?_
    rw [sendHalt_core, hs, haltSent_again hb hstopped hchan, ite_self]

include hchan in
/-- Each core of the launch has one halt of it, however often it is named. -/
theorem foldl_sendHalt_core (hhalts : c.halts = []) : ∀ (ps : List Placed) {s : State}, s.core = c → (∃ p ∈ ps, p.core = c.num) →
    (ps.foldl (fun s p => sendHalt m p.core s) s).core = { c with halts := [m] }
  | [], _, _, hmem => by simp at hmem
  | p :: ps, s, hs, hmem => by
    have hsent := sendHalt_core m p.core s
    rw [hs, haltSent_first hb hstopped hhalts] at hsent
    by_cases hp : p.core = c.num
    · exact foldl_sendHalt_again hb hstopped hchan ps (hsent.trans (if_pos hp.symm))
    · refine foldl_sendHalt_core hhalts ps (hsent.trans (if_neg (Ne.symm hp))) ?_
      simpa [hp] using hmem

end LaunchHalt

/-- A terminal halt goes to every core of the launch. -/
theorem exec_launchHalt_terminal {s : State} {id : Nat} {l : Launch} {o : Origin} (hl : launch? s id = some l) (hst : l.st = .halting)
    (hresumable : l.resumable = false) (ho : l.origin = some o) :
    exec (.launchHalt id) s = .next (l.placed.foldl (fun s p => sendHalt ⟨id, none, o.reason, o.cause, 0, 0, true⟩ p.core s) s) := by
  rw [exec_launchHalt]
  unfold execLaunchHalt
  rw [hl]
  simp [hst, ho, hresumable]

/-! ### Uncorrectable errors in lines (R155, R157) -/

theorem mem_poison_poisonLines (line : Nat) (s : State) : line ∈ (poisonLines [line] s).poison := by
  simp only [poisonLines, List.foldl_cons, List.foldl_nil]
  split
  · next h => simpa using h
  · exact List.mem_cons_self

/-- A line that an uncorrectable error makes POISON changes no core and no byte. -/
theorem poisoned_poisonLines {i : Instr} {s : State} {line : Nat} (h : exec i s = .next (poisonLines [line] s)) :
    ∃ t, exec i s = .next t ∧ line ∈ t.poison ∧ t.core = s.core ∧ t.mem = s.mem :=
  ⟨_, h, mem_poison_poisonLines line s, rfl, rfl⟩

/-! ### Uncorrectable errors in a core (R253) -/

theorem exec_eccFatalError_slot {s : State} {b : Bool} {id : Nat} {x : Ctx} (hx : s.core.ctx? b id = some x) (hlive : x.st ≠ .free) :
    exec (.eccFatalError (.slot b id)) s = .next (fatalOrLater b ⟨2, 0x25, 0, x.pc, false⟩ s) := by
  have hl : x.live = true := by simpa [Ctx.live] using hlive
  rw [exec_eccFatalError]
  unfold execEccFatalError
  simp only [hx, hl, if_true]

/-- Without a swap the error stops its bank at once. -/
theorem stopped_of_eccFatalError {i : Instr} {s : State} (hswap : s.core.swap = none) {b : Bool} {st : Stop}
    (h : exec i s = .next (fatalOrLater b st s)) : ∃ t, exec i s = .next t ∧ Say.Stopped t b ((s.core.bankOf b).bound.map (·.launch)) :=
  ⟨_, h, fatalOrLater_now hswap b st ▸ stopped_fatalStopAt b st s⟩

end Sys2Proof.Machine
end

section
/-! PROOFS. Halts and stops. -/

namespace Sys2Proof.Proofs
open Sys2Proof Sys2Proof.Machine

/-- Settles O22: every stop is a stop of a bank of the core whose turn it is; what comes during a swap is kept with the swap. -/
theorem haltsAndStops : Obligations.HaltsAndStops := by
  intro k b id s
  refine ⟨fun hen howner => ?gstop, exec_gstop_other, fun hswap => ⟨fun x hx hlive => ?slot, fun bd hbound => ?constBank, fun q e he => ?queue⟩,
    fun w x hswap hx hlive => ?slotLater, fun hid => ?pool, fun hdram hexists => ?line, ?l1,
    fun m ms bd hhalts hterminal hbound hm hother => ⟨fun c hc hnot => ?dropped, fun hon => ⟨fun hswap hleft => ?stops, fun w hswap => ?later⟩⟩,
    fun l o p hl hst hres ho hp hcore bd hbound hbd hother hstopped hhalts => ?launchHalt⟩
  case gstop =>
    obtain ⟨t, hexec, hstopped, hkeeps⟩ := exec_gstop_member (k := k) (s := s) ⟨hen, howner⟩
    exact ⟨t, hexec, hstopped, by rw [hkeeps.pc, adv_cx_pc], by rw [hkeeps.x, adv_cx_x]⟩
  case slot => exact stopped_of_eccFatalError hswap (exec_eccFatalError_slot hx hlive)
  case constBank =>
    have h := stopped_of_eccFatalError (i := .eccFatalError (.constBank b)) hswap (b := b) (st := ⟨2, 0x25, 0, 0, false⟩)
      (by simp [exec_eccFatalError, execEccFatalError, hbound])
    simpa [hbound] using h
  case queue =>
    have hany : (s.core.queue q).any (fun x => x.bank == e.bank && x.seq == e.seq) = true := List.any_eq_true.mpr ⟨e, he, by simp⟩
    exact stopped_of_eccFatalError hswap (st := ⟨2, 0x25, 0, 0, false⟩) (by simp [exec_eccFatalError, execEccFatalError, hany])
  case slotLater => rw [exec_eccFatalError_slot hx hlive, fatalOrLater_later hswap]
  case pool => exact poisoned_poisonLines (by simp [exec_eccFatalError, execEccFatalError, Config.poolBytes, hid])
  case line => exact poisoned_poisonLines (by simp [exec_eccFatalError, execEccFatalError, hdram, hexists])
  case l1 =>
    refine ⟨_, rfl, rfl, fun l hl hline => ?_⟩
    obtain ⟨l', -, rfl⟩ := List.mem_map.mp hl
    split
    · rfl
    · next hne => exact absurd ((congrArg L1Line.line (if_neg hne)).symm.trans hline) hne
  case dropped =>
    have hb := hm ▸ bankOfLaunch_eq hbound hother
    exact exec_haltWire_dropped hhalts hterminal hb (Bool.eq_false_iff.mpr fun h => hnot (haltApplies_iff.mp h c hc))
  case stops =>
    have hb := hm ▸ bankOfLaunch_eq hbound hother
    exact exec_haltWire_stops hhalts hterminal hb (haltApplies_iff.mpr hon) hswap hbound hleft
  case later =>
    have hb := hm ▸ bankOfLaunch_eq hbound hother
    exact exec_haltWire_swap hhalts hterminal hb (haltApplies_iff.mpr hon) hswap
  case launchHalt =>
    have hb := bankOfLaunch_eq hbound (hbd ▸ hother)
    exact ⟨_, exec_launchHalt_terminal hl hst hres ho,
      foldl_sendHalt_core (m := ⟨id, none, o.reason, o.cause, 0, 0, true⟩) (hbd ▸ hb) hstopped rfl hhalts l.placed rfl ⟨p, hp, hcore⟩⟩

end Sys2Proof.Proofs
end

section
/-! SUPPORT. What writes at slices leave of memory, and of the rest of the device (R139, R147, R149, R154, R155, R158). -/

namespace Sys2Proof.Machine

/-! ### Bytes written over bytes -/

/-- What a byte reads as after a run has been written over it. -/
def overwrite (k : Nat) (bs : List Byte) (a : Nat) (v : Byte) : Byte := if k ≤ a ∧ a < k + bs.length then bs.getD (a - k) 0 else v

theorem overwrite_in {k : Nat} {bs : List Byte} {i : Nat} (h : i < bs.length) (v : Byte) : overwrite k bs (k + i) v = bs.getD i 0 := by
  simp [overwrite, h]

theorem overwrite_out {k : Nat} {bs : List Byte} {a : Nat} (h : a < k ∨ k + bs.length ≤ a) (v : Byte) : overwrite k bs a v = v :=
  if_neg (by omega)

theorem memGet_memWrite (bs : List Byte) {m : List Host.Cell} (k a : Nat) (h : Memory.wf m = true) :
    memGet (memWrite m k bs) a = overwrite k bs a (memGet m a) := by
  by_cases hin : k ≤ a ∧ a < k + bs.length
  · obtain ⟨i, rfl⟩ := Nat.exists_eq_add_of_le hin.1
    have hi : i < bs.length := by omega
    rw [memGet_memWrite_self bs i hi h, overwrite_in hi, List.getD_eq_getElem _ _ hi]
  · rw [memGet_memWrite_other bs h (by omega), overwrite_out (by omega)]

@[simp] theorem overwrite_nil (k a : Nat) (v : Byte) : overwrite k [] a v = v := overwrite_out (by simp; omega) v

/-- Parts that follow each other overwrite what the whole overwrites. -/
theorem overwrite_take_drop {n : Nat} (k : Nat) (bs : List Byte) (h : n ≤ bs.length) (a : Nat) (v : Byte) :
    overwrite (k + n) (bs.drop n) a (overwrite k (bs.take n) a v) = overwrite k bs a v := by
  unfold overwrite
  simp only [List.length_take, List.length_drop, Nat.min_eq_left h, List.getD_eq_getElem?_getD, List.getElem?_drop, List.getElem?_take]
  by_cases h1 : k ≤ a ∧ a < k + n
  · rw [if_neg (by omega), if_pos h1, if_pos (by omega), if_pos (by omega)]
  · by_cases h2 : k + n ≤ a ∧ a < k + bs.length
    · rw [if_pos (by omega), if_pos (by omega)]
      congr 2; omega
    · rw [if_neg (by omega), if_neg h1, if_neg (by omega)]

/-! ### A write lands -/

/-- Nothing changes but memory, the slices with their poison, frames and replicas, the reservations and monitors, and the packets and journeys of the fabric. -/
structure Apart (s t : State) : Prop where
  core : t.core = s.core
  cores : t.cores = s.cores
  pkg : t.pkg = s.pkg
  fab : t.fab = { s.fab with net := t.fab.net, trips := t.fab.trips }
  io : t.io = s.io
  root : t.root = s.root
  heldW : t.ms.heldW = s.ms.heldW
  twigTlb : t.ms.twigTlb = s.ms.twigTlb

theorem Apart.refl (s : State) : Apart s s := ⟨rfl, rfl, rfl, rfl, rfl, rfl, rfl, rfl⟩

theorem Apart.trans {s t u : State} (h : Apart s t) (k : Apart t u) : Apart s u :=
  ⟨k.core.trans h.core, k.cores.trans h.cores, k.pkg.trans h.pkg, by rw [k.fab, h.fab], k.io.trans h.io, k.root.trans h.root, k.heldW.trans h.heldW,
    k.twigTlb.trans h.twigTlb⟩

theorem apart_foldl {β : Type} {f : State → β → State} (hf : ∀ s x, Apart s (f s x)) : ∀ (l : List β) (s : State), Apart s (l.foldl f s)
  | [], s => .refl s
  | x :: l, s => (hf s x).trans (apart_foldl hf l _)

/-- A write to memory: a byte `a` that read `v` reads `g a v` after it, the bark metadata apart, where no block is listed (R158). -/
structure Lands (g : Nat → Byte → Byte) (s t : State) : Prop extends Apart s t where
  listed : s.ms.poisonList = [] → t.ms.poisonList = []
  poison : s.ms.poisonList = [] → ∀ l ∈ t.poison, l ∈ s.poison
  bytes : s.ms.poisonList = [] → Memory.wf s.mem = true → Memory.wf t.mem = true ∧ ∀ a, Say.plain s a → memGet t.mem a = g a (memGet s.mem a)

/-- A move that writes no byte but for the bark metadata. -/
abbrev LandsNothing (s t : State) : Prop := Lands (fun _ v => v) s t

theorem plain_congr {s t : State} (h : t.pkg = s.pkg) (a : Nat) : Say.plain t a ↔ Say.plain s a := by
  unfold Say.plain; rw [h]

theorem Lands.refl (s : State) : LandsNothing s s := ⟨.refl s, id, fun _ _ h => h, fun _ h => ⟨h, fun _ _ => rfl⟩⟩

theorem Lands.trans {g k : Nat → Byte → Byte} {s t u : State} (h : Lands g s t) (h' : Lands k t u) : Lands (fun a v => k a (g a v)) s u where
  toApart := h.toApart.trans h'.toApart
  listed := fun hl => h'.listed (h.listed hl)
  poison := fun hl l hm => h.poison hl l (h'.poison (h.listed hl) l hm)
  bytes := fun hl hwf => by
    obtain ⟨hwf', hg⟩ := h.bytes hl hwf
    obtain ⟨hwf'', hk⟩ := h'.bytes (h.listed hl) hwf'
    exact ⟨hwf'', fun a ha => by rw [hk a ((plain_congr h.pkg a).mpr ha), hg a ha]⟩

theorem Lands.congr {g k : Nat → Byte → Byte} {s t : State} (h : Lands g s t) (he : ∀ a v, g a v = k a v) : Lands k s t := by
  obtain rfl : g = k := funext fun a => funext (he a)
  exact h

/-- A write, and then something that writes nothing. -/
theorem Lands.andThen {g : Nat → Byte → Byte} {s t u : State} (h : Lands g s t) (h' : LandsNothing t u) : Lands g s u := h.trans h'

theorem landsNothing_foldl {β : Type} {f : State → β → State} (hf : ∀ s x, LandsNothing s (f s x)) : ∀ (l : List β) (s : State),
    LandsNothing s (l.foldl f s)
  | [], s => .refl s
  | x :: l, s => (hf s x).trans (landsNothing_foldl hf l _)

/-! ### The bookkeeping of slices writes the metadata at most -/

theorem metaKey_offset (b : Nat) : metaOffset ≤ metaKey b % 2 ^ 37 ∧ metaKey b % 2 = 0 := by
  have hx : (b % 256 ^^^ (4177920 + b / 256 % 2 ^ 20 / 64) % 256) < 2 ^ 8 :=
    Nat.xor_lt_two_pow (by omega) (by omega)
  have hn : b / 256 % 2 ^ 20 / 64 < 2 ^ 14 := by omega
  have hj : b / 256 % 64 < 64 := Nat.mod_lt _ (by decide)
  unfold metaKey metaOffset
  dsimp only
  generalize (b % 256 ^^^ (4177920 + b / 256 % 2 ^ 20 / 64) % 256) = x at hx ⊢
  generalize b / 256 % 2 ^ 20 / 64 = n at hn ⊢
  generalize b / 256 % 64 = j at hj ⊢
  omega

/-- The bark metadata lies at the end of a die (R139). -/
theorem plain_of_offset {a : Nat} (h : a % 2 ^ 37 < metaOffset) (s : State) : Say.plain s a := by
  intro _ b
  obtain ⟨hb, heven⟩ := metaKey_offset b
  constructor
  · rintro rfl; omega
  · rintro rfl; unfold metaOffset at *; omega

theorem landsNothing_noteCode (line code : Nat) (s : State) : LandsNothing s (noteCode line code s) := by
  unfold noteCode
  split
  · exact .refl s
  · next hsl =>
    have hsl : s.pkg.sl = 3 := by simpa using hsl
    refine ⟨⟨rfl, rfl, rfl, rfl, rfl, rfl, rfl, rfl⟩, id, fun _ _ h => h, fun _ hwf => ⟨wf_memWrite _ _ hwf, fun a ha => ?_⟩⟩
    refine memGet_memWrite_other _ hwf ?_
    obtain ⟨h0, h1⟩ := ha hsl (blockOf line)
    simp only [bytesOfNat, List.length_cons, List.length_nil]
    omega

/-- A move that leaves everything but what slices and the fabric keep. -/
theorem landsNothing_modMs {f : MemSys → MemSys} {s : State} (hheld : (f s.ms).heldW = s.ms.heldW) (htlb : (f s.ms).twigTlb = s.ms.twigTlb)
    (hlist : (f s.ms).poisonList = s.ms.poisonList) : LandsNothing s (modMs f s) :=
  ⟨⟨rfl, rfl, rfl, rfl, rfl, rfl, hheld, htlb⟩, hlist.trans, fun _ _ h => h, fun _ h => ⟨h, fun _ _ => rfl⟩⟩

theorem landsNothing_modSlice (n : Nat) (f : Slice → Slice) (s : State) : LandsNothing s (modSlice n f s) :=
  landsNothing_modMs rfl rfl rfl

/-- Packets sent and journeys noted. -/
theorem landsNothing_modFab {f : Fab → Fab} (hf : ∀ x, f x = { x with net := (f x).net, trips := (f x).trips }) (s : State) :
    LandsNothing s (modFab f s) :=
  ⟨⟨rfl, rfl, rfl, hf _, rfl, rfl, rfl, rfl⟩, id, fun _ _ h => h, fun _ h => ⟨h, fun _ _ => rfl⟩⟩

theorem landsNothing_waitRoom (s : State) : LandsNothing s (waitRoom s) := landsNothing_modFab (fun _ => rfl) s

theorem landsNothing_inject (p : Packet) (s : State) : LandsNothing s (inject p s) := landsNothing_modFab (fun _ => rfl) s

theorem landsNothing_visit (c : TClass) (a b : Nat) (s : State) : LandsNothing s (visit c a b s) :=
  landsNothing_modFab (fun _ => rfl) s

/-- With no block listed only what lies apart from memory is claimed of a move. -/
theorem Apart.landsNothing {s t : State} (h : Apart s t) (hl : s.ms.poisonList ≠ []) : LandsNothing s t :=
  ⟨h, fun h => absurd h hl, fun h => absurd h hl, fun h => absurd h hl⟩

theorem apart_loseSector (block : Nat) (s : State) : Apart s (loseSector block s) :=
  (apart_foldl (fun s b => (⟨rfl, rfl, rfl, rfl, rfl, rfl, rfl, rfl⟩ : Apart s (setMeta b 0xFFFF s))) _ s).trans ⟨rfl, rfl, rfl, rfl, rfl, rfl, rfl, rfl⟩

/-- With no block listed, a line that is written whole marks none (R158). -/
theorem landsNothing_markWritten (line : Nat) (s : State) : LandsNothing s (markWritten line s) := by
  by_cases h : s.ms.poisonList = []
  · unfold markWritten
    simp only [h, List.map_nil, List.any_nil, Bool.false_eq_true, if_false, List.filter_nil]
    exact landsNothing_modMs rfl rfl h.symm
  · refine Apart.landsNothing ?_ h
    unfold markWritten
    dsimp only
    split
    · exact .trans (t := setMeta _ _ (modMs _ s)) ⟨rfl, rfl, rfl, rfl, rfl, rfl, rfl, rfl⟩ (apart_loseSector ..)
    · exact ⟨rfl, rfl, rfl, rfl, rfl, rfl, rfl, rfl⟩

theorem landsNothing_leaveSlice (x y : Slice) (s : State) : LandsNothing s (leaveSlice x y s) := by
  refine landsNothing_foldl (fun s l => ?_) _ s
  have hnote : LandsNothing s (if l.bark && l.code = 15 && x.num = homeSlice (l.line * 128) then noteCode l.line 15 s else s) := by
    split
    · exact landsNothing_noteCode ..
    · exact .refl s
  dsimp only
  generalize (if l.bark && l.code = 15 && x.num = homeSlice (l.line * 128) then noteCode l.line 15 s else s) = u at hnote ⊢
  refine hnote.trans ?_
  split
  · exact .refl _
  · next e he =>
    have hlisted : u.ms.poisonList ≠ [] := fun h => by simp [h] at he
    split
    · exact .refl _
    · split
      · exact landsNothing_markWritten ..
      · split
        · exact .refl _
        · exact Apart.landsNothing ⟨rfl, rfl, rfl, rfl, rfl, rfl, rfl, rfl⟩ hlisted

theorem landsNothing_setSlice (x y : Slice) (s : State) : LandsNothing s (setSlice x y s) :=
  (landsNothing_modSlice ..).trans (landsNothing_leaveSlice x y _)

theorem landsNothing_fillMiss {slice : Nat} {m : Miss} {s t : State} (h : fillMiss slice m s = some t) : LandsNothing s t := by
  obtain ⟨y, -, rfl⟩ := Option.map_eq_some_iff.mp h
  exact (landsNothing_setSlice ..).trans (landsNothing_foldl (f := fun s w => answer slice m.line w s) (fun s w => landsNothing_inject _ s) _ _)

/-- A fill, or the wait for room. -/
theorem landsNothing_fillMiss_getD (slice : Nat) (m : Miss) (s : State) : LandsNothing s ((fillMiss slice m s).getD (waitRoom s)) := by
  cases h : fillMiss slice m s with
  | none => exact landsNothing_waitRoom s
  | some t => exact landsNothing_fillMiss h

theorem landsNothing_fetchNow (line : Nat) (how : Placing) (s : State) : LandsNothing s (fetchNow line how s) := by
  unfold fetchNow
  dsimp only
  split
  · exact .refl s
  · split
    · exact landsNothing_fillMiss_getD ..
    · split
      · exact landsNothing_waitRoom s
      · exact landsNothing_fillMiss_getD ..

/-- Poison that a write clears, and what it ends and wakes. -/
theorem landsNothing_disturb (line : Nat) (s : State) : LandsNothing s (disturb line s) :=
  ⟨⟨rfl, rfl, rfl, rfl, rfl, rfl, rfl, rfl⟩, id, fun _ _ h => h, fun _ h => ⟨h, fun _ _ => rfl⟩⟩

theorem landsNothing_wholeLine (line : Nat) (s : State) : LandsNothing s (wholeLine line s) := by
  have hclear : LandsNothing s { s with poison := s.poison.filter (fun l => l != line) } :=
    ⟨⟨rfl, rfl, rfl, rfl, rfl, rfl, rfl, rfl⟩, id, fun _ _ h => List.mem_of_mem_filter h, fun _ h => ⟨h, fun _ _ => rfl⟩⟩
  unfold wholeLine
  dsimp only
  split
  · exact hclear.trans (landsNothing_markWritten ..)
  · exact hclear

theorem landsNothing_countFrame (line die : Nat) (write : Bool) (s : State) : LandsNothing s (countFrame line die write s) := by
  unfold countFrame
  split
  · exact .refl s
  · exact landsNothing_modMs rfl rfl rfl

theorem landsNothing_recode (line : Nat) (how : Placing) (fetched : Bool) (s : State) : LandsNothing s (recode line how fetched s) := by
  unfold recode
  dsimp only
  split
  · exact .refl s
  · split
    · exact landsNothing_waitRoom s
    · exact landsNothing_setSlice ..

/-! ### Writes -/

/-- A write of a line does to memory what its function does, and else only the bookkeeping that goes with it. -/
theorem lands_writeLine {g : Nat → Byte → Byte} {f : List Host.Cell → List Host.Cell}
    (hf : ∀ m, Memory.wf m = true → Memory.wf (f m) = true ∧ ∀ a, memGet (f m) a = g a (memGet m a))
    (how : Placing) (die line : Nat) (whole : Bool) (s : State) : Lands g s (writeLine how die line whole f s) := by
  have hwrite : Lands g s { fetchNow line how s with mem := f (fetchNow line how s).mem } := by
    refine (landsNothing_fetchNow line how s).trans (k := g) ⟨⟨rfl, rfl, rfl, rfl, rfl, rfl, rfl, rfl⟩, id, fun _ _ h => h, fun _ hwf => ?_⟩
    exact ⟨(hf _ hwf).1, fun a _ => (hf _ hwf).2 a⟩
  unfold writeLine
  dsimp only
  have hdisturb := hwrite.trans (landsNothing_disturb line _)
  generalize disturb line { fetchNow line how s with mem := f (fetchNow line how s).mem } = v at hdisturb ⊢
  have hwhole : Lands g s (if whole then wholeLine line v else v) := by
    split
    · exact hdisturb.trans (landsNothing_wholeLine ..)
    · exact hdisturb
  generalize (if whole then wholeLine line v else v) = w at hwhole ⊢
  split
  · exact hwhole
  · refine Lands.andThen ?_ (landsNothing_recode ..)
    split
    · exact (hwhole.andThen (landsNothing_countFrame ..)).andThen (landsNothing_noteCode ..)
    · exact hwhole.andThen (landsNothing_countFrame ..)

theorem lands_performFrom (how : Placing) (die k : Nat) (bs : List Byte) (s : State) : Lands (overwrite k bs) s (performFrom how die k bs s) :=
  lands_writeLine (fun _ h => ⟨wf_memWrite bs k h, fun a => memGet_memWrite bs k a h⟩) ..

/-- With no write held there is none to perform. -/
theorem performHeld_none {n : Nat} {s : State} (h : s.ms.heldW = []) : performHeld n s = s := by
  cases n with
  | zero => rfl
  | succ n =>
    have hready : heldReady s = none := by simp [heldReady, h]
    rw [performHeld, hready]

/-- With no write held, replicas that leave write nothing (R154). -/
theorem landsNothing_dropSharer (p gone : Nat → Bool) {s : State} (h : s.ms.heldW = []) : LandsNothing s (dropSharer p gone s) := by
  unfold dropSharer
  dsimp only
  generalize List.flatMap _ _ = lost
  have hleave : LandsNothing s (lost.foldl (fun s x => visit .req (homeSlice (x.1 * 128)) (replicaSlice (homeSlice (x.1 * 128)) x.2)
      (modSlice (replicaSlice (homeSlice (x.1 * 128)) x.2) (fun y => { y with lines := y.lines.filter fun z => z.line != x.1 }) s)) s) :=
    landsNothing_foldl (fun s x => (landsNothing_modSlice ..).trans (landsNothing_visit ..)) lost s
  have hnone := hleave.heldW.trans h
  generalize lost.foldl _ s = t at hleave hnone ⊢
  rw [performHeld_none (by simp [hnone])]
  exact hleave.trans (landsNothing_modMs (by simp [hnone]) rfl rfl)

theorem landsNothing_visitFrom (io line : Nat) (s : State) : LandsNothing s (visitFrom io line s) := by
  unfold visitFrom
  split
  · exact .refl s
  · exact landsNothing_visit ..

theorem landsNothing_readFrom (io line : Nat) (s : State) : LandsNothing s (readFrom io line s) :=
  (landsNothing_visitFrom io line s).trans (landsNothing_countFrame ..)

/-- Writes made one after another, while none is held. -/
theorem lands_foldl {β : Type} {f : State → β → State} {g : β → Nat → Byte → Byte} {p : Pkg}
    (hf : ∀ s x, s.ms.heldW = [] → s.pkg = p → Lands (g x) s (f s x)) : ∀ (l : List β) {s : State}, s.ms.heldW = [] → s.pkg = p →
    Lands (fun a v => l.foldl (fun v x => g x a v) v) s (l.foldl f s)
  | [], s, _, _ => .refl s
  | x :: l, s, h, hp => by
    have hx := hf s x h hp
    exact hx.trans (lands_foldl hf l (hx.heldW.trans h) (hx.pkg.trans hp))

/-- A run cut at the bounds of lines overwrites what it does whole. -/
theorem foldl_overwrite_chunksF : ∀ (n k : Nat) (bs : List Byte), bs.length ≤ n → ∀ a v,
    (chunksF n k bs).foldl (fun v c => overwrite c.1 c.2 a v) v = overwrite k bs a v
  | 0, k, bs, h, a, v => by
    obtain rfl : bs = [] := List.length_eq_zero_iff.mp (by omega)
    exact (overwrite_nil k a v).symm
  | n + 1, k, [], _, a, v => (overwrite_nil k a v).symm
  | n + 1, k, b :: bs, h, a, v => by
    have hpos : 0 < 128 - k % 128 := by omega
    rw [chunksF, List.foldl_cons, foldl_overwrite_chunksF n _ _ (by rw [List.length_drop]; simp only [List.length_cons] at h ⊢; omega)]
    by_cases hl : 128 - k % 128 ≤ (b :: bs).length
    · exact overwrite_take_drop k _ hl a v
    · rw [List.drop_eq_nil_of_le (by omega), List.take_of_length_le (by omega), overwrite_nil]

/-- A write of an I/O die, while none is held (R154). -/
theorem lands_performIo (how : Placing) (io k : Nat) (bs : List Byte) {s : State} (h : s.ms.heldW = []) :
    Lands (overwrite k bs) s (performIo how io k bs s) := by
  refine (lands_foldl (fun s c h _ => ?_) _ h rfl).congr (foldl_overwrite_chunksF _ k bs le_rfl)
  exact ((landsNothing_dropSharer _ _ h).trans (landsNothing_visitFrom ..)).trans (lands_performFrom how 24 c.1 c.2 _)

end Sys2Proof.Machine
end

section
/-! SUPPORT. The host's ports: rings, and the window on allocatable memory (R65 to R68, R139). -/

namespace Sys2Proof.Machine

/-- What no step of a fold changes. -/
theorem foldl_keeps {σ β α : Type} {f : σ → β → σ} (get : σ → α) (hf : ∀ s x, get (f s x) = get s) : ∀ (l : List β) (s : σ), get (l.foldl f s) = get s
  | [], _ => rfl
  | x :: l, s => (foldl_keeps get hf l (f s x)).trans (hf s x)

/-! ### Rings (R65, R67) -/

theorem getRing_modRing_self {k : Nat} {f : Ring → Ring} (hf : ∀ r, (f r).key = r.key) (s : State) : getRing (modRing k f s) k = f (getRing s k) := by
  have hkey : (f (getRing s k)).key = k := by
    rw [hf]
    unfold getRing
    cases h : s.io.rings.find? (fun r => r.key == k) with
    | none => rfl
    | some r => simpa using List.find?_some h
  show (List.find? (fun r => r.key == k) (f (getRing s k) :: _)).getD _ = _
  rw [List.find?_cons_of_pos (by simp [hkey])]
  rfl

theorem getRing_key (s : State) (k : Nat) : (getRing s k).key = k := by
  unfold getRing
  cases h : s.io.rings.find? (fun r => r.key == k) with
  | none => rfl
  | some r => simpa using List.find?_some h

theorem getRing_modRing_other {k m : Nat} (h : m ≠ k) {f : Ring → Ring} (hf : ∀ r, (f r).key = r.key) (s : State) :
    getRing (modRing k f s) m = getRing s m := by
  show (List.find? (fun r => r.key == m) (f (getRing s k) :: s.io.rings.filter fun x => x.key != k)).getD _ = _
  rw [List.find?_cons_of_neg (by simp [hf, getRing_key, h.symm]), List.find?_filter]
  congr 2
  funext r
  by_cases hr : r.key = m <;> simp [hr, h]

theorem hostUp_ringWrite {port : Bool} {ring : Nat} (f : Ring → Ring) {s : State} (hup : hostUp s = true) (hr : ring < 32) :
    ringWrite port ring f s = .next (modRing (ringKey port ring) f s) := by
  simp [ringWrite, hup, hr]

theorem ringWrite_down {port : Bool} {ring : Nat} (f : Ring → Ring) {s : State} (h : hostUp s = false) : ringWrite port ring f s = .next s := by
  simp [ringWrite, h]

theorem exec_hostRegisterWrite_rctl {port : Bool} {ring : Nat} (v : Word) (s : State) (hr : ring < 32) :
    exec (.hostRegisterWrite port (0x10000 + 0x1000 * ring) v) s
      = ringWrite port ring (fun r => { r with msien := v.getLsbD 1, headien := v.getLsbD 18 }) s := by
  rw [exec_hostRegisterWrite]
  unfold execHostRegisterWrite
  rw [if_pos (by simp; omega), show (0x10000 + 0x1000 * ring - 0x10000) / 0x1000 = ring by omega]

/-! ### Allocatable lines (R66, R139) -/

/-- Whether a byte may be allocated depends on its line alone. -/
theorem allocatable_congr {s : State} {a b : Nat} (h : lineOf a = lineOf b) : allocatable s a = allocatable s b := by
  unfold lineOf at h
  have h37 : a / 2 ^ 37 = b / 2 ^ 37 := by omega
  have h42 : a / 2 ^ 42 = b / 2 ^ 42 := by omega
  have h48 : a / 2 ^ 48 = b / 2 ^ 48 := by omega
  have h51 : a / 2 ^ 51 = b / 2 ^ 51 := by omega
  have hdram : a < 2 ^ 51 ↔ b < 2 ^ 51 := by omega
  have htop : 2 ^ 52 ≤ a ↔ 2 ^ 52 ≤ b := by omega
  have hmeta : a % 2 ^ 37 < metaOffset ↔ b % 2 ^ 37 < metaOffset := by unfold metaOffset; omega
  unfold allocatable isDramKey paExists dieOfPa
  simp only [h37, h42, h48, h51, hdram, htop, hmeta]

theorem allocatable_of_pkg {s t : State} (h : t.pkg = s.pkg) (a : Nat) : allocatable t a = allocatable s a := by
  unfold allocatable online; rw [h]

theorem plain_of_allocatable {s : State} {a : Nat} (h : allocatable s a = true) : Say.plain s a := by
  unfold allocatable at h
  simp only [Bool.and_eq_true, decide_eq_true_eq] at h
  exact plain_of_offset h.1.2 s

/-- Each part of a run that is cut at the bounds of lines lies in one line. -/
theorem mem_chunksF : ∀ {n k : Nat} {bs : List Byte} {c : Nat × List Byte}, c ∈ chunksF n k bs → 0 < c.2.length ∧ c.1 % 128 + c.2.length ≤ 128
  | 0, _, _, _, h => absurd h (by simp [chunksF])
  | _ + 1, _, [], _, h => absurd h (by simp [chunksF])
  | n + 1, k, b :: bs, c, h => by
    rw [chunksF] at h
    rcases List.mem_cons.mp h with rfl | h
    · simp only [List.length_take, List.length_cons]
      omega
    · exact mem_chunksF h

/-- What holds of the line of every part holds of the line of every byte. -/
theorem forall_chunksF_iff {P : Nat → Prop} : ∀ (n k : Nat) (bs : List Byte), bs.length ≤ n →
    ((∀ c ∈ chunksF n k bs, P (lineOf c.1)) ↔ ∀ i, i < bs.length → P (lineOf (k + i)))
  | 0, k, bs, h => by
    obtain rfl : bs = [] := List.length_eq_zero_iff.mp (by omega)
    simp [chunksF]
  | n + 1, k, [], _ => by simp [chunksF]
  | n + 1, k, b :: bs, h => by
    have hlen : ((b :: bs).drop (128 - k % 128)).length = (b :: bs).length - (128 - k % 128) := List.length_drop
    rw [chunksF, List.forall_mem_cons, forall_chunksF_iff n _ _ (by rw [hlen]; simp only [List.length_cons] at h ⊢; omega), hlen]
    constructor
    · rintro ⟨hfirst, hrest⟩ i hi
      by_cases hline : i < 128 - k % 128
      · rwa [show lineOf (k + i) = lineOf k by unfold lineOf; omega]
      · have := hrest (i - (128 - k % 128)) (by omega)
        rwa [show k + (128 - k % 128) + (i - (128 - k % 128)) = k + i by omega] at this
    · intro hall
      refine ⟨hall 0 (by simp), fun i hi => ?_⟩
      have := hall (128 - k % 128 + i) (by omega)
      rwa [← Nat.add_assoc] at this

/-- Parts that are left out by their lines leave out the bytes of these lines. -/
theorem foldl_overwrite_where {P : Nat → Bool} (hP : ∀ {a b}, lineOf a = lineOf b → P a = P b) (a : Nat) : ∀ (n k : Nat) (bs : List Byte),
    bs.length ≤ n → ∀ v, (chunksF n k bs).foldl (fun v c => if P c.1 then overwrite c.1 c.2 a v else v) v = if P a then overwrite k bs a v else v := by
  intro n k bs h v
  have hparts : ∀ (cs : List (Nat × List Byte)), (∀ c ∈ cs, c.1 % 128 + c.2.length ≤ 128) → ∀ v,
      cs.foldl (fun v c => if P c.1 then overwrite c.1 c.2 a v else v) v
        = if P a then cs.foldl (fun v c => overwrite c.1 c.2 a v) v else v := by
    intro cs
    induction cs with
    | nil => intro _ v; simp
    | cons c cs ih =>
      intro hcs v
      obtain ⟨hc, hcs⟩ := List.forall_mem_cons.mp hcs
      rw [List.foldl_cons, List.foldl_cons, ih hcs]
      by_cases hin : c.1 ≤ a ∧ a < c.1 + c.2.length
      · rw [hP (a := c.1) (b := a) (by unfold lineOf; omega)]
        split <;> rfl
      · rw [overwrite_out (by omega)]
        simp
  rw [hparts _ (fun c hc => (mem_chunksF hc).2), foldl_overwrite_chunksF n k bs h]

/-! ### The window (R66) -/

/-- The write of a window, or of a checkpoint: of what a range names the parts in allocatable memory. -/
theorem lands_whereAllocatable (io k : Nat) (data : List Byte) {s : State} (h : s.ms.heldW = []) :
    Lands (fun a v => if allocatable s a then overwrite k data a v else v) s
      ((chunksF data.length k data).foldl (fun s c => if allocatable s c.1 then performAll io c.1 c.2 s else s) s) := by
  refine (lands_foldl (p := s.pkg) (g := fun c a v => if allocatable s c.1 then overwrite c.1 c.2 a v else v) (fun t c ht hp => ?_) _ h rfl).congr
    (fun a v => foldl_overwrite_where allocatable_congr a _ k data le_rfl v)
  rw [allocatable_of_pkg hp]
  split
  · exact lands_performIo _ io c.1 c.2 ht
  · exact .refl t

theorem exec_windowWrite_up {port : Bool} {off : Nat} {data : List Byte} {s : State} (hup : hostUp s = true) (hlen : off + data.length ≤ 2 ^ 36)
    (hheld : s.ms.heldW = []) : exec (.windowWrite port off data) s = .next ((chunksF data.length (windowBase s port + off) data).foldl
      (fun s c => if allocatable s c.1 then performAll (ioNode port) c.1 c.2 s else s) s) := by
  rw [exec_windowWrite]
  unfold execWindowWrite
  rw [if_neg (by simp [hup, hheld]; omega)]
  rfl

/-- A window write none of whose bytes is served changes nothing. -/
theorem foldl_window_none {io k : Nat} {data : List Byte} {s : State} (h : ∀ i, i < data.length → allocatable s (k + i) = false) :
    (chunksF data.length k data).foldl (fun s c => if allocatable s c.1 then performAll io c.1 c.2 s else s) s = s := by
  have hline : ∀ c ∈ chunksF data.length k data, allocatable s (lineOf c.1 * 128) = false :=
    (forall_chunksF_iff (P := fun l => allocatable s (l * 128) = false) _ k data le_rfl).mpr fun i hi =>
      (allocatable_congr (by unfold lineOf; omega)).trans (h i hi)
  have hparts : ∀ cs : List (Nat × List Byte), (∀ c ∈ cs, allocatable s (lineOf c.1 * 128) = false) →
      cs.foldl (fun s c => if allocatable s c.1 then performAll io c.1 c.2 s else s) s = s := by
    intro cs
    induction cs with
    | nil => exact fun _ => rfl
    | cons c cs ih =>
      intro hcs
      obtain ⟨hc, hcs⟩ := List.forall_mem_cons.mp hcs
      rw [List.foldl_cons, if_neg (by rw [allocatable_congr (b := lineOf c.1 * 128) (by unfold lineOf; omega), hc]; decide)]
      exact ih hcs
  exact hparts _ hline

@[simp] theorem countFrame_mem (line die : Nat) (write : Bool) (s : State) : (countFrame line die write s).mem = s.mem := by
  unfold countFrame
  split <;> rfl

@[simp] theorem visitFrom_mem (io line : Nat) (s : State) : (visitFrom io line s).mem = s.mem := by
  unfold visitFrom
  split <;> rfl

@[simp] theorem readFrom_mem (io line : Nat) (s : State) : (readFrom io line s).mem = s.mem := by
  unfold readFrom
  rw [countFrame_mem, visitFrom_mem]

/-- Whether a window read is served: every byte lies in allocatable memory and in no line that is POISON (R66, R157). -/
theorem windowServed_iff (s : State) (k len : Nat) :
    ((chunksF len k (List.replicate len 0)).all fun c => allocatable s c.1 && !poisoned s c.1 c.2.length) = true
      ↔ ∀ i, i < len → allocatable s (k + i) = true ∧ lineOf (k + i) ∉ s.poison := by
  have hbytes := forall_chunksF_iff (P := fun l => allocatable s (l * 128) = true ∧ l ∉ s.poison) len k (List.replicate len 0) (by simp)
  rw [List.length_replicate] at hbytes
  have hline : ∀ a, allocatable s (lineOf a * 128) = allocatable s a := fun a => allocatable_congr (by unfold lineOf; omega)
  simp only [hline] at hbytes
  rw [← hbytes, List.all_eq_true]
  refine forall_congr' fun c => forall_congr' fun hc => ?_
  obtain ⟨hpos, hin⟩ := mem_chunksF hc
  have hlast : lineOf (c.1 + c.2.length - 1) = lineOf c.1 := by unfold lineOf; omega
  have hpoison : poisoned s c.1 c.2.length = true ↔ lineOf c.1 ∈ s.poison := by
    unfold poisoned
    rw [hlast, List.any_eq_true]
    constructor
    · rintro ⟨l, hl, hb⟩
      obtain rfl : l = lineOf c.1 := by simp at hb; omega
      exact hl
    · exact fun hl => ⟨_, hl, by simp⟩
  rw [Bool.and_eq_true, Bool.not_eq_true', Bool.eq_false_iff, Ne, hpoison]

theorem exec_windowRead_up {port : Bool} {off len : Nat} {s : State} (hup : hostUp s = true) (hlen : off + len ≤ 2 ^ 36) {out : HostOut}
    (hout : (if (chunksF len (windowBase s port + off) (List.replicate len 0)).all (fun c => allocatable s c.1 && !poisoned s c.1 c.2.length)
      then HostOut.read port (memRead s.mem (windowBase s port + off) len) false else HostOut.read port (List.replicate len 0xFF) true) = out) :
    ∃ t, exec (.windowRead port off len) s = .next t ∧ t.io = { s.io with outs := s.io.outs ++ [out] } ∧ t.mem = s.mem ∧ t.core = s.core
      ∧ t.cores = s.cores ∧ t.root = s.root := by
  have hread : ∀ (t : State) (c : Nat × List Byte), LandsNothing t (if allocatable s c.1 then readFrom (ioNode port) (lineOf c.1) t else t) := by
    intro t c
    split
    · exact landsNothing_readFrom ..
    · exact .refl t
  have hmem : ∀ (t : State) (c : Nat × List Byte), (if allocatable s c.1 then readFrom (ioNode port) (lineOf c.1) t else t).mem = t.mem := by
    intro t c
    split
    · exact readFrom_mem ..
    · rfl
  rw [exec_windowRead]
  unfold execWindowRead
  rw [if_neg (by simp [hup]; omega)]
  refine ⟨_, rfl, ?_⟩
  have hparts := landsNothing_foldl hread (windowParts s port off (List.replicate len 0)) (modIo (fun o => { o with outs := o.outs ++ [out] }) s)
  have hmem := foldl_keeps State.mem hmem (windowParts s port off (List.replicate len 0)) (modIo (fun o => { o with outs := o.outs ++ [out] }) s)
  unfold windowParts at hparts hmem ⊢
  rw [List.length_replicate] at hparts hmem ⊢
  dsimp only
  rw [hout]
  exact ⟨hparts.io, hmem, hparts.core, hparts.cores, hparts.root⟩

end Sys2Proof.Machine
end

section
/-! PROOFS. The host's ports. -/

namespace Sys2Proof.Proofs
open Sys2Proof Sys2Proof.Machine

/-- Settles O53: each ring event changes one ring; the window's parts are kept or dropped line by line, as every byte of a line is. -/
theorem hostPorts : Obligations.HostPorts := by
  intro s port ring slot off len tail v desc data k r a ringBecomes far
  refine ⟨fun hdown i hi => ?down, fun hup hring => ?rings, fun hup hlen hwf hheld hlist => ⟨?write, fun hnone => ?dropped⟩, fun hup hlen => ?read⟩
  case down =>
    simp only [List.mem_cons, List.not_mem_nil, or_false] at hi
    rcases hi with rfl | rfl | rfl | rfl | rfl | rfl
    · exact ringWrite_down _ hdown
    · exact ringWrite_down _ hdown
    · rw [exec_hostRegisterWrite]
      unfold execHostRegisterWrite
      split
      · exact ringWrite_down _ hdown
      · rfl
    · rw [exec_descriptorSlotWrite]
      unfold execDescriptorSlotWrite
      split
      · exact ringWrite_down _ hdown
      · rfl
    · simp [exec_windowWrite, execWindowWrite, hdown]
    · simp [exec_windowRead, execWindowRead, hdown]
  case rings =>
    have hbecomes : ∀ {i : Instr} {f : Ring → Ring}, (∀ x, (f x).key = x.key) → exec i s = ringWrite port ring f s → ringBecomes i (f r) := by
      intro i f hf hi
      exact ⟨_, hi.trans (hostUp_ringWrite f hup hring), getRing_modRing_self hf s, fun m hm => getRing_modRing_other hm hf s, rfl, rfl, rfl⟩
    refine ⟨?_, hbecomes (f := fun x => { x with badtail := x.badtail && !v.getLsbD 0, badstamp := x.badstamp && !v.getLsbD 1 }) (fun _ => rfl)
        (exec_rerrClear ..), 
      hbecomes (f := fun x => { x with msien := v.getLsbD 1, headien := v.getLsbD 18 }) (fun _ => rfl) (exec_hostRegisterWrite_rctl v s hring), fun hslot => ?_⟩
    · have hdoorbell : doorbell tail r = (if r.enable = false then r
          else if 64 < far ∨ far < (r.tail - r.head).toNat then { r with badtail := true } else { r with tail := tail }) := by
        unfold doorbell
        simp only [Bool.not_eq_true', Bool.or_eq_true, decide_eq_true_eq]
        rfl
      rw [← hdoorbell]
      refine hbecomes (fun x => ?_) (exec_rtailDoorbell ..)
      unfold doorbell
      split
      · rfl
      · split <;> rfl
    · have hself := getRing_modRing_self (k := k) (f := fun x => { x with slots := (slot, desc) :: x.slots.filter fun y => y.1 != slot }) (fun _ => rfl) s
      refine ⟨modRing k (fun x => { x with slots := (slot, desc) :: x.slots.filter fun y => y.1 != slot }) s, ?_, rfl, ?_, fun m hm => ?_, ?_⟩
      · rw [exec_descriptorSlotWrite]
        unfold execDescriptorSlotWrite
        rw [if_pos hslot]
        exact hostUp_ringWrite _ hup hring
      · rw [hself]
        exact List.find?_cons_of_pos (by simp)
      · rw [hself, List.find?_cons_of_neg (by simpa using hm.symm), List.find?_filter]
        congr 1
        funext x
        by_cases hx : x.1 = m <;> simp [hx, hm]
      · rw [hself]
  case write =>
    have hlands := lands_whereAllocatable (ioNode port) a data hheld
    obtain ⟨-, hbytes⟩ := hlands.bytes hlist hwf
    refine ⟨_, exec_windowWrite_up hup hlen hheld, hlands.root, fun i hi hok => ?_, fun b hplain hb => ?_⟩
    · rw [hbytes _ (plain_of_allocatable hok), if_pos hok, overwrite_in hi]
    · rw [hbytes b hplain]
      split
      · next hok => exact overwrite_out (by rcases hb with hb | hb | hb <;> simp_all) _
      · rfl
  case dropped => rw [exec_windowWrite_up hup hlen hheld, foldl_window_none hnone]
  case read =>
    intro good reads
    constructor
    · intro hgood
      exact exec_windowRead_up hup hlen (if_pos ((windowServed_iff s a len).mpr hgood))
    · intro hbad
      exact exec_windowRead_up hup hlen (if_neg (mt (windowServed_iff s a len).mp hbad))

end Sys2Proof.Proofs
end

section
/-! PROOFS. Requests of the management mailbox. -/

namespace Sys2Proof.Proofs
open Sys2Proof Sys2Proof.Machine

/-- Memory after a move. -/
def memAfter (i : Instr) (s : State) : Option (List Host.Cell) :=
  match exec i s with
  | .next t => some t.mem
  | _ => none

theorem memAfter_of_next {i : Instr} {s t : State} (h : exec i s = .next t) : memAfter i s = some t.mem := by
  unfold memAfter
  rw [h]

/-- A line stored RAW, in its four sectors, as a page without bark form has it at the slice. -/
def rawLine (line : Nat) (dirty : Bool) : L2Line :=
  { line := line, code := 7, sectors := 4, once := false, dirty := dirty, bark := true, wr := false }

/-- Seventeen lines of set 0 of slice 0, 68 sectors in all, with line 0 dirty. -/
def fullSet : List L2Line := rawLine 0 true :: rawLine 131329 false :: (List.range 15).map fun j => rawLine ((j + 1) * 2 ^ 26) false

/-- At S3 without partitions. Block 0 is listed as POISON, and its other three lines have been written whole since (R158). -/
def crowded : State :=
  { State.reset with
    pkg := { Pkg.reset with sl := 3 }
    ms := { MemSys.reset with slices := [{ sliceReset 0 with lines := fullSet }], poisonList := [⟨0, 0b1110⟩] } }

/-- A partition of grove 0 gives slice 0 its 1 MiB of scratch, which leaves 64 sectors a set. Line 0 leaves and is written to its channel, its
block leaves the list with that, and the metadata sector of the block is written. -/
theorem crowded_mem : memAfter (.mailboxPartitionCreate ⟨false, 1⟩ 1 [(0, 1048576)]) crowded ≠ some crowded.mem := by decide +kernel

/-- Refutes O54: memory does not stay as it is where lines leave a slice whose scratch takes their sectors. In `crowded` the line that
leaves is the last of a listed block to be written whole; the block leaves the list, and its metadata sector, which is memory, is written with
0xFFFF for its neighbours (R138, R158). -/
theorem not_mailboxRequests : ¬Obligations.MailboxRequests := by
  intro h
  obtain ⟨-, hup⟩ := h crowded false 1 0 0 0 0 1 [(0, 1048576)] 0 ⟨0, 0, [], [], [], [], [], [], []⟩ [] ⟨false, false, false, 0, 0⟩ 0
  obtain ⟨⟨hnew, -⟩, -⟩ := hup (by decide)
  obtain ⟨-, hmakes⟩ := hnew (fun q hq => absurd hq List.not_mem_nil)
  obtain ⟨t, ht, hmem, -⟩ := hmakes (by decide) (by rintro ⟨q, hq, -⟩; exact absurd hq List.not_mem_nil)
  exact crowded_mem ((memAfter_of_next ht).trans (congrArg some hmem))

end Sys2Proof.Proofs
end

section
/-! PROOFS. Launches through the gate. -/

namespace Sys2Proof.Proofs
open Sys2Proof Sys2Proof.Machine

/-- A group of launch 1 with its record at a place of slice 0's scratch. -/
def recordGroup (num home : Nat) : Group :=
  { num := num, level := 1, root := ⟨1, 0⟩, launch := 1, stage := 0, part := 1, members := [], slice := 0, home := home, size := 0
    sent := 0, taken := 0, head := 0, tail := 0, bounces := 0, resends := 0, dropped := 0, ring := [], waiting := [] }

/-- A running launch without cores, whose STAMP led to the last four bytes of a line and the first four of the next. -/
def straddlingLaunch : Launch :=
  { id := 1, asid := 0, ring := 0, lid := 1, stamp := 0, const := 0, image := 0, groves := 0, prio := 0, prereqs := [], stages := [], bal := []
    st := .running, placed := [], origin := none, starters := [], resumable := false, passed := 0, haltPa := 0, haltVa := 0
    stampKey := scratchKey 0 124, early := false, haltedAt := 0 }

/-- The launch at its end. A replica is noted for the line of its first group's record, which is the second line of its stamp; the record of its
second group lies in the first one. -/
def straddlingStamp : State :=
  { State.reset with
    fab := { Fab.reset with groups := [recordGroup 1 128, recordGroup 2 64] }
    ms := { MemSys.reset with sharers := [⟨lineOf (scratchKey 0 128), [1]⟩] }
    root := { Root.reset with launches := [straddlingLaunch] } }

/-- The stamp's first line takes the launch id; then the replica of the second line goes, the records held behind it follow, and the low byte
of the stamp is 0 again. -/
theorem straddlingStamp_lid : byteAfter (.launchEnd 1) straddlingStamp straddlingLaunch.stampKey = some 0 := by decide +kernel

/-- Refutes O49: a stamp that straddles two lines is written line by line, each once the replicas of that line are gone (R154). The group
records that the end of a launch writes (R55) may be held then, the one in the first line behind the one in the second, at their one slice; they
perform between the two parts of the stamp, and in `straddlingStamp` the low byte of the launch id is lost. A STAMP that is admitted is a multiple of
8 (R73), so that no stamp of a launch straddles a line; the statement does not ask this of `stampKey`. -/
theorem not_launchesThroughTheGate : ¬Obligations.LaunchesThroughTheGate := by
  intro h
  obtain ⟨-, -, -, -, -, hend⟩ := h straddlingStamp false 0 ⟨0, 0, []⟩ ⟨0, 0⟩ ⟨0, 0, 0, false, [], []⟩ straddlingLaunch ⟨0, .dram, .cached, false, false, false⟩ []
  obtain ⟨-, hdone, -⟩ := hend rfl
  obtain ⟨t, ht, ⟨-, -, hstamp, -⟩, -⟩ := hdone rfl (fun x hx => absurd hx List.not_mem_nil) ⟨by decide, by decide, by decide, rfl, rfl⟩
  have hlid := hstamp fun i _ hsl => absurd hsl (by decide)
  have hlow := (byteAfter_of_next ht _).symm.trans straddlingStamp_lid
  rw [memNat, memRead, List.range_succ_eq_map, List.map_cons, natOfBytes, Nat.add_zero, Option.some.inj hlow] at hlid
  have hvalue : straddlingLaunch.lid.toNat + 2 ^ 56 * (0 : BitVec 8).toNat = 1 := by decide
  rw [hvalue] at hlid
  simp at hlid

end Sys2Proof.Proofs
end

section
/-! SUPPORT. Where the accesses of engines and agents lead while memory changes, what they read and what their writes leave
(R143, R215, R221, R376 to R378, R389). -/

namespace Sys2Proof.Machine

/-! ### Parts of a range (R376) -/

/-- Parts that follow each other without a gap from one offset to another. -/
def Consecutive : Nat → List (Nat × Nat) → Nat → Prop
  | lo, [], hi => lo = hi
  | lo, p :: ps, hi => p.1 = lo ∧ 0 < p.2 ∧ Consecutive (lo + p.2) ps hi

theorem consecutive_append {qs : List (Nat × Nat)} {mid hi : Nat} (hq : Consecutive mid qs hi) : ∀ {ps : List (Nat × Nat)} {lo : Nat},
    Consecutive lo ps mid → Consecutive lo (ps ++ qs) hi
  | [], _, h => by cases h; exact hq
  | _ :: _, _, ⟨h, hpos, hps⟩ => ⟨h, hpos, consecutive_append hq hps⟩

theorem Consecutive.le {hi : Nat} : ∀ {ps : List (Nat × Nat)} {lo : Nat}, Consecutive lo ps hi → lo ≤ hi
  | [], _, h => Nat.le_of_eq h
  | _ :: _, _, ⟨_, _, h⟩ => Nat.le_trans (Nat.le_add_right ..) h.le

/-- The part of a range in its line number `i`, if it has bytes there; the range begins at byte `a` of its line 0. -/
def linePart (a n i : Nat) : Option (Nat × Nat) :=
  if 128 * i - a < min n (128 * (i + 1) - a) then some (128 * i - a, min n (128 * (i + 1) - a) - (128 * i - a)) else none

theorem lineParts_eq (va : Word) (n : Nat) :
    lineParts va n = (List.range ((va.toNat % 128 + n + 127) / 128)).filterMap (linePart (va.toNat % 128) n) := by
  unfold lineParts linePart
  have hlo : ∀ i, (if i = 0 then 0 else 128 * i - va.toNat % 128) = 128 * i - va.toNat % 128 := fun i => by split <;> omega
  simp only [hlo]

theorem consecutive_lineParts (va : Word) (n : Nat) : Consecutive 0 (lineParts va n) n := by
  rw [lineParts_eq]
  have ha : va.toNat % 128 < 128 := Nat.mod_lt _ (by decide)
  generalize va.toNat % 128 = a at ha ⊢
  have hto : ∀ m, Consecutive 0 ((List.range m).filterMap (linePart a n)) (min n (128 * m - a)) := by
    intro m
    induction m with
    | zero => show 0 = _; omega
    | succ m ih =>
      rw [List.range_succ, List.filterMap_append]
      refine consecutive_append ?_ ih
      by_cases hpart : 128 * m - a < min n (128 * (m + 1) - a)
      · rw [List.filterMap_cons_some (show linePart a n m = _ from if_pos hpart)]
        exact ⟨by show 128 * m - a = _; omega, by show 0 < _; omega, by show _ = _; dsimp only; omega⟩
      · rw [List.filterMap_cons_none (show linePart a n m = _ from if_neg hpart)]
        show _ = _
        omega
  have := hto ((a + n + 127) / 128)
  rwa [show min n (128 * ((a + n + 127) / 128) - a) = n by omega] at this

/-- What the parts of a range hold, one after another, is what the range holds. -/
theorem flatMap_memRead_consecutive (m : List Host.Cell) (k : Nat) {hi : Nat} : ∀ {ps : List (Nat × Nat)} {lo : Nat}, Consecutive lo ps hi →
    ps.flatMap (fun p => memRead m (k + p.1) p.2) = memRead m (k + lo) (hi - lo)
  | [], lo, h => by cases h; simp [memRead]
  | p :: ps, lo, ⟨hlo, _, h⟩ => by
    have := h.le
    rw [List.flatMap_cons, flatMap_memRead_consecutive m k h, hlo, ← Nat.add_assoc, ← memRead_add]
    congr 1
    omega

/-- What the parts of a run overwrite, one after another, is what the run overwrites. -/
theorem foldl_overwrite_consecutive (k : Nat) (bs : List Byte) (a : Nat) {hi : Nat} (hlen : bs.length = hi) : ∀ {ps : List (Nat × Nat)} {lo : Nat},
    Consecutive lo ps hi → ∀ v, ps.foldl (fun v p => overwrite (k + p.1) ((bs.drop p.1).take p.2) a v) v = overwrite (k + lo) (bs.drop lo) a v
  | [], lo, h, v => by
    cases h
    rw [List.drop_eq_nil_of_le (Nat.le_of_eq hlen), overwrite_nil]
    rfl
  | p :: ps, lo, ⟨hlo, _, h⟩, v => by
    rw [List.foldl_cons, foldl_overwrite_consecutive k bs a hlen h, hlo, ← List.drop_drop, ← Nat.add_assoc]
    by_cases hp : p.2 ≤ (bs.drop lo).length
    · exact overwrite_take_drop _ _ hp a v
    · rw [List.drop_eq_nil_of_le (by omega), List.take_of_length_le (by omega), overwrite_nil]

/-! ### Where an access leads while memory changes (R143) -/

/-- A state with an empty L1. -/
def noL1 (s : State) : State := modCore (fun c => { c with l1 := [] }) s

theorem walkFrom_congr {s t : State} (h : s.mem = t.mem) (asid va : Nat) : ∀ lvl table, walkFrom s asid va lvl table = walkFrom t asid va lvl table
  | 0, table => by unfold walkFrom; rw [h]
  | l + 1, table => by
    unfold walkFrom
    rw [h]
    simp only [walkFrom_congr h asid va l]

/-- What an address leads to depends on: memory, and what neither slices nor packets change. -/
theorem engPlace_congr {s t : State} {l : List L1Line} (hcore : t.core = { s.core with l1 := l }) (hcores : t.cores = s.cores)
    (hpkg : t.pkg = s.pkg) (hgroups : t.fab.groups = s.fab.groups) (hroot : t.root = s.root) (htlb : t.ms.twigTlb = s.ms.twigTlb)
    (hmem : t.mem = s.mem) (va : Word) (n : Nat) (acc : Acc) : engPlace t va n acc = engPlace s va n acc := by
  have hpool1 : ∀ i, (getCore t i).dpoolb1 = (getCore s i).dpoolb1 := fun i => by
    unfold getCore; rw [hcore, hcores]; dsimp only; split <;> rfl
  have hpool2 : ∀ i, (getCore t i).dpoolb2 = (getCore s i).dpoolb2 := fun i => by
    unfold getCore; rw [hcore, hcores]; dsimp only; split <;> rfl
  have hpresent : ∀ i, present t i = present s i := fun i => by unfold present; rw [hpkg]
  have hgrove : ∀ c g, groveAllowed t c g = groveAllowed s c g := fun c g => by unfold groveAllowed partOfGrove; rw [hroot]
  have hscratch : ∀ i, scratchSize t i = scratchSize s i := fun i => by unfold scratchSize partOfGrove; rw [hroot]
  have hhome : ∀ i o m, inHome t i o m = inHome s i o m := fun i o m => by unfold inHome; rw [hgroups]
  have hwalk : ∀ asid a, walk t asid a = walk s asid a := fun asid a => by
    unfold walk; rw [hroot]; simp only [walkFrom_congr hmem]
  have hlookup : ∀ asid a, lookup t asid a = lookup s asid a := fun asid a => by unfold lookup; rw [hcore, htlb, hwalk]
  unfold engPlace resolveWindow resolvePage
  simp only [hcore, hpkg, hpool1, hpool2, hpresent, hgrove, hscratch, hhome, hlookup]

/-- An access leads where it would with the new memory alone, whatever else of slices, L1 and packets has changed. -/
theorem engPlace_of_apart {s t : State} (h : Apart (noL1 s) (noL1 t)) (va : Word) (n : Nat) (acc : Acc) :
    engPlace t va n acc = engPlace { s with mem := t.mem } va n acc := by
  have hcore : t.core = { s.core with l1 := t.core.l1 } := congrArg (fun c : Core => { c with l1 := t.core.l1 }) h.core
  have hcores : t.cores = s.cores := h.cores
  have hpkg : t.pkg = s.pkg := h.pkg
  have hgroups : t.fab.groups = s.fab.groups := (congrArg Fab.groups h.fab :)
  have hroot : t.root = s.root := h.root
  have htlb : t.ms.twigTlb = s.ms.twigTlb := h.twigTlb
  exact engPlace_congr (s := { s with mem := t.mem }) hcore hcores hpkg hgroups hroot htlb rfl va n acc

/-- Two states in which addresses lead to the same places, and these are read and written alike. -/
structure SamePlaces (s t : State) : Prop where
  core : t.core = s.core
  cores : t.cores = s.cores
  pkg : t.pkg = s.pkg
  groups : t.fab.groups = s.fab.groups
  ms : t.ms = s.ms
  root : t.root = s.root
  poison : t.poison = s.poison

theorem SamePlaces.engPlace {s t : State} (h : SamePlaces s t) (m : List Host.Cell) (va : Word) (n : Nat) (acc : Acc) :
    engPlace { t with mem := m } va n acc = Machine.engPlace { s with mem := m } va n acc := by
  have hcore : t.core = { s.core with l1 := s.core.l1 } := h.core
  exact engPlace_congr (s := { s with mem := m }) (t := { t with mem := m }) hcore h.cores h.pkg h.groups h.root (congrArg MemSys.twigTlb h.ms) rfl
    va n acc

theorem SamePlaces.flat {s t : State} (h : SamePlaces s t) {va : Word} {n : Nat} {acc : Acc} {k : Nat} (hf : Say.Flat s va n acc k) :
    Say.Flat t va n acc k := by
  unfold Say.Flat at *
  simp only [h.engPlace]
  have hpoison : ∀ a l, poisoned t a l = poisoned s a l := fun a l => by unfold poisoned; rw [h.poison]
  have hhost : ∀ a, hostFails t a = hostFails s a := fun a => by unfold hostFails; rw [h.core]
  have hheld : ∀ l, lineHeld t l = lineHeld s l := fun l => by unfold lineHeld sharersOf writeHeld; rw [h.ms]
  have hrepl : ∀ l, isRepl t l = isRepl s l := fun l => by unfold isRepl; rw [h.ms]
  simpa only [hpoison, hhost, hheld, hrepl, plain_congr h.pkg] using hf

theorem SamePlaces.inside {s t : State} (h : SamePlaces s t) {va : Word} {n : Nat} {acc : Acc} (hi : Say.Inside s va n acc) : Say.Inside t va n acc := by
  unfold Say.Inside at *
  simpa only [h.engPlace] using hi

/-! ### Reads of a flat range (R376, R389) -/

theorem engRead_of_flat {s : State} {va : Word} {n k : Nat} (h : Say.Flat s va n .read k) (gen : BitVec 8) :
    engRead s va n gen = ⟨memRead s.mem k n, none⟩ := by
  obtain ⟨hparts, -⟩ := h
  have hpart : ∀ p ∈ lineParts va n, engReadPart s (va + BitVec.ofNat 64 p.1) p.2 gen = ⟨memRead s.mem (k + p.1) p.2, none⟩ := by
    intro p hp
    obtain ⟨q, hq, hkey, hpoison, hhost⟩ := hparts p hp s.mem
    unfold engReadPart
    have hq : engPlace s _ _ _ = .ok q := hq
    rw [hkey] at hpoison hhost
    simp [hq, hhost, hpoison, hkey]
  have hfold : ∀ (ps : List (Nat × Nat)) (bs : List Byte), (∀ p ∈ ps, engReadPart s (va + BitVec.ofNat 64 p.1) p.2 gen
      = ⟨memRead s.mem (k + p.1) p.2, none⟩) → ps.foldl (fun (r : EngRead) p => match r.fail with
        | some _ => r
        | none =>
          let x := engReadPart s (va + BitVec.ofNat 64 p.1) p.2 gen
          ⟨r.bytes ++ x.bytes, x.fail⟩) ⟨bs, none⟩ = ⟨bs ++ ps.flatMap fun p => memRead s.mem (k + p.1) p.2, none⟩ := by
    intro ps
    induction ps with
    | nil => intro bs _; simp
    | cons p ps ih =>
      intro bs hps
      obtain ⟨hp, hps⟩ := List.forall_mem_cons.mp hps
      simp only [List.foldl_cons, hp]
      rw [ih _ hps, List.flatMap_cons, List.append_assoc]
  have := hfold (lineParts va n) [] hpart
  rw [flatMap_memRead_consecutive s.mem k (consecutive_lineParts va n)] at this
  exact this

theorem hostPart_of_inside {s : State} {va : Word} {n : Nat} {acc : Acc} (h : Say.Inside s va n acc) : hostPart s va n acc = none := by
  unfold hostPart
  rw [List.findSome?_eq_none_iff]
  intro p hp
  dsimp only
  split
  · next q hq => rw [if_neg (by simpa using h p hp s.mem q hq)]
  · rfl

theorem agentRead_of_flat {s : State} {va : Word} {n k : Nat} (h : Say.Flat s va n .read k) (hi : Say.Inside s va n .read) :
    agentRead s va n = ⟨memRead s.mem k n, none⟩ := by
  unfold agentRead
  rw [hostPart_of_inside hi]
  exact engRead_of_flat h 0x70

/-- The first part of a range begins at the range's address. -/
theorem lineParts_cons (va : Word) {n : Nat} (hn : 0 < n) : ∃ ps, lineParts va n = (0, min n (128 - va.toNat % 128)) :: ps := by
  have ha : va.toNat % 128 < 128 := Nat.mod_lt _ (by decide)
  rw [lineParts_eq, show (va.toNat % 128 + n + 127) / 128 = (va.toNat % 128 + n - 1) / 128 + 1 by omega, List.range_succ_eq_map,
    List.filterMap_cons_some (show linePart _ n 0 = some (0, min n (128 - va.toNat % 128)) by
      unfold linePart; rw [if_pos (by omega)]; simp)]
  exact ⟨_, rfl⟩

/-- A range that begins in host space (R74, R389). -/
theorem hostPart_first {s : State} {va : Word} {n : Nat} {acc : Acc} {q : Place} (hn : 0 < n)
    (hq : engPlace s va (min n (128 - va.toNat % 128)) acc = .ok q) (hhost : q.loc = .host) : hostPart s va n acc = some (0, va) := by
  obtain ⟨ps, hps⟩ := lineParts_cons va hn
  unfold hostPart
  rw [hps, List.findSome?_cons]
  simp [hq, hhost]

@[simp] theorem lineParts_zero (va : Word) : lineParts va 0 = [] := by
  have h := consecutive_lineParts va 0
  cases hps : lineParts va 0 with
  | nil => rfl
  | cons p ps =>
    rw [hps] at h
    obtain ⟨hlo, hpos, hrest⟩ := h
    have := hrest.le
    omega

theorem engBad_of_flat {s : State} {va : Word} {n k : Nat} (h : Say.Flat s va n .write k) (gen : BitVec 8) : engBad s va n gen = none := by
  obtain ⟨hparts, -⟩ := h
  unfold engBad
  rw [List.findSome?_eq_none_iff]
  intro p hp
  obtain ⟨q, hq, -, hpoison, hhost⟩ := hparts p hp s.mem
  have hq : engPlace s _ _ _ = .ok q := hq
  dsimp only
  rw [hq]
  simp [hpoison, hhost]

theorem agentBad_of_flat {s : State} {va : Word} {n k : Nat} (h : Say.Flat s va n .write k) (hi : Say.Inside s va n .write) :
    agentBad s va n = none := by
  unfold agentBad
  rw [hostPart_of_inside hi]
  exact engBad_of_flat h 0x71

/-! ### Writes of an agent (R215, R221, R389) -/

theorem Lands.noL1 {g : Nat → Byte → Byte} {s t : State} (h : Lands g s t) : Lands g (noL1 s) (noL1 t) :=
  ⟨⟨congrArg (fun c : Core => { c with l1 := [] }) h.core, h.cores, h.pkg, h.fab, h.io, h.root, h.heldW, h.twigTlb⟩, h.listed, h.poison, h.bytes⟩

theorem noL1_dropL1 (k n : Nat) (s : State) : noL1 (dropL1 k n s) = noL1 s := by
  unfold dropL1
  split <;> rfl

/-- What an agent writes lands; of the core only its L1 changes. -/
theorem lands_agentPutAt (io : Nat) (how : Placing) (k : Nat) (bs : List Byte) {s : State} (h : s.ms.heldW = []) :
    Lands (overwrite k bs) (noL1 s) (noL1 (agentPutAt io how k bs s)) := by
  unfold agentPutAt
  rw [noL1_dropL1]
  exact (lands_performIo how io k bs h).noL1

theorem lands_agentPut (io : Nat) {va : Word} {k : Nat} {bs : List Byte} {s : State} (hf : Say.Flat s va bs.length .write k) (h : s.ms.heldW = []) :
    Lands (overwrite k bs) (noL1 s) (noL1 (agentPut io va bs s)) := by
  obtain ⟨hparts, -⟩ := hf
  have hfold : ∀ (ps : List (Nat × Nat)), (∀ p ∈ ps, p ∈ lineParts va bs.length) → ∀ (t : State), Apart (noL1 s) (noL1 t) →
      Lands (fun a v => ps.foldl (fun v p => overwrite (k + p.1) ((bs.drop p.1).take p.2) a v) v) (noL1 t) (noL1 (ps.foldl (fun s p =>
        match engPlace s (va + BitVec.ofNat 64 p.1) p.2 .write with
        | .error _ => s
        | .ok q => agentPutAt io ⟨inSlice q, false, false, q.bark⟩ q.key ((bs.drop p.1).take p.2) s) t)) := by
    intro ps
    induction ps with
    | nil => exact fun _ t _ => .refl _
    | cons p ps ih =>
      intro hps t ht
      obtain ⟨hp, hps⟩ := List.forall_mem_cons.mp hps
      obtain ⟨q, hq, hkey, -⟩ := hparts p hp t.mem
      rw [List.foldl_cons, engPlace_of_apart ht, hq]
      dsimp only
      rw [hkey]
      have hland := lands_agentPutAt io ⟨inSlice q, false, false, q.bark⟩ (k + p.1) ((bs.drop p.1).take p.2) (s := t) (ht.heldW.trans h)
      exact hland.trans (ih hps _ (ht.trans hland.toApart))
  exact (hfold _ (fun _ hp => hp) s (.refl _)).congr fun a v =>
    (foldl_overwrite_consecutive k bs a rfl (consecutive_lineParts va bs.length) v)

theorem getElem_memRead (m : List Host.Cell) (k n i : Nat) (h : i < (memRead m k n).length) : (memRead m k n)[i] = memGet m (k + i) := by
  simp [memRead]

/-- Of a range that is written whole, every byte reads as it was written, and every byte elsewhere as before. -/
theorem Lands.whole {k : Nat} {bs : List Byte} {s t : State} (h : Lands (overwrite k bs) s t) (hlist : s.ms.poisonList = [])
    (hwf : Memory.wf s.mem = true) (hplain : ∀ i, i < bs.length → Say.plain s (k + i)) : memRead t.mem k bs.length = bs ∧ Say.LandsIn k bs.length s t := by
  obtain ⟨-, hbytes⟩ := h.bytes hlist hwf
  refine ⟨List.ext_getElem (length_memRead ..) fun i hi hi' => ?_, fun a ha hout => ?_⟩
  · rw [getElem_memRead, hbytes _ (hplain i hi'), overwrite_in hi', List.getD_eq_getElem _ _ hi']
  · rw [hbytes a ha, overwrite_out hout]

end Sys2Proof.Machine
end

section
/-! SUPPORT. Queue entries, and what the agents of the I/O dies do for them (R76, R77, R389, R420). -/

namespace Sys2Proof.Machine

/-! ### Entries of a queue -/

@[simp] theorem queue_setQueue (c : Core) (q : Queue) (v : List Entry) : (c.setQueue q v).queue q = v := by cases q <;> rfl

@[simp] theorem queue_modEntry (q : Queue) (ord : Nat) (f : Entry → Entry) (s : State) :
    (modEntry q ord f s).core.queue q = (s.core.queue q).map fun e => if e.ord = ord then f e else e := queue_setQueue ..

@[simp] theorem modEntry_io (q : Queue) (ord : Nat) (f : Entry → Entry) (s : State) : (modEntry q ord f s).io = s.io := rfl
@[simp] theorem modEntry_num (q : Queue) (ord : Nat) (f : Entry → Entry) (s : State) : (modEntry q ord f s).core.num = s.core.num := by cases q <;> rfl

/-- An entry that is one of its queue, the only one with its bank and sequence number and the only one with its push number. -/
structure Single (q : Queue) (e : Entry) (s : State) : Prop where
  mem : e ∈ s.core.queue q
  inner : e.inner = none
  single : ∀ x ∈ s.core.queue q, (x.bank = e.bank ∧ x.seq = e.seq ∧ x.inner = none) ∨ x.ord = e.ord → x = e

theorem single_of_claimed {q : Queue} {opc : Nat} {e : Entry} {s : State} (h : Say.Claimed q opc e s) : Single q e s := by
  obtain ⟨hmem, -, -, hinner, -, -, hone⟩ := h
  exact ⟨hmem, hinner, hone⟩

theorem Single.congr {q : Queue} {e : Entry} {s t : State} (h : Single q e s) (hq : t.core.queue q = s.core.queue q) : Single q e t :=
  ⟨hq ▸ h.mem, h.inner, hq ▸ h.single⟩

theorem findEntry_single {q : Queue} {e : Entry} {s : State} (h : Single q e s) : findEntry s.core q e.bank e.seq = some e := by
  unfold findEntry
  cases hf : (s.core.queue q).find? (fun x => x.bank == e.bank && x.seq == e.seq && x.inner.isNone) with
  | none => simpa [h.inner] using List.find?_eq_none.mp hf e h.mem
  | some x =>
    have hx := List.find?_some hf
    simp only [Bool.and_eq_true, beq_iff_eq, Option.isNone_iff_eq_none] at hx
    exact congrArg some (h.single x (List.mem_of_find?_eq_some hf) (.inl ⟨hx.1.1, hx.1.2, hx.2⟩))

/-- Of a changed entry its queue holds only the changed form. -/
theorem Single.changed {q : Queue} {e : Entry} {s : State} (h : Single q e s) {f : Entry → Entry} :
    ∀ x ∈ (modEntry q e.ord f s).core.queue q, x.ord = e.ord → x = f e := by
  intro x hx hord
  rw [queue_modEntry] at hx
  obtain ⟨y, hy, rfl⟩ := List.mem_map.mp hx
  by_cases he : y.ord = e.ord
  · rw [if_pos he, h.single y hy (.inr he)]
  · rw [if_neg he] at hord
    exact absurd hord he

/-- Entries other than the changed one stand. -/
theorem mem_queue_modEntry_other {q : Queue} {ord : Nat} {f : Entry → Entry} {s : State} {x : Entry} (hx : x ∈ s.core.queue q) (hord : x.ord ≠ ord) :
    x ∈ (modEntry q ord f s).core.queue q := by
  rw [queue_modEntry]
  exact List.mem_map.mpr ⟨x, hx, if_neg hord⟩

theorem Single.ends {e : Entry} {s : State} (h : Single .cq e s) (st : BitVec 8) (tval : Word) : Say.Ends e st s (settleEntry .cq e.ord st tval s) :=
  ⟨fun x hx hord => by
    obtain rfl := h.changed (f := fun x => { x with st := .worked, status := st, tval := tval, outstanding := 0 }) x hx hord
    exact ⟨rfl, rfl⟩, fun _ hx hord => mem_queue_modEntry_other hx hord⟩

theorem exec_startRemote {opc : Nat} {e : Entry} {s : State} (h : Say.Starts opc e s) (f : Entry → State → State) :
    startRemote opc e.bank e.seq f s = .next (f e s) := by
  obtain ⟨⟨hclaim, hloose, -⟩, hout⟩ := h
  have hfind := findEntry_single (single_of_claimed hclaim)
  obtain ⟨-, hst, hcancel, -, hopc, hgo, -⟩ := hclaim
  unfold startRemote throughLoose
  simp [hfind, hst, hcancel, hopc, hgo, hout, hloose]

theorem fireInject_none {e : Entry} (h : e.inject = none) (a n : Nat) (s : State) : fireInject e a n s = s := by
  unfold fireInject; rw [h]

theorem injectBytes_none {e : Entry} (h : e.inject = none) (a : Nat) (bs : List Byte) : injectBytes e a bs = bs := by
  unfold injectBytes; rw [h]

/-! ### Requests of an agent (R420) -/

/-- The requests of an agent's read leave what journeys and slices leave. -/
theorem agentNote_keeps {α : Type} (get : State → α) (hvisit : ∀ c a b s, get (visit c a b s) = get s) (hms : ∀ f s, get (modMs f s) = get s)
    (io : Nat) (va : Word) (n : Nat) (s : State) : get (agentNote io va n s) = get s := by
  have hframe : ∀ l d w s, get (countFrame l d w s) = get s := fun l d w s => by
    unfold countFrame
    split
    · rfl
    · exact hms ..
  have hfrom : ∀ io l s, get (visitFrom io l s) = get s := fun io l s => by
    unfold visitFrom; split
    · rfl
    · exact hvisit ..
  refine foldl_keeps get (fun s p => ?_) _ s
  split
  · rfl
  · next q _ =>
    dsimp only
    split
    · unfold enterReadAt
      split
      · exact hfrom ..
      · rw [if_pos rfl]
        exact (hms _ _).trans ((apply_ite get ..).trans (by rw [hframe, ite_self, hfrom]))
    · exact hfrom ..

theorem agentNote_mem (io : Nat) (va : Word) (n : Nat) (s : State) : (agentNote io va n s).mem = s.mem :=
  agentNote_keeps State.mem (fun _ _ _ _ => rfl) (fun _ _ => rfl) io va n s
theorem agentNote_io (io : Nat) (va : Word) (n : Nat) (s : State) : (agentNote io va n s).io = s.io :=
  agentNote_keeps State.io (fun _ _ _ _ => rfl) (fun _ _ => rfl) io va n s
theorem agentNote_core (io : Nat) (va : Word) (n : Nat) (s : State) : (agentNote io va n s).core = s.core :=
  agentNote_keeps State.core (fun _ _ _ _ => rfl) (fun _ _ => rfl) io va n s
theorem agentNote_net (io : Nat) (va : Word) (n : Nat) (s : State) : (agentNote io va n s).fab.net = s.fab.net :=
  agentNote_keeps (·.fab.net) (fun _ _ _ _ => rfl) (fun _ _ => rfl) io va n s

theorem hostUp_of_sl {s : State} (h : s.pkg.sl ≠ 0) : hostUp s = true := by
  have hsl : s.pkg.sl.toNat ≠ 0 := fun h0 => h (BitVec.eq_of_toNat_eq h0)
  unfold hostUp
  rw [decide_eq_true_iff]
  omega

/-! ### Pieces (R76, R77) -/

theorem length_piecesOf (core time : Nat) (e : Entry) (t : Transfer) (bs sz first : Nat) (data : Nat → Nat → List Byte) :
    (piecesOf core time e t bs sz first data).length = (t.len + sz - 1) / sz := by simp [piecesOf]

/-- What piece number `i` of a transfer names. -/
theorem piecesOf_getElem? {core time : Nat} {e : Entry} {t : Transfer} {bs sz first : Nat} {data : Nat → Nat → List Byte} {i : Nat} {p : Piece}
    (h : (piecesOf core time e t bs sz first data)[i]? = some p) :
    p.read = t.read ∧ p.off = i * sz ∧ p.len = min sz (t.len - i * sz) ∧ p.lba = t.lba + i * sz / bs ∧ p.addr = t.addr + BitVec.ofNat 64 (i * sz)
      ∧ p.seq = e.seq ∧ p.bank = e.bank ∧ p.core = core ∧ p.data = data (i * sz) (min sz (t.len - i * sz)) := by
  unfold piecesOf at h
  rw [List.getElem?_map] at h
  obtain ⟨j, hj, rfl⟩ := Option.map_eq_some_iff.mp h
  obtain ⟨-, rfl⟩ := List.getElem?_eq_some_iff.mp hj
  simp

/-- Pieces that go out leave memory, join the others, and the entry waits for as many. -/
theorem sendPieces_leaves (e : Entry) (ps : List Piece) {s : State} (h : Single .cq e s) :
    (sendPieces e ps s).mem = s.mem ∧ (sendPieces e ps s).io.pieces = s.io.pieces ++ ps
      ∧ ∀ y ∈ (sendPieces e ps s).core.queue .cq, y.ord = e.ord → y = { e with outstanding := ps.length } := by
  have hkeep : ∀ {α : Type} (get : State → α), (∀ p s, get (countSent (inject p s)) = get s) →
      get (ps.foldl (fun s p => countSent (inject ⟨.ext, twigOf p.core, driveNode p.drive, .piece p.id⟩ s)) s) = get s :=
    fun get hget => foldl_keeps get (fun s p => hget _ s) ps s
  have hio := hkeep State.io fun _ _ => rfl
  refine ⟨hkeep State.mem fun _ _ => rfl, ?_, ?_⟩
  · unfold sendPieces
    simp [hio]
  · exact Single.changed (h.congr (hkeep (·.core.queue .cq) fun _ _ => rfl))

/-- What the end of a piece makes of its command's entry (R77). -/
def pieceEnds (st : BitVec 8) (tval : Word) (e : Entry) : Entry :=
  let x := if e.status = 0 then { e with status := st, tval := if st = 0 then e.tval else tval } else e
  { x with outstanding := e.outstanding - 1, st := if e.outstanding ≤ 1 then .worked else e.st }

theorem pieceDone_single {p : Piece} {e : Entry} {s : State} (h : Single p.q e s) (hbank : p.bank = e.bank) (hseq : p.seq = e.seq)
    (hst : e.st = .flight) (st : BitVec 8) (tval : Word) : pieceDone p st tval s = modEntry p.q e.ord (pieceEnds st tval) s := by
  unfold pieceDone
  rw [hbank, hseq, findEntry_single h]
  dsimp only
  rw [if_pos hst]
  refine congrArg (fun f => modEntry p.q e.ord f s) (funext fun x => ?_)
  unfold pieceEnds
  dsimp only
  split <;> rfl

end Sys2Proof.Machine
end

section
/-! PROOFS. Storage commands and the extent tables. -/

namespace Sys2Proof.Proofs
open Sys2Proof Sys2Proof.Machine

variable {e : Entry} {s : State}

/-! ### A transfer begins (R76, R389) -/

theorem exec_srd_refused (h : Say.Starts 0x46 e s)
    (hext : extentFor s true (e.cmd.e.toNat % 16) (e.cmd.e.toNat / 16) e.cmd.b.toNat e.cmd.c.toNat = none) :
    exec (.srd e.bank e.seq) s = .next (settleEntry .cq e.ord 0x80 e.cmd.a s) := by
  rw [exec_srd, execSrd, exec_startRemote h, startStorage]
  simp [transferOf, hext]

theorem exec_swr_refused (h : Say.Starts 0x47 e s)
    (hext : extentFor s false (e.cmd.e.toNat % 16) (e.cmd.e.toNat / 16) e.cmd.b.toNat e.cmd.c.toNat = none) :
    exec (.swr e.bank e.seq) s = .next (settleEntry .cq e.ord 0x80 e.cmd.a s) := by
  rw [exec_swr, execSwr, exec_startRemote h, startStorage]
  simp [transferOf, hext]

/-- The pieces of a command. -/
def piecesFor (read : Bool) (e : Entry) (s : State) (lba : Nat) (data : Nat → Nat → List Byte) : List Piece :=
  piecesOf s.core.num s.pkg.time e (transferOf e.cmd read) lba (pieceBytes (e.cmd.e.toNat % 16) lba) s.io.nextPiece data

theorem exec_srd_pieces {x : Extent} (h : Say.Starts 0x46 e s)
    (hext : extentFor s true (e.cmd.e.toNat % 16) (e.cmd.e.toNat / 16) e.cmd.b.toNat e.cmd.c.toNat = some x) :
    exec (.srd e.bank e.seq) s = .next (sendPieces e (piecesFor true e s x.lba fun _ _ => []) s) := by
  rw [exec_srd, execSrd, exec_startRemote h, startStorage]
  simp [transferOf, hext, piecesFor]

/-- The transfer of an SWR as the extent table permits it, whose source is not sent in raw-bark form. -/
structure PlainSwr (e : Entry) (s : State) (x : Extent) : Prop where
  starts : Say.Starts 0x47 e s
  ext : extentFor s false (e.cmd.e.toNat % 16) (e.cmd.e.toNat / 16) e.cmd.b.toNat e.cmd.c.toNat = some x
  raw : e.cmd.flags.getLsbD 0 = false

theorem exec_swr_unread {x : Extent} (h : PlainSwr e s x) {f : BitVec 8 × Word} (hread : (agentRead s e.cmd.a e.cmd.c.toNat).fail = some f) :
    exec (.swr e.bank e.seq) s = .next (settleEntry .cq e.ord f.1 f.2 s) := by
  rw [exec_swr, execSwr, exec_startRemote h.starts, startStorage]
  have hraw := h.raw
  simp only [BitVec.getLsbD_eq_getElem, Nat.zero_lt_succ] at hraw
  simp [transferOf, h.ext, hraw, hread]

theorem exec_swr_pieces {x : Extent} (h : PlainSwr e s x) (hinject : e.inject = none) {bs : List Byte}
    (hread : agentRead s e.cmd.a e.cmd.c.toNat = ⟨bs, none⟩) :
    exec (.swr e.bank e.seq) s = .next (sendPieces e (piecesFor false e s x.lba fun o n => (bs.drop o).take n)
      (agentNote (driveNode (e.cmd.e.toNat % 16)) e.cmd.a e.cmd.c.toNat s)) := by
  rw [exec_swr, execSwr, exec_startRemote h.starts, startStorage]
  have hraw := h.raw
  simp only [BitVec.getLsbD_eq_getElem, Nat.zero_lt_succ] at hraw
  simp [transferOf, h.ext, hraw, hread, piecesFor, injectBytes_none hinject, fireInject_none hinject]

/-- A part of what a range holds is what that part holds. -/
theorem memRead_drop_take (m : List Host.Cell) {k n o l : Nat} (h : l ≤ n - o) : ((memRead m k n).drop o).take l = memRead m (k + o) l := by
  obtain rfl | hl := Nat.eq_zero_or_pos l
  · simp [memRead]
  obtain ⟨r, rfl⟩ := Nat.exists_eq_add_of_le (show o + l ≤ n by omega)
  rw [Nat.add_assoc, memRead_add, List.drop_left' (length_memRead ..), memRead_add, List.take_left' (length_memRead ..)]

/-- A source that begins in host space gives status 0x70 (R389). -/
theorem agentRead_host {va : Word} {n : Nat} {q : Place} (hn : 0 < n) (hq : engPlace s va (min n (128 - va.toNat % 128)) .read = .ok q)
    (hhost : q.loc = .host) : (agentRead s va n).fail = some (0x70, va) := by
  unfold agentRead
  rw [hostPart_first hn hq hhost]
  simp [engRead]

/-- A destination that begins in host space gives status 0x71 (R389). -/
theorem agentBad_host {va : Word} {n : Nat} {q : Place} (hn : 0 < n) (hq : engPlace s va (min n (128 - va.toNat % 128)) .write = .ok q)
    (hhost : q.loc = .host) : agentBad s va n = some (0, 0x71, va) := by
  unfold agentBad
  rw [hostPart_first hn hq hhost]
  simp [engBad]

/-- Writing that fails at its first byte writes nothing. -/
theorem agentStore_bad (io : Nat) (va : Word) (bs : List Byte) (st : BitVec 8) (a : Word) :
    agentStore io (some (0, st, a)) va bs s = (st, a, (freeBound 0 s).2) := by
  simp [agentStore, freeBound, agentPut, Nat.mod_one]

/-! ### A piece ends (R77) -/

/-- A piece of a command that is under way, which may end. -/
structure Ending (p : Piece) (e : Entry) (s : State) : Prop where
  mem : p ∈ s.io.pieces
  one : ∀ q ∈ s.io.pieces, q.id = p.id → q = p
  core : p.core = s.core.num
  q : p.q = .cq
  bank : p.bank = e.bank
  seq : p.seq = e.seq
  entry : Single .cq e s
  flight : e.st = .flight
  ripe : pieceOver s p = true
  inject : e.inject = none
  raw : p.rawb = false
  ckpt : p.ckpt = false

/-- The piece is gone, and its command's entry counts one less, with the first failure. -/
def PieceLeft (p : Piece) (e : Entry) (st : BitVec 8) (s t : State) : Prop :=
  (∀ q, q ∈ t.io.pieces ↔ q ∈ s.io.pieces ∧ q ≠ p)
    ∧ ∀ x ∈ t.core.queue .cq, x.ord = e.ord → x.outstanding = e.outstanding - 1 ∧ x.st = (if e.outstanding ≤ 1 then .worked else .flight)
      ∧ x.status = (if e.status = 0 then st else e.status)

/-- The pieces but the one that ends. -/
def withoutPiece (p : Piece) (s : State) : State := modIo (fun o => { o with pieces := o.pieces.filter fun x => x.id != p.id }) s

theorem samePlaces_withoutPiece (p : Piece) (s : State) : SamePlaces s (withoutPiece p s) := ⟨rfl, rfl, rfl, rfl, rfl, rfl, rfl⟩

variable {p : Piece}

theorem Ending.find? (h : Ending p e s) : s.io.pieces.find? (fun x => x.id == p.id) = some p := by
  cases hf : s.io.pieces.find? (fun x => x.id == p.id) with
  | none => simpa using List.find?_eq_none.mp hf p h.mem
  | some x => rw [h.one x (List.mem_of_find?_eq_some hf) (by simpa using List.find?_some hf)]

theorem Ending.pieceLeft (h : Ending p e s) {v : State} (hio : v.io = (withoutPiece p s).io) (hq : v.core.queue .cq = s.core.queue .cq) (st : BitVec 8)
    (tval : Word) : PieceLeft p e st s (modEntry .cq e.ord (pieceEnds st tval) v) := by
  refine ⟨fun q => ?_, fun x hx hord => ?_⟩
  · rw [modEntry_io, hio]
    simp only [withoutPiece, modIo, List.mem_filter, bne_iff_ne]
    exact and_congr_right fun hq => not_congr ⟨h.one q hq, congrArg Piece.id⟩
  · rw [(h.entry.congr hq).changed x hx hord]
    unfold pieceEnds
    refine ⟨rfl, ?_, ?_⟩
    · simp only [h.flight]
    · dsimp only
      split <;> rfl

/-- What has become of the state when a piece of the core whose turn it is ends with a status. -/
theorem Ending.turnTo_pieceDone (h : Ending p e s) {v : State} (hnum : v.core.num = s.core.num) (hq : v.core.queue .cq = s.core.queue .cq)
    (st : BitVec 8) (tval : Word) : turnTo s.core.num (pieceDone p st tval v) = modEntry .cq e.ord (pieceEnds st tval) v := by
  rw [pieceDone_single (by rw [h.q]; exact h.entry.congr hq) h.bank h.seq h.flight, h.q]
  exact if_pos ((modEntry_num ..).trans hnum)

theorem Ending.endPiece_eq (h : Ending p e s) (ok : Bool) (st : BitVec 8) (data : List Byte) : endPiece p ok st data s = turnTo s.core.num
    (if ok && p.read then
      let r := landPiece e p data (withoutPiece p s)
      pieceDone p r.1 r.2.1 r.2.2
    else if ok then pieceDone p 0 0 (withoutPiece p s)
    else pieceDone p st p.addr (if p.read then mixBytes p data (withoutPiece p s) else withoutPiece p s)) := by
  have hfind : findEntry (withoutPiece p s).core .cq e.bank e.seq = some e := findEntry_single (h.entry.congr rfl)
  have hturn : turnTo s.core.num (withoutPiece p s) = withoutPiece p s := if_pos rfl
  unfold endPiece
  dsimp only
  rw [if_neg (by simp [h.ckpt])]
  change atCore p.core _ (withoutPiece p s) = _
  rw [atCore, h.core, hturn, h.q, h.bank, h.seq]
  rw [hfind]
  rfl

/-- A piece that brings nothing ends with its status. -/
theorem Ending.endPiece_write (h : Ending p e s) (hread : p.read = false) (ok : Bool) (st : BitVec 8) (data : List Byte) :
    PieceLeft p e (if ok then 0 else st) s (endPiece p ok st data s) ∧ (endPiece p ok st data s).mem = s.mem := by
  have hends : ∃ st' tval, st' = (if ok then 0 else st) ∧ endPiece p ok st data s = modEntry .cq e.ord (pieceEnds st' tval) (withoutPiece p s) := by
    rw [h.endPiece_eq, hread, Bool.and_false, if_neg Bool.false_ne_true, if_neg Bool.false_ne_true]
    cases ok with
    | true => exact ⟨0, 0, rfl, h.turnTo_pieceDone (v := withoutPiece p s) rfl rfl ..⟩
    | false => exact ⟨st, p.addr, rfl, h.turnTo_pieceDone (v := withoutPiece p s) rfl rfl ..⟩
  obtain ⟨st', tval, rfl, hend⟩ := hends
  rw [hend]
  exact ⟨h.pieceLeft rfl rfl .., rfl⟩

/-- A piece that brings its data ends with the status of its landing. -/
theorem Ending.endPiece_read (h : Ending p e s) (hread : p.read = true) (st : BitVec 8) (data : List Byte) {r : BitVec 8 × Word × State}
    (hland : agentStore (driveNode p.drive) (agentBad (withoutPiece p s) p.addr p.len) p.addr data (withoutPiece p s) = r)
    (hnum : r.2.2.core.num = s.core.num) (hq : r.2.2.core.queue .cq = s.core.queue .cq) :
    endPiece p true st data s = modEntry .cq e.ord (pieceEnds r.1 r.2.1) r.2.2 := by
  have hr : landPiece e p data (withoutPiece p s) = r := by
    unfold landPiece
    simpa [h.raw, injectBytes_none h.inject, fireInject_none h.inject] using hland
  rw [h.endPiece_eq, hread, if_pos (by rfl), hr]
  exact h.turnTo_pieceDone hnum hq ..

theorem Ending.exec_complete (h : Ending p e s) {ok : Bool} {data : List Byte} (hlen : ok = true → p.read = true → data.length = p.len) :
    exec (.nvmePieceComplete p.id ok data) s = .next (endPiece p ok 0x81 data s) := by
  rw [exec_nvmePieceComplete]
  unfold execNvmePieceComplete
  rw [h.find?]
  dsimp only
  rw [if_neg (by simp [h.ripe]; exact fun hok hread _ => hlen hok hread)]

theorem Ending.heldW (h : Ending p e s) : s.ms.heldW = [] := by
  have := h.ripe
  unfold pieceOver at this
  simp only [Bool.and_eq_true, List.isEmpty_iff] at this
  exact this.1.1

/-- A piece of a read brings its bytes to their place. -/
theorem Ending.exec_complete_lands (h : Ending p e s) {data : List Byte} {k : Nat} (hwf : Memory.wf s.mem = true) (hlist : s.ms.poisonList = [])
    (hread : p.read = true) (hlen : data.length = p.len) (hflat : Say.Flat s p.addr p.len .write k) (hinside : Say.Inside s p.addr p.len .write) :
    ∃ t, exec (.nvmePieceComplete p.id true data) s = .next t ∧ PieceLeft p e 0 s t ∧ memRead t.mem k p.len = data ∧ Say.LandsIn k p.len s t := by
  have hflat' : Say.Flat (withoutPiece p s) p.addr data.length .write k := hlen ▸ (samePlaces_withoutPiece p s).flat hflat
  have hinside' : Say.Inside (withoutPiece p s) p.addr data.length .write := hlen ▸ (samePlaces_withoutPiece p s).inside hinside
  have hland := lands_agentPut (driveNode p.drive) hflat' h.heldW
  have hnum := congrArg (fun c : Core => c.num) hland.core
  have hq := congrArg (fun c : Core => c.queue .cq) hland.core
  refine ⟨_, h.exec_complete fun _ _ => hlen, ?_⟩
  rw [h.endPiece_read hread 0x81 data (r := (0, p.addr, agentPut (driveNode p.drive) p.addr data (withoutPiece p s)))
    (by rw [← hlen, agentBad_of_flat hflat' hinside']; rfl) hnum hq]
  refine ⟨h.pieceLeft hland.io hq .., ?_⟩
  rw [← hlen]
  exact hland.whole hlist hwf fun i hi => (hflat'.2 i hi).1

theorem Ending.exec_complete_host (h : Ending p e s) {data : List Byte} {q : Place} (hread : p.read = true) (hlen : data.length = p.len)
    (hpos : 0 < p.len) (hq : engPlace s p.addr (min p.len (128 - p.addr.toNat % 128)) .write = .ok q) (hhost : q.loc = .host) :
    ∃ t, exec (.nvmePieceComplete p.id true data) s = .next t ∧ PieceLeft p e 0x71 s t ∧ t.mem = s.mem := by
  have hbad : agentBad (withoutPiece p s) p.addr p.len = some (0, 0x71, p.addr) :=
    agentBad_host hpos (((samePlaces_withoutPiece p s).engPlace s.mem ..).trans hq) hhost
  refine ⟨_, h.exec_complete fun _ _ => hlen, ?_⟩
  rw [h.endPiece_read hread 0x81 data (r := (0x71, p.addr, (freeBound 0 (withoutPiece p s)).2)) (by rw [hbad, agentStore_bad]) rfl rfl]
  exact ⟨h.pieceLeft rfl rfl .., rfl⟩

theorem Ending.exec_timeout (h : Ending p e s) (hread : p.read = false) (htime : p.since + nvmeTicks p.drive ≤ s.pkg.time) :
    ∃ t, exec (.nvmePieceTimeout p.id) s = .next t ∧ PieceLeft p e 0x82 s t ∧ t.mem = s.mem := by
  refine ⟨endPiece p false 0x82 [] s, ?_, h.endPiece_write hread false 0x82 []⟩
  rw [exec_nvmePieceTimeout]
  unfold execNvmePieceTimeout
  rw [h.find?]
  dsimp only
  rw [if_pos (by simp [h.ripe, htime])]

theorem Ending.exec_timeout_early (h : Ending p e s) (htime : s.pkg.time < p.since + nvmeTicks p.drive) : exec (.nvmePieceTimeout p.id) s = .next s := by
  rw [exec_nvmePieceTimeout]
  unfold execNvmePieceTimeout
  rw [h.find?]
  dsimp only
  rw [if_neg (by simp; omega)]

/-! ### The extent table (R75, R423) -/

theorem attached_iff (x : Extent) : (attached x.drive x.nsid && x.lba == (Config.lbaFormat x.drive x.nsid).1) = true
    ↔ x.drive < 16 ∧ (x.lba = 512 ∨ x.lba = 4096) ∧ Config.lbaFormat x.drive x.nsid = (x.lba, 0) := by
  unfold attached
  generalize Config.lbaFormat x.drive x.nsid = f
  obtain ⟨a, b⟩ := f
  simp only [Bool.and_eq_true, Bool.or_eq_true, decide_eq_true_eq, beq_iff_eq, Prod.mk.injEq]
  constructor
  · rintro ⟨⟨⟨hd, hl⟩, hb⟩, ha⟩
    exact ⟨hd, ha ▸ hl, ha.symm, hb⟩
  · rintro ⟨hd, hl, rfl, hb⟩
    exact ⟨⟨⟨hd, hl⟩, hb⟩, rfl⟩

theorem exec_extentTableFill_down (asid : Mail Nat) (xs : List Extent) (hsl : s.pkg.sl = 0) : exec (.extentTableFill asid xs) s = .next s := by
  rw [exec_extentTableFill]
  exact if_pos (by simp [hostUp, hsl])

theorem exec_extentTableFill_up (m : Mail Nat) (xs : List Extent) (hsl : s.pkg.sl ≠ 0) : ∃ t, exec (.extentTableFill m xs) s = .next t ∧ t.mem = s.mem
    ∧ t.core = s.core
    ∧ ((xs.length ≤ 64 ∧ ∀ x ∈ xs, x.drive < 16 ∧ (x.lba = 512 ∨ x.lba = 4096) ∧ Config.lbaFormat x.drive x.nsid = (x.lba, 0)) →
        t.root.procs = s.root.procs.map (fun p => if p.asid = m.what then { p with extents := xs } else p) ∧ t.io.outs = s.io.outs ++ [.msi m.port 0])
    ∧ ((64 < xs.length ∨ ∃ x ∈ xs, 16 ≤ x.drive ∨ (x.lba ≠ 512 ∧ x.lba ≠ 4096) ∨ Config.lbaFormat x.drive x.nsid ≠ (x.lba, 0)) →
        t.root = s.root ∧ t.io.outs = s.io.outs ++ [.refused, .msi m.port 0]) := by
  have hup := hostUp_of_sl hsl
  have hall : (decide (xs.length ≤ 64) && xs.all fun x => attached x.drive x.nsid && x.lba == (Config.lbaFormat x.drive x.nsid).1) = true
      ↔ xs.length ≤ 64 ∧ ∀ x ∈ xs, x.drive < 16 ∧ (x.lba = 512 ∨ x.lba = 4096) ∧ Config.lbaFormat x.drive x.nsid = (x.lba, 0) := by
    rw [Bool.and_eq_true, decide_eq_true_iff, List.all_eq_true]
    exact and_congr_right fun _ => forall₂_congr fun x _ => attached_iff x
  rw [exec_extentTableFill]
  unfold execExtentTableFill
  rw [if_neg (by simp [hup])]
  by_cases hok : xs.length ≤ 64 ∧ ∀ x ∈ xs, x.drive < 16 ∧ (x.lba = 512 ∨ x.lba = 4096) ∧ Config.lbaFormat x.drive x.nsid = (x.lba, 0)
  · rw [if_pos (hall.mpr hok)]
    refine ⟨_, rfl, rfl, rfl, fun _ => ⟨rfl, rfl⟩, fun hbad => ?_⟩
    obtain ⟨hlen, hxs⟩ := hok
    obtain hlong | ⟨x, hx, hbad⟩ := hbad
    · omega
    · obtain ⟨hd, hl, hf⟩ := hxs x hx
      obtain h1 | ⟨h2, h3⟩ | h4 := hbad
      · omega
      · exact absurd hl (by simp [h2, h3])
      · exact absurd hf h4
  · rw [if_neg (mt hall.mp hok)]
    exact ⟨_, rfl, rfl, rfl, fun h => absurd h hok, fun _ => ⟨rfl, by simp [msi, mailRefuse]⟩⟩

/-- Settles O37: a command's pieces cover its transfer by their numbers, and a piece's end is a landing of its bytes at the keys that the range lies
at, followed by a move of its command's entry. -/
theorem storageCommands : Obligations.StorageCommands := by
  intro e s hwf
  refine ⟨fun h hext => ?_, fun h hext => ?_, fun x h hext => ?_, fun x k h hext hraw hflat hinside hinject => ?_, fun x q h hext hraw hn hq hhost => ?_,
    fun p data k hmem hone hcore hpq hbank hseq he hinner hsingle hst hripe hinject hraw hckpt hlist => ?_, fun asid xs => exec_extentTableFill_down asid xs,
    exec_extentTableFill_up⟩
  · exact ⟨_, exec_srd_refused h hext, (single_of_claimed h.1.1).ends .., rfl, rfl⟩
  · exact ⟨_, exec_swr_refused h hext, (single_of_claimed h.1.1).ends .., rfl, rfl⟩
  · obtain ⟨hmem, hpieces, hentry⟩ := sendPieces_leaves e (piecesFor true e s x.lba fun _ _ => []) (single_of_claimed h.1.1)
    refine ⟨_, _, exec_srd_pieces h hext, hmem, hpieces, length_piecesOf .., fun y hy hord => ?_, fun i p hp => ?_⟩
    · rw [hentry y hy hord]
      exact ⟨h.1.1.2.1, length_piecesOf ..⟩
    · obtain ⟨hread, hoff, hlen, hlba, haddr, hseq, hbank, hcore, -⟩ := piecesOf_getElem? hp
      exact ⟨hread, hoff, hlen, hlba, haddr, hseq, hbank, hcore⟩
  · have hread := agentRead_of_flat hflat hinside
    obtain ⟨hmem, hpieces, -⟩ := sendPieces_leaves e (piecesFor false e s x.lba fun o n => ((memRead s.mem k e.cmd.c.toNat).drop o).take n)
      (s := agentNote (driveNode (e.cmd.e.toNat % 16)) e.cmd.a e.cmd.c.toNat s)
      ((single_of_claimed h.1.1).congr (by rw [agentNote_core]))
    rw [agentNote_mem] at hmem
    rw [agentNote_io] at hpieces
    refine ⟨_, _, exec_swr_pieces ⟨h, hext, hraw⟩ hinject hread, hmem, hpieces, length_piecesOf .., fun i p hp => ?_⟩
    obtain ⟨hread, hoff, hlen, hlba, -, -, -, -, hdata⟩ := piecesOf_getElem? hp
    refine ⟨hread, hoff, hlen, hlba, ?_⟩
    rw [hdata, hlen]
    exact memRead_drop_take _ (Nat.min_le_right ..)
  · exact ⟨_, exec_swr_unread ⟨h, hext, hraw⟩ (agentRead_host hn hq hhost), (single_of_claimed h.1.1).ends .., rfl, rfl⟩
  · have h : Ending p e s := ⟨hmem, hone, hcore, hpq, hbank, hseq, ⟨he, hinner, hsingle⟩, hst, hripe, hinject, hraw, hckpt⟩
    refine ⟨fun hread hlen hflat hinside => h.exec_complete_lands hwf hlist hread hlen hflat hinside,
      fun q hread hlen hpos hq hhost => h.exec_complete_host hread hlen hpos hq hhost, fun hread => ⟨?_, ?_, h.exec_timeout hread, h.exec_timeout_early⟩⟩
    · exact ⟨_, h.exec_complete fun _ hr => absurd hr (by simp [hread]), h.endPiece_write hread true 0x81 data⟩
    · exact ⟨_, h.exec_complete fun hok => absurd hok Bool.false_ne_true, h.endPiece_write hread false 0x81 data⟩

end Sys2Proof.Proofs
end

section
/-! SUPPORT. Connections: their entries, the packets that go out on them, and the ends of their commands (R78 to R81, R385, R390). -/

namespace Sys2Proof.Machine

variable {conn : Nat} {p : Peer} {e : Entry} {s : State}

/-! ### Entries of connections -/

theorem conn_of_peer? (h : peer? s conn = some p) : p.conn = conn := by simpa using List.find?_some h

theorem peer?_modPeer {f : Peer → Peer} (hf : ∀ x, (f x).conn = x.conn) (s : State) : peer? (modPeer conn f s) conn = (peer? s conn).map f := by
  show (s.io.peers.map fun x => if x.conn = conn then f x else x).find? _ = _
  rw [List.find?_map]
  have hpick : (fun x : Peer => x.conn == conn) ∘ (fun x => if x.conn = conn then f x else x) = fun x => x.conn == conn := by
    funext x
    by_cases hx : x.conn = conn <;> simp [hx, hf]
  rw [hpick]
  unfold peer?
  cases h : s.io.peers.find? (fun x => x.conn == conn) with
  | none => rfl
  | some x => exact congrArg some (if_pos (by simpa using List.find?_some h))

theorem peer?_modPeer_some {f : Peer → Peer} (h : peer? s conn = some p) (hf : ∀ x, (f x).conn = x.conn) : peer? (modPeer conn f s) conn = some (f p) := by
  rw [peer?_modPeer hf, h]; rfl

theorem peer?_congr {t : State} (h : t.io.peers = s.io.peers) : peer? t conn = peer? s conn := by
  unfold peer?; rw [h]

@[simp] theorem modPeer_pkg (conn : Nat) (f : Peer → Peer) (s : State) : (modPeer conn f s).pkg = s.pkg := rfl
@[simp] theorem peer?_wire (conn c : Nat) (r : PeerPkt) (s : State) : peer? (wire c r s) conn = peer? s conn := rfl

/-! ### Packets that go out (R79) -/

/-- Packets with their sequence numbers, from the first one on. -/
def numbered (first : W32) (ps : List PeerPkt) : List PeerPkt := ps.mapIdx fun i r => { r with seq := first + BitVec.ofNat 32 i }

theorem numbered_cons (first : W32) (r : PeerPkt) (ps : List PeerPkt) : numbered first (r :: ps) = { r with seq := first } :: numbered (first + 1) ps := by
  unfold numbered
  rw [List.mapIdx_cons]
  congr 1
  · simp
  · congr 1
    funext i r
    congr 1
    rw [BitVec.ofNat_add, BitVec.add_comm (BitVec.ofNat 32 i), BitVec.add_assoc]
    rfl

/-- What a sent packet makes of its connection's entry. -/
def outstands (r : PeerPkt) (core : Nat) (bank : Bool) (seq time : Nat) (x : Peer) : Peer :=
  { x with nextSeq := x.nextSeq + 1, unacked := x.unacked ++ [⟨{ r with seq := x.nextSeq }, core, bank, seq⟩],
           since := if x.unacked.isEmpty then time else x.since }

theorem sendPackets_cons (h : peer? s conn = some p) (fromCore : Bool) (core : Nat) (bank : Bool) (seq : Nat) (r : PeerPkt) (ps : List PeerPkt) :
    ∃ t, sendPackets fromCore conn core bank seq (r :: ps) s = sendPackets fromCore conn core bank seq ps (launchPkt fromCore conn core { r with seq := p.nextSeq } t)
      ∧ (∃ f, t = modPeer conn f s) ∧ peer? t conn = some (outstands r core bank seq s.pkg.time p) := by
  rw [sendPackets, h]
  exact ⟨_, rfl, ⟨_, rfl⟩, peer?_modPeer_some h fun _ => rfl⟩

theorem peer?_launchPkt (fromCore : Bool) (conn core : Nat) (r : PeerPkt) (s : State) : peer? (launchPkt fromCore conn core r s) conn = peer? s conn := by
  cases fromCore <;> rfl

/-- What sent packets add where they go: one after another in sequence. -/
theorem sendPackets_out {β : Type} {fromCore : Bool} {core : Nat} {bank : Bool} {seq : Nat} {out : State → List β} {g : PeerPkt → β}
    (hpeer : ∀ f s, out (modPeer conn f s) = out s) (hlaunch : ∀ r s, out (launchPkt fromCore conn core r s) = out s ++ [g r]) :
    ∀ (ps : List PeerPkt) {s : State} {p : Peer}, peer? s conn = some p →
      out (sendPackets fromCore conn core bank seq ps s) = out s ++ (numbered p.nextSeq ps).map g
  | [], s, p, _ => by simp [sendPackets, numbered]
  | r :: ps, s, p, h => by
    obtain ⟨t, heq, ⟨f, rfl⟩, hp⟩ := sendPackets_cons h fromCore core bank seq r ps
    rw [heq, sendPackets_out hpeer hlaunch ps ((peer?_launchPkt ..).trans hp), hlaunch, hpeer, numbered_cons, List.map_cons, List.append_assoc]
    rfl

/-- What packets that are sent leave. -/
theorem sendPackets_keeps {α : Type} {fromCore : Bool} {core : Nat} {bank : Bool} {seq : Nat} {get : State → α}
    (hpeer : ∀ f s, get (modPeer conn f s) = get s) (hlaunch : ∀ r s, get (launchPkt fromCore conn core r s) = get s) :
    ∀ (ps : List PeerPkt) (s : State), get (sendPackets fromCore conn core bank seq ps s) = get s
  | [], s => rfl
  | r :: ps, s => by
    rw [sendPackets]
    cases peer? s conn with
    | none => rfl
    | some x => exact (sendPackets_keeps hpeer hlaunch ps _).trans ((hlaunch _ _).trans (hpeer _ _))

theorem launchPkt_mem (fromCore : Bool) (conn core : Nat) (r : PeerPkt) (s : State) : (launchPkt fromCore conn core r s).mem = s.mem := by
  cases fromCore <;> rfl

theorem sendPackets_mem (fromCore : Bool) (conn core : Nat) (bank : Bool) (seq : Nat) (ps : List PeerPkt) (s : State) :
    (sendPackets fromCore conn core bank seq ps s).mem = s.mem :=
  sendPackets_keeps (get := State.mem) (fun _ _ => rfl) (fun _ _ => launchPkt_mem ..) ps s

/-- A run of bytes in packets of up to 8,192 B, numbered (R78). -/
theorem numbered_dataPackets (op : Nat) (p : Peer) (key : W32) (va : Word) (bs : List Byte) :
    numbered p.nextSeq (dataPackets op p.info.connId key va bs) = (List.range ((bs.length + 8191) / 8192)).map (Say.packet op p key va bs) := by
  unfold numbered dataPackets
  apply List.ext_getElem <;> simp [Say.packet, packetBytes]

/-! ### Ends of commands (R79, R81) -/

theorem Single.modEntry {q : Queue} (h : Single q e s) {f : Entry → Entry} (hf : ∀ x, (f x).bank = x.bank ∧ (f x).seq = x.seq ∧ (f x).ord = x.ord ∧ (f x).inner = x.inner) :
    Single q (f e) (modEntry q e.ord f s) := by
  obtain ⟨hbank, hseq, hord, hinner⟩ := hf e
  refine ⟨?_, hinner.trans h.inner, fun x hx hor => ?_⟩
  · rw [queue_modEntry]
    exact List.mem_map.mpr ⟨e, h.mem, if_pos rfl⟩
  · rw [hbank, hseq, hord] at hor
    rw [queue_modEntry] at hx
    obtain ⟨y, hy, rfl⟩ := List.mem_map.mp hx
    by_cases hy' : y.ord = e.ord
    · rw [if_pos hy', h.single y hy (.inr hy')]
    · rw [if_neg hy'] at hor
      exact absurd (congrArg Entry.ord (h.single y hy hor)) hy'

/-- The core is told from the connection's I/O die (R420). -/
abbrev told (conn : Nat) (s : State) : State := visit .ext (peerNode conn) (twigOf s.core.num) s

theorem turnTo_told (conn : Nat) (s : State) : turnTo s.core.num (told conn s) = told conn s := if_pos rfl

theorem findEntry_told (h : Single .cq e s) (conn : Nat) : findEntry (told conn s).core .cq e.bank e.seq = some e := findEntry_single (h.congr rfl)

/-- A command under way that waits for its peer ends with a status. -/
theorem endPeerCmd_flight (h : Single .cq e s) (hst : e.st = .flight) (conn : Nat) (st : BitVec 8) : endPeerCmd conn s.core.num e.bank e.seq st s
    = settleEntry .cq e.ord st (if st = 0 then e.tval else e.cmd.a) (told conn s) := by
  unfold endPeerCmd
  rw [atCore, turnTo_told, findEntry_told h]
  change turnTo _ (if e.st = .flight then _ else _) = _
  rw [if_pos hst]
  exact if_pos (modEntry_num ..)

/-- One that has ended stays as it is. -/
theorem endPeerCmd_over (h : Single .cq e s) (hst : e.st ≠ .flight) (conn : Nat) (st : BitVec 8) :
    endPeerCmd conn s.core.num e.bank e.seq st s = told conn s := by
  unfold endPeerCmd
  rw [atCore, turnTo_told, findEntry_told h]
  change turnTo _ (if e.st = .flight then _ else _) = _
  rw [if_neg hst]
  exact turnTo_told conn s

/-- An entry that is not closing sends no CLOSE. -/
theorem closeIfIdle_open (h : peer? s conn = some p) (hclosing : p.closing = false) : closeIfIdle conn s = s := by
  unfold closeIfIdle
  rw [h]
  exact if_pos (by simp [hclosing])

/-- The move of an entry's end, as it stands in the state that it is made in. -/
theorem ends_of_settle {v : State} (h : Single .cq e s) (hq : v.core.queue .cq = s.core.queue .cq) (st : BitVec 8) (tval : Word) :
    Say.Ends e st s (settleEntry .cq e.ord st tval v) := by
  obtain ⟨hend, hother⟩ := (h.congr hq).ends st tval
  exact ⟨hend, fun x hx => hother x (hq ▸ hx)⟩

theorem ends_congr {st : BitVec 8} {t u : State} (h : Say.Ends e st s t) (hq : u.core.queue .cq = t.core.queue .cq) : Say.Ends e st s u := by
  unfold Say.Ends at *
  rwa [hq]

/-! ### Ranges of a process (R79) -/

theorem Consecutive.bounds {hi : Nat} : ∀ {ps : List (Nat × Nat)} {lo : Nat}, Consecutive lo ps hi → ∀ p ∈ ps, lo ≤ p.1 ∧ p.1 + p.2 ≤ hi ∧ 0 < p.2
  | q :: _, lo, ⟨hlo, hpos, h⟩, p, hp => by
    obtain rfl | hp := List.mem_cons.mp hp
    · exact ⟨Nat.le_of_eq hlo.symm, hlo ▸ h.le, hpos⟩
    · obtain ⟨h1, h2⟩ := h.bounds p hp
      exact ⟨by omega, h2⟩

theorem mapM_eq_map {α β : Type} {f : α → Option β} {g : α → β} : ∀ {l : List α}, (∀ a ∈ l, f a = some (g a)) → l.mapM f = some (l.map g)
  | [], _ => rfl
  | a :: l, h => by
    obtain ⟨ha, hl⟩ := List.forall_mem_cons.mp h
    rw [List.mapM_cons, ha, mapM_eq_map hl]
    rfl

/-- A range that lies flat, below 2^47 and so in no window, is mapped for the process of the core, part by part. -/
theorem rangeOf_of_flat {va : Word} {n k : Nat} {acc : Acc} (h : Say.Flat s va n acc k) (hw : va.toNat + n ≤ 2 ^ 47) :
    ∃ pl : Nat × Nat → Place, rangeOf s s.core.asid va n acc = some ((lineParts va n).map fun p => (p.1, pl p, p.2))
      ∧ ∀ p ∈ lineParts va n, (pl p).key = k + p.1 ∧ poisoned s (k + p.1) p.2 = false := by
  obtain ⟨hparts, -⟩ := h
  have hplace : ∀ p ∈ lineParts va n, ∃ q, inWindow (va + BitVec.ofNat 64 p.1) = false ∧ resolvePage s s.core.asid (va + BitVec.ofNat 64 p.1) acc = .ok q
      ∧ q.key = k + p.1 ∧ poisoned s (k + p.1) p.2 = false := by
    intro p hp
    obtain ⟨q, hq, hkey, hpoison, -⟩ := hparts p hp s.mem
    have hq : engPlace s _ _ _ = .ok q := hq
    have hwin : inWindow (va + BitVec.ofNat 64 p.1) = false := by
      obtain ⟨-, hle, -⟩ := (consecutive_lineParts va n).bounds p hp
      have hto : (va + BitVec.ofNat 64 p.1).toNat = va.toNat + p.1 := by
        rw [BitVec.toNat_add, BitVec.toNat_ofNat, Nat.mod_eq_of_lt (show p.1 < 2 ^ 64 by omega), Nat.mod_eq_of_lt (by omega)]
      unfold inWindow regionOf
      rw [hto, decide_eq_false_iff_not]
      omega
    unfold engPlace at hq
    rw [hwin] at hq
    exact ⟨q, hwin, hq, hkey, hkey ▸ hpoison⟩
  have hdefault : Nonempty Place := ⟨⟨0, .own, .uncached, false, false, false⟩⟩
  choose! pl hpl using hplace
  refine ⟨pl, mapM_eq_map fun p hp => ?_, fun p hp => (hpl p hp).2.2⟩
  obtain ⟨hwin, hq, -⟩ := hpl p hp
  dsimp only
  rw [hwin, hq]
  rfl

/-- What is written at the places of a range, part by part, lands at the keys that the range lies at. -/
theorem lands_rangeWrite (io : Nat) {va : Word} {k : Nat} {bs : List Byte} {pl : Nat × Nat → Place} (hkey : ∀ p ∈ lineParts va bs.length, (pl p).key = k + p.1)
    {v : State} (hheld : v.ms.heldW = []) : Lands (overwrite k bs) v (((lineParts va bs.length).map fun p => (p.1, pl p, p.2)).foldl (fun s q =>
      performIo ⟨inSlice q.2.1, false, false, q.2.1.bark⟩ io q.2.1.key ((bs.drop q.1).take q.2.2) s) v) := by
  refine (lands_foldl (fun s q h _ => lands_performIo _ io q.2.1.key ((bs.drop q.1).take q.2.2) h) _ hheld rfl).congr fun a b => ?_
  rw [List.foldl_map, List.foldl_ext _ (fun b p => overwrite (k + p.1) ((bs.drop p.1).take p.2) a b) _ fun b p hp => by rw [hkey p hp]]
  exact foldl_overwrite_consecutive k bs a rfl (consecutive_lineParts va bs.length) b

/-- Data of a read lands; the command that waits for it goes on, or ends with the last of it. -/
theorem landRead_flat {r : PeerRead} (h : Single .cq e s) (hst : e.st = .flight) (hcore : r.core = s.core.num) (hbank : r.bank = e.bank) (hseq : r.seq = e.seq)
    {bs : List Byte} {k : Nat} (hflat : Say.Flat s r.dest bs.length .write k) (hheld : s.ms.heldW = []) (conn : Nat) (last : Bool) :
    landRead conn r bs last s = (if last then settleEntry .cq e.ord 0 0 else id)
      (agentPut (peerNode conn) r.dest bs (told conn s)) := by
  have hsame : SamePlaces s (told conn s) := ⟨rfl, rfl, rfl, rfl, rfl, rfl, rfl⟩
  have hnum := congrArg Core.num (lands_agentPut (peerNode conn) (hsame.flat hflat) hheld).core
  have hput : (agentPut (peerNode conn) r.dest bs (told conn s)).core.num = s.core.num := hnum
  unfold landRead
  rw [hcore, hbank, hseq, atCore, turnTo_told, findEntry_told h]
  dsimp only
  rw [if_neg (by simp [hst]), engBad_of_flat (hsame.flat hflat)]
  cases last with
  | true => exact if_pos (show (settleEntry .cq e.ord 0 0 (agentPut (peerNode conn) r.dest bs (told conn s))).core.num = _ from (modEntry_num ..).trans hput)
  | false => exact if_pos hput

/-- Without an injection the bytes of a read are those that came. -/
theorem readBytes_plain {r : PeerRead} (h : Single .cq e s) (hcore : r.core = s.core.num) (hbank : r.bank = e.bank) (hseq : r.seq = e.seq)
    (hinject : e.inject = none) (data : List Byte) : readBytes r data s = (data, s) := by
  unfold readBytes
  rw [hcore, getCore_self, hbank, hseq, findEntry_single h]
  dsimp only
  rw [injectBytes_none hinject, atCore_self (by rw [fireInject_none hinject]), fireInject_none hinject]

/-! ### Packets that arrive (R79) -/

/-- The entry waits for the next packet. -/
def expectNext (conn : Nat) (s : State) : State := modPeer conn (fun p => { p with expect := p.expect + 1 }) s

theorem peer?_expectNext (h : peer? s conn = some p) : peer? (expectNext conn s) conn = some { p with expect := p.expect + 1 } :=
  peer?_modPeer_some h fun _ => rfl

theorem samePlaces_expectNext (conn : Nat) (s : State) : SamePlaces s (expectNext conn s) := ⟨rfl, rfl, rfl, rfl, rfl, rfl, rfl⟩

/-- A packet that arrives on an open connection while no write is held. -/
structure Arrives (conn : Nat) (p : Peer) (pkt : PeerPkt) (s : State) : Prop where
  peer : peer? s conn = some p
  opened : p.st = .opened
  ok : pktOk pkt = true
  held : s.ms.heldW = []

variable {pkt : PeerPkt}

theorem Arrives.peerInOrder_next (h : Arrives conn p pkt s) {op : Nat} (hop : pkt.op = op) (hseq : pkt.seq = p.expect) {f : Peer → State → State × Bool}
    {t : State} {refused : Bool} (hf : f p (expectNext conn s) = (t, refused)) :
    peerInOrder conn op pkt f s = .next (answerPkt conn p refused refused pkt.seq t) := by
  unfold expectNext at hf
  unfold peerInOrder
  rw [h.peer]
  dsimp only
  rw [if_neg (by simp [h.opened, hop, h.ok, h.held]), if_pos hseq, hf]

theorem Arrives.peerInOrder_other (h : Arrives conn p pkt s) {op : Nat} (hop : pkt.op = op) (hseq : pkt.seq ≠ p.expect) (f : Peer → State → State × Bool) :
    ∃ t, peerInOrder conn op pkt f s = .next t ∧ t.mem = s.mem ∧ t.core = s.core
      ∧ Say.Answers conn p (if (p.expect - pkt.seq).toNat < 2 ^ 31 then 3 else 4) false (p.expect - 1) s t := by
  unfold peerInOrder
  rw [h.peer]
  dsimp only
  rw [if_neg (by simp [h.opened, hop, h.ok, h.held]), if_neg hseq]
  by_cases hle : (p.expect - pkt.seq).toNat < 2 ^ 31
  · rw [if_pos (by simpa [seqLe] using hle), if_pos hle]
    exact ⟨_, rfl, rfl, rfl, _, rfl, rfl, rfl, rfl, rfl⟩
  · rw [if_neg (by simpa [seqLe] using hle), if_neg hle]
    exact ⟨_, rfl, rfl, rfl, _, rfl, rfl, rfl, rfl, rfl⟩

theorem answers_answerPkt {t : State} (h : t.io.sentPkts = s.io.sentPkts) (conn : Nat) (p : Peer) (nak refused : Bool) (n : W32) :
    Say.Answers conn p (if nak then 4 else 3) refused n s (answerPkt conn p nak refused n t) :=
  ⟨_, congrArg (· ++ _) h, rfl, rfl, rfl, rfl⟩

end Sys2Proof.Machine
end

section
/-! PROOFS. The peer transport. -/

namespace Sys2Proof.Proofs
open Sys2Proof Sys2Proof.Machine

variable {conn : Nat} {p : Peer} {pkt : PeerPkt} {e : Entry} {s : State}

/-! ### Commands begin (R390) -/

/-- The READREQ of an NRD (R78). -/
def readReq (p : Peer) (c : Cmd) : PeerPkt :=
  { ver := 1, op := 1, last := true, refused := false, conn := p.info.connId, seq := p.nextSeq, key := p.info.key, addr := c.b, len := c.c.toNat, ackseq := 0,
    data := [] }

theorem peerStop_opened (h : peer? s conn = some p) (hst : p.st = .opened) (hclosing : p.closing = false) : peerStop s conn = none := by
  simp [peerStop, h, hst, hclosing]

theorem peerStop_closed (h : peer? s conn = some p) (hst : p.st = .closed ∨ (p.st = .opened ∧ p.closing = true)) : peerStop s conn = some 0x8A := by
  obtain hst | ⟨hst, hclosing⟩ := hst
  · simp [peerStop, h, hst]
  · simp [peerStop, h, hst, hclosing]

theorem exec_nrd_sends (h : peer? s conn = some p) (hst : p.st = .opened) (hclosing : p.closing = false) (hconn : e.cmd.e.toNat = conn)
    (hstart : Say.Starts 0x48 e s) : ∃ t, exec (.nrd e.bank e.seq) s = .next t ∧ t.mem = s.mem
      ∧ t.fab.net = s.fab.net ++ [⟨.ext, twigOf s.core.num, peerNode conn, .peer conn (readReq p e.cmd)⟩]
      ∧ peer? t conn = some { p with
          nextSeq := p.nextSeq + 1, unacked := p.unacked ++ [⟨readReq p e.cmd, s.core.num, e.bank, e.seq⟩],
          reads := p.reads ++ [⟨s.core.num, e.bank, e.seq, e.cmd.a, e.cmd.c.toNat, []⟩], since := if p.unacked = [] then s.pkg.time else p.since } := by
  rw [exec_nrd, execNrd, exec_startRemote hstart, startNrd, hconn, peerStop_opened h hst hclosing, h]
  obtain ⟨t, heq, ⟨f, rfl⟩, hp⟩ := sendPackets_cons (s := modPeer conn (fun x => { x with
    reads := x.reads ++ [⟨s.core.num, e.bank, e.seq, e.cmd.a, e.cmd.c.toNat, []⟩] }) s) (peer?_modPeer_some h fun _ => rfl) true s.core.num e.bank e.seq
    { readReq p e.cmd with seq := 0 } []
  refine ⟨_, congrArg (fun u => Host.Outcome.next (awaitPeer e u)) heq, ?_⟩
  refine ⟨rfl, rfl, hp.trans (congrArg some ?_)⟩
  simp [outstands, readReq]

theorem exec_nwr_sends (h : peer? s conn = some p) (hst : p.st = .opened) (hclosing : p.closing = false) (hconn : e.cmd.e.toNat = conn)
    (hstart : Say.Starts 0x49 e s) (hn : 0 < e.cmd.c.toNat) {k : Nat} (hflat : Say.Flat s e.cmd.b e.cmd.c.toNat .read k) (hinject : e.inject = none) :
    ∃ t, exec (.nwr e.bank e.seq) s = .next t ∧ t.mem = s.mem ∧ t.fab.net = s.fab.net ++ (List.range ((e.cmd.c.toNat + 8191) / 8192)).map fun i =>
      ⟨.ext, twigOf s.core.num, peerNode conn, .peer conn (Say.packet 0 p p.info.key e.cmd.a (memRead s.mem k e.cmd.c.toNat) i)⟩ := by
  rw [exec_nwr, execNwr, exec_startRemote hstart, startNwr, hconn, peerStop_opened h hst hclosing, engRead_of_flat hflat]
  dsimp only
  rw [fireInject_none hinject, injectBytes_none hinject]
  have hp : peer? (agentNote (peerNode conn) e.cmd.b e.cmd.c.toNat s) conn = some p := (peer?_congr (by rw [agentNote_io])).trans h
  have hmem := agentNote_mem (peerNode conn) e.cmd.b e.cmd.c.toNat s
  have hnet := agentNote_net (peerNode conn) e.cmd.b e.cmd.c.toNat s
  have hcore := agentNote_core (peerNode conn) e.cmd.b e.cmd.c.toNat s
  generalize agentNote (peerNode conn) e.cmd.b e.cmd.c.toNat s = v at hp hmem hnet hcore ⊢
  have hlen : (memRead s.mem k e.cmd.c.toNat).length = e.cmd.c.toNat := length_memRead ..
  generalize memRead s.mem k e.cmd.c.toNat = bs at hlen ⊢
  have hlast : (dataPackets 0 p.info.connId p.info.key e.cmd.a bs).mapIdx (fun i x => { x with last := i + 1 == (dataPackets 0 p.info.connId p.info.key e.cmd.a bs).length })
      = dataPackets 0 p.info.connId p.info.key e.cmd.a bs := by
    unfold dataPackets
    apply List.ext_getElem <;> simp
  have hpos : (dataPackets 0 p.info.connId p.info.key e.cmd.a bs).length ≠ 0 := by
    simp only [dataPackets, List.length_map, List.length_range, packetBytes, hlen]
    omega
  unfold sendData
  rw [hp]
  simp only [List.flatMap_cons, List.flatMap_nil, List.append_nil, hlast, if_neg hpos]
  have hout := sendPackets_out (fromCore := true) (core := v.core.num) (bank := e.bank) (seq := e.seq) (out := (·.fab.net))
    (g := fun r => ⟨.ext, twigOf v.core.num, peerNode conn, .peer conn r⟩) (fun _ _ => rfl) (fun _ _ => rfl) (dataPackets 0 p.info.connId p.info.key e.cmd.a bs) hp
  rw [numbered_dataPackets, hlen, hnet, List.map_map, hcore] at hout
  refine ⟨_, rfl, ?_, ?_⟩
  · exact (sendPackets_mem ..).trans hmem
  · rw [← hcore] at hout ⊢
    exact hout

theorem exec_nrd_closed (h : peer? s conn = some p) (hst : p.st = .closed ∨ (p.st = .opened ∧ p.closing = true)) (hconn : e.cmd.e.toNat = conn)
    (hstart : Say.Starts 0x48 e s) : exec (.nrd e.bank e.seq) s = .next (settleEntry .cq e.ord 0x8A e.cmd.a s) := by
  rw [exec_nrd, execNrd, exec_startRemote hstart, startNrd, hconn, peerStop_closed h hst]

theorem exec_nwr_closed (h : peer? s conn = some p) (hst : p.st = .closed ∨ (p.st = .opened ∧ p.closing = true)) (hconn : e.cmd.e.toNat = conn)
    (hstart : Say.Starts 0x49 e s) : exec (.nwr e.bank e.seq) s = .next (settleEntry .cq e.ord 0x8A e.cmd.a s) := by
  rw [exec_nwr, execNwr, exec_startRemote hstart, startNwr, hconn, peerStop_closed h hst]

/-! ### Packets in order (R79, R80) -/

/-- A WRITE whose range lies flat in the process of the connection. -/
structure TakesRange (p : Peer) (pkt : PeerPkt) (n : Nat) (acc : Acc) (k : Nat) (s : State) : Prop where
  flat : Say.Flat s pkt.addr n acc k
  asid : p.info.asid = s.core.asid
  low : pkt.addr.toNat + n ≤ 2 ^ 47

theorem takeWrite_granted {k : Nat} (h : TakesRange p pkt pkt.data.length .write k s) (hgrant : granted p.info pkt pkt.data.length true = true)
    (hheld : s.ms.heldW = []) : ∃ t, takeWrite pkt p s = (t, false) ∧ Lands (overwrite k pkt.data) s t := by
  obtain ⟨pl, hrange, hpl⟩ := rangeOf_of_flat h.flat h.low
  unfold takeWrite
  dsimp only
  rw [h.asid, hrange]
  dsimp only
  rw [if_pos hgrant]
  exact ⟨_, rfl, lands_rangeWrite _ (fun q hq => (hpl q hq).1) hheld⟩

theorem takeWrite_refused {k : Nat} (h : TakesRange p pkt pkt.data.length .write k s) (hgrant : granted p.info pkt pkt.data.length true = false) :
    takeWrite pkt p s = (s, true) := by
  obtain ⟨pl, hrange, hpl⟩ := rangeOf_of_flat h.flat h.low
  unfold takeWrite
  dsimp only
  rw [h.asid, hrange]
  dsimp only
  rw [if_neg (by simp [hgrant])]

theorem TakesRange.expectNext {n : Nat} {acc : Acc} {k : Nat} (h : TakesRange p pkt n acc k s) (conn : Nat) :
    TakesRange p pkt n acc k (expectNext conn s) :=
  ⟨(samePlaces_expectNext conn s).flat h.flat, h.asid, h.low⟩

theorem exec_peerWrite_granted (h : Arrives conn p pkt s) (hop : pkt.op = 0) (hseq : pkt.seq = p.expect) {k : Nat}
    (hrange : TakesRange p pkt pkt.data.length .write k s) (hgrant : granted p.info pkt pkt.data.length true = true) (hlist : s.ms.poisonList = [])
    (hwf : Memory.wf s.mem = true) : ∃ t, exec (.peerWrite conn pkt) s = .next t ∧ memRead t.mem k pkt.data.length = pkt.data
      ∧ Say.LandsIn k pkt.data.length s t ∧ Say.Answers conn p 3 false pkt.seq s t := by
  obtain ⟨t, htake, hland⟩ := takeWrite_granted (hrange.expectNext conn) hgrant h.held
  obtain ⟨hread, hout⟩ := hland.whole hlist hwf fun i hi => (hrange.flat.2 i hi).1
  exact ⟨_, (exec_peerWrite ..).trans (h.peerInOrder_next hop hseq htake), hread, hout, answers_answerPkt (congrArg Io.sentPkts hland.io) ..⟩

theorem exec_peerWrite_refused (h : Arrives conn p pkt s) (hop : pkt.op = 0) (hseq : pkt.seq = p.expect) {k : Nat}
    (hrange : TakesRange p pkt pkt.data.length .write k s) (hgrant : granted p.info pkt pkt.data.length true = false) :
    ∃ t, exec (.peerWrite conn pkt) s = .next t ∧ t.mem = s.mem ∧ Say.Answers conn p 4 true pkt.seq s t :=
  ⟨_, (exec_peerWrite ..).trans (h.peerInOrder_next hop hseq (takeWrite_refused (hrange.expectNext conn) hgrant)), rfl, answers_answerPkt rfl ..⟩

theorem exec_peerReadreq_granted (h : Arrives conn p pkt s) (hop : pkt.op = 1) (hseq : pkt.seq = p.expect) {k : Nat}
    (hrange : TakesRange p pkt pkt.len .read k s) (hgrant : granted p.info pkt pkt.len false = true) :
    ∃ t a, exec (.peerReadreq conn pkt) s = .next t ∧ t.mem = s.mem ∧ a.op = 3 ∧ a.ackseq = pkt.seq
      ∧ t.io.sentPkts = s.io.sentPkts ++ ((List.range ((pkt.len + 8191) / 8192)).map fun i =>
        (conn, Say.packet 2 p pkt.key pkt.addr (memRead s.mem k pkt.len) i)) ++ [(conn, a)] := by
  obtain ⟨pl, hplaces, hpl⟩ := rangeOf_of_flat (hrange.expectNext conn).flat hrange.low
  have hbytes : ((lineParts pkt.addr pkt.len).map fun q => (q.1, pl q, q.2)).flatMap (fun q => memRead s.mem q.2.1.key q.2.2) = memRead s.mem k pkt.len := by
    rw [List.flatMap_map]
    exact (List.flatMap_congr fun q hq => by rw [(hpl q hq).1]).trans (flatMap_memRead_consecutive s.mem k (consecutive_lineParts pkt.addr pkt.len))
  have htake : ∃ t, takeReadreq pkt p (expectNext conn s) = (sendPackets false conn 0 false 0
      (dataPackets 2 p.info.connId pkt.key pkt.addr (memRead s.mem k pkt.len)) t, false) ∧ t.mem = s.mem ∧ t.io = (expectNext conn s).io := by
    unfold takeReadreq
    rw [hrange.asid, show s.core = (expectNext conn s).core from rfl, hplaces]
    dsimp only
    have hclean : (((lineParts pkt.addr pkt.len).map fun q => (q.1, pl q, q.2)).any fun q => poisoned (expectNext conn s) q.2.1.key q.2.2) = false := by
      rw [List.any_map, List.any_eq_false]
      intro q hq
      obtain ⟨hkey, hpoison⟩ := hpl q hq
      simpa [hkey] using hpoison
    rw [if_pos (by simp [hgrant, hclean]), show (expectNext conn s).mem = s.mem from rfl, hbytes, conn_of_peer? h.peer]
    exact ⟨_, rfl, foldl_keeps State.mem (fun s q => readFrom_mem ..) _ _, foldl_keeps State.io (fun s q => (landsNothing_readFrom ..).io) _ _⟩
  obtain ⟨t, htake, hmem, hio⟩ := htake
  have hp : peer? t conn = some { p with expect := p.expect + 1 } := (peer?_congr (by rw [hio])).trans (peer?_expectNext h.peer)
  have hout := sendPackets_out (fromCore := false) (core := 0) (bank := false) (seq := 0) (out := (·.io.sentPkts)) (g := fun r => (conn, r))
    (fun _ _ => rfl) (fun _ _ => rfl) (dataPackets 2 p.info.connId pkt.key pkt.addr (memRead s.mem k pkt.len)) hp
  have hnum := numbered_dataPackets 2 p pkt.key pkt.addr (memRead s.mem k pkt.len)
  rw [length_memRead] at hnum
  obtain ⟨a, hsent, haop, -, hack, -⟩ := answers_answerPkt (s := sendPackets false conn 0 false 0 _ t) rfl conn p false false pkt.seq
  refine ⟨_, a, (exec_peerReadreq ..).trans (h.peerInOrder_next hop hseq htake), (sendPackets_mem ..).trans hmem, haop, hack, ?_⟩
  have hsame : t.io.sentPkts = s.io.sentPkts := by rw [hio]; rfl
  refine hsent.trans (congrArg (· ++ _) (hout.trans (congr (congrArg _ hsame) ?_)))
  exact (congrArg (List.map _) hnum).trans (List.map_map ..)

/-! ### Answers to a read (R80, R378) -/

/-- A READRESP in order for the oldest read of an entry that is not closing, whose command is under way. -/
structure Feeds (conn : Nat) (p : Peer) (pkt : PeerPkt) (r : PeerRead) (rs : List PeerRead) (e : Entry) (s : State) : Prop where
  arrives : Arrives conn p pkt s
  closing : p.closing = false
  op : pkt.op = 2
  seq : pkt.seq = p.expect
  reads : p.reads = r :: rs
  runs : Say.Runs .cq 0x48 e s
  core : r.core = s.core.num
  bank : r.bank = e.bank
  readSeq : r.seq = e.seq
  inject : e.inject = none
  wf : Memory.wf s.mem = true

variable {r : PeerRead} {rs : List PeerRead}

/-- The state after bytes of a read have landed, up to the entry of its connection. -/
def fed (conn : Nat) (r : PeerRead) (e : Entry) (bs : List Byte) (last : Bool) (s : State) : State :=
  (if last then settleEntry .cq e.ord 0 0 else id) (agentPut (peerNode conn) r.dest bs (told conn (expectNext conn s)))

/-- What is left of a read once `n` of the bytes that it holds and that come have landed. -/
def restOf (r : PeerRead) (data : List Byte) (n : Nat) : PeerRead :=
  { r with dest := r.dest + BitVec.ofNat 64 n, left := r.left - data.length, held := (r.held ++ data).drop n }

theorem lands_fed {bs : List Byte} {k : Nat} (hflat : Say.Flat s r.dest bs.length .write k) (hheld : s.ms.heldW = []) (conn : Nat) :
    Lands (overwrite k bs) (noL1 (told conn (expectNext conn s))) (noL1 (agentPut (peerNode conn) r.dest bs (told conn (expectNext conn s)))) := by
  have hsame : SamePlaces s (told conn (expectNext conn s)) := ⟨rfl, rfl, rfl, rfl, rfl, rfl, rfl⟩
  exact lands_agentPut (peerNode conn) (hsame.flat hflat) hheld

/-- Bytes of a read are at their place, and what lies elsewhere stands. -/
theorem fed_mem {bs : List Byte} {k : Nat} (hflat : Say.Flat s r.dest bs.length .write k) (hheld : s.ms.heldW = []) (hlist : s.ms.poisonList = [])
    (hwf : Memory.wf s.mem = true) (conn : Nat) (e : Entry) (last : Bool) :
    memRead (fed conn r e bs last s).mem k bs.length = bs ∧ Say.LandsIn k bs.length s (fed conn r e bs last s) := by
  have hwhole := (lands_fed hflat hheld conn).whole hlist hwf fun i hi => (hflat.2 i hi).1
  cases last <;> exact hwhole

theorem fed_io {bs : List Byte} {k : Nat} (hflat : Say.Flat s r.dest bs.length .write k) (hheld : s.ms.heldW = []) (conn : Nat) (e : Entry) (last : Bool) :
    (fed conn r e bs last s).io = (expectNext conn s).io := by
  have hio := (lands_fed hflat hheld conn).io
  cases last <;> exact hio

theorem fed_queue {bs : List Byte} {k : Nat} (hflat : Say.Flat s r.dest bs.length .write k) (hheld : s.ms.heldW = []) (conn : Nat) (e : Entry) :
    (fed conn r e bs false s).core.queue .cq = s.core.queue .cq := by
  have hq := congrArg (fun c : Core => c.cq) (lands_fed hflat hheld conn).core
  exact hq

/-- A READRESP makes the bytes land that it completes, `n` of those that the read holds and that come, and the last ends the command. -/
theorem Feeds.exec_peerReadresp (h : Feeds conn p pkt r rs e s) (hlen : pkt.data.length ≤ r.left) {last : Bool} (hlast : decide (r.left ≤ pkt.data.length) = last)
    {n k : Nat} (hn : (if last then (r.held ++ pkt.data).length else (r.held ++ pkt.data).length / 128 * 128) = n)
    (hflat : Say.Flat s r.dest ((r.held ++ pkt.data).take n).length .write k) :
    ∃ t, exec (.peerReadresp conn pkt) s = .next t ∧ t.mem = (fed conn r e ((r.held ++ pkt.data).take n) last s).mem
      ∧ t.core = (fed conn r e ((r.held ++ pkt.data).take n) last s).core ∧ Say.Answers conn p 3 false pkt.seq s t
      ∧ peer? t conn = some { p with expect := p.expect + 1, reads := if last then rs else restOf r pkt.data n :: rs } := by
  have hone := (single_of_claimed h.runs.1)
  have hio := fed_io hflat h.arrives.held conn e last
  have hp : peer? (modPeer conn (fun x => { x with reads := if last then rs else restOf r pkt.data n :: rs }) (fed conn r e ((r.held ++ pkt.data).take n) last s)) conn
      = some { p with expect := p.expect + 1, reads := if last then rs else restOf r pkt.data n :: rs } :=
    peer?_modPeer_some ((peer?_congr (congrArg Io.peers hio)).trans (peer?_expectNext h.arrives.peer)) fun _ => rfl
  have htake : takeReadresp pkt p (expectNext conn s) = (modPeer conn (fun x => { x with reads := if last then rs else restOf r pkt.data n :: rs })
      (fed conn r e ((r.held ++ pkt.data).take n) last s), false) := by
    unfold takeReadresp
    rw [h.reads]
    dsimp only
    have hif : ∀ {α : Type} (a b : α), (if r.left ≤ pkt.data.length then a else b) = if last then a else b := fun a b => by rw [← hlast]; simp
    rw [List.take_of_length_le hlen, hlast, readBytes_plain (s := expectNext conn s) (hone.congr rfl) h.core h.bank h.readSeq h.inject, conn_of_peer? h.arrives.peer]
    simp only [hif, hn]
    rw [landRead_flat (s := expectNext conn s) (hone.congr rfl) h.runs.1.2.1 h.core h.bank h.readSeq ((samePlaces_expectNext conn s).flat hflat)
      h.arrives.held conn last]
    exact congrArg (·, false) (closeIfIdle_open hp h.closing)
  have hsent : (fed conn r e ((r.held ++ pkt.data).take n) last s).io.sentPkts = s.io.sentPkts := by rw [hio]; rfl
  exact ⟨_, (Machine.exec_peerReadresp ..).trans (h.arrives.peerInOrder_next h.op h.seq htake), rfl, rfl, answers_answerPkt hsent .., hp⟩

/-- The last of a read's data lands whole and ends its command. -/
theorem Feeds.exec_peerReadresp_last (h : Feeds conn p pkt r rs e s) (hlen : pkt.data.length = r.left) {k : Nat}
    (hflat : Say.Flat s r.dest (r.held ++ pkt.data).length .write k) : ∃ t, exec (.peerReadresp conn pkt) s = .next t ∧ Say.Ends e 0 s t
      ∧ memRead t.mem k (r.held ++ pkt.data).length = r.held ++ pkt.data ∧ Say.LandsIn k (r.held ++ pkt.data).length s t
      ∧ Say.Answers conn p 3 false pkt.seq s t := by
  obtain ⟨t, hexec, hmem, hcore, hanswer, -⟩ := h.exec_peerReadresp (Nat.le_of_eq hlen) (last := true) (decide_eq_true (Nat.le_of_eq hlen.symm)) rfl
    (by rw [if_pos rfl, List.take_length]; exact hflat)
  rw [if_pos rfl, List.take_length] at hmem hcore
  obtain ⟨hread, hout⟩ := fed_mem hflat h.arrives.held h.runs.2.2 h.wf conn e true
  have hends : Say.Ends e 0 s (fed conn r e (r.held ++ pkt.data) true s) :=
    ends_of_settle (single_of_claimed h.runs.1) (fed_queue hflat h.arrives.held conn e) 0 0
  refine ⟨t, hexec, ends_congr hends (by rw [hcore]), hmem ▸ hread, ?_, hanswer⟩
  unfold Say.LandsIn at hout ⊢
  rwa [hmem]

/-- Data that is not the last lands up to a multiple of 128 B, and the rest is held. -/
theorem Feeds.exec_peerReadresp_part (h : Feeds conn p pkt r rs e s) (hlen : pkt.data.length < r.left) {n k : Nat}
    (hn : (r.held ++ pkt.data).length / 128 * 128 = n) (hflat : Say.Flat s r.dest n .write k) :
    ∃ t, exec (.peerReadresp conn pkt) s = .next t ∧ t.core.queue .cq = s.core.queue .cq ∧ memRead t.mem k n = (r.held ++ pkt.data).take n
      ∧ Say.LandsIn k n s t ∧ Say.Answers conn p 3 false pkt.seq s t
      ∧ peer? t conn = some { p with expect := p.expect + 1, reads := restOf r pkt.data n :: rs } := by
  have htake : ((r.held ++ pkt.data).take n).length = n := by rw [List.length_take]; omega
  rw [← htake] at hflat
  obtain ⟨t, hexec, hmem, hcore, hanswer, hpeer⟩ := h.exec_peerReadresp (Nat.le_of_lt hlen) (last := false) (decide_eq_false (Nat.not_le.mpr hlen)) hn hflat
  obtain ⟨hread, hout⟩ := fed_mem hflat h.arrives.held h.runs.2.2 h.wf conn e false
  rw [htake] at hread hout
  refine ⟨t, hexec, ?_, hmem ▸ hread, ?_, hanswer, hpeer⟩
  · rw [hcore]
    exact fed_queue hflat h.arrives.held conn e
  · unfold Say.LandsIn at hout ⊢
    rwa [hmem]

/-! ### Acknowledgements, refusals and retries (R79, R81) -/

theorem endPeerCmd_io (conn core : Nat) (bank : Bool) (seq : Nat) (st : BitVec 8) (s : State) : (endPeerCmd conn core bank seq st s).io = s.io := by
  have hturn : ∀ n (v : State), (turnTo n v).io = v.io := fun n v => by unfold turnTo; split <;> rfl
  unfold endPeerCmd atCore
  rw [hturn]
  have hv := hturn core (visit .ext (peerNode conn) (twigOf core) s)
  generalize turnTo core (visit .ext (peerNode conn) (twigOf core) s) = v at hv ⊢
  dsimp only
  split
  · exact hv
  · split <;> exact hv

theorem peer?_endPeerCmd (conn core : Nat) (bank : Bool) (seq : Nat) (st : BitVec 8) (s : State) :
    peer? (endPeerCmd conn core bank seq st s) conn = peer? s conn := peer?_congr (by rw [endPeerCmd_io])

/-- An NWR under way whose one packet has not been acknowledged, on an entry that is not closing. -/
structure Waits (conn : Nat) (p : Peer) (u : PeerOut) (e : Entry) (s : State) : Prop where
  peer : peer? s conn = some p
  opened : p.st = .opened
  closing : p.closing = false
  unacked : p.unacked = [u]
  core : u.core = s.core.num
  bank : u.bank = e.bank
  seq : u.seq = e.seq
  runs : Say.Runs .cq 0x49 e s
  reads : p.reads = []

/-- What an acknowledgement up to a sequence number makes of an entry of which it covers a packet. -/
def acked (n : W32) (time : Nat) (p : Peer) : Peer := { p with unacked := p.unacked.filter (fun u => !seqLe u.pkt.seq n), retries := 0, since := time }

theorem ackUpTo_covers (h : peer? s conn = some p) (hclosing : p.closing = false) {u : PeerOut} (hun : p.unacked = [u]) (hop : u.pkt.op = 0)
    (hlast : u.pkt.last = true) {n : W32} (hle : seqLe u.pkt.seq n = true) :
    ackUpTo conn n s = endPeerCmd conn u.core u.bank u.seq 0 (modPeer conn (acked n s.pkg.time) s) := by
  have hp := peer?_modPeer_some (f := acked n s.pkg.time) h fun _ => rfl
  unfold ackUpTo
  rw [h]
  simp only [hun, List.filter_cons_of_pos, hle, List.filter_nil, List.isEmpty_cons, Bool.false_eq_true, if_false, List.foldl_cons, List.foldl_nil, hop,
    hlast, decide_true, Bool.and_self, if_true]
  exact closeIfIdle_open ((peer?_endPeerCmd ..).trans hp) hclosing

theorem ackUpTo_misses (h : peer? s conn = some p) (hclosing : p.closing = false) {u : PeerOut} (hun : p.unacked = [u]) {n : W32}
    (hle : seqLe u.pkt.seq n = false) : ackUpTo conn n s = s := by
  unfold ackUpTo
  rw [h]
  simp only [hun, List.filter_cons, hle, Bool.false_eq_true, if_false, List.filter_nil, List.isEmpty_nil, if_true, List.foldl_nil]
  exact closeIfIdle_open h hclosing

variable {u : PeerOut}

theorem Waits.acked_eq (h : Waits conn p u e s) {n : W32} (hle : seqLe u.pkt.seq n = true) (time : Nat) :
    acked n time p = { p with unacked := [], retries := 0, since := time } := by
  simp [acked, h.unacked, hle]

theorem Waits.endPeerCmd_eq (h : Waits conn p u e s) (st : BitVec 8) {v : State} (hcore : v.core = s.core) :
    endPeerCmd conn u.core u.bank u.seq st v = settleEntry .cq e.ord st (if st = 0 then e.tval else e.cmd.a) (told conn v) := by
  rw [h.core, h.bank, h.seq, ← hcore]
  exact endPeerCmd_flight ((single_of_claimed h.runs.1).congr (by rw [hcore])) h.runs.1.2.1 conn st

theorem Waits.ends (h : Waits conn p u e s) (st : BitVec 8) {v : State} (hcore : v.core = s.core) :
    Say.Ends e st s (endPeerCmd conn u.core u.bank u.seq st v) := by
  rw [h.endPeerCmd_eq st hcore]
  exact ends_of_settle (single_of_claimed h.runs.1) (congrArg (fun c : Core => c.queue .cq) hcore) ..

theorem Waits.exec_peerAck (h : Waits conn p u e s) (hop : pkt.op = 3) (hok : pktOk pkt = true) (huop : u.pkt.op = 0) (hlast : u.pkt.last = true)
    (hle : (pkt.ackseq - u.pkt.seq).toNat < 2 ^ 31) : ∃ t, exec (.peerAck conn pkt) s = .next t ∧ Say.Ends e 0 s t
      ∧ peer? t conn = some { p with unacked := [], retries := 0, since := s.pkg.time } := by
  have hle : seqLe u.pkt.seq pkt.ackseq = true := decide_eq_true hle
  refine ⟨endPeerCmd conn u.core u.bank u.seq 0 (modPeer conn (acked pkt.ackseq s.pkg.time) s), ?_, h.ends 0 rfl, ?_⟩
  · rw [Machine.exec_peerAck]
    unfold execPeerAck
    rw [h.peer]
    dsimp only
    rw [if_pos (by simp [h.opened, hop, hok]), ackUpTo_covers h.peer h.closing h.unacked huop hlast hle]
  · exact (peer?_endPeerCmd ..).trans ((peer?_modPeer_some h.peer (by intro; rfl)).trans (congrArg some (h.acked_eq hle _)))

theorem Waits.exec_peerNak_refused (h : Waits conn p u e s) (hop : pkt.op = 4) (hok : pktOk pkt = true) (hrefused : pkt.refused = true)
    (huop : u.pkt.op = 0) (hlast : u.pkt.last = true) (hseq : pkt.ackseq = u.pkt.seq) : ∃ t, exec (.peerNak conn pkt) s = .next t ∧ Say.Ends e 0x89 s t
      ∧ peer? t conn = some { p with unacked := [], retries := 0, since := s.pkg.time } := by
  have hle : seqLe u.pkt.seq pkt.ackseq = true := by simp [seqLe, hseq]
  have hone := single_of_claimed h.runs.1
  have hrefuse : ∃ v, refuseAt conn pkt.ackseq s = v ∧ v.core = (settleEntry .cq e.ord 0x89 e.cmd.a (told conn s)).core ∧ v.pkg = s.pkg ∧ peer? v conn = some p := by
    refine ⟨_, rfl, ?_⟩
    unfold refuseAt
    rw [h.peer]
    dsimp only
    rw [h.unacked, List.find?_cons_of_pos (by simp [hseq])]
    dsimp only
    rw [h.endPeerCmd_eq 0x89 rfl]
    refine ⟨rfl, rfl, (peer?_modPeer_some (p := p) h.peer (by intro; rfl)).trans (congrArg some ?_)⟩
    rw [h.reads, List.filter_nil, ← h.reads]
  obtain ⟨v, hv, hcore, hpkg, hp⟩ := hrefuse
  have hq : v.core.queue .cq = (settleEntry .cq e.ord 0x89 e.cmd.a (told conn s)).core.queue .cq := by rw [hcore]
  have hnum : v.core.num = s.core.num := by rw [hcore]; exact modEntry_num ..
  have hover : endPeerCmd conn u.core u.bank u.seq 0 (modPeer conn (acked pkt.ackseq s.pkg.time) v)
      = told conn (modPeer conn (acked pkt.ackseq s.pkg.time) v) := by
    rw [h.core, h.bank, h.seq, ← hnum]
    have hsingle : Single .cq e (told conn s) := hone.congr rfl
    exact endPeerCmd_over (s := modPeer conn (acked pkt.ackseq s.pkg.time) v)
      ((hsingle.modEntry (f := fun x => { x with st := .worked, status := 0x89, tval := e.cmd.a, outstanding := 0 }) fun _ => ⟨rfl, rfl, rfl, rfl⟩).congr hq)
      (by simp) conn 0
  refine ⟨told conn (modPeer conn (acked pkt.ackseq s.pkg.time) v), ?_, ?_, ?_⟩
  · rw [exec_peerNak]
    unfold execPeerNak
    rw [h.peer]
    dsimp only
    rw [if_neg (by simp [h.opened, hop, hok]), if_pos hrefused, hv, ackUpTo_covers hp h.closing h.unacked huop hlast hle, hpkg, hover]
  · exact ends_congr (ends_of_settle hone (v := told conn s) rfl 0x89 e.cmd.a) hq
  · exact (peer?_modPeer_some hp (by intro; rfl)).trans (congrArg some (h.acked_eq hle _))

/-- The packets of an entry go out again. -/
theorem resendAll_single (h : peer? s conn = some p) (hun : p.unacked = [u]) : resendAll conn s = wire conn u.pkt (modPeer conn (fun x => { x with since := s.pkg.time }) s) := by
  unfold resendAll
  rw [h]
  dsimp only
  rw [hun]
  rfl

theorem Waits.exec_peerNak_gap (h : Waits conn p u e s) (hop : pkt.op = 4) (hok : pktOk pkt = true) (hrefused : pkt.refused = false)
    (hgap : 2 ^ 31 ≤ (pkt.ackseq - u.pkt.seq).toNat) :
    ∃ t, exec (.peerNak conn pkt) s = .next t ∧ t.core = s.core ∧ t.io.sentPkts = s.io.sentPkts ++ [(conn, u.pkt)] := by
  have hle : seqLe u.pkt.seq pkt.ackseq = false := decide_eq_false (by omega)
  refine ⟨wire conn u.pkt (modPeer conn (fun x => { x with since := s.pkg.time }) s), ?_, rfl, rfl⟩
  rw [exec_peerNak]
  unfold execPeerNak
  rw [h.peer]
  dsimp only
  rw [if_neg (by simp [h.opened, hop, hok]), if_neg (by simp [hrefused]), ackUpTo_misses h.peer h.closing h.unacked hle, resendAll_single h.peer h.unacked]

theorem Waits.exec_retry_early (h : Waits conn p u e s) (htime : s.pkg.time < p.since + 6400 * 2 ^ p.retries) :
    exec (.peerRetryTimeout conn) s = .next s := by
  rw [exec_peerRetryTimeout]
  unfold execPeerRetryTimeout
  rw [h.peer]
  dsimp only
  rw [if_pos (by simp [retryTicks, htime])]

theorem Waits.exec_retry (h : Waits conn p u e s) (htime : p.since + 6400 * 2 ^ p.retries ≤ s.pkg.time) (hretries : p.retries < 8) :
    ∃ t, exec (.peerRetryTimeout conn) s = .next t ∧ t.core = s.core ∧ t.io.sentPkts = s.io.sentPkts ++ [(conn, u.pkt)]
      ∧ peer? t conn = some { p with retries := p.retries + 1, since := s.pkg.time } := by
  have hp : peer? (modPeer conn (fun x => { x with retries := x.retries + 1 }) s) conn = some { p with retries := p.retries + 1 } :=
    peer?_modPeer_some h.peer fun _ => rfl
  refine ⟨wire conn u.pkt (modPeer conn (fun x => { x with since := s.pkg.time }) (modPeer conn (fun x => { x with retries := x.retries + 1 }) s)), ?_, rfl, rfl,
    peer?_modPeer_some hp fun _ => rfl⟩
  rw [exec_peerRetryTimeout]
  unfold execPeerRetryTimeout
  rw [h.peer]
  dsimp only
  rw [if_neg (by simp [h.opened, h.unacked, retryTicks, Nat.not_lt.mpr htime]), if_pos hretries, resendAll_single hp h.unacked]
  rfl

/-- An entry with nothing in flight. -/
def noneInFlight (p : Peer) : Peer := { p with unacked := [], reads := [] }

/-- The one command in flight on an entry faults. -/
theorem endAll_single (h : peer? s conn = some p) (hun : p.unacked = [u]) (hreads : p.reads = []) (st : BitVec 8) :
    endAll conn st s = modPeer conn noneInFlight (endPeerCmd conn u.core u.bank u.seq st s) := by
  unfold endAll
  rw [h]
  dsimp only
  rw [hun, hreads]
  rfl

theorem Waits.exec_retry_fails (h : Waits conn p u e s) (htime : p.since + 6400 * 2 ^ p.retries ≤ s.pkg.time) (hretries : 8 ≤ p.retries) :
    ∃ t, exec (.peerRetryTimeout conn) s = .next t ∧ Say.Ends e 0x88 s t ∧ peer? t conn = some { p with st := .failed, unacked := [] } := by
  have hp : peer? (modPeer conn (fun x => { x with st := .failed }) (modPeer conn noneInFlight (endPeerCmd conn u.core u.bank u.seq 0x88 s))) conn
      = some { noneInFlight p with st := .failed } :=
    peer?_modPeer_some (peer?_modPeer_some ((peer?_endPeerCmd ..).trans h.peer) (by intro; rfl)) (by intro; rfl)
  refine ⟨modPeer conn (fun x => { x with st := .failed }) (modPeer conn noneInFlight (endPeerCmd conn u.core u.bank u.seq 0x88 s)), ?_,
    ends_congr (h.ends 0x88 (v := s) rfl) rfl, hp.trans (congrArg some ?_)⟩
  · rw [exec_peerRetryTimeout]
    unfold execPeerRetryTimeout
    rw [h.peer]
    dsimp only
    rw [if_neg (by simp [h.opened, h.unacked, retryTicks, Nat.not_lt.mpr htime]), if_neg (by omega), endAll_single h.peer h.unacked h.reads]
    exact congrArg Host.Outcome.next (closeIfIdle_open hp h.closing)
  · simp [noneInFlight, h.reads]

theorem Waits.exec_peerClose (h : Waits conn p u e s) (hok : pktOk pkt = true) (hheld : s.ms.heldW = []) (hop : pkt.op = 5) (hseq : pkt.seq = p.expect) :
    ∃ t, exec (.peerClose conn pkt) s = .next t ∧ Say.Ends e 0x88 s t
      ∧ peer? t conn = some { p with st := .closed, unacked := [], expect := p.expect + 1 } ∧ Say.Answers conn p 3 false pkt.seq s t := by
  have harrives : Arrives conn p pkt s := ⟨h.peer, h.opened, hok, hheld⟩
  have hp := peer?_expectNext h.peer
  have hend := endAll_single (u := u) hp h.unacked h.reads 0x88
  have hends := h.ends 0x88 (v := expectNext conn s) rfl
  have hsent : (endPeerCmd conn u.core u.bank u.seq 0x88 (expectNext conn s)).io.sentPkts = s.io.sentPkts := by rw [endPeerCmd_io]; rfl
  have hentry := (peer?_endPeerCmd conn u.core u.bank u.seq 0x88 (expectNext conn s)).trans hp
  have hexec : exec (.peerClose conn pkt) s = .next (answerPkt conn p false false pkt.seq
      (modPeer conn (fun x => { x with st := .closed }) (endAll conn 0x88 (expectNext conn s)))) :=
    (Machine.exec_peerClose ..).trans (harrives.peerInOrder_next hop hseq rfl)
  rw [hend] at hexec
  generalize endPeerCmd conn u.core u.bank u.seq 0x88 (expectNext conn s) = v at *
  refine ⟨_, hexec, ends_congr hends rfl, ?_, answers_answerPkt hsent ..⟩
  have hclosed := peer?_modPeer_some (f := fun x => { x with st := .closed }) (peer?_modPeer_some (f := noneInFlight) hentry fun _ => rfl) fun _ => rfl
  refine (peer?_wire ..).trans (hclosed.trans (congrArg some ?_))
  simp [noneInFlight, h.reads]

/-! ### The peer table (R81, R423) -/

theorem exec_connectionClose_down {b : Bool} (hsl : s.pkg.sl = 0) : exec (.connectionClose ⟨b, conn⟩) s = .next s := by
  rw [exec_connectionClose]
  exact if_pos (by simp [hostUp, hsl])

theorem exec_peerTableOpen_down {b : Bool} {o : PeerOpen} (hsl : s.pkg.sl = 0) : exec (.peerTableOpen ⟨b, conn⟩ o) s = .next s := by
  rw [exec_peerTableOpen]
  exact if_pos (by simp [hostUp, hsl])

theorem exec_connectionClose_idle (b : Bool) (hup : hostUp s = true) (h : peer? s conn = some p) (hst : p.st = .opened) (hclosing : p.closing = false)
    (hun : p.unacked = []) (hreads : p.reads = []) : ∃ t r, exec (.connectionClose ⟨b, conn⟩) s = .next t ∧ t.io.sentPkts = s.io.sentPkts ++ [(conn, r)]
      ∧ r.op = 5 ∧ r.seq = p.nextSeq ∧ r.len = 0 ∧ t.io.outs = s.io.outs ++ [.msi b 0] := by
  have hp : peer? (modPeer conn (fun x => { x with closing := true }) s) conn = some { p with closing := true } := peer?_modPeer_some h fun _ => rfl
  rw [exec_connectionClose]
  unfold execConnectionClose
  dsimp only
  rw [if_neg (by simp [hup]), h]
  dsimp only
  rw [if_neg (by simp [hclosing, hst]), closeConn, closeIfIdle, hp]
  dsimp only
  rw [if_neg (by simp [hst]), if_neg (by simp [hst]), if_neg (by simp [hun, hreads])]
  obtain ⟨t, heq, ⟨f, rfl⟩, -⟩ := sendPackets_cons hp false 0 false 0
    { ver := 1, op := 5, last := false, refused := false, conn := p.info.connId, seq := 0, key := 0, addr := 0, len := 0, ackseq := 0, data := [] } []
  exact ⟨_, _, congrArg (fun v => Host.Outcome.next (msi b 0 v)) heq, rfl, rfl, rfl, rfl, rfl⟩

theorem exec_peerTableOpen_free (b : Bool) (o : PeerOpen) (hup : hostUp s = true) (hconn : conn < 512) (h : peer? s conn = some p) (hst : p.st = .closed) :
    ∃ t q, exec (.peerTableOpen ⟨b, conn⟩ o) s = .next t ∧ peer? t conn = some q ∧ q.st = .opened ∧ q.info = o ∧ q.closing = false ∧ q.unacked = []
      ∧ q.nextSeq = 0 ∧ q.expect = 0 ∧ t.io.outs = s.io.outs ++ [.msi b 0] := by
  rw [exec_peerTableOpen]
  unfold execPeerTableOpen
  dsimp only
  rw [if_neg (by simp [hup]), h, if_pos (by simp [hconn, hst])]
  exact ⟨_, _, rfl, List.find?_cons_of_pos (by simp), rfl, rfl, rfl, rfl, rfl, rfl, rfl⟩

theorem exec_peerTableOpen_used (b : Bool) (o : PeerOpen) (hup : hostUp s = true) (h : peer? s conn = some p) (hst : p.st ≠ .closed) :
    ∃ t, exec (.peerTableOpen ⟨b, conn⟩ o) s = .next t ∧ t.io.peers = s.io.peers ∧ t.io.outs = s.io.outs ++ [.refused, .msi b 0] := by
  rw [exec_peerTableOpen]
  unfold execPeerTableOpen
  dsimp only
  rw [if_neg (by simp [hup]), h, if_neg (by simp [hst])]
  exact ⟨_, rfl, rfl, by simp [msi, mailRefuse]⟩

/-- Settles O38: packets go out in sequence from the entry's next number, what arrives in order lands at the keys that its range lies at, and a
command on a connection ends by a move of its queue entry. -/
theorem peerTransport : Obligations.PeerTransport := by
  intro conn p pkt e s hp hwf hheld hlist
  refine ⟨fun hst hclosing hconn => ⟨fun hstart => ?_, fun k hstart hn hflat hinject => ?_⟩, fun hst hconn => ⟨fun hstart => ?_, fun hstart => ?_⟩,
    fun k hst hok hop hseq hflat hasid _ hlow => ?_, fun k hst hok hop hseq hpos hflat hasid _ hlow hgrant => ?_,
    fun k r rs hst hclosing hok hop hseq hreads hruns hcore hbank hrseq hinject _ => ?_, fun hst hok hseq i hi hop => ?_,
    fun u hst hclosing hout hruns hreads => ?_, fun b hsl hst hclosing hun hreads => ?_, fun b o hsl => ?_, fun b o hsl hconn => ?_⟩
  · obtain ⟨t, hexec, hmem, hnet, hpeer⟩ := exec_nrd_sends hp hst hclosing hconn hstart
    exact ⟨t, _, hexec, hmem, hnet, rfl, rfl, rfl, rfl, rfl, rfl, rfl, rfl, hpeer⟩
  · exact exec_nwr_sends hp hst hclosing hconn hstart hn hflat hinject
  · exact ⟨_, exec_nrd_closed hp hst hconn hstart, (single_of_claimed hstart.1.1).ends .., rfl⟩
  · exact ⟨_, exec_nwr_closed hp hst hconn hstart, (single_of_claimed hstart.1.1).ends .., rfl⟩
  · have harrives : Arrives conn p pkt s := ⟨hp, hst, hok, hheld⟩
    have hrange : TakesRange p pkt pkt.data.length .write k s := ⟨hflat, hasid, hlow⟩
    exact ⟨fun hgrant => exec_peerWrite_granted harrives hop hseq hrange hgrant hlist hwf, fun hgrant => exec_peerWrite_refused harrives hop hseq hrange hgrant⟩
  · exact exec_peerReadreq_granted ⟨hp, hst, hok, hheld⟩ hop hseq ⟨hflat, hasid, hlow⟩ hgrant
  · have hfeeds : Feeds conn p pkt r rs e s := ⟨⟨hp, hst, hok, hheld⟩, hclosing, hop, hseq, hreads, hruns, hcore, hbank, hrseq, hinject, hwf⟩
    exact ⟨fun hlen hflat => hfeeds.exec_peerReadresp_last hlen hflat, fun hlen hflat => hfeeds.exec_peerReadresp_part hlen rfl hflat⟩
  · have harrives : Arrives conn p pkt s := ⟨hp, hst, hok, hheld⟩
    simp only [List.mem_cons, List.not_mem_nil, or_false] at hi
    obtain rfl | rfl | rfl | rfl := hi
    · rw [exec_peerWrite]; exact harrives.peerInOrder_other hop hseq _
    · rw [exec_peerReadreq]; exact harrives.peerInOrder_other hop hseq _
    · rw [exec_peerReadresp]; exact harrives.peerInOrder_other hop hseq _
    · rw [exec_peerClose]; exact harrives.peerInOrder_other hop hseq _
  · have hwaits : Waits conn p u e s := ⟨hp, hst, hclosing, hout.1, hout.2.1, hout.2.2.1, hout.2.2.2, hruns, hreads⟩
    exact ⟨fun hop hok huop hlast hle => hwaits.exec_peerAck hop hok huop hlast hle,
      fun hop hok hrefused huop hlast hseq => hwaits.exec_peerNak_refused hop hok hrefused huop hlast hseq,
      fun hop hok hrefused hgap => hwaits.exec_peerNak_gap hop hok hrefused hgap, hwaits.exec_retry_early, hwaits.exec_retry, hwaits.exec_retry_fails,
      fun hop hok hseq => hwaits.exec_peerClose hok hheld hop hseq⟩
  · exact exec_connectionClose_idle b (hostUp_of_sl hsl) hp hst hclosing hun hreads
  · exact ⟨exec_peerTableOpen_down hsl, exec_connectionClose_down hsl⟩
  · exact ⟨exec_peerTableOpen_free b o (hostUp_of_sl hsl) hconn hp, exec_peerTableOpen_used b o (hostUp_of_sl hsl) hp⟩

end Sys2Proof.Proofs
end

section
/-! SUPPORT. Cores that a move changes by number, and what of them it leaves (R106 to R108). -/

namespace Sys2Proof.Machine

/-! ### Cores by number -/

theorem find?_insertCore_other {c : Core} {m : Nat} (h : c.num ≠ m) : ∀ l : List Core,
    (insertCore c l).find? (fun d => d.num == m) = l.find? fun d => d.num == m
  | [] => by simp [insertCore, h]
  | d :: l => by
    unfold insertCore
    split
    · rw [List.find?_cons_of_neg (by simpa using h)]
    · split
      · next he => rw [List.find?_cons_of_neg (by simpa using h), List.find?_cons_of_neg (by simpa [← he] using h)]
      · rw [List.find?_cons, List.find?_cons, find?_insertCore_other h l]

theorem getCore_modCoreAt_self {n : Nat} {f : Core → Core} (hf : ∀ c, (f c).num = c.num) (s : State) : getCore (modCoreAt n f s) n = f (getCore s n) := by
  unfold modCoreAt
  split
  · next h =>
    rw [getCore, if_pos ((hf _).trans h), getCore, if_pos h]
  · next h =>
    have hnum : (f (getCore s n)).num = n := (hf _).trans (getCore_num s n)
    rw [getCore, if_neg h]
    show ((insertCore _ s.cores).find? _).getD _ = _
    have hfind := find?_insertCore_self (f (getCore s n)) s.cores
    rw [hnum] at hfind
    rw [hfind, Option.getD_some]

theorem getCore_modCoreAt_other {n m : Nat} (h : m ≠ n) {f : Core → Core} (hf : ∀ c, (f c).num = c.num) (s : State) :
    getCore (modCoreAt n f s) m = getCore s m := by
  unfold modCoreAt
  split
  · next hn =>
    rw [getCore, if_neg (by rw [show State.core _ = f s.core from rfl, hf, hn]; exact h.symm), getCore, if_neg (hn ▸ h.symm)]
  · show (if s.core.num = m then s.core else ((insertCore (f (getCore s n)) s.cores).find? _).getD _) = _
    rw [find?_insertCore_other (by rw [hf, getCore_num]; exact h.symm)]
    rfl

theorem bankOf_modBankOf (b : Bool) (f : Bank → Bank) (hf : ∀ k, (f k).num = k.num) (c : Core) : (c.modBankOf b f).bankOf b = f (c.bankOf b) := by
  unfold Core.modBankOf Core.bankOf
  by_cases h : c.bank.num = b <;> simp [h, hf]

theorem modBankOf_same {b : Bool} {f : Bank → Bank} {c : Core} (h : f (c.bankOf b) = c.bankOf b) : c.modBankOf b f = c := by
  unfold Core.modBankOf
  unfold Core.bankOf at h
  split
  · next hb => rw [if_pos hb] at h; rw [h]
  · next hb => rw [if_neg hb] at h; rw [h]

theorem modBankOf_num (b : Bool) (f : Bank → Bank) (c : Core) : (c.modBankOf b f).num = c.num := by
  unfold Core.modBankOf
  split <;> rfl

/-- Two states that differ in how cores are listed at most. -/
structure SameView (s t : State) : Prop where
  cores : ∀ n, getCore t n = getCore s n
  rest : ∃ c cs, t = { s with core := c, cores := cs }

theorem SameView.refl (s : State) : SameView s s := ⟨fun _ => rfl, _, _, rfl⟩

theorem SameView.trans {s t u : State} (h : SameView s t) (k : SameView t u) : SameView s u := by
  refine ⟨fun n => (k.cores n).trans (h.cores n), ?_⟩
  obtain ⟨-, c, cs, rfl⟩ := h
  obtain ⟨-, d, ds, rfl⟩ := k
  exact ⟨_, _, rfl⟩

theorem sameView_modCoreAt {n : Nat} {f : Core → Core} {s : State} (h : f (getCore s n) = getCore s n) (hf : ∀ c, (f c).num = c.num) :
    SameView s (modCoreAt n f s) := by
  refine ⟨fun m => ?_, ?_⟩
  · by_cases hm : m = n
    · rw [hm, getCore_modCoreAt_self hf, h]
    · exact getCore_modCoreAt_other hm hf s
  · unfold modCoreAt
    split
    · exact ⟨_, _, rfl⟩
    · exact ⟨_, _, rfl⟩

theorem sameView_foldl {β : Type} {f : State → β → State} {s : State} : ∀ {l : List β}, (∀ x ∈ l, ∀ t, SameView s t → SameView t (f t x)) →
    ∀ {t : State}, SameView s t → SameView s (l.foldl f t)
  | [], _, _, ht => ht
  | x :: l, hf, t, ht => by
    obtain ⟨hx, hl⟩ := List.forall_mem_cons.mp hf
    exact sameView_foldl hl (ht.trans (hx t ht))

theorem SameView.mem {s t : State} (h : SameView s t) : t.mem = s.mem := by
  obtain ⟨-, c, cs, rfl⟩ := h; rfl

theorem SameView.boundTo {s t : State} (h : SameView s t) (launch : Nat) (p : Placed) : boundTo t launch p = Machine.boundTo s launch p := by
  unfold Machine.boundTo; rw [h.cores]

theorem SameView.gives {s t : State} (h : SameView s t) (l : Launch) (r d : Nat) : gives t l r d = Machine.gives s l r d := by
  obtain ⟨-, c, cs, rfl⟩ := h; rfl

theorem SameView.idleCore {s t : State} (h : SameView s t) (l : Launch) (p : Placed) : idleCore t l p = Machine.idleCore s l p := by
  have hgroup : stageGroup t l.id p.stage = stageGroup s l.id p.stage := by obtain ⟨-, c, cs, rfl⟩ := h; rfl
  unfold Machine.idleCore
  rw [h.cores, hgroup]

theorem SameView.recentPosts {s t : State} (h : SameView s t) (part : Nat) : recentPosts t part = Machine.recentPosts s part := by
  obtain ⟨-, c, cs, rfl⟩ := h; rfl

theorem SameView.stageGroup {s t : State} (h : SameView s t) (launch k : Nat) : stageGroup t launch k = Machine.stageGroup s launch k := by
  obtain ⟨-, c, cs, rfl⟩ := h; rfl

/-! ### The balancer (R107, R108) -/

/-- Of placed cores of which one has a lower number than any other it is the lowest. -/
theorem lowestCore_eq {x : Placed} {l : List Placed} (hx : x ∈ l) (h : ∀ y ∈ l, y = x ∨ x.core < y.core) : lowestCore l = some x := by
  have hfold : ∀ (l : List Placed) (m : Option Placed), (∀ y ∈ l, y = x ∨ x.core < y.core) → (∀ q, m = some q → q = x ∨ x.core < q.core) →
      (x ∈ l ∨ m = some x) → l.foldl (fun m p => match m with
        | none => some p
        | some q => if p.core < q.core then some p else m) m = some x := by
    intro l
    induction l with
    | nil => exact fun m _ _ h => h.resolve_left List.not_mem_nil
    | cons y l ih =>
      intro m hl hm hx
      obtain ⟨hy, hl⟩ := List.forall_mem_cons.mp hl
      rw [List.foldl_cons]
      cases m with
      | none =>
        refine ih _ hl (fun q hq => Option.some.inj hq ▸ hy) ?_
        rcases hx with hx | hx
        · exact (List.mem_cons.mp hx).symm.imp_right (congrArg some ·.symm)
        · exact absurd hx (by simp)
      | some q =>
        have hq := hm q rfl
        dsimp only
        by_cases hlt : y.core < q.core
        · rw [if_pos hlt]
          refine ih _ hl (fun z hz => Option.some.inj hz ▸ hy) ?_
          rcases hx with hx | hx
          · exact (List.mem_cons.mp hx).symm.imp_right (congrArg some ·.symm)
          · obtain rfl := Option.some.inj hx
            rcases hy with rfl | hy <;> omega
        · rw [if_neg hlt]
          refine ih _ hl hm ?_
          rcases hx with hx | hx
          · rcases List.mem_cons.mp hx with rfl | hx
            · exact .inr (congrArg some (hq.resolve_right hlt))
            · exact .inl hx
          · exact .inr hx
  exact hfold l none h (by simp) (.inl hx)

/-- Of the first `n` numbers only `r` passes. -/
theorem filter_range_single {p : Nat → Bool} {n r : Nat} (hr : r < n) (hp : p r = true) (hother : ∀ k, k < n → k ≠ r → p k = false) :
    (List.range n).filter p = [r] := by
  have hiff : (List.range n).filter p = (List.range n).filter (fun k => k == r) := List.filter_congr fun k hk => by
    by_cases h : k = r
    · simp [h, hp]
    · simp [h, hother k (List.mem_range.mp hk) h]
  rw [hiff, List.filter_beq, List.count_eq_one_of_mem List.nodup_range (List.mem_range.mpr hr)]
  rfl

/-- The partition is noted as evaluated now. -/
def noteEvaluated (part : Nat) (s : State) : State :=
  modRoot (fun r => { r with parts := r.parts.map fun p => if p.id = part then { p with evaluated := some s.pkg.time } else p }) s

theorem find?_map_part (part : Nat) {f : Part → Part} (hf : ∀ p, (f p).id = p.id) (l : List Part) :
    (l.map f).find? (fun p => p.id == part) = (l.find? fun p => p.id == part).map f := by
  rw [List.find?_map]
  congr 2
  funext p
  simp [hf]

theorem recentPosts_noteEvaluated (part : Nat) (s : State) : recentPosts (noteEvaluated part s) part = recentPosts s part := by
  show ((((s.root.parts.map _).find? fun p : Part => p.id == part).map (·.posted)).getD []).filter _ = _
  rw [find?_map_part part (by intro p; split <;> rfl), Option.map_map]
  unfold recentPosts
  congr 3
  funext p
  rw [Function.comp_apply]
  split <;> rfl

theorem withdrawRebind_same (s0 : State) {s t : State} {l : Launch} {p : Placed} (hview : SameView s t) (h : ∀ k, ((getCore s p.core).bankOf p.bank).rebind ≠ .posted k) :
    SameView t (withdrawRebind s0 l t p) := by
  refine sameView_modCoreAt (modBankOf_same ?_) (fun c => modBankOf_num ..)
  rw [hview.cores]
  split
  · next k hk => exact absurd hk (h k)
  · rfl

theorem rebind_wakeCore (p : Bool → Nat → Wait → Bool) (c : Core) (b : Bool) : ((wakeCore p c).bankOf b).rebind = (c.bankOf b).rebind := by
  unfold wakeCore Core.mapCtxs Core.bankOf
  by_cases h : c.bank.num = b <;> simp [h]

theorem postRebind_single {part r : Nat} {l : Launch} {x : Placed} {s : State} (hx : x ∈ l.placed.filter fun p => boundTo s l.id p && gives s l r p.stage && idleCore s l p)
    (hlow : ∀ y ∈ l.placed.filter fun p => boundTo s l.id p && gives s l r p.stage && idleCore s l p, y = x ∨ x.core < y.core)
    (hposts : (recentPosts s part).length < 64) : ((getCore (postRebind part l s r) x.core).bankOf x.bank).rebind = .posted r ∧ (postRebind part l s r).mem = s.mem
      ∧ ∀ n, n ≠ x.core → getCore (postRebind part l s r) n = getCore s n := by
  unfold postRebind
  dsimp only
  rw [lowestCore_eq hx hlow]
  dsimp only
  rw [if_neg (Nat.not_le.mpr hposts)]
  refine ⟨?_, modCoreAt_mem .., fun n hn => ?_⟩
  · rw [getCore_modCoreAt_self (by intro c; exact modBankOf_num ..), rebind_wakeCore, bankOf_modBankOf _ _ (by intro; rfl)]
  · rw [getCore_modCoreAt_other hn (by intro c; exact modBankOf_num ..)]
    rfl

end Sys2Proof.Machine
end

section
/-! PROOFS. The balancer and checkpoints. -/

namespace Sys2Proof.Proofs
open Sys2Proof Sys2Proof.Machine

variable {s : State} {part : Nat}

/-! ### Evaluation (R107, R108) -/

/-- The partition has been evaluated in the last 100 ticks. -/
def Early (s : State) (part : Nat) : Prop :=
  ∃ q t0, s.root.parts.find? (fun y => y.id == part) = some q ∧ q.evaluated = some t0 ∧ s.pkg.time < t0 + 100

theorem exec_balancer_early (h : Early s part) : exec (.balancerEvaluation part) s = .next s := by
  obtain ⟨q, t0, hq, ht, htime⟩ := h
  rw [exec_balancerEvaluation]
  unfold execBalancerEvaluation
  simp [hq, ht, htime]

theorem exec_balancer (h : ¬Early s part) : exec (.balancerEvaluation part) s = .next (((noteEvaluated part s).root.launches.filter fun l =>
    l.st == .running && ((proc? (noteEvaluated part s) l.asid).map (·.part)) == some part).foldl (balanceLaunch part) (noteEvaluated part s)) := by
  rw [exec_balancerEvaluation]
  unfold execBalancerEvaluation
  refine if_neg ?_
  intro hearly
  apply h
  cases hq : s.root.parts.find? (fun y => y.id == part) with
  | none => simp [hq] at hearly
  | some q =>
    cases ht : q.evaluated with
    | none => simp [hq, ht] at hearly
    | some t0 => exact ⟨q, t0, hq, ht, by simpa [hq, ht] using hearly⟩

/-- Memory is `m`, and the partition has been evaluated at a time. -/
def Noted (part time : Nat) (m : List Host.Cell) (t : State) : Prop := t.mem = m ∧ ∀ q ∈ t.root.parts, q.id = part → q.evaluated = some time

theorem modCoreAt_root (n : Nat) (f : Core → Core) (s : State) : (modCoreAt n f s).root = s.root := by
  unfold modCoreAt; split <;> rfl

theorem noted_noteEvaluated (part : Nat) (s : State) : Noted part s.pkg.time s.mem (noteEvaluated part s) := by
  refine ⟨rfl, fun q hq hid => ?_⟩
  obtain ⟨q', -, rfl⟩ := List.mem_map.mp hq
  by_cases h : q'.id = part
  · rw [if_pos h]
  · rw [if_neg h] at hid
    exact absurd hid h

variable {time : Nat} {m : List Host.Cell} {t : State}

theorem Noted.modCoreAt (h : Noted part time m t) (n : Nat) (f : Core → Core) : Noted part time m (modCoreAt n f t) :=
  ⟨(modCoreAt_mem ..).trans h.1, by rw [modCoreAt_root]; exact h.2⟩

theorem Noted.postRebind (h : Noted part time m t) (l : Launch) (r : Nat) : Noted part time m (postRebind part l t r) := by
  unfold Machine.postRebind
  dsimp only
  split
  · exact h
  · split
    · exact h
    · refine Noted.modCoreAt (t := modRoot _ t) ⟨h.1, fun q hq hid => ?_⟩ _ _
      obtain ⟨q', hq', rfl⟩ := List.mem_map.mp hq
      by_cases hpart : q'.id = part
      · rw [if_pos hpart]
        exact h.2 q' hq' hpart
      · rw [if_neg hpart] at hid
        exact absurd hid hpart

theorem Noted.balanceLaunch (h : Noted part time m t) (l : Launch) : Noted part time m (balanceLaunch part t l) :=
  List.foldlRecOn _ _ (List.foldlRecOn _ _ h fun _ hu _ _ => hu.modCoreAt ..) fun _ hu r _ => hu.postRebind l r

theorem exec_balancer_noted (h : ¬Early s part) : ∃ t, exec (.balancerEvaluation part) s = .next t ∧ Noted part s.pkg.time s.mem t :=
  ⟨_, exec_balancer h, List.foldlRecOn _ _ (noted_noteEvaluated part s) fun _ hu l _ => hu.balanceLaunch l⟩

/-- The one running launch of a partition, of whose stages one receives; no rebind is posted. -/
structure OneReceives (s : State) (part r : Nat) (l : Launch) : Prop where
  alone : s.root.launches = [l]
  running : l.st = .running
  mine : (proc? s l.asid).map (·.part) = some part
  unposted : ∀ y ∈ l.placed, ∀ k, ((getCore s y.core).bankOf y.bank).rebind ≠ .posted k
  stage : r < l.stages.length
  receives : receives s l r = true
  others : ∀ k, k < l.stages.length → k ≠ r → Machine.receives s l k = false

/-- The rebind goes to the lowest core that may give. -/
theorem exec_balancer_posts {r : Nat} {l : Launch} {x : Placed} (h : ¬Early s part) (hone : OneReceives s part r l)
    (hx : x ∈ l.placed.filter fun y => boundTo s l.id y && gives s l r y.stage && idleCore s l y)
    (hlow : ∀ y ∈ l.placed.filter fun y => boundTo s l.id y && gives s l r y.stage && idleCore s l y, y = x ∨ x.core < y.core)
    (hposts : (recentPosts s part).length < 64) : ∃ t, exec (.balancerEvaluation part) s = .next t
      ∧ ((getCore t x.core).bankOf x.bank).rebind = .posted r ∧ t.mem = s.mem ∧ ∀ n, n ≠ x.core → getCore t n = getCore s n := by
  have hview : SameView (noteEvaluated part s) (l.placed.foldl (withdrawRebind (noteEvaluated part s) l) (noteEvaluated part s)) :=
    sameView_foldl (s := noteEvaluated part s) (fun y hy t ht => withdrawRebind_same _ ht (hone.unposted y hy)) (.refl _)
  have hbalance : balanceLaunch part (noteEvaluated part s) l
      = postRebind part l (l.placed.foldl (withdrawRebind (noteEvaluated part s) l) (noteEvaluated part s)) r := by
    have hr : (List.range l.stages.length).filter (receives (noteEvaluated part s) l) = [r] := filter_range_single hone.stage hone.receives hone.others
    unfold balanceLaunch
    rw [hr]
    rfl
  have hpool : (l.placed.filter fun y => boundTo s l.id y && gives s l r y.stage && idleCore s l y) = l.placed.filter fun y =>
      boundTo (l.placed.foldl (withdrawRebind (noteEvaluated part s) l) (noteEvaluated part s)) l.id y
        && gives (l.placed.foldl (withdrawRebind (noteEvaluated part s) l) (noteEvaluated part s)) l r y.stage
        && idleCore (l.placed.foldl (withdrawRebind (noteEvaluated part s) l) (noteEvaluated part s)) l y := by
    simp only [hview.boundTo, hview.gives, hview.idleCore]
    rfl
  have hfilter : ((noteEvaluated part s).root.launches.filter fun l =>
      l.st == .running && ((proc? (noteEvaluated part s) l.asid).map (·.part)) == some part) = [l] := by
    show (s.root.launches.filter fun l => l.st == .running && ((proc? s l.asid).map (·.part)) == some part) = [l]
    rw [hone.alone, List.filter_cons_of_pos (by simp [hone.running, hone.mine]), List.filter_nil]
  rw [hpool] at hx hlow
  obtain ⟨hpost, hmem, hothers⟩ := postRebind_single hx hlow (by rw [hview.recentPosts, recentPosts_noteEvaluated]; exact hposts)
  refine ⟨_, exec_balancer h, ?_⟩
  rw [hfilter, List.foldl_cons, List.foldl_nil, hbalance]
  exact ⟨hpost, hmem.trans hview.mem, fun n hn => (hothers n hn).trans (hview.cores n)⟩

end Sys2Proof.Proofs
end

section
/-! PROOFS. Checkpoints: requests, streams, restores, timeouts and resumes (R86, R255, R256). -/

namespace Sys2Proof.Proofs
open Sys2Proof Sys2Proof.Machine

variable {s : State} {ask : CkptAsk} {ck : Ckpt}

/-! ### A request (R86, R255) -/

theorem exec_checkpointRequest_refused (hup : hostUp s = true) (hnone : s.root.ckpt = none)
    (hbad : attached ask.drive ask.nsid = false ∨ ∃ a, ask.what = some a ∧ proc? s a = none) :
    exec (.checkpointRequest ask) s = .next (msi ask.port 0 (mailRefuse s)) := by
  rw [exec_checkpointRequest]
  unfold execCheckpointRequest
  rw [if_neg (by simp [hup]), hnone]
  refine if_neg ?_
  rcases hbad with hbad | ⟨a, ha, hproc⟩
  · simp [hbad]
  · simp [ha, hproc]

theorem exec_checkpointRequest_stops (hup : hostUp s = true) (hnone : s.root.ckpt = none) (hdrive : attached ask.drive ask.nsid = true)
    (hproc : ∀ a, ask.what = some a → (proc? s a).isSome = true) : exec (.checkpointRequest ask) s = .next (ckptStop ask s) := by
  rw [exec_checkpointRequest]
  unfold execCheckpointRequest
  rw [if_neg (by simp [hup]), hnone]
  refine if_pos ?_
  cases hw : ask.what with
  | none => simp [hdrive]
  | some a => simp [hdrive, hproc a hw]

/-- A checkpoint under way that has not begun to stream, while no write is held. -/
structure Stopping (ask : CkptAsk) (ck : Ckpt) (s : State) : Prop where
  up : hostUp s = true
  ckpt : s.root.ckpt = some ck
  ask : ck.ask = ask
  quiet : ck.streaming = false
  held : s.ms.heldW = []

theorem Stopping.exec_waits (h : Stopping ask ck s) (hready : ckptReady s ask.what = false) : exec (.checkpointRequest ask) s = .next s := by
  rw [exec_checkpointRequest]
  unfold execCheckpointRequest
  rw [if_neg (by simp [h.up]), h.ckpt]
  exact if_pos (by simp [hready])

theorem Stopping.exec_goes (h : Stopping ask ck s) (hready : ckptReady s ask.what = true) : exec (.checkpointRequest ask) s =
    .next (if (ckptCores s ask.what).any (unwritten s) then ckptFlush ask.what s else ckptStream ck s) := by
  rw [exec_checkpointRequest]
  unfold execCheckpointRequest
  rw [if_neg (by simp [h.up]), h.ckpt]
  dsimp only
  rw [if_neg (by simp [h.ask, h.quiet, hready, h.held])]
  exact (apply_ite Host.Outcome.next ..).symm

theorem sendBytes_root (x : L1Line) (mask : BitVec 128) (s : State) : (sendBytes x mask s).root = s.root := by
  unfold sendBytes
  split <;> rfl

theorem writeBackLine_root (line : Nat) (s : State) : (writeBackLine line s).root = s.root := by
  unfold writeBackLine
  split
  · rfl
  · exact sendBytes_root ..

/-- All dirty bytes of the one core start on their way home. -/
theorem ckptFlush_one (hcores : s.cores = []) : (ckptFlush none s).mem = s.mem ∧ (ckptFlush none s).root = s.root
    ∧ ∀ l ∈ (ckptFlush none s).core.l1, l.dirty = 0 := by
  have hmine : ckptCores s none = [s.core.num] := by simp [ckptCores, hcores]
  unfold ckptFlush
  rw [hmine, List.foldl_cons, List.foldl_nil, getCore_self]
  by_cases hdirty : s.core.l1.any (fun l => l.dirty != 0) = true
  · have hback : WroteBack s (writeBackWhere (fun _ => true) s) := wroteBack_foldl ..
    rw [if_pos hdirty, atCore_self hback.num]
    refine ⟨hback.mem, foldl_keeps State.root (fun s l => writeBackLine_root l s) _ _, fun l hl => ?_⟩
    rcases mem_l1_foldl_writeBackLine hl with ⟨hmem, hnot⟩ | hclean
    · by_contra hne
      exact hnot (List.mem_map.mpr ⟨l, List.mem_filter.mpr ⟨hmem, by simpa using hne⟩, rfl⟩)
    · exact hclean
  · rw [if_neg hdirty]
    simp only [List.any_eq_true, bne_iff_ne, not_exists, not_and, not_not] at hdirty
    exact ⟨rfl, rfl, hdirty⟩

theorem Stopping.exec_flushes (h : Stopping ask ck s) (hready : ckptReady s ask.what = true) (hcores : s.cores = []) (hwhat : ask.what = none)
    (hdirty : unwritten s s.core.num = true) : exec (.checkpointRequest ask) s = .next (ckptFlush none s) := by
  rw [h.exec_goes hready, hwhat, if_pos (by simp [ckptCores, hcores, hdirty])]

/-! ### The stream (R76, R86) -/

/-- Bytes cut into pieces are the bytes. -/
theorem flatten_cutBytes {z : Nat} (hz : 0 < z) (bs : List Byte) : (cutBytes z bs).flatten = bs := by
  have hfirst : ∀ m, ((List.range m).map fun i => (bs.drop (i * z)).take z).flatten = bs.take (m * z) := by
    intro m
    induction m with
    | zero => simp
    | succ m ih => rw [List.range_succ, List.map_append, List.flatten_append, ih, Nat.succ_mul, List.take_add]; simp
  unfold cutBytes
  rw [hfirst]
  refine List.take_of_length_le ?_
  have hdiv := Nat.div_add_mod (bs.length + z - 1) z
  have hmod := Nat.mod_lt (bs.length + z - 1) hz
  rw [Nat.mul_comm] at hdiv
  omega

theorem pieceBytes_pos (drive : Nat) {lba : Nat} (h : 0 < lba) : 0 < pieceBytes drive lba := Nat.lt_of_lt_of_le h (Nat.le_max_left ..)

/-- The pieces of a checkpoint, in order. -/
theorem ckptPieces_data (s : State) (ask : CkptAsk) (b : Nat) : ∀ (parts : List (Bool × Nat × List Byte)) (id lba : Nat),
    (∀ y ∈ ckptPieces s ask b id lba parts, y.ckpt = true ∧ y.read = false ∧ y.fua = true ∧ y.drive = ask.drive ∧ y.nsid = ask.nsid)
      ∧ (ckptPieces s ask b id lba parts).map (·.data)
        = (parts.map fun x => x.2.2).map fun bs => bs ++ List.replicate ((bs.length + b - 1) / b * b - bs.length) 0
  | [], _, _ => ⟨fun _ h => absurd h List.not_mem_nil, rfl⟩
  | (rawb, pa, bs) :: parts, id, lba => by
    obtain ⟨hys, hdata⟩ := ckptPieces_data s ask b parts (id + 1) (lba + (bs.length + b - 1) / b)
    refine ⟨fun y hy => ?_, ?_⟩
    · rcases List.mem_cons.mp hy with rfl | hy
      · exact ⟨rfl, rfl, rfl, rfl, rfl⟩
      · exact hys y hy
    · exact congrArg (_ :: ·) hdata

/-- The parts of a checkpoint's stream: of each page its cuts. -/
def ckptParts (ck : Ckpt) (s : State) : List (Bool × Nat × List Byte) :=
  (ckptPages s ck.ask.what).flatMap fun t =>
    (cutBytes (pieceBytes ck.ask.drive (max 1 (Config.lbaFormat ck.ask.drive ck.ask.nsid).1)) (streamPage s t)).map fun bs => (rawPage s t, t.pa, bs)

theorem flatten_ckptParts (ck : Ckpt) (s : State) : ((ckptParts ck s).map fun x => x.2.2).flatten = (ckptPages s ck.ask.what).flatMap (streamPage s) := by
  unfold ckptParts
  rw [List.map_flatMap, ← List.flatMap_id, List.flatMap_assoc]
  refine List.flatMap_congr fun t _ => ?_
  rw [List.map_map, List.flatMap_id]
  exact (congrArg List.flatten (List.map_id _)).trans (flatten_cutBytes (pieceBytes_pos _ (Nat.lt_of_lt_of_le Nat.zero_lt_one (Nat.le_max_left ..))) _)

/-- The pieces of a checkpoint's stream. -/
def ckptSent (ck : Ckpt) (s : State) : List Piece :=
  ckptPieces s ck.ask (max 1 (Config.lbaFormat ck.ask.drive ck.ask.nsid).1) s.io.nextPiece ck.ask.lba (ckptParts ck s)

/-- The reads of a checkpoint's stream at the home slices (R420). -/
def ckptReads (ck : Ckpt) (s : State) : State := (ckptPages s ck.ask.what).foldl (fun s t =>
  (List.range (2 ^ t.bits / 128)).foldl (fun s i => readFrom (driveNode ck.ask.drive) (t.pa / 128 + i) s) s) s

theorem ckptReads_keeps {α : Type} (get : State → α) (hget : ∀ io line s, get (readFrom io line s) = get s) (ck : Ckpt) (s : State) :
    get (ckptReads ck s) = get s := foldl_keeps get (fun s _ => foldl_keeps get (fun _ _ => hget ..) _ s) _ s

/-- The pieces stand in the drive's queue, and the checkpoint streams. -/
def ckptQueued (ck : Ckpt) (s : State) : State :=
  modRoot (fun r => { r with ckpt := some { ck with streaming := true } })
    (modIo (fun o => { o with pieces := o.pieces ++ ckptSent ck s, nextPiece := o.nextPiece + (ckptSent ck s).length }) (ckptReads ck s))

theorem ckptStream_eq (ck : Ckpt) (s : State) :
    ckptStream ck s = if (ckptSent ck s).isEmpty then ckptPiece true (ckptQueued ck s) else ckptQueued ck s := rfl

theorem ckptPiece_leaves (ok : Bool) (s : State) : (ckptPiece ok s).mem = s.mem ∧ (ckptPiece ok s).io.pieces = s.io.pieces := by
  have hrefuse : ∀ b : Bool, (if b then mailRefuse s else s).mem = s.mem ∧ (if b then mailRefuse s else s).io.pieces = s.io.pieces := fun b => by
    cases b <;> exact ⟨rfl, rfl⟩
  unfold ckptPiece
  split
  · exact ⟨rfl, rfl⟩
  · dsimp only
    split
    · exact ⟨rfl, rfl⟩
    · exact hrefuse _

/-- The stream leaves memory, and its pieces join the others; unless there are none, the checkpoint streams. -/
theorem ckptStream_leaves (ck : Ckpt) (s : State) : (ckptStream ck s).mem = s.mem ∧ (ckptStream ck s).io.pieces = s.io.pieces ++ ckptSent ck s
    ∧ (ckptSent ck s ≠ [] → (ckptStream ck s).root.ckpt = some { ck with streaming := true } ∧ (ckptStream ck s).io.outs = s.io.outs) := by
  have hmem : (ckptQueued ck s).mem = s.mem := ckptReads_keeps State.mem (fun _ _ _ => readFrom_mem ..) ck s
  have hio := ckptReads_keeps State.io (fun io line s => (landsNothing_readFrom io line s).io) ck s
  have hpieces : (ckptQueued ck s).io.pieces = s.io.pieces ++ ckptSent ck s := by
    show (ckptReads ck s).io.pieces ++ _ = _
    rw [hio]
  have houts : (ckptReads ck s).io.outs = s.io.outs := by rw [hio]
  rw [ckptStream_eq]
  split
  · next hempty =>
    obtain ⟨hm, hp⟩ := ckptPiece_leaves true (ckptQueued ck s)
    exact ⟨hm.trans hmem, hp.trans hpieces, fun hne => absurd (List.isEmpty_iff.mp hempty) hne⟩
  · exact ⟨hmem, hpieces, fun _ => ⟨rfl, houts⟩⟩

/-- A checkpoint whose cores have nothing unwritten streams its memory. -/
theorem Stopping.exec_streams (h : Stopping ask ck s) (hready : ckptReady s ask.what = true) (hclean : ∀ n ∈ ckptCores s ask.what, unwritten s n = false) :
    exec (.checkpointRequest ask) s = .next (ckptStream ck s) := by
  rw [h.exec_goes hready, if_neg]
  simpa using hclean

/-- The last piece of a checkpoint ends it (R86). -/
theorem exec_ckptPiece_last (ok : Bool) {y : Piece} (hckpt : s.root.ckpt = some ck) (hpieces : s.io.pieces = [y]) (hy : y.ckpt = true) (hread : y.read = false)
    (hripe : pieceOver s y = true) : ∃ t, exec (.nvmePieceComplete y.id ok []) s = .next t ∧ t.mem = s.mem ∧ t.io.pieces = [] ∧ t.root.ckpt = none
      ∧ t.io.outs = s.io.outs ++ (if ok && !ck.failed then [] else [.refused]) ++ [.msi ck.ask.port 0] := by
  have hgone : (withoutPiece y s).io.pieces = [] := by simp [withoutPiece, modIo, hpieces]
  have hend : endPiece y ok 0x81 [] s = ckptPiece ok (withoutPiece y s) := if_pos hy
  rw [exec_nvmePieceComplete]
  unfold execNvmePieceComplete
  rw [hpieces, List.find?_cons_of_pos (by simp)]
  dsimp only
  rw [if_neg (by simp [hripe, hread]), hend]
  unfold ckptPiece
  rw [show (withoutPiece y s).root.ckpt = some ck from hckpt]
  dsimp only
  rw [if_neg (by simp [hgone])]
  refine ⟨_, rfl, ?_⟩
  cases hok : ok <;> cases hfailed : ck.failed <;> simp [msi, mailRefuse, hgone] <;> exact ⟨rfl, rfl⟩

/-! ### Restores (R86) -/

theorem exec_checkpointRestore_plain {place : CkptAt} {data : List Byte} (hup : hostUp s = true) (hwf : Memory.wf s.mem = true) (hheld : s.ms.heldW = [])
    (hlist : s.ms.poisonList = []) (hraw : place.rawb = false)
    (hplace : ∀ i, i < data.length → allocatable s (place.pa + i) = true ∧ Say.plain s (place.pa + i)) :
    ∃ t, exec (.checkpointRestore place data) s = .next t ∧ memRead t.mem place.pa data.length = data ∧ Say.LandsIn place.pa data.length s t
      ∧ t.io.outs = s.io.outs ++ [.msi place.port 0] := by
  have hland := (lands_whereAllocatable (driveNode place.drive) place.pa data hheld).congr (k := overwrite place.pa data) fun a v => by
    split
    · rfl
    · next ha =>
      refine (overwrite_out ?_ v).symm
      by_contra hin
      obtain ⟨i, rfl⟩ := Nat.exists_eq_add_of_le (show place.pa ≤ a by omega)
      exact ha (hplace i (by omega)).1
  rw [exec_checkpointRestore]
  unfold execCheckpointRestore
  dsimp only
  rw [if_neg (by simp [hup, hheld]), if_neg (by simp [hraw])]
  obtain ⟨hread, hout⟩ := hland.whole hlist hwf fun i hi => (hplace i hi).2
  exact ⟨_, rfl, hread, hout, congrArg (·.outs ++ _) hland.io⟩

theorem exec_checkpointRestore_raw {place : CkptAt} {data : List Byte} (hup : hostUp s = true) (hheld : s.ms.heldW = []) (hraw : place.rawb = true)
    (hpa : place.pa % 2 ^ 17 = 0) (hrange : allocatableRange s place.pa (2 ^ 17) = true) : exec (.checkpointRestore place data) s
      = .next (msi place.port 0 (rawIn (driveNode place.drive) [place.pa] data s).1) := by
  rw [exec_checkpointRestore]
  unfold execCheckpointRestore
  dsimp only
  rw [if_neg (by simp [hup, hheld]), if_pos hraw, if_pos (by rw [Bool.and_eq_true]; exact ⟨decide_eq_true hpa, hrange⟩)]

/-! ### A halt that does not close, and a launch that goes on (R255, R256) -/

/-- A launch that a checkpoint stops. -/
structure Halting (l : Launch) (s : State) : Prop where
  here : launch? s l.id = some l
  halting : l.st = .halting
  resumable : l.resumable = true

variable {l : Launch}

theorem launch?_map {f : Launch → Launch} (hf : ∀ x, (f x).id = x.id) {id : Nat} (h : launch? s id = some l) {t : State}
    (ht : t.root.launches = s.root.launches.map f) : launch? t id = some (f l) := by
  unfold launch? at *
  rw [ht, List.find?_map, show (fun x : Launch => x.id == id) ∘ f = fun x => x.id == id from funext fun x => by simp [hf], h]
  rfl

theorem Halting.exec_timeout (h : Halting l s) (hheld : ∃ d ∈ s.fab.doms, d.launch = l.id ∧ d.heldHalt = true)
    (hdue : l.haltedAt + max 100000 (min 6000000000 (Config.ckptPolicy l.id)) ≤ s.pkg.time) :
    ∃ t, exec (.checkpointTimeout l.id) s = .next t ∧ t.mem = s.mem ∧ launch? t l.id = some { l with origin := some ⟨none, 3, 0⟩, resumable := false }
      ∧ ∀ d ∈ t.fab.doms, d.launch = l.id → d.heldHalt = false := by
  rw [exec_checkpointTimeout]
  unfold execCheckpointTimeout
  rw [h.here]
  dsimp only
  rw [if_pos (by simpa [h.halting, h.resumable, ckptTicks, hdue] using hheld)]
  refine ⟨_, rfl, rfl, ?_, fun d hd hid => ?_⟩
  · refine (launch?_map (by intro x; split <;> rfl) h.here rfl).trans ?_
    simp [h.halting, h.resumable]
  · obtain ⟨d', -, rfl⟩ := List.mem_map.mp (show d ∈ s.fab.doms.map _ from hd)
    by_cases hd' : d'.launch = l.id
    · rw [if_pos hd']
    · rw [if_neg hd'] at hid
      exact absurd hid hd'

theorem Halting.exec_timeout_not (h : Halting l s) (hno : ¬(∃ d ∈ s.fab.doms, d.launch = l.id ∧ d.heldHalt = true)
    ∨ ¬l.haltedAt + max 100000 (min 6000000000 (Config.ckptPolicy l.id)) ≤ s.pkg.time) : exec (.checkpointTimeout l.id) s = .next s := by
  rw [exec_checkpointTimeout]
  unfold execCheckpointTimeout
  rw [h.here]
  refine if_neg ?_
  simp only [Bool.and_eq_true, decide_eq_true_eq, List.any_eq_true, beq_iff_eq]
  rintro ⟨⟨-, hheld⟩, hdue⟩
  exact hno.elim (fun hn => hn hheld) (fun hn => hn hdue)

theorem Halting.exec_resume_waits (h : Halting l s) (hstop : allStopped s l = false) : exec (.resumeLaunch l.id) s = .next s := by
  rw [exec_resumeLaunch]
  unfold execResumeLaunch
  rw [h.here]
  exact if_pos (by simp [hstop])

/-- A bank that a change of a bank leaves, or changes. -/
theorem bankOf_modBankOf_cases (b b' : Bool) {f : Bank → Bank} (hf : ∀ k, (f k).num = k.num) (c : Core) :
    (c.modBankOf b' f).bankOf b = c.bankOf b ∨ (c.modBankOf b' f).bankOf b = f (c.bankOf b) := by
  unfold Core.modBankOf
  by_cases h' : c.bank.num = b'
  · rw [if_pos h']
    by_cases h : c.bank.num = b
    · exact .inr ((if_pos ((hf _).trans h)).trans (congrArg f (if_pos h).symm))
    · exact .inl ((if_neg fun he => h ((hf _).symm.trans he)).trans (if_neg h).symm)
  · rw [if_neg h']
    by_cases h : c.bank.num = b
    · exact .inl ((if_pos h).trans (if_pos h).symm)
    · exact .inr ((if_neg h).trans (congrArg f (if_neg h).symm))

/-- A bank that goes on. -/
def goOn (k : Bank) : Bank := { k with stopped := false }

/-- A bank goes on, and its core forgets the launch's halt (R255). -/
def resumeBank (launch : Nat) (b : Bool) (c : Core) : Core :=
  { c with halts := c.halts.filter fun h => h.launch != launch || h.terminal }.modBankOf b goOn

/-- A placed core of a launch goes on. -/
def resumeCore (launch : Nat) (s : State) (p : Placed) : State :=
  if boundTo s launch p then modCoreAt p.core (resumeBank launch p.bank) s else s

theorem resumeBank_num (launch : Nat) (b : Bool) (c : Core) : (resumeBank launch b c).num = c.num := modBankOf_num ..

/-- No bank is bound anew or stops. -/
structure GoesOn (s t : State) : Prop where
  bound : ∀ n b, ((getCore t n).bankOf b).bound = ((getCore s n).bankOf b).bound
  stopped : ∀ n b, ((getCore s n).bankOf b).stopped = false → ((getCore t n).bankOf b).stopped = false
  rest : t.mem = s.mem ∧ t.root = s.root ∧ t.fab = s.fab

theorem GoesOn.refl (s : State) : GoesOn s s := ⟨fun _ _ => rfl, fun _ _ h => h, rfl, rfl, rfl⟩

theorem GoesOn.trans {s t u : State} (h : GoesOn s t) (k : GoesOn t u) : GoesOn s u := by
  obtain ⟨hmem, hroot, hfab⟩ := h.rest
  obtain ⟨kmem, kroot, kfab⟩ := k.rest
  exact ⟨fun n b => (k.bound n b).trans (h.bound n b), fun n b hs => k.stopped n b (h.stopped n b hs), kmem.trans hmem, kroot.trans hroot, kfab.trans hfab⟩

theorem GoesOn.boundTo {s t : State} (h : GoesOn s t) (launch : Nat) (p : Placed) : boundTo t launch p = Machine.boundTo s launch p := by
  unfold Machine.boundTo; rw [h.bound]

theorem goesOn_resumeCore (launch : Nat) (s : State) (p : Placed) : GoesOn s (resumeCore launch s p) := by
  unfold resumeCore
  split
  case isFalse => exact .refl s
  case isTrue =>
    have hbank : ∀ n b, (getCore (modCoreAt p.core (resumeBank launch p.bank) s) n).bankOf b = (getCore s n).bankOf b
        ∨ (getCore (modCoreAt p.core (resumeBank launch p.bank) s) n).bankOf b = goOn ((getCore s n).bankOf b) := by
      intro n b
      by_cases hn : n = p.core
      · rw [hn, getCore_modCoreAt_self (resumeBank_num launch p.bank)]
        exact bankOf_modBankOf_cases b p.bank (f := goOn) (fun _ => rfl) { getCore s p.core with halts := _ }
      · rw [getCore_modCoreAt_other hn (resumeBank_num launch p.bank)]
        exact .inl rfl
    refine ⟨fun n b => ?_, fun n b hs => ?_, modCoreAt_mem .., modCoreAt_root .., modCoreAt_fab ..⟩
    · rcases hbank n b with h | h <;> rw [h]
      rfl
    · rcases hbank n b with h | h <;> rw [h]
      · exact hs
      · rfl

theorem stopped_resumeCore {launch : Nat} {p : Placed} (h : boundTo s launch p = true) :
    ((getCore (resumeCore launch s p) p.core).bankOf p.bank).stopped = false := by
  unfold resumeCore
  rw [if_pos h, getCore_modCoreAt_self (resumeBank_num launch p.bank)]
  unfold resumeBank
  rw [bankOf_modBankOf _ goOn fun _ => rfl]
  rfl

/-- Every bank of a launch goes on. -/
theorem foldl_resumeCore (launch : Nat) : ∀ (ps : List Placed) (s : State), GoesOn s (ps.foldl (resumeCore launch) s)
    ∧ ∀ y ∈ ps, boundTo s launch y = true → ((getCore (ps.foldl (resumeCore launch) s) y.core).bankOf y.bank).stopped = false
  | [], s => ⟨.refl s, fun _ h => absurd h List.not_mem_nil⟩
  | p :: ps, s => by
    obtain ⟨hon, hstop⟩ := foldl_resumeCore launch ps (resumeCore launch s p)
    have hp := goesOn_resumeCore launch s p
    refine ⟨hp.trans hon, fun y hy hbound => ?_⟩
    rcases List.mem_cons.mp hy with rfl | hy
    · exact hon.stopped _ _ (stopped_resumeCore hbound)
    · exact hstop y hy ((hp.boundTo launch y).trans hbound)

/-- The launch of an id runs again. -/
def runsAgain (id : Nat) (x : Launch) : Launch := if x.id = id then { x with st := .running, origin := none, resumable := false } else x

theorem Halting.exec_resume (h : Halting l s) (hstop : allStopped s l = true) : ∃ t, exec (.resumeLaunch l.id) s = .next t ∧ t.mem = s.mem
    ∧ launch? t l.id = some { l with st := .running, origin := none, resumable := false }
    ∧ (∀ y ∈ l.placed, boundTo s l.id y = true → ((getCore t y.core).bankOf y.bank).stopped = false)
    ∧ ∀ d ∈ t.fab.doms, d.launch = l.id → d.heldHalt = false ∧ d.stopNew = false := by
  obtain ⟨hon, hstopped⟩ := foldl_resumeCore l.id l.placed s
  obtain ⟨hmem, hroot, -⟩ := hon.rest
  rw [exec_resumeLaunch]
  unfold execResumeLaunch
  rw [h.here]
  dsimp only
  rw [if_neg (by simp [h.halting, h.resumable, hstop])]
  refine ⟨_, rfl, hmem, ?_, hstopped, fun d hd hid => ?_⟩
  · refine (launch?_map (f := runsAgain l.id) (fun x => by unfold runsAgain; split <;> rfl) h.here
      (congrArg (fun r : Root => r.launches.map (runsAgain l.id)) hroot)).trans (congrArg some (if_pos rfl))
  · obtain ⟨d', -, rfl⟩ := List.mem_map.mp (show d ∈ List.map _ (l.placed.foldl (resumeCore l.id) s).fab.doms from hd)
    by_cases hd' : d'.launch = l.id
    · rw [if_pos hd']
      exact ⟨rfl, rfl⟩
    · rw [if_neg hd'] at hid
      exact absurd hid hd'

end Sys2Proof.Proofs
end

section
/-! SUPPORT. Moves that leave the root kernel's tables and the rings (R55, R110, R154, R259). -/

namespace Sys2Proof.Machine

/-- The root kernel's tables and the rings stand. -/
structure SameTables (s t : State) : Prop where
  root : t.root = s.root
  rings : t.io.rings = s.io.rings

variable {s t u : State}

theorem SameTables.refl (s : State) : SameTables s s := ⟨rfl, rfl⟩

theorem SameTables.trans (h : SameTables s t) (k : SameTables t u) : SameTables s u := ⟨k.root.trans h.root, k.rings.trans h.rings⟩

theorem sameTables_foldl {β : Type} {f : State → β → State} (hf : ∀ s x, SameTables s (f s x)) : ∀ (l : List β) (s : State), SameTables s (l.foldl f s)
  | [], s => .refl s
  | x :: l, s => (hf s x).trans (sameTables_foldl hf l _)

theorem Apart.sameTables (h : Apart s t) : SameTables s t := ⟨h.root, congrArg Io.rings h.io⟩

theorem sameTables_modCoreAt (n : Nat) (f : Core → Core) (s : State) : SameTables s (modCoreAt n f s) := by
  unfold modCoreAt
  split <;> exact ⟨rfl, rfl⟩

theorem sameTables_turnTo (n : Nat) (s : State) : SameTables s (turnTo n s) := by
  unfold turnTo
  split <;> exact ⟨rfl, rfl⟩

theorem sameTables_atCore {f : State → State} (hf : ∀ s, SameTables s (f s)) (n : Nat) (s : State) : SameTables s (atCore n f s) :=
  ((sameTables_turnTo n s).trans (hf _)).trans (sameTables_turnTo ..)

/-! ### Writes -/

theorem sameTables_writeLine (how : Placing) (die line : Nat) (whole : Bool) (f : List Host.Cell → List Host.Cell) (s : State) :
    SameTables s (writeLine how die line whole f s) := by
  unfold writeLine
  dsimp only
  have hwrite : SameTables s (disturb line { fetchNow line how s with mem := f (fetchNow line how s).mem }) :=
    (landsNothing_fetchNow line how s).sameTables.trans (.trans (t := { fetchNow line how s with mem := f (fetchNow line how s).mem }) ⟨rfl, rfl⟩
      (landsNothing_disturb line _).sameTables)
  generalize disturb line { fetchNow line how s with mem := f (fetchNow line how s).mem } = v at hwrite ⊢
  have hwhole : SameTables s (if whole then wholeLine line v else v) := by
    split
    · exact hwrite.trans (landsNothing_wholeLine ..).sameTables
    · exact hwrite
  generalize (if whole then wholeLine line v else v) = w at hwhole ⊢
  split
  · exact hwhole
  · refine SameTables.trans ?_ (landsNothing_recode ..).sameTables
    split
    · exact (hwhole.trans (landsNothing_countFrame ..).sameTables).trans (landsNothing_noteCode ..).sameTables
    · exact hwhole.trans (landsNothing_countFrame ..).sameTables

theorem sameTables_perform (k : Nat) (bs : List Byte) (s : State) : SameTables s (perform k bs s) := by
  unfold perform performHow
  refine sameTables_foldl (fun s c => ?_) _ s
  unfold performChunk
  split
  · exact ⟨rfl, rfl⟩
  · unfold performNow performFrom
    exact sameTables_writeLine ..

theorem sameTables_saveRecs (b : Bool) (id : Nat) (s : State) : SameTables s (saveRecs b id s) := by
  unfold saveRecs
  dsimp only
  split
  · exact .refl s
  · split
    · exact .refl s
    · exact (sameTables_perform ..).trans (sameTables_perform ..)

theorem sameTables_recordDropped (core : Nat) (who : Option StoreOf) (s : State) : SameTables s (recordDropped core who s) := by
  unfold recordDropped
  split
  · exact .refl s
  · refine sameTables_atCore (fun v => ?_) ..
    unfold pushRec
    dsimp only
    refine SameTables.trans ?_ (sameTables_saveRecs ..)
    exact ⟨rfl, rfl⟩

theorem sameTables_mergeNow (core line : Nat) (data : BitVec 1024) (mask : BitVec 128) (how : Placing) (s : State) :
    SameTables s (mergeNow core line data mask how s) := by
  unfold mergeNow
  split
  · exact .refl s
  · exact sameTables_writeLine ..

theorem sameTables_performHeld : ∀ (fuel : Nat) (s : State), SameTables s (performHeld fuel s)
  | 0, s => .refl s
  | fuel + 1, s => by
    unfold performHeld
    split
    · exact .refl s
    · next i h _ =>
      refine SameTables.trans ?_ (sameTables_performHeld fuel _)
      refine SameTables.trans (t := modMs (fun m => { m with heldW := m.heldW.eraseIdx i }) s) ⟨rfl, rfl⟩ ?_
      split
      · exact (sameTables_recordDropped ..).trans ⟨rfl, rfl⟩
      · exact (sameTables_mergeNow ..).trans ⟨rfl, rfl⟩

theorem sameTables_dropSharer (p gone : Nat → Bool) (s : State) : SameTables s (dropSharer p gone s) := by
  refine SameTables.trans ?_ (sameTables_performHeld ..)
  refine SameTables.trans (sameTables_foldl (fun _ _ => ?_) _ s) ⟨rfl, rfl⟩
  exact ⟨rfl, rfl⟩

theorem sameTables_performAll (io k : Nat) (bs : List Byte) (s : State) : SameTables s (performAll io k bs s) :=
  sameTables_foldl (fun _ _ => ((sameTables_dropSharer ..).trans (landsNothing_visitFrom ..).sameTables).trans (sameTables_writeLine ..)) _ s

/-! ### Ends of groups, domains and banks -/

theorem sameTables_refill (root : NodeId) (s : State) : SameTables s (refill root s) := by
  have hslot : ∀ g, SameTables s (openSlot g s) := fun g => by
    unfold openSlot
    split
    · exact .refl s
    · exact .trans (t := (freeBytes 64 s).2) ⟨rfl, rfl⟩ (sameTables_perform ..)
  unfold refill
  split
  · exact .refl s
  · split
    · exact .refl s
    · exact (hslot _).trans ⟨rfl, rfl⟩

theorem sameTables_deleteGroup (g : Group) (s : State) : SameTables s (deleteGroup g s) := by
  refine SameTables.trans ?_ (sameTables_foldl (fun s _ => sameTables_refill g.root s) _ _)
  refine SameTables.trans ?_ (sameTables_perform ..)
  refine SameTables.trans ?_ (sameTables_foldl (fun s _ => sameTables_foldl (fun _ _ => sameTables_modCoreAt ..) _ s) _ _)
  exact ⟨rfl, rfl⟩

theorem sameTables_deleteGroups (launch : Nat) (s : State) : SameTables s (deleteGroups launch s) :=
  sameTables_foldl (fun s g => sameTables_deleteGroup g s) _ s

theorem sameTables_vacate (n : Nat) (b : Bool) (launch : Nat) (s : State) : SameTables s (vacate n b launch s) := by
  have hleave : SameTables s (leaveStageChannel n b s) := by
    unfold leaveStageChannel
    split
    · exact .refl s
    · split
      · exact .refl s
      · exact (sameTables_modCoreAt ..).trans ⟨rfl, rfl⟩
  unfold vacate
  dsimp only
  refine SameTables.trans ?_ (sameTables_modCoreAt ..)
  exact ⟨hleave.root, hleave.rings⟩

theorem sameTables_cutBank (launch : Nat) (s : State) (p : Placed) : SameTables s (cutBank launch s p) := by
  unfold cutBank
  split
  · exact (sameTables_modCoreAt ..).trans (sameTables_vacate ..)
  · exact .refl s

theorem sameTables_writeBackLine (line : Nat) (s : State) : SameTables s (writeBackLine line s) := by
  unfold writeBackLine
  split
  · exact .refl s
  · unfold sendBytes
    split <;> exact ⟨rfl, rfl⟩

theorem sameTables_turnOver (n : Nat) (s : State) : SameTables s (turnOver n s) := by
  refine sameTables_atCore (fun v => ?_) n s
  split
  · unfold beginSwap
    split
    · exact .refl v
    · exact (sameTables_foldl (fun s l => sameTables_writeBackLine l s) _ v).trans ⟨rfl, rfl⟩
  · exact .refl v

theorem sameTables_vacateAll (l : Launch) (s : State) : SameTables s (vacateAll l s) := by
  refine sameTables_foldl (fun s p => ?_) _ s
  split
  · exact (sameTables_vacate ..).trans (sameTables_turnOver ..)
  · exact .refl s

theorem sameTables_stampEvent (key : Nat) (s : State) : SameTables s (stampEvent key s) := by
  unfold stampEvent
  split <;> exact ⟨rfl, rfl⟩

/-! ### What a kill leaves of a process (R110, R259) -/

/-- Every process of an ASID is killed; of the ASID's rings only those with a key in `keys` are enabled. -/
structure KilledBut (asid : Nat) (keys : List Nat) (s : State) : Prop where
  procs : ∀ q ∈ s.root.procs, q.asid = asid → q.killed = true
  rings : ∀ q ∈ s.io.rings, q.asid = asid → q.enable = true → q.key ∈ keys

/-- Every launch of an ASID but those with an id in `ids` halts for good. -/
def HaltsBut (asid : Nat) (ids : List Nat) (s : State) : Prop :=
  ∀ y ∈ s.root.launches, y.asid = asid → y.id ∉ ids → y.st = .halting ∧ y.resumable = false

variable {asid : Nat} {keys ids : List Nat}

theorem SameTables.killedBut (h : SameTables s t) (hk : KilledBut asid keys s) : KilledBut asid keys t :=
  ⟨h.root ▸ hk.procs, h.rings ▸ hk.rings⟩

theorem SameTables.haltsBut (h : SameTables s t) (hh : HaltsBut asid ids s) : HaltsBut asid ids t := by
  unfold HaltsBut
  rw [h.root]
  exact hh

/-- A change of the launches alone. -/
theorem KilledBut.modLaunches (h : KilledBut asid keys s) {f : Root → Root} (hf : ∀ r, (f r).procs = r.procs) : KilledBut asid keys (modRoot f s) :=
  ⟨by rw [modRoot_root, hf]; exact h.procs, h.rings⟩

theorem sameTables_killDesc (asid key : Nat) (s : State) (d : BitVec 2048) : SameTables s (killDesc asid key s d) := by
  unfold killDesc
  dsimp only
  split
  · exact .refl s
  · refine SameTables.trans ?_ (sameTables_stampEvent ..)
    unfold stampLaunch
    split
    · exact .refl s
    · exact sameTables_performAll ..

theorem KilledBut.killRing {r : Ring} (h : KilledBut asid (r.key :: keys) s) : KilledBut asid keys (killRing asid s r) := by
  unfold Machine.killRing
  dsimp only
  have hdesc := (sameTables_foldl (fun s d => sameTables_killDesc asid r.key s d) ((s.root.copied.filter fun c => c.ring == r.key).map (·.desc)
    ++ (List.range (min 64 (r.tail - r.head).toNat)).map fun i => ((r.slots.find? fun x => x.1 == (r.head.toNat + i) % 64).map (·.2)).getD 0) s).killedBut h
  generalize List.foldl (killDesc asid r.key) s _ = v at hdesc ⊢
  refine ⟨hdesc.procs, fun q hq hasid hen => ?_⟩
  rcases List.mem_cons.mp hq with rfl | hq
  · exact absurd hen (by simp)
  · obtain ⟨hq, hkey⟩ := List.mem_filter.mp hq
    exact (List.mem_cons.mp (hdesc.rings q hq hasid hen)).resolve_left (by simpa using hkey)

theorem KilledBut.foldl_killRing : ∀ {rs : List Ring} {s : State}, KilledBut asid (rs.map (·.key)) s → KilledBut asid [] (rs.foldl (Machine.killRing asid) s)
  | [], _, h => h
  | _ :: rs, _, h => KilledBut.foldl_killRing (rs := rs) h.killRing

theorem KilledBut.remember (h : KilledBut asid keys s) (a : Nat) (lid : W32) (st : BitVec 8) : KilledBut asid keys (remember a lid st s) := by
  refine ⟨fun q hq hasid => ?_, h.rings⟩
  obtain ⟨q', hq', rfl⟩ := List.mem_map.mp (show q ∈ s.root.procs.map _ from hq)
  by_cases ha : q'.asid = a
  · rw [if_pos ha] at hasid ⊢
    exact h.procs q' hq' hasid
  · rw [if_neg ha] at hasid ⊢
    exact h.procs q' hq' hasid

theorem KilledBut.complete (h : KilledBut asid keys s) (l : Launch) (st : BitVec 8) : KilledBut asid keys (complete l st s) := by
  unfold Machine.complete
  refine (sameTables_stampEvent ..).killedBut (KilledBut.modLaunches (.remember ?_ ..) fun _ => rfl)
  exact (sameTables_performAll ..).killedBut h

/-- A launch that completes is forgotten, and no other begins to run. -/
theorem HaltsBut.complete {l : Launch} (h : HaltsBut asid (l.id :: ids) s) (st : BitVec 8) : HaltsBut asid ids (complete l st s) := by
  unfold Machine.complete
  refine (sameTables_stampEvent ..).haltsBut fun y hy hasid hid => ?_
  have hstamp : HaltsBut asid (l.id :: ids) (stampAt l.ring l.stampKey l.lid st s) := (sameTables_performAll ..).haltsBut h
  obtain ⟨y', hy', rfl⟩ := List.mem_map.mp (show y ∈ List.map _ (List.filter _ (stampAt l.ring l.stampKey l.lid st s).root.launches) from hy)
  obtain ⟨hmem, hne⟩ := List.mem_filter.mp hy'
  exact hstamp y' hmem hasid (by simpa using ⟨by simpa using hne, hid⟩)

theorem sameTables_endBanks (l : Launch) (s : State) : SameTables s (deleteDoms l.id (deleteGroups l.id (l.placed.foldl (cutBank l.id) s))) :=
  ((sameTables_foldl (sameTables_cutBank l.id) _ s).trans (sameTables_deleteGroups ..)).trans ⟨rfl, rfl⟩

theorem sameTables_vacated (l : Launch) (s : State) : SameTables s (deleteDoms l.id (deleteGroups l.id (vacateAll l s))) :=
  ((sameTables_vacateAll l s).trans (sameTables_deleteGroups ..)).trans ⟨rfl, rfl⟩

theorem KilledBut.killLaunch (h : KilledBut asid keys s) (l : Launch) : KilledBut asid keys (killLaunch s l) := by
  have hbanks := (sameTables_endBanks l s).killedBut h
  unfold Machine.killLaunch
  dsimp only
  split
  · exact ((sameTables_vacated l _).killedBut hbanks).complete l 0x03
  · exact hbanks.modLaunches fun _ => rfl

theorem HaltsBut.killLaunch {l : Launch} (h : HaltsBut asid (l.id :: ids) s) : HaltsBut asid ids (killLaunch s l) := by
  have hbanks := (sameTables_endBanks l s).haltsBut h
  unfold Machine.killLaunch
  dsimp only
  generalize deleteDoms l.id (deleteGroups l.id (l.placed.foldl (cutBank l.id) s)) = v at hbanks ⊢
  split
  · exact ((sameTables_vacated l v).haltsBut hbanks).complete 0x03
  · intro y hy hasid hid
    obtain ⟨y', hy', rfl⟩ := List.mem_map.mp (show y ∈ v.root.launches.map _ from hy)
    by_cases hl : y'.id = l.id
    · rw [if_pos hl]
      exact ⟨rfl, rfl⟩
    · rw [if_neg hl] at hasid hid ⊢
      exact hbanks y' hy' hasid (by simp [hl, hid])

/-- Launches dealt with one after another. -/
theorem haltsBut_foldl {f : State → Launch → State} (hf : ∀ {s l ids}, HaltsBut asid (l.id :: ids) s → HaltsBut asid ids (f s l)) :
    ∀ {ls : List Launch} {s : State}, HaltsBut asid (ls.map (·.id) ++ ids) s → HaltsBut asid ids (ls.foldl f s)
  | [], _, h => h
  | _ :: ls, _, h => haltsBut_foldl hf (ls := ls) (hf h)

/-- A step that changes the I/O dies alone, and no ring. -/
def OnlyIo (s t : State) : Prop := ∃ io, t = { s with io := io } ∧ io.rings = s.io.rings

theorem OnlyIo.refl (s : State) : OnlyIo s s := ⟨_, rfl, rfl⟩

theorem OnlyIo.trans (h : OnlyIo s t) (k : OnlyIo t u) : OnlyIo s u := by
  obtain ⟨io, rfl, hio⟩ := h
  obtain ⟨io', rfl, hio'⟩ := k
  exact ⟨io', rfl, hio'.trans hio⟩

theorem onlyIo_foldl {β : Type} {f : State → β → State} (hf : ∀ s x, OnlyIo s (f s x)) : ∀ (l : List β) (s : State), OnlyIo s (l.foldl f s)
  | [], s => .refl s
  | x :: l, s => (hf s x).trans (onlyIo_foldl hf l _)

theorem onlyIo_modPeer (conn : Nat) (f : Peer → Peer) (s : State) : OnlyIo s (modPeer conn f s) := ⟨_, rfl, rfl⟩

theorem onlyIo_sendPackets (conn core : Nat) (bank : Bool) (seq : Nat) : ∀ (ps : List PeerPkt) (s : State), OnlyIo s (sendPackets false conn core bank seq ps s)
  | [], s => .refl s
  | r :: ps, s => by
    rw [sendPackets]
    cases peer? s conn with
    | none => exact .refl s
    | some x => exact (onlyIo_modPeer ..).trans (.trans (t := wire conn _ _) ⟨_, rfl, rfl⟩ (onlyIo_sendPackets conn core bank seq ps _))

theorem onlyIo_closeConn (conn : Nat) (s : State) : OnlyIo s (closeConn conn s) := by
  refine (onlyIo_modPeer conn (fun p => { p with closing := true }) s).trans ?_
  unfold closeConn closeIfIdle
  split
  · exact .refl _
  · split
    · exact .refl _
    · split
      · exact onlyIo_modPeer ..
      · split
        · exact .refl _
        · exact onlyIo_sendPackets ..

theorem onlyIo_killEvent (asid : Nat) (s : State) : OnlyIo s (killEvent asid s) := by
  unfold killEvent
  split
  · exact .refl s
  · exact onlyIo_foldl (fun s p => ⟨(msi p 33 s).io, rfl, rfl⟩) _ s

theorem OnlyIo.sameTables (h : OnlyIo s t) : SameTables s t := by
  obtain ⟨io, rfl, hio⟩ := h
  exact ⟨rfl, hio⟩

/-! ### The steps of a kill (R259) -/

/-- The process is killed, and its rings are disabled. -/
def killRings (asid : Nat) (s : State) : State :=
  let s := modProc asid (fun p => { p with killed := true }) s
  (s.io.rings.filter fun r => r.asid == asid && r.enable).foldl (killRing asid) s

/-- Its launches complete, or halt for good. -/
def killLaunches (asid : Nat) (s : State) : State :=
  let mine := s.root.launches.filter fun l => l.asid == asid
  (mine.filter holdsCores).foldl killLaunch ((mine.filter fun l => !holdsCores l).foldl (fun s l => complete l 0x03 s) s)

/-- Its connections close. -/
def closeConns (asid : Nat) (s : State) : State :=
  (s.io.peers.filter fun q => q.info.asid == asid && q.st != .closed && !q.closing).foldl (fun s q => closeConn q.conn s) s

theorem killedBut_killRings (asid : Nat) (s : State) : KilledBut asid [] (killRings asid s) := by
  refine KilledBut.foldl_killRing ⟨fun q hq hasid => ?_, fun q hq hasid hen => ?_⟩
  · obtain ⟨q', -, rfl⟩ := List.mem_map.mp (show q ∈ s.root.procs.map _ from hq)
    by_cases h : q'.asid = asid
    · rw [if_pos h]
    · rw [if_neg h] at hasid
      exact absurd hasid h
  · exact List.mem_map.mpr ⟨q, List.mem_filter.mpr ⟨hq, by simp [hasid, hen]⟩, rfl⟩

theorem KilledBut.killLaunches (h : KilledBut asid keys s) (a : Nat) : KilledBut asid keys (killLaunches a s) :=
  List.foldlRecOn _ _ (List.foldlRecOn _ _ h fun _ h l _ => h.complete l 0x03) fun _ h l _ => h.killLaunch l

theorem haltsBut_killLaunches (asid : Nat) (s : State) : HaltsBut asid [] (killLaunches asid s) := by
  unfold killLaunches
  refine haltsBut_foldl HaltsBut.killLaunch (haltsBut_foldl (fun h => h.complete 0x03) fun y hy hasid hid => absurd ?_ hid)
  have hmine : y ∈ s.root.launches.filter fun l => l.asid == asid := List.mem_filter.mpr ⟨hy, by simpa using hasid⟩
  rw [List.append_nil]
  by_cases hholds : holdsCores y = true
  · exact List.mem_append_right _ (List.mem_map.mpr ⟨y, List.mem_filter.mpr ⟨hmine, hholds⟩, rfl⟩)
  · exact List.mem_append_left _ (List.mem_map.mpr ⟨y, List.mem_filter.mpr ⟨hmine, by simpa using hholds⟩, rfl⟩)

theorem onlyIo_closeConns (asid : Nat) (s : State) : OnlyIo s (closeConns asid s) := by
  unfold closeConns
  exact onlyIo_foldl (fun s (q : Peer) => onlyIo_closeConn q.conn s) _ s

theorem sameTables_forgetProcess (asid : Nat) (s : State) : SameTables s (forgetProcess asid s) := ⟨rfl, rfl⟩

/-- No translation of a forgotten process is left, nor a line that a core of its has cached. -/
theorem forgetProcess_forgets (asid : Nat) (s : State) : (∀ e ∈ (forgetProcess asid s).core.tlb, e.asid ≠ asid)
    ∧ (∀ e ∈ (forgetProcess asid s).ms.twigTlb, e.2.asid ≠ asid)
    ∧ ((forgetProcess asid s).core.asid = asid → (forgetProcess asid s).core.l1 = []) := by
  refine ⟨fun e he => ?_, fun e he => ?_, fun h => ?_⟩
  · simpa using (List.mem_filter.mp he).2
  · simpa using (List.mem_filter.mp he).2
  · have hcore : (forgetProcess asid s).core.asid = s.core.asid ∧ (forgetProcess asid s).core.l1 = (forgetProc asid s.core).l1 := by
      refine ⟨?_, rfl⟩
      show (forgetProc asid s.core).asid = _
      unfold forgetProc
      split <;> rfl
    rw [hcore.2, forgetProc, if_pos (hcore.1.symm.trans h)]

end Sys2Proof.Machine
end

section
/-! PROOFS. Balancing, killing a process, and checkpoints. -/

namespace Sys2Proof.Proofs
open Sys2Proof Sys2Proof.Machine

variable {s : State} {asid : Nat} {p : Proc}

theorem exec_killProcess_kills (hproc : proc? s asid = some p) (hlive : p.killed = false) (hup : hostUp s = true) (hheld : s.ms.heldW = []) :
    ∃ t, exec (.killProcess asid) s = .next t ∧ (∀ q ∈ t.root.procs, q.asid = asid → q.killed = true) ∧ (∀ q ∈ t.io.rings, q.asid = asid → q.enable = false)
      ∧ (∀ y ∈ t.root.launches, y.asid = asid → y.st = .halting ∧ y.resumable = false)
      ∧ (∀ e ∈ t.core.tlb, e.asid ≠ asid) ∧ (∀ e ∈ t.ms.twigTlb, e.2.asid ≠ asid) ∧ (t.core.asid = asid → t.core.l1 = []) := by
  have hexec : exec (.killProcess asid) s = .next (killEvent asid (closeConns asid (forgetProcess asid (killLaunches asid (killRings asid s))))) := by
    rw [exec_killProcess]
    unfold execKillProcess
    rw [hproc]
    exact if_neg (by simp [hlive, hup, hheld])
  have hkilled := (killedBut_killRings asid s).killLaunches asid
  have hhalts := haltsBut_killLaunches asid (killRings asid s)
  generalize killLaunches asid (killRings asid s) = v at hexec hkilled hhalts
  obtain ⟨htlb, htwig, hl1⟩ := forgetProcess_forgets asid v
  have hio := (onlyIo_closeConns asid (forgetProcess asid v)).trans (onlyIo_killEvent asid _)
  have htables := (sameTables_forgetProcess asid v).trans hio.sameTables
  obtain ⟨hprocs, hrings⟩ := htables.killedBut hkilled
  have hlaunches := htables.haltsBut hhalts
  refine ⟨_, hexec, hprocs, fun q hq hasid => ?_, fun y hy hasid => hlaunches y hy hasid List.not_mem_nil, ?_⟩
  · by_contra hen
    exact absurd (hrings q hq hasid (by simpa using hen)) List.not_mem_nil
  · obtain ⟨io, heq, -⟩ := hio
    rw [heq]
    exact ⟨htlb, htwig, hl1⟩

/-- Settles O51: a rebind goes to the lowest core that may give, a kill leaves no ring, launch, translation or line of its process, and a checkpoint's
stream is its pages cut into pieces. -/
theorem balancingKillingAndCheckpoints : Obligations.BalancingKillingAndCheckpoints := by
  intro s part asid r l p x place data ask ck
  refine ⟨exec_balancer_early, fun hlate => exec_balancer_noted hlate,
    fun hlate halone hrun hmine hunposted hstage hreceives hothers hcan hlow hposts => ?_,
    fun hproc hlive hup hheld => exec_killProcess_kills hproc hlive hup hheld, fun hup => ⟨fun hnone => ?_, fun hckpt hask hquiet hheld => ?_⟩,
    fun ok y hckpt hpieces hy hread hripe => exec_ckptPiece_last ok hckpt hpieces hy hread hripe,
    fun hup hwf hheld hlist hraw hplace => exec_checkpointRestore_plain hup hwf hheld hlist hraw hplace,
    fun hup hheld hraw hpa hrange => ⟨_, exec_checkpointRestore_raw hup hheld hraw hpa hrange, rfl, rfl⟩, fun hhere hst hres => ?_⟩
  · have hpool : ∀ y, y ∈ l.placed.filter (fun y => boundTo s l.id y && gives s l r y.stage && idleCore s l y)
        ↔ y ∈ l.placed ∧ boundTo s l.id y = true ∧ gives s l r y.stage = true ∧ idleCore s l y = true := fun y => by
      rw [List.mem_filter, Bool.and_eq_true, Bool.and_eq_true, and_assoc]
    exact exec_balancer_posts hlate ⟨halone, hrun, hmine, hunposted, hstage, hreceives, hothers⟩ ((hpool x).mpr hcan) (fun y hy => hlow y ((hpool y).mp hy)) hposts
  · by_cases hbad : attached ask.drive ask.nsid = false ∨ ∃ a, ask.what = some a ∧ proc? s a = none
    · refine ⟨_, exec_checkpointRequest_refused hup hnone hbad, rfl, rfl, fun _ => ⟨rfl, by simp [msi, mailRefuse]⟩, fun hdrive hproc => ?_⟩
      rcases hbad with hbad | ⟨a, ha, hbad⟩
      · exact absurd hdrive (by simp [hbad])
      · exact absurd (hproc a ha) (by simp [hbad])
    · rw [not_or] at hbad
      have hproc : ∀ a, ask.what = some a → (proc? s a).isSome = true := fun a ha => Option.isSome_iff_ne_none.mpr fun hnone => hbad.2 ⟨a, ha, hnone⟩
      refine ⟨_, exec_checkpointRequest_stops hup hnone (by simpa using hbad.1) hproc, rfl, rfl, fun h => absurd h (not_or.mpr hbad), fun _ _ => ⟨rfl, rfl, ?_⟩⟩
      refine List.map_congr_left fun y _ => ?_
      simp
  · have h : Stopping ask ck s := ⟨hup, hckpt, hask, hquiet, hheld⟩
    refine ⟨h.exec_waits, fun hready hcores hwhat hdirty => ?_, fun hready hclean => ?_⟩
    · exact ⟨_, h.exec_flushes hready hcores hwhat hdirty, ckptFlush_one hcores⟩
    · obtain ⟨hmem, hpieces, hstreams⟩ := ckptStream_leaves ck s
      obtain ⟨hys, hdata⟩ := ckptPieces_data s ck.ask (max 1 (Config.lbaFormat ck.ask.drive ck.ask.nsid).1) (ckptParts ck s) s.io.nextPiece ck.ask.lba
      obtain rfl := hask
      exact ⟨_, _, h.exec_streams hready hclean, hmem, hpieces, hys, hstreams, _, flatten_ckptParts ck s, hdata⟩
  · have h : Halting l s := ⟨hhere, hst, hres⟩
    exact ⟨h.exec_timeout, h.exec_timeout_not, h.exec_resume_waits, h.exec_resume⟩

end Sys2Proof.Proofs
end

section
/-! SUPPORT. Reads and writes of control and status registers (R188, R279, R283, R337 to R342). -/

namespace Sys2Proof.Machine

/-! ### Registers made of fields (R188, R242, R338, R340, R341) -/

theorem toNat_append_add {m n : Nat} (x : BitVec m) (y : BitVec n) : (x ++ y).toNat = x.toNat * 2 ^ n + y.toNat := by
  rw [BitVec.toNat_append, ← Nat.shiftLeft_add_eq_or_of_lt y.isLt, Nat.shiftLeft_eq]

theorem fcsrOf_fields (c : Ctx) : (fcsrOf c).zeroExtend 64 = 0#56 ++ c.frm ++ c.fflags := by
  have hfrm := c.frm.isLt
  have hflags := c.fflags.isLt
  apply BitVec.eq_of_toNat_eq
  simp only [fcsrOf, BitVec.truncate_eq_setWidth, BitVec.toNat_setWidth, toNat_append_add, BitVec.toNat_ofNat]
  omega

theorem dtstatOf_fields (c : Ctx) :
    dtstatOf c = (c.dtstat &&& ~~~0x3F#64) ||| (0#58 ++ BitVec.ofBool c.pend ++ BitVec.ofBool c.hm ++ BitVec.ofNat 4 c.id) := by
  unfold dtstatOf
  congr 1
  apply BitVec.eq_of_toNat_eq
  have hhm := c.hm.toNat_lt
  have hpend := c.pend.toNat_lt
  simp only [toNat_append_add, BitVec.toNat_ofNat, BitVec.toNat_ofBool]
  omega

theorem dinjectOf_fields (i : Inject) :
    dinjectOf i = 0#32 ++ i.off ++ 0#3 ++ i.bit ++ BitVec.ofBool i.fired ++ BitVec.ofBool i.arm := by
  have hoff := i.off.isLt
  have hbit := i.bit.isLt
  have hfired := i.fired.toNat_lt
  have harm := i.arm.toNat_lt
  apply BitVec.eq_of_toNat_eq
  simp only [dinjectOf, toNat_append_add, BitVec.toNat_ofNat, BitVec.toNat_ofBool]
  omega

theorem dnclkOf_fields (s : State) :
    dnclkOf s = 0#52 ++ BitVec.ofBool (rclkOf s (groveOf s.core.num)).relock ++ BitVec.ofNat 11 (rclkOf s (groveOf s.core.num)).current := by
  have hrelock := (rclkOf s (groveOf s.core.num)).relock.toNat_lt
  apply BitVec.eq_of_toNat_eq
  simp only [dnclkOf, toNat_append_add, BitVec.toNat_ofNat, BitVec.toNat_ofBool]
  omega

theorem dbankOf_fields (c : Core) :
    dbankOf c = 0#57 ++ BitVec.ofBool c.mwsw ++ BitVec.ofBool c.yev ++ BitVec.ofBool (c.bankOf true).spilled
      ++ BitVec.ofBool (c.bankOf false).spilled ++ BitVec.ofBool (c.bankOf true).bound.isSome
      ++ BitVec.ofBool (c.bankOf false).bound.isSome ++ BitVec.ofBool c.bank.num := by
  have h := fun b : Bool => b.toNat_lt
  have h0 := h c.mwsw; have h1 := h c.yev; have h2 := h (c.bankOf true).spilled; have h3 := h (c.bankOf false).spilled
  have h4 := h (c.bankOf true).bound.isSome; have h5 := h (c.bankOf false).bound.isSome; have h6 := h c.bank.num
  apply BitVec.eq_of_toNat_eq
  simp only [dbankOf, toNat_append_add, BitVec.toNat_ofNat, BitVec.toNat_ofBool]
  omega

/-! ### A CSR instruction (R337) -/

/-- A register that may be read goes to rd, and nothing else changes. -/
theorem exec_csr_reads {a : CsrArgs} {n : BitVec 12} {v : Word} {s : State} (hread : csrRead s n = some v) (ha : a.writes = false) :
    ∃ t, exec (.rv64Instruction (.csr a n)) s = .next t ∧ Say.SetsX a.rd v s t :=
  ⟨_, by simp [exec_rv64Instruction, execRv64Instruction, rvStep, orTrap, csrPlain, ha, hread], setsX_adv_writeX a.rd v s⟩

/-- A register that may not be read makes the instruction illegal, whether it would write or not. -/
theorem exec_csr_illegal {a : CsrArgs} {n : BitVec 12} {s : State} (hread : csrRead s n = none) : Say.Illegal (.rv64Instruction (.csr a n)) s := by
  have hplain : csrPlain a n (some (encodeRv (.csr a n))) s = illegal (some (encodeRv (.csr a n))) s := by
    unfold csrPlain csrRmw
    rw [hread, ite_self]
  simp [Say.Illegal, exec_rv64Instruction, execRv64Instruction, rvStep, orTrap, hplain, illegal, Say.wordOf, encode]

theorem csrValue_eq (a : CsrArgs) (old : Word) (s : State) : Say.csrValue a old s = csrNew a.op old (csrSrc s a) := rfl

/-- A write of a standard register gives rd the old value and stores the new one. -/
theorem exec_csr_sets {a : CsrArgs} {n : BitVec 12} {old : Word} {f : Word → State → State} {s : State} (ha : a.writes = true)
    (hread : csrRead s n = some old) (hwrite : ∀ v, csrWriteStd n v s = some (f v s)) : Say.CsrSets (.rv64Instruction (.csr a n)) a s old f := by
  simp [Say.CsrSets, exec_rv64Instruction, execRv64Instruction, rvStep, orTrap, csrPlain, ha, csrRmw, hread, hwrite, csrValue_eq]

/-- Bits 9 and 8 of a register's number are both 1 for the registers that M-mode alone may access (R279). -/
theorem csrRead_machine {n : BitVec 12} {s : State} (hpriv : s.core.priv ≠ .m) (hn : n.extractLsb' 8 2 = 3) : csrRead s n = none := by
  have hbits : n.toNat / 2 ^ 8 % 2 ^ 2 = 3 := by
    simpa [BitVec.extractLsb'_toNat, Nat.shiftRight_eq_div_pow] using congrArg BitVec.toNat hn
  have hm : (s.core.priv == .m) = false := by simpa using hpriv
  unfold csrRead
  simp only [hm]
  generalize n.toNat = k at hbits
  split <;> simp at hbits ⊢

end Sys2Proof.Machine
end

section
/-! PROOFS. Reads of control and status registers, and writes of fcsr. -/

namespace Sys2Proof.Proofs
open Sys2Proof.Machine

/-- Settles O11: each register's number picks its row of `csrRead`; the registers made of several parts are those parts side by side. -/
theorem csrReadsAndFcsr : Obligations.CsrReadsAndFcsr := by
  intro a n s
  have hlow : ∀ v : Word, v.setWidth 5 = v.extractLsb' 0 5 ∧ v.setWidth 3 = v.extractLsb' 0 3 := fun v =>
    ⟨BitVec.setWidth_eq_extractLsb' (by decide), BitVec.setWidth_eq_extractLsb' (by decide)⟩
  refine ⟨exec_csr_reads rfl, exec_csr_reads rfl, exec_csr_reads (congrArg some (fcsrOf_fields s.core.cx)), exec_csr_reads rfl, exec_csr_reads rfl,
    exec_csr_reads rfl, exec_csr_reads rfl, exec_csr_reads rfl, exec_csr_reads rfl, exec_csr_reads rfl, exec_csr_reads rfl, exec_csr_reads rfl,
    exec_csr_reads rfl, exec_csr_reads rfl, exec_csr_reads rfl, exec_csr_reads rfl, exec_csr_reads rfl, exec_csr_reads rfl, exec_csr_reads rfl,
    exec_csr_reads rfl, exec_csr_reads (congrArg some (dtstatOf_fields s.core.cx)), exec_csr_reads (congrArg some (dinjectOf_fields s.core.bank.dinject)),
    exec_csr_reads (congrArg some (dnclkOf_fields s)), fun hm => ⟨exec_csr_reads ?_, exec_csr_reads ?_, exec_csr_reads ?_⟩,
    fun ha => ⟨exec_csr_sets ha rfl fun v => ?_, exec_csr_sets ha rfl fun v => ?_, exec_csr_sets ha (congrArg some (fcsrOf_fields s.core.cx)) fun v => ?_⟩,
    fun hpriv hn => exec_csr_illegal (csrRead_machine hpriv hn), exec_csr_illegal⟩
  · simp [csrRead, hm, dbankOf_fields]
  · simp [csrRead, hm]
  · simp [csrRead, hm]
  · simp [csrWriteStd, hlow]
  · simp [csrWriteStd, hlow]
  · simp [csrWriteStd, hlow]

end Sys2Proof.Proofs
end

section
/-! SUPPORT. What a core issues in its turn, and what a step makes of it (R98, R245, R246, R301; log 1, log 14, log 88). -/

namespace Sys2Proof.Machine

/-! ### A turn that the agenda gives (log 1) -/

section Turn
variable {s : State} {a : Turn} {rest : List Turn} (hagenda : s.agenda = a :: rest) (hpower : s.pkg.power = true)
include hagenda hpower

theorem step_runs_event {j : Instr} (hev : a.ev = some j) (hj : isEvent j = true) :
    step s = commit (pass a { s with agenda := rest }) (exec j (pass a { s with agenda := rest })) := by
  simp [step, hpower, turn, hagenda, hev, hj]

theorem step_issues {t : State} {i : Option Instr} (hev : a.ev = none) (hissue : issue (pass a { s with agenda := rest }) = (t, i)) :
    step s = match i with | some j => commit t (exec j t) | none => .next t := by
  have hturn : turn s = (t, i) := by simp [turn, hagenda, hev, hissue]
  cases i <;> simp [step, hpower, hturn]

end Turn

/-! ### What a core issues (R98, R144, R211) -/

/-- The current context issues, and neither the end of its quantum nor a due 0x23 comes first. -/
structure Issues (u : State) : Prop where
  mwait : mwaitOver u.core = false
  ready : u.core.cx.st = .ready
  seek : u.core.bank.seek = false
  stopped : u.core.bank.stopped = false
  dead : u.core.bank.dead = false
  swap : u.core.swap = none
  halt : haltDue u = false
  must23 : u.core.cx.must23 = false
  quantum : u.core.bank.used < u.core.bank.dquantum.toNat

section Issue
variable {u : State} (h : Issues u)
include h

theorem Issues.issue_waits {w : Wait} {t : State} (hwait : fetchWait u = some (w, t)) : issue u = (waitFor w (tick t), none) := by
  simp [issue, canIssue, bankRuns, h.mwait, h.ready, h.seek, h.stopped, h.dead, h.swap, h.halt, h.must23, h.quantum, hwait]

theorem Issues.issue_fetches (hwait : fetchWait u = none) : issue u = (tick u, some (fetched u)) := by
  simp [issue, canIssue, bankRuns, h.mwait, h.ready, h.seek, h.stopped, h.dead, h.swap, h.halt, h.must23, h.quantum, hwait]

end Issue

section Fetch
variable {u : State} {p : Place}

theorem fetchWait_walk (hmiss : tlbMiss u u.core.cx.pc .exec = true)
    (h : u.core.cx.ans = none ∨ resolve u u.core.cx.pc 4 .exec = .ok p) :
    fetchWait u = some (.walk u.core.cx.pc, enterWalk u.core.cx.pc u) := by
  rcases h with h | h
  · simp [fetchWait, hmiss, h]
  · cases hans : u.core.cx.ans <;> simp [fetchWait, hmiss, h, hans]

theorem fetchWait_found (hmiss : tlbMiss u u.core.cx.pc .exec ≠ true) (hp : resolve u u.core.cx.pc 4 .exec = .ok p) :
    fetchWait u = if p.loc = .dram ∧ behind u (lineOf p.key) = true then some (.stores, u) else none := by
  simp [fetchWait, hmiss, hp]

theorem fetchWait_fails {c : BitVec 8} (h : tlbMiss u u.core.cx.pc .exec ≠ true ∨ u.core.cx.ans ≠ none)
    (hc : resolve u u.core.cx.pc 4 .exec = .error c) : fetchWait u = none := by
  by_cases hmiss : tlbMiss u u.core.cx.pc .exec = true
  · obtain ⟨v, hans⟩ := Option.ne_none_iff_exists'.mp (h.resolve_left (· hmiss))
    simp [fetchWait, hmiss, hans, hc]
  · simp [fetchWait, hmiss, hc]

/-! ### The bytes at the pc (R143, R157, R245, R246) -/

theorem fetchBytes_fails {c : BitVec 8} (hc : resolve u u.core.cx.pc 4 .exec = .error c) : fetchBytes u = .error c := by
  simp [fetchBytes, hc]

/-- POISON in the core's own L1, or in memory where the L1 does not hold the bytes, is a fetch fault; else the bytes are those of the L1, or
those of memory under its dirty bytes. -/
theorem fetchBytes_found (hp : resolve u u.core.cx.pc 4 .exec = .ok p) :
    fetchBytes u = if (p.loc = .dram ∧ p.ty = .cached) ∧ l1Poison u p.key = true
        ∨ ¬((p.loc = .dram ∧ p.ty = .cached) ∧ l1Hit u p.key 4 = true) ∧ poisoned u p.key 4 = true then .error 1
      else .ok (if (p.loc = .dram ∧ p.ty = .cached) ∧ l1Hit u p.key 4 = true then l1Bytes u p.key 4
        else if p.loc = .dram ∧ p.ty = .cached then underDirty u p.key 4 (fun i => memGet u.mem (p.key + i)) else memRead u.mem p.key 4) := by
  by_cases hcached : p.loc = .dram ∧ p.ty = .cached <;> by_cases hpoison : l1Poison u p.key = true <;>
    by_cases hhit : l1Hit u p.key 4 = true <;> by_cases hbad : poisoned u p.key 4 = true <;> simp [fetchBytes, hp, hcached, hpoison, hhit, hbad]

theorem fetched_fault {c : BitVec 8} (h : fetchBytes u = .error c) : fetched u = .instructionFetchFault c := by simp [fetched, h]

theorem fetched_decodes {bs r : List Byte} {i : Instr} (h : fetchBytes u = .ok bs) (hi : decode bs = .ok (i, r)) : fetched u = i := by
  simp [fetched, h, hi]

theorem fetched_illegal {bs : List Byte} {e : Reject} (h : fetchBytes u = .ok bs) (he : decode bs = .error e) :
    fetched u = .illegalInstruction (BitVec.ofNat 32 (natOfBytes bs)) := by simp [fetched, h, he]

end Fetch
end Sys2Proof.Machine
end

section
/-! PROOFS. A step runs the instruction at the pc. -/

namespace Sys2Proof.Proofs
open Sys2Proof.Machine

/-- Settles O58: whether the page and the line are at hand decides whether the core waits or fetches, and the bytes found decide what it runs. -/
theorem stepRunsTheDecodedInstruction : Obligations.StepRunsTheDecodedInstruction := by
  intro s a rest p bs i u v runs k ready miss cached hit seen bad found
  refine ⟨fun hagenda hpower => ⟨fun j hev hj => step_runs_event hagenda hpower hev hj, fun hev hready => ?_⟩, fun hagenda hpower hnext => ?_,
    fun b t => ⟨fun hnone => ?_, fun hsome hopen => ?_, fun hclosed => ?_⟩, fun hpower hup => ?_⟩
  · obtain ⟨hmwait, hst, hseek, hstopped, hdead, hswap, hhalt, h23, hquantum⟩ := hready
    have hissues : Issues u := ⟨hmwait, hst, hseek, hstopped, hdead, hswap, hhalt, h23, hquantum⟩
    have hruns : ∀ j, fetchWait u = none → fetched u = j → runs j := by
      rintro j hwait rfl
      exact step_issues hagenda hpower hev (hissues.issue_fetches hwait)
    have hwaits : ∀ w t, fetchWait u = some (w, t) → step s = .next (waitFor w (tick t)) := fun w t hwait =>
      step_issues hagenda hpower hev (hissues.issue_waits hwait)
    have hhere : found → fetchWait u = none ∧ fetchBytes u = if bad then .error 1 else .ok seen := by
      rintro ⟨hmiss, hp, hbehind⟩
      refine ⟨?_, fetchBytes_found hp⟩
      rw [fetchWait_found hmiss hp, if_neg]
      rintro ⟨hdram, hwait⟩
      simp [hbehind hdram] at hwait
    refine ⟨fun hfound hgood hseen => ?_, fun hfound hbad => ?_, fun hmiss hp hdram hbehind => hwaits _ u ?_, fun hmiss h => hwaits _ _ (fetchWait_walk hmiss h),
      fun c h hc => hruns _ (fetchWait_fails h hc) (fetched_fault (fetchBytes_fails hc))⟩
    · obtain ⟨hwait, hbytes⟩ := hhere hfound
      rw [if_neg hgood, hseen] at hbytes
      exact ⟨fun r hi => hruns i hwait (fetched_decodes hbytes hi), fun e he => hruns _ hwait (fetched_illegal hbytes he)⟩
    · obtain ⟨hwait, hbytes⟩ := hhere hfound
      rw [if_pos hbad] at hbytes
      exact hruns _ hwait (fetched_fault hbytes)
    · rw [fetchWait_found hmiss hp, if_pos ⟨hdram, hbehind⟩]
  · simp [step, hpower, turn, hagenda, hnext]
  · simp [commit, travel, hnone]
  · simp [commit, travel, hsome, List.all_eq_true.mpr hopen, modFab]
  · obtain ⟨x, hx, hshut⟩ := hclosed
    have hall : t.fab.trips.all (tripOpen b) = false := List.all_eq_false.mpr ⟨x, hx, by simp [hshut]⟩
    simp [commit, travel, hall, List.ne_nil_of_mem hx]
  · simp [step, hpower, hup]

end Sys2Proof.Proofs
end

section
/-! SUPPORT. The contexts of a core, its ring, and what a switch event selects (R98, R111, R304). -/

namespace Sys2Proof.Machine

/-! ### A context in its place -/

theorem mem_insertCtx_self (x : Ctx) : ∀ l : List Ctx, x ∈ insertCtx x l
  | [] => List.mem_singleton_self x
  | y :: l => by
    have ih := mem_insertCtx_self x l
    unfold insertCtx
    split_ifs <;> simp [ih]

theorem mem_insertCtx_of_ne {x z : Ctx} (hz : z.id ≠ x.id) : ∀ {l : List Ctx}, z ∈ l → z ∈ insertCtx x l
  | y :: l, hmem => by
    have ih := mem_insertCtx_of_ne hz (l := l)
    unfold insertCtx
    rcases List.mem_cons.mp hmem with rfl | hmem
    · simp [Ne.symm hz]
      split_ifs <;> simp
    · split_ifs <;> simp [hmem, ih hmem]

theorem mem_of_mem_insertCtx {x z : Ctx} : ∀ {l : List Ctx}, z ∈ insertCtx x l → z = x ∨ z ∈ l
  | [], hmem => .inl (List.mem_singleton.mp hmem)
  | y :: l, hmem => by
    have ih := mem_of_mem_insertCtx (x := x) (z := z) (l := l)
    unfold insertCtx at hmem
    split_ifs at hmem with hlt heq
    · exact List.mem_cons.mp hmem
    · rcases List.mem_cons.mp hmem with rfl | hmem
      · exact .inl rfl
      · exact .inr (List.mem_cons_of_mem _ hmem)
    · rcases List.mem_cons.mp hmem with rfl | hmem
      · exact .inr List.mem_cons_self
      · exact (ih hmem).imp id (List.mem_cons_of_mem _)

theorem find?_insertCtx (x : Ctx) (j : Nat) : ∀ l : List Ctx,
    (insertCtx x l).find? (fun y => y.id == j) = if x.id = j then some x else l.find? fun y => y.id == j
  | [] => by
    by_cases hj : x.id = j <;> simp [insertCtx, hj]
  | y :: l => by
    have ih := find?_insertCtx x j l
    unfold insertCtx
    by_cases hj : x.id = j
    · split_ifs with hlt heq
      · simp [hj]
      · simp [hj]
      · have hy : (y.id == j) = false := by simp; omega
        simp [hy, ih, hj]
    · split_ifs with hlt heq
      · simp [hj]
      · have hy : (y.id == j) = false := by simp; omega
        simp [hj, hy]
      · cases hy : (y.id == j) <;> simp [hy, ih, hj]

theorem ctx?_active {c : Core} {b : Bool} (hb : c.bank.num = b) (j : Nat) :
    c.ctx? b j = if c.cx.id = j then some c.cx else c.bank.ctxs.find? fun x => x.id == j := by
  rw [Core.ctx?, Core.ctxsOf, if_pos hb, find?_insertCtx]

theorem ctx?_shadow {c : Core} {b : Bool} (hb : c.bank.num ≠ b) (j : Nat) : c.ctx? b j = c.shadow.ctxs.find? fun x => x.id == j := by
  rw [Core.ctx?, Core.ctxsOf, if_neg hb]

/-- A change of contexts that keeps their ids is one of what a search finds. -/
theorem find?_map_ctx {g : Ctx → Ctx} (hg : ∀ x, (g x).id = x.id) (j : Nat) (l : List Ctx) :
    (l.map g).find? (fun x => x.id == j) = (l.find? fun x => x.id == j).map g := by
  rw [List.find?_map]
  simp [hg]

theorem ctx?_modCtx {f : Ctx → Ctx} (hf : ∀ x, (f x).id = x.id) (c : Core) (b : Bool) (j : Nat) :
    (c.modCtx b j f).ctx? b j = (c.ctx? b j).map f := by
  have hg : ∀ x : Ctx, (if x.id = j then f x else x).id = x.id := fun x => by split_ifs <;> simp [hf]
  have hfound : ∀ l : List Ctx, (l.map fun x => if x.id = j then f x else x).find? (fun x => x.id == j) = (l.find? fun x => x.id == j).map f :=
    fun l => by
      rw [find?_map_ctx hg]
      cases h : l.find? fun x => x.id == j with
      | none => rfl
      | some x => simp [by simpa using List.find?_some h]
  unfold Core.modCtx
  by_cases hb : c.bank.num = b
  · by_cases hj : c.cx.id = j <;> simp [ctx?_active, hb, hj, hf, hfound]
  · simp [ctx?_shadow, hb, hfound]

theorem cx_modCtx {c : Core} {b : Bool} {j : Nat} (h : b ≠ c.bank.num ∨ j ≠ c.cx.id) (f : Ctx → Ctx) : (c.modCtx b j f).cx = c.cx := by
  unfold Core.modCtx
  split_ifs with hb hj
  · exact absurd h (by simp [hb, hj])
  · rfl
  · rfl

theorem ctx?_mapCtxs {f : Bool → Ctx → Ctx} (hf : ∀ b x, (f b x).id = x.id) (c : Core) (b : Bool) (j : Nat) :
    (c.mapCtxs f).ctx? b j = (c.ctx? b j).map (f (if c.bank.num = b then b else c.shadow.num)) := by
  unfold Core.mapCtxs
  by_cases hb : c.bank.num = b
  · by_cases hj : c.cx.id = j <;> simp [ctx?_active, hb, hj, hf, find?_map_ctx (hf b)]
  · simp [ctx?_shadow, hb, find?_map_ctx (hf c.shadow.num)]

/-- A context that does not wait stays as it is when waits end. -/
theorem ctx?_wakeCore {c : Core} {b : Bool} {j : Nat} {x : Ctx} (p : Bool → Nat → Wait → Bool) (hx : c.ctx? b j = some x) (hst : x.st = .ready) :
    (wakeCore p c).ctx? b j = some x := by
  rw [wakeCore, ctx?_mapCtxs (fun b x => by split <;> [split_ifs; skip] <;> rfl), hx]
  simp [hst]

theorem cx_wakeCore {c : Core} (p : Bool → Nat → Wait → Bool) (h : ∀ w, c.cx.st ≠ .waiting w) : (wakeCore p c).cx = c.cx := by
  unfold wakeCore Core.mapCtxs
  cases hst : c.cx.st with
  | waiting w => exact absurd hst (h w)
  | _ => simp [hst]

/-- Ids that rise strictly pick one context. -/
theorem eq_of_sorted {l : List Ctx} (hl : l.Pairwise fun x y => x.id < y.id) {x y : Ctx} (hx : x ∈ l) (hy : y ∈ l) (h : x.id = y.id) : x = y :=
  List.inj_on_of_nodup_map (List.pairwise_map.mpr (hl.imp Nat.ne_of_lt)) hx hy h

/-- A search by id finds the one context that has it. -/
theorem find?_only {l : List Ctx} {x : Ctx} (hx : x ∈ l) (honly : ∀ y ∈ l, y.id = x.id → y = x) : l.find? (fun y => y.id == x.id) = some x := by
  cases hfind : l.find? fun y => y.id == x.id with
  | none => simpa using List.find?_eq_none.mp hfind x hx
  | some y => rw [honly y (List.mem_of_find?_eq_some hfind) (by simpa using List.find?_some hfind)]

/-! ### The ring (R98) -/

/-- The active bank's contexts as the statements have them: the current one is no other's double, and the others' ids rise. -/
structure InRing (c : Core) : Prop where
  user : c.priv = .u
  id_lt : c.cx.id < 11
  apart : ∀ x ∈ c.bank.ctxs, x.id ≠ c.cx.id
  sorted : c.bank.ctxs.Pairwise fun x y => x.id < y.id

/-- A context with an id is ready, the current one or another of the active bank. -/
def readyAt (c : Core) (id : Nat) : Bool := if id = c.cx.id then c.cx.st == .ready else c.bank.ctxs.any fun x => x.id == id && x.st == .ready

section Ring
variable {s : State} (h : InRing s.core)
include h

theorem InRing.readyAt_iff (id : Nat) : readyAt s.core id = true ↔ ∃ x ∈ s.core.ctxsOf s.core.bank.num, x.id = id ∧ x.st = .ready := by
  rw [Core.ctxsOf, if_pos rfl, readyAt]
  by_cases hid : id = s.core.cx.id
  · subst hid
    refine ⟨fun hst => ⟨_, mem_insertCtx_self _ _, rfl, by simpa using hst⟩, ?_⟩
    rintro ⟨x, hx, hxid, hst⟩
    rcases mem_of_mem_insertCtx hx with rfl | hx
    · simpa using hst
    · exact absurd hxid (h.apart x hx)
  · rw [if_neg hid]
    simp only [List.any_eq_true, Bool.and_eq_true, beq_iff_eq]
    constructor
    · rintro ⟨x, hx, hxid, hst⟩
      exact ⟨x, mem_insertCtx_of_ne (h.apart x hx) hx, hxid, hst⟩
    · rintro ⟨x, hx, hxid, hst⟩
      rcases mem_of_mem_insertCtx hx with rfl | hx
      · exact absurd hxid.symm hid
      · exact ⟨x, hx, hxid, hst⟩

theorem InRing.ringNext_eq : ringNext s.core = (ringFrom s.core.cx.id).find? (readyAt s.core) := by
  rw [ringNext, if_neg (by simp [h.user])]
  rfl

theorem InRing.ringNext_iff (id : Nat) : ringNext s.core = some id ↔ Say.NextReady s id := by
  have hnot : ∀ i, (!readyAt s.core i) = true ↔ ∀ x ∈ s.core.ctxsOf s.core.bank.num, x.id = i → x.st ≠ .ready := fun i => by
    rw [Bool.not_eq_true', ← Bool.not_eq_true, h.readyAt_iff]
    simp only [not_exists, not_and]
  rw [h.ringNext_eq, ringFrom, List.find?_map, Option.map_eq_some_iff]
  simp only [List.find?_range_eq_some, Function.comp_apply, h.readyAt_iff, List.mem_range, hnot]
  constructor
  · rintro ⟨i, ⟨hready, hi, hfirst⟩, rfl⟩
    exact ⟨i, hi, rfl, hready, hfirst⟩
  · rintro ⟨i, hi, rfl, hready, hfirst⟩
    exact ⟨i, ⟨hready, hi, hfirst⟩, rfl⟩

theorem InRing.ringNext_none (hnone : ∀ id, ¬Say.NextReady s id) : ringNext s.core = none :=
  Option.eq_none_iff_forall_ne_some.mpr fun id hid => hnone id ((h.ringNext_iff id).mp hid)

/-- With no context ready the core goes on looking for one. -/
theorem InRing.switchEvent_none (hnone : ∀ id, ¬Say.NextReady s id) : switchEvent s = modBank (fun b => { b with seek := true }) s := by
  rw [switchEvent, h.ringNext_none hnone]

/-- The next ready context becomes the current one, with a new quantum, and every context of the bank stands as it did. -/
theorem InRing.switchEvent_some (hlive : s.core.cx.st ≠ .free) {id : Nat} (hnext : Say.NextReady s id) :
    (switchEvent s).core.cx.id = id ∧ (switchEvent s).core.cx.st = .ready ∧ (switchEvent s).core.bank.used = 0
      ∧ ∀ x ∈ s.core.ctxsOf s.core.bank.num, x ∈ (switchEvent s).core.ctxsOf s.core.bank.num := by
  have hready : readyAt s.core id = true := by
    rw [h.readyAt_iff]
    obtain ⟨i, -, -, hex, -⟩ := hnext
    exact hex
  have hswitch : (switchEvent s).core = selectCtx id s.core := by
    rw [switchEvent, (h.ringNext_iff id).mpr hnext]
    rfl
  rw [hswitch, selectCtx]
  rw [readyAt] at hready
  by_cases hid : s.core.cx.id = id
  · rw [if_pos hid.symm] at hready
    rw [if_pos hid]
    exact ⟨hid, by simpa using hready, rfl, fun x hx => by simpa [Core.ctxsOf] using hx⟩
  · rw [if_neg (Ne.symm hid), List.any_eq_true] at hready
    obtain ⟨x, hx, hxst⟩ := hready
    obtain ⟨hxid, hst⟩ : x.id = id ∧ x.st = .ready := by simpa using hxst
    have hfind : s.core.bank.ctxs.find? (fun y => y.id == id) = some x :=
      hxid ▸ find?_only hx fun y hy => eq_of_sorted h.sorted hy hx
    rw [if_neg hid, hfind]
    refine ⟨hxid, hst, rfl, fun y hy => ?_⟩
    rw [Core.ctxsOf, if_pos rfl] at hy
    rw [Core.ctxsOf, if_pos rfl]
    show y ∈ insertCtx x (putBack s.core.cx _)
    rw [putBack, if_pos (by simpa [Ctx.live] using hlive)]
    rcases mem_of_mem_insertCtx hy with rfl | hy
    · exact mem_insertCtx_of_ne (hxid ▸ hid) (mem_insertCtx_self _ _)
    · by_cases hyid : y.id = id
      · rw [eq_of_sorted h.sorted hy hx (hyid.trans hxid.symm)]
        exact mem_insertCtx_self _ _
      · exact mem_insertCtx_of_ne (hxid ▸ hyid) (mem_insertCtx_of_ne (h.apart y hy) (List.mem_filter.mpr ⟨hy, by simpa using hyid⟩))

end Ring

@[simp] theorem switchEvent_mem (s : State) : (switchEvent s).mem = s.mem := by
  unfold switchEvent
  split <;> rfl

@[simp] theorem switchEvent_num (s : State) : (switchEvent s).core.bank.num = s.core.bank.num := by
  unfold switchEvent selectCtx
  split
  · rfl
  · dsimp only [modCore]
    split_ifs
    · rfl
    · split <;> rfl

/-- The state in which the current context has begun to wait, before another one is selected (R304). -/
def begun (w : Wait) (s : State) : State :=
  modCx (fun c => { c with st := .waiting w, since := s.core.cycles, ans := if keepsAns w then c.ans else none, got := if keepsAns w then c.got else [] }) s

theorem waitFor_eq (w : Wait) (s : State) : waitFor w s = switchEvent (begun w s) := rfl

theorem InRing.begun {s : State} (h : InRing s.core) (w : Wait) : InRing (Machine.begun w s).core := ⟨h.user, h.id_lt, h.apart, h.sorted⟩

/-! ### The events of issue and of data that returns (R98, R99, R304) -/

theorem exec_quantumExpiry_switches {s : State} (hmwsw : s.core.mwsw = false) (hspent : s.core.bank.dquantum.toNat ≤ s.core.bank.used) :
    exec .quantumExpiry s = .next (switchEvent s) := by
  simp [exec_quantumExpiry, execQuantumExpiry, mwaitOver, hmwsw, hspent]

/-- A context whose data has come, with what the answer says of its requests. -/
def returned (err : BitVec 128) (x : Ctx) : Ctx := { x with st := .ready, ans := some err }

/-- A bank to which `n` packets have come. -/
def received (n : W32) (k : Bank) : Bank := { k with counts := { k.counts with precv := k.counts.precv + n } }

/-- The core to which the host has answered, before waits for stores end. -/
def hostAnswered (b : Bool) (j : Nat) (err : BitVec 128) (n : W32) (c : Core) : Core := (c.modBankOf b (received n)).modCtx b j (returned err)

theorem ctx?_hostAnswered {c : Core} {b : Bool} {j : Nat} {x : Ctx} (hx : c.ctx? b j = some x) (err : BitVec 128) (n : W32) :
    (hostAnswered b j err n c).ctx? b j = some (returned err x) := by
  have hsame : (c.modBankOf b (received n)).ctx? b j = c.ctx? b j := by
    by_cases hb : c.bank.num = b <;> simp [Core.modBankOf, ctx?_active, ctx?_shadow, received, hb]
  rw [hostAnswered, ctx?_modCtx (f := returned err) (fun _ => rfl), hsame, hx]
  rfl

theorem cx_hostAnswered {c : Core} {b : Bool} {j : Nat} (h : b ≠ c.bank.num ∨ j ≠ c.cx.id) (err : BitVec 128) (n : W32) :
    (hostAnswered b j err n c).cx = c.cx := by
  have hsame : (c.modBankOf b (received n)).cx = c.cx ∧ (c.modBankOf b (received n)).bank.num = c.bank.num := by
    unfold Core.modBankOf
    split_ifs <;> exact ⟨rfl, rfl⟩
  rw [hostAnswered, cx_modCtx (by rwa [hsame.1, hsame.2]), hsame.1]

theorem num_hostAnswered (b : Bool) (j : Nat) (err : BitVec 128) (n : W32) (c : Core) : (hostAnswered b j err n c).num = c.num := by
  unfold hostAnswered Core.modCtx Core.modBankOf
  split_ifs <;> rfl

/-- At the core whose turn it is, its waits for stores end. -/
theorem wakeStores_core {n : Nat} {s : State} (h : s.core.num = n) : (wakeStores n s).core = wakeCore (fun _ _ w => w.forStores) s.core := by
  rw [wakeStores, modCoreAt_core, if_pos h]

@[simp] theorem wakeStores_io (n : Nat) (s : State) : (wakeStores n s).io = s.io := by
  unfold wakeStores modCoreAt
  split_ifs <;> rfl

/-- The state to which the host has answered, before waits for stores end. -/
def hostReturns (b : Bool) (j : Nat) (err : BitVec 128) (host : List (Nat × Byte)) (s : State) : State :=
  hostBytes host (modCore (hostAnswered b j err (BitVec.ofNat 32 (hostAsked s b j).length))
    (modIo (fun o => { o with asked := o.asked.filter fun a => !(hostAsked s b j).contains a }) s))

theorem wakeStores_hostReturns_core (b : Bool) (j : Nat) (err : BitVec 128) (host : List (Nat × Byte)) (s : State) :
    (wakeStores s.core.num (hostReturns b j err host s)).core
      = wakeCore (fun _ _ w => w.forStores) (hostAnswered b j err (BitVec.ofNat 32 (hostAsked s b j).length) s.core) :=
  wakeStores_core (s := hostReturns b j err host s) (num_hostAnswered b j err _ s.core)

section Return
variable {s : State} {b : Bool} {j : Nat} {x : Ctx} (hnone : askedOut s s.core.num b j = false) (hx : s.core.ctx? b j = some x)
  (err : BitVec 128) (host : List (Nat × Byte))
include hnone hx

theorem exec_remoteDataReturn_remote (hst : x.st = .waiting .remote) : exec (.remoteDataReturn b j err host) s
    = .next (modCore (·.modCtx b j (returned 0)) s) := by
  simp [exec_remoteDataReturn, execRemoteDataReturn, hnone, hx, hst]
  rfl

theorem exec_remoteDataReturn_held (hst : x.st = .waiting .host) (hshut : ∃ a ∈ hostAsked s b j, clearWay s .ext a.2 (twigOf s.core.num) = false) :
    exec (.remoteDataReturn b j err host) s = .next s := by
  simp [exec_remoteDataReturn, execRemoteDataReturn, hnone, hx, hst, hshut]

theorem exec_remoteDataReturn_host (hst : x.st = .waiting .host) (hopen : ∀ a ∈ hostAsked s b j, clearWay s .ext a.2 (twigOf s.core.num) = true) :
    exec (.remoteDataReturn b j err host) s = .next (wakeStores s.core.num (hostReturns b j err host s)) := by
  have hshut : ((hostAsked s b j).any fun a => !clearWay s .ext a.2 (twigOf s.core.num)) = false := by
    simpa using hopen
  simp [exec_remoteDataReturn, execRemoteDataReturn, hnone, hx, hst, hshut, hostReturns, -List.any_eq_false, -List.contains_eq_mem]
  rfl

end Return
end Sys2Proof.Machine
end

section
/-! PROOFS. Switch events and data that returns. -/

namespace Sys2Proof.Proofs
open Sys2Proof.Machine

/-- Settles O23: a switch event selects what the search of the ring finds; data that returns changes the one context that waits for it. -/
theorem contextSwitches : Obligations.ContextSwitches := by
  intro s id huser hid hlive hapart hsorted
  have h : InRing s.core := ⟨huser, hid, hapart, hsorted⟩
  refine ⟨fun hmwsw hspent => ⟨_, exec_quantumExpiry_switches hmwsw hspent, switchEvent_mem s, fun hnext => ?_, h.switchEvent_none⟩,
    fun w => ⟨fun hnext => ?_, (h.begun w).switchEvent_none⟩, fun b j x err host hnone hx => ⟨fun hst => ?_, ?_, fun hst hopen => ?_⟩⟩
  · obtain ⟨hcur, -, hused, hctxs⟩ := h.switchEvent_some hlive hnext
    exact ⟨hcur, hused, by simpa using hctxs⟩
  · obtain ⟨hcur, hst, -, hctxs⟩ := (h.begun w).switchEvent_some (by simp [begun, modCx]) hnext
    refine ⟨hcur, hst, _, hctxs _ ?_, rfl⟩
    rw [Core.ctxsOf, if_pos rfl]
    exact mem_insertCtx_self _ _
  · exact ⟨_, exec_remoteDataReturn_remote hnone hx err host hst, rfl,
      (ctx?_modCtx (f := returned 0) (fun _ => rfl) ..).trans (congrArg _ hx), fun h => cx_modCtx h _⟩
  · exact exec_remoteDataReturn_held hnone hx err host
  · refine ⟨_, exec_remoteDataReturn_host hnone hx err host hst hopen, wakeStores_mem .., ?_, fun a ha => ?_, fun hother hwaits => ?_⟩
    · rw [wakeStores_hostReturns_core]
      exact ctx?_wakeCore _ (ctx?_hostAnswered hx err _) rfl
    · rw [wakeStores_io] at ha
      simpa using (List.mem_filter.mp ha).2
    · have hcx := cx_hostAnswered hother err (BitVec.ofNat 32 (hostAsked s b j).length)
      rw [wakeStores_hostReturns_core, cx_wakeCore _ (by rwa [hcx]), hcx]

end Sys2Proof.Proofs
end

section
/-! SUPPORT. Lines that leave the L1 at the end of a bank's turn, and the beginning of a swap (R101, R102, R141, R208). -/

namespace Sys2Proof.Machine

/-! ### Lines that go home (R141, R208) -/

/-- What the write-back of lines changes: L1, the mesh, counters of packets, and of contexts the requests that they await. -/
structure SentLines (s t : State) : Prop where
  state : t = { s with core := t.core, fab := { s.fab with net := t.fab.net } }
  core : t.core = { s.core with l1 := t.core.l1, cx := t.core.cx, bank := t.core.bank, shadow := t.core.shadow }
  cx : Say.bare t.core.cx = Say.bare s.core.cx
  bank : t.core.bank = { s.core.bank with counts := t.core.bank.counts, ctxs := t.core.bank.ctxs }
  ctxs : t.core.bank.ctxs.map Say.bare = s.core.bank.ctxs.map Say.bare
  shadow : t.core.shadow = { s.core.shadow with ctxs := t.core.shadow.ctxs }

theorem SentLines.refl (s : State) : SentLines s s := ⟨rfl, rfl, rfl, rfl, rfl, rfl⟩

theorem SentLines.trans {s t u : State} (h : SentLines s t) (k : SentLines t u) : SentLines s u where
  state := k.state.trans (by rw [h.state])
  core := k.core.trans (by rw [h.core])
  cx := k.cx.trans h.cx
  bank := k.bank.trans (by rw [h.bank])
  ctxs := k.ctxs.trans h.ctxs
  shadow := k.shadow.trans (by rw [h.shadow])

/-- What of a context is no request that it awaits stays. -/
theorem SentLines.cx_part {α : Type} {s t : State} (h : SentLines s t) {part : Ctx → α} (hpart : ∀ x, part (Say.bare x) = part x) :
    part t.core.cx = part s.core.cx := by
  rw [← hpart, h.cx, hpart]

theorem sentLines_staleAsks (line : Nat) (s : State) : SentLines s (staleAsks line s) := by
  have hbare : ∀ (b : Bool) (x : Ctx), Say.bare (if wantsLine s b x line then { x with asks := 0, got := [] } else x) = Say.bare x := fun b x => by
    split <;> rfl
  exact ⟨rfl, rfl, hbare _ _, rfl, by simp [staleAsks, Core.mapCtxs, hbare], rfl⟩

theorem sentLines_sendBytes (x : L1Line) (mask : BitVec 128) (s : State) : SentLines s (sendBytes x mask s) := by
  unfold sendBytes
  split
  · exact .refl s
  · exact (sentLines_staleAsks x.line s).trans ⟨rfl, rfl, rfl, rfl, rfl, rfl⟩

theorem sentLines_writeBackLine (line : Nat) (s : State) : SentLines s (writeBackLine line s) := by
  unfold writeBackLine
  split
  · exact .refl s
  · exact .trans (t := modCore _ s) ⟨rfl, rfl, rfl, rfl, rfl, rfl⟩ (sentLines_sendBytes ..)

theorem sentLines_foldl : ∀ (ks : List Nat) (s : State), SentLines s (ks.foldl (fun s l => writeBackLine l s) s)
  | [], s => .refl s
  | k :: ks, s => (sentLines_writeBackLine k s).trans (sentLines_foldl ks _)

theorem sentLines_writeBackWhere (p : L1Line → Bool) (s : State) : SentLines s (writeBackWhere p s) := sentLines_foldl _ s

/-! ### A swap begins (R101, R102) -/

theorem holdsLaunch_iff (k : Bank) : holdsLaunch k = true ↔ Say.Holds k := by
  unfold holdsLaunch Say.Holds
  cases k.bound <;> simp [and_comm]

/-- The swap is under way: the shadow bank is filled first where it has been spilled (R104). -/
def swapBegun (mwait : Bool) (s : State) : State := modCore (fun c => { c with relTab := [], swap := some ⟨mwait, c.shadow.spilled, [], []⟩ }) s

theorem beginSwap_begins {s : State} (hswap : s.core.swap = none) (hholds : Say.Holds s.core.shadow) (hpriv : s.core.priv = .u) (mwait : Bool) :
    beginSwap mwait s = swapBegun mwait (writeBackWhere (fun l => l.owed.isSome) s) := by
  obtain ⟨-, d, hd, -⟩ := hholds
  simp [beginSwap, hswap, hd, hpriv]
  rfl

theorem beginSwap_busy {s : State} (hswap : s.core.swap ≠ none) (mwait : Bool) : beginSwap mwait s = s := by
  simp [beginSwap, Option.isSome_iff_ne_none.mpr hswap]

end Sys2Proof.Machine
end

section
/-! SUPPORT. The end of a stage at a core, and its move to another (R56, R96, R109, R113). -/

namespace Sys2Proof.Machine

/-! ### Helpers that are live (R111) -/

theorem anyHelper_iff (s : State) : anyHelper s.core = true ↔ ∃ id, id ≠ 0 ∧ Say.Live s id := by
  simp only [anyHelper, Say.Live, List.any_eq_true, Bool.and_eq_true, bne_iff_ne, Ctx.live]
  constructor
  · rintro ⟨x, hx, hid, hst⟩
    exact ⟨x.id, hid, x, hx, rfl, hst⟩
  · rintro ⟨id, hid, x, hx, rfl, hst⟩
    exact ⟨x, hx, hid, hst⟩

theorem anyHelper_none {s : State} (h : ∀ id, id ≠ 0 → ¬Say.Live s id) : anyHelper s.core = false := by
  rw [← Bool.not_eq_true, anyHelper_iff]
  rintro ⟨id, hid, hlive⟩
  exact h id hid hlive

/-! ### STGEND (R113, R250, R309) -/

section Stgend
variable {s : State}

theorem exec_stgend_helper (hid : s.core.cx.id ≠ 0) : Say.Illegal .stgend s := by
  simp [Say.Illegal, exec_stgend, execStgend, stgendStep, hid, orTrap, Say.wordOf]

theorem exec_stgbind_helper (hid : s.core.cx.id ≠ 0) : Say.Illegal .stgbind s := by
  simp [Say.Illegal, exec_stgbind, execStgbind, stgbindStep, hid, orTrap, Say.wordOf]

theorem exec_stgbind_none (h : s.core.bank.rebind = .none) : Say.Illegal .stgbind s := by
  simp [Say.Illegal, exec_stgbind, execStgbind, stgbindStep, h, orTrap, Say.wordOf]

theorem exec_stgend_waits (hid : s.core.cx.id = 0) (hlive : ∃ id, id ≠ 0 ∧ Say.Live s id) : exec .stgend s = .next (waitFor .helpers s) := by
  simp [exec_stgend, execStgend, stgendStep, hid, (anyHelper_iff s).mpr hlive, orTrap]

variable (hid : s.core.cx.id = 0) (hnone : ∀ id, id ≠ 0 → ¬Say.Live s id)
include hid hnone

theorem exec_stgend_stores (hout : storesOut s = true) : exec .stgend s = .next (waitFor .stores s) := by
  simp [exec_stgend, execStgend, stgendStep, hid, anyHelper_none hnone, hout, orTrap]

theorem exec_stgend_traps (hout : storesOut s = false) {x : Rec} {xs : List Rec} (hrecs : s.core.cx.recs = x :: xs) :
    exec .stgend s = .next (takeTrap 0x23 x.va s) := by
  simp [exec_stgend, execStgend, stgendStep, hid, anyHelper_none hnone, hout, Ctx.pend, oldestVa, hrecs, orTrap]

theorem exec_stgend_ends (hout : storesOut s = false) (hrecs : s.core.cx.recs = []) :
    exec .stgend s = .next (leaveStage (modCx Ctx.retire s)) := by
  simp [exec_stgend, execStgend, stgendStep, hid, anyHelper_none hnone, hout, Ctx.pend, hrecs, orTrap]

end Stgend

/-! ### A bank leaves its stage (R61, R96, R113) -/

/-- What the steps in which a bank leaves its stage keep: the core's registers, its queues, its banks' launches and the swap. -/
structure KeepsBanks (s t : State) : Prop where
  num : t.core.num = s.core.num
  priv : t.core.priv = s.core.priv
  x : t.core.cx.x = s.core.cx.x
  instret : t.core.cx.instret = s.core.cx.instret
  bank : t.core.bank.num = s.core.bank.num
  bound : t.core.bank.bound = s.core.bank.bound
  mq : t.core.mq = s.core.mq
  cq : t.core.cq = s.core.cq
  gq : t.core.gq = s.core.gq
  holds : Say.Holds t.core.shadow ↔ Say.Holds s.core.shadow

theorem KeepsBanks.trans {s t u : State} (h : KeepsBanks s t) (k : KeepsBanks t u) : KeepsBanks s u :=
  ⟨k.num.trans h.num, k.priv.trans h.priv, k.x.trans h.x, k.instret.trans h.instret, k.bank.trans h.bank, k.bound.trans h.bound,
    k.mq.trans h.mq, k.cq.trans h.cq, k.gq.trans h.gq, k.holds.trans h.holds⟩

theorem KeepsBanks.of_core {s t : State} (h : t.core = s.core) : KeepsBanks s t := by
  constructor <;> rw [h]

theorem SentLines.keepsBanks {s t : State} (h : SentLines s t) : KeepsBanks s t where
  num := by rw [h.core]
  priv := by rw [h.core]
  x := h.cx_part (part := fun y => y.x) fun _ => rfl
  instret := h.cx_part (part := fun y => y.instret) fun _ => rfl
  bank := by rw [h.bank]
  bound := by rw [h.bank]
  mq := by rw [h.core]
  cq := by rw [h.core]
  gq := by rw [h.core]
  holds := by rw [h.shadow]; rfl

/-- The channel of the bank's stage is left, and no launch changes (R61). -/
theorem keepsBanks_leaveStageChannel {n : Nat} {s : State} (hn : s.core.num = n) (b : Bool) : KeepsBanks s (leaveStageChannel n b s) := by
  subst hn
  unfold leaveStageChannel
  rw [getCore_self]
  split
  · exact .of_core rfl
  · split
    · exact .of_core rfl
    · rw [modCoreAt_self]
      exact ⟨rfl, rfl, rfl, rfl, rfl, rfl, rfl, rfl, rfl, .rfl⟩

/-- The lines of the stage that its cores alone hold, and the owed ones, have gone home (R96, R140, R141). -/
def wentHome (s : State) : State := modCore (fun c => { c with relTab := [] }) (writeBackWhere (fun l => l.cls == .priv || l.owed.isSome) s)

theorem keepsBanks_wentHome (s : State) : KeepsBanks s (wentHome s) :=
  (sentLines_writeBackWhere _ s).keepsBanks.trans ⟨rfl, rfl, rfl, rfl, rfl, rfl, rfl, rfl, rfl, .rfl⟩

/-- The bank has left its stage and the stage's channel, and its control context is free (R61, R96). -/
def endedStage (bd : Bound) (s : State) : State :=
  modBank (fun k => { k with bound := k.bound.map fun d => { d with left := true } })
    (modCx (fun x => { x with st := .free }) (forgetCtx s.core.num s.core.bank.num 0
      (markGone bd.launch s.core.num (leaveStageChannel s.core.num s.core.bank.num (wentHome s)))))

/-- After which a launch in the shadow bank takes the core (R101). -/
theorem leaveStage_eq {bd : Bound} {s : State} (hbound : s.core.bank.bound = some bd) :
    leaveStage s = modCore (freeIfDone s.core.bank.num)
      (if holdsLaunch (endedStage bd s).core.shadow then beginSwap false (endedStage bd s) else endedStage bd s) := by
  unfold leaveStage
  simp only [hbound]
  rfl

/-- A stage that the bank's core has left (R92, R96). -/
def hasLeft (d : Bound) : Bound := { d with left := true }

/-- The core as the end of a stage leaves it, before the bank is given up. -/
structure StageOver (bd : Bound) (s t : State) : Prop where
  free : t.core.cx.st = .free
  x : t.core.cx.x = s.core.cx.x
  instret : t.core.cx.instret = s.core.cx.instret
  priv : t.core.priv = s.core.priv
  bank : t.core.bank.num = s.core.bank.num
  bound : t.core.bank.bound = s.core.bank.bound.map hasLeft
  queue : ∀ q, t.core.queue q = s.core.queue q
  holds : Say.Holds t.core.shadow ↔ Say.Holds s.core.shadow
  gone : ∀ k ∈ t.root.launches, k.id = bd.launch → ∀ p ∈ k.placed, p.core = s.core.num → p.gone = true

theorem stageOver_endedStage (bd : Bound) (s : State) : StageOver bd s (endedStage bd s) := by
  have hhome := keepsBanks_wentHome s
  obtain ⟨-, hpriv, hx, hinstret, hbank, hbound, hmq, hcq, hgq, hholds⟩ := hhome.trans (keepsBanks_leaveStageChannel hhome.num s.core.bank.num)
  refine ⟨rfl, hx, hinstret, hpriv, hbank, congrArg (Option.map hasLeft) hbound, fun q => ?_, hholds, fun k hk hid p hp hcore => ?_⟩
  · cases q
    · exact hmq
    · exact hcq
    · exact hgq
  · obtain ⟨l, -, rfl⟩ := List.mem_map.mp hk
    split_ifs at hid hp with hl
    · obtain ⟨q, -, rfl⟩ := List.mem_map.mp hp
      split_ifs at hcore ⊢ with hq
      · rfl
      · exact absurd hcore hq
    · exact absurd hid hl

theorem SentLines.stageOver {bd : Bound} {s t u : State} (k : SentLines t u) (h : StageOver bd s t) : StageOver bd s u := by
  have hkeeps := k.keepsBanks
  refine ⟨(k.cx_part (part := fun y => y.st) fun _ => rfl).trans h.free, hkeeps.x.trans h.x, hkeeps.instret.trans h.instret, hkeeps.priv.trans h.priv,
    hkeeps.bank.trans h.bank, hkeeps.bound.trans h.bound, fun q => ?_, hkeeps.holds.trans h.holds, ?_⟩
  · rw [← h.queue q]
    cases q
    · exact hkeeps.mq
    · exact hkeeps.cq
    · exact hkeeps.gq
  · rw [k.state]
    exact h.gone

theorem StageOver.beginSwap {bd : Bound} {s t : State} (h : StageOver bd s t) (hholds : Say.Holds t.core.shadow) :
    StageOver bd s (beginSwap false t) ∧ (s.core.priv = .u → (Machine.beginSwap false t).core.swap ≠ none) := by
  by_cases hswap : t.core.swap = none
  · cases hpriv : t.core.priv with
    | u =>
      rw [beginSwap_begins hswap hholds hpriv]
      obtain ⟨hfree, hx, hinstret, hpriv, hbank, hbound, hqueue, hholds, hgone⟩ := (sentLines_writeBackWhere (fun l => l.owed.isSome) t).stageOver h
      exact ⟨⟨hfree, hx, hinstret, hpriv, hbank, hbound, fun q => (by cases q <;> rfl : _ = _).trans (hqueue q), hholds, hgone⟩, fun _ => by simp [swapBegun]⟩
    | m =>
      have hsame : Machine.beginSwap false t = t := by simp [Machine.beginSwap, hpriv]
      rw [hsame]
      exact ⟨h, fun hu => by simp [← h.priv, hpriv] at hu⟩
  · rw [beginSwap_busy hswap]
    exact ⟨h, fun _ => hswap⟩

theorem mem_bankEntries {c : Core} {b : Bool} {e : Entry} : e ∈ bankEntries c b ↔ (∃ q, e ∈ c.queue q) ∧ e.bank = b := by
  have hqueue : (∃ q, e ∈ c.queue q) ↔ (e ∈ c.mq ∨ e ∈ c.cq) ∨ e ∈ c.gq :=
    ⟨fun ⟨q, hq⟩ => by cases q <;> simp_all [Core.queue], fun h => by
      rcases h with (h | h) | h
      · exact ⟨.mq, h⟩
      · exact ⟨.cq, h⟩
      · exact ⟨.gq, h⟩⟩
  rw [bankEntries, List.mem_filter, hqueue]
  simp [or_assoc]

/-- A bank that has left its stage is free for placement once none of its commands is left (R113). -/
theorem freeIfDone_free {c : Core} {d : Bound} (hbound : c.bank.bound = some d) (hleft : d.left = true)
    (hnone : ∀ q, ∀ e ∈ c.queue q, e.bank ≠ c.bank.num) : (freeIfDone c.bank.num c).bank.bound = none := by
  have hempty : bankEntries c c.bank.num = [] :=
    List.eq_nil_iff_forall_not_mem.mpr fun e he => by
      obtain ⟨⟨q, hq⟩, hb⟩ := mem_bankEntries.mp he
      exact hnone q e hq hb
  simp [freeIfDone, Core.bankOf, Core.modBankOf, hbound, hleft, hempty]

theorem freeIfDone_held {c : Core} {q : Queue} {e : Entry} (he : e ∈ c.queue q) (hb : e.bank = c.bank.num) : freeIfDone c.bank.num c = c := by
  have hsome : bankEntries c c.bank.num ≠ [] := List.ne_nil_of_mem (mem_bankEntries.mpr ⟨⟨q, he⟩, hb⟩)
  simp [freeIfDone, hsome]

theorem freeIfDone_keeps (b : Bool) (c : Core) : (freeIfDone b c).cx = c.cx ∧ (freeIfDone b c).swap = c.swap := by
  unfold freeIfDone
  dsimp only
  split_ifs
  · unfold Core.modBankOf
    split_ifs <;> exact ⟨rfl, rfl⟩
  · exact ⟨rfl, rfl⟩

/-- The stage has ended, and a launch in the shadow bank has taken the core, before the bank is given up. -/
theorem stageOver_leaveStage {bd : Bound} {s : State} (hbound : s.core.bank.bound = some bd) : ∃ u, leaveStage s = modCore (freeIfDone s.core.bank.num) u
    ∧ StageOver bd s u ∧ (Say.Holds s.core.shadow → s.core.priv = .u → u.core.swap ≠ none) := by
  have hover := stageOver_endedStage bd s
  refine ⟨_, leaveStage_eq hbound, ?_⟩
  by_cases hholds : Say.Holds (endedStage bd s).core.shadow
  · rw [if_pos ((holdsLaunch_iff _).mpr hholds)]
    exact ⟨(hover.beginSwap hholds).1, fun _ => (hover.beginSwap hholds).2⟩
  · rw [if_neg (mt (holdsLaunch_iff _).mp hholds)]
    exact ⟨hover, fun hs => absurd (hover.holds.mpr hs) hholds⟩

/-- The stage ends, and its bank is free for placement once none of its commands is left (R96, R113). -/
theorem leaveStage_ends {bd : Bound} {s : State} (hbound : s.core.bank.bound = some bd) :
    (leaveStage s).core.cx.st = .free ∧ (leaveStage s).core.cx.x = s.core.cx.x ∧ (leaveStage s).core.cx.instret = s.core.cx.instret
      ∧ ((∀ q, ∀ e ∈ s.core.queue q, e.bank ≠ s.core.bank.num) → (leaveStage s).core.bank.bound = none)
      ∧ (∀ q e, e ∈ s.core.queue q → e.bank = s.core.bank.num → (leaveStage s).core.bank.bound = some (hasLeft bd))
      ∧ (Say.Holds s.core.shadow → s.core.priv = .u → (leaveStage s).core.swap ≠ none)
      ∧ ∀ k ∈ (leaveStage s).root.launches, k.id = bd.launch → ∀ p ∈ k.placed, p.core = s.core.num → p.gone = true := by
  obtain ⟨u, heq, ⟨hfree, hx, hinstret, -, hbank, hleft, hqueue, -, hgone⟩, hswap⟩ := stageOver_leaveStage hbound
  have hkeeps := freeIfDone_keeps u.core.bank.num u.core
  rw [hbound] at hleft
  rw [heq, ← hbank]
  refine ⟨hkeeps.1 ▸ hfree, hkeeps.1 ▸ hx, hkeeps.1 ▸ hinstret, fun hnone => ?_, fun q e he hb => ?_, fun hs hu => hkeeps.2 ▸ hswap hs hu, hgone⟩
  · exact freeIfDone_free hleft rfl fun q e he => hnone q e (hqueue q ▸ he)
  · exact (congrArg (fun c => c.bank.bound) (freeIfDone_held (hqueue q ▸ he) hb)).trans hleft

/-! ### STGBIND (R56, R109) -/

section Moves
variable {s t u : State}

/-- What the move of readiness and inbox from one group to another keeps (R56). -/
structure MovesOn (s t : State) : Prop where
  mem : t.mem = s.mem
  root : t.root = s.root
  groups : t.fab.groups = s.fab.groups
  num : t.core.num = s.core.num
  cx : t.core.cx = s.core.cx
  bank : t.core.bank = s.core.bank

theorem MovesOn.refl (s : State) : MovesOn s s := ⟨rfl, rfl, rfl, rfl, rfl, rfl⟩

theorem MovesOn.trans (h : MovesOn s t) (k : MovesOn t u) : MovesOn s u :=
  ⟨k.mem.trans h.mem, k.root.trans h.root, k.groups.trans h.groups, k.num.trans h.num, k.cx.trans h.cx, k.bank.trans h.bank⟩

theorem movesOn_setReadiness {n : Nat} (hn : s.core.num = n) (g v : Nat) : MovesOn s (setReadiness n g v s) := by
  subst hn
  rw [setReadiness, modCoreAt_self]
  exact ⟨rfl, rfl, rfl, rfl, rfl, rfl⟩

theorem movesOn_bounceFrom (n : Nat) : ∀ (ms : List Msg) (s : State), MovesOn s (ms.foldl (fun s m => bounceFrom n m s) s)
  | [], s => .refl s
  | m :: ms, s => .trans (t := bounceFrom n m s) ⟨rfl, rfl, rfl, rfl, rfl, rfl⟩ (movesOn_bounceFrom n ms _)

/-- The core has left a group: its readiness is 0, and the group's messages in its inbox have gone back (R56). -/
def leftGroup (g : Nat) (s : State) : State :=
  let t := setReadiness s.core.num g 0 s
  (t.core.inbox.filter fun m => m.group == g).foldl (fun u m => bounceFrom s.core.num m u)
    (modCore (fun c => { c with inbox := c.inbox.filter fun m => m.group != g }) t)

theorem movesOn_leftGroup (g : Nat) (s : State) : MovesOn s (leftGroup g s) := by
  refine .trans (.trans (movesOn_setReadiness rfl g 0) ?_) (movesOn_bounceFrom s.core.num _ _)
  exact ⟨rfl, rfl, rfl, rfl, rfl, rfl⟩

theorem movesOn_moveGroups (a b : Option Nat) (s : State) : MovesOn s (moveGroups a b s) :=
  match a, b with
  | none, none => .refl s
  | none, some _ => movesOn_setReadiness rfl _ _
  | some g, none => movesOn_leftGroup g s
  | some g, some _ => (movesOn_leftGroup g s).trans (movesOn_setReadiness (movesOn_leftGroup g s).num _ _)

end Moves

/-- What `refreshBound` keeps: of a bank's launch all but a core's index and count. -/
structure Refreshed (s t : State) : Prop where
  mem : t.mem = s.mem
  groups : t.fab.groups = s.fab.groups
  cx : t.core.cx = s.core.cx
  rebind : t.core.bank.rebind = s.core.bank.rebind
  bound : (t.core.bank.bound.map fun d => (d.launch, d.stage)) = s.core.bank.bound.map fun d => (d.launch, d.stage)

theorem Refreshed.trans {s t u : State} (h : Refreshed s t) (k : Refreshed t u) : Refreshed s u :=
  ⟨k.mem.trans h.mem, k.groups.trans h.groups, k.cx.trans h.cx, k.rebind.trans h.rebind, k.bound.trans h.bound⟩

theorem refreshed_modCoreAt {f : Bank → Bank} (hrebind : ∀ k, (f k).rebind = k.rebind)
    (hbound : ∀ k, ((f k).bound.map fun d => (d.launch, d.stage)) = k.bound.map fun d => (d.launch, d.stage)) (n : Nat) (b : Bool) (s : State) :
    Refreshed s (modCoreAt n (fun c => c.modBankOf b f) s) := by
  refine ⟨modCoreAt_mem .., congrArg Fab.groups (modCoreAt_fab ..), modCoreAt_keeps (fun c => c.cx) (fun c => ?_) n s,
    modCoreAt_keeps (fun c => c.bank.rebind) (fun c => ?_) n s,
    modCoreAt_keeps (fun c => c.bank.bound.map fun d => (d.launch, d.stage)) (fun c => ?_) n s⟩
  · exact modBankOf_cx ..
  · unfold Core.modBankOf
    split_ifs <;> simp [hrebind]
  · unfold Core.modBankOf
    split_ifs <;> simp [hbound]

theorem refreshed_foldl {f : State → Placed → State} (hf : ∀ s p, Refreshed s (f s p)) : ∀ (l : List Placed) (s : State), Refreshed s (l.foldl f s)
  | [], _ => ⟨rfl, rfl, rfl, rfl, rfl⟩
  | p :: l, s => (hf s p).trans (refreshed_foldl hf l _)

theorem refreshed_refreshBound (l : Launch) (s : State) : Refreshed s (refreshBound l s) := by
  refine refreshed_foldl (fun s p => ?_) _ s
  split_ifs
  · exact ⟨rfl, rfl, rfl, rfl, rfl⟩
  · refine refreshed_modCoreAt (fun k => ?_) (fun k => ?_) _ _ _
    · split
      · rfl
      · split_ifs <;> rfl
    · split
      · rfl
      · next bd hbd => split_ifs <;> simp [hbd]

/-- The new stage has one core more than the cores of it that had not left (R109). -/
theorem length_stageCores_rebindPlaced {l : Launch} {n d r : Nat} {p : Placed} (hone : (l.placed.filter fun q => q.core == n) = [p])
    (hgone : p.gone = false) (hstage : p.stage = d) (hne : d ≠ r) :
    (stageCores (rebindPlaced n d r l) r).length = (stageCores l r).length + 1 := by
  have hcore : p.core = n := by
    have hmem : p ∈ l.placed.filter fun q => q.core == n := hone ▸ List.mem_singleton_self p
    simpa using (List.mem_filter.mp hmem).2
  have hsplit := fun f => List.countP_eq_countP_filter_add l.placed f fun q : Placed => q.core == n
  simp only [stageCores, rebindPlaced, ← List.countP_eq_length_filter, List.countP_map]
  rw [hsplit, hsplit (fun q => q.stage == r && !q.gone), hone, Nat.add_comm]
  refine congrArg₂ (· + ·) ?_ ?_
  · simp [hstage, hne]
    refine List.countP_congr fun q hq => ?_
    have hother : q.core ≠ n := by simpa using (List.mem_filter.mp hq).2
    simp only [Function.comp_apply, if_neg hother]
    split_ifs <;> rfl
  · simp [hcore, hgone]

/-- The core is a member of the new stage's group instead of the old one (R56). -/
def joinedStage (bd : Bound) (r : Nat) (s : State) : State :=
  joinGroup s.core.num bd.group (stageGroup s bd.launch r) (moveGroups bd.group (stageGroup s bd.launch r) s)

theorem movesOn_joinedStage (bd : Bound) (r : Nat) (s : State) :
    (joinedStage bd r s).mem = s.mem ∧ (joinedStage bd r s).root = s.root ∧ (joinedStage bd r s).core.num = s.core.num
      ∧ (joinedStage bd r s).core.cx = s.core.cx := by
  obtain ⟨hmem, hroot, -, hnum, hcx, -⟩ := movesOn_moveGroups bd.group (stageGroup s bd.launch r) s
  exact ⟨hmem, hroot, hnum, hcx⟩

theorem members_joinedStage {bd : Bound} {r : Nat} {s : State} {g : Group} (hg : g ∈ (joinedStage bd r s).fab.groups) :
    (stageGroup s bd.launch r = some g.num → s.core.num ∈ g.members)
      ∧ (bd.group = some g.num → stageGroup s bd.launch r ≠ some g.num → s.core.num ∉ g.members) := by
  obtain ⟨h, -, rfl⟩ := List.mem_map.mp hg
  refine ⟨fun hb => ?_, fun ha hb => ?_⟩
  · simp only [hb, beq_self_eq_true, if_true]
    exact List.mem_append_right _ (List.mem_singleton_self _)
  · have hother : (stageGroup s bd.launch r == some h.num) = false := by simpa using hb
    simp [hother, ha]

/-- The core has moved to stage `r` of its launch, before the indices of the two stages are taken again (R109). -/
def movedStage (bd : Bound) (l : Launch) (r : Nat) (u : State) : State :=
  let l2 := rebindPlaced u.core.num bd.stage r l
  let nr := (stageCores l2 r).length
  modBank (fun b => { b with rebind := .none, lastTake := none, bound := some { bd with
      stage := r, index := nr - 1, count := nr, entry := stageEntry u l r, group := stageGroup u bd.launch r,
      helpers := ((l.stages[r]?).map (·.helpers)).getD 0 } })
    (modRoot (fun t => { t with launches := t.launches.map fun x => if x.id = l.id then l2 else x }) u)

theorem doStgbind_eq (bd : Bound) (l : Launch) (r : Nat) (s : State) :
    doStgbind bd l r s =
      let u := joinedStage bd r s
      let l2 := rebindPlaced u.core.num bd.stage r l
      let nr := (stageCores l2 r).length
      jumpTo (stageEntry u l r) (writeX 11 (BitVec.ofNat 64 nr) (writeX 10 (BitVec.ofNat 64 (nr - 1)) (refreshBound l2 (movedStage bd l r u)))) := rfl

theorem stageEntry_congr {s t : State} (h : t.root = s.root) (l : Launch) (r : Nat) : stageEntry t l r = stageEntry s l r := by
  simp only [stageEntry, imageOf, h]

theorem stageEntry_here {s : State} {l : Launch} {r : Nat} {im : Image} {d : StageDesc} (him : imageOf s l = some im) (hd : l.stages[r]? = some d) :
    stageEntry s l r = im.img.textVa + d.entry.zeroExtend 64 := by
  simp [stageEntry, him, hd]

section Stgbind
variable {s : State} {bd : Bound} {l : Launch} {r : Nat} (hid : s.core.cx.id = 0) (hrebind : s.core.bank.rebind = .delivered r)
  (hbound : s.core.bank.bound = some bd) (hlaunch : launch? s bd.launch = some l)
include hid hrebind hbound hlaunch

theorem exec_stgbind_waits (hlive : ∃ id, id ≠ 0 ∧ Say.Live s id) : exec .stgbind s = .next (waitFor .helpers s) := by
  simp [exec_stgbind, execStgbind, stgbindStep, hid, hrebind, hbound, hlaunch, (anyHelper_iff s).mpr hlive, orTrap]

theorem exec_stgbind_moves (hnone : ∀ id, id ≠ 0 → ¬Say.Live s id) : exec .stgbind s = .next (doStgbind bd l r s) := by
  simp [exec_stgbind, execStgbind, stgbindStep, hid, hrebind, hbound, hlaunch, anyHelper_none hnone, orTrap]

end Stgbind

@[simp] theorem writeX_bank (q : RegNo) (v : Word) (s : State) : (writeX q v s).core.bank = s.core.bank := by
  unfold writeX; split <;> rfl
@[simp] theorem writeX_fab (q : RegNo) (v : Word) (s : State) : (writeX q v s).fab = s.fab := by
  unfold writeX; split <;> rfl
@[simp] theorem readX_jumpTo (e : Word) (s : State) (q : RegNo) : readX (jumpTo e s) q = readX s q := rfl

/-- STGBIND leaves the core at the entry of the new stage, as the last of its cores, and a member of its group (R56, R109). -/
theorem doStgbind_moves {s : State} {bd : Bound} {l : Launch} {r : Nat} {p : Placed} {im : Image} {d : StageDesc}
    (hone : (l.placed.filter fun q => q.core == s.core.num) = [p]) (hgone : p.gone = false) (hstage : p.stage = bd.stage) (hne : bd.stage ≠ r)
    (him : imageOf s l = some im) (hd : l.stages[r]? = some d) :
    let nr := (l.placed.filter fun q => q.stage == r && !q.gone).length
    let t := doStgbind bd l r s
    ∃ bt, t.core.bank.rebind = .none ∧ t.core.bank.bound = some bt ∧ bt.stage = r ∧ bt.launch = bd.launch
      ∧ t.core.cx.pc = im.img.textVa + d.entry.zeroExtend 64 ∧ readX t 10 = BitVec.ofNat 64 nr ∧ readX t 11 = BitVec.ofNat 64 (nr + 1)
      ∧ (∀ q, q ≠ 10 → q ≠ 11 → readX t q = readX s q) ∧ t.mem = s.mem ∧ t.fab.groups = (joinedStage bd r s).fab.groups := by
  intro nr t
  obtain ⟨hmem, hroot, hnum, hcx⟩ := movesOn_joinedStage bd r s
  have hnr : (stageCores (rebindPlaced (joinedStage bd r s).core.num bd.stage r l) r).length = nr + 1 := by
    rw [hnum]
    exact length_stageCores_rebindPlaced hone hgone hstage hne
  have hentry : stageEntry (joinedStage bd r s) l r = im.img.textVa + d.entry.zeroExtend 64 :=
    (stageEntry_congr hroot l r).trans (stageEntry_here him hd)
  have ht : t = jumpTo (im.img.textVa + d.entry.zeroExtend 64) (writeX 11 (BitVec.ofNat 64 (nr + 1)) (writeX 10 (BitVec.ofNat 64 nr)
      (refreshBound (rebindPlaced (joinedStage bd r s).core.num bd.stage r l) (movedStage bd l r (joinedStage bd r s))))) := by
    rw [← hentry, ← hnr, ← Nat.add_sub_cancel nr 1, ← hnr]
    exact doStgbind_eq bd l r s
  have hkept := refreshed_refreshBound (rebindPlaced (joinedStage bd r s).core.num bd.stage r l) (movedStage bd l r (joinedStage bd r s))
  rw [ht]
  generalize refreshBound _ _ = v at hkept
  obtain ⟨bt, hbt, hsame⟩ := Option.map_eq_some_iff.mp hkept.bound
  obtain ⟨hbl, hbr⟩ := Prod.mk.inj hsame
  refine ⟨bt, ?_, ?_, hbr, hbl, rfl, ?_, ?_, fun q h10 h11 => ?_, ?_, ?_⟩
  · simpa [jumpTo, modCx, movedStage] using hkept.rebind
  · simpa [jumpTo, modCx] using hbt
  · rw [readX_jumpTo, readX_writeX_other (by decide), readX_writeX_self, if_neg (by decide)]
  · rw [readX_jumpTo, readX_writeX_self, if_neg (by decide)]
  · rw [readX_jumpTo, readX_writeX_other h11, readX_writeX_other h10]
    exact readX_congr (congrArg Ctx.x (hkept.cx.trans hcx)) q
  · simpa [jumpTo] using hkept.mem.trans hmem
  · simpa [jumpTo, modCx, movedStage] using hkept.groups

end Sys2Proof.Machine
end

section
/-! PROOFS. The end of a stage, and the move to another. -/

namespace Sys2Proof.Proofs
open Sys2Proof.Machine

/-- Settles O24: STGEND is the bank's leaving of its stage, of which `StageOver` says what stays; STGBIND counts the core in its new stage alone. -/
theorem stageEndAndRebind : Obligations.StageEndAndRebind := by
  intro s bd l r
  refine ⟨fun hid => ⟨exec_stgend_helper hid, exec_stgbind_helper hid⟩, exec_stgbind_none,
    fun hid hlive => ⟨exec_stgend_waits hid hlive, fun hrebind hbound hlaunch => exec_stgbind_waits hid hrebind hbound hlaunch hlive⟩,
    exec_stgend_stores, fun hid hnone hout x xs hrecs => exec_stgend_traps hid hnone hout hrecs,
    fun hid hnone hout hrecs hbound => ?_, fun p im d hid hnone hrebind hbound hlaunch hone hgone hstage hne him hd => ?_⟩
  · obtain ⟨hfree, hx, hinstret, hempty, hheld, hswap, hleft⟩ := leaveStage_ends (s := modCx Ctx.retire s) hbound
    exact ⟨_, exec_stgend_ends hid hnone hout hrecs, hfree, hx, hinstret, hempty, hheld, hswap, hleft⟩
  · obtain ⟨bt, hrebound, hbt, hbr, hbl, hpc, h10, h11, hother, hmem, hgroups⟩ := doStgbind_moves hone hgone hstage hne him hd
    exact ⟨_, bt, exec_stgbind_moves hid hrebind hbound hlaunch hnone, hrebound, hbt, hbr, hbl, hpc, h10, h11, hother, hmem,
      fun g hg => (members_joinedStage (hgroups ▸ hg)).1, fun g hg => (members_joinedStage (hgroups ▸ hg)).2⟩

end Sys2Proof.Proofs
end

section
/-! SUPPORT. Spills, and what a run of writes leaves of a byte before it (R104, R157, R158). -/

namespace Sys2Proof.Machine

theorem exec_spillComplete_spills {s : State} {b : Bool} (hspilling : s.core.spilling = some b) (hswap : s.core.swap = none)
    (hnum : s.core.shadow.num = b) (hok : saveOk (saveArea s.core b) = true) :
    exec .spillComplete s = .next (modCore (fun c => { c with spilling := none, shadow := { c.shadow with spilled := true, slotsFreed := true } })
      ((s.core.ctxsOf b).foldl (fun t x => perform (saveSlot (saveArea s.core b) x.id) (slotImage x) t) s)) := by
  simp [exec_spillComplete, execSpillComplete, hspilling, hswap, hnum, hok]

/-- A doubleword whose first byte is not 0 is not 0. -/
theorem memNat_ne_zero {m : List Host.Cell} {a : Nat} {v : Byte} (h : memGet m a = v) (hv : v ≠ 0) : memNat m a 8 ≠ 0 := by
  intro hzero
  have hfirst : memRead m a 8 = memGet m a :: memRead m (a + 1) 7 := by simp [memRead, List.range_succ, Nat.add_assoc]
  rw [memNat, hfirst, h, natOfBytes] at hzero
  exact hv (BitVec.eq_of_toNat_eq (by simp; omega))

/-- A byte stands in memory, where no bookkeeping of slices and no list of blocks changes it. -/
structure Stands (a : Nat) (v : Byte) (s : State) : Prop where
  listed : s.ms.poisonList = []
  below : s.pkg.sl ≠ 3
  wf : Memory.wf s.mem = true
  byte : memGet s.mem a = v

/-- A write that begins beyond a byte leaves it, whether it performs or is held. -/
theorem Stands.performChunk {a : Nat} {v : Byte} {s : State} (h : Stands a v s) (how : Placing) {k : Nat} (hk : a < k) (bs : List Byte) :
    Stands a v (performChunk how k bs s) := by
  unfold Machine.performChunk
  split
  · exact ⟨h.listed, h.below, h.wf, h.byte⟩
  · have hlands := lands_performFrom how (dieOf s.core.num) k bs s
    obtain ⟨hwf, hbytes⟩ := hlands.bytes h.listed h.wf
    refine ⟨hlands.listed h.listed, hlands.pkg ▸ h.below, hwf, ?_⟩
    rw [performNow, hbytes a fun hsl => absurd hsl h.below, ← h.byte]
    exact if_neg fun hin => by omega

theorem Stands.foldl_performChunk {a : Nat} {v : Byte} (how : Placing) : ∀ {l : List (Nat × List Byte)} {s : State}, (∀ c ∈ l, a < c.1) → Stands a v s →
    Stands a v (l.foldl (fun s c => Machine.performChunk how c.1 c.2 s) s)
  | [], _, _, h => h
  | c :: l, _, hl, h => foldl_performChunk how (l := l) (fun d hd => hl d (List.mem_cons_of_mem _ hd)) (h.performChunk how (hl c List.mem_cons_self) c.2)

theorem le_of_mem_chunksF {c : Nat × List Byte} : ∀ {n k : Nat} {bs : List Byte}, c ∈ chunksF n k bs → k ≤ c.1
  | n + 1, k, b :: bs, hc => by
    rw [chunksF] at hc
    rcases List.mem_cons.mp hc with rfl | hc
    · exact le_rfl
    · exact (Nat.le_add_right ..).trans (le_of_mem_chunksF hc)

/-- A byte of the first line of a run stays as that line's write leaves it. -/
theorem Stands.perform {a k : Nat} {v : Byte} {bs : List Byte} {s : State} (hbs : bs ≠ []) (ha : a < k + (128 - k % 128))
    (h : Stands a v (Machine.performChunk Placing.dflt k (bs.take (128 - k % 128)) s)) : Stands a v (Machine.perform k bs s) := by
  obtain ⟨b, bs, rfl⟩ := List.exists_cons_of_ne_nil hbs
  exact .foldl_performChunk _ (l := chunksF bs.length _ _) (fun c hc => ha.trans_le (le_of_mem_chunksF hc)) h

end Sys2Proof.Machine
end

section
/-! PROOFS. Swaps, spills and fills. -/

namespace Sys2Proof.Proofs
open Sys2Proof Sys2Proof.Machine

/-- A context of a number that no bank has. -/
def beyond : Ctx := Ctx.reset 26843543

/-- The spill of the shadow bank is under way, whose one context is `beyond`, to a save area at 5,120: the context's slot begins 8 KiB below the end
of die 0, in its bark metadata. The line there holds the metadata of its own block, which is listed as POISON with the other three
lines written. -/
def spilling : State :=
  { State.reset with
    core := { Core.reset 0 with spilling := some true, dsave1 := 5120, shadow := { Bank.reset true with ctxs := [beyond] } }
    ms := { MemSys.reset with poisonList := [⟨268435263, 0b0111⟩] } }

/-- The slot's first line. -/
theorem beyond_image : (slotImage beyond).take 128 = List.replicate 128 0 := by decide +kernel

/-- It is the last line of its block to be written, and with that the block's metadata sector is written over x12 to x15. -/
theorem spilling_line : Stands 137438945376 0xFF (performChunk Placing.dflt 137438945280 (List.replicate 128 0) spilling) := by
  constructor <;> decide +kernel

/-- The rest of the slot lies beyond x12. -/
theorem spilling_slot : Stands 137438945376 0xFF (perform 137438945280 (slotImage beyond) spilling) :=
  .perform (fun hnil => absurd (beyond_image.symm.trans (congrArg (List.take 128) hnil)) (by decide)) (by decide)
    ((show (slotImage beyond).take (128 - 137438945280 % 128) = _ from beyond_image) ▸ spilling_line)

/-- Refutes O26: the statement bounds no context's number, and the slot of a context beyond those of a bank lies outside the 22 slots of the save
area. In `spilling` it lies in the bark metadata, where a write of its own first line, the last of a listed block, has the block's metadata
sector written (R104, R155, R158): x12 is not what the slot holds for it. -/
theorem not_swapsSpillsAndFills : ¬Obligations.SwapsSpillsAndFills := by
  rintro ⟨-, hspills⟩
  obtain ⟨-, -, hspill, -⟩ := hspills spilling ⟨false, false, [], []⟩ true beyond 12
  obtain ⟨t, ht, -, -, -, -, -, -, hreg⟩ := hspill rfl rfl rfl (by decide) (by decide) (by decide) (by decide) (fun l => rfl)
    (fun y hy => by rw [List.mem_singleton.mp hy]; decide) (List.mem_singleton_self _) (fun y hy _ => List.mem_singleton.mp hy)
  have hnext := Host.Outcome.next.inj (ht.symm.trans (exec_spillComplete_spills (s := spilling) rfl rfl rfl (by decide)))
  have hkey : saveSlot (saveArea spilling.core true) beyond.id = 137438945280 := by decide
  have hone : spilling.core.ctxsOf true = [beyond] := rfl
  rw [hone] at hnext
  rw [List.foldl_cons, List.foldl_nil, hkey] at hnext
  rw [hnext, modCore_mem] at hreg
  have hat : (if spilling.core.shadow.num then spilling.core.dsave1 else spilling.core.dsave0).toNat + 5120 * beyond.id + 8 * (12 : RegNo).toNat = 137438945376 := by decide
  have hbyte := spilling_slot.byte
  generalize perform 137438945280 (slotImage beyond) spilling = v at hbyte hreg
  rw [hat] at hreg
  have hx : (beyond.x[(12 : RegNo).toNat]'(12 : RegNo).isLt).toNat = 0 := by decide
  rw [hx, ite_self] at hreg
  exact memNat_ne_zero hbyte (by decide) hreg

end Sys2Proof.Proofs
end

section
/-! SUPPORT. What stands after a launch has completed (R71, R72). -/

namespace Sys2Proof.Machine

theorem toNat_stampWord (lid : W32) (st : BitVec 8) : (stampWord (lid.zeroExtend 64) st).toNat = lid.toNat + 2 ^ 56 * st.toNat := by
  have hlid := lid.isLt
  rw [stampWord, toNat_append_add, BitVec.extractLsb'_toNat, BitVec.toNat_setWidth]
  omega

/-- A stamp is written while no write is held (R71, R154). -/
theorem lands_stampAt (ring key : Nat) (lid : W32) (st : BitVec 8) {s : State} (h : s.ms.heldW = []) :
    Lands (overwrite key (bytesOfNat 8 (stampWord (lid.zeroExtend 64) st).toNat)) s (stampAt ring key lid st s) :=
  lands_performIo _ _ _ _ h

/-- A number that is written whole reads as it was written. -/
theorem Lands.memNat {k n v : Nat} {s t : State} (h : Lands (overwrite k (bytesOfNat n v)) s t) (hlist : s.ms.poisonList = [])
    (hwf : Memory.wf s.mem = true) (hplain : ∀ i, i < n → Say.plain s (k + i)) : Machine.memNat t.mem k n = v % 256 ^ n := by
  have hread := (h.whole hlist hwf (by simpa using hplain)).1
  rw [length_bytesOfNat] at hread
  rw [Machine.memNat, hread, natOfBytes_bytesOfNat]

/-- Outside a range that is written every byte reads as before. -/
theorem Lands.landsIn {k : Nat} {bs : List Byte} {s t : State} (h : Lands (overwrite k bs) s t) (hlist : s.ms.poisonList = [])
    (hwf : Memory.wf s.mem = true) : Say.LandsIn k bs.length s t := fun a ha hout => by
  rw [(h.bytes hlist hwf).2 a ha, overwrite_out hout]

/-- A prerequisite that has the status of a launch no longer waits for it. -/
theorem resolvePre_ne (id : Nat) (st : BitVec 8) (x : Option (BitVec 8) × Nat) : resolvePre id st x ≠ (none, id) := by
  unfold resolvePre
  intro h
  split at h
  · exact absurd (congrArg Prod.fst h) (by simp)
  · next hno => exact hno (by simp [h])

/-- The 4,096 launch ids that are remembered are the last (R72). -/
theorem mem_remember {asid : Nat} {lid : W32} {st : BitVec 8} {s : State} {p : Proc} (hp : p ∈ (remember asid lid st s).root.procs)
    (hasid : p.asid = asid) : (lid, st) ∈ p.remembered := by
  obtain ⟨q, -, rfl⟩ := List.mem_map.mp (show p ∈ s.root.procs.map _ from hp)
  by_cases hq : q.asid = asid
  · rw [if_pos hq]
    dsimp only
    rw [List.drop_append_of_le_length (by simp only [List.length_append, List.length_singleton]; omega)]
    exact List.mem_append_right _ (List.mem_singleton_self _)
  · rw [if_neg hq] at hasid
    exact absurd hasid hq

/-- A ring's event is raised where MSIEN asks for it (R67). -/
theorem outs_stampEvent (key : Nat) (s : State) : (stampEvent key s).io.outs
    = s.io.outs ++ if (getRing s key).msien then [.msi (decide (key / 32 = 1)) (1 + key % 32)] else [] := by
  unfold stampEvent
  split
  · rfl
  · exact (List.append_nil _).symm

@[simp] theorem stampEvent_mem (key : Nat) (s : State) : (stampEvent key s).mem = s.mem := by
  unfold stampEvent
  split <;> rfl

/-- A launch completes with a status, and no byte but its stamp's changes (R71 to R73). -/
theorem completed_complete (l : Launch) (st : BitVec 8) {s : State} (hheld : s.ms.heldW = []) (hlist : s.ms.poisonList = [])
    (hwf : Memory.wf s.mem = true) : Say.Completed l st [] s (complete l st s) := by
  have hstamp := lands_stampAt l.ring l.stampKey l.lid st hheld
  have hmem : (complete l st s).mem = (stampAt l.ring l.stampKey l.lid st s).mem := stampEvent_mem ..
  have hroot := (sameTables_stampEvent l.ring (modRoot (fun r => { r with launches := (r.launches.filter fun x => x.id != l.id).map fun x =>
    { x with prereqs := x.prereqs.map (resolvePre l.id st) } }) (remember l.asid l.lid st (stampAt l.ring l.stampKey l.lid st s)))).root
  refine ⟨⟨fun x hx => ?_, fun p hp hasid => ?_, fun hplain => ?_, ?_⟩, fun a ha hout => ?_⟩
  · obtain ⟨y, hy, rfl⟩ := List.mem_map.mp (show x ∈ List.map _ _ from (congrArg Root.launches hroot) ▸ hx)
    refine ⟨by simpa using (List.mem_filter.mp hy).2, fun hpre => ?_⟩
    obtain ⟨q, -, hq⟩ := List.mem_map.mp hpre
    exact resolvePre_ne _ _ _ hq
  · exact mem_remember ((congrArg Root.procs hroot) ▸ hp) hasid
  · rw [hmem, hstamp.memNat hlist hwf hplain, toNat_stampWord]
    have hlid := l.lid.isLt
    have hst := st.isLt
    omega
  · rw [List.append_nil]
    have hio := hstamp.io
    refine (outs_stampEvent ..).trans ?_
    show (stampAt l.ring l.stampKey l.lid st s).io.outs ++ (if (getRing (stampAt l.ring l.stampKey l.lid st s) l.ring).msien then _ else _) = _
    rw [show getRing (stampAt l.ring l.stampKey l.lid st s) l.ring = getRing s l.ring from by unfold getRing; rw [hio], hio]
  · rw [hmem]
    exact hstamp.landsIn hlist hwf a ha (by simpa using hout)

end Sys2Proof.Machine
end

section
/-! SUPPORT. The assignment of one core, and its bind to a stage (R92 to R95, R121). -/

namespace Sys2Proof.Machine

/-! ### A stage that asks for one core (R92, R93) -/

section OneCore
variable {ok : Want → Nat → Bool} {groves : List Nat} {w : Want}

theorem candidates_anywhere (hlevel : w.desc.blevel = 0) : candidates ok groves w []
    = if ((coresOf groves).filter (ok w)).length < w.need then none else some ((coresOf groves).filter (ok w)) := by
  simp [candidates, hlevel]

/-- With no core that fits there is no assignment. -/
theorem assign_none (hlevel : w.desc.blevel = 0) (hneed : w.need = 1) (hno : ∀ y ∈ coresOf groves, ok w y = false) :
    assign ok groves [w] = none := by
  have hfit : (coresOf groves).filter (ok w) = [] := List.filter_eq_nil_iff.mpr fun y hy => by simp [hno y hy]
  simp [assign, passOne, candidates_anywhere hlevel, hfit, hneed]

/-- The second pass hands no core to a stage that has as many as it may have (R93). -/
theorem passTwo_full {a : Alloc} (hfull : a.cores.length = a.want.desc.maxc) (taken : List Nat) :
    ∀ fuel, ∃ cands, passTwo fuel [a] taken = [{ a with cands := cands }]
  | 0 => ⟨_, rfl⟩
  | fuel + 1 => by
    unfold passTwo handOut
    cases hfree : a.cands.filter fun n => !taken.contains n with
    | nil => exact ⟨[], by simp [handOut]⟩
    | cons n rest => exact ⟨a.cands, by simp [handOut, hfull]⟩

/-- A stage with MAXC = 1 takes the lowest core that fits. -/
theorem assign_first (hlevel : w.desc.blevel = 0) (hneed : w.need = 1) (hmax : w.desc.maxc = 1) {n : Nat}
    (hfirst : (coresOf groves).find? (ok w) = some n) : ∃ cands, assign ok groves [w] = some [⟨w, cands, [n]⟩] := by
  rw [← List.head?_filter] at hfirst
  obtain ⟨rest, hfit⟩ : ∃ rest, (coresOf groves).filter (ok w) = n :: rest := List.head?_eq_some_iff.mp hfirst
  have hone : passOne ok groves [w] [] = some [⟨w, rest, [n]⟩] := by
    simp [passOne, candidates_anywhere hlevel, hfit, hneed]
  obtain ⟨cands, htwo⟩ := passTwo_full (a := ⟨w, rest, [n]⟩) hmax.symm [n] Config.cores
  exact ⟨cands, by rw [assign, hone]; exact congrArg some htwo⟩

theorem assign_some (hlevel : w.desc.blevel = 0) (hneed : w.need = 1) (hmax : w.desc.maxc = 1) (hany : ∃ y ∈ coresOf groves, ok w y = true) :
    ∃ as, assign ok groves [w] = some as := by
  obtain ⟨n, hfirst⟩ := Option.isSome_iff_exists.mp (List.find?_isSome.mpr hany)
  obtain ⟨cands, h⟩ := assign_first hlevel hneed hmax hfirst
  exact ⟨_, h⟩

end OneCore

/-! ### Stage bind of a core (R95, R121) -/

@[simp] theorem bindBank_num (bd : Bound) (r : StageRec) (cycles : Nat) (k : Bank) : (bindBank bd r cycles k).num = k.num := rfl

theorem endContexts_num (b : Bool) (c : Core) : (endContexts b c).num = c.num := by
  unfold endContexts
  split <;> rfl

/-- A bind sets the process and the pools of a core, and its channel, and then its bank. -/
theorem bindCore_eq (bd : Bound) (w : Want) (b : Bool) (asid : Nat) (c : Core) :
    ∃ d, bindCore bd w b asid c = (endContexts b d).modBankOf b (bindBank bd w.record d.cycles) ∧ d.num = c.num
      ∧ d.dpoolb0 = w.record.pool0 ∧ d.dpoolb1 = w.record.pool1 ∧ d.dpoolb2 = w.record.pool2 := by
  unfold bindCore
  refine ⟨_, rfl, ?_⟩
  split <;> exact ⟨rfl, rfl, rfl, rfl⟩

theorem bindCore_num (bd : Bound) (w : Want) (b : Bool) (asid : Nat) (c : Core) : (bindCore bd w b asid c).num = c.num := by
  obtain ⟨d, h, hnum, -⟩ := bindCore_eq bd w b asid c
  rw [h, modBankOf_num, endContexts_num, hnum]

/-- A bank that is bound holds its stage. -/
theorem bindCore_bound (bd : Bound) (w : Want) (b : Bool) (asid : Nat) (c : Core) : ((bindCore bd w b asid c).bankOf b).bound = some bd := by
  obtain ⟨d, h, -⟩ := bindCore_eq bd w b asid c
  rw [h, bankOf_modBankOf b _ (bindBank_num _ _ _)]
  rfl

/-- The pools of a core are those of a stage's record (R116). -/
def HasPools (r : StageRec) (c : Core) : Prop := c.dpoolb0 = r.pool0 ∧ c.dpoolb1 = r.pool1 ∧ c.dpoolb2 = r.pool2

theorem HasPools.modBankOf {r : StageRec} {c : Core} (h : HasPools r c) (b : Bool) (f : Bank → Bank) : HasPools r (c.modBankOf b f) := by
  unfold Core.modBankOf
  split <;> exact h

theorem HasPools.endContexts {r : StageRec} {c : Core} (h : HasPools r c) (b : Bool) : HasPools r (endContexts b c) := by
  unfold Machine.endContexts
  split <;> exact h

theorem hasPools_bindCore (bd : Bound) (w : Want) (b : Bool) (asid : Nat) (c : Core) : HasPools w.record (bindCore bd w b asid c) := by
  obtain ⟨d, h, -, hpools⟩ := bindCore_eq bd w b asid c
  rw [h]
  exact (HasPools.endContexts hpools b).modBankOf b _

/-! ### A constant half that is loaded (R121) -/

/-- What is read may move the count of free bytes on, and nothing else (log 12). -/
theorem readConst_keeps : ∀ (ks : List Nat) (s : State), ∃ n, (readConst ks s).2 = { s with free := n }
  | [], s => ⟨s.free, rfl⟩
  | k :: ks, s => by
    unfold readConst
    by_cases hpoison : poisoned s k 64 = true
    · rw [if_pos hpoison]
      exact readConst_keeps ks (freeBytes 64 s).2
    · rw [if_neg hpoison]
      exact readConst_keeps ks s

/-- A constant half put in a bank. -/
def setConst (v : BitVec 16384) (k : Bank) : Bank := { k with const := v }

/-- A bank that loads its constant half changes in nothing else, and the rest of the device in nothing but the count of free bytes. -/
theorem loadConst_eq {n : Nat} {b : Bool} {va : Word} {s u : State} (h : loadConst n b va s = some u) :
    ∃ v free, u = modCoreAt n (·.modBankOf b (setConst v)) { s with free := free } := by
  obtain ⟨ks, -, rfl⟩ := Option.map_eq_some_iff.mp h
  obtain ⟨free, hfree⟩ := readConst_keeps ks s
  exact ⟨_, free, congrArg (modCoreAt n _) hfree⟩

/-- A core bound to a stage, with the constant half of the bank loaded. -/
structure BoundAt (n : Nat) (b : Bool) (bd : Bound) (r : StageRec) (s u : State) : Prop where
  bound : ((getCore u n).bankOf b).bound = some bd
  pools : HasPools r (getCore u n)
  mem : u.mem = s.mem
  root : u.root = s.root

theorem boundAt_loadConst {n : Nat} {b : Bool} {va : Word} {bd : Bound} {w : Want} {asid : Nat} {s u : State}
    (h : loadConst n b va (modCoreAt n (bindCore bd w b asid) s) = some u) : BoundAt n b bd w.record s u := by
  obtain ⟨v, free, rfl⟩ := loadConst_eq h
  have hcore : getCore { modCoreAt n (bindCore bd w b asid) s with free := free } n = bindCore bd w b asid (getCore s n) :=
    getCore_modCoreAt_self (bindCore_num bd w b asid) s
  have hloaded := getCore_modCoreAt_self (n := n) (modBankOf_num b (setConst v)) { modCoreAt n (bindCore bd w b asid) s with free := free }
  rw [hcore] at hloaded
  refine ⟨?_, ?_, ?_, ?_⟩
  · rw [hloaded, bankOf_modBankOf b (setConst v) fun _ => rfl]
    exact bindCore_bound ..
  · rw [hloaded]
    exact (hasPools_bindCore ..).modBankOf ..
  · rw [modCoreAt_mem]
    exact modCoreAt_mem ..
  · rw [(sameTables_modCoreAt ..).root]
    exact (sameTables_modCoreAt ..).root

end Sys2Proof.Machine
end

section
/-! SUPPORT. Placement (R90 to R94). -/

namespace Sys2Proof.Machine

section Placement
variable {s : State} {l : Launch} {groves : List Nat} {pt : Part}

theorem exec_placement_not (hl : launch? s l.id = some l) (hst : l.st ≠ .placing) : exec (.placement l.id groves []) s = .next s := by
  rw [exec_placement]
  unfold execPlacement
  rw [hl]
  exact if_pos (by simp [hst])

/-- A launch whose turn it is to be placed, in the partition of its process (R90). -/
structure PlaceTurn (s : State) (l : Launch) (groves : List Nat) (pt : Part) (ws : List Want) : Prop where
  here : launch? s l.id = some l
  free : s.ms.heldW = []
  placing : l.st = .placing
  turn : placeTurn s l = true
  choice : choiceOk s l groves [] = true
  level : 2 ≤ s.pkg.sl.toNat
  part : (proc? s l.asid).bind (partOfProc s) = some pt
  wants : ∃ img, imageOf s l = some img ∧ wantsOf l img.img = some ws

theorem PlaceTurn.exec {ws : List Want} (h : PlaceTurn s l groves pt ws) : exec (.placement l.id groves []) s = .next (place l pt groves [] ws s) := by
  obtain ⟨img, himg, hws⟩ := h.wants
  have hlevel : ¬s.pkg.sl.toNat < 2 := Nat.not_lt.mpr h.level
  rw [exec_placement]
  unfold execPlacement
  rw [h.here]
  dsimp only
  rw [if_neg (by simp [h.placing, h.turn, h.choice, hlevel, h.free]), himg, h.part]
  dsimp only
  rw [hws]

/-- Groves outside the partition are refused. -/
theorem place_outside {ws : List Want} (h : ∃ g ∈ groves, pt.groves.getLsbD g = false) :
    place l pt groves [] ws s = complete l 0x05 s := by
  obtain ⟨g, hg, hout⟩ := h
  have hall : groves.all (fun g => pt.groves.getLsbD g) = false := List.all_eq_false.mpr ⟨g, hg, by simp [hout]⟩
  exact if_pos (by simp [grovesOk, hall])

/-- A launch at S3 whose one stage asks for one core, with no group and no domain, where an empty partition has a core for it. -/
structure OneCore (s : State) (l : Launch) (pt : Part) (groves : List Nat) (w : Want) : Prop where
  level : s.pkg.sl = 3
  inside : ∀ g ∈ groves, pt.groves.getLsbD g = true
  domain : w.desc.blevel = 0
  group : w.desc.offen = false
  need : w.need = 1
  maxc : w.desc.maxc = 1
  any : ∃ y ∈ coresOf groves, eligibleEmpty s w y = true
  apart : sectionMeets s l pt = false

variable {w : Want}

theorem OneCore.grovesOk (h : OneCore s l pt groves w) : Machine.grovesOk s pt groves [w] = true := by
  have hall : groves.all (fun g => pt.groves.getLsbD g) = true := List.all_eq_true.mpr h.inside
  simp [Machine.grovesOk, hall, h.level, h.domain]

/-- With no eligible core it waits. -/
theorem OneCore.place_waits (h : OneCore s l pt groves w) (hno : ∀ y ∈ coresOf groves, eligible s l w y = false) :
    place l pt groves [] [w] s = s := by
  obtain ⟨as, has⟩ := assign_some h.domain h.need h.maxc h.any
  have hnone := assign_none h.domain h.need hno
  simp [place, h.grovesOk, has, hnone]

/-- With an eligible core the lowest is bound, and the launch with it. -/
theorem OneCore.place_binds (h : OneCore s l pt groves w) {n : Nat} (hfirst : (coresOf groves).find? (eligible s l w) = some n) :
    ∃ cands, place l pt groves [] [w] s = (bindLaunch l [⟨w, cands, [n]⟩] s).getD (complete l 0x05 s) := by
  obtain ⟨as, has⟩ := assign_some h.domain h.need h.maxc h.any
  obtain ⟨cands, hone⟩ := assign_first h.domain h.need h.maxc hfirst
  refine ⟨cands, ?_⟩
  simp [place, h.grovesOk, has, hone, createGroups, h.group, ownDomsMeet, otherDomsMeet, h.domain, h.apart]

/-- The stage of a launch with one core in it. -/
def oneBound (s : State) (l : Launch) (w : Want) : Bound where
  launch := l.id
  stage := w.stage
  index := 0
  count := 1
  lid := l.lid
  const := l.const
  entry := stageEntry s l w.stage
  group := stageGroup s l.id w.stage
  prio := l.prio
  helpers := w.desc.helpers
  chan := none
  haltVa := l.haltVa
  haltPa := l.haltPa
  left := false

/-- A launch that is bound to the cores it has been given. -/
def bindsTo (id : Nat) (ps : List Placed) (x : Launch) : Launch := if x.id = id then { x with st := .bound, placed := ps } else x

theorem bindLaunch_one {n : Nat} {b : Bool} {cands : List Nat} {u : State} (hlevel : w.desc.blevel = 0) (hbank : freeBank (getCore s n) = some b)
    (hload : loadConst n b l.const (modCoreAt n (bindCore (oneBound s l w) w b l.asid) s) = some u) :
    bindLaunch l [⟨w, cands, [n]⟩] s = some (modRoot (fun r => { r with launches := r.launches.map (bindsTo l.id [⟨n, b, w.stage, 0, false⟩]) }) u) := by
  have hplaced : placedOf s ⟨w, cands, [n]⟩ = [⟨n, b, w.stage, 0, false⟩] := by simp [placedOf, hbank]
  have hbind : bindPlaced l ⟨w, cands, [n]⟩ ⟨n, b, w.stage, 0, false⟩ s = some u := by
    simpa [bindPlaced, hlevel, oneBound] using hload
  have henrol : enrol l s ⟨w, cands, [n]⟩ = s := if_pos hlevel
  have hcores : bindCores l u ⟨w, cands, [n]⟩ = u := by
    unfold bindCores
    dsimp only
    split
    · rfl
    · split
      · rfl
      · simp [hlevel]
  have hall : bindAll l [⟨w, cands, [n]⟩] s = some u := by simp [bindAll, hplaced, hbind]
  have hps : [(⟨w, cands, [n]⟩ : Alloc)].flatMap (placedOf s) = [⟨n, b, w.stage, 0, false⟩] := by simp [hplaced]
  unfold bindLaunch
  rw [hps, List.foldl_cons, List.foldl_nil, henrol, hall]
  dsimp only [Option.map_some, List.foldl_cons, List.foldl_nil]
  rw [hcores]
  rfl

end Placement

end Sys2Proof.Machine
end

section
/-! SUPPORT. The start of a launch (R95). -/

namespace Sys2Proof.Machine

/-! ### The control context (R95, R118) -/

section ControlCtx
variable {s : State} {k : Bank} {bd : Bound} (hcx : s.core.cx = controlCtx k bd)
include hcx

theorem readX_controlCtx_args : readX s 10 = BitVec.ofNat 64 bd.index ∧ readX s 11 = BitVec.ofNat 64 bd.count ∧ readX s 12 = bd.const
    ∧ readX s 2 = stackTop k 0 := by
  simp [readX, hcx, controlCtx]

theorem readX_controlCtx_other {r : RegNo} (hr : r ∉ ([2, 10, 11, 12] : List RegNo)) : readX s r = 0 := by
  simp only [List.mem_cons, List.not_mem_nil, or_false, not_or] at hr
  obtain ⟨h2, h10, h11, h12⟩ := hr
  have hne : ∀ {q : RegNo}, r ≠ q → q.toNat ≠ r.toNat := fun h he => h (BitVec.eq_of_toNat_eq he.symm)
  have hx : s.core.cx.x[r.toNat]'r.isLt = 0 := by
    simp only [hcx, controlCtx]
    exact (Vector.getElem_set_ne _ _ (hne h2)).trans ((Vector.getElem_set_ne _ _ (hne h12)).trans
      ((Vector.getElem_set_ne _ _ (hne h11)).trans ((Vector.getElem_set_ne _ _ (hne h10)).trans (Vector.getElem_replicate _))))
  unfold readX
  rw [hx, ite_self]

theorem readV_readF_controlCtx (r : RegNo) : readV s r = 0 ∧ readF s r = 0 := by
  simp [readV, readF, hcx, controlCtx, Ctx.reset]

end ControlCtx

/-- The control context of the active bank becomes the core's current one. -/
theorem startBank_cx {c : Core} {bd : Bound} (h : c.bank.bound = some bd) : (startBank c.bank.num c).cx = controlCtx c.bank bd := by
  have hbank : c.bankOf c.bank.num = c.bank := if_pos rfl
  unfold startBank
  simp only [hbank, h, if_true]
  rfl

/-! ### STAGE_START (R95) -/

section Start
variable {s : State} {l : Launch}

/-- A bound launch, of whose cores each is within reach, and none of whose partition is stopped. -/
structure MayStart (s : State) (l : Launch) : Prop where
  bound : l.st = .bound
  goes : checkpointed s l = false
  reached : ∀ y ∈ l.placed, pathOpen s (ioNode (l.ring / 32 == 1)) (y.core / 4) = true

theorem exec_stageStart_not (hl : launch? s l.id = some l)
    (h : l.st ≠ .bound ∨ checkpointed s l = true ∨ ∃ y ∈ l.placed, pathOpen s (ioNode (l.ring / 32 == 1)) (y.core / 4) = false) :
    exec (.stageStart l.id) s = .next s := by
  rw [exec_stageStart]
  unfold execStageStart
  rw [hl]
  refine if_pos ?_
  rcases h with hst | hck | ⟨y, hy, hclosed⟩
  · simp [hst]
  · simp [hck]
  · have hall : (l.placed.all fun p => pathOpen s (ioNode (portOf l.ring)) (twigOf p.core)) = false :=
      List.all_eq_false.mpr ⟨y, hy, Bool.eq_false_iff.mp hclosed⟩
    simp [hall]

/-- The control contexts of a launch's banks begin. -/
def startPlaced (s : State) (ps : List Placed) : State := ps.foldl (fun s p => modCoreAt p.core (startBank p.bank) s) s

theorem startPlaced_mem (s : State) (ps : List Placed) : (startPlaced s ps).mem = s.mem :=
  foldl_keeps State.mem (fun _ _ => modCoreAt_mem ..) ps s

theorem startPlaced_root (s : State) (ps : List Placed) : (startPlaced s ps).root = s.root :=
  foldl_keeps State.root (fun _ _ => (sameTables_modCoreAt ..).root) ps s

/-- The launch of an id runs. -/
def runs (id : Nat) (x : Launch) : Launch := if x.id = id then { x with st := .running } else x

/-- The state in which a launch has started. -/
def started (l : Launch) (s : State) : State := modRoot (fun r => { r with launches := r.launches.map (runs l.id) }) (startPlaced s l.placed)

theorem MayStart.exec (h : MayStart s l) (hl : launch? s l.id = some l) (hheld : s.ms.heldW = []) :
    exec (.stageStart l.id) s = .next (started l s) := by
  have hall : (l.placed.all fun p => pathOpen s (ioNode (portOf l.ring)) (twigOf p.core)) = true := List.all_eq_true.mpr h.reached
  rw [exec_stageStart]
  unfold execStageStart
  rw [hl]
  exact if_neg (by simp [h.bound, hheld, h.goes, hall])

theorem launch?_started (hl : launch? s l.id = some l) : launch? (started l s) l.id = some { l with st := .running } :=
  (Proofs.launch?_map (f := runs l.id) (fun x => by unfold runs; split <;> rfl) hl
    (congrArg (fun r : Root => r.launches.map (runs l.id)) (startPlaced_root s l.placed))).trans (congrArg some (if_pos rfl))

/-- A launch of one core begins there with its control context. -/
theorem started_cx {x : Placed} {bd : Bound} (hx : l.placed = [x]) (hcore : x.core = s.core.num) (hbank : x.bank = s.core.bank.num)
    (hbound : s.core.bank.bound = some bd) : (started l s).core.cx = controlCtx s.core.bank bd := by
  show (startPlaced s l.placed).core.cx = _
  rw [hx, startPlaced, List.foldl_cons, List.foldl_nil, hcore, hbank, modCoreAt_self]
  exact startBank_cx hbound

end Start

end Sys2Proof.Machine
end

section
/-! PROOFS. Placement and start. -/

namespace Sys2Proof.Proofs
open Sys2Proof Sys2Proof.Machine

/-- Settles O50: a launch of one stage that asks for one core is assigned the lowest that fits; its bank, its core and the launch then hold what
the record gives them. -/
theorem placementAndStart : Obligations.PlacementAndStart := by
  intro s l groves p pt w n b x bd hl hheld
  refine ⟨exec_placement_not hl, fun hst hturn hchoice hlevel hp hpt img himg hws => ?place, exec_stageStart_not hl,
    fun hst hgoes hreached => ?start, fun hst hgoes hx hopen hcore hbank hbound => ?begins⟩
  case place =>
    have hplace : PlaceTurn s l groves pt [w] :=
      ⟨hl, hheld, hst, hturn, hchoice, hlevel, by rw [hp]; exact hpt, img, himg, hws⟩
    refine ⟨fun hout hwf hlist => ⟨_, hplace.exec, ?_⟩, fun hsl hin hdom hgroup hneed hmax hany hapart => ?_⟩
    · rw [place_outside hout]
      exact completed_complete l 0x05 hheld hlist hwf
    · have hone : OneCore s l pt groves w := ⟨hsl, hin, hdom, hgroup, hneed, hmax, hany, hapart⟩
      refine ⟨fun hno => by rw [hplace.exec, hone.place_waits hno], fun hfirst hbank => ?_⟩
      intro bind u hload
      have hbound : BoundAt n b bind w.record s u := boundAt_loadConst hload
      obtain ⟨cands, hbinds⟩ := hone.place_binds hfirst
      rw [bindLaunch_one hdom hbank hload] at hbinds
      refine ⟨_, hplace.exec, ?_⟩
      rw [hbinds]
      obtain ⟨h0, h1, h2⟩ := hbound.pools
      refine ⟨rfl, hbound.bound, h0, h1, h2, hbound.mem, ?_⟩
      exact (launch?_map (f := bindsTo l.id [⟨n, b, w.stage, 0, false⟩]) (fun x => by unfold bindsTo; split <;> rfl) hl
        (congrArg (fun r : Root => r.launches.map (bindsTo l.id [⟨n, b, w.stage, 0, false⟩])) hbound.root)).trans (congrArg some (if_pos rfl))
  case start =>
    exact ⟨_, MayStart.exec ⟨hst, hgoes, hreached⟩ hl hheld, startPlaced_mem s l.placed, launch?_started hl⟩
  case begins =>
    have hreached : ∀ y ∈ l.placed, pathOpen s (ioNode (l.ring / 32 == 1)) (y.core / 4) = true := by
      rw [hx]
      intro y hy
      rw [List.mem_singleton.mp hy]
      exact hopen
    have hcx := started_cx hx hcore hbank hbound
    obtain ⟨h10, h11, h12, h2⟩ := readX_controlCtx_args hcx
    refine ⟨_, MayStart.exec ⟨hst, hgoes, hreached⟩ hl hheld, startPlaced_mem s l.placed, launch?_started hl, ?_, ?_, ?_, h10, h11, h12, h2,
      fun r hr => readX_controlCtx_other hcx hr, readV_readF_controlCtx hcx⟩
    · rw [hcx]; rfl
    · rw [hcx]; rfl
    · rw [hcx]; rfl

end Sys2Proof.Proofs
end

section
/-! SUPPORT. Writes of the device's own control and status registers (R97, R115, R116, R242, R337 to R342). -/

namespace Sys2Proof.Machine

/-! ### Fields that a write keeps (R116, R242, R342) -/

/-- A mask of `n` ones from bit `lo` on keeps that field. -/
theorem toNat_and_field (lo n : Nat) {mask : Word} (hmask : mask.toNat = (2 ^ n - 1) * 2 ^ lo) (v : Word) :
    (v &&& mask).toNat = v.toNat / 2 ^ lo % 2 ^ n * 2 ^ lo := by
  rw [BitVec.toNat_and, hmask]
  apply Nat.eq_of_testBit_eq
  intro i
  rw [Nat.testBit_and, Nat.testBit_mul_two_pow, Nat.testBit_mul_two_pow, Nat.testBit_two_pow_sub_one, Nat.testBit_mod_two_pow, Nat.testBit_div_two_pow]
  by_cases hi : lo ≤ i <;> simp [hi, Bool.and_comm]

theorem clear2_fields (v : Word) : clear2 v = v.extractLsb' 2 62 ++ 0#2 := by
  apply BitVec.eq_of_toNat_eq
  rw [clear2, toNat_and_field 2 62 rfl]
  simp only [toNat_append_add, BitVec.extractLsb'_toNat, BitVec.toNat_ofNat, Nat.shiftRight_eq_div_pow]
  omega

theorem dhstack_fields (v : Word) : v &&& ~~~15#64 = v.extractLsb' 4 60 ++ 0#4 := by
  apply BitVec.eq_of_toNat_eq
  rw [toNat_and_field 4 60 rfl]
  simp only [toNat_append_add, BitVec.extractLsb'_toNat, BitVec.toNat_ofNat, Nat.shiftRight_eq_div_pow]
  omega

theorem dhstksz_fields (v : Word) : v &&& 0xFFFFFFF0 = 0#32 ++ v.extractLsb' 4 28 ++ 0#4 := by
  apply BitVec.eq_of_toNat_eq
  rw [toNat_and_field 4 28 rfl]
  simp only [toNat_append_add, BitVec.extractLsb'_toNat, BitVec.toNat_ofNat, Nat.shiftRight_eq_div_pow]
  omega

theorem dtcause_fields (v : Word) : v &&& 0x1FF = 0#55 ++ v.extractLsb' 0 9 := by
  apply BitVec.eq_of_toNat_eq
  rw [toNat_and_field 0 9 rfl]
  simp only [toNat_append_add, BitVec.extractLsb'_toNat, BitVec.toNat_ofNat, Nat.shiftRight_eq_div_pow]
  omega

theorem dmemb_fields (v : Word) : v &&& 0xFFFFFFFF = 0#32 ++ v.extractLsb' 0 32 := by
  apply BitVec.eq_of_toNat_eq
  rw [toNat_and_field 0 32 rfl]
  simp only [toNat_append_add, BitVec.extractLsb'_toNat, BitVec.toNat_ofNat, Nat.shiftRight_eq_div_pow]
  omega

theorem dsave_fields (v : Word) : v &&& 0xFFFFFFFFFFF80 = 0#12 ++ v.extractLsb' 7 45 ++ 0#7 := by
  apply BitVec.eq_of_toNat_eq
  rw [toNat_and_field 7 45 rfl]
  simp only [toNat_append_add, BitVec.extractLsb'_toNat, BitVec.toNat_ofNat, Nat.shiftRight_eq_div_pow]
  omega

/-- CTX, HM and PEND stay, and the bits above them take the written ones (R242). -/
theorem dtstatField_fields (old v : Word) : dtstatField old v = v.extractLsb' 6 58 ++ old.extractLsb' 0 6 := by
  apply BitVec.eq_of_toNat_eq
  have hlow : (old &&& 0x3F).toNat = old.toNat % 2 ^ 6 := by simpa using toNat_and_field 0 6 (mask := 0x3F) rfl old
  have hhigh : (v &&& ~~~0x3F#64).toNat = v.toNat / 2 ^ 6 % 2 ^ 58 * 2 ^ 6 := toNat_and_field 6 58 rfl v
  rw [dtstatField, BitVec.toNat_or, hlow, hhigh, Nat.or_comm, Nat.mul_comm, ← Nat.two_pow_add_eq_or_of_lt (Nat.mod_lt _ (by decide))]
  simp only [toNat_append_add, BitVec.extractLsb'_toNat, Nat.shiftRight_eq_div_pow]
  omega

theorem dtvecField_eq (v : Word) : dtvecField v = Say.vectorOf v := by
  rw [dtvecField, clear2_fields]
  rfl

/-- A scheduling register below its floor takes the floor (R97). -/
theorem schedFloor_eq (v : Word) : (if (v.setWidth 32).ult 1024 then 1024 else v.setWidth 32)
    = if (v.extractLsb' 0 32).toNat < 1024 then 1024#32 else v.extractLsb' 0 32 := by
  rw [BitVec.setWidth_eq_extractLsb' (by decide)]
  simp [BitVec.ult]

/-! ### The pool boundaries (R115, R116) -/

theorem poolOk_iff (b0 b1 b2 : Nat) : poolOk b0 b1 b2 = true ↔ Say.PoolLayout b0 b1 b2 := by
  simp only [poolOk, Say.PoolLayout, Bool.and_eq_true, beq_iff_eq, decide_eq_true_eq, List.any_cons, List.any_nil, Bool.or_eq_true]
  constructor
  · rintro ⟨⟨⟨⟨⟨⟨⟨h0, h2⟩, h22⟩, -⟩, hl1⟩, hb2⟩, hlo⟩, hhi⟩
    refine ⟨⟨b0 / 5120, h2, h22, by omega⟩, ?_, hb2, hlo, hhi⟩
    rcases hl1 with h | h | h | h | h | h
    · exact ⟨0, by omega, by omega⟩
    · exact ⟨1, by omega, by omega⟩
    · exact ⟨2, by omega, by omega⟩
    · exact ⟨3, by omega, by omega⟩
    · exact ⟨4, by omega, by omega⟩
    · cases h
  · rintro ⟨⟨ns, h2, h22, rfl⟩, ⟨k, hk, rfl⟩, hb2, hlo, hhi⟩
    refine ⟨⟨⟨⟨⟨⟨⟨?_, ?_⟩, ?_⟩, ?_⟩, ?_⟩, hb2⟩, hlo⟩, hhi⟩ <;> omega

theorem setDpoolb_breaks {n : Nat} {v : Word} {s : State}
    (h : ¬Say.PoolLayout (if n = 0 then v.toNat % 2 ^ 21 else s.core.dpoolb0) (if n = 1 then v.toNat % 2 ^ 21 else s.core.dpoolb1)
      (if n = 2 then v.toNat % 2 ^ 21 else s.core.dpoolb2)) : setDpoolb n v s = s := by
  rw [← poolOk_iff] at h
  exact if_neg h

theorem setDpoolb_obeys {n : Nat} {v : Word} {s : State}
    (h : Say.PoolLayout (if n = 0 then v.toNat % 2 ^ 21 else s.core.dpoolb0) (if n = 1 then v.toNat % 2 ^ 21 else s.core.dpoolb1)
      (if n = 2 then v.toNat % 2 ^ 21 else s.core.dpoolb2)) :
    setDpoolb n v s = modCore (fun c => { c with
      dpoolb0 := if n = 0 then v.toNat % 2 ^ 21 else s.core.dpoolb0
      dpoolb1 := if n = 1 then v.toNat % 2 ^ 21 else s.core.dpoolb1
      dpoolb2 := if n = 2 then v.toNat % 2 ^ 21 else s.core.dpoolb2 }) s := by
  rw [← poolOk_iff] at h
  exact if_pos h

/-! ### A CSR instruction that writes (R116, R337) -/

section Write
variable {i : Instr} {a : CsrArgs} {n : BitVec 12} {old : Word} {f : Word → State → Option State} {w : Option W32} {s : State}

/-- An instruction that writes a register which may be read and written gives rd the old value and the register the new one. -/
theorem csrSets_of {g : Word → State → State} (hexec : exec i s = .next (csrRmw a n f w s)) (hread : csrRead s n = some old)
    (hwrite : ∀ v, f v s = some (g v s)) : Say.CsrSets i a s old g := by
  rw [Say.CsrSets, hexec, csrRmw, hread]
  simp [hwrite, csrValue_eq]

/-- One that writes a register which may not be read, or not be written, is illegal. -/
theorem illegal_of (hexec : exec i s = .next (csrRmw a n f (encode i) s)) (hno : csrRead s n = none ∨ ∀ v, f v s = none) : Say.Illegal i s := by
  have hrefused : csrRmw a n f (encode i) s = illegal (encode i) s := by
    rcases hno with hread | hwrite
    · simp [csrRmw, hread]
    · cases hread : csrRead s n <;> simp [csrRmw, hread, hwrite]
  rw [Say.Illegal, hexec, hrefused]
  rfl

theorem mOnly_m {g : Word → State → State} (hm : s.core.priv = .m) (v : Word) : mOnly g v s = some (g v s) := if_pos hm

theorem mOnly_u {g : Word → State → State} (hu : s.core.priv ≠ .m) (v : Word) : mOnly g v s = none := if_neg hu

end Write

/-- In U-mode a write that M-mode alone may make is illegal (R337). -/
theorem exec_csr_machineOnly {a : CsrArgs} {s : State} (hu : s.core.priv ≠ .m) {i : Instr}
    (hi : i ∈ [Instr.dpoolbWrite a 0, .dpoolbWrite a 1, .dpoolbWrite a 2, .dmembWrite a, .schedCsrWrite a 0, .schedCsrWrite a 1,
      .schedCsrWrite a 2, .csrWrite a 0x7C1, .csrWrite a 0x7C2, .dbankYevClear a]) : Say.Illegal i s := by
  simp only [List.mem_cons, List.not_mem_nil, or_false] at hi
  rcases hi with rfl | rfl | rfl | rfl | rfl | rfl | rfl | rfl | rfl | rfl
  · exact illegal_of rfl (.inr (mOnly_u hu))
  · exact illegal_of rfl (.inr (mOnly_u hu))
  · exact illegal_of rfl (.inr (mOnly_u hu))
  · exact illegal_of rfl (.inr (mOnly_u hu))
  · exact illegal_of rfl (.inr (mOnly_u hu))
  · exact illegal_of rfl (.inr (mOnly_u hu))
  · exact illegal_of rfl (.inr (mOnly_u hu))
  · exact illegal_of rfl (.inl (csrRead_machine hu rfl))
  · exact illegal_of rfl (.inl (csrRead_machine hu rfl))
  · exact illegal_of rfl (.inl (csrRead_machine hu rfl))

/-- dnclk has no write (R338). -/
theorem exec_csrWrite_dnclk (a : CsrArgs) (s : State) : Say.Illegal (.csrWrite a 0x80B) s :=
  illegal_of rfl (.inr fun _ => rfl)

/-- A write of a pool boundary gives rd the old one (R116). -/
theorem exec_dpoolbWrite_sets {a : CsrArgs} {n : BitVec 2} {old : Word} {s : State} (hm : s.core.priv = .m)
    (hread : csrRead s (0x200#10 ++ n) = some old) : Say.CsrSets (.dpoolbWrite a n) a s old (setDpoolb n.toNat) :=
  csrSets_of rfl hread (mOnly_m hm)

end Sys2Proof.Machine
end

section
/-! PROOFS. Writes of the device's control and status registers, in U-mode and in M-mode. -/

namespace Sys2Proof.Proofs
open Sys2Proof.Machine

/-- Writes in U-mode: each register's number picks its row of `csrRead` and of `setOther`. -/
theorem userCsrWrites : Say.UserCsrWrites := by
  intro a s
  refine ⟨?dtvec, ?dtpc, ?dtcause, ?dtval, ?dtstat, ?dcksum, ?dinject, ?dhstack, ?dhstksz⟩
  case dtvec => exact csrSets_of rfl rfl fun v => by rw [← dtvecField_eq]
  case dtpc => exact csrSets_of rfl rfl fun v => by rw [← clear2_fields]; rfl
  case dtcause => exact csrSets_of rfl rfl fun v => by rw [← dtcause_fields]; rfl
  case dtval => exact csrSets_of rfl rfl fun v => rfl
  case dtstat => exact csrSets_of rfl (congrArg some (dtstatOf_fields _)) fun v => by simp only [← dtstatField_fields]; rfl
  case dcksum => exact csrSets_of rfl rfl fun v => by rw [← BitVec.setWidth_eq_extractLsb' (by decide)]; rfl
  case dinject => exact csrSets_of rfl (congrArg some (dinjectOf_fields _)) fun v => rfl
  case dhstack => exact csrSets_of rfl rfl fun v => by rw [← dhstack_fields]; rfl
  case dhstksz => exact csrSets_of rfl rfl fun v => by rw [← dhstksz_fields]; rfl

/-- Writes in M-mode. A pool boundary is the written field of 21 bits, and a scheduling register that of 32 bits. -/
theorem machineCsrWrites : Say.MachineCsrWrites := by
  intro a s
  have hbound : ∀ v : Word, (v.extractLsb' 0 21).toNat = v.toNat % 2 ^ 21 := fun v => by simp [BitVec.extractLsb'_toNat]
  refine ⟨fun hm => ⟨⟨_, exec_dpoolbWrite_sets hm rfl, fun hok => ?pool0, fun hno => setDpoolb_breaks ?bad0⟩,
    ⟨_, exec_dpoolbWrite_sets hm rfl, fun hok => ?pool1, fun hno => setDpoolb_breaks ?bad1⟩,
    ⟨_, exec_dpoolbWrite_sets hm rfl, fun hok => ?pool2, fun hno => setDpoolb_breaks ?bad2⟩, ?dmemb, ?quantum, ?yield, ?balwin, ?save0, ?save1, ?yev⟩,
    fun hu i hi => exec_csr_machineOnly hu hi, exec_csrWrite_dnclk a s⟩
  case pool0 => simp only [hbound] at hok ⊢; exact setDpoolb_obeys (n := 0) hok
  case pool1 => simp only [hbound] at hok ⊢; exact setDpoolb_obeys (n := 1) hok
  case pool2 => simp only [hbound] at hok ⊢; exact setDpoolb_obeys (n := 2) hok
  case bad0 => simpa [hbound] using hno
  case bad1 => simpa [hbound] using hno
  case bad2 => simpa [hbound] using hno
  case dmemb => exact csrSets_of rfl rfl fun v => (mOnly_m hm v).trans (by rw [← dmemb_fields]; rfl)
  case quantum => exact csrSets_of rfl rfl fun v => (mOnly_m hm v).trans (by simp only [← schedFloor_eq]; rfl)
  case yield => exact csrSets_of rfl rfl fun v => (mOnly_m hm v).trans (by rw [← BitVec.setWidth_eq_extractLsb' (by decide)]; rfl)
  case balwin => exact csrSets_of rfl rfl fun v => (mOnly_m hm v).trans (by simp only [← schedFloor_eq]; rfl)
  case save0 => exact csrSets_of rfl (by simp [csrRead, hm]) fun v => by rw [← dsave_fields]; exact if_pos hm
  case save1 => exact csrSets_of rfl (by simp [csrRead, hm]) fun v => by rw [← dsave_fields]; exact if_pos hm
  case yev => exact csrSets_of rfl (by simp [csrRead, hm]) (mOnly_m hm)

/-- Settles O12: a write goes through the register's row, which keeps the fields that the register has; U-mode has no row of M-mode. -/
theorem csrWrites : Obligations.CsrWrites := ⟨userCsrWrites, machineCsrWrites⟩

end Sys2Proof.Proofs
end

section
/-! SUPPORT. Helper contexts: their start, their join, the live mask, and their end (R111 to R113, R251, R306 to R309). -/

namespace Sys2Proof.Machine

/-! ### Live contexts of the active bank (R111, R309) -/

theorem any_live_iff (s : State) (id : Nat) : ((s.core.ctxsOf s.core.bank.num).any fun x => x.id == id && x.live) = true ↔ Say.Live s id := by
  simp [Say.Live, Ctx.live]

theorem helperLive_iff (s : State) (id : Nat) : helperLive s.core id = true ↔ Say.Live s id := any_live_iff s id

theorem freeHelper_none {s : State} (h : ∀ id, 1 ≤ id → id ≤ 10 → Say.Live s id) : freeHelper s.core = none := by
  rw [freeHelper, List.find?_eq_none]
  rintro id hid
  obtain ⟨i, hi, rfl⟩ := List.mem_map.mp hid
  simpa using (any_live_iff s (i + 1)).mpr (h (i + 1) (by omega) (by have := List.mem_range.mp hi; omega))

theorem freeHelper_lowest {s : State} {id : Nat} (h1 : 1 ≤ id) (h10 : id ≤ 10) (hfree : ¬Say.Live s id) (hlow : ∀ j, 1 ≤ j → j < id → Say.Live s j) :
    freeHelper s.core = some id := by
  rw [freeHelper, List.find?_map, Option.map_eq_some_iff]
  refine ⟨id - 1, ?_, by omega⟩
  rw [List.find?_range_eq_some]
  refine ⟨?_, List.mem_range.mpr (by omega), fun j hj => ?_⟩
  · simpa [show id - 1 + 1 = id by omega] using (any_live_iff s id).not.mpr hfree
  · simpa using (any_live_iff s (j + 1)).mpr (hlow (j + 1) (by omega) (by omega))

/-- A context put in its place among others leaves ids in rising order. -/
theorem sorted_insertCtx {x : Ctx} : ∀ {l : List Ctx}, l.Pairwise (fun a b => a.id < b.id) → (insertCtx x l).Pairwise fun a b => a.id < b.id
  | [], _ => List.pairwise_singleton ..
  | y :: l, h => by
    obtain ⟨hy, hl⟩ := List.pairwise_cons.mp h
    unfold insertCtx
    split_ifs with hlt heq
    · refine List.pairwise_cons.mpr ⟨fun z hz => ?_, h⟩
      rcases List.mem_cons.mp hz with rfl | hz
      · exact hlt
      · exact hlt.trans (hy z hz)
    · exact List.pairwise_cons.mpr ⟨fun z hz => heq ▸ hy z hz, hl⟩
    · refine List.pairwise_cons.mpr ⟨fun z hz => ?_, sorted_insertCtx hl⟩
      rcases mem_of_mem_insertCtx hz with rfl | hz
      · omega
      · exact hy z hz

/-- One more live context in the mask. -/
def markLive (m : Nat) (x : Ctx) : Nat := if x.live then m + 2 ^ x.id else m

/-- With ids that rise no bit of the mask carries. -/
theorem testBit_foldl_markLive (id : Nat) : ∀ {l : List Ctx} {m : Nat}, l.Pairwise (fun a b => a.id < b.id) → (∀ x ∈ l, m < 2 ^ x.id) →
    (l.foldl markLive m).testBit id = (m.testBit id || l.any fun x => x.id == id && x.live)
  | [], _, _, _ => by simp
  | y :: l, m, h, hm => by
    obtain ⟨hy, hl⟩ := List.pairwise_cons.mp h
    have hmy : m < 2 ^ y.id := hm y List.mem_cons_self
    have hnext : markLive m y < 2 ^ (y.id + 1) := by unfold markLive; split <;> rw [Nat.pow_succ] <;> omega
    have hbit : (markLive m y).testBit id = (m.testBit id || (y.id == id && y.live)) := by
      unfold markLive
      cases y.live with
      | false => simp
      | true =>
        have hor := Nat.two_pow_add_eq_or_of_lt hmy 1
        rw [Nat.mul_one] at hor
        simp [Nat.add_comm m, hor, Nat.testBit_two_pow, Bool.or_comm, beq_eq_decide]
    rw [List.foldl_cons, testBit_foldl_markLive id hl fun x hx => hnext.trans_le (Nat.pow_le_pow_right (by decide) (hy x hx)), hbit, List.any_cons,
      Bool.or_assoc]

theorem testBit_liveMask {s : State} (h : Say.Ring s) (id : Nat) : (liveMask s.core s.core.bank.num).testBit id = true ↔ Say.Live s id := by
  obtain ⟨-, -, hsorted⟩ := h
  have hctxs : (s.core.ctxsOf s.core.bank.num).Pairwise fun a b => a.id < b.id := by
    rw [Core.ctxsOf, if_pos rfl]
    exact sorted_insertCtx hsorted
  rw [← any_live_iff]
  show ((s.core.ctxsOf s.core.bank.num).foldl markLive 0).testBit id = true ↔ _
  rw [testBit_foldl_markLive id hctxs fun x _ => Nat.two_pow_pos _, Nat.zero_testBit, Bool.false_or]

/-! ### HSTART, HJOIN and HLIVE (R307 to R309) -/

theorem stackTop_fields (b : Bank) (id : Nat) :
    stackTop b id = (b.dhstack + (BitVec.ofNat 64 id + 1) * b.dhstksz).extractLsb' 4 60 ++ 0#4 := by
  rw [stackTop, dhstack_fields, BitVec.ofNat_add]
  rfl

section Control
variable {rs2 rs1 rd : RegNo} {s : State}

theorem exec_hstart_helper (hid : s.core.cx.id ≠ 0) : Say.Illegal (.hstart rs2 rs1 rd) s := by
  simp [Say.Illegal, exec_hstart, execHstart, hstartStep, hid, orTrap, Say.wordOf]

theorem exec_hjoin_helper (hid : s.core.cx.id ≠ 0) : Say.Illegal (.hjoin rs1 rd) s := by
  simp [Say.Illegal, exec_hjoin, execHjoin, hjoinStep, hid, orTrap, Say.wordOf]

variable (hid : s.core.cx.id = 0)
include hid

theorem exec_hexit_control : Say.Illegal .hexit s := by
  simp [Say.Illegal, exec_hexit, execHexit, hexitStep, hid, orTrap, Say.wordOf]

theorem exec_hstart_misaligned (he : (readX s rs1).extractLsb' 0 2 ≠ 0) :
    exec (.hstart rs2 rs1 rd) s = .next (takeTrap 0 (readX s rs1) s) := by
  simp only [exec_hstart, execHstart, hstartStep, hid, ne_eq, not_true_eq_false, if_false, he, not_false_eq_true, if_true, orTrap]

theorem exec_hstart_full (he : (readX s rs1).extractLsb' 0 2 = 0) (hfull : freeHelper s.core = none ∨ slotFree s.core = false) :
    exec (.hstart rs2 rs1 rd) s = .next (adv (writeX rd (-1) s)) := by
  rcases hfull with hnone | hslot
  · simp [exec_hstart, execHstart, hstartStep, hid, he, hnone, orTrap]
  · cases hhelper : freeHelper s.core <;> simp [exec_hstart, execHstart, hstartStep, hid, he, hhelper, hslot, orTrap]

/-- The helper that HSTART starts (R307). -/
def startedHelper (rs2 rs1 : RegNo) (id : Nat) (s : State) : Ctx :=
  helperCtx id (readX s rs1) (readX s rs2) (stackTop s.core.bank id) s.core.cx.dtvec (lostOf s.core.bank id) (hostDepth s.core.cx.late)

theorem exec_hstart_starts (he : (readX s rs1).extractLsb' 0 2 = 0) {id : Nat} (hhelper : freeHelper s.core = some id) (hslot : slotFree s.core = true) :
    exec (.hstart rs2 rs1 rd) s = .next (adv (writeX rd (BitVec.ofNat 64 id)
      (modBank (fun b => { b with ctxs := insertCtx (startedHelper rs2 rs1 id s) b.ctxs }) s))) := by
  simp [exec_hstart, execHstart, hstartStep, hid, he, hhelper, hslot, orTrap, startedHelper]

theorem exec_hjoin_noHelper (hrange : (readX s rs1).toNat = 0 ∨ 10 < (readX s rs1).toNat) :
    exec (.hjoin rs1 rd) s = .next (adv (writeX rd (-1) s)) := by
  have hrange : (readX s rs1).toNat < 1 ∨ 10 < (readX s rs1).toNat := by omega
  simp only [exec_hjoin, execHjoin, hjoinStep, hid, ne_eq, not_true_eq_false, if_false, if_pos hrange, orTrap]

theorem exec_hjoin_over (h1 : 1 ≤ (readX s rs1).toNat) (h10 : (readX s rs1).toNat ≤ 10) (hover : ¬Say.Live s (readX s rs1).toNat) :
    exec (.hjoin rs1 rd) s = .next (adv (writeX rd 0 s)) := by
  have hrange : ¬((readX s rs1).toNat < 1 ∨ 10 < (readX s rs1).toNat) := by omega
  rw [← helperLive_iff] at hover
  simp only [exec_hjoin, execHjoin, hjoinStep, hid, ne_eq, not_true_eq_false, if_false, if_neg hrange, if_neg hover, orTrap]

theorem exec_hjoin_waits (h1 : 1 ≤ (readX s rs1).toNat) (h10 : (readX s rs1).toNat ≤ 10) (hlive : Say.Live s (readX s rs1).toNat) :
    exec (.hjoin rs1 rd) s = .next (waitFor (.join (readX s rs1).toNat) s) := by
  have hrange : ¬((readX s rs1).toNat < 1 ∨ 10 < (readX s rs1).toNat) := by omega
  rw [← helperLive_iff] at hlive
  simp only [exec_hjoin, execHjoin, hjoinStep, hid, ne_eq, not_true_eq_false, if_false, if_neg hrange, if_pos hlive, orTrap]

end Control

theorem startedHelper_x (rs2 rs1 : RegNo) (id : Nat) (s : State) (r : RegNo) : (startedHelper rs2 rs1 id s).x[r.toNat]'r.isLt
    = if r = 10 then readX s rs2
      else if r = 2 then (s.core.bank.dhstack + (BitVec.ofNat 64 id + 1) * s.core.bank.dhstksz).extractLsb' 4 60 ++ 0#4 else 0 := by
  have hnum : ∀ k : RegNo, k.toNat = r.toNat ↔ r = k := fun k => ⟨fun h => (BitVec.eq_of_toNat_eq h).symm, fun h => h ▸ rfl⟩
  have h10 : 10 = r.toNat ↔ r = 10 := hnum 10
  have h2 : 2 = r.toNat ↔ r = 2 := hnum 2
  simp only [startedHelper, helperCtx, Vector.getElem_set, Vector.getElem_replicate, h10, h2, stackTop_fields]
  by_cases hr : r = 10
  · subst hr; rfl
  · rw [if_neg hr, if_neg hr]

/-! ### What a helper that exits leaves (R248, R249, R251) -/

/-- The records of a helper that exits go to the control context, where their counts go on (R248). -/
def takeRecs (rs : List Rec) (x : Ctx) : Ctx := if x.id = 0 then rs.foldl (fun x r => appendRec { r with fixed := false } x) x else x

theorem appendRec_keeps (r : Rec) (x : Ctx) : (appendRec r x).id = x.id ∧ (appendRec r x).st = x.st := by
  unfold appendRec
  split <;> exact ⟨rfl, rfl⟩

theorem foldl_appendRec_keeps : ∀ (rs : List Rec) (x : Ctx), (rs.foldl (fun x r => appendRec { r with fixed := false } x) x).id = x.id
    ∧ (rs.foldl (fun x r => appendRec { r with fixed := false } x) x).st = x.st
  | [], _ => ⟨rfl, rfl⟩
  | r :: rs, x => by
    obtain ⟨hid, hst⟩ := foldl_appendRec_keeps rs (appendRec { r with fixed := false } x)
    obtain ⟨hid', hst'⟩ := appendRec_keeps { r with fixed := false } x
    exact ⟨hid.trans hid', hst.trans hst'⟩

/-- Eight records have room (R248). -/
theorem length_foldl_appendRec : ∀ (rs : List Rec) {x : Ctx}, x.recs.length ≤ 8 →
    (rs.foldl (fun x r => appendRec { r with fixed := false } x) x).recs.length = min 8 (x.recs.length + rs.length)
  | [], x, h => by simpa using h
  | r :: rs, x, h => by
    have hone : (appendRec { r with fixed := false } x).recs.length = min 8 (x.recs.length + 1) := by
      unfold appendRec Config.recordSlots
      split <;> simp <;> omega
    rw [List.foldl_cons, length_foldl_appendRec rs (by omega), hone, List.length_cons]
    omega

theorem takeRecs_keeps (rs : List Rec) (x : Ctx) : (takeRecs rs x).id = x.id ∧ (takeRecs rs x).st = x.st := by
  unfold takeRecs
  split
  · exact foldl_appendRec_keeps rs x
  · exact ⟨rfl, rfl⟩

/-- The contexts of a bank, each as `g` makes it. -/
def mapBank (g : Ctx → Ctx) (s : State) : State := modBank (fun b => { b with ctxs := b.ctxs.map g }) s

theorem modCtx_helper {s : State} (hid : s.core.cx.id ≠ 0) (f : Ctx → Ctx) :
    modCore (·.modCtx s.core.bank.num 0 f) s = mapBank (fun x => if x.id = 0 then f x else x) s := by
  simp [modCore, Core.modCtx, hid, mapBank, modBank]

/-- Records moved one after another from a helper. -/
theorem foldl_modCtx_helper : ∀ (rs : List Rec) {s : State}, s.core.cx.id ≠ 0 →
    rs.foldl (fun u r => modCore (·.modCtx s.core.bank.num 0 (appendRec { r with fixed := false })) u) s = mapBank (takeRecs rs) s
  | [], s, _ => by
    have hsame : takeRecs [] = fun x => x := funext fun x => by simp [takeRecs]
    simp [mapBank, modBank, hsame]
  | r :: rs, s, hid => by
    rw [List.foldl_cons, modCtx_helper hid]
    refine (foldl_modCtx_helper rs (s := mapBank _ s) hid).trans ?_
    have hcomp : (takeRecs rs ∘ fun x => if x.id = 0 then appendRec { r with fixed := false } x else x) = takeRecs (r :: rs) := funext fun x => by
      by_cases hx : x.id = 0
      · simp [takeRecs, hx, (appendRec_keeps { r with fixed := false } x).1]
      · simp [takeRecs, hx]
    simp [mapBank, modBank, hcomp]

/-- A context ready again, where it waited for the exit of a helper (R308), or of every one (R113). -/
def wakeJoin (id : Nat) (x : Ctx) : Ctx := if x.st = .waiting (.join id) ∨ x.st = .waiting .helpers then { x with st := .ready } else x

/-- The state in which a helper has ended, before another context is selected (R251). -/
def helperEnded (s : State) : State :=
  let id := s.core.cx.id
  let s := adv s
  let b := s.core.bank.num
  let s := s.core.cx.recs.foldl (fun s r => modCore (·.modCtx b 0 (appendRec { r with fixed := false })) s) s
  let lost := s.core.cx.lost
  let s := modBank (fun k => { k with lost := (id, lost) :: k.lost.filter fun x => x.1 != id }) s
  let s := forgetCtx s.core.num b id (modCx (fun c => { c with st := .free, recs := [] }) s)
  let now := s.core.cx.instret
  let s := modCore (fun c => { c with
    mq := c.mq.map (orphan b id now), cq := c.cq.map (orphan b id now), gq := c.gq.map (orphan b id now) }) s
  wake (fun k _ w => k == b && (w == .join id || w == .helpers)) s

theorem exec_hexit_waits {s : State} (hid : s.core.cx.id ≠ 0) (hout : storesOut s = true) : exec .hexit s = .next (waitFor .stores s) := by
  simp [exec_hexit, execHexit, hexitStep, hid, drained, hout, orTrap, bind, Except.bind]

theorem exec_hexit_ends {s : State} (hid : s.core.cx.id ≠ 0) (hout : storesOut s = false) : exec .hexit s = .next (switchEvent (helperEnded s)) := by
  simp [exec_hexit, execHexit, hexitStep, hid, drained, hout, orTrap, bind, Except.bind, helperEnded]

/-- Another context of the bank after the end of the current one, a helper. -/
def exitSees (s : State) (x : Ctx) : Ctx := wakeJoin s.core.cx.id (takeRecs (s.core.cx.recs.map Rec.tick) x)

/-- The helper has no slot, and the other contexts have its records and are woken. -/
structure HelperEnded (s t : State) : Prop where
  mem : t.mem = s.mem
  num : t.core.bank.num = s.core.bank.num
  priv : t.core.priv = s.core.priv
  id : t.core.cx.id = s.core.cx.id
  free : t.core.cx.st = .free
  ctxs : t.core.bank.ctxs = s.core.bank.ctxs.map (exitSees s)

theorem helperEnded_ended {s : State} (hid : s.core.cx.id ≠ 0) : HelperEnded s (helperEnded s) := by
  have hmoved : (adv s).core.cx.recs.foldl (fun u r => modCore (·.modCtx (adv s).core.bank.num 0 (appendRec { r with fixed := false })) u) (adv s)
      = mapBank (takeRecs (s.core.cx.recs.map Rec.tick)) (adv s) := foldl_modCtx_helper _ hid
  unfold helperEnded
  dsimp only
  rw [hmoved]
  refine ⟨rfl, rfl, rfl, rfl, rfl, ?_⟩
  simp only [wake, wakeCore, modCore, Core.mapCtxs, forgetCtx, mapBank, modBank, modCx, List.map_map]
  refine List.map_congr_left fun x _ => ?_
  simp only [Function.comp_apply, exitSees, wakeJoin]
  cases (takeRecs (s.core.cx.recs.map Rec.tick) x).st <;> simp

/-- With the current context ended, the live contexts after a switch event are the others of the bank (R98, R111). -/
theorem InRing.mem_switchEvent_of_free {s : State} (h : InRing s.core) (hfree : s.core.cx.st = .free) {y : Ctx} (hy : y.st ≠ .free) :
    y ∈ (switchEvent s).core.ctxsOf s.core.bank.num ↔ y ∈ s.core.bank.ctxs := by
  have hothers : ∀ {x : Ctx} {l : List Ctx}, x.st = .free → (y ∈ insertCtx x l → y ∈ l) := fun hx hmem =>
    (mem_of_mem_insertCtx hmem).resolve_left fun heq => hy (heq ▸ hx)
  have hstays : y ∈ s.core.ctxsOf s.core.bank.num ↔ y ∈ s.core.bank.ctxs := by
    rw [Core.ctxsOf, if_pos rfl]
    exact ⟨hothers hfree, fun hmem => mem_insertCtx_of_ne (h.apart y hmem) hmem⟩
  unfold switchEvent
  cases hnext : ringNext s.core with
  | none => exact hstays
  | some id =>
    have hready : readyAt s.core id = true := by
      rw [h.ringNext_eq] at hnext
      exact List.find?_some hnext
    have hid : s.core.cx.id ≠ id := fun heq => by simp [readyAt, heq, hfree] at hready
    rw [readyAt, if_neg (Ne.symm hid), List.any_eq_true] at hready
    obtain ⟨x, hx, hxst⟩ := hready
    obtain ⟨hxid, -⟩ : x.id = id ∧ x.st = .ready := by simpa using hxst
    have hfind : s.core.bank.ctxs.find? (fun z => z.id == id) = some x := hxid ▸ find?_only hx fun z hz => eq_of_sorted h.sorted hz hx
    have hselected : (modCore (selectCtx id) s).core.ctxsOf s.core.bank.num = insertCtx x (s.core.bank.ctxs.filter fun z => z.id != id) := by
      have hput : ∀ l, putBack s.core.cx l = l := fun l => if_neg (by simp [Ctx.live, hfree])
      rw [modCore_core, selectCtx, if_neg hid, hfind]
      simp [Core.ctxsOf, Core.withCx, hput]
    rw [hselected]
    constructor
    · intro hmem
      rcases mem_of_mem_insertCtx hmem with rfl | hmem
      · exact hx
      · exact List.mem_of_mem_filter hmem
    · intro hmem
      by_cases hyid : y.id = id
      · rw [eq_of_sorted h.sorted hmem hx (hyid.trans hxid.symm)]
        exact mem_insertCtx_self ..
      · exact mem_insertCtx_of_ne (hxid ▸ hyid) (List.mem_filter.mpr ⟨hmem, by simpa using hyid⟩)

theorem exitSees_id (s : State) (x : Ctx) : (exitSees s x).id = x.id := by
  refine Eq.trans ?_ (takeRecs_keeps (s.core.cx.recs.map Rec.tick) x).1
  unfold exitSees wakeJoin
  split <;> rfl

theorem exitSees_live {s : State} {x : Ctx} (h : x.st ≠ .free) : (exitSees s x).st ≠ .free := by
  unfold exitSees wakeJoin
  split
  · simp
  · rwa [(takeRecs_keeps _ x).2]

theorem exitSees_ready {s : State} {x : Ctx} (h : x.st = .waiting (.join s.core.cx.id) ∨ x.st = .waiting .helpers) : (exitSees s x).st = .ready := by
  rw [← (takeRecs_keeps (s.core.cx.recs.map Rec.tick) x).2] at h
  rw [exitSees, wakeJoin, if_pos h]

theorem exitSees_recs {s : State} {x : Ctx} (h0 : x.id = 0) (hroom : x.recs.length ≤ 8) :
    (exitSees s x).recs.length = min 8 (x.recs.length + s.core.cx.recs.length) := by
  have hrecs : (exitSees s x).recs = (takeRecs (s.core.cx.recs.map Rec.tick) x).recs := by
    unfold exitSees wakeJoin
    split <;> rfl
  rw [hrecs, takeRecs, if_pos h0, length_foldl_appendRec _ hroom, List.length_map]

/-- After the end of a helper the bank's other contexts are still those of a ring. -/
theorem HelperEnded.inRing {s t : State} (h : HelperEnded s t) (hring : Say.Ring s) (hu : s.core.priv = .u) : InRing t.core := by
  obtain ⟨hlt, hothers, hsorted⟩ := hring
  refine ⟨h.priv.trans hu, by rwa [h.id], fun x hx => ?_, ?_⟩
  · rw [h.ctxs] at hx
    obtain ⟨y, hy, rfl⟩ := List.mem_map.mp hx
    rw [exitSees_id, h.id]
    exact (hothers y hy).1
  · rw [h.ctxs, List.pairwise_map]
    simpa only [exitSees_id] using hsorted

end Sys2Proof.Machine
end

section
/-! PROOFS. Helpers start, are joined and listed, and end; YIELD switches. -/

namespace Sys2Proof.Proofs
open Sys2Proof.Machine

/-- HSTART, HJOIN and HLIVE, each by the case that the live contexts leave. -/
theorem helperContexts : Say.HelperContexts := by
  intro rs2 rs1 rd s hring
  refine ⟨fun hid => ⟨exec_hstart_helper hid, exec_hjoin_helper hid⟩, exec_hexit_control, fun hid he => exec_hstart_misaligned hid he,
    fun hid he hfull => ⟨_, exec_hstart_full hid he (hfull.imp freeHelper_none id), setsX_adv_writeX rd (-1) s⟩,
    fun id hid he h1 h10 hfree hlow hslot => ?starts,
    fun hid hrange => ⟨_, exec_hjoin_noHelper hid hrange, setsX_adv_writeX rd (-1) s⟩,
    fun hid h1 h10 => ⟨fun hover => ⟨_, exec_hjoin_over hid h1 h10 hover, setsX_adv_writeX rd 0 s⟩, exec_hjoin_waits hid h1 h10⟩,
    _, _, exec_hlive s rd, setsX_adv_writeX rd _ s, fun id hid => ?mask⟩
  case starts =>
    refine ⟨_, startedHelper rs2 rs1 id s, exec_hstart_starts hid he (freeHelper_lowest h1 h10 hfree hlow) hslot, ?_, fun a => by simp, ?_, rfl, rfl, rfl, rfl,
      rfl, rfl, rfl, startedHelper_x rs2 rs1 id s, rfl, rfl, fun x hx hxid => ?_⟩
    · unfold writeX
      split <;> rfl
    · rw [adv_core_bank, writeX_bank]
      exact mem_insertCtx_self ..
    · rw [adv_core_bank, writeX_bank]
      exact mem_insertCtx_of_ne hxid hx
  case mask =>
    rw [BitVec.getLsbD_ofNat, decide_eq_true hid, Bool.true_and]
    exact testBit_liveMask hring id

/-- HEXIT and YIELD, through what the helper leaves and what a switch event selects. -/
theorem helperExitAndYield : Say.HelperExitAndYield := by
  intro s next hring hlive hu
  have hyield : InRing (adv s).core := ⟨hu, hring.1, fun x hx => (hring.2.1 x hx).1, hring.2.2⟩
  refine ⟨exec_hexit_waits, fun hid hout => ?exits, _, exec_yield s, fun a => ?_, fun hnext => ?_, ?_⟩
  case exits =>
    have hended := helperEnded_ended hid
    have hin := hended.inRing hring hu
    have hstays : ∀ x ∈ s.core.bank.ctxs, (exitSees s x).st ≠ .free → exitSees s x
        ∈ (switchEvent (helperEnded s)).core.ctxsOf (switchEvent (helperEnded s)).core.bank.num := fun x hx hst => by
      rw [switchEvent_num, hin.mem_switchEvent_of_free hended.free hst, hended.ctxs]
      exact List.mem_map_of_mem hx
    refine ⟨_, exec_hexit_ends hid hout, (switchEvent_mem _).trans hended.mem, (switchEvent_num _).trans hended.num, ?_, fun x hx hst => ?_,
      fun x hx hwaits => ?_, fun x hx hx0 hst hroom => ?_⟩
    · rintro ⟨y, hy, hyid, hst⟩
      rw [switchEvent_num, hin.mem_switchEvent_of_free hended.free hst] at hy
      exact hin.apart y hy (hyid.trans hended.id.symm)
    · have hlive := exitSees_live (s := s) hst
      exact ⟨_, hstays x hx hlive, exitSees_id s x, hlive⟩
    · have hready := exitSees_ready hwaits
      exact ⟨_, hstays x hx (by simp [hready]), exitSees_id s x, hready⟩
    · exact ⟨_, hstays x hx (exitSees_live hst), (exitSees_id s x).trans hx0, exitSees_recs hx0 hroom⟩
  · simp
  · obtain ⟨hcur, -, hused, hctxs⟩ := hyield.switchEvent_some hlive hnext
    refine ⟨hcur, hused, _, ?_, rfl⟩
    rw [switchEvent_num]
    refine hctxs _ ?_
    rw [Core.ctxsOf, if_pos rfl]
    exact mem_insertCtx_self ..
  · exact hyield.switchEvent_none

/-- Settles O25: the lowest free helper starts, and what a helper leaves when it exits goes to the contexts that stay. -/
theorem helperContextsBeginAndEnd : Obligations.HelperContextsBeginAndEnd := ⟨helperContexts, helperExitAndYield⟩

end Sys2Proof.Proofs
end

section
/-! SUPPORT. The queues of a core: entries, range locks, release sets, and what each shared operation on them leaves (R123, R130 to R135, R325). -/

namespace Sys2Proof.Machine

/-! ### The entries of a queue set (R123) -/

@[simp] theorem queue_setQueue_other {q p : Queue} (h : p ≠ q) (c : Core) (v : List Entry) : (c.setQueue q v).queue p = c.queue p := by
  cases q <;> cases p <;> simp [Core.setQueue, Core.queue] at h ⊢

/-- Setting a queue changes its entries alone. -/
theorem setQueue_frame (c : Core) (q : Queue) (v : List Entry) :
    c.setQueue q v = { c with mq := (c.setQueue q v).mq, cq := (c.setQueue q v).cq, gq := (c.setQueue q v).gq } := by cases q <;> rfl

@[simp] theorem setQueue_cx (c : Core) (q : Queue) (v : List Entry) : (c.setQueue q v).cx = c.cx := by rw [setQueue_frame]
@[simp] theorem setQueue_bank (c : Core) (q : Queue) (v : List Entry) : (c.setQueue q v).bank = c.bank := by rw [setQueue_frame]
@[simp] theorem setQueue_locks (c : Core) (q : Queue) (v : List Entry) : (c.setQueue q v).locks = c.locks := by rw [setQueue_frame]

theorem queue_modEntry_other {q p : Queue} (h : p ≠ q) (ord : Nat) (f : Entry → Entry) (s : State) :
    (modEntry q ord f s).core.queue p = s.core.queue p := queue_setQueue_other h ..

/-- A retired write of an x register, of the context alone. -/
def retireX (r : RegNo) (v : Word) (x : Ctx) : Ctx :=
  { (if r = 0 then x else { x with x := x.x.set r.toNat v r.isLt }).retire with pc := x.pc + 4 }

theorem adv_writeX_cx (r : RegNo) (v : Word) (s : State) : (adv (writeX r v s)).core.cx = retireX r v s.core.cx := by
  unfold writeX retireX
  split <;> rfl

theorem bare_retireX (r : RegNo) (v : Word) (x : Ctx) : Say.bare (retireX r v x) = Say.bare (retireX r v (Say.bare x)) := by
  unfold retireX
  split <;> rfl

@[simp] theorem adv_writeX_queue (r : RegNo) (v : Word) (s : State) (q : Queue) : (adv (writeX r v s)).core.queue q = s.core.queue q := by
  rw [writeX_frame]
  cases q <;> rfl
@[simp] theorem adv_writeX_locks (r : RegNo) (v : Word) (s : State) : (adv (writeX r v s)).core.locks = s.core.locks := by
  rw [writeX_frame]
  rfl

/-! ### What an operation on the queues leaves -/

/-- Nothing changes but entries of queues, range locks and release sets. -/
structure OnlyQueues (s t : State) : Prop where
  state : t = { s with core := t.core }
  core : t.core = { s.core with mq := t.core.mq, cq := t.core.cq, gq := t.core.gq, locks := t.core.locks, bank := t.core.bank, shadow := t.core.shadow }
  bank : t.core.bank = { s.core.bank with relMq := t.core.bank.relMq, relCq := t.core.bank.relCq, relGq := t.core.bank.relGq }
  shadow : t.core.shadow = { s.core.shadow with relMq := t.core.shadow.relMq, relCq := t.core.shadow.relCq, relGq := t.core.shadow.relGq }

theorem OnlyQueues.refl (s : State) : OnlyQueues s s := ⟨rfl, rfl, rfl, rfl⟩

theorem OnlyQueues.trans {s t u : State} (h : OnlyQueues s t) (k : OnlyQueues t u) : OnlyQueues s u where
  state := k.state.trans (by rw [h.state])
  core := k.core.trans (by rw [h.core])
  bank := k.bank.trans (by rw [h.bank])
  shadow := k.shadow.trans (by rw [h.shadow])

section
variable {s t : State} (h : OnlyQueues s t)
include h
theorem OnlyQueues.mem : t.mem = s.mem := by rw [h.state]
theorem OnlyQueues.ms : t.ms = s.ms := by rw [h.state]
theorem OnlyQueues.cx : t.core.cx = s.core.cx := by rw [h.core]
theorem OnlyQueues.num : t.core.bank.num = s.core.bank.num := by rw [h.bank]
theorem OnlyQueues.parked (q : Queue) : t.core.parked q = s.core.parked q := by
  rw [h.core]
  cases q <;> rfl
end

theorem onlyQueues_modEntry (q : Queue) (ord : Nat) (f : Entry → Entry) (s : State) : OnlyQueues s (modEntry q ord f s) := by
  unfold modEntry
  cases q <;> exact ⟨rfl, rfl, rfl, rfl⟩

theorem onlyQueues_dropLocks (ord : Nat) (s : State) : OnlyQueues s (dropLocks ord s) := ⟨rfl, rfl, rfl, rfl⟩

theorem onlyQueues_dropSrcLocks (ord : Nat) (s : State) : OnlyQueues s (dropSrcLocks ord s) := ⟨rfl, rfl, rfl, rfl⟩

theorem onlyQueues_cancelAt (q : Queue) (ord : Nat) (s : State) : OnlyQueues s (cancelAt q ord s) :=
  (onlyQueues_modEntry ..).trans (onlyQueues_dropLocks ..)

theorem onlyQueues_releaseTag (b : Bool) (q : Queue) (tag : BitVec 8) (cancelling : Bool) (s : State) :
    OnlyQueues s (releaseTag b q tag cancelling s) := by
  unfold releaseTag
  split
  · split
    · exact onlyQueues_cancelAt ..
    · exact onlyQueues_modEntry ..
  · unfold modCore Core.modBankOf Bank.setRel
    dsimp only
    split <;> cases q <;> exact ⟨rfl, rfl, rfl, rfl⟩

theorem onlyQueues_sendChain (e : Entry) (cancelling : Bool) (s : State) : OnlyQueues s (sendChain e cancelling s) := by
  unfold sendChain
  split
  · split
    · exact onlyQueues_releaseTag ..
    · exact .refl s
  · exact .refl s

/-! ### Cancelling, and releasing what is chained (R130, R131, R325) -/

theorem queue_cancelAt (q : Queue) (ord : Nat) (s : State) : (cancelAt q ord s).core.queue q
    = (s.core.queue q).map fun x => if x.ord = ord then { x with st := .queued, cancelled := true } else x := queue_modEntry ..

theorem queue_cancelAt_other {q p : Queue} (h : p ≠ q) (ord : Nat) (s : State) : (cancelAt q ord s).core.queue p = s.core.queue p :=
  queue_modEntry_other h ..

@[simp] theorem modEntry_locks (q : Queue) (ord : Nat) (f : Entry → Entry) (s : State) : (modEntry q ord f s).core.locks = s.core.locks :=
  setQueue_locks ..

theorem mem_locks_dropLocks {ord : Nat} {s : State} {k : Lock} : k ∈ (dropLocks ord s).core.locks ↔ k ∈ s.core.locks ∧ k.ord ≠ ord := by
  simp [dropLocks]

theorem mem_locks_dropSrcLocks {ord : Nat} {s : State} {k : Lock} :
    k ∈ (dropSrcLocks ord s).core.locks ↔ k ∈ s.core.locks ∧ (k.ord ≠ ord ∨ k.dst = true) := by
  simp [dropSrcLocks]

theorem mem_locks_cancelAt {q : Queue} {ord : Nat} {s : State} {k : Lock} : k ∈ (cancelAt q ord s).core.locks ↔ k ∈ s.core.locks ∧ k.ord ≠ ord := by
  rw [cancelAt, mem_locks_dropLocks, modEntry_locks]

theorem sendChain_none {e : Entry} (h : e.cmd.ch = false) (cancelling : Bool) (s : State) : sendChain e cancelling s = s := by
  simp [sendChain, h]

section Chain
variable {s : State} {e x : Entry} {p : Queue} (hch : e.cmd.ch = true) (hsq : e.cmd.sq.toNat = queueNum p)
  (hheld : (s.core.queue p).find? (fun z => z.bank == e.bank && z.st == .held && !z.cancelled && z.cmd.otag == e.cmd.stag) = some x)
include hch hsq hheld

/-- The command that waits for the chain is released, or cancelled with it (R130, R131). -/
theorem sendChain_found (cancelling : Bool) : sendChain e cancelling s
    = if cancelling then cancelAt p x.ord s else modEntry p x.ord (fun z => { z with st := .queued }) s := by
  have hq : queueOf e.cmd.sq.toNat = some p := by rw [hsq]; cases p <;> rfl
  rw [sendChain, if_pos hch, hq]
  simp only [releaseTag, hheld]

end Chain

end Sys2Proof.Machine
end

section
/-! SUPPORT. IDGET, and the instructions that push, await, cancel and count commands (R123, R124, R126, R133, R323 to R326, R335). -/

namespace Sys2Proof.Machine

/-! ### IDGET (R288, R335) -/

theorem exec_idget_reads {s : State} {sel : BitVec 12} {v : Word} (rd : RegNo) (hsel : sel.toNat < 14) (hv : idValue s sel.toNat = v) :
    ∃ t, exec (.idget sel rd) s = .next t ∧ Say.SetsX rd v s t :=
  ⟨_, by rw [exec_idget, execIdget, if_pos hsel, hv], setsX_adv_writeX rd v s⟩

theorem exec_idget_illegal {s : State} {sel : BitVec 12} (rd : RegNo) (hsel : 14 ≤ sel.toNat) : Say.Illegal (.idget sel rd) s := by
  rw [Say.Illegal, exec_idget, execIdget, if_neg (by omega)]
  rfl

theorem zeroExtend_fields (v : W32) : v.zeroExtend 64 = 0#32 ++ v := by
  apply BitVec.eq_of_toNat_eq
  have hlt := v.isLt
  simp only [toNat_append_add, BitVec.truncate_eq_setWidth, BitVec.toNat_setWidth, BitVec.toNat_ofNat]
  omega

/-- A launch's value is that of the bank's stage. -/
theorem idValue_bound {s : State} {bd : Bound} (hbound : s.core.bank.bound = some bd) :
    idValue s 0 = BitVec.ofNat 64 bd.index ∧ idValue s 1 = BitVec.ofNat 64 bd.count ∧ idValue s 2 = bd.const ∧ idValue s 6 = 0#32 ++ bd.lid
      ∧ idValue s 7 = BitVec.ofNat 64 bd.stage ∧ idValue s 12 = bd.haltVa ∧ idValue s 5 = (bd.group.map (BitVec.ofNat 64)).getD (-1) := by
  simp [idValue, hbound, ← zeroExtend_fields]

/-- Without a launch its values are 0, and −1 for the two of an offer group (log 48). -/
theorem idValue_none {s : State} (hbound : s.core.bank.bound = none) {n : Nat} (hn : n ∈ [0, 1, 2, 6, 7, 12]) : idValue s n = 0 := by
  simp only [List.mem_cons, List.not_mem_nil, or_false] at hn
  rcases hn with rfl | rfl | rfl | rfl | rfl | rfl <;> simp [idValue, hbound]

theorem idValue_noGroup {s : State} {bd : Bound} (h : s.core.bank.bound = none ∨ (s.core.bank.bound = some bd ∧ bd.group = none)) :
    idValue s 5 = -1 ∧ idValue s 13 = -1 := by
  rcases h with hbound | ⟨hbound, hgroup⟩
  · simp [idValue, boundGroup, hbound]
  · simp [idValue, boundGroup, hbound, hgroup]

/-- The first that passes a test is the only one that does. -/
theorem find?_of_only {α : Type} {l : List α} {p : α → Bool} {x : α} (hx : x ∈ l) (hp : p x = true) (honly : ∀ y ∈ l, p y = true → y = x) :
    l.find? p = some x := by
  cases hfind : l.find? p with
  | none => exact absurd hp (List.find?_eq_none.mp hfind x hx)
  | some y => rw [honly y (List.mem_of_find?_eq_some hfind) (List.find?_some hfind)]

theorem idValue_record {s : State} {bd : Bound} {g : Group} (hbound : s.core.bank.bound = some bd) (hgroup : bd.group = some g.num)
    (hg : g ∈ s.fab.groups) (honly : ∀ h ∈ s.fab.groups, h.num = g.num → h = g) :
    idValue s 13 = BitVec.ofNat 64 (0xFFFFFD0000000000 + g.slice * 2 ^ 22 + g.home) := by
  have hfind : s.fab.groups.find? (fun x => x.num == g.num) = some g := find?_of_only hg (beq_self_eq_true _) fun h hh hnum => honly h hh (by simpa using hnum)
  have hmine : boundGroup s = some g := by simp [boundGroup, hbound, hgroup, hfind]
  show ((boundGroup s).map recordVa).getD (-1) = _
  rw [hmine]
  rfl

theorem idValue_slices {s : State} {p : Part} (hp : p ∈ s.root.parts) (hgrove : p.groves.getLsbD (groveOf s.core.num) = true)
    (honly : ∀ r ∈ s.root.parts, r.groves.getLsbD (groveOf s.core.num) = true → r = p) :
    idValue s 11 = BitVec.ofNat 64 (64 * ((List.range 96).countP fun g => p.groves.getLsbD g)) := by
  have hpart : partOfGrove s (groveOf s.core.num) = some p := find?_of_only hp hgrove honly
  show BitVec.ofNat 64 (sliceCount s) = _
  rw [sliceCount, hpart, List.countP_eq_length_filter]

/-! ### CMDQ: the push (R123, R124, R133, R215, R323) -/

theorem sentLines_issueLine (line lo hi : Nat) (dst : Bool) (s : State) : SentLines s (issueLine line lo hi dst s) := by
  unfold issueLine
  split
  · exact .refl s
  · exact .trans (t := modCore _ s) ⟨rfl, rfl, rfl, rfl, rfl, rfl⟩ (sentLines_sendBytes ..)

theorem sentLines_foldl_of {β : Type} {f : State → β → State} (hf : ∀ s x, SentLines s (f s x)) : ∀ (l : List β) (s : State), SentLines s (l.foldl f s)
  | [], s => .refl s
  | x :: l, s => (hf s x).trans (sentLines_foldl_of hf l _)

/-- At the issue of a command lines leave the L1, and nothing else changes (R215). -/
theorem sentLines_issueRange (r : Rng) (s : State) : SentLines s (issueRange r s) := by
  unfold issueRange
  split
  · exact .refl s
  · refine sentLines_foldl_of (fun s p => ?_) _ s
    split
    · exact .refl s
    · exact sentLines_issueLine ..

theorem SentLines.queue {s t : State} (h : SentLines s t) (q : Queue) : t.core.queue q = s.core.queue q := by
  rw [h.core]
  cases q <;> rfl

theorem SentLines.locks {s t : State} (h : SentLines s t) : t.core.locks = s.core.locks := by rw [h.core]

theorem SentLines.mem {s t : State} (h : SentLines s t) : t.mem = s.mem := by rw [h.state]

@[simp] theorem seq_setSeq (b : Bank) (q : Queue) (v : Word) : (b.setSeq q v).seq q = v := by cases q <;> rfl
@[simp] theorem seq_setRel (b : Bank) (q p : Queue) (v : List (BitVec 8 × Bool)) : (b.setRel q v).seq p = b.seq p := by cases q <;> cases p <;> rfl

/-- A push that neither finds its queue or the lock table full nor a cancelling release. -/
structure Pushed (q : Queue) (c : Cmd) (rs : List Rng) (t u : State) (e : Entry) : Prop where
  queue : u.core.queue q = t.core.queue q ++ [e]
  others : ∀ p, p ≠ q → u.core.queue p = t.core.queue p
  cmd : e.cmd = c
  bank : e.bank = t.core.bank.num
  seqOf : e.seq = (t.core.bank.seq q).toNat + 1
  cancelled : e.cancelled = false
  status : e.status = 0
  st : e.st = if c.otag ≠ 0 ∧ ∀ x ∈ t.core.bank.rel q, x.1 ≠ c.otag then .held else .queued
  seq : u.core.bank.seq q = t.core.bank.seq q + 1
  cx : Say.bare u.core.cx = Say.bare t.core.cx
  locks : u.core.locks = t.core.locks ++ rs.map fun r => ⟨r.lo, r.hi, r.dst, e.bank, q, e.seq, e.ord⟩
  mem : u.mem = t.mem

theorem pushCmd_pushed {q : Queue} {c : Cmd} (rs : List Rng) {t : State} (hclear : ∀ x ∈ t.core.bank.rel q, x.1 = c.otag → x.2 = false) :
    ∃ e, Pushed q c rs t (pushCmd q c rs t) e := by
  have hnever : ((t.core.bank.rel q).any fun x => x.1 == c.otag && x.2) = false := by
    simpa [List.any_eq_false] using fun a b hx ha => hclear (a, b) hx ha
  have hsent := sentLines_foldl_of (fun s r => sentLines_issueRange r s) rs t
  unfold pushCmd
  dsimp only
  rw [hnever, Bool.and_false, if_neg (by simp)]
  generalize rs.foldl (fun s r => issueRange r s) t = v at hsent
  refine ⟨_, (queue_setQueue ..).trans (congrArg (· ++ [_]) (hsent.queue q)), fun p hp => (queue_setQueue_other hp ..).trans (hsent.queue p),
    rfl, rfl, rfl, rfl, rfl, ?_, ?_, ?_, ?_, hsent.mem⟩
  · refine if_congr ?_ rfl rfl
    simp
    tauto
  · cases q <;> simp [modCore, modBank, Bank.setSeq, Bank.setRel, Bank.seq, Core.setQueue, BitVec.ofNat_add]
  · refine Eq.trans ?_ hsent.cx
    cases q <;> rfl
  · show (modBank _ (modBank _ v)).core.locks ++ _ = _
    rw [← hsent.locks]
    rfl

/-- What CMDQ does with the word that it has read. -/
def tryPush (q : Queue) (rd : RegNo) (g : Got) : State :=
  match capture g.st q (natOfBytes g.bytes) with
  | none => adv (writeX rd (-2) g.st)
  | some c =>
    match checkCmd g.st c with
    | none => adv (writeX rd (-2) g.st)
    | some rs =>
      if 32 ≤ (g.st.core.queue q).length ∨ 32 < g.st.core.locks.length + rs.length then adv (writeX rd (-1) g.st)
      else adv (writeX rd ((pushCmd q c rs g.st).core.bank.seq q) (pushCmd q c rs g.st))

section Push
variable {q : Queue} {rs1 rd : RegNo} {s : State}

theorem low5_eq_zero_iff (a : Word) : a.extractLsb' 0 5 = 0#5 ↔ a.toNat % 32 = 0 := by
  rw [← BitVec.toNat_inj]
  simp [BitVec.extractLsb'_toNat]

theorem exec_cmdq_misaligned (h : (readX s rs1).toNat % 32 ≠ 0) : exec (.cmdq q rs1 rd) s = .next (takeTrap 4 (readX s rs1) s) := by
  rw [exec_cmdq, execCmdq, cmdqStep]
  simp [low5_eq_zero_iff, h, orTrap, bind, Except.bind, throw, throwThe, MonadExceptOf.throw]

theorem exec_cmdq_aligned (h : (readX s rs1).toNat % 32 = 0) :
    exec (.cmdq q rs1 rd) s = .next (orTrap ((memLoad (readX s rs1) 32 .dflt s).map (tryPush q rd)) s) := by
  have h5 : (readX s rs1).extractLsb' 0 5 = 0 := (low5_eq_zero_iff _).mpr h
  rw [exec_cmdq, execCmdq, cmdqStep]
  simp only [bind, Except.bind, ne_eq, h5, not_true_eq_false, if_false, pure, Except.pure]
  cases memLoad (readX s rs1) 32 .dflt s with
  | error b => rfl
  | ok g =>
    simp only [Except.map, tryPush, Config.queueEntries, Config.lockEntries, Bool.or_eq_true, decide_eq_true_eq, ge_iff_le, gt_iff_lt]
    congr 2
    cases hword : capture g.st q (natOfBytes g.bytes) with
    | none => rfl
    | some c =>
      cases hcheck : checkCmd g.st c with
      | none => simp only [hcheck]
      | some rs =>
        simp only [hcheck]
        exact (apply_ite Except.ok ..).symm

section Read
variable {g : Got}

theorem tryPush_unknown (hword : capture g.st q (natOfBytes g.bytes) = none) : tryPush q rd g = adv (writeX rd (-2) g.st) := by
  rw [tryPush, hword]

variable {c : Cmd} (hword : capture g.st q (natOfBytes g.bytes) = some c)
include hword

theorem tryPush_refused (hcheck : checkCmd g.st c = none) : tryPush q rd g = adv (writeX rd (-2) g.st) := by
  rw [tryPush, hword]
  simp only [hcheck]

variable {rs : List Rng} (hcheck : checkCmd g.st c = some rs)
include hcheck

theorem tryPush_full (hfull : 32 ≤ (g.st.core.queue q).length ∨ 32 < g.st.core.locks.length + rs.length) :
    tryPush q rd g = adv (writeX rd (-1) g.st) := by
  rw [tryPush, hword]
  simp only [hcheck, if_pos hfull]

theorem tryPush_pushes (hroom : (g.st.core.queue q).length < 32) (hlocks : g.st.core.locks.length + rs.length ≤ 32) :
    tryPush q rd g = adv (writeX rd ((pushCmd q c rs g.st).core.bank.seq q) (pushCmd q c rs g.st)) := by
  rw [tryPush, hword]
  simp only [hcheck, if_neg (show ¬(32 ≤ (g.st.core.queue q).length ∨ 32 < g.st.core.locks.length + rs.length) by omega)]

end Read

end Push

/-! ### CMDQW, CMDCAN, LOOPSET and LOOPGET (R324 to R326) -/

section Counters
variable {q : Queue} {rs1 rd : RegNo} {s : State}

theorem exec_cmdqw_done (h : (readX s rs1).toNat ≤ (s.core.bank.done q).toNat ∨ (s.core.bank.seq q).toNat < (readX s rs1).toNat) :
    exec (.cmdqw q rs1 rd) s = .next (adv (writeX rd (s.core.bank.done q) s)) := by
  have h : (s.core.bank.seq q < readX s rs1 || readX s rs1 ≤ s.core.bank.done q) = true := by
    simpa [BitVec.lt_def, BitVec.le_def] using h.symm
  simp only [exec_cmdqw, execCmdqw, cmdqwStep, h, if_true, orTrap]

theorem exec_cmdqw_waits (hdone : (s.core.bank.done q).toNat < (readX s rs1).toNat) (hseq : (readX s rs1).toNat ≤ (s.core.bank.seq q).toNat) :
    exec (.cmdqw q rs1 rd) s = .next (waitFor (.cmd q (readX s rs1)) s) := by
  have h : (s.core.bank.seq q < readX s rs1 || readX s rs1 ≤ s.core.bank.done q) = false := by
    simp [BitVec.lt_def, BitVec.le_def]
    omega
  simp only [exec_cmdqw, execCmdqw, cmdqwStep, h, Bool.false_eq_true, if_false, orTrap]

/-- CMDCAN by what it finds (R325). -/
theorem exec_cmdcan_none (h : findEntry s.core q s.core.bank.num (readX s rs1).toNat = none) :
    exec (.cmdcan q rs1 rd) s = .next (adv (writeX rd (-1) s)) := by
  simp only [exec_cmdcan, execCmdcan, h]

variable {e : Entry} (h : findEntry s.core q s.core.bank.num (readX s rs1).toNat = some e)
include h

theorem exec_cmdcan_again (hcancelled : e.cancelled = true) : exec (.cmdcan q rs1 rd) s = .next (adv (writeX rd 0 s)) := by
  simp only [exec_cmdcan, execCmdcan, h, hcancelled, if_true]

theorem exec_cmdcan_late (hcancelled : e.cancelled = false) (hst : e.st = .flight ∨ e.st = .worked) :
    exec (.cmdcan q rs1 rd) s = .next (adv (writeX rd 1 s)) := by
  have hdispatched : e.dispatched = true := by rcases hst with hst | hst <;> simp [Entry.dispatched, hcancelled, hst]
  simp only [exec_cmdcan, execCmdcan, h, hcancelled, hdispatched, Bool.false_eq_true, if_false, if_true]

theorem exec_cmdcan_cancels (hcancelled : e.cancelled = false) (hst : e.st = .held ∨ e.st = .queued) :
    exec (.cmdcan q rs1 rd) s = .next (adv (writeX rd 0 (cancelAt q e.ord s))) := by
  have hdispatched : e.dispatched = false := by rcases hst with hst | hst <;> simp [Entry.dispatched, hst]
  simp only [exec_cmdcan, execCmdcan, h, hcancelled, hdispatched, Bool.false_eq_true, if_false]

end Counters

theorem loops_setLoop_self (b : Bank) (q : Queue) {l : BitVec 3} (hl : l ≠ 0) (v : W32) : (b.setLoop q l v).loops q = (b.loops q).set l.toNat v l.isLt := by
  cases q <;> simp only [Bank.setLoop, if_neg hl, Bank.loops]

theorem loops_setLoop_other (b : Bank) {q p : Queue} (hp : p ≠ q) (l : BitVec 3) (v : W32) : (b.setLoop q l v).loops p = b.loops p := by
  unfold Bank.setLoop
  split
  · rfl
  · cases q <;> cases p <;> simp [Bank.loops] at hp ⊢

/-- A loop register reads what it was given, l0 apart, and every other as before (R126). -/
theorem loop_setLoop (b : Bank) (q p : Queue) (l k : BitVec 3) (v : W32) :
    (b.setLoop q l v).loop p k = if p = q ∧ k = l ∧ l ≠ 0 then v else b.loop p k := by
  by_cases hk : k = 0
  · rw [if_neg (fun h => h.2.2 (h.2.1 ▸ hk))]
    simp [Bank.loop, hk]
  · simp only [Bank.loop, if_neg hk]
    by_cases hp : p = q
    · subst hp
      by_cases hl : l = 0
      · simp [Bank.setLoop, hl]
      · have hnum : l.toNat = k.toNat ↔ k = l := by rw [BitVec.toNat_inj]; exact eq_comm
        simp only [loops_setLoop_self b p hl, Vector.getElem_set, hnum, ne_eq, hl, not_false_eq_true, and_true, true_and]
    · simp [loops_setLoop_other b hp, hp]

end Sys2Proof.Machine
end

section
/-! PROOFS. IDGET and the queue instructions. -/

namespace Sys2Proof.Proofs
open Sys2Proof.Machine

/-- IDGET, each selector by the value that it gives. -/
theorem identityReads : Say.IdentityReads := by
  intro rd s bd
  refine ⟨fun sel hsel => exec_idget_illegal rd hsel, fun x hx => ?core, fun hbound x hx => ?bound, fun hbound sel hsel => ?none, fun hnone sel hsel => ?noGroup,
    fun n hbound hgroup => ?group, fun g hbound hgroup hg honly => exec_idget_reads rd (by decide) (idValue_record hbound hgroup hg honly),
    fun p hp hgrove honly => exec_idget_reads rd (by decide) (idValue_slices hp hgrove honly)⟩
  case core =>
    simp only [List.mem_cons, List.not_mem_nil, or_false] at hx
    rcases hx with rfl | rfl | rfl | rfl | rfl
    · exact exec_idget_reads rd (by simp) rfl
    · exact exec_idget_reads rd (by simp) rfl
    · refine exec_idget_reads rd (by simp) (show BitVec.ofNat 64 s.core.bank.num.toNat = _ from ?_)
      cases s.core.bank.num <;> rfl
    · exact exec_idget_reads rd (by simp) rfl
    · exact exec_idget_reads rd (by simp) rfl
  case bound =>
    obtain ⟨h0, h1, h2, h6, h7, h12, -⟩ := idValue_bound hbound
    simp only [List.mem_cons, List.not_mem_nil, or_false] at hx
    rcases hx with rfl | rfl | rfl | rfl | rfl | rfl
    · exact exec_idget_reads rd (by simp) h0
    · exact exec_idget_reads rd (by simp) h1
    · exact exec_idget_reads rd (by simp) h2
    · exact exec_idget_reads rd (by simp) h6
    · exact exec_idget_reads rd (by simp) h7
    · exact exec_idget_reads rd (by simp) h12
  case none =>
    simp only [List.mem_cons, List.not_mem_nil, or_false] at hsel
    refine exec_idget_reads rd ?_ (idValue_none hbound ?_) <;> rcases hsel with rfl | rfl | rfl | rfl | rfl | rfl <;> decide
  case noGroup =>
    obtain ⟨h5, h13⟩ := idValue_noGroup hnone
    simp only [List.mem_cons, List.not_mem_nil, or_false] at hsel
    rcases hsel with rfl | rfl
    · exact exec_idget_reads rd (by decide) h5
    · exact exec_idget_reads rd (by decide) h13
  case group =>
    obtain ⟨-, -, -, -, -, -, h5⟩ := idValue_bound hbound
    exact exec_idget_reads rd (by decide) (h5.trans (by rw [hgroup]; rfl))

/-- The queue instructions: CMDQ by what becomes of the word that it reads, CMDCAN by the command that it finds. -/
theorem queueInstructions : Say.QueueInstructions := by
  intro q l rs1 rd s
  refine ⟨exec_cmdq_misaligned, fun c v halign hload => ?trap, fun w t halign hload => ?wait, fun g halign hload => ?push,
    fun h => ⟨_, exec_cmdqw_done h, setsX_adv_writeX rd _ s⟩, exec_cmdqw_waits, ⟨_, exec_cmdst s q rd, setsX_adv_writeX rd _ s⟩, fun hnone => ?none,
    fun e he hmine honly => ?cancel, ⟨_, exec_loopset s q l rs1, rfl, rfl, fun p k => ?set⟩, rfl, _, exec_loopget s q l rd, ?get⟩
  case trap => rw [exec_cmdq_aligned halign, hload]; rfl
  case wait => rw [exec_cmdq_aligned halign, hload]; rfl
  case push =>
    have hexec : exec (.cmdq q rs1 rd) s = .next (tryPush q rd g) := by rw [exec_cmdq_aligned halign, hload]; rfl
    rw [hexec]
    refine ⟨fun hword => by rw [tryPush_unknown hword], fun c hword => ⟨fun hcheck => by rw [tryPush_refused hword hcheck], fun rs hcheck =>
      ⟨fun hfull => by rw [tryPush_full hword hcheck hfull], fun hroom hlocks hclear => ?_⟩⟩⟩
    obtain ⟨e, h⟩ := pushCmd_pushed rs hclear
    refine ⟨_, e, congrArg _ (tryPush_pushes hword hcheck hroom hlocks), ?_, fun p hp => ?_, h.cmd, h.bank, h.seqOf, h.cancelled, h.status, h.st, ?_, ?_, ?_, ?_⟩
    · rw [adv_writeX_queue, h.queue]
    · rw [adv_writeX_queue, h.others p hp]
    · rw [adv_core_bank, writeX_bank, h.seq]
    · rw [adv_writeX_cx, adv_writeX_cx, h.seq, bare_retireX, h.cx, ← bare_retireX]
    · rw [adv_writeX_locks, h.locks]
    · rw [adv_mem, writeX_mem, h.mem]
  case none =>
    refine ⟨_, exec_cmdcan_none (List.find?_eq_none.mpr fun e he => ?_), setsX_adv_writeX rd _ s⟩
    simpa [and_assoc] using hnone e he
  case cancel =>
    have hfind : findEntry s.core q s.core.bank.num (readX s rs1).toNat = some e :=
      find?_of_only he (by simpa [and_assoc] using hmine) fun x hx hp => honly x hx (by simpa [and_assoc] using hp)
    refine ⟨fun hc hst => ⟨_, exec_cmdcan_late hfind hc hst, setsX_adv_writeX rd _ s⟩, fun hc => ⟨_, exec_cmdcan_again hfind hc, setsX_adv_writeX rd _ s⟩,
      fun hc hst => ⟨_, exec_cmdcan_cancels hfind hc hst, ?_, fun k => ?_, ?_, ?_⟩⟩
    · rw [adv_writeX_queue, queue_cancelAt]
    · rw [adv_writeX_locks, mem_locks_cancelAt]
    · rw [adv_writeX_cx, adv_writeX_cx, (onlyQueues_cancelAt q e.ord s).cx]
    · rw [adv_mem, writeX_mem, (onlyQueues_cancelAt q e.ord s).mem]
  case set =>
    rw [adv_core_bank, modBank_core_bank, loop_setLoop, BitVec.truncate_eq_setWidth, BitVec.setWidth_eq_extractLsb' (by decide)]
  case get =>
    have hwide : (s.core.bank.loop q l).zeroExtend 64 = 0#32 ++ s.core.bank.loop q l := zeroExtend_fields _
    rw [← hwide]
    exact setsX_adv_writeX rd _ s

/-- Settles O30: IDGET gives what its selector names, and a queue instruction changes what its command does. -/
theorem identityAndQueueInstructions : Obligations.IdentityAndQueueInstructions := ⟨identityReads, queueInstructions⟩

end Sys2Proof.Proofs
end

section
/-! SUPPORT. The sequencer of a queue (R127 to R129, R134): what its dispatch does to the entries and the locks, and what keeps a command back. -/

namespace Sys2Proof.Machine

/-! ### Setting the park bit -/

@[simp] theorem queue_setParked (c : Core) (q p : Queue) (v : Bool) : (c.setParked q v).queue p = c.queue p := by cases q <;> cases p <;> rfl
@[simp] theorem setParked_locks (c : Core) (q : Queue) (v : Bool) : (c.setParked q v).locks = c.locks := by cases q <;> rfl
@[simp] theorem setParked_cx (c : Core) (q : Queue) (v : Bool) : (c.setParked q v).cx = c.cx := by cases q <;> rfl
@[simp] theorem parked_setParked (c : Core) (q : Queue) (v : Bool) : (c.setParked q v).parked q = v := by cases q <;> rfl

/-! ### Where the entries of a queue come from -/

theorem mem_queue_modEntry {q : Queue} {ord : Nat} {f : Entry → Entry} {s : State} {z : Entry} (hz : z ∈ (modEntry q ord f s).core.queue q) :
    ∃ y ∈ s.core.queue q, z = if y.ord = ord then f y else y := by
  rw [queue_modEntry] at hz
  obtain ⟨y, hy, rfl⟩ := List.mem_map.mp hz
  exact ⟨y, hy, rfl⟩

/-- A chain release keeps every entry, or lets one that is held go (R130). -/
theorem mem_queue_sendChain {e z : Entry} {q : Queue} {s : State} (hz : z ∈ (sendChain e false s).core.queue q) :
    z ∈ s.core.queue q ∨ ∃ y ∈ s.core.queue q, z = { y with st := .queued } ∧ ∃ x ∈ s.core.queue q, x.st = .held ∧ x.ord = y.ord := by
  unfold sendChain releaseTag at hz
  split at hz
  case isFalse => exact .inl hz
  split at hz
  case h_2 => exact .inl hz
  next p _ =>
  split at hz
  case h_2 =>
    refine .inl ?_
    revert hz
    unfold modCore Core.modBankOf
    dsimp only
    split <;> cases q <;> exact id
  next x hfind =>
  rw [if_neg Bool.false_ne_true] at hz
  by_cases hp : q = p
  · subst hp
    obtain ⟨y, hy, rfl⟩ := mem_queue_modEntry hz
    split
    next hord =>
      have hheld := List.find?_some hfind
      simp only [Bool.and_eq_true, beq_iff_eq] at hheld
      exact .inr ⟨y, hy, rfl, x, List.mem_of_find?_eq_some hfind, hheld.1.1.2, hord.symm⟩
    next => exact .inl hy
  · exact .inl (queue_modEntry_other hp .. ▸ hz)

/-- A chain release that cancels nothing drops no lock. -/
theorem sendChain_locks (e : Entry) (s : State) : (sendChain e false s).core.locks = s.core.locks := by
  unfold sendChain releaseTag
  split
  · split
    · split
      · exact modEntry_locks ..
      · unfold modCore Core.modBankOf
        dsimp only
        split <;> rfl
    · rfl
  · rfl

/-! ### The source-released event (R129, R135) -/

/-- The entry with its source released; for all but a matrix command the operands are consumed with it. -/
def markReleased (q : Queue) (e : Entry) (s : State) : State :=
  modEntry q e.ord (fun x => { x with released := true, consumed := x.consumed || !decide (e.cmd.opc.toNat < 0x40) }) s

section Source
variable {q : Queue} {e : Entry} (hopc : e.cmd.opc ≠ 0x41)
include hopc

/-- The event marks the entry, drops its source locks and sends its chain. -/
theorem sourceReleased_eq (s : State) : sourceReleased q e s
    = if e.cmd.ev = 2 || (e.cmd.ev = 3 && !decide (e.cmd.opc.toNat < 0x40)) then sendChain e false (dropSrcLocks e.ord (markReleased q e s))
      else dropSrcLocks e.ord (markReleased q e s) := by
  unfold sourceReleased
  dsimp only
  rw [if_neg hopc]
  rfl

theorem onlyQueues_sourceReleased (s : State) : OnlyQueues s (sourceReleased q e s) := by
  have hmark : OnlyQueues s (dropSrcLocks e.ord (markReleased q e s)) := (onlyQueues_modEntry ..).trans (onlyQueues_dropSrcLocks ..)
  rw [sourceReleased_eq hopc]
  split
  · exact hmark.trans (onlyQueues_sendChain ..)
  · exact hmark

theorem mem_locks_sourceReleased {s : State} {k : Lock} :
    k ∈ (sourceReleased q e s).core.locks ↔ k ∈ s.core.locks ∧ (k.ord ≠ e.ord ∨ k.dst = true) := by
  rw [sourceReleased_eq hopc]
  split
  · rw [sendChain_locks, mem_locks_dropSrcLocks, markReleased, modEntry_locks]
  · rw [mem_locks_dropSrcLocks, markReleased, modEntry_locks]

/-- The event marks the command; an entry held in the same queue may go. -/
theorem mem_queue_sourceReleased {s : State} {z : Entry} (hz : z ∈ (sourceReleased q e s).core.queue q) :
    ∃ y ∈ s.core.queue q, z.ord = y.ord ∧ z.loose = y.loose ∧ (y.ord = e.ord → z.released = true)
      ∧ (z.st = y.st ∨ ∃ x ∈ s.core.queue q, x.st = .held ∧ x.ord = y.ord) := by
  rw [sourceReleased_eq hopc] at hz
  have hmarked : ∀ z ∈ (markReleased q e s).core.queue q,
      ∃ y ∈ s.core.queue q, z.ord = y.ord ∧ z.loose = y.loose ∧ z.st = y.st ∧ (y.ord = e.ord → z.released = true) := by
    intro z hz
    obtain ⟨y, hy, rfl⟩ := mem_queue_modEntry hz
    refine ⟨y, hy, ?_⟩
    split
    · exact ⟨rfl, rfl, rfl, fun _ => rfl⟩
    · exact ⟨rfl, rfl, rfl, fun h => absurd h ‹_›⟩
  split at hz
  · rcases mem_queue_sendChain hz with hz | ⟨w, hw, rfl, x, hx, hheld, hord⟩
    · obtain ⟨y, hy, hyord, hloose, hst, hrel⟩ := hmarked z hz
      exact ⟨y, hy, hyord, hloose, hrel, .inl hst⟩
    · obtain ⟨y, hy, hyord, hloose, -, hrel⟩ := hmarked w hw
      obtain ⟨v, hv, hvord, -, hvst, -⟩ := hmarked x hx
      exact ⟨y, hy, hyord, hloose, hrel, .inr ⟨v, hv, by rw [← hvst, hheld], by rw [← hvord, hord, hyord]⟩⟩
  · obtain ⟨y, hy, hyord, hloose, hst, hrel⟩ := hmarked z hz
    exact ⟨y, hy, hyord, hloose, hrel, .inl hst⟩

end Source

/-! ### What a free run leaves unspecified (R128) -/

/-- An entry with what it reads of conflicts noted. -/
def loosened (ps : List (Lock × Lock)) (x : Entry) : Entry := { x with loose := x.loose ++ ps.filterMap (clashOf x.ord) }

theorem loosened_nil (x : Entry) : loosened [] x = x := by simp [loosened]

theorem queue_loosen (q : Queue) (ps : List (Lock × Lock)) (s : State) : (loosen q ps s).core.queue q = (s.core.queue q).map (loosened ps) := by
  unfold loosen
  split
  next h =>
    rw [List.isEmpty_iff.mp h, List.map_congr_left fun x _ => loosened_nil x, List.map_id'']
    exact fun _ => rfl
  next => exact queue_setQueue ..

theorem onlyQueues_loosen (q : Queue) (ps : List (Lock × Lock)) (s : State) : OnlyQueues s (loosen q ps s) := by
  unfold loosen
  split
  · exact .refl s
  · cases q <;> exact ⟨rfl, rfl, rfl, rfl⟩

theorem loosen_locks (q : Queue) (ps : List (Lock × Lock)) (s : State) : (loosen q ps s).core.locks = s.core.locks := by
  unfold loosen
  split
  · rfl
  · exact setQueue_locks ..

theorem mem_clashes {c : Core} {q : Queue} {e : Entry} {x y : Lock} (hx : x ∈ c.locks) (hy : y ∈ c.locks) (hord : y.ord = e.ord)
    (hlt : x.ord < e.ord) (hq : x.q = q) (hlo : x.lo < y.hi) (hhi : y.lo < x.hi) (hdst : x.dst ≠ y.dst)
    (hheld : x.dst = true → ((entryByOrd c x.ord).map (·.landed)).getD true = false) : (x, y) ∈ clashes c q e := by
  simp only [clashes, lockRngs, List.mem_flatMap, List.mem_map, List.mem_filter, beq_iff_eq, Bool.and_eq_true, decide_eq_true_eq, bne_iff_ne,
    Bool.not_eq_true', Bool.and_eq_false_imp]
  exact ⟨y, ⟨hy, hord⟩, x, ⟨hx, ⟨⟨⟨⟨hlt, hq⟩, hlo⟩, hhi⟩, hdst⟩, hheld⟩, rfl⟩

theorem mem_loosened {ps : List (Lock × Lock)} {x y : Lock} {z : Entry} (hp : (x, y) ∈ ps)
    (hreads : (x.ord = z.ord ∧ y.dst = true) ∨ (y.ord = z.ord ∧ x.dst = true)) : (max x.lo y.lo, min x.hi y.hi) ∈ (loosened ps z).loose := by
  refine List.mem_append_right _ (List.mem_filterMap.mpr ⟨(x, y), hp, ?_⟩)
  simp [clashOf, hreads]

/-! ### The dispatch (R126 to R129) -/

/-- What a dispatched command is doing: a count of 0 leaves it no work. -/
def startSt (e : Entry) : EntrySt := if e.cmd.reps = 0 then .worked else .flight

/-- The dispatch before its source-released event. -/
def dispatched (q : Queue) (e : Entry) (s : State) : State :=
  modCore (fun c => c.setParked q e.cmd.sw) (modEntry q e.ord (fun x => { x with st := startSt e }) (loosen q (clashes s.core q e) s))

theorem dispatchEntry_eq {q : Queue} {e : Entry} {s : State} (hclear : e.cmd.opc ≠ 1 ∧ e.cmd.opc ≠ 2 ∨ e.cmd.reps ≠ 0) : dispatchEntry q e s
    = if noSource e.cmd.opc.toNat && e.cmd.reps != 0 then sourceReleased q e (dispatched q e s) else dispatched q e s := by
  have hno : clearFirst e s = s := by
    unfold clearFirst
    refine if_neg fun h => ?_
    simp only [Bool.and_eq_true, Bool.or_eq_true, decide_eq_true_eq, beq_iff_eq] at h
    rcases hclear with ⟨h1, h2⟩ | hreps
    · exact h.1.2.elim h1 h2
    · exact hreps h.1.1
  rw [dispatchEntry, hno]
  rfl

theorem not_copySend_of_noSource {e : Entry} (h : noSource e.cmd.opc.toNat = true) : e.cmd.opc ≠ 0x41 := by
  intro hopc
  rw [hopc] at h
  exact absurd h (by decide)

section Dispatched
variable (q : Queue) (e : Entry) (s : State)

theorem queue_dispatched : (dispatched q e s).core.queue q
    = (s.core.queue q).map fun x => if x.ord = e.ord then { loosened (clashes s.core q e) x with st := startSt e } else loosened (clashes s.core q e) x := by
  rw [dispatched, modCore_core, queue_setParked, queue_modEntry, queue_loosen, List.map_map]
  rfl

theorem dispatched_locks : (dispatched q e s).core.locks = s.core.locks := by
  rw [dispatched, modCore_core, setParked_locks, modEntry_locks, loosen_locks]

theorem dispatched_frame : (dispatched q e s).mem = s.mem ∧ (dispatched q e s).core.cx = s.core.cx ∧ (dispatched q e s).core.parked q = e.cmd.sw := by
  have h := (onlyQueues_loosen q (clashes s.core q e) s).trans (onlyQueues_modEntry q e.ord (fun x => { x with st := startSt e }) _)
  refine ⟨h.mem, ?_, ?_⟩
  · rw [dispatched, modCore_core, setParked_cx, h.cx]
  · rw [dispatched, modCore_core, parked_setParked]

theorem mem_queue_dispatched {z : Entry} (hz : z ∈ (dispatched q e s).core.queue q) :
    ∃ y ∈ s.core.queue q, z.ord = y.ord ∧ z.loose = (loosened (clashes s.core q e) y).loose ∧ (y.ord = e.ord → z.st = startSt e) := by
  rw [queue_dispatched] at hz
  obtain ⟨y, hy, rfl⟩ := List.mem_map.mp hz
  refine ⟨y, hy, ?_⟩
  split
  · exact ⟨rfl, rfl, fun _ => rfl⟩
  · exact ⟨rfl, rfl, fun h => absurd h ‹_›⟩

end Dispatched

section Dispatch
variable {q : Queue} {e : Entry} {s : State} (hclear : e.cmd.opc ≠ 1 ∧ e.cmd.opc ≠ 2 ∨ e.cmd.reps ≠ 0)
include hclear

theorem dispatchEntry_frame :
    (dispatchEntry q e s).mem = s.mem ∧ (dispatchEntry q e s).core.cx = s.core.cx ∧ (dispatchEntry q e s).core.parked q = e.cmd.sw := by
  obtain ⟨hmem, hcx, hpark⟩ := dispatched_frame q e s
  rw [dispatchEntry_eq hclear]
  split
  next hsrc =>
    have h := onlyQueues_sourceReleased (q := q) (not_copySend_of_noSource (Bool.and_elim_left hsrc)) (dispatched q e s)
    exact ⟨h.mem.trans hmem, h.cx.trans hcx, (h.parked q).trans hpark⟩
  next => exact ⟨hmem, hcx, hpark⟩

/-- Every entry after the dispatch: the dispatched one at work and, without a source, released; its reads of conflicts noted. -/
theorem mem_queue_dispatchEntry {z : Entry} (hz : z ∈ (dispatchEntry q e s).core.queue q) :
    ∃ y ∈ s.core.queue q, z.ord = y.ord ∧ z.loose = (loosened (clashes s.core q e) y).loose ∧ (y.ord = e.ord → z.st = startSt e)
      ∧ (noSource e.cmd.opc.toNat = true → e.cmd.reps ≠ 0 → y.ord = e.ord → z.released = true) := by
  rw [dispatchEntry_eq hclear] at hz
  split at hz
  next hsrc =>
    simp only [Bool.and_eq_true, bne_iff_ne] at hsrc
    obtain ⟨w, hw, hzord, hzloose, hrel, hst⟩ := mem_queue_sourceReleased (not_copySend_of_noSource hsrc.1) hz
    obtain ⟨y, hy, hyord, hyloose, hyst⟩ := mem_queue_dispatched q e s hw
    refine ⟨y, hy, hzord.trans hyord, hzloose.trans hyloose, fun h => ?_, fun _ _ h => hrel (hyord.trans h)⟩
    rcases hst with hst | ⟨x, hx, hheld, hxord⟩
    · exact hst.trans (hyst h)
    · obtain ⟨v, -, hvord, -, hvst⟩ := mem_queue_dispatched q e s hx
      have hstart : x.st = startSt e := hvst (by rw [← hvord, hxord, hyord, h])
      rw [hheld, startSt, if_neg hsrc.2] at hstart
      exact absurd hstart (by decide)
  next hsrc =>
    obtain ⟨y, hy, hyord, hyloose, hyst⟩ := mem_queue_dispatched q e s hz
    exact ⟨y, hy, hyord, hyloose, hyst, fun hn hr _ => absurd (by simp [hn, hr]) hsrc⟩

theorem locks_dispatchEntry (hsrc : noSource e.cmd.opc.toNat = true) (hreps : e.cmd.reps ≠ 0) {k : Lock} (hk : k ∈ (dispatchEntry q e s).core.locks) :
    k ∈ s.core.locks ∧ (k.ord ≠ e.ord ∨ k.dst = true) := by
  rw [dispatchEntry_eq hclear, if_pos (by simp [hsrc, hreps])] at hk
  simpa only [mem_locks_sourceReleased (not_copySend_of_noSource hsrc), dispatched_locks] using hk

/-- Without a conflict in a free run and with its source still to read, the dispatch changes the state of its entry alone. -/
theorem queue_dispatchEntry (hclash : clashes s.core q e = []) (hsrc : noSource e.cmd.opc.toNat = false ∨ e.cmd.reps = 0) :
    (dispatchEntry q e s).core.queue q = (s.core.queue q).map fun x => if x.ord = e.ord then { x with st := startSt e } else x := by
  rw [dispatchEntry_eq hclear, if_neg (by rcases hsrc with h | h <;> simp [h]), queue_dispatched, hclash]
  simp only [loosened_nil]

end Dispatch

theorem exec_sequencerDispatch_goes {q : Queue} {e : Entry} {s : State} (hhead : (s.core.queue q).find? Entry.waiting = some e)
    (hopc : e.cmd.opc ≠ 0xC3) (hmay : mayDispatch s.core q e = true) : exec (.sequencerDispatch q) s = .next (dispatchEntry q e s) := by
  rw [exec_sequencerDispatch, execSequencerDispatch, seqHead, hhead]
  exact if_pos (by rw [hmay, Bool.and_true, bne_iff_ne]; exact hopc)

theorem exec_sequencerDispatch_waits {q : Queue} {e : Entry} {s : State} (hhead : (s.core.queue q).find? Entry.waiting = some e)
    (hmay : mayDispatch s.core q e = false) : exec (.sequencerDispatch q) s = .next s := by
  rw [exec_sequencerDispatch, execSequencerDispatch, seqHead, hhead]
  simp [hmay]

/-- A destination that an earlier command still holds keeps a command back outside a free run (R128, R134). -/
theorem mayDispatch_held {c : Core} {q : Queue} {e w : Entry} {x y : Lock} (hx : x ∈ c.locks) (hy : y ∈ c.locks) (hord : y.ord = e.ord)
    (hlt : x.ord < e.ord) (hlo : x.lo < y.hi) (hhi : y.lo < x.hi) (hdst : x.dst = true) (hw : entryByOrd c x.ord = some w)
    (hland : w.landed = false) (hrun : ∀ z ∈ c.queue q, e.ord ≤ z.ord → z.cmd.sw = false) : mayDispatch c q e = false := by
  have hfree : ((c.queue q).any fun x => x.cmd.sw && decide (x.ord ≥ e.ord)) = false := by
    simp only [List.any_eq_false, Bool.and_eq_true, decide_eq_true_eq, not_and]
    exact fun z hz hsw hge => absurd hsw (by simp [hrun z hz hge])
  cases hinner : e.inner with
  | some _ => simp [mayDispatch, hinner]
  | none =>
    have hconf : conflicts c q e false = true := by
      simp only [conflicts, List.any_eq_true]
      refine ⟨x, hx, ?_⟩
      have hr : y ∈ lockRngs c e.ord := List.mem_filter.mpr ⟨hy, by simp [hord]⟩
      simp only [hinner, hlt, hdst, hw, hland, Option.isSome_none, decide_true, Bool.false_and, Bool.not_false, Bool.and_self, Bool.true_or,
        Bool.true_and, Bool.and_true, Option.map_some, Option.getD_some, List.any_eq_true, Bool.and_eq_true, decide_eq_true_eq]
      exact ⟨y, hr, hlo, hhi⟩
    simp only [mayDispatch, hfree, hconf, Bool.not_true, Bool.and_false]

end Sys2Proof.Machine
end

section
/-! SUPPORT. What a write of an engine leaves of memory, whatever blocks are listed: every byte but the metadata (R147, R149, R154, R155, R158, R377). -/

namespace Sys2Proof.Machine

/-! ### Moves that write at most bark metadata -/

/-- No byte of the bark metadata. -/
def OffMeta (a : Nat) : Prop := ∀ b, a ≠ metaKey b ∧ a ≠ metaKey b + 1

/-- Memory reads as before but for the metadata; below S3 with no block listed it is the same. -/
structure KeepsBytes (s t : State) : Prop where
  pkg : t.pkg = s.pkg
  listed : s.ms.poisonList = [] → t.ms.poisonList = []
  exact : s.pkg.sl ≠ 3 → s.ms.poisonList = [] → t.mem = s.mem
  bytes : Memory.wf s.mem = true → Memory.wf t.mem = true ∧ ∀ a, OffMeta a → memGet t.mem a = memGet s.mem a

theorem KeepsBytes.refl (s : State) : KeepsBytes s s := ⟨rfl, id, fun _ _ => rfl, fun h => ⟨h, fun _ _ => rfl⟩⟩

theorem KeepsBytes.trans {s t u : State} (h : KeepsBytes s t) (k : KeepsBytes t u) : KeepsBytes s u where
  pkg := k.pkg.trans h.pkg
  listed := k.listed ∘ h.listed
  exact := fun hsl hlist => (k.exact (h.pkg ▸ hsl) (h.listed hlist)).trans (h.exact hsl hlist)
  bytes := fun hwf => by
    obtain ⟨hwf', hg⟩ := h.bytes hwf
    obtain ⟨hwf'', hk⟩ := k.bytes hwf'
    exact ⟨hwf'', fun a ha => (hk a ha).trans (hg a ha)⟩

/-- A move that leaves memory and the poison list. -/
theorem keepsBytes_of {s t : State} (hpkg : t.pkg = s.pkg) (hlist : t.ms.poisonList = s.ms.poisonList) (hmem : t.mem = s.mem) : KeepsBytes s t :=
  ⟨hpkg, hlist.trans, fun _ _ => hmem, fun hwf => by rw [hmem]; exact ⟨hwf, fun _ _ => rfl⟩⟩

/-- A move that is made only where a block is listed. -/
theorem keepsBytes_of_listed {s t : State} (hlist : s.ms.poisonList ≠ []) (hpkg : t.pkg = s.pkg)
    (hbytes : Memory.wf s.mem = true → Memory.wf t.mem = true ∧ ∀ a, OffMeta a → memGet t.mem a = memGet s.mem a) : KeepsBytes s t :=
  ⟨hpkg, fun h => absurd h hlist, fun _ h => absurd h hlist, hbytes⟩

theorem keepsBytes_foldl {β : Type} {f : State → β → State} (hf : ∀ s x, KeepsBytes s (f s x)) : ∀ (l : List β) (s : State), KeepsBytes s (l.foldl f s)
  | [], s => .refl s
  | x :: l, s => (hf s x).trans (keepsBytes_foldl hf l _)

theorem bytes_setMeta (block v : Nat) {s : State} (hwf : Memory.wf s.mem = true) :
    Memory.wf (setMeta block v s).mem = true ∧ ∀ a, OffMeta a → memGet (setMeta block v s).mem a = memGet s.mem a := by
  refine ⟨wf_memWrite _ _ hwf, fun a ha => memGet_memWrite_other _ hwf ?_⟩
  obtain ⟨h0, h1⟩ := ha block
  simp only [bytesOfNat, List.length_cons, List.length_nil]
  omega

theorem keepsBytes_noteCode (line code : Nat) (s : State) : KeepsBytes s (noteCode line code s) := by
  unfold noteCode
  split
  · exact .refl s
  next hsl => exact ⟨rfl, id, fun h => absurd (by simpa using hsl) h, fun hwf => bytes_setMeta _ _ hwf⟩

theorem bytes_foldl_setMeta (v : Nat) : ∀ (bs : List Nat) (s : State), Memory.wf s.mem = true → (bs.foldl (fun s b => setMeta b v s) s).pkg = s.pkg
    ∧ Memory.wf (bs.foldl (fun s b => setMeta b v s) s).mem = true
    ∧ ∀ a, OffMeta a → memGet (bs.foldl (fun s b => setMeta b v s) s).mem a = memGet s.mem a
  | [], _, hwf => ⟨rfl, hwf, fun _ _ => rfl⟩
  | b :: bs, s, hwf => by
    obtain ⟨hwf', hb⟩ := bytes_setMeta b v hwf
    obtain ⟨hpkg, hwf'', hbs⟩ := bytes_foldl_setMeta v bs (setMeta b v s) hwf'
    exact ⟨hpkg, hwf'', fun a ha => (hbs a ha).trans (hb a ha)⟩

theorem bytes_loseSector (block : Nat) {s : State} (hwf : Memory.wf s.mem = true) :
    Memory.wf (loseSector block s).mem = true ∧ ∀ a, OffMeta a → memGet (loseSector block s).mem a = memGet s.mem a :=
  (bytes_foldl_setMeta 0xFFFF ((sectorBlocks block).filter fun b => !listed s b) s hwf).2

theorem keepsBytes_markWritten (line : Nat) (s : State) : KeepsBytes s (markWritten line s) := by
  by_cases h : s.ms.poisonList = []
  · have hmark : markWritten line s = modMs (fun m => { m with poisonList := [] }) s := by simp [markWritten, h]
    rw [hmark]
    exact keepsBytes_of rfl h.symm rfl
  · unfold markWritten
    dsimp only
    split
    · refine keepsBytes_of_listed h (apart_loseSector ..).pkg fun hwf => ?_
      obtain ⟨hwf', hmeta⟩ := bytes_setMeta (blockOf line) 0x7777 (s := modMs _ s) hwf
      obtain ⟨hwf'', hlose⟩ := bytes_loseSector (blockOf line) hwf'
      exact ⟨hwf'', fun a ha => (hlose a ha).trans (hmeta a ha)⟩
    · exact keepsBytes_of_listed h rfl fun hwf => ⟨hwf, fun _ _ => rfl⟩

theorem keepsBytes_leaveSlice (x y : Slice) (s : State) : KeepsBytes s (leaveSlice x y s) := by
  refine keepsBytes_foldl (fun s l => ?_) _ s
  have hnote : KeepsBytes s (if l.bark && l.code = 15 && x.num = homeSlice (l.line * 128) then noteCode l.line 15 s else s) := by
    split
    · exact keepsBytes_noteCode ..
    · exact .refl s
  dsimp only
  generalize (if l.bark && l.code = 15 && x.num = homeSlice (l.line * 128) then noteCode l.line 15 s else s) = u at hnote ⊢
  refine hnote.trans ?_
  split
  · exact .refl _
  · split
    · exact .refl _
    · split
      · exact keepsBytes_markWritten ..
      · split
        · exact .refl _
        · exact keepsBytes_of rfl rfl rfl

theorem keepsBytes_setSlice (x y : Slice) (s : State) : KeepsBytes s (setSlice x y s) :=
  (keepsBytes_of (s := s) (t := modSlice x.num (fun _ => y) s) rfl rfl rfl).trans (keepsBytes_leaveSlice ..)

/-- A fill, or the wait for room. -/
theorem keepsBytes_fillMiss (slice : Nat) (m : Miss) (s : State) : KeepsBytes s ((fillMiss slice m s).getD (waitRoom s)) := by
  unfold fillMiss
  dsimp only
  cases installLine s slice (getSlice s slice) m with
  | none => exact keepsBytes_of rfl rfl rfl
  | some y =>
    exact (keepsBytes_setSlice ..).trans (keepsBytes_foldl (f := fun s w => answer slice m.line w s) (fun _ _ => keepsBytes_of rfl rfl rfl) _ _)

theorem keepsBytes_fetchNow (line : Nat) (how : Placing) (s : State) : KeepsBytes s (fetchNow line how s) := by
  unfold fetchNow
  dsimp only
  split
  · exact .refl s
  · split
    · exact keepsBytes_fillMiss ..
    · split
      · exact keepsBytes_of rfl rfl rfl
      · exact keepsBytes_fillMiss ..

theorem keepsBytes_recode (line : Nat) (how : Placing) (fetched : Bool) (s : State) : KeepsBytes s (recode line how fetched s) := by
  unfold recode
  dsimp only
  split
  · exact .refl s
  · split
    · exact keepsBytes_of rfl rfl rfl
    · exact keepsBytes_setSlice ..

theorem keepsBytes_wholeLine (line : Nat) (s : State) : KeepsBytes s (wholeLine line s) := by
  unfold wholeLine
  dsimp only
  split
  · exact (keepsBytes_of (s := s) (t := { s with poison := s.poison.filter (fun l => l != line) }) rfl rfl rfl).trans (keepsBytes_markWritten ..)
  · exact keepsBytes_of rfl rfl rfl

theorem keepsBytes_countFrame (line die : Nat) (write : Bool) (s : State) : KeepsBytes s (countFrame line die write s) := by
  unfold countFrame
  split
  · exact .refl s
  · exact keepsBytes_of rfl rfl rfl

/-! ### A write of one line -/

/-- The bytes of a write have been written, and nothing else of memory but the metadata. -/
theorem KeepsBytes.wrote {s u t : State} (hbefore : KeepsBytes s u) (k : Nat) (bs : List Byte) (hafter : KeepsBytes { u with mem := memWrite u.mem k bs } t) :
    Say.Wrote (memWrite s.mem k bs) s t := by
  refine ⟨fun hsl hlist => ?_, fun hwf a ha => ?_⟩
  · rw [hafter.exact (hbefore.pkg ▸ hsl) (hbefore.listed hlist), hbefore.exact hsl hlist]
  · obtain ⟨hwf', hsame⟩ := hbefore.bytes hwf
    rw [(hafter.bytes (wf_memWrite bs k hwf')).2 a ha, memGet_memWrite bs k a hwf', memGet_memWrite bs k a hwf, hsame a ha]

theorem wrote_performNow (how : Placing) (k : Nat) (bs : List Byte) (s : State) : Say.Wrote (memWrite s.mem k bs) s (performNow how k bs s) := by
  refine (keepsBytes_fetchNow (lineOf k) how s).wrote k bs ?_
  unfold performNow performFrom writeLine
  dsimp only
  generalize fetchNow (lineOf k) how s = u
  have hdisturb : KeepsBytes { u with mem := memWrite u.mem k bs } (disturb (lineOf k) { u with mem := memWrite u.mem k bs }) := keepsBytes_of rfl rfl rfl
  refine hdisturb.trans ?_
  generalize disturb (lineOf k) { u with mem := memWrite u.mem k bs } = v
  have hwhole : KeepsBytes v (if decide (bs.length = 128) = true then wholeLine (lineOf k) v else v) := by
    split
    · exact keepsBytes_wholeLine ..
    · exact .refl v
  refine hwhole.trans ?_
  generalize (if decide (bs.length = 128) = true then wholeLine (lineOf k) v else v) = w
  split
  · exact .refl _
  · refine KeepsBytes.trans ?_ (keepsBytes_recode ..)
    split
    · exact (keepsBytes_countFrame ..).trans (keepsBytes_noteCode ..)
    · exact keepsBytes_countFrame ..

/-- What a write leaves depends on memory, the speed grade and the poison list alone. -/
theorem wrote_congr {m : List Host.Cell} {s s' t t' : State} (h : Say.Wrote m s t) (hpkg : s'.pkg = s.pkg) (hlist : s'.ms.poisonList = s.ms.poisonList)
    (hmem : s'.mem = s.mem) (hmem' : t'.mem = t.mem) : Say.Wrote m s' t' := by
  rw [Say.Wrote, hpkg, hlist, hmem, hmem']
  exact h

/-! ### Eight bytes of an engine (R375, R377) -/

theorem chunksF_oneLine {k : Nat} {bs : List Byte} (hne : bs ≠ []) (hfit : k % 128 + bs.length ≤ 128) : chunksF bs.length k bs = [(k, bs)] := by
  cases bs with
  | nil => exact absurd rfl hne
  | cons b bs =>
    have hlen : (b :: bs).length ≤ 128 - k % 128 := by omega
    rw [List.length_cons, chunksF, List.take_of_length_le hlen, List.drop_of_length_le hlen]
    cases bs.length <;> rfl

/-- A write within one line, none of which is held, is performed. -/
theorem performHow_oneLine {s : State} {k : Nat} {bs : List Byte} (how : Placing) (hne : bs ≠ []) (hfit : k % 128 + bs.length ≤ 128)
    (hheld : lineHeld s (lineOf k) = false) : performHow how k bs s = performNow how k bs s := by
  rw [performHow, chunksF_oneLine hne hfit]
  simp [performChunk, hheld]

theorem lineParts_doubleword {va : Word} (h : va.toNat % 8 = 0) : lineParts va 8 = [(0, 8)] := by
  have hcount : (va.toNat % 128 + 8 + 127) / 128 = 1 := by omega
  have hpart : linePart (va.toNat % 128) 8 0 = some (0, 8) := by
    have hfit : min 8 (128 - va.toNat % 128) = 8 := by omega
    simp [linePart, hfit]
  rw [lineParts_eq, hcount]
  simp [hpart]

end Sys2Proof.Machine
end

section
/-! SUPPORT. The retirement of the oldest command of a queue: what leaves, what is counted, stamped, recorded and released (R125, R129 to R131, R252, R375). -/

namespace Sys2Proof.Machine

/-! ### What happens beside the queues -/

/-- Nothing changes but banks and contexts, and of these neither a completion counter nor the current context's records. -/
structure Beside (s t : State) : Prop where
  state : t = { s with core := { s.core with cx := t.core.cx, bank := t.core.bank, shadow := t.core.shadow } }
  done : ∀ b p, (t.core.bankOf b).done p = (s.core.bankOf b).done p
  recs : t.core.cx.recs = s.core.cx.recs

theorem Beside.trans {s t u : State} (h : Beside s t) (k : Beside t u) : Beside s u where
  state := k.state.trans (by rw [h.state])
  done := fun b p => (k.done b p).trans (h.done b p)
  recs := k.recs.trans h.recs

theorem Beside.refl (s : State) : Beside s s := ⟨rfl, fun _ _ => rfl, rfl⟩

section
variable {s t : State} (h : Beside s t)
include h
theorem Beside.queue (p : Queue) : t.core.queue p = s.core.queue p := by
  rw [h.state]
  cases p <;> rfl
theorem Beside.locks : t.core.locks = s.core.locks := by rw [h.state]
theorem Beside.mem : t.mem = s.mem := by rw [h.state]
theorem Beside.ms : t.ms = s.ms := by rw [h.state]
theorem Beside.pkg : t.pkg = s.pkg := by rw [h.state]
end

theorem done_modBankOf {f : Bank → Bank} (hnum : ∀ k, (f k).num = k.num) (hdone : ∀ k q, (f k).done q = k.done q) (b c : Bool) (k : Core) (q : Queue) :
    ((k.modBankOf b f).bankOf c).done q = (k.bankOf c).done q := by
  unfold Core.modBankOf Core.bankOf
  split
  · rw [hnum]
    split
    · exact hdone ..
    · rfl
  · split
    · rfl
    · exact hdone ..

theorem beside_modBankOf {f : Bank → Bank} (hnum : ∀ k, (f k).num = k.num) (hdone : ∀ k q, (f k).done q = k.done q) (b : Bool) (s : State) :
    Beside s (modCore (Core.modBankOf b f) s) := by
  refine ⟨?_, fun c p => done_modBankOf hnum hdone b c s.core p, congrArg Ctx.recs (modBankOf_cx ..)⟩
  unfold modCore Core.modBankOf
  dsimp only
  split <;> rfl

/-- A bank that no launch holds. -/
def vacated (k : Bank) : Bank := { k with bound := none, stopped := false, dead := false, spilled := false, slotsFreed := false, rebind := .none }

theorem beside_freeIfDone (b : Bool) (s : State) : Beside s (modCore (freeIfDone b) s) := by
  have hcases : freeIfDone b s.core = s.core.modBankOf b vacated ∨ freeIfDone b s.core = s.core := by
    unfold freeIfDone
    dsimp only
    split
    · exact .inl rfl
    · exact .inr rfl
  unfold modCore
  rcases hcases with h | h <;> rw [h]
  · exact beside_modBankOf (f := vacated) (fun _ => rfl) (fun _ q => by cases q <;> rfl) b s
  · exact .refl s

theorem done_wakeCore (p : Bool → Nat → Wait → Bool) (c : Core) (b : Bool) (q : Queue) : ((wakeCore p c).bankOf b).done q = (c.bankOf b).done q := by
  unfold wakeCore Core.mapCtxs Core.bankOf
  dsimp only
  split <;> cases q <;> rfl

theorem beside_wakeCmd (b : Bool) (q : Queue) (s : State) : Beside s (wakeCmd b q s) := by
  refine ⟨rfl, fun c p => done_wakeCore .., ?_⟩
  have hcx : (wakeCmd b q s).core.cx = s.core.cx ∨ (wakeCmd b q s).core.cx = { s.core.cx with st := .ready } := wakeCore_cx_cases ..
  rcases hcx with h | h <;> rw [h]

theorem beside_creditBank (b : Bool) (s t : State) : Beside t (creditBank b s t) := by
  unfold creditBank
  split
  · exact .refl t
  · refine ⟨rfl, fun c p => ?_, rfl⟩
    unfold modCore Core.bankOf
    dsimp only
    split <;> cases p <;> rfl

theorem creditBank_cx (b : Bool) (s t : State) : (creditBank b s t).core.cx = t.core.cx := by
  unfold creditBank
  split <;> rfl

/-! ### A command leaves its queue (R125, R135) -/

/-- The entry is gone with its locks, and its counter has risen. -/
def counted (q : Queue) (e : Entry) (s : State) : State :=
  modCore (·.modBankOf e.bank fun k => k.setDone q (k.done q + 1))
    (modCore (fun c => c.setQueue q ((c.queue q).filter fun x => x.ord != e.ord)) (dropLocks e.ord s))

theorem leaveQueue_eq (q : Queue) (e : Entry) (s : State) : leaveQueue q e s = modCore (freeIfDone e.bank) (wakeCmd e.bank q (counted q e s)) := rfl

theorem beside_leaveQueue (q : Queue) (e : Entry) (s : State) : Beside (counted q e s) (leaveQueue q e s) := by
  rw [leaveQueue_eq]
  exact (beside_wakeCmd ..).trans (beside_freeIfDone ..)

theorem bank_done_setDone (k : Bank) (q : Queue) (v : Word) : (k.setDone q v).done q = v := by cases q <;> rfl

/-- What a counter's change leaves of a core. -/
theorem modBankOf_queues (b : Bool) (f : Bank → Bank) (c : Core) : (∀ p, (c.modBankOf b f).queue p = c.queue p) ∧ (c.modBankOf b f).locks = c.locks := by
  unfold Core.modBankOf
  split <;> exact ⟨fun p => by cases p <;> rfl, rfl⟩

section Counted
variable (q : Queue) (e : Entry) (s : State)

theorem queue_dropLocks (ord : Nat) (p : Queue) : (dropLocks ord s).core.queue p = s.core.queue p := by cases p <;> rfl

theorem queue_counted : (counted q e s).core.queue q = (s.core.queue q).filter fun x => x.ord != e.ord := by
  rw [counted, modCore_core, (modBankOf_queues ..).1, modCore_core, queue_setQueue, queue_dropLocks]

theorem queue_counted_other {p : Queue} (h : p ≠ q) : (counted q e s).core.queue p = s.core.queue p := by
  rw [counted, modCore_core, (modBankOf_queues ..).1, modCore_core, queue_setQueue_other h, queue_dropLocks]

theorem mem_locks_counted {k : Lock} : k ∈ (counted q e s).core.locks ↔ k ∈ s.core.locks ∧ k.ord ≠ e.ord := by
  rw [counted, modCore_core, (modBankOf_queues ..).2, modCore_core, setQueue_locks, mem_locks_dropLocks]

theorem counted_cx : (counted q e s).core.cx = s.core.cx := by
  rw [counted, modCore_core, modBankOf_cx, modCore_core, setQueue_cx]
  rfl

theorem counted_done : ((counted q e s).core.bankOf e.bank).done q = (s.core.bankOf e.bank).done q + 1 := by
  rw [counted, modCore_core, bankOf_modBankOf_self (fun k => by cases q <;> rfl), bank_done_setDone, modCore_core, setQueue_frame]
  rfl

end Counted

/-! ### COMMAND_RETIRE (R125, R129 to R131) -/

/-- The status of a command at its retirement. -/
def retireSt (e : Entry) : BitVec 8 := if e.cancelled then 0x40 else e.status

/-- The chain that is still to come is released, or cancelled with a command that was cancelled or has failed (R130, R131). -/
def chained (e : Entry) (s : State) : State := if chainDone e then s else sendChain e (e.cancelled || e.status != 0) s

/-- The stamps after completion (R375). -/
def stamped (q : Queue) (e : Entry) (s : State) : State := (lastStamps e).foldl (fun s a => writeStamp q e a (retireSt e) s) s

/-- The record of a status other than success or cancelled (R252). -/
def recorded (q : Queue) (e : Entry) (s : State) : State :=
  if retireSt e = 0 ∨ retireSt e = 0x40 then s else engRecord q e (retireSt e) e.tval s

section Retire
variable {q : Queue} {e : Entry} {s : State} (h41 : e.cmd.opc ≠ 0x41) (h42 : e.cmd.opc ≠ 0x42)

include h41 h42 in
theorem retireCmd_eq (s : State) : retireCmd q e s = leaveQueue q e (recorded q e (stamped q e (chained e s))) := by
  have hck : (e.cmd.opc == 0x42) = false := by simpa using h42
  have hcancels : (if e.cmd.ev = 0 || (e.cmd.ev = 1 && noDest e.cmd) then retireSt e != 0 else if e.cancelled then true else e.status != 0)
      = (e.cancelled || e.status != 0) := by
    unfold retireSt
    cases e.cancelled <;> simp
  unfold retireCmd
  simp only [hck, h41, Bool.false_eq_true, if_false, decide_false, Bool.false_and]
  unfold recorded stamped chained
  rw [← hcancels]
  rfl

theorem entryByOrd_of_only (he : e ∈ s.core.queue q) (honly : ∀ p, ∀ x ∈ s.core.queue p, x.ord = e.ord → x = e) : entryByOrd s.core e.ord = some e := by
  have hmem : ∀ x, x ∈ s.core.mq ++ s.core.cq ++ s.core.gq ↔ ∃ p, x ∈ s.core.queue p := fun x => by
    simp only [List.mem_append]
    exact ⟨fun h => h.elim (·.elim (⟨.mq, ·⟩) (⟨.cq, ·⟩)) (⟨.gq, ·⟩), fun ⟨p, hp⟩ => by cases p <;> simp_all [Core.queue]⟩
  exact find?_of_only ((hmem e).mpr ⟨q, he⟩) (beq_self_eq_true _) fun x hx hord => by
    obtain ⟨p, hp⟩ := (hmem x).mp hx
    exact honly p x hp (by simpa using hord)

theorem exec_commandRetire_flight {es : List Entry} (hq : s.core.queue q = e :: es) (hcancel : e.cancelled = false) (hst : e.st = .flight) :
    exec (.commandRetire q) s = .next s := by
  rw [exec_commandRetire, execCommandRetire, hq]
  exact if_neg (by simp [hcancel, hst])

variable {es : List Entry} (hq : s.core.queue q = e :: es) (honly : ∀ p, ∀ x ∈ s.core.queue p, x.ord = e.ord → x = e)
  (hover : e.cancelled = true ∨ e.st = .worked) (hheld : s.ms.heldW = [])

include h41 h42 hq honly hover hheld in
/-- The oldest command retires once it has worked or is cancelled. -/
theorem exec_commandRetire_goes :
    exec (.commandRetire q) s = .next (creditBank e.bank s (leaveQueue q e (recorded q e (stamped q e (chained e s))))) := by
  have hlate : (if e.cancelled then s else lateRelease q e s) = s := by
    have hopc : (e.cmd.opc == 0x41) = false := beq_eq_false_iff_ne.mpr h41
    rw [lateRelease, sourceRead, hopc]
    exact ite_self s
  have hentry : (entryByOrd s.core e.ord).getD e = e := by
    rw [entryByOrd_of_only (q := q) (by rw [hq]; exact List.mem_cons_self ..) honly]
    rfl
  have hcond : ((e.cancelled || e.st == .worked) && s.ms.heldW.isEmpty) = true := by
    rcases hover with h | h <;> simp [h, hheld]
  rw [exec_commandRetire, execCommandRetire, hq]
  dsimp only
  rw [if_pos hcond, hlate, hentry, retireCmd_eq h41 h42]

theorem chained_none (hch : e.cmd.ch = false) (s : State) : chained e s = s := by
  rw [chained, sendChain_none hch, ite_self]

theorem stamped_none (h : ∀ va ∈ lastStamps e, va = 0) (s : State) : stamped q e s = s := by
  unfold stamped
  generalize lastStamps e = l at h
  induction l generalizing s with
  | nil => rfl
  | cons va vas ih =>
    rw [List.foldl_cons, h va (List.mem_cons_self ..), writeStamp, if_pos rfl]
    exact ih s fun v hv => h v (List.mem_cons_of_mem _ hv)

theorem recorded_none (h : e.cancelled = true ∨ e.status = 0) (s : State) : recorded q e s = s := by
  refine if_pos ?_
  unfold retireSt
  rcases h with h | h <;> cases hc : e.cancelled <;> simp_all

end Retire

/-! ### The record of a command (R252) -/

/-- The record of a command (R248). -/
def cmdRec (q : Queue) (e : Entry) (st : BitVec 8) (va : Word) (c : Core) : Rec :=
  let ic := match e.icBase with
    | some v => icDiff (((c.ctx? e.bank e.ctx).map (·.instret)).getD 0) v
    | none => e.icDone
  ⟨va, BitVec.ofNat 64 e.seq, e.pc, recCause st, 0, 2, BitVec.ofNat 2 (queueNum q), st, ic, false⟩

theorem engRecord_eq (q : Queue) (e : Entry) (st : BitVec 8) (va : Word) (s : State) : engRecord q e st va s
    = if ((s.core.bankOf e.bank).bound.map (·.left)).getD true || (s.core.bankOf e.bank).dead then s
      else pushRec e.bank e.ctx (cmdRec q e st va s.core) s := rfl

/-- A record changes contexts, and memory where a bank's contexts are spilled (R258). -/
theorem recorded_keeps (q : Queue) (e : Entry) (s : State) :
    (∀ p, (recorded q e s).core.queue p = s.core.queue p) ∧ (recorded q e s).core.locks = s.core.locks := by
  have hctx : ∀ b id f, (∀ p, ((s.core).modCtx b id f).queue p = s.core.queue p) ∧ ((s.core).modCtx b id f).locks = s.core.locks := fun b id f => by
    unfold Core.modCtx
    dsimp only
    split
    · split <;> exact ⟨fun p => by cases p <;> rfl, rfl⟩
    · exact ⟨fun p => by cases p <;> rfl, rfl⟩
  have hpush : ∀ b id r, (∀ p, (pushRec b id r s).core.queue p = s.core.queue p) ∧ (pushRec b id r s).core.locks = s.core.locks := fun b id r => by
    rw [pushRec, (sameCores_saveRecs ..).core]
    exact hctx ..
  unfold recorded
  split
  · exact ⟨fun _ => rfl, rfl⟩
  · rw [engRecord_eq]
    split
    · exact ⟨fun _ => rfl, rfl⟩
    · exact hpush ..

/-- The record of a failed command, in the queue of the current context that pushed it. -/
theorem recorded_own {q : Queue} {e : Entry} {s : State} (hcancel : e.cancelled = false) (hst : e.status ≠ 0) (hst' : e.status ≠ 0x40)
    (hbank : e.bank = s.core.bank.num) (hctx : e.ctx = s.core.cx.id) (hbound : ∃ bd, s.core.bank.bound = some bd ∧ bd.left = false)
    (hdead : s.core.bank.dead = false) (hroom : s.core.cx.recs.length < 8) :
    (recorded q e s).core.cx.recs = s.core.cx.recs ++ [cmdRec q e e.status e.tval s.core] := by
  obtain ⟨bd, hbound, hleft⟩ := hbound
  have hsave : ∀ t : State, t.core.bank.num = e.bank → saveRecs e.bank e.ctx t = t := fun t ht => by
    unfold saveRecs
    simp [ht]
  have hstay : (((s.core.bankOf e.bank).bound.map (·.left)).getD true || (s.core.bankOf e.bank).dead) = false := by
    simp [Core.bankOf, hbank, hbound, hleft, hdead]
  have hactive : (s.core.modCtx e.bank e.ctx (appendRec (cmdRec q e e.status e.tval s.core)))
      = { s.core with cx := appendRec (cmdRec q e e.status e.tval s.core) s.core.cx } := by
    rw [Core.modCtx, if_pos hbank.symm, if_pos hctx.symm]
  have hretire : retireSt e = e.status := by rw [retireSt, hcancel, if_neg Bool.false_ne_true]
  rw [recorded, hretire, if_neg (not_or.mpr ⟨hst, hst'⟩), engRecord_eq, hstay, if_neg Bool.false_ne_true, pushRec, hsave]
  · rw [modCore_core, hactive, appendRec, if_pos (show s.core.cx.recs.length < Config.recordSlots from hroom)]
  · rw [modCore_core, hactive, hbank]

/-! ### The stamp of a command (R375) -/

theorem dropL1_keeps (k n : Nat) (s : State) : (dropL1 k n s).mem = s.mem ∧ ∀ p, (dropL1 k n s).core.queue p = s.core.queue p := by
  unfold dropL1
  split
  · exact ⟨rfl, fun _ => rfl⟩
  · exact ⟨rfl, fun p => by cases p <;> rfl⟩

/-- The request of an engine's write leaves memory, slices and queues. -/
theorem request_keeps (line : Nat) (own : Bool) (s : State) : ∃ t, (if own then s else countSent (visitLine line s)) = t ∧ t.mem = s.mem ∧ t.ms = s.ms
    ∧ t.pkg = s.pkg ∧ ∀ p, t.core.queue p = s.core.queue p := by
  refine ⟨_, rfl, ?_⟩
  unfold visitLine
  split
  · exact ⟨rfl, rfl, rfl, fun _ => rfl⟩
  · split <;> exact ⟨rfl, rfl, rfl, fun p => by cases p <;> rfl⟩

/-- An engine's write within one line, none of which is held, is performed. -/
theorem wrote_engPutAt {q : Place} {bs : List Byte} {s : State} (hne : bs ≠ []) (hfit : q.key % 128 + bs.length ≤ 128)
    (hheld : lineHeld s (lineOf q.key) = false) :
    (∀ p, (engPutAt q bs s).core.queue p = s.core.queue p) ∧ Say.Wrote (memWrite s.mem q.key bs) s (engPutAt q bs s) := by
  obtain ⟨t, ht, hmem, hms, hpkg, hqueue⟩ := request_keeps (lineOf q.key) (q.loc == .own) s
  have hheld' : lineHeld t (lineOf q.key) = false := by
    rw [← hheld]
    unfold lineHeld sharersOf writeHeld
    rw [hms]
  have hnow : ∀ how, performHow how q.key bs t = performNow how q.key bs t := fun how => performHow_oneLine how hne hfit hheld'
  have hwrote : ∀ how, Say.Wrote (memWrite s.mem q.key bs) s (performNow how q.key bs t) := fun how =>
    wrote_congr (hmem ▸ wrote_performNow how q.key bs t) hpkg.symm (by rw [hms]) hmem.symm rfl
  have hsame : ∀ how p, (performNow how q.key bs t).core.queue p = s.core.queue p := fun how p => by rw [(sameCores_performNow ..).core, hqueue]
  unfold engPutAt engLand
  rw [ht]
  split
  · rw [hnow]
    obtain ⟨hdropMem, hdropQueue⟩ := dropL1_keeps q.key bs.length (performNow ⟨inSlice q, false, false, q.bark⟩ q.key bs t)
    exact ⟨fun p => (hdropQueue p).trans (hsame _ p), wrote_congr (hwrote _) rfl rfl rfl hdropMem⟩
  · rw [perform, hnow]
    exact ⟨hsame _, hwrote _⟩

theorem engPut_doubleword {va : Word} {p : Place} {bs : List Byte} {s : State} (halign : va.toNat % 8 = 0) (hlen : bs.length = 8)
    (hplace : engPlace s va 8 .write = .ok p) : engPut va bs s = engPutAt p bs s := by
  have htake : (bs.drop 0).take 8 = bs := by rw [List.drop_zero, ← hlen, List.take_length]
  have hzero : va + BitVec.ofNat 64 0 = va := BitVec.add_zero va
  simp only [engPut, hlen, lineParts_doubleword halign, List.foldl_cons, List.foldl_nil, hzero, hplace, htake]

theorem engBad_doubleword {va : Word} {p : Place} {s : State} (halign : va.toNat % 8 = 0) (hplace : engPlace s va 8 .write = .ok p)
    (hhost : hostFails s p.key = false) (hpoison : poisoned s p.key 8 = false) (gen : BitVec 8) : engBad s va 8 gen = none := by
  have hzero : va + BitVec.ofNat 64 0 = va := BitVec.add_zero va
  simp [engBad, lineParts_doubleword halign, hzero, hplace, hhost, hpoison]

theorem stampWord_ofNat (seq : Nat) (st : BitVec 8) : stampWord (BitVec.ofNat 64 seq) st = st ++ BitVec.ofNat 56 seq := by
  have hlow : (BitVec.ofNat 64 seq).extractLsb' 0 56 = BitVec.ofNat 56 seq := by
    apply BitVec.eq_of_toNat_eq
    simp only [BitVec.extractLsb'_toNat, BitVec.toNat_ofNat, Nat.shiftRight_zero]
    omega
  rw [stampWord, hlow]

/-- A stamp of one doubleword: the status over the sequence value, at its place. -/
theorem stamped_one {q : Queue} {e : Entry} {s : State} {va : Word} {p : Place} (hstamps : lastStamps e = [va]) (hva : va ≠ 0) (halign : va.toNat % 8 = 0)
    (hplace : engPlace s va 8 .write = .ok p) (hhost : hostFails s p.key = false) (hkey : p.key % 8 = 0) (hpoison : poisoned s p.key 8 = false)
    (hheld : lineHeld s (lineOf p.key) = false) (hseq : e.seqField = none) : (∀ x, (stamped q e s).core.queue x = s.core.queue x)
      ∧ Say.Wrote (memWrite s.mem p.key (bytesOfNat 8 (retireSt e ++ BitVec.ofNat 56 e.seq).toNat)) s (stamped q e s) := by
  have hlen : (bytesOfNat 8 (retireSt e ++ BitVec.ofNat 56 e.seq).toNat).length = 8 := length_bytesOfNat ..
  have hstamp : stamped q e s = engPutAt p (bytesOfNat 8 (retireSt e ++ BitVec.ofNat 56 e.seq).toNat) s := by
    simp only [stamped, hstamps, List.foldl_cons, List.foldl_nil, writeStamp, if_neg hva, engBad_doubleword halign hplace hhost hpoison, hseq,
      Option.getD_none, stampWord_ofNat]
    exact engPut_doubleword halign hlen hplace
  rw [hstamp]
  exact wrote_engPutAt (List.ne_nil_of_length_eq_add_one hlen) (by omega) hheld

end Sys2Proof.Machine
end

section
/-! PROOF. The sequencers, the chain events and the retirement of queued commands (R125 to R131, R134, R135, R252). -/

namespace Sys2Proof.Machine

/-! ### What a free run's dispatch notes (R128) -/

/-- Of a conflict in a free run the command that reads notes the bytes in which the ranges meet. -/
theorem mem_loose_dispatchEntry {q : Queue} {e z : Entry} {s : State} {x y : Lock} (hclear : e.cmd.opc ≠ 1 ∧ e.cmd.opc ≠ 2 ∨ e.cmd.reps ≠ 0)
    (hclash : (x, y) ∈ clashes s.core q e) (hz : z ∈ (dispatchEntry q e s).core.queue q)
    (hreads : (x.ord = z.ord ∧ y.dst = true) ∨ (y.ord = z.ord ∧ x.dst = true)) : (max x.lo y.lo, min x.hi y.hi) ∈ z.loose := by
  obtain ⟨v, -, hzord, hloose, -⟩ := mem_queue_dispatchEntry hclear hz
  rw [hloose]
  exact mem_loosened hclash (hzord ▸ hreads)

/-! ### An engine's work (R135, R215) -/

/-- A command that its engine carries out has worked. -/
theorem exec_work_claimed {q : Queue} {opc : Nat} {e : Entry} {s : State} (h : Say.Claimed q opc e s) (f : Entry → State → Result × State) :
    ∃ t, work q opc e.bank e.seq f s = .next t ∧ ∀ x ∈ t.core.queue q, x.ord = e.ord → x.st = .worked := by
  have hfind := findEntry_single (single_of_claimed h)
  obtain ⟨-, hst, hcancel, -, hopc, hgo, -⟩ := h
  have hcond : ¬ (e.st != .flight || e.cancelled || e.cmd.opc.toNat != opc || !enginesGo s) = true := by simp [hst, hcancel, hopc, hgo]
  have hworked : ∀ (r : Result) (t : State), ∀ x ∈ (modEntry q e.ord (fun x => { x with
      st := .worked, status := r.status, tval := r.tval, seqField := r.seqField, srcBad := r.status != 0 && r.srcBad }) t).core.queue q,
      x.ord = e.ord → x.st = .worked := by
    intro r t x hx hord
    obtain ⟨y, -, rfl⟩ := mem_queue_modEntry hx
    split at hord
    next hy => rw [if_pos hy]
    next hy => exact absurd hord hy
  unfold work
  rw [hfind]
  dsimp only
  rw [if_neg hcond]
  refine ⟨_, rfl, ?_⟩
  unfold throughLoose
  split
  · exact hworked _ _
  · exact hworked _ _

/-- The engines' instructions are work of their queue. -/
theorem exec_engine_work {q : Queue} {opc : Nat} {i : Instr} {e : Entry} {s : State}
    (hi : (q, opc, i) ∈ [(Queue.mq, 0x00, Instr.mzero e.bank e.seq), (.mq, 0x01, .mma e.bank e.seq), (.mq, 0x02, .mmas e.bank e.seq),
      (.mq, 0x03, .mlda e.bank e.seq), (.mq, 0x04, .msta e.bank e.seq), (.mq, 0x05, .mtrn e.bank e.seq), (.cq, 0x40, .cpy e.bank e.seq),
      (.cq, 0x41, .cpys e.bank e.seq), (.cq, 0x43, .cfill e.bank e.seq), (.cq, 0x44, .gath e.bank e.seq), (.cq, 0x45, .scat e.bank e.seq),
      (.cq, 0x4A, .cdec e.bank e.seq), (.cq, 0x4B, .ccnt e.bank e.seq)])
    (h : Say.Claimed q opc e s) (hfmt : opc = 0x40 → e.cmd.fmtA ≠ 6) : ∃ f, exec i s = work q opc e.bank e.seq f s := by
  simp only [List.mem_cons, Prod.mk.injEq, List.not_mem_nil, or_false] at hi
  rcases hi with ⟨rfl, rfl, rfl⟩ | ⟨rfl, rfl, rfl⟩ | ⟨rfl, rfl, rfl⟩ | ⟨rfl, rfl, rfl⟩ | ⟨rfl, rfl, rfl⟩ | ⟨rfl, rfl, rfl⟩ | ⟨rfl, rfl, rfl⟩
    | ⟨rfl, rfl, rfl⟩ | ⟨rfl, rfl, rfl⟩ | ⟨rfl, rfl, rfl⟩ | ⟨rfl, rfl, rfl⟩ | ⟨rfl, rfl, rfl⟩ | ⟨rfl, rfl, rfl⟩
  · exact ⟨_, exec_mzero ..⟩
  · exact ⟨_, exec_mma ..⟩
  · exact ⟨_, exec_mmas ..⟩
  · exact ⟨_, exec_mlda ..⟩
  · exact ⟨_, exec_msta ..⟩
  · exact ⟨_, exec_mtrn ..⟩
  · refine ⟨cpyWork, ?_⟩
    rw [exec_cpy, execCpy, findEntry_single (single_of_claimed h)]
    exact if_neg (hfmt rfl)
  · exact ⟨_, exec_cpys ..⟩
  · exact ⟨_, exec_cfill ..⟩
  · exact ⟨_, exec_gath ..⟩
  · exact ⟨_, exec_scat ..⟩
  · exact ⟨_, exec_cdec ..⟩
  · exact ⟨_, exec_ccnt ..⟩

/-! ### A retired command -/

section Retired
variable {q : Queue} {e : Entry} {es : List Entry} (s : State) {v : State}

theorem beside_retired : Beside (counted q e v) (creditBank e.bank s (leaveQueue q e v)) := (beside_leaveQueue ..).trans (beside_creditBank ..)

theorem retired_queue (hq : v.core.queue q = e :: es) (hes : ∀ x ∈ es, x.ord ≠ e.ord) :
    (creditBank e.bank s (leaveQueue q e v)).core.queue q = es := by
  rw [(beside_retired s).queue, queue_counted, hq, List.filter_cons_of_neg (by simp)]
  exact List.filter_eq_self.mpr fun x hx => by simpa using hes x hx

theorem retired_queue_other {p : Queue} (h : p ≠ q) : (creditBank e.bank s (leaveQueue q e v)).core.queue p = v.core.queue p := by
  rw [(beside_retired s).queue, queue_counted_other q e v h]

theorem mem_locks_retired {k : Lock} : k ∈ (creditBank e.bank s (leaveQueue q e v)).core.locks ↔ k ∈ v.core.locks ∧ k.ord ≠ e.ord := by
  rw [(beside_retired s).locks, mem_locks_counted]

theorem retired_mem : (creditBank e.bank s (leaveQueue q e v)).mem = v.mem := (beside_retired s).mem

theorem retired_recs : (creditBank e.bank s (leaveQueue q e v)).core.cx.recs = v.core.cx.recs := by rw [(beside_retired s).recs, counted_cx]

theorem retired_done :
    ((creditBank e.bank s (leaveQueue q e v)).core.bankOf e.bank).done q = (v.core.bankOf e.bank).done q + 1 := by
  rw [(beside_retired s).done, counted_done]

theorem modBankOf_bankNum {f : Bank → Bank} (hnum : ∀ k, (f k).num = k.num) (b : Bool) (c : Core) : (c.modBankOf b f).bank.num = c.bank.num := by
  unfold Core.modBankOf
  split
  · exact hnum _
  · rfl

theorem counted_num : (counted q e v).core.bank.num = v.core.bank.num := by
  rw [counted, modCore_core, modBankOf_bankNum (fun k => by cases q <;> rfl), modCore_core, setQueue_bank]
  rfl

/-- A context that waits for the counter of its own bank to reach a value becomes ready when it does (R324). -/
theorem retired_wakes {w : Word} (hbank : e.bank = v.core.bank.num) (hst : v.core.cx.st = .waiting (.cmd q w)) (hw : w ≤ v.core.bank.done q + 1) :
    (creditBank e.bank s (leaveQueue q e v)).core.cx.st = .ready := by
  have hdone : ((counted q e v).core.bankOf e.bank).done q = v.core.bank.done q + 1 := by
    rw [counted_done, Core.bankOf, if_pos hbank.symm]
  rw [creditBank_cx, leaveQueue_eq, modCore_core, (freeIfDone_keeps ..).1]
  refine wakeCore_waiting (w := .cmd q w) (by rw [counted_cx, hst]) ?_
  simp only [hdone, counted_num, ← hbank, beq_self_eq_true, Bool.true_and, decide_eq_true_eq]
  exact hw

end Retired

/-! ### Chains (R129 to R131) -/

/-- A chain is still to come whose event has not occurred. -/
theorem chainDone_false {e : Entry} (h : e.cmd.ev = 0 ∨ (e.cmd.ev = 1 ∧ e.landed = false) ∨ (e.cmd.ev = 2 ∧ e.released = false)
    ∨ (e.cmd.ev = 3 ∧ e.consumed = false)) : chainDone e = false := by
  rcases h with h | ⟨h, hno⟩ | ⟨h, hno⟩ | ⟨h, hno⟩ <;> simp [chainDone, *]

theorem queue_dropSrcLocks (ord : Nat) (s : State) (p : Queue) : (dropSrcLocks ord s).core.queue p = s.core.queue p := by cases p <;> rfl

section Chain
variable {s : State} {e x : Entry} {q p : Queue} (hch : e.cmd.ch = true) (hsq : e.cmd.sq.toNat = queueNum p) (hpq : p ≠ q)
  (hheld : (s.core.queue p).find? (fun z => z.bank == e.bank && z.st == .held && !z.cancelled && z.cmd.otag == e.cmd.stag) = some x)
include hch hsq hpq hheld

/-- The command that waits in another queue is released, after the events of this queue's entry have been noted. -/
theorem queue_sendChain_released {u : State} (hu : u.core.queue p = s.core.queue p) :
    (sendChain e false u).core.queue p = (s.core.queue p).map (fun z => if z.ord = x.ord then { z with st := .queued } else z)
      ∧ (sendChain e false u).core.queue q = u.core.queue q := by
  rw [sendChain_found hch hsq (hu ▸ hheld), if_neg Bool.false_ne_true]
  exact ⟨by rw [queue_modEntry, hu], queue_modEntry_other hpq.symm ..⟩

/-- At a retirement that failed, or of a cancelled command, it is cancelled. -/
theorem queue_sendChain_cancelled :
    (sendChain e true s).core.queue p = (s.core.queue p).map (fun z => if z.ord = x.ord then { z with st := .queued, cancelled := true } else z)
      ∧ (sendChain e true s).core.queue q = s.core.queue q
      ∧ ∀ k, k ∈ (sendChain e true s).core.locks ↔ k ∈ s.core.locks ∧ k.ord ≠ x.ord := by
  rw [sendChain_found hch hsq hheld, if_pos rfl]
  exact ⟨queue_cancelAt .., queue_cancelAt_other hpq.symm .., fun k => mem_locks_cancelAt⟩

end Chain

/-! ### The chain of a retiring command (R130, R131) -/

/-- A chain that is still to come goes with the retirement: released, or cancelled where the command was cancelled or has failed. -/
theorem commandRetire_sendsChain {q p : Queue} {e x : Entry} {es : List Entry} {s : State} (hq : s.core.queue q = e :: es) (hes : ∀ y ∈ es, y.ord ≠ e.ord)
    (honly : ∀ p, ∀ y ∈ s.core.queue p, y.ord = e.ord → y = e) (hover : e.cancelled = true ∨ e.st = .worked) (hheld : s.ms.heldW = [])
    (h41 : e.cmd.opc ≠ 0x41) (h42 : e.cmd.opc ≠ 0x42) (hstamps : ∀ va ∈ lastStamps e, va = 0) (hch : e.cmd.ch = true)
    (hsq : e.cmd.sq.toNat = queueNum p) (hpq : p ≠ q) (hev : e.cmd.ev = 0 ∨ (e.cmd.ev = 1 ∧ e.landed = false) ∨ (e.cmd.ev = 2 ∧ e.released = false)
      ∨ (e.cmd.ev = 3 ∧ e.consumed = false))
    (hfind : (s.core.queue p).find? (fun z => z.bank == e.bank && z.st == .held && !z.cancelled && z.cmd.otag == e.cmd.stag) = some x) :
    ∃ t, exec (.commandRetire q) s = .next t ∧ t.core.queue q = es
      ∧ (e.cancelled = false → e.status = 0 → t.core.queue p = (s.core.queue p).map (fun z => if z.ord = x.ord then { z with st := .queued } else z))
      ∧ ((e.cancelled = true ∨ e.status ≠ 0) →
          t.core.queue p = (s.core.queue p).map (fun z => if z.ord = x.ord then { z with st := .queued, cancelled := true } else z)
          ∧ ∀ k, k ∈ t.core.locks ↔ k ∈ s.core.locks ∧ k.ord ≠ e.ord ∧ k.ord ≠ x.ord) := by
  have hexec := exec_commandRetire_goes h41 h42 hq honly hover hheld
  rw [stamped_none hstamps] at hexec
  obtain ⟨hqueue, hlocks⟩ := recorded_keeps q e (chained e s)
  have hchain : chained e s = sendChain e (e.cancelled || e.status != 0) s := by
    rw [chained, chainDone_false hev, if_neg Bool.false_ne_true]
  obtain ⟨hfreed, hkept⟩ := queue_sendChain_released hch hsq hpq hfind (u := s) rfl
  obtain ⟨hcut, hkept', hunlock⟩ := queue_sendChain_cancelled hch hsq hpq hfind
  refine ⟨_, hexec, retired_queue s ((hqueue q).trans ?_) hes, fun hcancel hstatus => ?_, fun hbad => ?_⟩
  · rw [hchain]
    cases e.cancelled || e.status != 0
    · exact hkept.trans hq
    · exact hkept'.trans hq
  · rw [retired_queue_other s hpq, hqueue, hchain, hcancel, hstatus]
    exact hfreed
  · have hcancels : (e.cancelled || e.status != 0) = true := by
      rw [Bool.or_eq_true, bne_iff_ne]
      exact hbad
    rw [hcancels] at hchain
    refine ⟨?_, fun k => ?_⟩
    · rw [retired_queue_other s hpq, hqueue, hchain]
      exact hcut
    · rw [mem_locks_retired, hlocks, hchain, hunlock]
      exact and_right_comm.trans and_assoc

/-! ### ENGINE_CHAIN_EVENT (R129) -/

/-- Matrix commands and plain copies have a destination of their own. -/
theorem noDest_local {c : Cmd} (h : c.opc.toNat < 0x40 ∨ c.opc = 0x40) : noDest c = false := by
  have hle : c.opc.toNat ≤ 0x40 := h.elim Nat.le_of_lt fun h => by rw [h]; decide
  have hne : ∀ n : Nat, 0x40 < n → n < 256 → (c.opc.toNat == n) = false := fun n hn _ => by simp; omega
  have hcontrol : isControl c.opc.toNat = false := by simp [isControl]; omega
  simp [noDest, hne, hcontrol]

section Event
variable {q : Queue} {e : Entry} {s : State} (h : Single q e s) (hcancel : e.cancelled = false) (hst : e.st = .worked) (hstatus : e.status = 0)
  (hreps : e.cmd.reps ≠ 0) (hheld : s.ms.heldW = [])
include h hcancel hst hstatus hreps hheld

theorem exec_chainEvent_landed (hland : e.landed = false) (hev : e.cmd.ev = 1) (hdest : noDest e.cmd = false) :
    exec (.engineChainEvent q e.bank e.seq 1) s = .next (sendChain e false (modEntry q e.ord (fun x => { x with landed := true }) s)) := by
  have hdisp : e.dispatched = true := by simp [Entry.dispatched, hcancel, hst]
  rw [exec_engineChainEvent, execEngineChainEvent, findEntry_single h]
  simp [hdisp, hstatus, hreps, hheld, hst, hland, hdest, hev]

theorem exec_chainEvent_released (hrel : e.released = false) (hpeer : peerSend e.cmd = false) :
    exec (.engineChainEvent q e.bank e.seq 2) s = .next (sourceReleased q e s) := by
  have hdisp : e.dispatched = true := by simp [Entry.dispatched, hcancel, hst]
  rw [exec_engineChainEvent, execEngineChainEvent, findEntry_single h]
  simp [hdisp, hstatus, hreps, hheld, hst, hrel, hpeer]

theorem exec_chainEvent_consumed (hcons : e.consumed = false) (hev : e.cmd.ev = 3) (hopc : e.cmd.opc.toNat < 0x40) :
    exec (.engineChainEvent q e.bank e.seq 3) s = .next (sendChain e false (modEntry q e.ord (fun x => { x with consumed := true }) s)) := by
  have hdisp : e.dispatched = true := by simp [Entry.dispatched, hcancel, hst]
  rw [exec_engineChainEvent, execEngineChainEvent, findEntry_single h]
  simp [hdisp, hstatus, hreps, hheld, hst, hcons, hopc, hev]

variable {p : Queue} {x : Entry} (hch : e.cmd.ch = true) (hsq : e.cmd.sq.toNat = queueNum p) (hpq : p ≠ q)
  (hfind : (s.core.queue p).find? (fun z => z.bank == e.bank && z.st == .held && !z.cancelled && z.cmd.otag == e.cmd.stag) = some x)
include hch hsq hpq hfind

/-- Data landed: the chain on event 1 goes. -/
theorem chainEvent_landed_frees (hland : e.landed = false) (hev : e.cmd.ev = 1) (hopc : e.cmd.opc.toNat < 0x40 ∨ e.cmd.opc = 0x40) :
    ∃ t, exec (.engineChainEvent q e.bank e.seq 1) s = .next t
      ∧ t.core.queue p = (s.core.queue p).map (fun z => if z.ord = x.ord then { z with st := .queued } else z)
      ∧ t.core.queue q = (s.core.queue q).map (fun z => if z.ord = e.ord then { z with landed := true } else z) := by
  refine ⟨_, exec_chainEvent_landed h hcancel hst hstatus hreps hheld hland hev (noDest_local hopc), ?_⟩
  obtain ⟨hfreed, hkept⟩ := queue_sendChain_released hch hsq hpq hfind (queue_modEntry_other hpq e.ord (fun x => { x with landed := true }) s)
  rw [hfreed, hkept, queue_modEntry]
  exact ⟨rfl, rfl⟩

/-- Source released: the source locks go, and the chain on event 2. -/
theorem chainEvent_released_frees (hrel : e.released = false) (hev : e.cmd.ev = 2) (hopc : e.cmd.opc ≠ 0x41) (hpeer : peerSend e.cmd = false) :
    ∃ t, exec (.engineChainEvent q e.bank e.seq 2) s = .next t
      ∧ t.core.queue p = (s.core.queue p).map (fun z => if z.ord = x.ord then { z with st := .queued } else z)
      ∧ ∀ k, k ∈ t.core.locks ↔ k ∈ s.core.locks ∧ (k.ord ≠ e.ord ∨ k.dst = true) := by
  refine ⟨_, exec_chainEvent_released h hcancel hst hstatus hreps hheld hrel hpeer, ?_, fun k => mem_locks_sourceReleased hopc⟩
  have hmark : (dropSrcLocks e.ord (markReleased q e s)).core.queue p = s.core.queue p :=
    (queue_dropSrcLocks _ _ p).trans (queue_modEntry_other hpq ..)
  rw [sourceReleased_eq hopc, if_pos (by simp [hev])]
  exact (queue_sendChain_released hch hsq hpq hfind hmark).1

/-- Operands consumed: the chain on event 3 goes. -/
theorem chainEvent_consumed_frees (hcons : e.consumed = false) (hev : e.cmd.ev = 3) (hopc : e.cmd.opc.toNat < 0x40) :
    ∃ t, exec (.engineChainEvent q e.bank e.seq 3) s = .next t
      ∧ t.core.queue p = (s.core.queue p).map (fun z => if z.ord = x.ord then { z with st := .queued } else z) := by
  refine ⟨_, exec_chainEvent_consumed h hcancel hst hstatus hreps hheld hcons hev hopc, ?_⟩
  exact (queue_sendChain_released hch hsq hpq hfind (queue_modEntry_other hpq e.ord (fun x => { x with consumed := true }) s)).1

end Event

end Sys2Proof.Machine

namespace Sys2Proof.Proofs
open Sys2Proof.Machine

/-- Settles O31: the sequencer's dispatch, the engines' work, the retirement with its stamp, record and chain, and the chain events. -/
theorem sequencersAndRetirement : Obligations.SequencersAndRetirement := by
  intro q e es s
  refine ⟨fun hhead hopc => ⟨fun hmay hclear => ?_, fun x y w hx hy hord hlt hlo hhi hdst hw hland hrun =>
      exec_sequencerDispatch_waits hhead (mayDispatch_held hx hy hord hlt hlo hhi hdst hw hland hrun)⟩,
    fun opc i hi hclaim hfmt => ?_, exec_commandRetire_flight, fun hq hes honly hover hheld h41 h42 hch hseq => ⟨fun hstamps hok => ?_,
      fun va p hstamps hva halign hplace hhost hkey hpoison hline hok => ?_, fun hstamps hcancel hst hst' hbank hctx hbound hdead hroom => ?_⟩,
    fun p x hq hes honly hover hheld h41 h42 hstamps hch hsq hpq hev hfind => ?_,
    fun p x he hinner hsingle hcancel hst hstatus hreps hheld hch hsq hpq hfind => ⟨fun hland hev hopc => ?_, fun hrel hev hopc hpeer => ?_,
      fun hcons hev hopc => ?_⟩⟩
  · -- the dispatch
    obtain ⟨hmem, hcx, hpark⟩ := dispatchEntry_frame (q := q) (s := s) hclear
    refine ⟨_, exec_sequencerDispatch_goes hhead hopc hmay, hmem, hcx, hpark, queue_dispatchEntry hclear, fun hsrc hreps =>
      ⟨fun z hz hord => ?_, fun k hk => locks_dispatchEntry hclear hsrc hreps hk⟩, fun z hz hord => ?_,
      fun x y w hx hy hyord hlt hxq hlo hhi => ⟨fun hxd hyd hw hland z hz hord => ?_, fun hxd hyd z hz hord => ?_⟩⟩
    · obtain ⟨y, -, hzord, -, -, hrel⟩ := mem_queue_dispatchEntry hclear hz
      exact hrel hsrc hreps (hzord.symm.trans hord)
    · obtain ⟨y, -, hzord, -, hst, -⟩ := mem_queue_dispatchEntry hclear hz
      exact hst (hzord.symm.trans hord)
    · exact mem_loose_dispatchEntry hclear (mem_clashes hx hy hyord hlt hxq hlo hhi (by simp [hxd, hyd]) fun _ => by simp [hw, hland]) hz
        (.inr ⟨hyord.trans hord.symm, hxd⟩)
    · exact mem_loose_dispatchEntry hclear (mem_clashes hx hy hyord hlt hxq hlo hhi (by simp [hxd, hyd]) fun h => by simp [hxd] at h) hz
        (.inl ⟨hord.symm, hyd⟩)
  · -- the engines' work
    obtain ⟨f, hf⟩ := exec_engine_work hi hclaim hfmt
    rw [hf]
    exact exec_work_claimed hclaim f
  · -- a retirement without stamp and record
    have hexec := exec_commandRetire_goes h41 h42 hq honly hover hheld
    rw [chained_none hch, stamped_none hstamps, recorded_none hok] at hexec
    exact ⟨_, hexec, retired_queue s hq hes, retired_done s, fun k => mem_locks_retired s, retired_mem s, retired_recs s,
      fun v hbank hwait hv => retired_wakes s hbank hwait hv⟩
  · -- a retirement with a stamp
    have hexec := exec_commandRetire_goes h41 h42 hq honly hover hheld
    rw [chained_none hch, recorded_none hok] at hexec
    obtain ⟨hqueue, hwrote⟩ := stamped_one hstamps hva halign hplace hhost hkey hpoison hline hseq
    exact ⟨_, hexec, retired_queue s ((hqueue q).trans hq) hes, wrote_congr hwrote rfl rfl rfl (retired_mem s)⟩
  · -- a retirement with a record
    have hexec := exec_commandRetire_goes h41 h42 hq honly hover hheld
    rw [chained_none hch, stamped_none hstamps] at hexec
    refine ⟨_, cmdRec q e e.status e.tval s.core, hexec, retired_queue s (((recorded_keeps q e s).1 q).trans hq) hes, ?_, rfl, rfl, rfl, rfl, rfl, rfl⟩
    rw [retired_recs, recorded_own hcancel hst hst' hbank hctx hbound hdead hroom]
  · exact commandRetire_sendsChain hq hes honly hover hheld h41 h42 hstamps hch hsq hpq hev hfind
  · exact chainEvent_landed_frees ⟨he, hinner, hsingle⟩ hcancel hst hstatus hreps hheld hch hsq hpq hfind hland hev hopc
  · exact chainEvent_released_frees ⟨he, hinner, hsingle⟩ hcancel hst hstatus hreps hheld hch hsq hpq hfind hrel hev hopc hpeer
  · exact chainEvent_consumed_frees ⟨he, hinner, hsingle⟩ hcancel hst hstatus hreps hheld hch hsq hpq hfind hcons hev hopc

end Sys2Proof.Proofs
end

section
/-! PROOF. The control commands of the sequencers: QNOP, QSTAMP, QARR, QSIG and QWAIT (R122, R401). -/

namespace Sys2Proof.Machine

/-! ### Write-backs that send nothing (R208) -/

/-- A write-back of lines, of which the current context notices nothing unless a write is under way after it. -/
structure Flushed (s t : State) : Prop extends SentLines s t, SentWrites s t where
  quiet : writesOf t s.core.num = [] → t.core.cx = s.core.cx

theorem SentLines.coreNum {s t : State} (h : SentLines s t) : t.core.num = s.core.num := by rw [h.core]

theorem writesOf_prefix {s t : State} {n : Nat} (h : s.fab.net <+: t.fab.net) (ht : writesOf t n = []) : writesOf s n = [] := by
  obtain ⟨ps, hps⟩ := h
  rw [writesOf, ← hps, List.filterMap_append, List.append_eq_nil_iff] at ht
  exact ht.1

theorem Flushed.refl (s : State) : Flushed s s := ⟨.refl s, .refl s, fun _ => rfl⟩

theorem Flushed.trans {s t u : State} (h : Flushed s t) (k : Flushed t u) : Flushed s u where
  toSentLines := h.toSentLines.trans k.toSentLines
  toSentWrites := h.toSentWrites.trans k.toSentWrites
  quiet := fun hu => by
    rw [← h.toSentLines.coreNum] at hu
    have ht := writesOf_prefix k.net hu
    rw [h.toSentLines.coreNum] at ht
    exact (k.quiet hu).trans (h.quiet ht)

/-- Bytes that leave are a write under way; without them the context is as before. -/
theorem cx_writeBackLine (line : Nat) (s : State) :
    (writeBackLine line s).core.cx = s.core.cx ∨ ∃ w ∈ writesOf (writeBackLine line s) s.core.num, w.line = line := by
  unfold writeBackLine sendBytes
  split
  · exact .inl rfl
  next x hfind =>
    split
    · exact .inl rfl
    · refine .inr ⟨_, List.mem_filterMap.mpr ⟨_, List.mem_append_right _ (List.mem_singleton_self _), if_pos rfl⟩, ?_⟩
      have hline : (x.line == line) = true := List.find?_some (p := fun l : L1Line => l.line == line) hfind
      exact beq_iff_eq.mp hline

theorem flushed_writeBackLine (line : Nat) (s : State) : Flushed s (writeBackLine line s) :=
  ⟨sentLines_writeBackLine line s, sentWrites_writeBackLine line s, fun h =>
    (cx_writeBackLine line s).resolve_right fun ⟨w, hw, _⟩ => by rw [h] at hw; exact List.not_mem_nil hw⟩

theorem flushed_foldl : ∀ (ks : List Nat) (s : State), Flushed s (ks.foldl (fun s l => writeBackLine l s) s)
  | [], s => .refl s
  | k :: ks, s => (flushed_writeBackLine k s).trans (flushed_foldl ks _)

theorem flushed_writeBackWhere (p : L1Line → Bool) (s : State) : Flushed s (writeBackWhere p s) := flushed_foldl _ s

theorem flushed_flushOwn (p : Place) (s : State) : Flushed s (flushOwn p s) := by
  unfold flushOwn
  split
  · exact flushed_writeBackLine ..
  · exact .refl s

/-- Where the engines may act, nothing is under way. -/
theorem Flushed.cx_of_go {s t : State} (h : Flushed s t) (hgo : enginesGo t = true) : t.core.cx = s.core.cx := by
  simp only [enginesGo, Bool.and_eq_true, List.isEmpty_iff] at hgo
  exact h.quiet (h.toSentLines.coreNum ▸ hgo.1.2)

/-- What a write-back leaves of the memory system. -/
theorem Flushed.lineHeld {s t : State} (h : Flushed s t) (line : Nat) : lineHeld t line = lineHeld s line := by
  unfold Machine.lineHeld sharersOf writeHeld
  rw [h.ms]

theorem Flushed.poisoned {s t : State} (h : Flushed s t) (k n : Nat) : poisoned t k n = poisoned s k n := by
  unfold Machine.poisoned
  rw [h.state]

/-! ### The command that a control instruction names (R122) -/

/-- The command of one queue that it names. -/
def controlIn (s : State) (opc : BitVec 8) (bank : Bool) (seq : Nat) (act : Queue → Entry → Bool) (q : Queue) : Option (Queue × Entry) :=
  match findEntry s.core q bank seq with
  | some e => if e.cmd.opc = opc && act q e then some (q, e) else none
  | none => none

theorem controlAt_eq (s : State) (opc : BitVec 8) (bank : Bool) (seq : Nat) (act : Queue → Entry → Bool) :
    controlAt s opc bank seq act = [Queue.mq, .cq, .gq].findSome? (controlIn s opc bank seq act) := rfl

section Named
variable {q : Queue} {e : Entry} {s : State} (hothers : ∀ p, p ≠ q → ∀ x ∈ s.core.queue p, x.cmd.opc ≠ e.cmd.opc)
include hothers

/-- It stands in its own queue: no other queue holds a command of its kind. -/
theorem controlAt_single (h : Single q e s) {act : Queue → Entry → Bool} (hact : act q e = true) :
    controlAt s e.cmd.opc e.bank e.seq act = some (q, e) := by
  have hown : controlIn s e.cmd.opc e.bank e.seq act q = some (q, e) := by
    rw [controlIn, findEntry_single h]
    simp [hact]
  have hother : ∀ p, p ≠ q → controlIn s e.cmd.opc e.bank e.seq act p = none := fun p hp => by
    unfold controlIn
    split
    next x hfind => simp [hothers p hp x (List.mem_of_find?_eq_some hfind)]
    next => rfl
  rw [controlAt_eq]
  cases q
  · simp [hown]
  · simp [hother .mq (by decide), hown]
  · simp [hother .mq (by decide), hother .cq (by decide), hown]

theorem controlAt_runs {opc : BitVec 8} (h : Say.Runs q opc.toNat e s) : controlAt s opc e.bank e.seq inFlight = some (q, e) := by
  obtain ⟨hclaim, -, -⟩ := h
  have hsingle := single_of_claimed hclaim
  obtain ⟨-, hst, hcancel, -, hopc, -, -⟩ := hclaim
  rw [← BitVec.eq_of_toNat_eq hopc]
  exact controlAt_single hothers hsingle (by simp [inFlight, hst, hcancel])

end Named

/-! ### A control command that has worked -/

/-- It has worked with its status, and nothing but its entry has changed. -/
theorem controlDone_worked (q : Queue) (e : Entry) (st : BitVec 8) (tval : Word) (s : State) :
    ∀ x ∈ (controlDone q e st tval s).core.queue q, x.ord = e.ord → x.st = .worked ∧ x.status = st := by
  intro x hx hord
  obtain ⟨y, -, rfl⟩ := mem_queue_modEntry hx
  split at hord
  next hy =>
    rw [if_pos hy]
    exact ⟨rfl, rfl⟩
  next hy => exact absurd hord hy

theorem onlyQueues_controlDone (q : Queue) (e : Entry) (st : BitVec 8) (tval : Word) (s : State) : OnlyQueues s (controlDone q e st tval s) :=
  onlyQueues_modEntry ..

/-! ### QARR (R62) -/

theorem raiseArrival_raises (b : Bool) (k : BitVec 3) (launch : Nat) (flag : Bool) (tag : PhTag) (s : State) :
    ((raiseArrival b k launch flag tag s).core.chans[k.toNat]'k.isLt).a = true := by
  have hchans : (raiseArrival b k launch flag tag s).core.chans = (modChan k (fun x => { x with a := true }) s.core).chans := modBankOf_chans ..
  simp [hchans, modChan_self]

theorem raiseArrival_cx (b : Bool) (k : BitVec 3) (launch : Nat) (flag : Bool) (tag : PhTag) (s : State) :
    (raiseArrival b k launch flag tag s).core.cx = s.core.cx := modBankOf_cx ..

theorem mem_doms_raiseArrival {b : Bool} {k : BitVec 3} {launch : Nat} {flag : Bool} {tag : PhTag} {s : State} {d : Dom} (hd : d ∈ s.fab.doms)
    (hchan : d.chan = k) (hlaunch : d.launch = launch) (hin : s.core.num ∈ d.members) (hleft : s.core.num ∉ d.left) :
    { d with arrived := d.arrived ++ [(s.core.num, flag, tag)] } ∈ (raiseArrival b k launch flag tag s).fab.doms :=
  List.mem_map.mpr ⟨d, hd, if_pos (by simp [hchan, hlaunch, hin, hleft])⟩

/-! ### QSIG (R212, R334) -/

theorem refreshL1_keeps (k : Nat) (bs : List Byte) (s : State) :
    (refreshL1 k bs s).mem = s.mem ∧ (refreshL1 k bs s).core.cx = s.core.cx := by
  unfold refreshL1 patchL1
  split <;> exact ⟨rfl, rfl⟩

/-- The request of an access and its answer: journeys and counters of packets alone. -/
theorem accessed_keeps (line : Nat) (own : Bool) (s : State) : ∃ t, (if own then s else countRecv (countSent (visitLine line s))) = t ∧ t.mem = s.mem
    ∧ t.ms = s.ms ∧ t.pkg = s.pkg ∧ t.core.cx = s.core.cx := by
  refine ⟨_, rfl, ?_⟩
  unfold visitLine
  split
  · exact ⟨rfl, rfl, rfl, rfl⟩
  · split <;> exact ⟨rfl, rfl, rfl, rfl⟩

/-- QSIG's add at its place. -/
def signalled (p : Place) (e : Entry) (t : State) : State :=
  let bs := bytesOfNat 8 ((memNat t.mem p.key 8 + e.cmd.b.toNat) % 2 ^ 64)
  let u := performNow (placing p .dflt) p.key bs (if p.loc == .own then t else countRecv (countSent (visitLine (lineOf p.key) t)))
  if p.loc == .dram then refreshL1 p.key bs u else u

theorem signalled_writes (p : Place) (e : Entry) (t : State) : (signalled p e t).core.cx = t.core.cx
    ∧ Say.Wrote (memWrite t.mem p.key (bytesOfNat 8 ((memNat t.mem p.key 8 + e.cmd.b.toNat) % 2 ^ 64))) t (signalled p e t) := by
  obtain ⟨v, hv, hmem, hms, hpkg, hcx⟩ := accessed_keeps (lineOf p.key) (p.loc == .own) t
  unfold signalled
  rw [hv]
  generalize bytesOfNat 8 ((memNat t.mem p.key 8 + e.cmd.b.toNat) % 2 ^ 64) = bs
  have hwrote : Say.Wrote (memWrite t.mem p.key bs) t (performNow (placing p .dflt) p.key bs v) :=
    wrote_congr (hmem ▸ wrote_performNow (placing p .dflt) p.key bs v) hpkg.symm (by rw [hms]) hmem.symm rfl
  have hsame : (performNow (placing p .dflt) p.key bs v).core.cx = t.core.cx := by rw [(sameCores_performNow ..).core, hcx]
  dsimp only
  split
  · obtain ⟨hrefresh, hrefreshCx⟩ := refreshL1_keeps p.key bs (performNow (placing p .dflt) p.key bs v)
    exact ⟨hrefreshCx.trans hsame, wrote_congr hwrote rfl rfl rfl hrefresh⟩
  · exact ⟨hsame, hwrote⟩

/-! ### QWAIT (R127, R314) -/

/-- A read noted at a slice, which nothing waits for. -/
theorem enterReadAt_keeps (slice line : Nat) (how : Placing) (die : Nat) (s : State) :
    (enterReadAt slice line how die none s).mem = s.mem ∧ (enterReadAt slice line how die none s).core = s.core := by
  have hcount : ∀ t, (if slice = homeSlice (line * 128) then countFrame line die false s else s) = t → t.mem = s.mem ∧ t.core = s.core := by
    rintro t rfl
    split
    · exact ⟨countFrame_mem .., (sameCores_countFrame ..).core⟩
    · exact ⟨rfl, rfl⟩
  unfold enterReadAt
  split
  · exact ⟨rfl, rfl⟩
  · obtain ⟨hmem, hcore⟩ := hcount _ rfl
    dsimp only
    split <;> exact ⟨hmem, hcore⟩

theorem seqAccess_keeps (p : Place) (s : State) :
    (seqAccess p s).mem = s.mem ∧ (seqAccess p s).core.cx = s.core.cx := by
  obtain ⟨t, ht, hmem, -, -, hcx⟩ := accessed_keeps (lineOf p.key) false s
  rw [if_neg Bool.false_ne_true] at ht
  unfold seqAccess
  split
  · exact ⟨rfl, rfl⟩
  · dsimp only
    rw [ht]
    split
    · obtain ⟨henterMem, henterCore⟩ := enterReadAt_keeps (homeSlice p.key) (lineOf p.key) (placing p .dflt) (dieOf s.core.num) t
      exact ⟨henterMem.trans hmem, by rw [henterCore, hcx]⟩
    · exact ⟨hmem, hcx⟩

theorem natOfBytes_lt : ∀ bs : List Byte, natOfBytes bs < 256 ^ bs.length
  | [] => by simp [natOfBytes]
  | b :: bs => by
    have hb := b.isLt
    have ih := natOfBytes_lt bs
    rw [natOfBytes, List.length_cons, Nat.pow_succ]
    omega

theorem memNat_lt (m : List Host.Cell) (k n : Nat) : memNat m k n < 256 ^ n := by
  have h := natOfBytes_lt (memRead m k n)
  rwa [length_memRead] at h

theorem waitCond_eq (c : Cmd) : waitCond c
    = (if c.flags.extractLsb' 0 2 = 0 then .ge else if c.flags.extractLsb' 0 2 = 1 then .eq else .ne) := by
  have hmode : bits c.flags.toNat 0 2 = (c.flags.extractLsb' 0 2).toNat := by
    simp [bits, BitVec.extractLsb'_toNat]
  rw [waitCond, hmode]
  generalize c.flags.extractLsb' 0 2 = m
  revert m
  decide

/-- QWAIT's condition on the word at its place (R373). -/
theorem waitCond_holds_iff {c : Cmd} {v : Nat} (hv : v < 2 ^ 64) (hmode : c.flags.extractLsb' 0 2 ≠ 3) :
    (waitCond c).holds (BitVec.ofNat 64 v) c.b = true ↔ (c.flags.extractLsb' 0 2 = 0 ∧ c.b.toNat ≤ v) ∨ (c.flags.extractLsb' 0 2 = 1 ∧ v = c.b.toNat)
      ∨ (c.flags.extractLsb' 0 2 = 2 ∧ v ≠ c.b.toNat) := by
  have heq : BitVec.ofNat 64 v = c.b ↔ v = c.b.toNat := by
    rw [← BitVec.toNat_inj, BitVec.toNat_ofNat, Nat.mod_eq_of_lt hv]
  have hle : c.b ≤ BitVec.ofNat 64 v ↔ c.b.toNat ≤ v := by
    rw [BitVec.le_def, BitVec.toNat_ofNat, Nat.mod_eq_of_lt hv]
  have hcases : ∀ m : BitVec 2, m ≠ 3 → m = 0 ∨ m = 1 ∨ m = 2 := by decide
  rw [waitCond_eq]
  rcases hcases _ hmode with h | h | h
  · simp [h, MonCond.holds, hle]
  · simp [h, MonCond.holds, heq]
  · simp [h, MonCond.holds, heq]

/-! ### The five control commands -/

section Control
variable {q : Queue} {e : Entry} {s : State} (hothers : ∀ p, p ≠ q → ∀ x ∈ s.core.queue p, x.cmd.opc ≠ e.cmd.opc)
include hothers

theorem exec_qnop_runs (h : Say.Runs q 0xC0 e s) : exec (.qnop e.bank e.seq) s = .next (controlDone q e 0 0 s) := by
  rw [exec_qnop, execQnop, controlAt_runs (opc := 0xC0) hothers h]

theorem exec_qstamp_runs (h : Say.Runs q 0xC1 e s) : exec (.qstamp e.bank e.seq) s
    = .next (if enginesGo (sequencerRelease s) then controlDone q e 0 0 (sequencerRelease s) else sequencerRelease s) := by
  rw [exec_qstamp, execQstamp, controlAt_runs (opc := 0xC1) hothers h]

/-- QARR waits for its channel, the bank and the core's stores, and then arrives. -/
theorem exec_qarr_runs {k : BitVec 3} (h : Say.Runs q 0xC2 e s) (hk : e.cmd.a.toNat % 8 = k.toNat) : exec (.qarr e.bank e.seq) s
    = (if arrivedAt s.core k || (s.core.bankOf e.bank).stopped then .next s
      else if !enginesGo (writeBackShared s) || !noneLate (writeBackShared s).core then .next (writeBackShared s)
      else .next (controlDone q e 0 0 (raiseArrival e.bank k (((s.core.bankOf e.bank).bound.map (·.launch)).getD 0) (e.cmd.b.getLsbD 0) .plain
        (writeBackShared s)))) := by
  have hnum : BitVec.ofNat 3 e.cmd.a.toNat = k := BitVec.eq_of_toNat_eq (by rw [BitVec.toNat_ofNat]; exact hk)
  rw [exec_qarr, execQarr, controlAt_runs (opc := 0xC2) hothers h]
  dsimp only
  rw [hnum]

/-- QARR arrives on its channel in the domains of its bank's launch, and the context is as it was. -/
theorem exec_qarr_arrives {k : BitVec 3} (h : Say.Runs q 0xC2 e s) (hk : e.cmd.a.toNat % 8 = k.toNat) (ha : (s.core.chans[k.toNat]'k.isLt).a = false)
    (hstop : (s.core.bankOf e.bank).stopped = false) (hgo : enginesGo (writeBackShared s) = true) (hlate : noneLate s.core = true) :
    ∃ t, exec (.qarr e.bank e.seq) s = .next t ∧ (t.core.chans[k.toNat]'k.isLt).a = true ∧ t.core.cx = s.core.cx
      ∧ (∀ x ∈ t.core.queue q, x.ord = e.ord → x.st = .worked ∧ x.status = 0)
      ∧ ∀ bd, (s.core.bankOf e.bank).bound = some bd → ∀ d ∈ s.fab.doms, d.chan = k → d.launch = bd.launch → s.core.num ∈ d.members →
          s.core.num ∉ d.left → { d with arrived := d.arrived ++ [(s.core.num, e.cmd.b.getLsbD 0, .plain)] } ∈ t.fab.doms := by
  have hidle : ¬ (arrivedAt s.core k || (s.core.bankOf e.bank).stopped) = true := by simp [arrivedAt, ha, hstop]
  have hflush : Flushed s (writeBackShared s) := flushed_writeBackWhere ..
  have hready : ¬ (!enginesGo (writeBackShared s) || !noneLate (writeBackShared s).core) = true := by simp [hgo, hflush.late, hlate]
  refine ⟨_, by rw [exec_qarr_runs hothers h hk, if_neg hidle, if_neg hready], ?_⟩
  have hdoms : (writeBackShared s).fab.doms = s.fab.doms := by rw [hflush.state]
  generalize hv : raiseArrival e.bank k (((s.core.bankOf e.bank).bound.map (·.launch)).getD 0) (e.cmd.b.getLsbD 0) .plain (writeBackShared s) = v
  have hdone := onlyQueues_controlDone q e 0 0 v
  have hchans : (controlDone q e 0 0 v).core.chans = v.core.chans := by rw [hdone.core]
  have hfab : (controlDone q e 0 0 v).fab = v.fab := by rw [hdone.state]
  refine ⟨?_, ?_, controlDone_worked _ _ _ _ _, fun bd hbound d hd hchan hlaunch hin hleft => ?_⟩
  · have hraised : (v.core.chans[k.toNat]'k.isLt).a = true := hv ▸ raiseArrival_raises ..
    simpa only [hchans] using hraised
  · rw [hdone.cx, ← hv, raiseArrival_cx, hflush.cx_of_go hgo]
  · rw [hfab, ← hv, ← hflush.toSentLines.coreNum]
    refine mem_doms_raiseArrival (hdoms ▸ hd) hchan ?_ (hflush.toSentLines.coreNum ▸ hin) (hflush.toSentLines.coreNum ▸ hleft)
    rw [hlaunch, hbound]
    rfl

/-- QSIG waits for its release. -/
theorem exec_qsig_waits {p : Place} (h : Say.Runs q 0xC4 e s) (hplace : engPlace s e.cmd.a 8 .amo = .ok p)
    (hgo : enginesGo (flushOwn p (sequencerRelease s)) = false) : exec (.qsig e.bank e.seq) s = .next (flushOwn p (sequencerRelease s)) := by
  rw [exec_qsig, execQsig, controlAt_runs (opc := 0xC4) hothers h]
  dsimp only
  rw [hplace]
  dsimp only
  rw [hgo]
  rfl

/-- After it, QSIG adds at its place. -/
theorem exec_qsig_adds {p : Place} (h : Say.Runs q 0xC4 e s) (hplace : engPlace s e.cmd.a 8 .amo = .ok p)
    (hgo : enginesGo (flushOwn p (sequencerRelease s)) = true) (hheld : lineHeld (flushOwn p (sequencerRelease s)) (lineOf p.key) = false)
    (hpoison : poisoned (flushOwn p (sequencerRelease s)) p.key 8 = false) : exec (.qsig e.bank e.seq) s
    = .next (creditBank e.bank s (controlDone q e 0 0 (signalled p e (flushOwn p (sequencerRelease s))))) := by
  rw [exec_qsig, execQsig, controlAt_runs (opc := 0xC4) hothers h]
  dsimp only
  rw [hplace]
  dsimp only
  rw [hgo, hheld, hpoison]
  rfl

/-- QWAIT reads its word at the head of its queue. -/
theorem exec_qwait_reads {p : Place} (h : Single q e s) (hopc : e.cmd.opc = 0xC3) (hhead : seqHead s.core q = some e)
    (hmay : mayDispatch s.core q e = true) (hplace : engPlace s e.cmd.a 8 .read = .ok p) (hhost : p.loc ≠ .host)
    (hflush : needsFlush s (lineOf p.key) = false) (hpoison : poisoned s p.key 8 = false)
    (hfront : p.loc = .own ∨ behind (flushOwn p s) (lineOf p.key) = false) : exec (.qwait e.bank e.seq) s
    = .next (if (waitCond e.cmd).holds (BitVec.ofNat 64 (memNat (flushOwn p s).mem p.key 8)) e.cmd.b
      then creditBank e.bank s (endQwait q e 0 (seqAccess p (flushOwn p s))) else flushOwn p s) := by
  have hat := controlAt_single hothers h (act := fun q e => seqHead s.core q == some e && mayDispatch s.core q e) (by simp [hhead, hmay])
  rw [hopc] at hat
  have hbehind : ¬ (p.loc != .own && behind (flushOwn p s) (lineOf p.key)) = true := by
    rcases hfront with h | h <;> simp [h]
  rw [exec_qwait, execQwait, hat]
  dsimp only
  rw [hplace]
  dsimp only
  rw [if_neg hhost, hflush, hpoison, if_neg Bool.false_ne_true, if_neg Bool.false_ne_true, if_neg hbehind]

end Control

/-- A QWAIT whose condition is met is dispatched with its work done, and memory and the context are as they were. -/
theorem endQwait_credited {q : Queue} {e : Entry} {p : Place} (hopc : e.cmd.opc = 0xC3) (s t : State) :
    (creditBank e.bank s (endQwait q e 0 (seqAccess p t))).mem = t.mem
      ∧ (creditBank e.bank s (endQwait q e 0 (seqAccess p t))).core.cx = t.core.cx
      ∧ ∀ x ∈ (creditBank e.bank s (endQwait q e 0 (seqAccess p t))).core.queue q, x.ord = e.ord → x.st = .worked ∧ x.status = 0 := by
  obtain ⟨haccMem, haccCx⟩ := seqAccess_keeps p t
  obtain ⟨hdispMem, hdispCx, -⟩ := dispatchEntry_frame (q := q) (e := e) (s := seqAccess p t) (.inl (by rw [hopc]; decide))
  have hdone := onlyQueues_controlDone q e 0 e.cmd.a (dispatchEntry q e (seqAccess p t))
  have hcredit := beside_creditBank e.bank s (endQwait q e 0 (seqAccess p t))
  refine ⟨hcredit.mem.trans (hdone.mem.trans (hdispMem.trans haccMem)), ?_, fun x hx => ?_⟩
  · rw [creditBank_cx]
    exact hdone.cx.trans (hdispCx.trans haccCx)
  · rw [hcredit.queue] at hx
    exact controlDone_worked _ _ _ _ _ x hx

theorem inner_of_mayDispatch {c : Core} {q : Queue} {e : Entry} (h : mayDispatch c q e = true) : e.inner = none := by
  simp only [mayDispatch, Bool.and_eq_true, Option.isNone_iff_eq_none] at h
  exact h.1.1.1.1.1.2

/-- The context stands as it was where the read of a QWAIT is not behind a write of its line. -/
theorem flushOwn_cx {p : Place} {s : State} (hfront : p.loc = .own ∨ behind (flushOwn p s) (lineOf p.key) = false) :
    (flushOwn p s).core.cx = s.core.cx := by
  unfold flushOwn at hfront ⊢
  split
  next hdram =>
    rw [if_pos hdram] at hfront
    have hfront := hfront.resolve_left (by rw [beq_iff_eq.mp hdram]; decide)
    refine (cx_writeBackLine ..).resolve_right fun ⟨w, hw, hline⟩ => ?_
    rw [behind, (flushed_writeBackLine ..).toSentLines.coreNum, Bool.or_eq_false_iff, List.any_eq_false] at hfront
    exact hfront.1 w hw (by simp [sameSlice, hline])
  next => rfl

end Sys2Proof.Machine

namespace Sys2Proof.Proofs
open Sys2Proof.Machine

/-- Settles O32: each control command acts at its place in its queue, and the release before it changes no context. -/
theorem controlCommands : Obligations.ControlCommands := by
  intro q e s hothers
  refine ⟨fun h => ?_, fun h hgo => ?_, fun h hgo => ?_, fun k h hk => ⟨fun hbusy => ?_, fun ha hstop hwait => ?_, fun ha hstop hgo hlate => ?_⟩,
    fun p h hplace hkey => ⟨fun hgo => ?_, fun hgo hheld hpoison => ?_⟩,
    fun p he hopc hsingle hhead hmay hplace hhost hflush hpoison hfront => ?_⟩
  · have hdone := onlyQueues_controlDone q e 0 0 s
    exact ⟨_, exec_qnop_runs hothers h, hdone.mem, hdone.cx, controlDone_worked _ _ _ _ _⟩
  · rw [exec_qstamp_runs hothers h, hgo]
    rfl
  · have hflush : Flushed s (sequencerRelease s) := flushed_writeBackWhere ..
    have hdone := onlyQueues_controlDone q e 0 0 (sequencerRelease s)
    refine ⟨_, by rw [exec_qstamp_runs hothers h, if_pos hgo], hdone.mem.trans hflush.toSentLines.mem, hdone.cx.trans (hflush.cx_of_go hgo),
      controlDone_worked _ _ _ _ _⟩
  · have hwaits : (arrivedAt s.core k || (s.core.bankOf e.bank).stopped) = true := by
      rw [Bool.or_eq_true]
      exact hbusy
    rw [exec_qarr_runs hothers h hk, if_pos hwaits]
  · have hidle : ¬ (arrivedAt s.core k || (s.core.bankOf e.bank).stopped) = true := by simp [arrivedAt, ha, hstop]
    have hlate : noneLate (writeBackShared s).core = noneLate s.core := (sentWrites_writeBackShared s).late
    rw [exec_qarr_runs hothers h hk, if_neg hidle, hlate, if_pos (by rcases hwait with h | h <;> simp [h])]
  · exact exec_qarr_arrives hothers h hk ha hstop hgo hlate
  · exact exec_qsig_waits hothers h hplace hgo
  · have hflush : Flushed s (flushOwn p (sequencerRelease s)) := (flushed_writeBackWhere ..).trans (flushed_flushOwn ..)
    obtain ⟨hcx, hwrote⟩ := signalled_writes p e (flushOwn p (sequencerRelease s))
    have hdone := onlyQueues_controlDone q e 0 0 (signalled p e (flushOwn p (sequencerRelease s)))
    have hcredit := beside_creditBank e.bank s (controlDone q e 0 0 (signalled p e (flushOwn p (sequencerRelease s))))
    refine ⟨_, exec_qsig_adds hothers h hplace hgo ((hflush.lineHeld _).trans hheld) ((hflush.poisoned ..).trans hpoison), ?_, ?_, fun x hx => ?_⟩
    · rw [creditBank_cx, hdone.cx, hcx, hflush.cx_of_go hgo]
    · rw [hflush.toSentLines.mem] at hwrote
      exact wrote_congr hwrote (by rw [hflush.state]) (by rw [hflush.ms]) hflush.toSentLines.mem.symm (hcredit.mem.trans hdone.mem)
    · rw [hcredit.queue] at hx
      exact controlDone_worked _ _ _ _ _ x hx
  · have hinner : e.inner = none := inner_of_mayDispatch hmay
    have hexec := exec_qwait_reads hothers ⟨he, hinner, hsingle⟩ hopc hhead hmay hplace hhost hflush hpoison hfront
    have hflushed := flushed_flushOwn p s
    have hcond := waitCond_holds_iff (c := e.cmd) (memNat_lt (flushOwn p s).mem p.key 8)
    rw [hflushed.toSentLines.mem] at hexec hcond
    refine ⟨fun hmet => ?_, fun hmode hunmet => ?_⟩
    · have hmode : e.cmd.flags.extractLsb' 0 2 ≠ 3 := by
        rcases hmet with ⟨h, -⟩ | ⟨h, -⟩ | ⟨h, -⟩ <;> rw [h] <;> decide
      obtain ⟨hmem, hcx, hworked⟩ := endQwait_credited (q := q) (e := e) (p := p) hopc s (flushOwn p s)
      rw [if_pos ((hcond hmode).mpr hmet)] at hexec
      exact ⟨_, hexec, hmem.trans hflushed.toSentLines.mem, hcx.trans (flushOwn_cx hfront), hworked⟩
    · rw [if_neg (mt (hcond hmode).mp hunmet)] at hexec
      exact ⟨_, hexec, hflushed.toSentLines.mem, hflushed.toSentLines.queue q⟩

end Sys2Proof.Proofs
end

section
/-! SUPPORT. Memory keeps its canonical form (logs 3 and 4): what each function of the model does to it. A function that leaves memory alone has an
equation `f_mem`, where `(rfl)` keeps the equation out of `dsimp`; one that writes memory, a lemma `canonical_f`; an instruction, a lemma `keeps_f`. -/

namespace Sys2Proof.Machine

/-! ### What it is to keep memory canonical (log 3, log 4) -/

/-- Memory is in its canonical form. -/
@[simp] abbrev Canonical (s : State) : Prop := Memory.wf s.mem = true

/-- A move that ends in a next state leaves memory canonical there. -/
def Keeps (o : Out) : Prop := ∀ t, o = .next t → Canonical t

/-- What a computation gives has `P`, and where it waits instead, the state that it leaves is canonical. -/
def Yields {α : Type} (P : α → Prop) : Res α → Prop
  | .ok a => P a
  | .error (.wait _ t) => Canonical t
  | .error _ => True

@[simp] theorem yields_ok {α : Type} {P : α → Prop} (a : α) : Yields P (.ok a) ↔ P a := Iff.rfl
@[simp] theorem yields_pure {α : Type} {P : α → Prop} (a : α) : Yields P (pure a) ↔ P a := Iff.rfl
@[simp] theorem yields_trap {α : Type} {P : α → Prop} (c : BitVec 8) (v : Word) : Yields P (.error (.trap c v)) := trivial
@[simp] theorem yields_throw_trap {α : Type} {P : α → Prop} (c : BitVec 8) (v : Word) : Yields P (throw (.trap c v)) := trivial
@[simp] theorem yields_stall {α : Type} {P : α → Prop} : Yields P (.error .stall) := trivial
@[simp] theorem yields_wait {α : Type} {P : α → Prop} (w : Wait) (t : State) : Yields P (.error (.wait w t)) ↔ Canonical t := Iff.rfl

@[simp] theorem yields_illegalT {α : Type} {P : α → Prop} (w : Option W32) : Yields P (illegalT w) := trivial
@[simp] theorem yields_throw_wait {α : Type} {P : α → Prop} (w : Wait) (t : State) : Yields P (throw (.wait w t)) ↔ Canonical t := Iff.rfl

@[simp] theorem yields_bind {α β : Type} {P : β → Prop} (m : Res α) (f : α → Res β) : Yields P (m >>= f) ↔ Yields (fun a => Yields P (f a)) m := by
  rcases m with (_ | _ | _) | _ <;> rfl

@[simp] theorem yields_map {α β : Type} {P : β → Prop} (f : α → β) (m : Res α) : Yields P (f <$> m) ↔ Yields (fun a => P (f a)) m := by
  rcases m with (_ | _ | _) | _ <;> rfl

/-- A check of every element. -/
@[simp] theorem yields_forM {α : Type} {f : α → Res Unit} (hf : ∀ a (Q : Unit → Prop), Q () → Yields Q (f a)) : ∀ (l : List α) {P : Unit → Prop},
    P () → Yields P (forM l f)
  | [], _, hP => hP
  | a :: l, P, hP => by
    rw [List.forM_cons, yields_bind]
    exact hf a _ (yields_forM hf l hP)

/-- A check that gives a value for every element. -/
@[simp] theorem yields_mapM {α β : Type} {f : α → Res β} (hf : ∀ a (Q : β → Prop), (∀ b, Q b) → Yields Q (f a)) : ∀ (l : List α)
    {P : List β → Prop}, (∀ bs, P bs) → Yields P (l.mapM f)
  | [], _, hP => by simpa using hP []
  | a :: l, P, hP => by
    rw [List.mapM_cons, yields_bind]
    refine hf a _ fun b => ?_
    rw [yields_bind]
    exact yields_mapM hf l fun bs => hP (b :: bs)

@[simp] theorem yields_ite {α : Type} {P : α → Prop} (c : Prop) [Decidable c] (a b : Res α) :
    Yields P (if c then a else b) ↔ (c → Yields P a) ∧ (¬c → Yields P b) := by
  by_cases h : c <;> simp [h]

@[simp] theorem keeps_next (t : State) : Keeps (.next t) ↔ Canonical t := ⟨fun h => h t rfl, fun h _ ht => Host.Outcome.next.inj ht ▸ h⟩
@[simp] theorem keeps_refused (r : Refusal) : Keeps (.refused r) := fun _ h => by cases h

@[simp] theorem keeps_ite (c : Prop) [Decidable c] (a b : Out) : Keeps (if c then a else b) ↔ (c → Keeps a) ∧ (¬c → Keeps b) := by
  by_cases h : c <;> simp [h]

@[simp] theorem ite_mem (c : Prop) [Decidable c] (a b : State) : (if c then a else b).mem = if c then a.mem else b.mem := apply_ite ..

@[simp] theorem wf_ite (c : Prop) [Decidable c] (m n : List Host.Cell) :
    Memory.wf (if c then m else n) = true ↔ (c → Memory.wf m = true) ∧ (¬c → Memory.wf n = true) := by
  by_cases h : c <;> simp [h]

@[simp] theorem foldl_mem {β : Type} {f : State → β → State} (hf : ∀ s x, (f s x).mem = s.mem) (l : List β) (s : State) : (l.foldl f s).mem = s.mem :=
  foldl_keeps State.mem hf l s

@[simp] theorem canonical_foldl {β : Type} {f : State → β → State} (hf : ∀ s x, Canonical s → Canonical (f s x)) (l : List β) {s : State}
    (h : Canonical s) : Canonical (l.foldl f s) :=
  List.foldlRecOn l f h fun s hs x _ => hf s x hs

/-! ### Access -/

@[simp] theorem writeF_mem (r : RegNo) (v : Word) (s : State) : (writeF r v s).mem = s.mem := (rfl)
@[simp] theorem writeV_mem (r : RegNo) (v : VReg) (pm : PReg) (s : State) : (writeV r v pm s).mem = s.mem := (rfl)
@[simp] theorem writeP_mem (p : PredNo) (v : PReg) (s : State) : (writeP p v s).mem = s.mem := by simp [writeP]
@[simp] theorem mapCores_mem (f : Core → Core) (s : State) : (mapCores f s).mem = s.mem := (rfl)
@[simp] theorem turnTo_mem (n : Nat) (s : State) : (turnTo n s).mem = s.mem := by simp [turnTo]

@[simp] theorem canonical_atCore (n : Nat) {f : State → State} {s : State} (hf : ∀ a0, Canonical a0 → Canonical (f a0)) (h : Canonical s) :
    Canonical (atCore n f s) := by
  simp [atCore, h, hf]

@[simp] theorem wake_mem (p : Bool → Nat → Wait → Bool) (s : State) : (wake p s).mem = s.mem := (rfl)
@[simp] theorem wakeAll_mem (p : Wait → Bool) (s : State) : (wakeAll p s).mem = s.mem := (rfl)
@[simp] theorem inject_mem (p : Packet) (s : State) : (inject p s).mem = s.mem := (rfl)
@[simp] theorem modSlice_mem (n : Nat) (f : Slice → Slice) (s : State) : (modSlice n f s).mem = s.mem := (rfl)
@[simp] theorem jumpTo_mem (t : Word) (s : State) : (jumpTo t s).mem = s.mem := (rfl)
@[simp] theorem freeW_mem (s : State) : (freeW s).2.mem = s.mem := (rfl)
@[simp] theorem freeBytes_mem (n : Nat) (s : State) : (freeBytes n s).2.mem = s.mem := (rfl)

/-! ### Perform -/

@[simp] theorem modFrame_mem (n : Nat) (f : Frame → Frame) (s : State) : (modFrame n f s).mem = s.mem := (rfl)
@[simp] theorem addSharer_mem (line die : Nat) (s : State) : (addSharer line die s).mem = s.mem := by simp [addSharer]
@[simp] theorem shareRead_mem (line : Nat) (s : State) : (shareRead line s).mem = s.mem := by simp [shareRead]
@[simp] theorem canonical_setMeta (block v : Nat) {s : State} (h : Canonical s) : Canonical (setMeta block v s) := wf_memWrite _ _ h
@[simp] theorem canonical_noteCode (line code : Nat) {s : State} (h : Canonical s) : Canonical (noteCode line code s) := by simp [noteCode, h]
@[simp] theorem poisonLines_mem (ls : List Nat) (s : State) : (poisonLines ls s).mem = s.mem := (rfl)

@[simp] theorem canonical_loseSector (block : Nat) {s : State} (h : Canonical s) : Canonical (loseSector block s) := by
  simp +contextual [loseSector, h]

@[simp] theorem canonical_markWritten (line : Nat) {s : State} (h : Canonical s) : Canonical (markWritten line s) := by simp [markWritten, h]

@[simp] theorem canonical_leaveSlice (x y : Slice) {s : State} (h : Canonical s) : Canonical (leaveSlice x y s) := by
  refine canonical_foldl (fun s l h => ?_) _ h
  have hnote : Canonical (if l.bark && l.code = 15 && x.num = homeSlice (l.line * 128) then noteCode l.line 15 s else s) := by simp [h]
  dsimp only
  generalize (if l.bark && l.code = 15 && x.num = homeSlice (l.line * 128) then noteCode l.line 15 s else s) = t at hnote ⊢
  split
  · exact hnote
  · simp [hnote]

@[simp] theorem canonical_setSlice (x y : Slice) {s : State} (h : Canonical s) : Canonical (setSlice x y s) := by simp [setSlice, h]
@[simp] theorem waitRoom_mem (s : State) : (waitRoom s).mem = s.mem := (rfl)
@[simp] theorem answer_mem (slice line : Nat) (who : Asker) (s : State) : (answer slice line who s).mem = s.mem := (rfl)

theorem canonical_fillMiss {slice : Nat} {m : Miss} {s t : State} (h : Canonical s) (ht : fillMiss slice m s = some t) : Canonical t := by
  obtain ⟨y, -, rfl⟩ := Option.map_eq_some_iff.mp ht
  simp [h]

/-- A fill, or the wait for room. -/
@[simp] theorem canonical_fillMiss_getD (slice : Nat) (m : Miss) {s : State} (h : Canonical s) : Canonical ((fillMiss slice m s).getD (waitRoom s)) := by
  cases ht : fillMiss slice m s with
  | none => exact h
  | some t => exact canonical_fillMiss h ht

@[simp] theorem canonical_fetchNow (line : Nat) (how : Placing) {s : State} (h : Canonical s) : Canonical (fetchNow line how s) := by
  unfold fetchNow
  dsimp only
  (repeat' split) <;> simp [h]

@[simp] theorem disturb_mem (line : Nat) (s : State) : (disturb line s).mem = s.mem := (rfl)
@[simp] theorem canonical_wholeLine (line : Nat) {s : State} (h : Canonical s) : Canonical (wholeLine line s) := by simp [wholeLine, h]

@[simp] theorem canonical_recode (line : Nat) (how : Placing) (fetched : Bool) {s : State} (h : Canonical s) :
    Canonical (recode line how fetched s) := by
  unfold recode
  dsimp only
  (repeat' split) <;> simp [h]

@[simp] theorem canonical_writeLine (how : Placing) (die line : Nat) (whole : Bool) {f : List Host.Cell → List Host.Cell}
    (hf : ∀ m, Memory.wf m = true → Memory.wf (f m) = true) {s : State} (h : Canonical s) : Canonical (writeLine how die line whole f s) := by
  simp [writeLine, hf _ (canonical_fetchNow line how h)]

@[simp] theorem canonical_performFrom (how : Placing) (die k : Nat) (bs : List Byte) {s : State} (h : Canonical s) :
    Canonical (performFrom how die k bs s) :=
  canonical_writeLine how die _ _ (fun _ hm => wf_memWrite bs k hm) h

@[simp] theorem canonical_performNow (how : Placing) (k : Nat) (bs : List Byte) {s : State} (h : Canonical s) :
    Canonical (performNow how k bs s) := by
  simp [performNow, h]

@[simp] theorem canonical_mergeNow (core line : Nat) (data : BitVec 1024) (mask : BitVec 128) (how : Placing) {s : State} (h : Canonical s) :
    Canonical (mergeNow core line data mask how s) := by
  unfold mergeNow
  split
  · exact h
  · exact canonical_writeLine how _ _ _ (fun _ hm => wf_memMerge _ _ _ hm) h

@[simp] theorem holdWrite_mem (core line : Nat) (data : BitVec 1024) (mask : BitVec 128) (how : Placing) (who : Option StoreOf) (s : State) :
    (holdWrite core line data mask how who s).mem = s.mem :=
  (rfl)

@[simp] theorem canonical_performChunk (how : Placing) (k : Nat) (bs : List Byte) {s : State} (h : Canonical s) :
    Canonical (performChunk how k bs s) := by
  simp [performChunk, h]

@[simp] theorem canonical_performHow (how : Placing) (k : Nat) (bs : List Byte) {s : State} (h : Canonical s) :
    Canonical (performHow how k bs s) := by
  simp +contextual [performHow, h]

@[simp] theorem canonical_perform (k : Nat) (bs : List Byte) {s : State} (h : Canonical s) : Canonical (perform k bs s) := by simp [perform, h]

@[simp] theorem canonical_performMask (core : Nat) (w : WriteBack) {s : State} (h : Canonical s) : Canonical (performMask core w s) := by
  simp [performMask, h]

@[simp] theorem enterReadAt_mem (slice line : Nat) (how : Placing) (die : Nat) (who : Option Asker) (s : State) :
    (enterReadAt slice line how die who s).mem = s.mem := by
  unfold enterReadAt
  (repeat' split) <;> simp

@[simp] theorem enterRead_mem (line : Nat) (how : Placing) (s : State) : (enterRead line how s).mem = s.mem := by simp [enterRead]

/-! ### Routes -/

@[simp] theorem takePacket_mem (p : Packet) (s : State) : (takePacket p s).mem = s.mem := (rfl)
@[simp] theorem visitLine_mem (line : Nat) (s : State) : (visitLine line s).mem = s.mem := by simp [visitLine]

/-! ### Ops -/

@[simp] theorem seekCtx_mem (s : State) : (seekCtx s).mem = s.mem := by
  unfold seekCtx
  split <;> simp

@[simp] theorem waitFor_mem (w : Wait) (s : State) : (waitFor w s).mem = s.mem := by simp [waitFor]

@[simp] theorem canonical_saveRecs (b : Bool) (id : Nat) {s : State} (h : Canonical s) : Canonical (saveRecs b id s) := by
  unfold saveRecs
  split <;> simp [h]

@[simp] theorem canonical_pushRec (b : Bool) (id : Nat) (r : Rec) {s : State} (h : Canonical s) : Canonical (pushRec b id r s) := by simp [pushRec, h]

@[simp] theorem canonical_endLate (l : Late) (err : BitVec 128) (b : Bool) (id : Nat) {s : State} (h : Canonical s) :
    Canonical (endLate l err b id s) := by
  have hdone := canonical_foldl (f := fun s (e : HostElem) => e.cells.foldl (fun s c => perform c.1 [c.2] s) s)
    (fun _ e h => canonical_foldl (fun _ c h => canonical_perform c.1 [c.2] h) e.cells h) (l.host.filter fun e => !err.getLsbD e.idx) h
  unfold endLate
  dsimp only
  split
  · exact hdone
  · exact canonical_pushRec _ _ _ hdone

@[simp] theorem canonical_recordDropped (core : Nat) (who : Option StoreOf) {s : State} (h : Canonical s) : Canonical (recordDropped core who s) := by
  unfold recordDropped
  dsimp only
  (repeat' split) <;> simp +contextual [h]

@[simp] theorem canonical_performHeld : ∀ (n : Nat) {s : State}, Canonical s → Canonical (performHeld n s)
  | 0, _, h => h
  | n + 1, s, h => by
    unfold performHeld
    split
    · exact h
    · exact canonical_performHeld n (by simp [h])

@[simp] theorem canonical_dropSharer (p gone : Nat → Bool) {s : State} (h : Canonical s) : Canonical (dropSharer p gone s) := by simp [dropSharer, h]

@[simp] theorem canonical_performIo (how : Placing) (io k : Nat) (bs : List Byte) {s : State} (h : Canonical s) :
    Canonical (performIo how io k bs s) :=
  canonical_foldl (fun _ _ h => by simp [h]) _ h

@[simp] theorem canonical_performAll (io k : Nat) (bs : List Byte) {s : State} (h : Canonical s) : Canonical (performAll io k bs s) := by
  simp [performAll, h]

@[simp] theorem yields_drained {s : State} (h : Canonical s) {P : Unit → Prop} (hP : P ()) : Yields P (drained s) := by simp [drained, h, hP]
@[simp] theorem countSent_mem (s : State) : (countSent s).mem = s.mem := (rfl)
@[simp] theorem countRecv_mem (s : State) : (countRecv s).mem = s.mem := (rfl)

@[simp] theorem canonical_writeRecord (pa : Nat) (bs : List Byte) {s : State} (h : Canonical s) : Canonical (writeRecord pa bs s) := by
  simp [writeRecord, h]

@[simp] theorem canonical_stopBank (n : Nat) (b : Bool) (st : Stop) (terminal again : Bool) {s : State} (h : Canonical s) :
    Canonical (stopBank n b st terminal again s) := by
  unfold stopBank
  dsimp only
  (repeat' split) <;> simp [h]

@[simp] theorem canonical_driveHalt (n : Nat) (k : BitVec 3) (m : HaltMsg) {s : State} (h : Canonical s) : Canonical (driveHalt n k m s) := by
  unfold driveHalt
  split <;> simp [h]

@[simp] theorem notifyRoot_mem (launch : Nat) (o : Origin) (starters : List Nat) (s : State) : (notifyRoot launch o starters s).mem = s.mem := (rfl)

@[simp] theorem canonical_fatalStopAt (n : Nat) (b : Bool) (st : Stop) {s : State} (h : Canonical s) : Canonical (fatalStopAt n b st s) := by
  unfold fatalStopAt
  dsimp only
  (repeat' split) <;> simp +contextual [h]

@[simp] theorem canonical_fatalOrLater (b : Bool) (st : Stop) {s : State} (h : Canonical s) : Canonical (fatalOrLater b st s) := by
  unfold fatalOrLater
  split <;> simp [h]

@[simp] theorem canonical_fatalStop (cause entry : BitVec 8) {s : State} (h : Canonical s) : Canonical (fatalStop cause entry s) := by
  simp [fatalStop, h]

@[simp] theorem canonical_takeTrap (cause : BitVec 8) (tval : Word) {s : State} (h : Canonical s) : Canonical (takeTrap cause tval s) := by
  simp [takeTrap, h]

@[simp] theorem canonical_orTrap {r : Res State} {s : State} (hr : Yields Canonical r) (h : Canonical s) : Canonical (orTrap r s) := by
  unfold orTrap
  split
  · exact hr
  · simp [h]
  · simpa using hr
  · exact h

@[simp] theorem canonical_illegal (w : Option W32) {s : State} (h : Canonical s) : Canonical (illegal w s) := by simp [illegal, h]
@[simp] theorem staleAsks_mem (line : Nat) (s : State) : (staleAsks line s).mem = s.mem := (rfl)
@[simp] theorem sendWrite_mem (w : WriteBack) (s : State) : (sendWrite w s).mem = s.mem := (rfl)
@[simp] theorem sendBytes_mem (x : L1Line) (mask : BitVec 128) (s : State) : (sendBytes x mask s).mem = s.mem := by simp [sendBytes]

@[simp] theorem writeBackLine_mem (line : Nat) (s : State) : (writeBackLine line s).mem = s.mem := by
  unfold writeBackLine
  split <;> simp

@[simp] theorem canonical_writeBackWhere (p : L1Line → Bool) {s : State} (h : Canonical s) : Canonical (writeBackWhere p s) := by
  simp [writeBackWhere, h]

@[simp] theorem writeBackShared_mem (s : State) : (writeBackShared s).mem = s.mem := foldl_keeps State.mem (fun _ _ => by simp) _ _
@[simp] theorem writeBackOwed_mem (sync : Nat) (s : State) : (writeBackOwed sync s).mem = s.mem := foldl_keeps State.mem (fun _ _ => by simp) _ _
@[simp] theorem invalidateShared_mem (s : State) : (invalidateShared s).mem = s.mem := (rfl)

@[simp] theorem patchL1_mem (clean : Bool) (k : Nat) (bs : List Byte) (s : State) : (patchL1 clean k bs s).mem = s.mem := by
  unfold patchL1
  split <;> rfl

@[simp] theorem refreshL1_mem (k : Nat) (bs : List Byte) (s : State) : (refreshL1 k bs s).mem = s.mem := by simp [refreshL1]

@[simp] theorem updateL1_mem (k : Nat) (bs : List Byte) (s : State) : (updateL1 k bs s).mem = s.mem := by
  unfold updateL1
  dsimp only
  split <;> simp

@[simp] theorem dropL1_mem (k n : Nat) (s : State) : (dropL1 k n s).mem = s.mem := by
  unfold dropL1
  split <;> rfl

@[simp] theorem l1Evict_mem (line : Nat) (s : State) : (l1Evict line s).mem = s.mem := by
  unfold l1Evict
  dsimp only
  (repeat' split) <;> simp

@[simp] theorem l1Touch_mem (line : Nat) (s : State) : (l1Touch line s).mem = s.mem := by
  unfold l1Touch
  split <;> rfl

@[simp] theorem canonical_startFlush (slice line : Nat) {s : State} (h : Canonical s) : Canonical (startFlush slice line s) := by
  unfold startFlush
  split <;> simp [h]

@[simp] theorem canonical_recordRelease (line core : Nat) {s : State} (h : Canonical s) : Canonical (recordRelease line core s) := by
  unfold recordRelease
  dsimp only
  (repeat' split) <;> simp [h]

@[simp] theorem oweTo_mem (line : Nat) (s : State) : (oweTo line s).mem = s.mem := by
  unfold oweTo
  (repeat' split) <;> simp

@[simp] theorem yields_eagerRelease {s : State} (h : Canonical s) {P : State → Prop} (hP : ∀ t, Canonical t → P t) : Yields P (eagerRelease s) := by
  simp [eagerRelease, h, hP]

@[simp] theorem yields_releaseGate (sc : Scope) (line : Nat) {s : State} (h : Canonical s) {P : State → Prop} (hP : ∀ t, Canonical t → P t) :
    Yields P (releaseGate sc line s) := by
  simp +contextual [releaseGate, h, hP]

@[simp] theorem releaseOwe_mem (sc : Scope) (line : Nat) (s : State) : (releaseOwe sc line s).mem = s.mem := by simp [releaseOwe]
@[simp] theorem acquireActs_mem (sc : Scope) (s : State) : (acquireActs sc s).mem = s.mem := by simp [acquireActs]

/-! ### Translate -/

@[simp] theorem enterWalk_mem (va : Word) (s : State) : (enterWalk va s).mem = s.mem := (rfl)
@[simp] theorem walkBehind_mem (va : Word) (acc : Acc) (s : State) : (walkBehind va acc s).mem = s.mem := by simp [walkBehind]

@[simp] theorem yields_rangeLockCheck (s : State) (va : Word) (n : Nat) {P : Unit → Prop} (hP : P ()) : Yields P (rangeLockCheck s va n) := by
  simp [rangeLockCheck, hP]

@[simp] theorem yields_resolveT (va : Word) (n : Nat) (acc : Acc) {s : State} (h : Canonical s) {P : Place → Prop} (hP : ∀ p, P p) :
    Yields P (resolveT s va n acc) := by
  unfold resolveT
  split
  · simp [h]
  · split <;> simp [h, hP]

/-! ### Thread -/

@[simp] theorem enterFill_mem (line : Nat) (cls : L1Cls) (lru bark : Bool) (s : State) : (enterFill line cls lru bark s).mem = s.mem := (rfl)

@[simp] theorem l1Store_mem (p : Place) (h : Hint) (bs : List Byte) (who : StoreOf) (s : State) : (l1Store p h bs who s).mem = s.mem := by
  unfold l1Store
  dsimp only
  split <;> simp

@[simp] theorem yields_inOrder (p : Place) {s : State} (h : Canonical s) {P : Unit → Prop} (hP : P ()) : Yields P (inOrder p s) := by
  simp [inOrder, h, hP]

@[simp] theorem sendAsk_mem (keep : Bool) (cls : TClass) (dst : Nat) (want : Option (Nat × Placing)) (s : State) :
    (sendAsk keep cls dst want s).mem = s.mem :=
  (rfl)

@[simp] theorem askFar_mem (p : Place) (s : State) : (askFar p s).mem = s.mem := by
  unfold askFar
  split <;> rfl

@[simp] theorem askLoad_mem (keep : Bool) (p : Place) (h : Hint) (s : State) : (askLoad keep p h s).mem = s.mem := by
  unfold askLoad
  split <;> simp

@[simp] theorem askHome_mem (p : Place) (s : State) : (askHome p s).mem = s.mem := by
  unfold askHome
  split <;> simp

@[simp] theorem yields_sendAll (els : List Elem) (ask : Place → State → State) {s : State} (hask : ∀ a0 a1, Canonical a1 → Canonical (ask a0 a1))
    (h : Canonical s) {P : Unit → Prop} (hP : P ()) : Yields P (sendAll els ask s) := by
  simp +contextual [sendAll, h, hP, hask]

@[simp] theorem yields_remoteGate (els : List Elem) {ask : Place → State → State} (hask : ∀ p s, Canonical s → Canonical (ask p s)) {s : State}
    (h : Canonical s) {P : Unit → Prop} (hP : P ()) : Yields P (remoteGate els ask s) := by
  unfold remoteGate
  split
  · split
    · exact hP
    · exact yields_sendAll els ask hask h hP
  · split <;> simp [hP]

@[simp] theorem yields_loadGate (n : Nat) (h : Hint) (els : List Elem) {s : State} (hs : Canonical s) {P : Unit → Prop} (hP : P ()) :
    Yields P (loadGate n h els s) := by
  simp +contextual [loadGate, hs, hP]

@[simp] theorem yields_loadAt (i : Nat) (p : Place) (va : Word) (n : Nat) (h : Hint) {s : State} (hs : Canonical s) {P : Got → Prop}
    (hP : ∀ g, Canonical g.st → P g) : Yields P (loadAt i p va n h s) := by
  unfold loadAt
  dsimp only
  (repeat' split) <;> simp [hs, hP]

@[simp] theorem yields_memLoad (va : Word) (n : Nat) (h : Hint) {s : State} (hs : Canonical s) {P : Got → Prop} (hP : ∀ g, Canonical g.st → P g) :
    Yields P (memLoad va n h s) := by
  simp +contextual [memLoad, hs, hP]

@[simp] theorem canonical_storeAt (p : Place) (bs : List Byte) (h : Hint) (r : Rec) {s : State} (hs : Canonical s) :
    Canonical (storeAt p bs h r s) := by
  unfold storeAt
  split <;> simp [hs]

@[simp] theorem addLate_mem (l : Late) (s : State) : (addLate l s).mem = s.mem := (rfl)
@[simp] theorem recordStoreFault_mem (r : Rec) (s : State) : (recordStoreFault r s).mem = s.mem := (rfl)
@[simp] theorem sendHost_mem (pa : Nat) (s : State) : (sendHost pa s).mem = s.mem := (rfl)
@[simp] theorem addHostStore_mem (l : Late) (pa : Nat) (s : State) : (addHostStore l pa s).mem = s.mem := (rfl)
@[simp] theorem yields_deviceGate (p : Place) (s : State) {P : Unit → Prop} (hP : P ()) : Yields P (deviceGate p s) := by simp [deviceGate, hP]

@[simp] theorem yields_memStore (va : Word) (n data : Nat) (hint : Hint) (src : BitVec 2) (s : State) {t : State} (h : Canonical t)
    {P : State → Prop} (hP : ∀ t, Canonical t → P t) : Yields P (memStore va n data hint src s t) := by
  unfold memStore
  rw [yields_bind]
  refine yields_rangeLockCheck _ _ _ ?_
  dsimp only
  split
  · simp [h, hP]
  · simp [h, hP]

@[simp] theorem flushOwn_mem (p : Place) (s : State) : (flushOwn p s).mem = s.mem := by simp [flushOwn]
@[simp] theorem holdRmw_mem (line : Nat) (s : State) : (holdRmw line s).mem = s.mem := by simp [holdRmw]

@[simp] theorem yields_replicaGate (p : Place) {s : State} (h : Canonical s) {P : Unit → Prop} (hP : P ()) : Yields P (replicaGate p s) := by
  simp [replicaGate, h, hP]

@[simp] theorem yields_acquireGate (p : Place) {s : State} (h : Canonical s) {P : Unit → Prop} (hP : P ()) : Yields P (acquireGate p s) := by
  unfold acquireGate
  split <;> simp [h, hP]

@[simp] theorem yields_homeLoad (acq : Bool) (p : Place) (va : Word) (n : Nat) {s : State} (h : Canonical s) {P : Got → Prop}
    (hP : ∀ g, Canonical g.st → P g) : Yields P (homeLoad acq p va n s) := by
  simp [homeLoad, h, hP]

@[simp] theorem yields_rmwReady (p : Place) (va : Word) (acq : Bool) (rel : Option Scope) {s : State} (h : Canonical s) {P : State → Prop}
    (hP : ∀ t, Canonical t → P t) : Yields P (rmwReady p va acq rel s) := by
  unfold rmwReady
  dsimp only
  (repeat' split) <;> simp +contextual [h, hP]

@[simp] theorem yields_rmwAt (p : Place) (va : Word) (n : Nat) (f : Nat → Nat) {s : State} (h : Canonical s) {P : Old → Prop}
    (hP : ∀ o, Canonical o.st → P o) : Yields P (rmwAt p va n f s) := by
  simp [rmwAt, h, hP]

@[simp] theorem canonical_homeStore (p : Place) (bs : List Byte) {s : State} (h : Canonical s) : Canonical (homeStore p bs s) := by
  unfold homeStore
  split <;> simp [h]

/-! ### Contexts -/

@[simp] theorem yields_hstartStep (rs2 rs1 rd : RegNo) (w : Option W32) {s : State} (h : Canonical s) {P : State → Prop}
    (hP : ∀ t, Canonical t → P t) : Yields P (hstartStep rs2 rs1 rd w s) := by
  unfold hstartStep
  dsimp only
  (repeat' split) <;> simp [h, hP]

@[simp] theorem keeps_execHstart (rs2 rs1 rd : RegNo) {s : State} (h : Canonical s) : Keeps (execHstart rs2 rs1 rd s) := by simp [execHstart, h]

@[simp] theorem yields_hjoinStep (rs1 rd : RegNo) (w : Option W32) {s : State} (h : Canonical s) {P : State → Prop} (hP : ∀ t, Canonical t → P t) :
    Yields P (hjoinStep rs1 rd w s) := by
  simp [hjoinStep, h, hP]

@[simp] theorem keeps_execHjoin (rs1 rd : RegNo) {s : State} (h : Canonical s) : Keeps (execHjoin rs1 rd s) := by simp [execHjoin, h]
@[simp] theorem keeps_execHlive (rd : RegNo) {s : State} (h : Canonical s) : Keeps (execHlive rd s) := by simp [execHlive, h]
@[simp] theorem keeps_execYield {s : State} (h : Canonical s) : Keeps (execYield s) := by simp [execYield, h]
@[simp] theorem forgetCtx_mem (core : Nat) (b : Bool) (id : Nat) (s : State) : (forgetCtx core b id s).mem = s.mem := (rfl)

@[simp] theorem yields_hexitStep (w : Option W32) {s : State} (h : Canonical s) {P : State → Prop} (hP : ∀ t, Canonical t → P t) :
    Yields P (hexitStep w s) := by
  simp +contextual [hexitStep, h, hP]

@[simp] theorem keeps_execHexit {s : State} (h : Canonical s) : Keeps (execHexit s) := by simp [execHexit, h]
@[simp] theorem canonical_beginSwap (mwait : Bool) {s : State} (h : Canonical s) : Canonical (beginSwap mwait s) := by simp [beginSwap, h]
@[simp] theorem exchangeBanks_mem (s : State) : (exchangeBanks s).mem = s.mem := (rfl)

@[simp] theorem yields_shswapStep (w : Option W32) {s : State} (h : Canonical s) {P : State → Prop} (hP : ∀ t, Canonical t → P t) :
    Yields P (shswapStep w s) := by
  simp [shswapStep, h, hP]

@[simp] theorem keeps_execShswap {s : State} (h : Canonical s) : Keeps (execShswap s) := by simp [execShswap, h]
@[simp] theorem withdraw_mem (n : Nat) (k : BitVec 3) (launch : Nat) (s : State) : (withdraw n k launch s).mem = s.mem := (rfl)

@[simp] theorem leaveStageChannel_mem (n : Nat) (b : Bool) (s : State) : (leaveStageChannel n b s).mem = s.mem := by
  unfold leaveStageChannel
  (repeat' split) <;> simp

@[simp] theorem markGone_mem (launch n : Nat) (s : State) : (markGone launch n s).mem = s.mem := (rfl)

@[simp] theorem canonical_leaveStage {s : State} (h : Canonical s) : Canonical (leaveStage s) := by
  unfold leaveStage
  dsimp only
  (repeat' split) <;> simp [h]

@[simp] theorem yields_stgendStep (w : Option W32) {s : State} (h : Canonical s) {P : State → Prop} (hP : ∀ t, Canonical t → P t) :
    Yields P (stgendStep w s) := by
  simp [stgendStep, h, hP]

@[simp] theorem keeps_execStgend {s : State} (h : Canonical s) : Keeps (execStgend s) := by simp [execStgend, h]
@[simp] theorem sendTotal_mem (n g : Nat) (s : State) : (sendTotal n g s).mem = s.mem := (rfl)
@[simp] theorem bounceFrom_mem (n : Nat) (m : Msg) (s : State) : (bounceFrom n m s).mem = s.mem := (rfl)
@[simp] theorem canonical_refreshBound (l : Launch) {s : State} (h : Canonical s) : Canonical (refreshBound l s) := by simp [refreshBound, h]
@[simp] theorem joinGroup_mem (n : Nat) (a b : Option Nat) (s : State) : (joinGroup n a b s).mem = s.mem := (rfl)

@[simp] theorem canonical_moveGroups (a b : Option Nat) {s : State} (h : Canonical s) : Canonical (moveGroups a b s) := by
  unfold moveGroups
  (repeat' split) <;> simp [h]

@[simp] theorem canonical_doStgbind (bd : Bound) (l : Launch) (r : Nat) {s : State} (h : Canonical s) : Canonical (doStgbind bd l r s) := by
  simp [doStgbind, h]

@[simp] theorem yields_stgbindStep (w : Option W32) {s : State} (h : Canonical s) {P : State → Prop} (hP : ∀ t, Canonical t → P t) :
    Yields P (stgbindStep w s) := by
  unfold stgbindStep
  dsimp only
  (repeat' split) <;> simp [h, hP]

@[simp] theorem keeps_execStgbind {s : State} (h : Canonical s) : Keeps (execStgbind s) := by simp [execStgbind, h]

/-! ### Flags -/

@[simp] theorem raiseFlags_mem (f : Flags) (s : State) : (raiseFlags f s).mem = s.mem := (rfl)

/-! ### Csr -/

theorem canonical_csrWriteStd {n : BitVec 12} {v : Word} {s t : State} (h : Canonical s) (ht : csrWriteStd n v s = some t) : Canonical t := by
  have hmem : ∀ t, csrWriteStd n v s = some t → t.mem = s.mem := by
    unfold csrWriteStd
    dsimp only
    split <;> intro t ht
    all_goals (repeat' split at ht) <;> first
      | exact Option.some.inj ht ▸ rfl
      | cases ht
  rw [Canonical, hmem t ht]
  exact h

@[simp] theorem canonical_csrRmw (a : CsrArgs) (n : BitVec 12) {f : Word → State → Option State} (w : Option W32) {s : State}
    (hf : ∀ v t, f v s = some t → Canonical t) (h : Canonical s) : Canonical (csrRmw a n f w s) := by
  unfold csrRmw
  split
  · simp [h]
  · split
    · simp [h]
    · next t ht => simp [hf _ t ht]

@[simp] theorem canonical_csrRmw_mOnly (a : CsrArgs) (n : BitVec 12) {f : Word → State → State} (w : Option W32) {s : State}
    (hf : ∀ v, Canonical (f v s)) (h : Canonical s) : Canonical (csrRmw a n (mOnly f) w s) := by
  refine canonical_csrRmw a n w (fun v t ht => ?_) h
  unfold mOnly at ht
  split at ht
  · exact Option.some.inj ht ▸ hf v
  · cases ht

@[simp] theorem setDcksum_mem (v : Word) (s : State) : (setDcksum v s).mem = s.mem := (rfl)
@[simp] theorem setDinject_mem (v : Word) (s : State) : (setDinject v s).mem = s.mem := (rfl)
@[simp] theorem clearYev_mem (v : Word) (s : State) : (clearYev v s).mem = s.mem := (rfl)
@[simp] theorem setDpoolb_mem (n : Nat) (v : Word) (s : State) : (setDpoolb n v s).mem = s.mem := by simp [setDpoolb]
@[simp] theorem setDmemb_mem (v : Word) (s : State) : (setDmemb v s).mem = s.mem := (rfl)
@[simp] theorem setSched_mem (n : Nat) (v : Word) (s : State) : (setSched n v s).mem = s.mem := (rfl)

theorem canonical_setOther {n : BitVec 12} {v : Word} {s t : State} (h : Canonical s) (ht : setOther n v s = some t) : Canonical t := by
  have hmem : ∀ t, setOther n v s = some t → t.mem = s.mem := by
    unfold setOther mOnly
    split <;> intro t ht
    all_goals (repeat' split at ht) <;> first
      | exact Option.some.inj ht ▸ rfl
      | cases ht
  rw [Canonical, hmem t ht]
  exact h

@[simp] theorem keeps_execDtvecWrite (a : CsrArgs) {s : State} (h : Canonical s) : Keeps (execDtvecWrite a s) := by simp [execDtvecWrite, h]
@[simp] theorem keeps_execDcksumWrite (a : CsrArgs) {s : State} (h : Canonical s) : Keeps (execDcksumWrite a s) := by simp [execDcksumWrite, h]
@[simp] theorem keeps_execDinjectWrite (a : CsrArgs) {s : State} (h : Canonical s) : Keeps (execDinjectWrite a s) := by simp [execDinjectWrite, h]
@[simp] theorem keeps_execDbankYevClear (a : CsrArgs) {s : State} (h : Canonical s) : Keeps (execDbankYevClear a s) := by simp [execDbankYevClear, h]

@[simp] theorem keeps_execDpoolbWrite (a : CsrArgs) (n : BitVec 2) {s : State} (h : Canonical s) : Keeps (execDpoolbWrite a n s) := by
  simp [execDpoolbWrite, h]

@[simp] theorem keeps_execDmembWrite (a : CsrArgs) {s : State} (h : Canonical s) : Keeps (execDmembWrite a s) := by simp [execDmembWrite, h]

@[simp] theorem keeps_execSchedCsrWrite (a : CsrArgs) (n : BitVec 2) {s : State} (h : Canonical s) : Keeps (execSchedCsrWrite a n s) := by
  simp [execSchedCsrWrite, h]

@[simp] theorem keeps_execCsrWrite (a : CsrArgs) (n : BitVec 12) {s : State} (h : Canonical s) : Keeps (execCsrWrite a n s) :=
  (keeps_next _).mpr (canonical_csrRmw a n _ (fun _ _ ht => canonical_setOther h ht) h)

@[simp] theorem canonical_csrPlain (a : CsrArgs) (n : BitVec 12) (w : Option W32) {s : State} (h : Canonical s) : Canonical (csrPlain a n w s) := by
  unfold csrPlain
  split
  · exact canonical_csrRmw a n w (fun _ _ ht => canonical_csrWriteStd h ht) h
  · split <;> simp [h]

/-! ### Traps -/

@[simp] theorem keeps_execIllegalInstruction (bits : W32) {s : State} (h : Canonical s) : Keeps (execIllegalInstruction bits s) := by
  simp [execIllegalInstruction, h]

@[simp] theorem keeps_execInstructionFetchFault (cause : BitVec 8) {s : State} (h : Canonical s) : Keeps (execInstructionFetchFault cause s) := by
  simp [execInstructionFetchFault, h]

@[simp] theorem yields_hretStep (w : Option W32) {s : State} (h : Canonical s) {P : State → Prop} (hP : ∀ t, Canonical t → P t) :
    Yields P (hretStep w s) := by
  simp [hretStep, h, hP]

@[simp] theorem keeps_execHret {s : State} (h : Canonical s) : Keeps (execHret s) := by simp [execHret, h]

@[simp] theorem keeps_execFltpop (vd rd : RegNo) {s : State} (h : Canonical s) : Keeps (execFltpop vd rd s) := by
  unfold execFltpop
  split <;> simp [h]

@[simp] theorem keeps_execFltcnt (rd : RegNo) {s : State} (h : Canonical s) : Keeps (execFltcnt rd s) := by simp [execFltcnt, h]

@[simp] theorem yields_gstopStep (k : BitVec 3) (w : Option W32) {s : State} (h : Canonical s) {P : State → Prop} (hP : ∀ t, Canonical t → P t) :
    Yields P (gstopStep k w s) := by
  unfold gstopStep
  dsimp only
  split
  · simp
  · split <;> exact hP _ (by simp [h])

@[simp] theorem keeps_execGstop (k : BitVec 3) {s : State} (h : Canonical s) : Keeps (execGstop k s) := by simp [execGstop, h]

@[simp] theorem keeps_execEccFatalError (place : EccPlace) {s : State} (h : Canonical s) : Keeps (execEccFatalError place s) := by
  unfold execEccFatalError
  (repeat' split) <;> simp [h]

@[simp] theorem keeps_execAsyncStoreFaultTrap {s : State} (h : Canonical s) : Keeps (execAsyncStoreFaultTrap s) := by
  unfold execAsyncStoreFaultTrap
  dsimp only
  (repeat' split) <;> simp [h]

@[simp] theorem keeps_execStoreFaultRecord (bank : Bool) (ctx : Nat) (err : BitVec 128) {s : State} (h : Canonical s) :
    Keeps (execStoreFaultRecord bank ctx err s) := by
  unfold execStoreFaultRecord
  (repeat' split) <;> simp [h]

@[simp] theorem keeps_execQuantumExpiry {s : State} (h : Canonical s) : Keeps (execQuantumExpiry s) := by simp [execQuantumExpiry, h]

@[simp] theorem canonical_hostBytes (l : List (Nat × Byte)) {s : State} (h : Canonical s) : Canonical (hostBytes l s) :=
  wf_foldl _ (fun m c hm => by split <;> simp [hm, wf_memSet]) l h

@[simp] theorem keeps_execRemoteDataReturn (bank : Bool) (ctx : Nat) (err : BitVec 128) (host : List (Nat × Byte)) {s : State} (h : Canonical s) :
    Keeps (execRemoteDataReturn bank ctx err host s) := by
  unfold execRemoteDataReturn
  (repeat' split) <;> simp [h]

@[simp] theorem canonical_haltBank (b : Bool) (m : HaltMsg) (swapped : Bool) {s : State} (h : Canonical s) : Canonical (haltBank b m swapped s) := by
  simp [haltBank, h]

@[simp] theorem keeps_execHaltWire {s : State} (h : Canonical s) : Keeps (execHaltWire s) := by
  unfold execHaltWire
  dsimp only
  (repeat' split) <;> simp [h]

@[simp] theorem sendHalt_mem (m : HaltMsg) (n : Nat) (s : State) : (sendHalt m n s).mem = s.mem := by simp [sendHalt]

@[simp] theorem keeps_execLaunchHalt (launch : Nat) {s : State} (h : Canonical s) : Keeps (execLaunchHalt launch s) := by
  unfold execLaunchHalt
  (repeat' split) <;> simp [h]

/-! ### Barriers -/

@[simp] theorem raiseArrival_mem (b : Bool) (k : BitVec 3) (launch : Nat) (flag : Bool) (tag : PhTag) (s : State) :
    (raiseArrival b k launch flag tag s).mem = s.mem :=
  (rfl)

@[simp] theorem arrive_mem (k : BitVec 3) (flag : Bool) (tag : PhTag) (s : State) : (arrive k flag tag s).mem = s.mem := (rfl)

@[simp] theorem yields_barrStep (k : BitVec 3) (rs1 : RegNo) (w : Option W32) {s : State} (h : Canonical s) {P : State → Prop}
    (hP : ∀ t, Canonical t → P t) : Yields P (barrStep k rs1 w s) := by
  simp +contextual [barrStep, h, hP]

@[simp] theorem keeps_execBarr (c : BitVec 3) (rs1 : RegNo) {s : State} (h : Canonical s) : Keeps (execBarr c rs1 s) := by simp [execBarr, h]
@[simp] theorem finishBarrier_mem (k : BitVec 3) (rd : RegNo) (s : State) : (finishBarrier k rd s).mem = s.mem := by simp [finishBarrier]

@[simp] theorem yields_bwaitStep (k : BitVec 3) (rd : RegNo) (w : Option W32) {s : State} (h : Canonical s) {P : State → Prop}
    (hP : ∀ t, Canonical t → P t) : Yields P (bwaitStep k rd w s) := by
  simp [bwaitStep, h, hP]

@[simp] theorem keeps_execBwait (c : BitVec 3) (rd : RegNo) {s : State} (h : Canonical s) : Keeps (execBwait c rd s) := by simp [execBwait, h]
@[simp] theorem setMark_mem (s : State) : (setMark s).mem = s.mem := (rfl)
@[simp] theorem clearMark_mem (s : State) : (clearMark s).mem = s.mem := (rfl)

@[simp] theorem yields_barwStep (k : BitVec 3) (rs1 rd : RegNo) (w : Option W32) {s : State} (h : Canonical s) {P : State → Prop}
    (hP : ∀ t, Canonical t → P t) : Yields P (barwStep k rs1 rd w s) := by
  simp [barwStep, h, hP]

@[simp] theorem keeps_execBarw (c : BitVec 3) (rs1 rd : RegNo) {s : State} (h : Canonical s) : Keeps (execBarw c rs1 rd s) := by simp [execBarw, h]

@[simp] theorem yields_btestStep (k : BitVec 3) (rd : RegNo) (w : Option W32) {s : State} (h : Canonical s) {P : State → Prop}
    (hP : ∀ t, Canonical t → P t) : Yields P (btestStep k rd w s) := by
  simp [btestStep, h, hP]

@[simp] theorem keeps_execBtest (c : BitVec 3) (rd : RegNo) {s : State} (h : Canonical s) : Keeps (execBtest c rd s) := by simp [execBtest, h]
@[simp] theorem finishPhase_mem (s : State) : (finishPhase s).mem = s.mem := (rfl)

@[simp] theorem yields_phcommStep (k : BitVec 3) (w : Option W32) {s : State} (h : Canonical s) {P : State → Prop} (hP : ∀ t, Canonical t → P t) :
    Yields P (phcommStep k w s) := by
  simp [phcommStep, h, hP]

@[simp] theorem keeps_execPhcomm (c : BitVec 3) {s : State} (h : Canonical s) : Keeps (execPhcomm c s) := by simp [execPhcomm, h]

@[simp] theorem yields_phcompStep (k : BitVec 3) (w : Option W32) {s : State} (h : Canonical s) {P : State → Prop} (hP : ∀ t, Canonical t → P t) :
    Yields P (phcompStep k w s) := by
  simp +contextual [phcompStep, h, hP]

@[simp] theorem keeps_execPhcomp (c : BitVec 3) {s : State} (h : Canonical s) : Keeps (execPhcomp c s) := by simp [execPhcomp, h]

@[simp] theorem keepLeaving_mem (d : Dom) (start : Nat) (s : State) : (keepLeaving d start s).mem = s.mem := by
  unfold keepLeaving
  split <;> rfl

@[simp] theorem canonical_topViolation (d : Dom) {s : State} (h : Canonical s) : Canonical (topViolation d s) := by simp [topViolation, h]
@[simp] theorem canonical_heldHalts (d : Dom) {s : State} (h : Canonical s) : Canonical (heldHalts d s) := by simp [heldHalts, h]

@[simp] theorem keeps_execBarrierTopRelease (dom : Nat) {s : State} (h : Canonical s) : Keeps (execBarrierTopRelease dom s) := by
  unfold execBarrierTopRelease
  dsimp only
  (repeat' split) <;> simp [h]

@[simp] theorem keeps_execBarrierReleaseArrive (ch : BitVec 3) {s : State} (h : Canonical s) : Keeps (execBarrierReleaseArrive ch s) := by
  unfold execBarrierReleaseArrive
  split <;> simp [h]

@[simp] theorem armMon_mem (line : Nat) (s : State) : (armMon line s).mem = s.mem := (rfl)
@[simp] theorem disarmMon_mem (s : State) : (disarmMon s).mem = s.mem := (rfl)

@[simp] theorem yields_mwaitStep (k : MonCond) (rs2 rs1 rd : RegNo) {s : State} (h : Canonical s) {P : State → Prop} (hP : ∀ t, Canonical t → P t) :
    Yields P (mwaitStep k rs2 rs1 rd s) := by
  simp +contextual [mwaitStep, h, hP]

@[simp] theorem canonical_mwaitSwap (b : Bool) (id : Nat) {s : State} (h : Canonical s) : Canonical (mwaitSwap b id s) := by simp [mwaitSwap, h]

@[simp] theorem canonical_mwait (k : MonCond) (rs2 rs1 rd : RegNo) {s : State} (h : Canonical s) : Canonical (mwait k rs2 rs1 rd s) :=
  canonical_mwaitSwap _ _ (canonical_orTrap (yields_mwaitStep k rs2 rs1 rd h fun _ ht => ht) h)

@[simp] theorem keeps_execMwaitge (rs2 rs1 rd : RegNo) {s : State} (h : Canonical s) : Keeps (execMwaitge rs2 rs1 rd s) := by simp [execMwaitge, h]
@[simp] theorem keeps_execMwaiteq (rs2 rs1 rd : RegNo) {s : State} (h : Canonical s) : Keeps (execMwaiteq rs2 rs1 rd s) := by simp [execMwaiteq, h]
@[simp] theorem keeps_execMwaitne (rs2 rs1 rd : RegNo) {s : State} (h : Canonical s) : Keeps (execMwaitne rs2 rs1 rd s) := by simp [execMwaitne, h]

@[simp] theorem keeps_execMonitorWake (bank : Bool) (ctx : Nat) {s : State} (h : Canonical s) : Keeps (execMonitorWake bank ctx s) := by
  simp [execMonitorWake, h]

@[simp] theorem keeps_execReservationExpire (bank : Bool) (ctx : Nat) {s : State} (h : Canonical s) : Keeps (execReservationExpire bank ctx s) := by
  simp [execReservationExpire, h]

/-! ### Engine -/

@[simp] theorem noteLine_mem (p : Place) (once : Bool) (s : State) : (noteLine p once s).mem = s.mem := by simp [noteLine]

@[simp] theorem noteRead_mem (va : Word) (n : Nat) (once : Bool) (s : State) : (noteRead va n once s).mem = s.mem :=
  foldl_keeps State.mem (fun s p => by split <;> simp) _ _

@[simp] theorem canonical_engLand (q : Place) (bs : List Byte) {s : State} (h : Canonical s) : Canonical (engLand q bs s) := by
  unfold engLand
  split <;> simp [h]

@[simp] theorem canonical_engPutAt (q : Place) (bs : List Byte) {s : State} (h : Canonical s) : Canonical (engPutAt q bs s) := by simp [engPutAt, h]

@[simp] theorem canonical_engPut (va : Word) (bs : List Byte) {s : State} (h : Canonical s) : Canonical (engPut va bs s) :=
  canonical_foldl (fun _ _ h => by split <;> simp [h]) _ h

@[simp] theorem freeBound_mem (n : Nat) (s : State) : (freeBound n s).2.mem = s.mem := (rfl)

@[simp] theorem canonical_segsPut : ∀ (n : Nat) (l : List (Word × List Byte)) {s : State}, Canonical s → Canonical (segsPut n l s)
  | _, [], _, h => h
  | n, (va, bs) :: l, _, h => canonical_segsPut _ l (canonical_engPut va _ h)

@[simp] theorem canonical_engStoreSegsTo (segs : List (Word × List Byte)) (bad : Option (BitVec 8 × Word)) (gen : BitVec 8) {s : State}
    (h : Canonical s) : Canonical (engStoreSegsTo segs bad gen s).2 := by
  unfold engStoreSegsTo
  dsimp only
  (repeat' split) <;> simp +contextual [h]

@[simp] theorem canonical_engStoreSegs (segs : List (Word × List Byte)) (gen : BitVec 8) {s : State} (h : Canonical s) :
    Canonical (engStoreSegs segs gen s).2 := by
  simp [engStoreSegs, h]

@[simp] theorem canonical_engStoreTo (va : Word) (bs : List Byte) (total : Nat) (bad : Option (BitVec 8 × Word)) (exact : Bool) (gen : BitVec 8)
    {s : State} (h : Canonical s) : Canonical (engStoreTo va bs total bad exact gen s).2 := by
  unfold engStoreTo
  dsimp only
  (repeat' split) <;> simp [h]

@[simp] theorem canonical_engStore (va : Word) (bs : List Byte) (total : Nat) (bad : Option (BitVec 8 × Word)) (gen : BitVec 8) {s : State}
    (h : Canonical s) : Canonical (engStore va bs total bad gen s).2 := by
  simp [engStore, h]

@[simp] theorem modEntry_mem (q : Queue) (ord : Nat) (f : Entry → Entry) (s : State) : (modEntry q ord f s).mem = s.mem := (rfl)
@[simp] theorem dropLocks_mem (ord : Nat) (s : State) : (dropLocks ord s).mem = s.mem := (rfl)
@[simp] theorem dropSrcLocks_mem (ord : Nat) (s : State) : (dropSrcLocks ord s).mem = s.mem := (rfl)
@[simp] theorem cancelAt_mem (q : Queue) (ord : Nat) (s : State) : (cancelAt q ord s).mem = s.mem := (rfl)

@[simp] theorem releaseTag_mem (b : Bool) (q : Queue) (tag : BitVec 8) (cancelling : Bool) (s : State) :
    (releaseTag b q tag cancelling s).mem = s.mem := by
  unfold releaseTag
  split <;> simp

@[simp] theorem sendChain_mem (e : Entry) (cancelling : Bool) (s : State) : (sendChain e cancelling s).mem = s.mem := by
  unfold sendChain
  (repeat' split) <;> simp

@[simp] theorem canonical_engRecord (q : Queue) (e : Entry) (st : BitVec 8) (va : Word) {s : State} (h : Canonical s) :
    Canonical (engRecord q e st va s) := by
  simp [engRecord, h]

@[simp] theorem canonical_writeStamp (q : Queue) (e : Entry) (va : Word) (st : BitVec 8) {s : State} (h : Canonical s) :
    Canonical (writeStamp q e va st s) := by
  unfold writeStamp
  (repeat' split) <;> simp [h]

@[simp] theorem canonical_openReads (e : Entry) {s : State} (h : Canonical s) : Canonical (openReads e s) :=
  canonical_foldl (fun _ _ h => wf_memWrite _ _ h) _ h

@[simp] theorem canonical_closeReads (e : Entry) (s : State) {t : State} (h : Canonical t) : Canonical (closeReads e s t) :=
  wf_foldl _ (fun _ _ hm => wf_memSet _ _ hm) _ h

@[simp] theorem canonical_throughLoose (e : Entry) {f : State → State} (hf : ∀ s, Canonical s → Canonical (f s)) {s : State} (h : Canonical s) :
    Canonical (throughLoose e f s) := by
  unfold throughLoose
  split
  · exact hf s h
  · exact canonical_closeReads e s (hf _ (canonical_openReads e h))

@[simp] theorem creditBank_mem (b : Bool) (s t : State) : (creditBank b s t).mem = t.mem := by simp [creditBank]

@[simp] theorem keeps_work (q : Queue) (opc : Nat) (b : Bool) (seq : Nat) {f : Entry → State → Result × State}
    (hf : ∀ e s, Canonical s → Canonical (f e s).2) {s : State} (h : Canonical s) : Keeps (work q opc b seq f s) := by
  unfold work
  split
  · simp [h]
  · split
    · simp [h]
    · simpa using canonical_throughLoose _ (fun s h => by simp [hf, h]) h

/-! ### Matrix -/

@[simp] theorem setAcc_mem (b : Bool) (a : Nat) (v : BitVec 8192) (s : State) : (setAcc b a v s).mem = s.mem := (rfl)

theorem mmaStep_mem (c : Cmd) (a b : Word) (t : Nat) (x : MmaRun) : (mmaStep c a b t x).st.mem = x.st.mem := by
  unfold mmaStep
  split
  · rfl
  · dsimp only
    split <;> simp

theorem mmaRun_mem (c : Cmd) (x : MmaRun) : (mmaRun c x).st.mem = x.st.mem :=
  foldl_keeps (fun x : MmaRun => x.st.mem) (fun x _ => foldl_keeps (fun x : MmaRun => x.st.mem) (fun x t => mmaStep_mem c _ _ t x) _ x) _ x

theorem mmasBlock_mem (c : Cmd) (a b sa sb : Word) (k m : Nat) (x : MmaRun) : (mmasBlock c a b sa sb k m x).st.mem = x.st.mem := by
  unfold mmasBlock
  cases x.fail with
  | some _ => rfl
  | none =>
    dsimp only
    generalize engRead x.st (sa + BitVec.ofNat 64 m) 1 0x51 = ra
    generalize engRead x.st (sb + BitVec.ofNat 64 m) 1 0x51 = rb
    generalize readTiles x.st c c.fmtA.toNat a (m * k) k = ta
    generalize readTiles x.st c c.fmtB.toNat b (m * k) k = tb
    rcases ra with ⟨_, _ | _⟩
    · rcases rb with ⟨_, _ | _⟩
      · rcases ta with _ | _
        · rfl
        · rcases tb with _ | _
          · rfl
          · simp only [noteRead_mem]
      · rfl
    · rfl

theorem mmasRun_mem (c : Cmd) (x : MmaRun) : (mmasRun c x).st.mem = x.st.mem :=
  foldl_keeps (fun x : MmaRun => x.st.mem) (fun x _ => foldl_keeps (fun x : MmaRun => x.st.mem) (fun x m => mmasBlock_mem c _ _ _ _ _ m x) _ x) _ x

theorem matrixWork_mem {run : Cmd → MmaRun → MmaRun} (hrun : ∀ c x, (run c x).st.mem = x.st.mem) (e : Entry) (s : State) :
    (matrixWork run e s).2.mem = s.mem := by
  unfold matrixWork
  dsimp only
  split <;> exact hrun ..

@[simp] theorem keeps_execMma (bank : Bool) (seq : Nat) {s : State} (h : Canonical s) : Keeps (execMma bank seq s) :=
  keeps_work _ _ _ _ (fun e s h => by simp [matrixWork_mem mmaRun_mem, h]) h

@[simp] theorem keeps_execMmas (bank : Bool) (seq : Nat) {s : State} (h : Canonical s) : Keeps (execMmas bank seq s) :=
  keeps_work _ _ _ _ (fun e s h => by simp [matrixWork_mem mmasRun_mem, h]) h

@[simp] theorem keeps_execMzero (bank : Bool) (seq : Nat) {s : State} (h : Canonical s) : Keeps (execMzero bank seq s) := by simp [execMzero, h]
@[simp] theorem keeps_execMtrn (bank : Bool) (seq : Nat) {s : State} (h : Canonical s) : Keeps (execMtrn bank seq s) := by simp [execMtrn, h]

@[simp] theorem canonical_mldaWork (e : Entry) {s : State} (h : Canonical s) : Canonical (mldaWork e s).2 := by
  unfold mldaWork
  dsimp only
  split <;> simp [h]

@[simp] theorem keeps_execMlda (bank : Bool) (seq : Nat) {s : State} (h : Canonical s) : Keeps (execMlda bank seq s) := by
  simp +contextual [execMlda, h]

@[simp] theorem canonical_mstaWork (e : Entry) {s : State} (h : Canonical s) : Canonical (mstaWork e s).2 := by simp [mstaWork, h]

@[simp] theorem keeps_execMsta (bank : Bool) (seq : Nat) {s : State} (h : Canonical s) : Keeps (execMsta bank seq s) := by
  simp +contextual [execMsta, h]

/-! ### Copy -/

@[simp] theorem fireInject_mem (e : Entry) (at_ n : Nat) (s : State) : (fireInject e at_ n s).mem = s.mem := by
  unfold fireInject
  split <;> simp

@[simp] theorem canonical_scramble (ps : List (Place × Nat)) {s : State} (h : Canonical s) : Canonical (scramble ps s) := by
  simp +contextual [scramble, h]

theorem canonical_copyRep (s0 : State) (e : Entry) (at_ : Nat) (sum : W32 → List Byte → W32) (p : CopyRep) {x : CopyRun} (h : Canonical x.st) :
    Canonical (copyRep s0 e at_ sum p x).st := by
  unfold copyRep
  split
  · exact h
  · dsimp only
    split <;> simp [h]

@[simp] theorem canonical_copyRun (e : Entry) (sum : W32 → List Byte → W32) (ck : W32) (reps : List (Nat × CopyRep)) {s : State} (h : Canonical s) :
    Canonical (copyRun e sum ck reps s).st :=
  canonical_scramble _ (List.foldlRecOn (motive := fun x : CopyRun => Canonical x.st) _ _ h fun _ h p _ => canonical_copyRep s e p.1 sum p.2 h)

@[simp] theorem canonical_cpyWork (e : Entry) {s : State} (h : Canonical s) : Canonical (cpyWork e s).2 := canonical_copyRun e _ _ _ h

@[simp] theorem keeps_execCpy (bank : Bool) (seq : Nat) {s : State} (h : Canonical s) : Keeps (execCpy bank seq s) := by
  have hwork := keeps_work .cq 0x40 bank seq (f := cpyWork) (fun e _ h => canonical_cpyWork e h) h
  unfold execCpy
  split
  · simp [h]
  · split
    · simp [h]
    · exact hwork

theorem gatherRep_mem (s0 : State) (e : Entry) (sum : W32 → List Byte → W32) (x : Gathered) (p : Nat × CopyRep) :
    (gatherRep s0 e sum x p).st.mem = x.st.mem := by
  unfold gatherRep
  split <;> simp

@[simp] theorem canonical_runCopy (e : Entry) (sum : W32 → List Byte → W32) (ck : W32) (reps : List (Nat × CopyRep)) {s : State} (h : Canonical s) :
    Canonical (runCopy e sum ck reps s).st := by
  have hmem := foldl_keeps (fun x : Gathered => x.st.mem) (gatherRep_mem s e sum) reps ⟨[], none, s, ck⟩
  exact canonical_scramble _ (canonical_engStoreSegsTo _ _ _ (by rw [Canonical, hmem]; exact h))

@[simp] theorem canonical_cpysWork (e : Entry) {s : State} (h : Canonical s) : Canonical (cpysWork e s).2 := canonical_runCopy e _ _ _ h

@[simp] theorem keeps_execCpys (bank : Bool) (seq : Nat) {s : State} (h : Canonical s) : Keeps (execCpys bank seq s) := by
  simp +contextual [execCpys, h]

@[simp] theorem canonical_cpykWork (v : W32) (e : Entry) {s : State} (h : Canonical s) : Canonical (cpykWork v e s).2 := canonical_runCopy e _ _ _ h

theorem grainStep_mem (e : Entry) (g : GrainHdr) (t : Nat) (x : Collected) : (grainStep e g t x).st.mem = x.st.mem := by
  unfold grainStep
  split
  · rfl
  · dsimp only
    split
    · rfl
    · split <;> simp

@[simp] theorem canonical_grainWork (e : Entry) {s : State} (h : Canonical s) : Canonical (grainWork e s).2 := by
  unfold grainWork
  dsimp only
  split
  · exact h
  · split
    · simp [h]
    · next g _ =>
      split
      · simp [h]
      · refine canonical_scramble _ (canonical_engStoreTo _ _ _ _ _ _ ?_)
        rw [Canonical, foldl_keeps (fun x : Collected => x.st.mem) (fun x t => grainStep_mem e g t x)]
        simp [h]

@[simp] theorem keeps_execCpyGrain (bank : Bool) (seq : Nat) {s : State} (h : Canonical s) : Keeps (execCpyGrain bank seq s) := by
  have hwork := keeps_work .cq 0x40 bank seq (f := grainWork) (fun e _ h => canonical_grainWork e h) h
  unfold execCpyGrain
  split
  · simp [h]
  · split
    · exact hwork
    · simp [h]

@[simp] theorem canonical_cfillWork (e : Entry) {s : State} (h : Canonical s) : Canonical (cfillWork e s).2 := by simp [cfillWork, h]

@[simp] theorem keeps_execCfill (bank : Bool) (seq : Nat) {s : State} (h : Canonical s) : Keeps (execCfill bank seq s) := by
  simp +contextual [execCfill, h]

theorem gathStep_mem (e : Entry) (j : Nat) (x : Collected) : (gathStep e j x).st.mem = x.st.mem := by
  unfold gathStep
  split
  · rfl
  · dsimp only
    (repeat' split) <;> simp

@[simp] theorem canonical_gathWork (e : Entry) {s : State} (h : Canonical s) : Canonical (gathWork e s).2 := by
  refine canonical_engStoreTo _ _ _ _ _ _ (canonical_foldl (fun s p h => by simp [h]) _ ?_)
  rw [Canonical, foldl_keeps (fun x : Collected => x.st.mem) (fun x j => gathStep_mem e j x)]
  simp [h]

@[simp] theorem keeps_execGath (bank : Bool) (seq : Nat) {s : State} (h : Canonical s) : Keeps (execGath bank seq s) := by
  simp +contextual [execGath, h]

@[simp] theorem canonical_scatPerform (c : Cmd) (x : ScatElem) {s : State} (h : Canonical s) : Canonical (scatPerform c x s) := by
  simp [scatPerform, h]

@[simp] theorem canonical_scatWork (e : Entry) {s : State} (h : Canonical s) : Canonical (scatWork e s).2 := by
  unfold scatWork
  dsimp only
  (repeat' split) <;> simp +contextual [h]

@[simp] theorem keeps_execScat (bank : Bool) (seq : Nat) {s : State} (h : Canonical s) : Keeps (execScat bank seq s) := by
  simp +contextual [execScat, h]

theorem cdecStep_mem (e : Entry) (g : GrainHdr) (k : Nat) (x : Collected) : (cdecStep e g k x).st.mem = x.st.mem := by
  unfold cdecStep
  split
  · rfl
  · dsimp only
    split
    · rfl
    · split <;> simp

theorem cdecWork_some_mem (e : Entry) (g : GrainHdr) (l : List Nat) (s : State) :
    (l.foldl (fun x k => cdecStep e g k x) ⟨[], none, true, noteRead e.cmd.b 32 true s⟩).st.mem = s.mem := by
  rw [foldl_keeps (fun x : Collected => x.st.mem) (fun x k => cdecStep_mem e g k x)]
  simp

@[simp] theorem canonical_cdecWork (e : Entry) {s : State} (h : Canonical s) : Canonical (cdecWork e s).2 := by
  unfold cdecWork
  dsimp only
  split
  · exact h
  · split
    · exact h
    · next g _ =>
      split
      · exact h
      · have hst : Canonical ((List.range e.cmd.e.toNat).foldl (fun x k => cdecStep e g k x) ⟨[], none, true, noteRead e.cmd.b 32 true s⟩).st := by
          rw [Canonical, cdecWork_some_mem]
          exact h
        simp only [apply_ite Prod.snd, ite_self]
        exact canonical_engStoreTo _ _ _ _ _ _ hst

@[simp] theorem keeps_execCdec (bank : Bool) (seq : Nat) {s : State} (h : Canonical s) : Keeps (execCdec bank seq s) := by
  simp +contextual [execCdec, h]

@[simp] theorem canonical_ccntPut (c : Cmd) (n b : Nat) {s : State} (h : Canonical s) : Canonical (ccntPut c n b s) := by
  simp +contextual [ccntPut, h]

@[simp] theorem canonical_ccntWork (e : Entry) {s : State} (h : Canonical s) : Canonical (ccntWork e s).2 := by
  unfold ccntWork
  dsimp only
  split <;> simp [h]

@[simp] theorem keeps_execCcnt (bank : Bool) (seq : Nat) {s : State} (h : Canonical s) : Keeps (execCcnt bank seq s) := by
  simp +contextual [execCcnt, h]

/-! ### Scalar -/

@[simp] theorem loadWrite_mem (k : LoadKind) (rd : RegNo) (v : Nat) (s : State) : (loadWrite k rd v s).mem = s.mem := by
  unfold loadWrite
  split <;> simp

@[simp] theorem yields_loadStep (k : LoadKind) (rd rs1 : RegNo) (imm : BitVec 12) {s : State} (h : Canonical s) {P : State → Prop}
    (hP : ∀ t, Canonical t → P t) : Yields P (loadStep k rd rs1 imm s) := by
  simp +contextual [loadStep, h, hP]

@[simp] theorem keeps_execLoad (k : LoadKind) (rd rs1 : RegNo) (imm : BitVec 12) {s : State} (h : Canonical s) : Keeps (execLoad k rd rs1 imm s) := by
  simp [execLoad, h]

@[simp] theorem yields_storeStep (k : StoreKind) (rs2 rs1 : RegNo) (imm : BitVec 12) {s : State} (h : Canonical s) {P : State → Prop}
    (hP : ∀ t, Canonical t → P t) : Yields P (storeStep k rs2 rs1 imm s) := by
  simp +contextual [storeStep, h, hP]

@[simp] theorem keeps_execStore (k : StoreKind) (rs2 rs1 : RegNo) (imm : BitVec 12) {s : State} (h : Canonical s) :
    Keeps (execStore k rs2 rs1 imm s) := by
  simp [execStore, h]

@[simp] theorem canonical_releaseDone (sc : Scope) (line : Nat) {s : State} (h : Canonical s) : Canonical (releaseDone sc line s) := by
  unfold releaseDone
  split <;> simp [h]

@[simp] theorem yields_readyRmw (p : Place) (va : Word) (n : Nat) (f : Nat → Nat) (acq rel : Option Scope) {s : State} (h : Canonical s)
    {P : Old → Prop} (hP : ∀ o, Canonical o.st → P o) : Yields P (readyRmw p va n f acq rel s) := by
  unfold readyRmw
  rw [yields_bind]
  refine yields_rmwAt _ _ _ _ ?_ fun o ho => hP _ ?_
  · split <;> simp [h]
  · dsimp only
    split <;> split <;> simp [ho]

@[simp] theorem yields_orderedRmw (p : Place) (va : Word) (n : Nat) (f : Nat → Nat) (acq rel : Option Scope) {s : State} (h : Canonical s)
    {P : Old → Prop} (hP : ∀ o, Canonical o.st → P o) : Yields P (orderedRmw p va n f acq rel s) := by
  unfold orderedRmw
  rw [yields_bind]
  exact yields_rmwReady p va acq.isSome rel h fun t ht => yields_readyRmw p va n f acq rel ht hP

@[simp] theorem yields_amoStep (op : AmoOp) (dbl aq rl : Bool) (rd rs1 rs2 : RegNo) {s : State} (h : Canonical s) {P : State → Prop}
    (hP : ∀ t, Canonical t → P t) : Yields P (amoStep op dbl aq rl rd rs1 rs2 s) := by
  simp +contextual [amoStep, h, hP]

@[simp] theorem keeps_execAmo (op : AmoOp) (dbl aq rl : Bool) (rd rs1 rs2 : RegNo) {s : State} (h : Canonical s) :
    Keeps (execAmo op dbl aq rl rd rs1 rs2 s) := by
  simp [execAmo, h]

@[simp] theorem dropResv_mem (core : Nat) (b : Bool) (id : Nat) (s : State) : (dropResv core b id s).mem = s.mem := (rfl)

@[simp] theorem yields_lrStep (dbl aq rl : Bool) (rd rs1 : RegNo) {s : State} (h : Canonical s) {P : State → Prop} (hP : ∀ t, Canonical t → P t) :
    Yields P (lrStep dbl aq rl rd rs1 s) := by
  have hload : ∀ (p : Place) (t : State), Canonical t → Yields P (do
      let g ← homeLoad aq p (readX s rs1) (dblSize dbl) t
      let c := g.st.core
      let s := dropResv c.num c.bank.num c.cx.id g.st
      let s := { s with resv := s.resv ++ [⟨c.num, c.bank.num, c.cx.id, lineOf p.key, c.cycles⟩] }
      let s := if aq then acquireActs .pkg s else s
      return adv (writeX rd (sextN (natOfBytes g.bytes) (8 * dblSize dbl)) s)) := fun p t ht => by
    rw [yields_bind]
    refine yields_homeLoad aq p _ _ ht fun g hg => hP _ ?_
    split
    · simp [hg]
    · simp [hg]
  unfold lrStep
  dsimp only
  split
  · simp
  · simp only [yields_bind, pure_bind]
    refine yields_rangeLockCheck _ _ _ (yields_resolveT _ _ _ h fun p => ?_)
    split
    · simp
    · split
      · rw [yields_bind]
        exact yields_eagerRelease h (hload p)
      · exact hload p s h

@[simp] theorem keeps_execLr (dbl aq rl : Bool) (rd rs1 : RegNo) {s : State} (h : Canonical s) : Keeps (execLr dbl aq rl rd rs1 s) := by
  simp [execLr, h]

@[simp] theorem yields_scStep (dbl aq rl : Bool) (rd rs1 rs2 : RegNo) {s : State} (h : Canonical s) {P : State → Prop} (hP : ∀ t, Canonical t → P t) :
    Yields P (scStep dbl aq rl rd rs1 rs2 s) := by
  unfold scStep
  dsimp only
  split
  · simp
  · simp only [yields_bind, pure_bind]
    refine yields_rangeLockCheck _ _ _ (yields_resolveT _ _ _ h fun p => ?_)
    split
    · simp
    · rw [yields_bind]
      refine yields_rmwReady _ _ _ _ h fun t ht => ?_
      split
      · rw [yields_bind]
        exact yields_readyRmw _ _ _ _ _ _ ht fun o ho => hP _ (by simp [ho])
      · exact hP _ (by simp [ht])

@[simp] theorem keeps_execSc (dbl aq rl : Bool) (rd rs1 rs2 : RegNo) {s : State} (h : Canonical s) : Keeps (execSc dbl aq rl rd rs1 rs2 s) := by
  simp [execSc, h]

@[simp] theorem yields_fenceStep (predW succR : Bool) (sc : Scope) {s : State} (h : Canonical s) {P : State → Prop} (hP : ∀ t, Canonical t → P t) :
    Yields P (fenceStep predW succR sc s) := by
  simp +contextual [fenceStep, h, hP]

@[simp] theorem keeps_execFence (_fm p q : BitVec 4) (_rs1 _rd : RegNo) {s : State} (h : Canonical s) : Keeps (execFence _fm p q _rs1 _rd s) := by
  simp [execFence, h]

@[simp] theorem keeps_execFenceTso (_rs1 _rd : RegNo) {s : State} (h : Canonical s) : Keeps (execFenceTso _rs1 _rd s) := by simp [execFenceTso, h]

@[simp] theorem yields_fenceIStep {s : State} (h : Canonical s) {P : State → Prop} (hP : ∀ t, Canonical t → P t) : Yields P (fenceIStep s) := by
  simp [fenceIStep, h, hP]

@[simp] theorem keeps_execFenceI (_imm : BitVec 12) (_rs1 _rd : RegNo) {s : State} (h : Canonical s) : Keeps (execFenceI _imm _rs1 _rd s) := by
  simp [execFenceI, h]

@[simp] theorem keeps_execEcall {s : State} (h : Canonical s) : Keeps (execEcall s) := by simp [execEcall, h]
@[simp] theorem keeps_execEbreak {s : State} (h : Canonical s) : Keeps (execEbreak s) := by simp [execEbreak, h]

/-! ### Ordering -/

@[simp] theorem keeps_execFences (pred succ : BitVec 2) (sc : Scope) {s : State} (h : Canonical s) : Keeps (execFences pred succ sc s) := by
  simp [execFences, h]

@[simp] theorem yields_ldacqStep (z : Size) (sc : Scope) (rs1 rd : RegNo) {s : State} (h : Canonical s) {P : State → Prop}
    (hP : ∀ t, Canonical t → P t) : Yields P (ldacqStep z sc rs1 rd s) := by
  simp +contextual [ldacqStep, h, hP]

@[simp] theorem keeps_execLdacq (z : Size) (s : Scope) (rs1 rd : RegNo) {st : State} (h : Canonical st) : Keeps (execLdacq z s rs1 rd st) := by
  simp [execLdacq, h]

@[simp] theorem yields_strelStep (z : Size) (sc : Scope) (rs2 rs1 : RegNo) {s : State} (h : Canonical s) {P : State → Prop} (hP : ∀ t, Canonical t → P t) :
    Yields P (strelStep z sc rs2 rs1 s) := by
  unfold strelStep
  dsimp only
  split
  · simp
  · simp only [yields_bind, pure_bind]
    refine yields_rangeLockCheck _ _ _ (yields_drained h ?_)
    split
    · exact hP _ (by simp [h])
    · rw [yields_bind]
      refine yields_releaseGate _ _ (by simp [h]) fun t ht => ?_
      rw [yields_bind]
      refine yields_replicaGate _ ht ?_
      split
      · exact hP _ (by simp [ht])
      · exact hP _ (by simp [ht])

@[simp] theorem keeps_execStrel (z : Size) (s : Scope) (rs2 rs1 : RegNo) {st : State} (h : Canonical st) : Keeps (execStrel z s rs2 rs1 st) := by
  simp [execStrel, h]

@[simp] theorem yields_drainsStep {s : State} (h : Canonical s) {P : State → Prop} (hP : ∀ t, Canonical t → P t) : Yields P (drainsStep s) := by
  simp [drainsStep, h, hP]

@[simp] theorem keeps_execDrains {s : State} (h : Canonical s) : Keeps (execDrains s) := by simp [execDrains, h]

@[simp] theorem yields_cacheStep (drop : Bool) (rs1 : RegNo) {s : State} (h : Canonical s) {P : State → Prop} (hP : ∀ t, Canonical t → P t) :
    Yields P (cacheStep drop rs1 s) := by
  have hadv : P (adv s) := hP _ (by simp [h])
  have hsend : ∀ x (f : Core → Core), P (adv (sendBytes x x.dirty (modCore f s))) := fun x f => hP _ (by simp [h])
  have hlock : ∀ Q : Unit → Prop, Q () → Yields Q (rangeLockCheck s (BitVec.ofNat 64 ((readX s rs1).toNat / 128 * 128)) 128 |>.mapError
      fun _ => .trap 0x20 (readX s rs1)) := fun Q hQ => by
    unfold rangeLockCheck
    split
    · trivial
    · exact hQ
  have hgo : Yields P (do
      rangeLockCheck s (BitVec.ofNat 64 ((readX s rs1).toNat / 128 * 128)) 128 |>.mapError fun _ => .trap 0x20 (readX s rs1)
      let p ← resolveT s (readX s rs1) 1 .read
      match l1Find s.core (lineOf p.key) with
      | none => return adv s
      | some x =>
        let gone := { x with dirty := 0, owed := none, valid := if drop then 0 else x.valid }
        return adv (sendBytes x x.dirty (modCore (fun c => { c with l1 := l1Replace gone c.l1 }) s))) := by
    rw [yields_bind]
    refine hlock _ ?_
    rw [yields_bind]
    refine yields_resolveT _ _ _ h fun p => ?_
    split
    · exact hadv
    · exact hsend ..
  unfold cacheStep
  dsimp only
  split
  · exact hadv
  · split
    · split
      · exact hadv
      · exact hgo
    · exact hgo

@[simp] theorem keeps_execCflush (_s : Scope) (rs1 : RegNo) {s : State} (h : Canonical s) : Keeps (execCflush _s rs1 s) := by simp [execCflush, h]
@[simp] theorem keeps_execCinv (_s : Scope) (rs1 : RegNo) {s : State} (h : Canonical s) : Keeps (execCinv _s rs1 s) := by simp [execCinv, h]

@[simp] theorem prefetchLine_mem (p : Place) (a : Word) (h : Hint) (s : State) : (prefetchLine p a h s).mem = s.mem := by
  unfold prefetchLine
  split <;> simp

@[simp] theorem keeps_execCpref (h : Hint) (rs1 : RegNo) {s : State} (hs : Canonical s) : Keeps (execCpref h rs1 s) := by
  unfold execCpref
  dsimp only
  split <;> simp [hs]

@[simp] theorem keeps_execRlq (rs2 rs1 rd : RegNo) {s : State} (h : Canonical s) : Keeps (execRlq rs2 rs1 rd s) := by simp [execRlq, h]

/-! ### Far -/

@[simp] theorem yields_amoxStep (op : AmoxOp) (sc : Scope) (rs2 rs1 rd : RegNo) {s : State} (h : Canonical s) {P : State → Prop}
    (hP : ∀ t, Canonical t → P t) : Yields P (amoxStep op sc rs2 rs1 rd s) := by
  simp +contextual [amoxStep, h, hP]

@[simp] theorem keeps_execAmox (op : AmoxOp) (sc : Scope) (rs2 rs1 rd : RegNo) {s : State} (h : Canonical s) :
    Keeps (execAmox op sc rs2 rs1 rd s) := by
  simp [execAmox, h]

@[simp] theorem keeps_execIdget (sel : BitVec 12) (rd : RegNo) {s : State} (h : Canonical s) : Keeps (execIdget sel rd s) := by simp [execIdget, h]

/-! ### Walker -/

@[simp] theorem noteReads_mem (rs : Reads) (s : State) : (noteReads rs s).mem = s.mem := by simp [noteReads]
@[simp] theorem canonical_openAt (va : Word) (n : Nat) {s : State} (h : Canonical s) : Canonical (openAt va n s) := by simp [openAt, h]
@[simp] theorem canonical_openRec (x : Table) (g : Gram) (k : Nat) {s : State} (h : Canonical s) : Canonical (openRec x g k s) := by simp [openRec, h]
@[simp] theorem walkEnds_mem (e : Entry) (st : BitVec 8) (tv : Word) (s : State) : (walkEnds e st tv s).mem = s.mem := (rfl)

@[simp] theorem walkStops_mem (e : Entry) (k : Stuck) (prog : Nat) (s : State) : (walkStops e k prog s).mem = s.mem := by
  unfold walkStops
  split <;> rfl

@[simp] theorem fillRows_mem (n : Nat) : ∀ (rs : List (Option (List Nat))) (s : State), (fillRows n rs s).2.mem = s.mem
  | [], _ => rfl
  | some _ :: rs, s => fillRows_mem n rs s
  | none :: rs, s => fillRows_mem n rs _

/-! ### The walker's computations -/

/-- What a computation of the walker comes to has `P`. -/
def Comes {α : Type} (P : α → Prop) (m : Walk α) : Prop := ∀ a, got m = .ok a → P a

theorem comes_pure {α : Type} {P : α → Prop} {a : α} (ha : P a) : Comes P (pure a) := fun _ h => Except.ok.inj h ▸ ha

theorem comes_throw {α : Type} {P : α → Prop} (k : Stuck) : Comes P (throw k : Walk α) := fun _ h => by cases h

theorem comes_walkFault {α : Type} {P : α → Prop} (st : BitVec 8) (n : Nat) : Comes P (walkFault st n : Walk α) := comes_throw _

theorem comes_bind {α β : Type} {Q : α → Prop} {P : β → Prop} {m : Walk α} {f : α → Walk β} (hm : Comes Q m) (hf : ∀ a, Q a → Comes P (f a)) :
    Comes P (m >>= f) := fun b hb => by
  rw [got_bind] at hb
  cases hgot : got m with
  | error k => rw [hgot] at hb; cases hb
  | ok a => rw [hgot] at hb; exact hf a (hm a hgot) b hb

/-- What is read before does not matter where every value of it will do. -/
theorem comes_after {α β : Type} {P : β → Prop} {m : Walk α} {f : α → Walk β} (hf : ∀ a, Comes P (f a)) : Comes P (m >>= f) :=
  comes_bind (Q := fun _ => True) (fun _ _ => trivial) fun a _ => hf a

theorem comes_ite {α : Type} {P : α → Prop} {c : Prop} [Decidable c] {a b : Walk α} (ha : Comes P a) (hb : Comes P b) :
    Comes P (if c then a else b) := by
  by_cases h : c <;> simp [h, ha, hb]

theorem comes_walkWrite (va : Word) (bs : List Byte) {s : State} (h : Canonical s) : Comes Canonical (walkWrite va bs s) := by
  unfold walkWrite
  split
  · exact comes_throw _
  · exact comes_pure (canonical_engPut _ _ h)

theorem comes_putRec (x : Table) (g : Gram) (k len : Nat) (body : List Byte) {s : State} (h : Canonical s) : Comes Canonical (putRec x g k len body s) :=
  comes_walkWrite _ _ h

/-- What is written, and then left open where the value is unspecified (R163). -/
theorem comes_opened {m : Walk State} {c : Prop} [Decidable c] {f : State → State} (hm : Comes Canonical m) (hf : ∀ t, Canonical t → Canonical (f t)) :
    Comes Canonical (do let t ← m; return if c then f t else t) :=
  comes_bind hm fun t ht => comes_pure (by split <;> simp [hf, ht])

/-- A unit leaves memory canonical, done or stuck. -/
def UnitCanonical : UnitRes → Prop
  | .done t => Canonical t
  | .stuck _ t => Canonical t

@[simp] theorem unitCanonical_done (t : State) : UnitCanonical (.done t) ↔ Canonical t := Iff.rfl
@[simp] theorem unitCanonical_stuck (k : Stuck) (t : State) : UnitCanonical (.stuck k t) ↔ Canonical t := Iff.rfl

theorem unitCanonical_unitOf {r : Walk State} {s : State} (hr : Comes Canonical r) (h : Canonical s) : UnitCanonical (unitOf r s) := by
  unfold unitOf
  split
  · next t ht => simpa using hr t ht
  · simpa using h

theorem canonical_runUnits {f : Nat → State → UnitRes} (hf : ∀ i s, Canonical s → UnitCanonical (f i s)) : ∀ (n i : Nat) {s : State}, Canonical s →
    Canonical (runUnits f n i s).2.1
  | 0, _, _, h => h
  | n + 1, i, s, h => by
    have hu := hf i s h
    unfold runUnits
    split
    · next t ht => rw [ht] at hu; exact canonical_runUnits hf n (i + 1) hu
    · next k t ht => rw [ht] at hu; exact hu

@[simp] theorem answersOf_mem (q : Query) : ∀ (n i : Nat) (s : State), (answersOf q n i s).st.mem = s.mem
  | 0, _, _ => rfl
  | n + 1, i, s => by
    unfold answersOf
    dsimp only
    split
    · simp
    · rw [answersOf_mem q n]
      split <;> simp

theorem canonical_putQueries (e : Entry) (w : Nat) (dst : Word) (g : Answers) (h : Canonical g.st) : Canonical (putQueries e w dst g) := by
  unfold putQueries
  dsimp only
  split
  · simp [h]
  · simp [h]
  · split <;> simp [h]

/-- A job whose units leave memory canonical; queries write nothing themselves. -/
def JobKeeps : Job → Prop
  | .units _ f => ∀ i s, Canonical s → UnitCanonical (f i s)
  | .queries .. => True

theorem canonical_carryOn {prep : Entry → State → Walk Job} (hprep : ∀ e s, Comes JobKeeps (prep e s)) (e : Entry) {s : State} (h : Canonical s) :
    Canonical (carryOn prep e s) := by
  refine canonical_throughLoose e (fun s h => ?_) h
  have hnoted : ∀ f, Canonical (modEntry .gq e.ord f (noteReads (readsOf (prep e s)) s)) := fun f => by simp [h]
  dsimp only
  split
  · simpa using h
  · next n f hjob =>
    have hrun := canonical_runUnits (hprep e s _ hjob) (n - e.prog) e.prog (hnoted fun x => { x with frozen := some (e.frozen.getD (freeze e s)) })
    split
    · next hr => rw [hr] at hrun; simpa using hrun
    · next hr => rw [hr] at hrun; simpa using hrun
  · exact canonical_putQueries _ _ _ _ (by simpa using h)

theorem keeps_startWalk (opc : Nat) {prep : Entry → State → Walk Job} (hprep : ∀ e s, Comes JobKeeps (prep e s)) (bank : Bool) (seq : Nat) {s : State}
    (h : Canonical s) : Keeps (startWalk opc prep bank seq s) := by
  unfold startWalk
  split
  · simp [h]
  · split
    · simp [h]
    · simpa using canonical_carryOn hprep _ h

/-! ### The walker's units -/

theorem comes_gevalRule (c : Cmd) (g : Gram) (x : Table) (k : Nat) {s : State} (h : Canonical s) : Comes Canonical (gevalRule c g x k s) :=
  comes_after fun _ => comes_after fun as => by
    split
    · exact comes_walkFault _ _
    · exact comes_opened (comes_putRec _ _ _ _ _ h) fun _ ht => canonical_openAt _ _ ht

theorem comes_putResult (va : Word) (bs : List Byte) (loose : Bool) {s : State} (h : Canonical s) : Comes Canonical (putResult va bs loose s) :=
  comes_opened (comes_walkWrite _ _ h) fun _ ht => canonical_openAt _ _ ht

theorem comes_gmvRule (chk : Bool) (g : Gram) (x : Table) (xs : Word) (k : Nat) {s : State} (h : Canonical s) :
    Comes Canonical (gmvRule chk g x xs k s) :=
  comes_after fun _ => comes_after fun _ => comes_after fun _ => comes_opened (comes_putRec _ _ _ _ _ h) fun _ ht => canonical_openAt _ _ ht

theorem comes_gmvRow (chk : Bool) (g : Gram) (x : Table) (xs ys : Word) (r : Nat) {s : State} (h : Canonical s) :
    Comes Canonical (gmvRow chk g x xs ys r s) :=
  comes_after fun _ => comes_putResult _ _ _ h

theorem comes_gvmInit (g : Gram) (x : Table) (k : Nat) {s : State} (h : Canonical s) : Comes Canonical (gvmInit g x k s) :=
  comes_after fun _ => comes_putRec _ _ _ _ _ h

theorem comes_addAt (va : Word) (f : Nat → Nat) {s : State} (h : Canonical s) : Comes Canonical (addAt va f s) := by
  unfold addAt
  split
  · exact comes_throw _
  · exact comes_throw _
  · exact comes_ite (comes_throw _) (comes_pure (canonical_engPutAt _ _ h))

theorem comes_addWgt (first : Bool) (x : Table) (g : Gram) (k v : Nat) {s : State} (h : Canonical s) : Comes Canonical (addWgt first x g k v s) :=
  comes_after fun _ => comes_ite (comes_walkWrite _ _ h) (comes_ite (comes_after fun _ => comes_putRec _ _ _ _ _ h) (comes_throw _))

theorem comes_spreadOne (first : Bool) (x : Table) (g : Gram) (zs : Word) (v col c : Nat) {s : State} (h : Canonical s) :
    Comes Canonical (spreadOne first x g zs v col c s) :=
  comes_ite (comes_addWgt _ _ _ _ _ h) (comes_after fun _ => comes_ite (comes_pure h) (comes_addAt _ _ h))

theorem unitCanonical_spread (first : Bool) (x : Table) (g : Gram) (zs : Word) (v q : Nat) : ∀ (ks : List (Nat × Nat × Nat)) {s : State}, Canonical s →
    UnitCanonical (spread first x g zs v q ks s)
  | [], _, h => h
  | (c, off, _) :: ks, s, h => by
    have hu := unitCanonical_unitOf (comes_spreadOne first x g zs v (q + off) c h) h
    unfold spread
    split
    · next t ht => rw [ht] at hu; exact unitCanonical_spread first x g zs v q ks hu
    · exact hu

theorem unitCanonical_spreadOnceReady (first : Bool) (x : Table) (g : Gram) (zs : Word) (v q : Nat) (ks : List (Nat × Nat × Nat)) {s : State}
    (h : Canonical s) : UnitCanonical (spreadOnceReady first x g zs v q ks s) := by
  unfold spreadOnceReady
  split
  · simpa using h
  · exact unitCanonical_spread first x g zs v q ks h

/-- Places that are left open one after the other. -/
theorem canonical_openEach {α : Type} (va : α → Word) (n : Nat) (l : List α) {s : State} (h : Canonical s) :
    Canonical (l.foldl (fun s y => openAt (va y) n s) s) :=
  canonical_foldl (fun _ y h => canonical_openAt (va y) n h) l h

theorem unitCanonical_openSpread (x : Table) (g : Gram) (zs : Word) (loose : Bool) (ks : List (Nat × Nat × Nat)) {r : UnitRes} (h : UnitCanonical r) :
    UnitCanonical (openSpread x g zs loose ks r) := by
  cases r with
  | stuck k s => exact h
  | done s =>
    cases loose with
    | false => exact h
    | true =>
      have hva : ∀ va : Nat × Nat × Nat → Word, Canonical ((ks.filter fun y => g.t ≤ y.1).foldl (fun s y => openAt (va y) 4 s) (openAt zs (4 * g.cols) s)) :=
        fun va => canonical_openEach va 4 _ (canonical_openAt _ _ h)
      simpa only [openSpread, if_true, unitCanonical_done] using hva fun y => recVa x g y.1 + 16

theorem unitCanonical_gvmRow (chk : Bool) (g : Gram) (x : Table) (xs zs : Word) (r : Nat) {s : State} (h : Canonical s) :
    UnitCanonical (gvmRow chk g x xs zs r s) := by
  unfold gvmRow
  dsimp only
  split
  · simpa using h
  · exact unitCanonical_openSpread _ _ _ _ _ (unitCanonical_spreadOnceReady _ _ _ _ _ _ _ (by simpa using h))

theorem unitCanonical_gvmRule (chk : Bool) (g : Gram) (x : Table) (zs : Word) (k : Nat) {s : State} (h : Canonical s) :
    UnitCanonical (gvmRule chk g x zs k s) := by
  unfold gvmRule
  dsimp only
  split
  · simpa using h
  · exact unitCanonical_openSpread _ _ _ _ _ (unitCanonical_spreadOnceReady _ _ _ _ _ _ _ (by simpa using h))

theorem unitCanonical_zeroZ (zs : Word) (n : Nat) {s : State} (h : Canonical s) : UnitCanonical (zeroZ zs n s) := by
  have hstore := canonical_engStore zs (List.replicate (4 * n) 0) (4 * n) none 0x67 h
  unfold zeroZ
  dsimp only
  split <;> exact hstore

theorem unitCanonical_grotRule (c : Cmd) (g : Gram) (x : Table) (r : Rotary) (k : Nat) {s : State} (h : Canonical s) :
    UnitCanonical (grotRule c g x r k s) := by
  unfold grotRule
  dsimp only
  split
  · simpa using h
  · next d before rows _ =>
    have hstore : ∀ ka bs u n, Canonical u → Canonical (engStore ka bs n none 0x67 u).2 := fun ka bs u n hu => canonical_engStore ka bs n none 0x67 hu
    split
    · exact hstore _ _ _ _ (by simpa using h)
    · exact unitCanonical_unitOf (comes_opened (comes_putRec _ _ _ _ _ (hstore _ _ _ _ (by simpa using h))) fun _ ht => canonical_openAt _ _ ht)
        (hstore _ _ _ _ (by simpa using h))

/-! ### What the walker's commands prepare -/

theorem comes_gevalPrep (e : Entry) (s : State) : Comes JobKeeps (gevalPrep e s) :=
  comes_after fun _ => comes_after fun _ => comes_after fun _ => comes_after fun _ => comes_after fun _ =>
    comes_pure fun _ _ h => unitCanonical_unitOf (comes_gevalRule _ _ _ _ h) h

theorem comes_gfetchPrep (e : Entry) (s : State) : Comes JobKeeps (gfetchPrep e s) := comes_after fun _ => comes_pure trivial

theorem comes_gprefPrep (e : Entry) (s : State) : Comes JobKeeps (gprefPrep e s) :=
  comes_after fun _ => comes_after fun _ => comes_after fun _ => comes_after fun _ => comes_pure trivial

theorem comes_gexpPrep (e : Entry) (s : State) : Comes JobKeeps (gexpPrep e s) :=
  comes_ite (comes_after fun _ => comes_after fun _ => comes_after fun _ => comes_after fun _ => comes_pure trivial)
    (comes_after fun _ => comes_pure trivial)

theorem comes_gmvPrep (e : Entry) (s : State) : Comes JobKeeps (gmvPrep e s) :=
  comes_after fun g => comes_after fun x => by
    have hrule : ∀ k s, Canonical s → UnitCanonical (unitOf (gmvRule e.cmd.chk g x e.cmd.b k s) s) := fun k s h =>
      unitCanonical_unitOf (comes_gmvRule _ _ _ _ _ h) h
    have hrow : ∀ r s, Canonical s → UnitCanonical (unitOf (gmvRow e.cmd.chk g x e.cmd.b e.cmd.f r s) s) := fun r s h =>
      unitCanonical_unitOf (comes_gmvRow _ _ _ _ _ _ h) h
    dsimp only
    split
    · exact comes_after fun _ => comes_pure fun _ s h => hrule _ s h
    · exact comes_after fun _ => comes_pure fun _ s h => hrow _ s h
    · refine comes_pure fun i s h => ?_
      dsimp only
      split
      · exact hrule _ s h
      · exact hrow _ s h

theorem comes_gvmPrep (e : Entry) (s : State) : Comes JobKeeps (gvmPrep e s) :=
  comes_after fun g => comes_after fun x => by
    dsimp only
    split
    · exact comes_after fun _ => comes_pure fun _ s h => unitCanonical_gvmRow _ _ _ _ _ _ h
    · exact comes_after fun _ => comes_pure fun _ s h => unitCanonical_gvmRule _ _ _ _ _ h
    · refine comes_pure fun i s h => ?_
      dsimp only
      split
      · exact unitCanonical_unitOf (comes_gvmInit _ _ _ h) h
      · split
        · exact unitCanonical_zeroZ _ _ h
        · split
          · exact unitCanonical_gvmRow _ _ _ _ _ _ h
          · exact unitCanonical_gvmRule _ _ _ _ _ h

theorem comes_grotPrep (e : Entry) (s : State) : Comes JobKeeps (grotPrep e s) :=
  comes_after fun _ => comes_ite (comes_pure trivial) (comes_after fun _ => comes_ite (comes_walkFault _ _)
    (comes_after fun _ => comes_after fun _ => comes_pure fun _ _ h => unitCanonical_grotRule _ _ _ _ _ h))

theorem comes_prepOf (opc : Nat) (e : Entry) (s : State) : Comes JobKeeps (prepOf opc e s) := by
  unfold prepOf
  split
  · exact comes_gevalPrep e s
  · exact comes_gfetchPrep e s
  · exact comes_gprefPrep e s
  · exact comes_gexpPrep e s
  · exact comes_gmvPrep e s
  · exact comes_gvmPrep e s
  · exact comes_grotPrep e s

@[simp] theorem keeps_execGeval (bank : Bool) (seq : Nat) {s : State} (h : Canonical s) : Keeps (execGeval bank seq s) :=
  keeps_startWalk 0x80 comes_gevalPrep bank seq h

@[simp] theorem keeps_execGfetch (bank : Bool) (seq : Nat) {s : State} (h : Canonical s) : Keeps (execGfetch bank seq s) :=
  keeps_startWalk 0x81 comes_gfetchPrep bank seq h

@[simp] theorem keeps_execGpref (bank : Bool) (seq : Nat) {s : State} (h : Canonical s) : Keeps (execGpref bank seq s) :=
  keeps_startWalk 0x82 comes_gprefPrep bank seq h

@[simp] theorem keeps_execGexp (bank : Bool) (seq : Nat) {s : State} (h : Canonical s) : Keeps (execGexp bank seq s) :=
  keeps_startWalk 0x83 comes_gexpPrep bank seq h

/-! ### Linear -/

@[simp] theorem keeps_execGmv (bank : Bool) (seq : Nat) {s : State} (h : Canonical s) : Keeps (execGmv bank seq s) :=
  keeps_startWalk 0x84 comes_gmvPrep bank seq h

@[simp] theorem keeps_execGvm (bank : Bool) (seq : Nat) {s : State} (h : Canonical s) : Keeps (execGvm bank seq s) :=
  keeps_startWalk 0x85 comes_gvmPrep bank seq h

@[simp] theorem keeps_execGrot (bank : Bool) (seq : Nat) {s : State} (h : Canonical s) : Keeps (execGrot bank seq s) :=
  keeps_startWalk 0x86 comes_grotPrep bank seq h

/-! ### Queues -/

@[simp] theorem issueLine_mem (line lo hi : Nat) (dst : Bool) (s : State) : (issueLine line lo hi dst s).mem = s.mem := by
  unfold issueLine
  split <;> simp

@[simp] theorem issueRange_mem (r : Rng) (s : State) : (issueRange r s).mem = s.mem := by
  unfold issueRange
  split
  · rfl
  · exact foldl_keeps State.mem (fun s p => by split <;> simp) _ _

@[simp] theorem canonical_pushCmd (q : Queue) (c : Cmd) (rs : List Rng) {s : State} (h : Canonical s) : Canonical (pushCmd q c rs s) := by
  simp +contextual [pushCmd, h]

@[simp] theorem yields_cmdqStep (q : Queue) (rs1 rd : RegNo) {s : State} (h : Canonical s) {P : State → Prop} (hP : ∀ t, Canonical t → P t) :
    Yields P (cmdqStep q rs1 rd s) := by
  unfold cmdqStep
  dsimp only
  split
  · simp
  · rw [yields_bind]
    refine yields_memLoad _ _ _ h fun g hg => ?_
    split
    · exact hP _ (by simp [hg])
    · split
      · exact hP _ (by simp [hg])
      · split <;> exact hP _ (by simp [hg])

@[simp] theorem keeps_execCmdq (q : Queue) (rs1 rd : RegNo) {s : State} (h : Canonical s) : Keeps (execCmdq q rs1 rd s) := by simp [execCmdq, h]

@[simp] theorem yields_cmdqwStep (q : Queue) (rs1 rd : RegNo) {s : State} (h : Canonical s) {P : State → Prop} (hP : ∀ t, Canonical t → P t) :
    Yields P (cmdqwStep q rs1 rd s) := by
  simp [cmdqwStep, h, hP]

@[simp] theorem keeps_execCmdqw (q : Queue) (rs1 rd : RegNo) {s : State} (h : Canonical s) : Keeps (execCmdqw q rs1 rd s) := by simp [execCmdqw, h]

@[simp] theorem keeps_execCmdcan (q : Queue) (rs1 rd : RegNo) {s : State} (h : Canonical s) : Keeps (execCmdcan q rs1 rd s) := by
  unfold execCmdcan
  dsimp only
  split <;> simp [h]

@[simp] theorem keeps_execCmdst (q : Queue) (rd : RegNo) {s : State} (h : Canonical s) : Keeps (execCmdst q rd s) := by simp [execCmdst, h]

@[simp] theorem keeps_execLoopset (q : Queue) (l : BitVec 3) (rs1 : RegNo) {s : State} (h : Canonical s) : Keeps (execLoopset q l rs1 s) := by
  simp [execLoopset, h]

@[simp] theorem keeps_execLoopget (q : Queue) (l : BitVec 3) (rd : RegNo) {s : State} (h : Canonical s) : Keeps (execLoopget q l rd s) := by
  simp [execLoopget, h]

@[simp] theorem clearFirst_mem (e : Entry) (s : State) : (clearFirst e s).mem = s.mem := by simp [clearFirst]
@[simp] theorem loosen_mem (q : Queue) (ps : List (Lock × Lock)) (s : State) : (loosen q ps s).mem = s.mem := by simp [loosen]

@[simp] theorem canonical_sourceReleased (q : Queue) (e : Entry) {s : State} (h : Canonical s) : Canonical (sourceReleased q e s) := by
  simp [sourceReleased, h]

@[simp] theorem canonical_dispatchEntry (q : Queue) (e : Entry) {s : State} (h : Canonical s) : Canonical (dispatchEntry q e s) := by
  simp [dispatchEntry, h]

@[simp] theorem keeps_execSequencerDispatch (q : Queue) {s : State} (h : Canonical s) : Keeps (execSequencerDispatch q s) := by
  unfold execSequencerDispatch
  split <;> simp [h]

@[simp] theorem keeps_execEngineChainEvent (q : Queue) (bank : Bool) (seq : Nat) (ev : BitVec 2) {s : State} (h : Canonical s) :
    Keeps (execEngineChainEvent q bank seq ev s) := by
  unfold execEngineChainEvent
  split <;> simp [h]

@[simp] theorem ckRetire_mem (q : Queue) (e : Entry) (r : W32) (s : State) : (ckRetire q e r s).mem = s.mem := by
  unfold ckRetire
  dsimp only
  split <;> simp

@[simp] theorem wakeCmd_mem (b : Bool) (q : Queue) (s : State) : (wakeCmd b q s).mem = s.mem := (rfl)
@[simp] theorem leaveQueue_mem (q : Queue) (e : Entry) (s : State) : (leaveQueue q e s).mem = s.mem := (rfl)

@[simp] theorem canonical_lateRelease (q : Queue) (e : Entry) {s : State} (h : Canonical s) : Canonical (lateRelease q e s) := by
  simp [lateRelease, h]

@[simp] theorem canonical_retireCmd (q : Queue) (e : Entry) {s : State} (h : Canonical s) : Canonical (retireCmd q e s) := by
  unfold retireCmd
  dsimp only
  generalize (if e.cancelled then (0x40 : BitVec 8) else if e.cmd.opc == 0x42 then (ckFinish e).2.1 else e.status) = st
  have hfold : ∀ {s : State}, Canonical s → Canonical ((lastStamps e).foldl (fun s a => writeStamp q e a st s) s) := fun h =>
    canonical_foldl (fun _ a h => canonical_writeStamp q e a st h) _ h
  simp [hfold, h]

@[simp] theorem keeps_execCommandRetire (q : Queue) {s : State} (h : Canonical s) : Keeps (execCommandRetire q s) := by
  unfold execCommandRetire
  split <;> simp [h]

/-! ### Contract -/

@[simp] theorem canonical_openElems (as : List Word) {s : State} (h : Canonical s) : Canonical (openElems as s) := by simp +contextual [openElems, h]

@[simp] theorem canonical_gconLeaves (bank : Bool) (b : GBlock) {s : State} (h : Canonical s) : Canonical (gconLeaves bank b s) := by
  simp [gconLeaves, h]

@[simp] theorem canonical_pushOne (e : Entry) {s : State} (i : Inner) (h : Canonical s) : Canonical (pushOne e s i) := by
  simp +contextual [pushOne, h]

@[simp] theorem canonical_pushInner (e : Entry) (x : Contraction) {s : State} (h : Canonical s) : Canonical (pushInner e x s) := by
  simp +contextual [pushInner, h]

@[simp] theorem dropInner_mem (ord : Nat) (s : State) : (dropInner ord s).mem = s.mem := (rfl)

theorem comes_putElems (st : BitVec 8) : ∀ (l : List (Word × Nat)) {s : State}, Canonical s → Comes Canonical (putElems st l s)
  | [], _, h => comes_pure h
  | (a, v) :: l, s, h => by
    unfold putElems
    split
    · exact comes_throw _
    · exact comes_putElems st l (canonical_engPut _ _ h)

theorem unitCanonical_failOpen (as : List Word) {r : UnitRes} (h : UnitCanonical r) : UnitCanonical (failOpen as r) := by
  cases r with
  | done t => exact h
  | stuck k t => exact canonical_openElems as h

theorem unitCanonical_tileUnit (x : Contraction) (i : Nat) {s : State} (h : Canonical s) : UnitCanonical (tileUnit x i s) :=
  unitCanonical_failOpen _ (unitCanonical_unitOf (comes_after fun _ => comes_opened (comes_putElems _ _ h) fun _ ht => canonical_openElems _ ht) h)

theorem comes_columnRows (x : Contraction) (g : Gram) (tab : Table) (as : List Word) {s : State} (h : Canonical s) :
    Comes Canonical (columnRows x g tab as s) :=
  comes_after fun ys => by
    have hput : ∀ old : Walk (List Nat), Comes Canonical (do
        let old ← old
        let t ← putElems 0x67 (as.zip (ys.mapIdx fun r y => if x.blk.acc then add32 (old.getD r 0) y.1 else y.1)) s
        return openElems (((as.zip ys).filter (·.2.2)).map (·.1)) t) := fun old =>
      comes_after fun _ => comes_bind (comes_putElems _ _ h) fun _ ht => comes_pure (canonical_openElems _ ht)
    exact comes_ite (hput _) (hput _)

theorem unitCanonical_columnUnit (x : Contraction) (g : Gram) (tab : Table) (i : Nat) {s : State} (h : Canonical s) :
    UnitCanonical (columnUnit x g tab i s) := by
  refine unitCanonical_failOpen _ ?_
  have hstaged : ∀ xs : Walk (List Nat), UnitCanonical (unitOf (do
      let xs ← xs
      walkWrite x.blk.stage (rowBytes xs) s) s) := fun xs => unitCanonical_unitOf (comes_after fun _ => comes_walkWrite _ _ h) h
  have hu := hstaged (columnOf s x (i / x.blk.j) (i % x.blk.j))
  split
  · next ht => rw [ht] at hu; exact hu
  · next t ht =>
    rw [ht] at hu
    have hrun := canonical_runUnits (f := fun k s => unitOf (gmvRule false g tab x.blk.stage (g.t + k) s) s)
      (fun _ _ h => unitCanonical_unitOf (comes_gmvRule _ _ _ _ _ h) h) g.n 0 hu
    split
    · next hr => rw [hr] at hrun; exact hrun
    · next hr => rw [hr] at hrun; exact unitCanonical_unitOf (comes_columnRows _ _ _ _ hrun) hrun

theorem unitCanonical_partUnit (x : Contraction) (i : Nat) {s : State} (h : Canonical s) : UnitCanonical (partUnit x i s) := by
  unfold partUnit
  split
  · split
    · split
      · exact h
      · exact unitCanonical_columnUnit _ _ _ _ h
    · exact unitCanonical_tileUnit _ _ h
  · exact unitCanonical_tileUnit _ _ h

@[simp] theorem canonical_runPart (e : Entry) (x : Contraction) {s : State} (h : Canonical s) : Canonical (runPart e x s) := by
  refine canonical_throughLoose e (fun s h => ?_) h
  have hu := unitCanonical_partUnit x e.prog h
  dsimp only
  split
  · next ht => rw [ht] at hu; simpa using canonical_gconLeaves e.bank x.blk (s := dropInner e.ord _) (by simpa using hu)
  · next ht => rw [ht] at hu; exact hu
  · next t ht =>
    rw [ht] at hu
    have hdrop : Canonical (dropInner e.ord t) := by simpa using hu
    split
    · simpa using canonical_gconLeaves _ _ hdrop
    · exact canonical_pushInner _ _ (by simpa using hdrop)

@[simp] theorem canonical_gconStep (e : Entry) {s : State} (h : Canonical s) : Canonical (gconStep e s) := by
  unfold gconStep
  dsimp only
  split
  · split
    · simpa using h
    · exact canonical_pushInner _ _ (by simpa using h)
  · split
    · exact canonical_pushInner _ _ h
    · split
      · exact canonical_runPart _ _ h
      · exact h

theorem canonical_rereadRecord {still : Entry → RecWait → State → State} (hstill : ∀ e w s, Canonical s → Canonical (still e w s)) (e : Entry) (w : RecWait)
    {s : State} (h : Canonical s) : Canonical (rereadRecord still e w s) := by
  have hcarry := canonical_carryOn (comes_prepOf e.cmd.opc.toNat) e h
  unfold rereadRecord
  rw [Canonical, creditBank_mem]
  dsimp only
  split
  · exact hstill _ _ _ (by simpa using h)
  · exact hcarry

@[simp] theorem keeps_execGcon (bank : Bool) (seq : Nat) {s : State} (h : Canonical s) : Keeps (execGcon bank seq s) := by
  unfold execGcon
  split <;> simp [h]

@[simp] theorem keeps_execWalkerRecordPoll {s : State} (h : Canonical s) : Keeps (execWalkerRecordPoll s) := by
  unfold execWalkerRecordPoll
  split
  · simp [h]
  · split
    · simp [h]
    · exact (keeps_next _).mpr (canonical_rereadRecord (fun _ _ _ h => by simp [h]) _ _ h)

@[simp] theorem keeps_execWalkerRecordTimeout {s : State} (h : Canonical s) : Keeps (execWalkerRecordTimeout s) := by
  unfold execWalkerRecordTimeout
  split
  · simp [h]
  · split
    · simp [h]
    · exact (keeps_next _).mpr (canonical_rereadRecord (fun _ _ _ h => by simp [h]) _ _ h)

/-! ### Control -/

@[simp] theorem controlDone_mem (q : Queue) (e : Entry) (st : BitVec 8) (tval : Word) (s : State) : (controlDone q e st tval s).mem = s.mem := (rfl)

@[simp] theorem keeps_execQnop (bank : Bool) (seq : Nat) {s : State} (h : Canonical s) : Keeps (execQnop bank seq s) := by
  unfold execQnop
  split <;> simp [h]

@[simp] theorem sequencerRelease_mem (s : State) : (sequencerRelease s).mem = s.mem := foldl_keeps State.mem (fun _ _ => by simp) _ _

@[simp] theorem keeps_execQstamp (bank : Bool) (seq : Nat) {s : State} (h : Canonical s) : Keeps (execQstamp bank seq s) := by
  unfold execQstamp
  split <;> simp [h]

@[simp] theorem keeps_execQarr (bank : Bool) (seq : Nat) {s : State} (h : Canonical s) : Keeps (execQarr bank seq s) := by
  unfold execQarr
  split <;> simp [h]

@[simp] theorem canonical_endQwait (q : Queue) (e : Entry) (st : BitVec 8) {s : State} (h : Canonical s) : Canonical (endQwait q e st s) := by
  simp [endQwait, h]

@[simp] theorem seqAccess_mem (p : Place) (s : State) : (seqAccess p s).mem = s.mem := by simp [seqAccess]

@[simp] theorem keeps_execQwait (bank : Bool) (seq : Nat) {s : State} (h : Canonical s) : Keeps (execQwait bank seq s) := by
  unfold execQwait
  (repeat' split) <;> simp [h]

@[simp] theorem keeps_execQsig (bank : Bool) (seq : Nat) {s : State} (h : Canonical s) : Keeps (execQsig bank seq s) := by
  unfold execQsig
  (repeat' split) <;> simp [h]

/-! ### Swaps -/

@[simp] theorem keeps_execShadowSwap {s : State} (h : Canonical s) : Keeps (execShadowSwap s) := by simp [execShadowSwap, h]

@[simp] theorem canonical_swapHalts (ms : List HaltMsg) {s : State} (h : Canonical s) : Canonical (swapHalts ms s) :=
  canonical_foldl (fun _ _ h => by split <;> simp [h]) _ h

@[simp] theorem keeps_execSwapComplete {s : State} (h : Canonical s) : Keeps (execSwapComplete s) := by
  unfold execSwapComplete
  dsimp only
  (repeat' split) <;> simp +contextual [h]

@[simp] theorem keeps_execYieldEvent {s : State} (h : Canonical s) : Keeps (execYieldEvent s) := by simp [execYieldEvent, h]

@[simp] theorem keeps_execSpillComplete {s : State} (h : Canonical s) : Keeps (execSpillComplete s) := by
  unfold execSpillComplete
  dsimp only
  (repeat' split) <;> simp +contextual [h]

@[simp] theorem keeps_execFillComplete {s : State} (h : Canonical s) : Keeps (execFillComplete s) := by
  unfold execFillComplete
  split <;> simp [h]

/-! ### Offers -/

@[simp] theorem modGroup_mem (g : Nat) (f : Group → Group) (s : State) : (modGroup g f s).mem = s.mem := (rfl)
@[simp] theorem modNode_mem (id : NodeId) (f : Node → Node) (s : State) : (modNode id f s).mem = s.mem := (rfl)
@[simp] theorem pushUpdate_mem (u : Update) (s : State) : (pushUpdate u s).mem = s.mem := (rfl)
@[simp] theorem setEntry_mem (gr : Group) (id : NodeId) (e : GroupEnt) (s : State) : (setEntry gr id e s).mem = s.mem := by simp [setEntry]
@[simp] theorem setCount_mem (gr : Group) (id : NodeId) (c total : Nat) (s : State) : (setCount gr id c total s).mem = s.mem := by simp [setCount]
@[simp] theorem sendNode_mem (src : Nat) (dst : NodeId) (down : Bool) (m : Msg) (s : State) : (sendNode src dst down m s).mem = s.mem := (rfl)
@[simp] theorem canonical_park (gr : Group) (m : Msg) {s : State} (h : Canonical s) : Canonical (park gr m s) := by simp [park, h]

@[simp] theorem canonical_openSlot (g : Nat) {s : State} (h : Canonical s) : Canonical (openSlot g s) := by
  unfold openSlot
  split <;> simp [h]

@[simp] theorem canonical_ringPop (root : NodeId) (g : Nat) {s : State} (h : Canonical s) : Canonical (ringPop root g s) := by simp [ringPop, h]

@[simp] theorem canonical_refill (root : NodeId) {s : State} (h : Canonical s) : Canonical (refill root s) := by
  unfold refill
  (repeat' split) <;> simp [h]

@[simp] theorem forward_mem (id : NodeId) (c : Nat) (m : Msg) (s : State) : (forward id c m s).mem = s.mem := by simp [forward]

@[simp] theorem canonical_steer (gr : Group) (id : NodeId) (down : Bool) (m : Msg) {s : State} (h : Canonical s) :
    Canonical (steer gr id down m s) := by
  unfold steer
  dsimp only
  (repeat' split) <;> simp [h]

@[simp] theorem unpark_mem {gr : Group} {s t : State} {m : Msg} (ht : unpark gr s = some (m, t)) (h : Canonical s) : Canonical t := by
  unfold unpark at ht
  split at ht
  · obtain ⟨-, rfl⟩ := Prod.mk.inj (Option.some.inj ht)
    simp [h]
  · split at ht
    · obtain ⟨-, rfl⟩ := Prod.mk.inj (Option.some.inj ht)
      simp [h]
    · cases ht

@[simp] theorem canonical_releaseParked (gr : Group) : ∀ (n : Nat) {s : State}, Canonical s → Canonical (releaseParked gr n s)
  | 0, _, h => h
  | n + 1, s, h => by
    unfold releaseParked
    split
    · exact h
    · split
      · exact h
      · next ht => exact canonical_releaseParked gr n (canonical_steer _ _ _ _ (unpark_mem ht h))

@[simp] theorem canonical_releaseRoot (gr : Group) {s : State} (h : Canonical s) : Canonical (releaseRoot gr s) := by simp [releaseRoot, h]

@[simp] theorem keeps_execOfferSteer (node : NodeId) {s : State} (h : Canonical s) : Keeps (execOfferSteer node s) := by
  unfold execOfferSteer
  dsimp only
  (repeat' split) <;> simp [h]

@[simp] theorem keeps_execReadinessUpdate (node : NodeId) {s : State} (h : Canonical s) : Keeps (execReadinessUpdate node s) := by
  unfold execReadinessUpdate
  dsimp only
  (repeat' split) <;> simp [h]

@[simp] theorem msendFree_mem (n : Nat) (s : State) : (msendFree n s).mem = s.mem := by simp [msendFree]
@[simp] theorem wire_mem (conn : Nat) (p : PeerPkt) (s : State) : (wire conn p s).mem = s.mem := (rfl)
@[simp] theorem takeReply_mem (w : Asker) (got : Option (Nat × BitVec 1024)) (s : State) : (takeReply w got s).mem = s.mem := by simp [takeReply]
@[simp] theorem takeFlushed_mem (core line slice : Nat) (s : State) : (takeFlushed core line slice s).mem = s.mem := (rfl)

@[simp] theorem deliverPacket_mem (p : Packet) (s : State) : (deliverPacket p s).mem = s.mem := by
  unfold deliverPacket
  split <;> simp

@[simp] theorem keeps_execPacketArrival (cls : TClass) (src dst : Nat) {s : State} (h : Canonical s) : Keeps (execPacketArrival cls src dst s) := by
  unfold execPacketArrival
  (repeat' split) <;> simp [h]

@[simp] theorem keeps_execOfferDeliver {s : State} (h : Canonical s) : Keeps (execOfferDeliver s) := by
  unfold execOfferDeliver
  dsimp only
  (repeat' split) <;> simp [h]

@[simp] theorem keeps_execMsendCopyDeliver {s : State} (h : Canonical s) : Keeps (execMsendCopyDeliver s) := by
  unfold execMsendCopyDeliver
  split <;> simp [h]

@[simp] theorem keeps_execOfferReturn (group : Nat) {s : State} (h : Canonical s) : Keeps (execOfferReturn group s) := by
  unfold execOfferReturn
  (repeat' split) <;> simp [h]

@[simp] theorem placeAtTwig_mem (twig : Nat) (m : Msg) (s : State) : (placeAtTwig twig m s).mem = s.mem := (rfl)
@[simp] theorem leaveResend_mem (r : Resend) (s : State) : (leaveResend r s).mem = s.mem := by simp [leaveResend]

@[simp] theorem keeps_execResendTimer (twig : Nat) {s : State} (h : Canonical s) : Keeps (execResendTimer twig s) := by
  unfold execResendTimer
  split <;> simp [h]

@[simp] theorem keeps_execOrderedSendRelease (twig : Nat) {s : State} (h : Canonical s) : Keeps (execOrderedSendRelease twig s) := by
  unfold execOrderedSendRelease
  split <;> simp [h]

@[simp] theorem keeps_execReleasingSendRelease (twig : Nat) {s : State} (h : Canonical s) : Keeps (execReleasingSendRelease twig s) := by
  unfold execReleasingSendRelease
  split <;> simp [h]

@[simp] theorem keeps_execOfferReceipt {s : State} (h : Canonical s) : Keeps (execOfferReceipt s) := by
  unfold execOfferReceipt
  dsimp only
  (repeat' split) <;> simp [h]

@[simp] theorem keeps_execGroupRecordUpdate (group : Nat) {s : State} (h : Canonical s) : Keeps (execGroupRecordUpdate group s) := by
  unfold execGroupRecordUpdate
  split <;> simp [h]

@[simp] theorem nextSeq_mem (s : State) : (nextSeq s).mem = s.mem := (rfl)

@[simp] theorem yields_osendStep (ord rel : Bool) (vs rs1 rd : RegNo) {s : State} (h : Canonical s) {P : State → Prop} (hP : ∀ t, Canonical t → P t) :
    Yields P (osendStep ord rel vs rs1 rd s) := by
  unfold osendStep
  dsimp only
  split <;> simp [h, hP]

@[simp] theorem keeps_execOsend (vs rs1 rd : RegNo) {s : State} (h : Canonical s) : Keeps (execOsend vs rs1 rd s) := by simp [execOsend, h]
@[simp] theorem keeps_execOsendO (vs rs1 rd : RegNo) {s : State} (h : Canonical s) : Keeps (execOsendO vs rs1 rd s) := by simp [execOsendO, h]
@[simp] theorem keeps_execOsendR (vs rs1 rd : RegNo) {s : State} (h : Canonical s) : Keeps (execOsendR vs rs1 rd s) := by simp [execOsendR, h]
@[simp] theorem keeps_execOsendOr (vs rs1 rd : RegNo) {s : State} (h : Canonical s) : Keeps (execOsendOr vs rs1 rd s) := by simp [execOsendOr, h]

@[simp] theorem yields_readyStep (up : Bool) (rs2 rs1 rd : RegNo) {s : State} (h : Canonical s) {P : State → Prop} (hP : ∀ t, Canonical t → P t) :
    Yields P (readyStep up rs2 rs1 rd s) := by
  simp [readyStep, h, hP]

@[simp] theorem keeps_execOready (rs2 rs1 rd : RegNo) {s : State} (h : Canonical s) : Keeps (execOready rs2 rs1 rd s) := by simp [execOready, h]
@[simp] theorem keeps_execOunready (rs2 rs1 rd : RegNo) {s : State} (h : Canonical s) : Keeps (execOunready rs2 rs1 rd s) := by simp [execOunready, h]
@[simp] theorem takeMsg_mem (vd rd : RegNo) (m : Msg) (s : State) : (takeMsg vd rd m s).mem = s.mem := by simp [takeMsg]

@[simp] theorem yields_otakeStep (k : TakeKind) (vd rs1 rd : RegNo) {s : State} (h : Canonical s) {P : State → Prop} (hP : ∀ t, Canonical t → P t) :
    Yields P (otakeStep k vd rs1 rd s) := by
  unfold otakeStep
  dsimp only
  (repeat' split) <;> simp [h, hP]

@[simp] theorem keeps_execOtake (vd rs1 rd : RegNo) {s : State} (h : Canonical s) : Keeps (execOtake vd rs1 rd s) := by simp [execOtake, h]
@[simp] theorem keeps_execOtakeA (vd rs1 rd : RegNo) {s : State} (h : Canonical s) : Keeps (execOtakeA vd rs1 rd s) := by simp [execOtakeA, h]
@[simp] theorem keeps_execOpoll (vd rs1 rd : RegNo) {s : State} (h : Canonical s) : Keeps (execOpoll vd rs1 rd s) := by simp [execOpoll, h]
@[simp] theorem keeps_execOfence (rs1 : RegNo) {s : State} (h : Canonical s) : Keeps (execOfence rs1 s) := by simp [execOfence, h]

@[simp] theorem yields_msendStep (vs rd : RegNo) {s : State} (h : Canonical s) {P : State → Prop} (hP : ∀ t, Canonical t → P t) :
    Yields P (msendStep vs rd s) := by
  unfold msendStep
  dsimp only
  (repeat' split) <;> simp [h, hP]

@[simp] theorem keeps_execMsend (vs rd : RegNo) {s : State} (h : Canonical s) : Keeps (execMsend vs rd s) := by simp [execMsend, h]

/-! ### Timed -/

@[simp] theorem yields_wselStep (rs1 : RegNo) (w : Option W32) {s : State} (h : Canonical s) {P : State → Prop} (hP : ∀ t, Canonical t → P t) :
    Yields P (wselStep rs1 w s) := by
  unfold wselStep
  dsimp only
  (repeat' split) <;> simp [h, hP]

@[simp] theorem keeps_execWsel (rs1 : RegNo) {s : State} (h : Canonical s) : Keeps (execWsel rs1 s) := by simp [execWsel, h]
@[simp] theorem canonical_slotViolation (n : Nat) {s : State} (h : Canonical s) : Canonical (slotViolation n s) := by simp [slotViolation, h]
@[simp] theorem sendBeats_mem (launch b : Nat) (x : Slot) (v : VReg) (s : State) : (sendBeats launch b x v s).mem = s.mem := (rfl)

@[simp] theorem keeps_execWtx (vs rs1 : RegNo) {s : State} (h : Canonical s) : Keeps (execWtx vs rs1 s) := by
  unfold execWtx
  dsimp only
  split <;> simp [h]

@[simp] theorem keeps_execTimedSlotStart (bank : Bool) (ctx : Nat) {s : State} (h : Canonical s) : Keeps (execTimedSlotStart bank ctx s) := by
  unfold execTimedSlotStart
  dsimp only
  (repeat' split) <;> simp [h]

@[simp] theorem keeps_execBeatArrive {s : State} (h : Canonical s) : Keeps (execBeatArrive s) := by
  unfold execBeatArrive
  dsimp only
  split <;> simp [h]

@[simp] theorem yields_wrxStep (vd rs1 : RegNo) {s : State} (h : Canonical s) {P : State → Prop} (hP : ∀ t, Canonical t → P t) :
    Yields P (wrxStep vd rs1 s) := by
  simp [wrxStep, h, hP]

@[simp] theorem keeps_execWrx (vd rs1 : RegNo) {s : State} (h : Canonical s) : Keeps (execWrx vd rs1 s) := by simp [execWrx, h]

@[simp] theorem keeps_execRclkTargetWrite (grove : Nat) (mhz : BitVec 11) {s : State} (h : Canonical s) :
    Keeps (execRclkTargetWrite grove mhz s) := by
  simp +contextual [execRclkTargetWrite, h]

@[simp] theorem setGroup_mem (grove : Nat) (grp : BitVec 7) (s : State) : (setGroup grove grp s).mem = s.mem := (rfl)

@[simp] theorem keeps_execRclkJoin (grove : Nat) (grp : BitVec 7) {s : State} (h : Canonical s) : Keeps (execRclkJoin grove grp s) := by
  simp [execRclkJoin, h]

@[simp] theorem keeps_execRclkLeave (grove : Nat) {s : State} (h : Canonical s) : Keeps (execRclkLeave grove s) := by simp [execRclkLeave, h]

@[simp] theorem keeps_execGovernorChange (grove : Nat) {s : State} (h : Canonical s) : Keeps (execGovernorChange grove s) := by
  simp +contextual [execGovernorChange, h]

@[simp] theorem endChange_mem (s0 : State) (g : Nat) (s : State) : (endChange s0 g s).mem = s.mem := (rfl)
@[simp] theorem keeps_execRelockEnd (grove : Nat) {s : State} (h : Canonical s) : Keeps (execRelockEnd grove s) := by simp [execRelockEnd, h]

/-! ### Launches -/

@[simp] theorem modRing_mem (key : Nat) (f : Ring → Ring) (s : State) : (modRing key f s).mem = s.mem := (rfl)
@[simp] theorem msi_mem (port : Bool) (vec : Nat) (s : State) : (msi port vec s).mem = s.mem := (rfl)
@[simp] theorem ringEvent_mem (key : Nat) (s : State) : (ringEvent key s).mem = s.mem := (rfl)

@[simp] theorem keeps_execDescriptorCopy (port : Bool) (ring : Nat) {s : State} (h : Canonical s) : Keeps (execDescriptorCopy port ring s) := by
  simp [execDescriptorCopy, h]

@[simp] theorem dropTlb_mem (asid : Nat) (s : State) : (dropTlb asid s).mem = s.mem := (rfl)

@[simp] theorem canonical_kernelPut (asid : Nat) (ws : KernelWrites) {s : State} (h : Canonical s) : Canonical (kernelPut asid ws s) := by
  simp +contextual [kernelPut, h]

@[simp] theorem canonical_stampAt (ring key : Nat) (lid : W32) (st : BitVec 8) {s : State} (h : Canonical s) :
    Canonical (stampAt ring key lid st s) := by
  simp [stampAt, h]

@[simp] theorem canonical_stampLaunch (ring asid : Nat) (stamp : Word) (lid : W32) (st : BitVec 8) {s : State} (h : Canonical s) :
    Canonical (stampLaunch ring asid stamp lid st s) := by
  unfold stampLaunch
  split <;> simp [h]

@[simp] theorem modProc_mem (asid : Nat) (f : Proc → Proc) (s : State) : (modProc asid f s).mem = s.mem := (rfl)
@[simp] theorem remember_mem (asid : Nat) (lid : W32) (st : BitVec 8) (s : State) : (remember asid lid st s).mem = s.mem := (rfl)
@[simp] theorem canonical_complete (l : Launch) (st : BitVec 8) {s : State} (h : Canonical s) : Canonical (complete l st s) := by simp [complete, h]

@[simp] theorem canonical_refuse (p : Proc) (key : Nat) (d : Desc) (keep : Bool) {s : State} (h : Canonical s) :
    Canonical (refuse p key d keep s) := by
  simp [refuse, h]

@[simp] theorem refuseStamp_mem (p : Proc) (key : Nat) (d : Desc) (s : State) : (refuseStamp p key d s).mem = s.mem := by simp [refuseStamp]

theorem canonical_takeDesc {p : Proc} {key : Nat} {d : Desc} {a : HaltArea} {s t : State} (h : Canonical s) (ht : takeDesc p key d a s = some t) :
    Canonical t := by
  suffices hsome : ∀ t, takeDesc p key d a s = some t → Canonical t from hsome t ht
  unfold takeDesc
  (repeat' split) <;> intro t ht <;> cases ht <;> simp [h]

@[simp] theorem keeps_execAdmission (port : Bool) (a : AdmitAt) {s : State} (h : Canonical s) : Keeps (execAdmission port a s) := by
  unfold execAdmission
  dsimp only
  split
  · simp [h]
  · split
    · simp [h]
    · split
      · simp [h]
      · rw [keeps_next]
        split
        · exact h
        · generalize ht : takeDesc _ _ _ _ _ = o
          cases o with
          | none => exact h
          | some t => exact canonical_takeDesc (by exact h) ht

@[simp] theorem keeps_execLaunchGatePass (launch : Nat) {s : State} (h : Canonical s) : Keeps (execLaunchGatePass launch s) := by
  unfold execLaunchGatePass
  split <;> simp [h]

@[simp] theorem canonical_deleteGroup (gr : Group) {s : State} (h : Canonical s) : Canonical (deleteGroup gr s) := by
  unfold deleteGroup
  dsimp only
  refine canonical_foldl (fun _ _ h => canonical_refill _ h) _ (canonical_perform _ _ ?_)
  rw [Canonical, foldl_mem (fun s t => by simp)]
  exact h

@[simp] theorem canonical_deleteGroups (launch : Nat) {s : State} (h : Canonical s) : Canonical (deleteGroups launch s) := by
  simp +contextual [deleteGroups, h]

@[simp] theorem deleteDoms_mem (launch : Nat) (s : State) : (deleteDoms launch s).mem = s.mem := (rfl)
@[simp] theorem vacate_mem (n : Nat) (b : Bool) (launch : Nat) (s : State) : (vacate n b launch s).mem = s.mem := by simp [vacate]
@[simp] theorem canonical_turnOver (n : Nat) {s : State} (h : Canonical s) : Canonical (turnOver n s) := by simp +contextual [turnOver, h]
@[simp] theorem canonical_vacateAll (l : Launch) {s : State} (h : Canonical s) : Canonical (vacateAll l s) := by simp +contextual [vacateAll, h]

@[simp] theorem canonical_nameStop (l : Launch) (o : Origin) {s : State} (h : Canonical s) : Canonical (nameStop l o s) := by
  simp +contextual [nameStop, h]

@[simp] theorem canonical_endLaunch (l : Launch) (st : BitVec 8) {s : State} (h : Canonical s) : Canonical (endLaunch l st s) :=
  canonical_complete _ _ (by simp [h])

@[simp] theorem canonical_killEvent (asid : Nat) {s : State} (h : Canonical s) : Canonical (killEvent asid s) := by simp [killEvent, h]

@[simp] theorem keeps_execLaunchEnd (launch : Nat) {s : State} (h : Canonical s) : Keeps (execLaunchEnd launch s) := by
  have hend : ∀ (l : Launch) {t : State}, Canonical t → Canonical (if killedProc t l then killEvent l.asid (endLaunch l (if killedProc t l then 0x03 else 0x01) t)
      else msi (portOf l.ring) 33 (endLaunch l (if killedProc t l then 0x03 else 0x01) t)) := fun l t ht => by
    split <;> simp [ht]
  unfold execLaunchEnd
  dsimp only
  split
  · simp [h]
  · next l _ =>
    simp only [keeps_ite, keeps_next]
    refine ⟨fun _ => h, fun _ => ⟨fun _ => ⟨fun _ => canonical_endLaunch _ _ h, fun _ => h⟩, fun _ => ⟨fun _ => ?_, fun _ => h⟩⟩⟩
    split
    · exact hend l (canonical_nameStop _ _ h)
    · exact hend l h

/-! ### HostPort -/

@[simp] theorem keeps_ringWrite (port : Bool) (ring : Nat) (f : Ring → Ring) {s : State} (h : Canonical s) : Keeps (ringWrite port ring f s) := by
  simp [ringWrite, h]

@[simp] theorem keeps_execRtailDoorbell (port : Bool) (ring : Nat) (tail : W32) {s : State} (h : Canonical s) :
    Keeps (execRtailDoorbell port ring tail s) := by
  simp [execRtailDoorbell, h]

@[simp] theorem keeps_execRerrClear (port : Bool) (ring : Nat) (val : Word) {s : State} (h : Canonical s) :
    Keeps (execRerrClear port ring val s) := by
  simp [execRerrClear, h]

@[simp] theorem keeps_execHostRegisterWrite (port : Bool) (off : Nat) (val : Word) {s : State} (h : Canonical s) :
    Keeps (execHostRegisterWrite port off val s) := by
  simp [execHostRegisterWrite, h]

@[simp] theorem keeps_execDescriptorSlotWrite (port : Bool) (ring slot : Nat) (desc : BitVec 2048) {s : State} (h : Canonical s) :
    Keeps (execDescriptorSlotWrite port ring slot desc s) := by
  simp [execDescriptorSlotWrite, h]

@[simp] theorem keeps_execWindowWrite (port : Bool) (off : Nat) (data : List Byte) {s : State} (h : Canonical s) :
    Keeps (execWindowWrite port off data s) := by
  simp +contextual [execWindowWrite, h]

@[simp] theorem keeps_execWindowRead (port : Bool) (off len : Nat) {s : State} (h : Canonical s) : Keeps (execWindowRead port off len s) := by
  simp [execWindowRead, h]

/-! ### Package -/

@[simp] theorem keeps_execDeviceReset (img : FwImage) (half dead : List Nat) (s : State) : Keeps (execDeviceReset img half dead s) :=
  (keeps_next _).mpr rfl

@[simp] theorem keeps_execHostLinksTrained (mmode walker : FwImage) {s : State} (h : Canonical s) : Keeps (execHostLinksTrained mmode walker s) := by
  simp [execHostLinksTrained, h]

@[simp] theorem keeps_execDramTrainingDone (die : Nat) (ok : Bool) {s : State} (h : Canonical s) : Keeps (execDramTrainingDone die ok s) := by
  simp [execDramTrainingDone, h]

theorem wfFrom_filter (p : Host.Cell → Bool) : ∀ {m : List Host.Cell} {lo : Nat}, Memory.wfFrom lo m = true → Memory.wfFrom lo (m.filter p) = true
  | [], _, _ => rfl
  | c :: m, lo, h => by
    simp only [Memory.wfFrom, Bool.and_eq_true, decide_eq_true_eq] at h
    obtain ⟨⟨hlo, hb⟩, hm⟩ := h
    rw [List.filter_cons]
    split
    · simp [Memory.wfFrom, hlo, hb, wfFrom_filter p hm]
    · exact wfFrom_memSet.wfFrom_mono 0 0 (wfFrom_filter p hm) (by omega)

@[simp] theorem keeps_execEnterS3 {s : State} (h : Canonical s) : Keeps (execEnterS3 s) := by
  unfold execEnterS3
  split
  · simp [h]
  · exact (keeps_next _).mpr (wfFrom_filter _ h)

@[simp] theorem canonical_thermalStop (die : Nat) {s : State} (h : Canonical s) : Canonical (thermalStop die s) := by simp [thermalStop, h]

@[simp] theorem keeps_execThermalSample (die hot : Nat) (layers : List Nat) {s : State} (h : Canonical s) :
    Keeps (execThermalSample die hot layers s) := by
  simp [execThermalSample, h]

@[simp] theorem keeps_execCoreClockTargetWrite (die mhz : Nat) {s : State} (h : Canonical s) : Keeps (execCoreClockTargetWrite die mhz s) := by
  simp [execCoreClockTargetWrite, h]

@[simp] theorem keeps_execChannelRetirement (twig : Nat) {s : State} (h : Canonical s) : Keeps (execChannelRetirement twig s) := by
  simp [execChannelRetirement, h]

@[simp] theorem keeps_execPowerLoss {s : State} (h : Canonical s) : Keeps (execPowerLoss s) := by simp [execPowerLoss, h]
@[simp] theorem mailRefuse_mem (s : State) : (mailRefuse s).mem = s.mem := (rfl)

@[simp] theorem keeps_execMailboxFirmwareUpdate (place : Mail FwKind) (img : FwImage) {s : State} (h : Canonical s) :
    Keeps (execMailboxFirmwareUpdate place img s) := by
  simp [execMailboxFirmwareUpdate, h]

@[simp] theorem keeps_execRollbackCounterRaise (kind : Mail FwKind) (val : W32) {s : State} (h : Canonical s) :
    Keeps (execRollbackCounterRaise kind val s) := by
  simp [execRollbackCounterRaise, h]

@[simp] theorem keeps_execAttestationRequest (port : Bool) (nonce : BitVec 256) {s : State} (h : Canonical s) :
    Keeps (execAttestationRequest port nonce s) := by
  simp [execAttestationRequest, h]

/-! ### Storage -/

@[simp] theorem canonical_agentNote (io : Nat) (va : Word) (n : Nat) {s : State} (h : Canonical s) : Canonical (agentNote io va n s) :=
  canonical_foldl (fun _ _ h => by split <;> simp [h]) _ h

@[simp] theorem canonical_agentPutAt (io : Nat) (how : Placing) (k : Nat) (bs : List Byte) {s : State} (h : Canonical s) :
    Canonical (agentPutAt io how k bs s) := by
  simp [agentPutAt, h]

@[simp] theorem canonical_agentPut (io : Nat) (va : Word) (bs : List Byte) {s : State} (h : Canonical s) : Canonical (agentPut io va bs s) :=
  canonical_foldl (fun _ _ h => by split <;> simp [h]) _ h

@[simp] theorem canonical_agentStore (io : Nat) (bad : Option (Nat × BitVec 8 × Word)) (va : Word) (bs : List Byte) {s : State} (h : Canonical s) :
    Canonical (agentStore io bad va bs s).2.2 := by
  unfold agentStore
  split <;> simp [h]

@[simp] theorem addPoison_mem (line : Nat) (s : State) : (addPoison line s).mem = s.mem := (rfl)

@[simp] theorem canonical_putRawLines (io : Nat) : ∀ (ls : List (Nat × RawLine)) {s : State}, Canonical s → Canonical (putRawLines io ls s)
  | [], _, h => h
  | (line, some bs) :: ls, _, h => canonical_putRawLines io ls (canonical_agentPutAt io _ _ bs h)
  | (line, none) :: ls, s, h => canonical_putRawLines io ls (by simp [h])

@[simp] theorem canonical_rawIn (io : Nat) (pas : List Nat) (data : List Byte) {s : State} (h : Canonical s) : Canonical (rawIn io pas data s).1 :=
  canonical_putRawLines io _ h

@[simp] theorem canonical_sendPieces (e : Entry) (ps : List Piece) {s : State} (h : Canonical s) : Canonical (sendPieces e ps s) := by
  simp [sendPieces, h]

@[simp] theorem settleEntry_mem (q : Queue) (ord : Nat) (st : BitVec 8) (tval : Word) (s : State) : (settleEntry q ord st tval s).mem = s.mem := (rfl)

@[simp] theorem canonical_flipInject (e : Entry) (va : Word) (n : Nat) {s : State} (h : Canonical s) : Canonical (flipInject e va n s) := by
  unfold flipInject
  split
  · exact h
  · split
    · exact h
    · split
      · exact h
      · exact wf_memSet _ _ h

@[simp] theorem canonical_startStorage (read : Bool) (e : Entry) {s : State} (h : Canonical s) : Canonical (startStorage read e s) := by
  unfold startStorage
  dsimp only
  (repeat' split) <;> simp [h]

@[simp] theorem keeps_startRemote (opc : Nat) (bank : Bool) (seq : Nat) {f : Entry → State → State} (hf : ∀ e s, Canonical s → Canonical (f e s))
    {s : State} (h : Canonical s) : Keeps (startRemote opc bank seq f s) := by
  unfold startRemote
  split
  · simp [h]
  · next e _ =>
    split
    · simp [h]
    · simpa using canonical_throughLoose e (hf e) h

@[simp] theorem keeps_execSrd (bank : Bool) (seq : Nat) {s : State} (h : Canonical s) : Keeps (execSrd bank seq s) := by simp +contextual [execSrd, h]
@[simp] theorem keeps_execSwr (bank : Bool) (seq : Nat) {s : State} (h : Canonical s) : Keeps (execSwr bank seq s) := by simp +contextual [execSwr, h]

@[simp] theorem pieceDone_mem (p : Piece) (st : BitVec 8) (tval : Word) (s : State) : (pieceDone p st tval s).mem = s.mem := by
  unfold pieceDone
  dsimp only
  split <;> simp

@[simp] theorem canonical_mixBytes (p : Piece) (data : List Byte) {s : State} (h : Canonical s) : Canonical (mixBytes p data s) := by
  simp [mixBytes, h]

@[simp] theorem canonical_landPiece (e : Entry) (p : Piece) (data : List Byte) {s : State} (h : Canonical s) :
    Canonical (landPiece e p data s).2.2 := by
  unfold landPiece
  (repeat' split) <;> simp [h]

@[simp] theorem ckptPiece_mem (ok : Bool) (s : State) : (ckptPiece ok s).mem = s.mem := by
  unfold ckptPiece
  split <;> simp

@[simp] theorem canonical_endPiece (p : Piece) (ok : Bool) (st : BitVec 8) (data : List Byte) {s : State} (h : Canonical s) :
    Canonical (endPiece p ok st data s) := by
  unfold endPiece
  dsimp only
  split
  · simp [h]
  · refine canonical_atCore _ (fun s h => ?_) (by simp [h])
    split
    · exact h
    · split
      · simp [h]
      · split
        · simp [h]
        · split <;> simp [h]

@[simp] theorem keeps_execNvmePieceComplete (piece : Nat) (ok : Bool) (data : List Byte) {s : State} (h : Canonical s) :
    Keeps (execNvmePieceComplete piece ok data s) := by
  unfold execNvmePieceComplete
  split <;> simp [h]

@[simp] theorem keeps_execNvmePieceTimeout (piece : Nat) {s : State} (h : Canonical s) : Keeps (execNvmePieceTimeout piece s) := by
  unfold execNvmePieceTimeout
  split <;> simp [h]

@[simp] theorem keeps_execExtentTableFill (asid : Mail Nat) (exts : List Extent) {s : State} (h : Canonical s) :
    Keeps (execExtentTableFill asid exts s) := by
  simp [execExtentTableFill, h]

/-! ### Peers -/

@[simp] theorem modPeer_mem (conn : Nat) (f : Peer → Peer) (s : State) : (modPeer conn f s).mem = s.mem := (rfl)

@[simp] theorem mem_launchPkt (fromCore : Bool) (conn core : Nat) (p : PeerPkt) (s : State) : (launchPkt fromCore conn core p s).mem = s.mem :=
  launchPkt_mem ..

@[simp] theorem mem_sendPackets (fromCore : Bool) (conn core : Nat) (bank : Bool) (seq : Nat) (ps : List PeerPkt) (s : State) :
    (sendPackets fromCore conn core bank seq ps s).mem = s.mem := sendPackets_mem ..

@[simp] theorem awaitPeer_mem (e : Entry) (s : State) : (awaitPeer e s).mem = s.mem := (rfl)

@[simp] theorem startNrd_mem (e : Entry) (s : State) : (startNrd e s).mem = s.mem := by
  unfold startNrd
  dsimp only
  split <;> simp

@[simp] theorem keeps_execNrd (bank : Bool) (seq : Nat) {s : State} (h : Canonical s) : Keeps (execNrd bank seq s) := by simp +contextual [execNrd, h]

@[simp] theorem sendData_mem (e : Entry) (conn : Nat) (runs : List (Word × List Byte)) (s : State) : (sendData e conn runs s).mem = s.mem := by
  unfold sendData
  split
  · rfl
  · dsimp only
    split <;> simp

@[simp] theorem canonical_startNwr (e : Entry) {s : State} (h : Canonical s) : Canonical (startNwr e s) := by
  unfold startNwr
  dsimp only
  (repeat' split) <;> simp [h]

@[simp] theorem keeps_execNwr (bank : Bool) (seq : Nat) {s : State} (h : Canonical s) : Keeps (execNwr bank seq s) := by simp +contextual [execNwr, h]

@[simp] theorem canonical_startCkPeer (v : W32) (e : Entry) {s : State} (h : Canonical s) : Canonical (startCkPeer v e s) := by
  unfold startCkPeer
  dsimp only
  split
  · simp [h]
  · split
    · simp [h]
    · simpa using canonical_foldl (f := fun s r => agentNote (peerNode e.cmd.f.toNat) (strided e.cmd.b e.cmd.c r) e.cmd.c.toNat s)
        (fun _ _ h => canonical_agentNote _ _ _ h) _ h

@[simp] theorem keeps_execCpyk (bank : Bool) (seq : Nat) {s : State} (h : Canonical s) : Keeps (execCpyk bank seq s) := by
  unfold execCpyk
  split
  · simp [h]
  · split
    · simp [h]
    · next v _ =>
      split
      · exact keeps_startRemote _ _ _ (fun e _ h => by simp [h]) h
      · exact keeps_work _ _ _ _ (fun e _ h => canonical_cpykWork v e h) h

@[simp] theorem canonical_endPeerCmd (conn core : Nat) (bank : Bool) (seq : Nat) (st : BitVec 8) {s : State} (h : Canonical s) :
    Canonical (endPeerCmd conn core bank seq st s) := by
  refine canonical_atCore _ (fun s h => ?_) (by simp [h])
  split
  · exact h
  · split <;> simp [h]

@[simp] theorem canonical_endAll (conn : Nat) (st : BitVec 8) {s : State} (h : Canonical s) : Canonical (endAll conn st s) := by
  unfold endAll
  split
  · exact h
  · exact canonical_foldl (fun _ r h => canonical_endPeerCmd _ _ _ _ _ h) _ (canonical_foldl (fun _ u h => canonical_endPeerCmd _ _ _ _ _ h) _ h)

@[simp] theorem closeIfIdle_mem (conn : Nat) (s : State) : (closeIfIdle conn s).mem = s.mem := by
  unfold closeIfIdle
  split
  · rfl
  · dsimp only
    (repeat' split) <;> simp

@[simp] theorem canonical_closeConn (conn : Nat) {s : State} (h : Canonical s) : Canonical (closeConn conn s) := by simp [closeConn, h]

@[simp] theorem keeps_execConnectionClose (conn : Mail Nat) {s : State} (h : Canonical s) : Keeps (execConnectionClose conn s) := by
  unfold execConnectionClose
  (repeat' split) <;> simp [h]

@[simp] theorem keeps_execPeerTableOpen (place : Mail Nat) (o : PeerOpen) {s : State} (h : Canonical s) : Keeps (execPeerTableOpen place o s) := by
  simp [execPeerTableOpen, h]

@[simp] theorem canonical_ackUpTo (conn : Nat) (n : W32) {s : State} (h : Canonical s) : Canonical (ackUpTo conn n s) := by
  unfold ackUpTo
  split
  · exact h
  · dsimp only
    rw [Canonical, closeIfIdle_mem]
    refine canonical_foldl (fun _ u h => ?_) _ (by simp [h])
    split
    · simp [h]
    · split <;> simp [h]

@[simp] theorem keeps_execPeerAck (conn : Nat) (pkt : PeerPkt) {s : State} (h : Canonical s) : Keeps (execPeerAck conn pkt s) := by
  unfold execPeerAck
  split <;> simp [h]

@[simp] theorem canonical_resendAll (conn : Nat) {s : State} (h : Canonical s) : Canonical (resendAll conn s) := by
  unfold resendAll
  split <;> simp [h]

@[simp] theorem canonical_refuseAt (conn : Nat) (n : W32) {s : State} (h : Canonical s) : Canonical (refuseAt conn n s) := by
  unfold refuseAt
  (repeat' split) <;> simp [h]

@[simp] theorem keeps_execPeerNak (conn : Nat) (pkt : PeerPkt) {s : State} (h : Canonical s) : Keeps (execPeerNak conn pkt s) := by
  unfold execPeerNak
  split <;> simp [h]

@[simp] theorem keeps_execPeerRetryTimeout (conn : Nat) {s : State} (h : Canonical s) : Keeps (execPeerRetryTimeout conn s) := by
  unfold execPeerRetryTimeout
  split <;> simp [h]

@[simp] theorem answerPkt_mem (conn : Nat) (p : Peer) (nak refused : Bool) (n : W32) (s : State) : (answerPkt conn p nak refused n s).mem = s.mem :=
  (rfl)

@[simp] theorem keeps_peerInOrder (conn op : Nat) (pkt : PeerPkt) {f : Peer → State → State × Bool} (hf : ∀ p s, Canonical s → Canonical (f p s).1)
    {s : State} (h : Canonical s) : Keeps (peerInOrder conn op pkt f s) := by
  unfold peerInOrder
  split
  · simp [h]
  · simp [h, hf]

@[simp] theorem canonical_takeWrite (pkt : PeerPkt) (p : Peer) {s : State} (h : Canonical s) : Canonical (takeWrite pkt p s).1 := by
  unfold takeWrite
  dsimp only
  (repeat' split) <;> simp +contextual [h]

@[simp] theorem keeps_execPeerWrite (conn : Nat) (pkt : PeerPkt) {s : State} (h : Canonical s) : Keeps (execPeerWrite conn pkt s) := by
  simp +contextual [execPeerWrite, h]

@[simp] theorem canonical_takeReadreq (pkt : PeerPkt) (p : Peer) {s : State} (h : Canonical s) : Canonical (takeReadreq pkt p s).1 := by
  unfold takeReadreq
  split
  · split
    · rw [Canonical, mem_sendPackets]
      exact canonical_foldl (fun _ q h => by simp [h]) _ h
    · exact h
  · exact h

@[simp] theorem keeps_execPeerReadreq (conn : Nat) (pkt : PeerPkt) {s : State} (h : Canonical s) : Keeps (execPeerReadreq conn pkt s) := by
  simp +contextual [execPeerReadreq, h]

@[simp] theorem canonical_landRead (conn : Nat) (r : PeerRead) (bs : List Byte) (last : Bool) {s : State} (h : Canonical s) :
    Canonical (landRead conn r bs last s) := by
  refine canonical_atCore _ (fun s h => ?_) (by simp [h])
  split
  · exact h
  · dsimp only
    split
    · exact h
    · split
      · simp [h]
      · split <;> simp [h]

@[simp] theorem canonical_readBytes (r : PeerRead) (data : List Byte) {s : State} (h : Canonical s) : Canonical (readBytes r data s).2 := by
  unfold readBytes
  split <;> simp [h]

@[simp] theorem canonical_takeReadresp (pkt : PeerPkt) (p : Peer) {s : State} (h : Canonical s) : Canonical (takeReadresp pkt p s).1 := by
  unfold takeReadresp
  split
  · exact h
  · simp [h]

@[simp] theorem keeps_execPeerReadresp (conn : Nat) (pkt : PeerPkt) {s : State} (h : Canonical s) : Keeps (execPeerReadresp conn pkt s) := by
  simp +contextual [execPeerReadresp, h]

@[simp] theorem keeps_execPeerClose (conn : Nat) (pkt : PeerPkt) {s : State} (h : Canonical s) : Keeps (execPeerClose conn pkt s) := by
  simp +contextual [execPeerClose, h]

/-! ### Placement -/

theorem canonical_createGroup {l : Launch} {pt : Part} {a : Alloc} {g : Nat} {s t : State} (h : Canonical s) (ht : createGroup l pt a g s = some t) :
    Canonical t := by
  unfold createGroup at ht
  dsimp only at ht
  split at ht
  · cases ht
  · split at ht
    · cases ht
    · exact Option.some.inj ht ▸ canonical_perform _ _ h

theorem canonical_createGroups {l : Launch} {pt : Part} : ∀ {as : List Alloc} {gs : List Nat} {s t : State}, Canonical s →
    createGroups l pt as gs s = some t → Canonical t
  | [], _, _, _, h, ht => Option.some.inj ht ▸ h
  | a :: as, gs, s, t, h, ht => by
    unfold createGroups at ht
    split at ht
    · split at ht
      · cases ht
      · obtain ⟨u, hu, ht⟩ := Option.bind_eq_some_iff.mp ht
        exact canonical_createGroups (canonical_createGroup h hu) ht
    · exact canonical_createGroups h ht

@[simp] theorem enrol_mem (l : Launch) (s : State) (a : Alloc) : (enrol l s a).mem = s.mem := by simp [enrol]

@[simp] theorem readConst_mem (ks : List Nat) (s : State) : (readConst ks s).2.mem = s.mem := by
  obtain ⟨n, hn⟩ := readConst_keeps ks s
  rw [hn]

theorem loadConst_mem {n : Nat} {b : Bool} {va : Word} {s t : State} (ht : loadConst n b va s = some t) : t.mem = s.mem := by
  obtain ⟨ks, -, rfl⟩ := Option.map_eq_some_iff.mp ht
  simp

theorem bindPlaced_mem {l : Launch} {a : Alloc} {p : Placed} {s t : State} (ht : bindPlaced l a p s = some t) : t.mem = s.mem := by
  unfold bindPlaced at ht
  simpa using loadConst_mem ht

theorem foldlM_mem {β : Type} {f : State → β → Option State} (hf : ∀ {s b t}, f s b = some t → t.mem = s.mem) : ∀ {l : List β} {s t : State},
    l.foldlM f s = some t → t.mem = s.mem
  | [], _, _, ht => Option.some.inj ht ▸ rfl
  | b :: l, s, t, ht => by
    rw [List.foldlM_cons] at ht
    obtain ⟨u, hu, ht⟩ := Option.bind_eq_some_iff.mp ht
    rw [foldlM_mem hf ht, hf hu]

theorem bindAll_mem {l : Launch} {as : List Alloc} {s t : State} (ht : bindAll l as s = some t) : t.mem = s.mem :=
  foldlM_mem (fun ht => foldlM_mem (fun ht => bindPlaced_mem ht) ht) ht

@[simp] theorem emptied_mem (s : State) : (emptied s).mem = s.mem := (rfl)

@[simp] theorem bindCores_mem (l : Launch) (s : State) (a : Alloc) : (bindCores l s a).mem = s.mem := by
  unfold bindCores
  (repeat' split) <;> simp

theorem bindLaunch_mem {l : Launch} {as : List Alloc} {s t : State} (ht : bindLaunch l as s = some t) : t.mem = s.mem := by
  obtain ⟨u, hu, rfl⟩ := Option.map_eq_some_iff.mp ht
  have hcores := foldl_keeps State.mem (bindCores_mem l) as u
  have henrol := foldl_keeps State.mem (enrol_mem l) as s
  exact hcores.trans ((bindAll_mem hu).trans henrol)

@[simp] theorem canonical_place (l : Launch) (pt : Part) (groves groups : List Nat) (ws : List Want) {s : State} (h : Canonical s) :
    Canonical (place l pt groves groups ws s) := by
  have hrefused : Canonical (complete l 0x05 s) := canonical_complete _ _ h
  unfold place
  dsimp only
  split
  · exact hrefused
  · split
    · exact hrefused
    · split
      · exact h
      · split
        · exact hrefused
        · split
          · exact h
          · split
            · exact h
            · next t ht =>
              cases hu : bindLaunch l _ t with
              | none => exact hrefused
              | some u =>
                rw [Option.getD_some, Canonical, bindLaunch_mem hu]
                exact canonical_createGroups h ht

@[simp] theorem keeps_execPlacement (launch : Nat) (groves groups : List Nat) {s : State} (h : Canonical s) :
    Keeps (execPlacement launch groves groups s) := by
  unfold execPlacement
  (repeat' split) <;> simp [h]

@[simp] theorem keeps_execStageStart (launch : Nat) {s : State} (h : Canonical s) : Keeps (execStageStart launch s) := by
  unfold execStageStart
  split <;> simp [h]

/-! ### Slices -/

@[simp] theorem l1Install_mem (f : Fill) (s : State) : (l1Install f s).mem = s.mem := by
  unfold l1Install
  dsimp only
  split <;> simp

@[simp] theorem keeps_execL1Fill {s : State} (h : Canonical s) : Keeps (execL1Fill s) := by
  unfold execL1Fill
  split <;> simp [h]

@[simp] theorem awaitLine_mem (w : WriteBack) (s : State) : (awaitLine w s).mem = s.mem := by simp [awaitLine]

@[simp] theorem canonical_mergeWrite (core : Nat) (w : WriteBack) {s : State} (h : Canonical s) : Canonical (mergeWrite core w s) := by
  simp [mergeWrite, h]

@[simp] theorem keeps_execWritebackMerge {s : State} (h : Canonical s) : Keeps (execWritebackMerge s) := by
  unfold execWritebackMerge
  dsimp only
  split <;> simp [h]

@[simp] theorem fetchHome_mem (slice : Nat) (r : SliceReq) (s : State) : (fetchHome slice r s).mem = s.mem := by simp [fetchHome]

@[simp] theorem keeps_execSliceAccess (slice : Nat) {s : State} (h : Canonical s) : Keeps (execSliceAccess slice s) := by
  unfold execSliceAccess
  dsimp only
  split
  · simp [h]
  · next r v _ =>
    split
    · cases r.who <;> simp [h]
    · split <;> simp [h]

@[simp] theorem keeps_execSliceFill (slice : Nat) {s : State} (h : Canonical s) : Keeps (execSliceFill slice s) := by
  unfold execSliceFill
  dsimp only
  split
  · next t ht =>
    obtain ⟨m, -, hm⟩ := List.exists_of_findSome?_eq_some ht
    split at hm
    · exact (keeps_next _).mpr (canonical_fillMiss h hm)
    · cases hm
  · simp [h]

@[simp] theorem takeFlush_mem (line slice : Nat) (s : State) : (takeFlush line slice s).mem = s.mem := by simp [takeFlush]
@[simp] theorem sendAck_mem (a : Ack) (s : State) : (sendAck a s).mem = s.mem := (rfl)

@[simp] theorem keeps_execFlushRequest {s : State} (h : Canonical s) : Keeps (execFlushRequest s) := by
  unfold execFlushRequest
  (repeat' split) <;> simp [h]

@[simp] theorem keeps_execFlushAck (slice line : Nat) {s : State} (h : Canonical s) : Keeps (execFlushAck slice line s) := by simp [execFlushAck, h]

@[simp] theorem keeps_execReplicaInvalidateAck (line die : Nat) {s : State} (h : Canonical s) : Keeps (execReplicaInvalidateAck line die s) := by
  simp [execReplicaInvalidateAck, h]

@[simp] theorem keeps_execPageModeSwitch (frame : Nat) {s : State} (h : Canonical s) : Keeps (execPageModeSwitch frame s) := by
  simp [execPageModeSwitch, h]

@[simp] theorem installTlb_mem (t : Tlb) (s : State) : (installTlb t s).mem = s.mem := (rfl)
@[simp] theorem wakeWalk_mem (va : Word) (ok : Bool) (s : State) : (wakeWalk va ok s).mem = s.mem := (rfl)

@[simp] theorem handWalker_mem (die : Nat) (s : State) : (handWalker die s).mem = s.mem := by
  unfold handWalker
  dsimp only
  (repeat' split) <;> simp

@[simp] theorem readTables_mem (lines : List Nat) (s : State) : (readTables lines s).mem = s.mem := by simp [readTables]

@[simp] theorem keeps_execPageWalkComplete {s : State} (h : Canonical s) : Keeps (execPageWalkComplete s) := by
  unfold execPageWalkComplete
  dsimp only
  (repeat' split) <;> simp [h]

@[simp] theorem noteBlock_mem (block : Nat) (s : State) : (noteBlock block s).mem = s.mem := (rfl)
@[simp] theorem canonical_retireBlock (e : PoisonEnt) {s : State} (h : Canonical s) : Canonical (retireBlock e s) := by simp [retireBlock, h]

@[simp] theorem canonical_listBlock (block : Nat) {s : State} (h : Canonical s) : Canonical (listBlock block s) := by
  unfold listBlock
  dsimp only
  split <;> simp [h]

@[simp] theorem keeps_execMetadataFetch (a : AsidVa) (ok : Bool) {s : State} (h : Canonical s) : Keeps (execMetadataFetch a ok s) := by
  unfold execMetadataFetch
  split <;> simp [h]

/-! ### Kernel -/

@[simp] theorem canonical_trimSlice {s : State} (slice : Nat) (h : Canonical s) : Canonical (trimSlice s slice) := by simp [trimSlice, h]

@[simp] theorem keeps_execMailboxPartitionCreate (part : Mail Nat) (groves : BitVec 96) (scratch : List (Nat × Nat)) {s : State} (h : Canonical s) :
    Keeps (execMailboxPartitionCreate part groves scratch s) := by
  unfold execMailboxPartitionCreate
  dsimp only
  (repeat' split) <;> simp +contextual [h]

@[simp] theorem newProc_mem (asid root part : Nat) (s : State) : (newProc asid root part s).mem = s.mem := (rfl)

@[simp] theorem keeps_execMailboxRingBind (port : Bool) (ring asid part root : Nat) {s : State} (h : Canonical s) :
    Keeps (execMailboxRingBind port ring asid part root s) := by
  simp [execMailboxRingBind, h]

@[simp] theorem keeps_execMailboxWindowBase (port : Bool) (base : Nat) {s : State} (h : Canonical s) : Keeps (execMailboxWindowBase port base s) := by
  simp [execMailboxWindowBase, h]

@[simp] theorem imageReply_mem (port : Bool) (o : HostOut) (s : State) : (imageReply port o s).mem = s.mem := (rfl)

theorem canonical_placeImage {port : Bool} {asid : Nat} {handle : Word} {img : ImageRec} {writes : KernelWrites} {s t : State} (h : Canonical s)
    (ht : placeImage port asid handle img writes s = some t) : Canonical t := by
  unfold placeImage at ht
  dsimp only at ht
  split at ht
  · cases ht
    simp [h]
  · cases ht

@[simp] theorem keeps_execMailboxImageLoad (place : Mail Nat) (handle : Word) (load : ImageLoad) {s : State} (h : Canonical s) :
    Keeps (execMailboxImageLoad place handle load s) := by
  have hgetD : ∀ o : Option State, (∀ t, o = some t → Canonical t) → Canonical (o.getD s) := fun o ho => by
    cases o with
    | none => exact h
    | some t => exact ho t rfl
  unfold execMailboxImageLoad
  dsimp only
  split
  · simp [h]
  · split
    · split
      · simp [h]
      · exact (keeps_next _).mpr (hgetD _ fun _ ht => canonical_placeImage h ht)
    · split
      · simp [h]
      · split
        · simp [h]
        · refine (keeps_next _).mpr (hgetD _ fun _ ht => ?_)
          obtain ⟨u, hu, rfl⟩ := Option.map_eq_some_iff.mp ht
          simpa using canonical_placeImage h hu

@[simp] theorem withdrawRebind_mem (s0 : State) (l : Launch) (s : State) (p : Placed) : (withdrawRebind s0 l s p).mem = s.mem := by
  simp [withdrawRebind]

@[simp] theorem postRebind_mem (part : Nat) (l : Launch) (s : State) (r : Nat) : (postRebind part l s r).mem = s.mem := by
  unfold postRebind
  dsimp only
  split <;> simp

@[simp] theorem canonical_balanceLaunch (part : Nat) {s : State} (l : Launch) (h : Canonical s) : Canonical (balanceLaunch part s l) := by
  simp [balanceLaunch, h]

@[simp] theorem keeps_execBalancerEvaluation (part : Nat) {s : State} (h : Canonical s) : Keeps (execBalancerEvaluation part s) := by
  simp +contextual [execBalancerEvaluation, h]

@[simp] theorem canonical_killDesc (asid key : Nat) {s : State} (d : BitVec 2048) (h : Canonical s) : Canonical (killDesc asid key s d) := by
  simp [killDesc, h]

@[simp] theorem canonical_killRing (asid : Nat) {s : State} (r : Ring) (h : Canonical s) : Canonical (killRing asid s r) :=
  canonical_foldl (fun _ _ h => by simp [h]) _ h

@[simp] theorem cutBank_mem (launch : Nat) (s : State) (p : Placed) : (cutBank launch s p).mem = s.mem := by simp [cutBank]
@[simp] theorem forgetProcess_mem (asid : Nat) (s : State) : (forgetProcess asid s).mem = s.mem := (rfl)

@[simp] theorem canonical_killLaunch {s : State} (l : Launch) (h : Canonical s) : Canonical (killLaunch s l) := by
  have hcut : Canonical (deleteDoms l.id (deleteGroups l.id (l.placed.foldl (cutBank l.id) s))) := by simp [h]
  unfold killLaunch
  dsimp only
  split
  · exact canonical_endLaunch _ _ hcut
  · exact hcut

@[simp] theorem keeps_execKillProcess (asid : Nat) {s : State} (h : Canonical s) : Keeps (execKillProcess asid s) := by
  unfold execKillProcess
  split
  · simp [h]
  · split
    · simp [h]
    · refine (keeps_next _).mpr (canonical_killEvent _ (canonical_foldl (fun _ q h => canonical_closeConn _ h) _ ?_))
      rw [Canonical, forgetProcess_mem]
      refine canonical_foldl (fun _ l h => canonical_killLaunch l h) _ (canonical_foldl (fun _ l h => canonical_complete _ _ h) _ ?_)
      exact canonical_foldl (fun _ r h => canonical_killRing _ _ h) _ h

@[simp] theorem ckptStop_mem (ask : CkptAsk) (s : State) : (ckptStop ask s).mem = s.mem := (rfl)

@[simp] theorem canonical_ckptFlush (what : Option Nat) {s : State} (h : Canonical s) : Canonical (ckptFlush what s) := by
  refine canonical_foldl (fun s n h => ?_) _ h
  split
  · exact canonical_atCore _ (fun _ h => canonical_writeBackWhere _ h) h
  · exact h

@[simp] theorem canonical_ckptStream (k : Ckpt) {s : State} (h : Canonical s) : Canonical (ckptStream k s) := by simp [ckptStream, h]

@[simp] theorem keeps_execCheckpointRequest (ask : CkptAsk) {s : State} (h : Canonical s) : Keeps (execCheckpointRequest ask s) := by
  unfold execCheckpointRequest
  (repeat' split) <;> simp [h]

@[simp] theorem keeps_execCheckpointRestore (place : CkptAt) (data : List Byte) {s : State} (h : Canonical s) :
    Keeps (execCheckpointRestore place data s) := by
  simp +contextual [execCheckpointRestore, h]

@[simp] theorem keeps_execCheckpointTimeout (launch : Nat) {s : State} (h : Canonical s) : Keeps (execCheckpointTimeout launch s) := by
  unfold execCheckpointTimeout
  split <;> simp [h]

@[simp] theorem keeps_execResumeLaunch (launch : Nat) {s : State} (h : Canonical s) : Keeps (execResumeLaunch launch s) := by
  unfold execResumeLaunch
  split <;> simp [h]

/-! ### Rv64 -/

@[simp] theorem yields_jumpChecked (t : Word) {s : State} (h : Canonical s) {P : State → Prop} (hP : ∀ t, Canonical t → P t) :
    Yields P (jumpChecked t s) := by
  simp [jumpChecked, h, hP]

@[simp] theorem writeFp_mem (p : Prec) (r : RegNo) (v : Nat) (s : State) : (writeFp p r v s).mem = s.mem := (rfl)

@[simp] theorem yields_fpRound (p : Prec) (rd : RegNo) (rm : BitVec 3) (w : W32) (f : RMode → Fv × Flags) {s : State} (h : Canonical s)
    {P : State → Prop} (hP : ∀ t, Canonical t → P t) : Yields P (fpRound p rd rm w f s) := by
  unfold fpRound
  split <;> simp [h, hP]

@[simp] theorem yields_rvStep (i : Rv) {s : State} (h : Canonical s) {P : State → Prop} (hP : ∀ t, Canonical t → P t) : Yields P (rvStep i s) := by
  unfold rvStep
  dsimp only
  (repeat' split) <;> simp +contextual [h, hP]

@[simp] theorem keeps_execRv64Instruction (i : Rv) {s : State} (h : Canonical s) : Keeps (execRv64Instruction i s) := by simp [execRv64Instruction, h]

/-! ### Vmem -/

@[simp] theorem yields_loadCheck {s : State} (w : Nat) (win : Bool) (va : Word) (h : Canonical s) {P : Place → Prop} (hP : ∀ p, P p) :
    Yields P (loadCheck s w win va) := by
  simp [loadCheck, h, hP]

@[simp] theorem yields_loadFull {s : State} (w : Nat) (win : Bool) (va : Word) (h : Canonical s) {P : Place → Prop} (hP : ∀ p, P p) :
    Yields P (loadFull s w win va) := by
  simp [loadFull, h, hP]

theorem yields_loadAll (w : Nat) (h : Hint) : ∀ (l : List Elem) {s : State}, Canonical s → ∀ {P : List (Nat × Nat) × State → Prop},
    (∀ g, Canonical g.2 → P g) → Yields P (loadAll w h l s)
  | [], _, hs, _, hP => hP _ hs
  | (i, va, p) :: l, s, hs, P, hP => by
    rw [loadAll, yields_bind]
    refine yields_loadAt i p va w h hs fun g hg => ?_
    rw [yields_bind]
    exact yields_loadAll w h l hg fun r hr => hP _ hr

theorem yields_checkAll {α : Type} (l : List (α × Word)) {quick full : Word → Res Place} (hquick : ∀ va (Q : Place → Prop), (∀ p, Q p) → Yields Q (quick va))
    (hfull : ∀ va (Q : Place → Prop), (∀ p, Q p) → Yields Q (full va)) {P : List (α × Word × Place) → Prop} (hP : ∀ ps, P ps) :
    Yields P (checkAll l quick full) := by
  have hall : ∀ {f : Word → Res Place}, (∀ va (Q : Place → Prop), (∀ p, Q p) → Yields Q (f va)) → ∀ (Q : List (α × Word × Place) → Prop), (∀ ps, Q ps) →
      Yields Q (l.mapM fun x => do
        let p ← f x.2
        return (x.1, x.2, p)) := fun hf Q hQ =>
    yields_mapM (fun x R hR => by rw [yields_bind]; exact hf x.2 _ fun p => hR _) l hQ
  have hfirst := hall hquick (fun _ => True) fun _ => trivial
  unfold checkAll
  dsimp only
  revert hfirst
  split
  · exact fun _ => hP _
  · next e heq =>
    intro he
    rw [heq] at he
    refine (yields_bind (α := List (α × Word × Place)) _ fun _ => .error e).mpr (hall hfull _ fun _ => ?_)
    cases e <;> exact he

@[simp] theorem yields_vloadStep (w : Nat) (h : Hint) (win z : Bool) (addr : Nat → Word) (vd : RegNo) {s : State} (hs : Canonical s) {P : State → Prop}
    (hP : ∀ t, Canonical t → P t) : Yields P (vloadStep w h win z addr vd s) := by
  unfold vloadStep
  dsimp only
  rw [yields_bind]
  refine yields_checkAll _ (fun va _ hQ => yields_loadCheck w win va hs hQ) (fun va _ hQ => yields_loadFull w win va hs hQ) fun ps => ?_
  rw [yields_bind]
  refine yields_loadGate w h ps hs ?_
  rw [yields_bind]
  exact yields_loadAll w h ps hs fun g hg => hP _ (by simp [hg])

@[simp] theorem keeps_execVld (e : Size) (rs1 : RegNo) (h : Hint) (z : Bool) (vd : RegNo) {s : State} (hs : Canonical s) :
    Keeps (execVld e rs1 h z vd s) := by
  simp [execVld, hs]

@[simp] theorem keeps_execVlds (e : Size) (rs2 rs1 : RegNo) (h : Hint) (z : Bool) (vd : RegNo) {s : State} (hs : Canonical s) :
    Keeps (execVlds e rs2 rs1 h z vd s) := by
  simp [execVlds, hs]

@[simp] theorem keeps_execVldx (e : Size) (vs2 rs1 : RegNo) (z : Bool) (vd : RegNo) {s : State} (h : Canonical s) :
    Keeps (execVldx e vs2 rs1 z vd s) := by
  simp [execVldx, h]

@[simp] theorem yields_vldbStep (w : Nat) (rs1 : RegNo) (h : Hint) (vd : RegNo) {s : State} (hs : Canonical s) {P : State → Prop}
    (hP : ∀ t, Canonical t → P t) : Yields P (vldbStep w rs1 h vd s) := by
  simp +contextual [vldbStep, hs, hP]

@[simp] theorem keeps_execVldb (e : Size) (rs1 : RegNo) (h : Hint) (vd : RegNo) {s : State} (hs : Canonical s) : Keeps (execVldb e rs1 h vd s) := by
  simp [execVldb, hs]

@[simp] theorem yields_storeCheck (s : State) (w : Nat) (va : Word) {P : Unit → Prop} (hP : P ()) : Yields P (storeCheck s w va) := by
  simp [storeCheck, hP]

theorem canonical_storeAll (s : State) (w : Nat) (h : Hint) (win : Bool) : ∀ (l : List (Nat × Word × Nat)) {t : State}, Canonical t →
    Canonical (storeAll s w h win l t)
  | [], _, ht => ht
  | x :: l, t, ht => by
    unfold storeAll
    split
    · exact canonical_storeAll s w h win l ht
    · dsimp only
      split
      · exact canonical_storeAll s w h win l (by simp [ht])
      · exact canonical_storeAll s w h win l (by simp [ht])

@[simp] theorem yields_vstoreStep (w : Nat) (h : Hint) (win : Bool) (pm : PReg) (addr : Nat → Word) (vs3 : RegNo) {s : State} (hs : Canonical s)
    {P : State → Prop} (hP : ∀ t, Canonical t → P t) : Yields P (vstoreStep w h win pm addr vs3 s) := by
  have hall : ∀ (f : Ctx → Ctx) (l : List (Nat × Word × Nat)), P (modCx f (storeAll s w h win l (adv s))) := fun f l =>
    hP _ (by simpa using canonical_storeAll s w h win l (by simp [hs]))
  unfold vstoreStep
  dsimp only
  rw [yields_bind]
  refine yields_forM (fun x Q hQ => yields_storeCheck _ _ _ hQ) _ ?_
  rw [yields_bind]
  refine yields_forM (fun x Q hQ => ?_) _ ?_
  · split
    · exact yields_deviceGate _ _ hQ
    · exact hQ
  · split
    · split
      · exact hall ..
      · exact hP _ (by simp [hs])
    · exact hall ..

@[simp] theorem keeps_execVst (e : Size) (rs1 : RegNo) (h : Hint) (z : Bool) (vs3 : RegNo) {s : State} (hs : Canonical s) :
    Keeps (execVst e rs1 h z vs3 s) := by
  simp [execVst, hs]

@[simp] theorem keeps_execVsts (e : Size) (rs2 rs1 : RegNo) (h : Hint) (z : Bool) (vs3 : RegNo) {s : State} (hs : Canonical s) :
    Keeps (execVsts e rs2 rs1 h z vs3 s) := by
  simp [execVsts, hs]

@[simp] theorem keeps_execVstx (e : Size) (vs2 rs1 : RegNo) (z : Bool) (vs3 : RegNo) {s : State} (h : Canonical s) :
    Keeps (execVstx e vs2 rs1 z vs3 s) := by
  simp [execVstx, h]

@[simp] theorem keeps_execVstm (e : Size) (p : PredNo) (rs1 : RegNo) (h : Hint) (vs3 : RegNo) {s : State} (hs : Canonical s) :
    Keeps (execVstm e p rs1 h vs3 s) := by
  simp [execVstm, hs]

@[simp] theorem yields_laneLocks (s : State) (o : Nat) (ls : List Nat) {P : Unit → Prop} (hP : P ()) : Yields P (laneLocks s o ls) := by
  simp +contextual [laneLocks, hP]

@[simp] theorem yields_vldlStep (e : Size) (rs1 : RegNo) (z : Bool) (vd : RegNo) {s : State} (h : Canonical s) {P : State → Prop}
    (hP : ∀ t, Canonical t → P t) : Yields P (vldlStep e rs1 z vd s) := by
  unfold vldlStep
  dsimp only
  (repeat' split) <;> simp [h, hP]

@[simp] theorem keeps_execVldl (e : Size) (rs1 : RegNo) (z : Bool) (vd : RegNo) {s : State} (h : Canonical s) : Keeps (execVldl e rs1 z vd s) := by
  simp [execVldl, h]

@[simp] theorem canonical_storeLane (m : PReg) (v : VReg) (key l : Nat) {s : State} (h : Canonical s) : Canonical (storeLane m v key l s) := by
  simp +contextual [storeLane, h]

@[simp] theorem yields_vstlStep (e : Size) (rs1 : RegNo) (z : Bool) (vs3 : RegNo) {s : State} (h : Canonical s) {P : State → Prop}
    (hP : ∀ t, Canonical t → P t) : Yields P (vstlStep e rs1 z vs3 s) := by
  unfold vstlStep
  dsimp only
  split
  · simp
  · rw [yields_bind]
    refine yields_laneLocks _ _ _ ?_
    split
    · exact hP _ (by simp [h])
    · exact hP _ (by simp [h])
    · have hall : ∀ m (v : VReg) (key : Nat → Nat) (ls : List Nat), Canonical (ls.foldl (fun t l => storeLane m v (key l) l t) (adv s)) := fun m v key ls =>
        canonical_foldl (fun _ l h => canonical_storeLane m v (key l) l h) ls (by simp [h])
      split
      · exact hP _ (hall ..)
      · exact hP _ (by simpa using hall ..)

@[simp] theorem keeps_execVstl (e : Size) (rs1 : RegNo) (z : Bool) (vs3 : RegNo) {s : State} (h : Canonical s) : Keeps (execVstl e rs1 z vs3 s) := by
  simp [execVstl, h]

@[simp] theorem yields_vamoCheck {s : State} (w : Nat) (va : Word) (h : Canonical s) {P : Place → Prop} (hP : ∀ p, P p) :
    Yields P (vamoCheck s w va) := by
  simp [vamoCheck, h, hP]

@[simp] theorem yields_vamoFull {s : State} (w : Nat) (va : Word) (h : Canonical s) {P : Place → Prop} (hP : ∀ p, P p) :
    Yields P (vamoFull s w va) := by
  simp [vamoFull, h, hP]

theorem yields_vamoAll (op : VamoOp) (w : Nat) : ∀ (l : List (Nat × Word × Place)) {s : State}, Canonical s → ∀ {P : State → Prop},
    (∀ t, Canonical t → P t) → Yields P (vamoAll op w l s)
  | [], _, h, _, hP => hP _ h
  | (o, va, p) :: l, s, h, P, hP => by
    rw [vamoAll, yields_bind]
    exact yields_rmwAt _ _ _ _ h fun r hr => yields_vamoAll op w l hr hP

@[simp] theorem yields_vamoStep (e : Size) (op : VamoOp) (vs2 rs1 vs3 : RegNo) (w32 : Option W32) {s : State} (h : Canonical s) {P : State → Prop}
    (hP : ∀ t, Canonical t → P t) : Yields P (vamoStep e op vs2 rs1 vs3 w32 s) := by
  unfold vamoStep
  dsimp only
  split
  · simp
  · rw [yields_bind]
    refine yields_checkAll _ (fun va _ hQ => yields_vamoCheck _ va h hQ) (fun va _ hQ => yields_vamoFull _ va h hQ) fun ps => ?_
    rw [yields_bind]
    refine yields_remoteGate _ (fun _ _ h => by simp [h]) h ?_
    rw [yields_bind]
    refine yields_forM (fun x Q hQ => yields_inOrder _ h hQ) _ ?_
    rw [yields_bind]
    refine yields_mapM (fun x Q hQ => yields_vamoFull _ _ h hQ) _ fun _ => ?_
    rw [yields_bind]
    exact yields_vamoAll op _ ps h fun t ht => hP _ (by simp [ht])

@[simp] theorem keeps_execVamo (e : Size) (op : VamoOp) (vs2 rs1 vs3 : RegNo) {s : State} (h : Canonical s) :
    Keeps (execVamo e op vs2 rs1 vs3 s) := by
  simp [execVamo, h]

@[simp] theorem keeps_execVpref (_e : Size) (rs1 : RegNo) (h : Hint) {s : State} (hs : Canonical s) : Keeps (execVpref _e rs1 h s) := by
  unfold execVpref
  dsimp only
  split <;> simp [hs]

/-! ### Vint -/

@[simp] theorem writeElems_mem (w : Nat) (vd : RegNo) (pm : PReg) (f : Nat → Nat) (s : State) : (writeElems w vd pm f s).mem = s.mem := (rfl)

@[simp] theorem writeGroups_mem (w : Nat) (pd : PredNo) (pm : PReg) (f : Nat → Bool) (s : State) : (writeGroups w pd pm f s).mem = s.mem := by
  simp [writeGroups]

@[simp] theorem keeps_vmap3 (t : VTy) (f : Nat → Nat → Nat → Nat → Nat) (vs2 vs1 : RegNo) (pg : PredNo) (vd : RegNo) {s : State} (h : Canonical s) :
    Keeps (vmap3 t f vs2 vs1 pg vd s) := by
  simp [vmap3, h]

@[simp] theorem keeps_execVadd (t : VTy) (vs2 vs1 : RegNo) (pg : PredNo) (vd : RegNo) {s : State} (h : Canonical s) :
    Keeps (execVadd t vs2 vs1 pg vd s) := by
  simp [execVadd, h]

@[simp] theorem keeps_execVsub (t : VTy) (vs2 vs1 : RegNo) (pg : PredNo) (vd : RegNo) {s : State} (h : Canonical s) :
    Keeps (execVsub t vs2 vs1 pg vd s) := by
  simp [execVsub, h]

@[simp] theorem keeps_execVmul (t : VTy) (vs2 vs1 : RegNo) (pg : PredNo) (vd : RegNo) {s : State} (h : Canonical s) :
    Keeps (execVmul t vs2 vs1 pg vd s) := by
  simp [execVmul, h]

@[simp] theorem keeps_execVmulh (t : VTy) (vs2 vs1 : RegNo) (pg : PredNo) (vd : RegNo) {s : State} (h : Canonical s) :
    Keeps (execVmulh t vs2 vs1 pg vd s) := by
  simp [execVmulh, h]

@[simp] theorem keeps_execVmulhn (t : VTy) (vs2 vs1 : RegNo) (pg : PredNo) (vd : RegNo) {s : State} (h : Canonical s) :
    Keeps (execVmulhn t vs2 vs1 pg vd s) := by
  simp [execVmulhn, h]

@[simp] theorem keeps_execVmac (t : VTy) (vs2 vs1 : RegNo) (pg : PredNo) (vd : RegNo) {s : State} (h : Canonical s) :
    Keeps (execVmac t vs2 vs1 pg vd s) := by
  simp [execVmac, h]

@[simp] theorem keeps_execVadds (t : VTy) (vs2 vs1 : RegNo) (pg : PredNo) (vd : RegNo) {s : State} (h : Canonical s) :
    Keeps (execVadds t vs2 vs1 pg vd s) := by
  simp [execVadds, h]

@[simp] theorem keeps_execVaddsn (t : VTy) (vs2 vs1 : RegNo) (pg : PredNo) (vd : RegNo) {s : State} (h : Canonical s) :
    Keeps (execVaddsn t vs2 vs1 pg vd s) := by
  simp [execVaddsn, h]

@[simp] theorem keeps_execVsubs (t : VTy) (vs2 vs1 : RegNo) (pg : PredNo) (vd : RegNo) {s : State} (h : Canonical s) :
    Keeps (execVsubs t vs2 vs1 pg vd s) := by
  simp [execVsubs, h]

@[simp] theorem keeps_execVsubsn (t : VTy) (vs2 vs1 : RegNo) (pg : PredNo) (vd : RegNo) {s : State} (h : Canonical s) :
    Keeps (execVsubsn t vs2 vs1 pg vd s) := by
  simp [execVsubsn, h]

@[simp] theorem keeps_execVmin (t : VTy) (vs2 vs1 : RegNo) (pg : PredNo) (vd : RegNo) {s : State} (h : Canonical s) :
    Keeps (execVmin t vs2 vs1 pg vd s) := by
  simp [execVmin, h]

@[simp] theorem keeps_execVminn (t : VTy) (vs2 vs1 : RegNo) (pg : PredNo) (vd : RegNo) {s : State} (h : Canonical s) :
    Keeps (execVminn t vs2 vs1 pg vd s) := by
  simp [execVminn, h]

@[simp] theorem keeps_execVmax (t : VTy) (vs2 vs1 : RegNo) (pg : PredNo) (vd : RegNo) {s : State} (h : Canonical s) :
    Keeps (execVmax t vs2 vs1 pg vd s) := by
  simp [execVmax, h]

@[simp] theorem keeps_execVmaxn (t : VTy) (vs2 vs1 : RegNo) (pg : PredNo) (vd : RegNo) {s : State} (h : Canonical s) :
    Keeps (execVmaxn t vs2 vs1 pg vd s) := by
  simp [execVmaxn, h]

@[simp] theorem keeps_execVand (t : VTy) (vs2 vs1 : RegNo) (pg : PredNo) (vd : RegNo) {s : State} (h : Canonical s) :
    Keeps (execVand t vs2 vs1 pg vd s) := by
  simp [execVand, h]

@[simp] theorem keeps_execVor (t : VTy) (vs2 vs1 : RegNo) (pg : PredNo) (vd : RegNo) {s : State} (h : Canonical s) :
    Keeps (execVor t vs2 vs1 pg vd s) := by
  simp [execVor, h]

@[simp] theorem keeps_execVxor (t : VTy) (vs2 vs1 : RegNo) (pg : PredNo) (vd : RegNo) {s : State} (h : Canonical s) :
    Keeps (execVxor t vs2 vs1 pg vd s) := by
  simp [execVxor, h]

@[simp] theorem keeps_execVsll (t : VTy) (vs2 vs1 : RegNo) (pg : PredNo) (vd : RegNo) {s : State} (h : Canonical s) :
    Keeps (execVsll t vs2 vs1 pg vd s) := by
  simp [execVsll, h]

@[simp] theorem keeps_execVsrl (t : VTy) (vs2 vs1 : RegNo) (pg : PredNo) (vd : RegNo) {s : State} (h : Canonical s) :
    Keeps (execVsrl t vs2 vs1 pg vd s) := by
  simp [execVsrl, h]

@[simp] theorem keeps_execVsra (t : VTy) (vs2 vs1 : RegNo) (pg : PredNo) (vd : RegNo) {s : State} (h : Canonical s) :
    Keeps (execVsra t vs2 vs1 pg vd s) := by
  simp [execVsra, h]

@[simp] theorem keeps_execVrotl (t : VTy) (vs2 vs1 : RegNo) (pg : PredNo) (vd : RegNo) {s : State} (h : Canonical s) :
    Keeps (execVrotl t vs2 vs1 pg vd s) := by
  simp [execVrotl, h]

@[simp] theorem keeps_execVpopc (t : VTy) (vs1 : RegNo) (pg : PredNo) (vd : RegNo) {s : State} (h : Canonical s) :
    Keeps (execVpopc t vs1 pg vd s) := by
  simp [execVpopc, h]

@[simp] theorem keeps_execVclz (t : VTy) (vs1 : RegNo) (pg : PredNo) (vd : RegNo) {s : State} (h : Canonical s) : Keeps (execVclz t vs1 pg vd s) := by
  simp [execVclz, h]

@[simp] theorem keeps_execVcmp (t : VTy) (k : Cond) (vs2 vs1 : RegNo) (pg pd : PredNo) {s : State} (h : Canonical s) :
    Keeps (execVcmp t k vs2 vs1 pg pd s) := by
  simp [execVcmp, h]

@[simp] theorem keeps_execVsel (t : VTy) (vs2 vs1 : RegNo) (pg : PredNo) (vd : RegNo) {s : State} (h : Canonical s) :
    Keeps (execVsel t vs2 vs1 pg vd s) := by
  simp [execVsel, h]

@[simp] theorem reduce_mem (w : Nat) (op : Nat → Nat → Nat × Flags) (vs1 : RegNo) (pg : PredNo) (vd : RegNo) (s : State) :
    (reduce w op vs1 pg vd s).mem = s.mem := by
  unfold reduce
  dsimp only
  split <;> simp

@[simp] theorem writeF3_mem (w : Nat) (vd : RegNo) (pm : PReg) (f : Nat → Nat × Flags) (s : State) : (writeF3 w vd pm f s).mem = s.mem := (rfl)

@[simp] theorem scan_mem (w : Nat) (op : Nat → Nat → Nat × Flags) (vs1 : RegNo) (pg : PredNo) (vd : RegNo) (s : State) :
    (scan w op vs1 pg vd s).mem = s.mem :=
  (rfl)

@[simp] theorem keeps_execVred (t : VTy) (op : RedOp) (vs1 : RegNo) (pg : PredNo) (vd : RegNo) {s : State} (h : Canonical s) :
    Keeps (execVred t op vs1 pg vd s) := by
  simp [execVred, h]

@[simp] theorem keeps_execVscan (t : VTy) (op : RedOp) (vs1 : RegNo) (pg : PredNo) (vd : RegNo) {s : State} (h : Canonical s) :
    Keeps (execVscan t op vs1 pg vd s) := by
  simp [execVscan, h]

@[simp] theorem keeps_execVperm (t : VTy) (vs2 vs1 : RegNo) (pg : PredNo) (vd : RegNo) {s : State} (h : Canonical s) :
    Keeps (execVperm t vs2 vs1 pg vd s) := by
  simp [execVperm, h]

@[simp] theorem keeps_execVslideup (t : VTy) (rs2 vs1 : RegNo) (pg : PredNo) (vd : RegNo) {s : State} (h : Canonical s) :
    Keeps (execVslideup t rs2 vs1 pg vd s) := by
  simp [execVslideup, h]

@[simp] theorem keeps_execVslidedn (t : VTy) (rs2 vs1 : RegNo) (pg : PredNo) (vd : RegNo) {s : State} (h : Canonical s) :
    Keeps (execVslidedn t rs2 vs1 pg vd s) := by
  simp [execVslidedn, h]

@[simp] theorem keeps_execVzip (t : VTy) (vs2 vs1 : RegNo) (pg : PredNo) (vd : RegNo) {s : State} (h : Canonical s) :
    Keeps (execVzip t vs2 vs1 pg vd s) := by
  simp [execVzip, h]

@[simp] theorem keeps_execVunzip (t : VTy) (vs2 vs1 : RegNo) (pg : PredNo) (vd : RegNo) {s : State} (h : Canonical s) :
    Keeps (execVunzip t vs2 vs1 pg vd s) := by
  simp [execVunzip, h]

@[simp] theorem keeps_execVbcast (t : VTy) (rs1 : RegNo) (pg : PredNo) (vd : RegNo) {s : State} (h : Canonical s) :
    Keeps (execVbcast t rs1 pg vd s) := by
  simp [execVbcast, h]

@[simp] theorem keeps_execVid (t : VTy) (pg : PredNo) (vd : RegNo) {s : State} (h : Canonical s) : Keeps (execVid t pg vd s) := by simp [execVid, h]

@[simp] theorem keeps_execVext (t : VTy) (rs2 vs1 : RegNo) (_pg : PredNo) (rd : RegNo) {s : State} (h : Canonical s) :
    Keeps (execVext t rs2 vs1 _pg rd s) := by
  simp [execVext, h]

@[simp] theorem keeps_execVins (t : VTy) (rs2 rs1 : RegNo) (_pg : PredNo) (vd : RegNo) {s : State} (h : Canonical s) :
    Keeps (execVins t rs2 rs1 _pg vd s) := by
  simp [execVins, h]

@[simp] theorem keeps_execPlogic (t : VTy) (op : POp) (pb pa pg pd : PredNo) {s : State} (h : Canonical s) :
    Keeps (execPlogic t op pb pa pg pd s) := by
  simp [execPlogic, h]

@[simp] theorem keeps_execPpopc (t : VTy) (pa pg : PredNo) (rd : RegNo) {s : State} (h : Canonical s) : Keeps (execPpopc t pa pg rd s) := by
  simp [execPpopc, h]

@[simp] theorem keeps_execPfirst (t : VTy) (pa pg : PredNo) (rd : RegNo) {s : State} (h : Canonical s) : Keeps (execPfirst t pa pg rd s) := by
  simp [execPfirst, h]

@[simp] theorem keeps_execPsetn (t : VTy) (rs1 : RegNo) (_pg pd : PredNo) {s : State} (h : Canonical s) : Keeps (execPsetn t rs1 _pg pd s) := by
  simp [execPsetn, h]

/-! ### Vfp -/

@[simp] theorem keeps_withMode (w : Option W32) {s : State} {f : RMode → State} (hf : ∀ a0, Canonical (f a0)) (h : Canonical s) :
    Keeps (withMode w s f) := by
  unfold withMode
  split <;> simp [h, hf]

@[simp] theorem keeps_fmap3 (t : FTy) (f : RMode → Fv → Fv → Fv → Fv × Flags) (vs2 vs1 : RegNo) (pg : PredNo) (vd : RegNo) (w32 : Option W32)
    {s : State} (h : Canonical s) : Keeps (fmap3 t f vs2 vs1 pg vd w32 s) := by
  simp [fmap3, h]

@[simp] theorem keeps_execVfadd (t : FTy) (vs2 vs1 : RegNo) (pg : PredNo) (vd : RegNo) {s : State} (h : Canonical s) :
    Keeps (execVfadd t vs2 vs1 pg vd s) := by
  simp [execVfadd, h]

@[simp] theorem keeps_execVfsub (t : FTy) (vs2 vs1 : RegNo) (pg : PredNo) (vd : RegNo) {s : State} (h : Canonical s) :
    Keeps (execVfsub t vs2 vs1 pg vd s) := by
  simp [execVfsub, h]

@[simp] theorem keeps_execVfmul (t : FTy) (vs2 vs1 : RegNo) (pg : PredNo) (vd : RegNo) {s : State} (h : Canonical s) :
    Keeps (execVfmul t vs2 vs1 pg vd s) := by
  simp [execVfmul, h]

@[simp] theorem keeps_execVfma (t : FTy) (vs2 vs1 : RegNo) (pg : PredNo) (vd : RegNo) {s : State} (h : Canonical s) :
    Keeps (execVfma t vs2 vs1 pg vd s) := by
  simp [execVfma, h]

@[simp] theorem keeps_execVfms (t : FTy) (vs2 vs1 : RegNo) (pg : PredNo) (vd : RegNo) {s : State} (h : Canonical s) :
    Keeps (execVfms t vs2 vs1 pg vd s) := by
  simp [execVfms, h]

@[simp] theorem keeps_execVfnma (t : FTy) (vs2 vs1 : RegNo) (pg : PredNo) (vd : RegNo) {s : State} (h : Canonical s) :
    Keeps (execVfnma t vs2 vs1 pg vd s) := by
  simp [execVfnma, h]

@[simp] theorem keeps_execVfdiv (t : FTy) (vs2 vs1 : RegNo) (pg : PredNo) (vd : RegNo) {s : State} (h : Canonical s) :
    Keeps (execVfdiv t vs2 vs1 pg vd s) := by
  simp [execVfdiv, h]

@[simp] theorem keeps_execVfsqrt (t : FTy) (vs1 : RegNo) (pg : PredNo) (vd : RegNo) {s : State} (h : Canonical s) :
    Keeps (execVfsqrt t vs1 pg vd s) := by
  simp [execVfsqrt, h]

@[simp] theorem keeps_fminmax (isMax : Bool) (t : FTy) (vs2 vs1 : RegNo) (pg : PredNo) (vd : RegNo) {s : State} (h : Canonical s) :
    Keeps (fminmax isMax t vs2 vs1 pg vd s) := by
  simp [fminmax, h]

@[simp] theorem keeps_execVfmin (t : FTy) (vs2 vs1 : RegNo) (pg : PredNo) (vd : RegNo) {s : State} (h : Canonical s) :
    Keeps (execVfmin t vs2 vs1 pg vd s) := by
  simp [execVfmin, h]

@[simp] theorem keeps_execVfmax (t : FTy) (vs2 vs1 : RegNo) (pg : PredNo) (vd : RegNo) {s : State} (h : Canonical s) :
    Keeps (execVfmax t vs2 vs1 pg vd s) := by
  simp [execVfmax, h]

@[simp] theorem keeps_execVfcmp (t : FTy) (k : FCond) (vs2 vs1 : RegNo) (pg pd : PredNo) {s : State} (h : Canonical s) :
    Keeps (execVfcmp t k vs2 vs1 pg pd s) := by
  simp [execVfcmp, h]

@[simp] theorem keeps_execVfsgn (t : FTy) (vs2 vs1 : RegNo) (pg : PredNo) (vd : RegNo) {s : State} (h : Canonical s) :
    Keeps (execVfsgn t vs2 vs1 pg vd s) := by
  simp [execVfsgn, h]

@[simp] theorem keeps_execVfclass (t : FTy) (vs1 : RegNo) (pg : PredNo) (vd : RegNo) {s : State} (h : Canonical s) :
    Keeps (execVfclass t vs1 pg vd s) := by
  simp [execVfclass, h]

@[simp] theorem keeps_execVcmul (t : FTy) (vs2 vs1 : RegNo) (pg : PredNo) (vd : RegNo) {s : State} (h : Canonical s) :
    Keeps (execVcmul t vs2 vs1 pg vd s) := by
  simp [execVcmul, h]

@[simp] theorem keeps_execVfred (t : FTy) (op : FRedOp) (vs1 : RegNo) (pg : PredNo) (vd : RegNo) {s : State} (h : Canonical s) :
    Keeps (execVfred t op vs1 pg vd s) := by
  simp [execVfred, h]

@[simp] theorem keeps_execVfscan (t : FTy) (op : FRedOp) (vs1 : RegNo) (pg : PredNo) (vd : RegNo) {s : State} (h : Canonical s) :
    Keeps (execVfscan t op vs1 pg vd s) := by
  simp [execVfscan, h]

@[simp] theorem convert_mem (ws wd : Nat) (f : Nat → Nat × Flags) (vs1 : RegNo) (pg : PredNo) (vd : RegNo) (s : State) :
    (convert ws wd f vs1 pg vd s).mem = s.mem :=
  (rfl)

@[simp] theorem keeps_execVcvtf (dst : FFmt) (src : IFmt) (sat : Bool) (vs1 : RegNo) (pg : PredNo) (vd : RegNo) {s : State} (h : Canonical s) :
    Keeps (execVcvtf dst src sat vs1 pg vd s) := by
  simp [execVcvtf, h]

@[simp] theorem keeps_execVcvti (dst : IFmt) (src : FFmt) (sat : Bool) (vs1 : RegNo) (pg : PredNo) (vd : RegNo) {s : State} (h : Canonical s) :
    Keeps (execVcvti dst src sat vs1 pg vd s) := by
  simp [execVcvti, h]

@[simp] theorem keeps_execVcvtx (dst src : FFmt) (sat : Bool) (vs1 : RegNo) (pg : PredNo) (vd : RegNo) {s : State} (h : Canonical s) :
    Keeps (execVcvtx dst src sat vs1 pg vd s) := by
  simp [execVcvtx, h]

@[simp] theorem writeLanes_mem (vd : RegNo) (f : Nat → Nat × Flags) (s : State) : (writeLanes vd f s).mem = s.mem := (rfl)

@[simp] theorem keeps_execVdotp (fs3 vs2 vs1 : RegNo) (p : Pair) (vd : RegNo) {s : State} (h : Canonical s) :
    Keeps (execVdotp fs3 vs2 vs1 p vd s) := by
  simp [execVdotp, h]

@[simp] theorem keeps_execVmulp (fs3 vs2 vs1 : RegNo) (p : Pair) (vd : RegNo) {s : State} (h : Canonical s) :
    Keeps (execVmulp fs3 vs2 vs1 p vd s) := by
  simp [execVmulp, h]

@[simp] theorem keeps_execVqnt (fs3 vs1 : RegNo) (p : Pair) (vd : RegNo) {s : State} (h : Canonical s) : Keeps (execVqnt fs3 vs1 p vd s) := by
  simp [execVqnt, h]

@[simp] theorem keeps_execVdqnt (fs3 vs1 : RegNo) (p : Pair) (vd : RegNo) {s : State} (h : Canonical s) : Keeps (execVdqnt fs3 vs1 p vd s) := by
  simp [execVdqnt, h]

/-! ### A step -/

/-- Every instruction and event keeps memory canonical. -/
theorem keeps_exec (i : Instr) {s : State} (h : Canonical s) : Keeps (exec i s) := by
  cases i <;> simp [exec, h]

@[simp] theorem tick_mem (s : State) : (tick s).mem = s.mem := (rfl)

@[simp] theorem idle_mem (s : State) : (idle s).mem = s.mem := by
  unfold idle
  dsimp only
  (repeat' split) <;> simp

theorem fetchWait_mem {s t : State} {w : Wait} (h : fetchWait s = some (w, t)) : t.mem = s.mem := by
  unfold fetchWait at h
  dsimp only at h
  (repeat' split at h) <;> cases h <;> simp

@[simp] theorem issue_mem (s : State) : (issue s).1.mem = s.mem := by
  unfold issue
  split
  · rfl
  · split
    · simp
    · split
      · rfl
      · split
        · rfl
        · split
          · next ht => simp [fetchWait_mem ht]
          · simp

@[simp] theorem pass_mem (t : Turn) (s : State) : (pass t s).mem = s.mem := by
  unfold pass
  dsimp only
  split <;> simp

@[simp] theorem turn_mem (s : State) : (turn s).1.mem = s.mem := by
  unfold turn
  split
  · split <;> simp
  · dsimp only
    split
    · split <;> simp
    · simp

theorem canonical_step {s t : State} (h : Canonical s) (hstep : step s = .next t) : Canonical t := by
  have hturn : Canonical (turn s).1 := by simpa using h
  obtain ⟨-, rfl⟩ | ⟨i, u, -, hexec, rfl⟩ := step_next hstep
  · exact hturn
  · exact travel_keeps (P := Canonical) (fun _ h => h) hturn (keeps_exec i hturn u hexec)

end Sys2Proof.Machine
end

section
/-! PROOF. Every step keeps memory in its canonical form. -/

namespace Sys2Proof.Proofs
open Sys2Proof Sys2Proof.Machine

/-- Settles O60: every function that a move is made of either leaves memory alone or writes it by operations that keep the form. -/
theorem everyStepKeepsMemoryCanonical : Obligations.EveryStepKeepsMemoryCanonical := fun _ _ h hstep => canonical_step h hstep

end Sys2Proof.Proofs
end

section
/-! SUPPORT. Fences, CFLUSH and CINV (R210, R316, R319), and the answer of RLQ (R321). -/

namespace Sys2Proof.Machine

/-! ### Fences -/

/-- What a fence with W before it, beyond CORE, has written back before it waits (R210). -/
def fenced (predW : Bool) (sc : Scope) (s : State) : State := if predW = true ∧ sc ≠ .core then writeBackShared s else s

theorem flushed_fenced (predW : Bool) (sc : Scope) (s : State) : Flushed s (fenced predW sc s) := by
  unfold fenced
  split
  · exact flushed_writeBackWhere ..
  · exact .refl s

theorem fenced_clean {predW : Bool} {sc : Scope} {s : State} (hpred : predW = true) (hsc : sc ≠ .core) {l : L1Line}
    (hl : l ∈ (fenced predW sc s).core.l1) (hcls : l.cls = .shared) : l.dirty = 0 := by
  rw [fenced, if_pos ⟨hpred, hsc⟩] at hl
  exact writeBackShared_clean hl hcls

/-- What stands where no store is out. -/
theorem storesOut_false {s : State} : storesOut s = false ↔ s.core.cx.late = [] ∧ writesOut s s.core.num = false ∧ s.ms.heldW = [] := by
  simp [storesOut, and_assoc]

/-- Writes under way are among what makes a core wait. -/
theorem writesOf_of_writesOut {s : State} {n : Nat} (h : writesOut s n = false) : writesOf s n = [] := by
  refine List.filterMap_eq_nil_iff.mpr fun p hp => ?_
  have hnone := List.any_eq_false.mp h p hp
  split
  · next hbody => simpa [hbody] using hnone
  · rfl

/-- Where no store is out after a fence's write-back, the context has noticed nothing of it. -/
theorem fenced_cx {predW : Bool} {sc : Scope} {s : State} (hout : predW = true → storesOut (fenced predW sc s) = false) :
    (fenced predW sc s).core.cx = s.core.cx := by
  cases predW with
  | false => rw [fenced, if_neg (by simp)]
  | true =>
    have hflushed := flushed_fenced true sc s
    obtain ⟨-, hwrites, -⟩ := storesOut_false.mp (hout rfl)
    exact hflushed.quiet (hflushed.toSentLines.coreNum ▸ writesOf_of_writesOut hwrites)

theorem fenceStep_waits (succR : Bool) {sc : Scope} {s : State} (hout : storesOut (fenced true sc s) = true) :
    fenceStep true succR sc s = .error (.wait .stores (fenced true sc s)) := by
  by_cases hsc : sc = .core
  · simp_all [fenced, fenceStep, drained, bind, Except.bind]
  · simp_all [fenced, fenceStep, eagerRelease_waits, bind, Except.bind]

theorem fenceStep_done {predW : Bool} (succR : Bool) {sc : Scope} {s : State} (hout : predW = true → storesOut (fenced predW sc s) = false) :
    fenceStep predW succR sc s = .ok (adv (if succR then acquireActs sc (fenced predW sc s) else fenced predW sc s)) := by
  cases predW with
  | false => simp [fenced, fenceStep, bind, Except.bind, pure, Except.pure]
  | true =>
    by_cases hsc : sc = .core
    · simp_all [fenced, fenceStep, drained, bind, Except.bind, pure, Except.pure]
    · simp_all [fenced, fenceStep, eagerRelease_done, bind, Except.bind, pure, Except.pure]

/-- What acquire actions leave of a state: everything but L1, of which clean bytes of shared lines go. -/
theorem acquireActs_keeps (sc : Scope) (s : State) : ∃ ls, acquireActs sc s = modCore (fun c => { c with l1 := ls }) s := by
  unfold acquireActs
  split
  · exact ⟨s.core.l1, rfl⟩
  · exact ⟨_, rfl⟩

/-- A line that stays after acquire actions has the dirty bytes and the class of one that stood before. -/
theorem acquireActs_l1 {sc : Scope} {s : State} {l : L1Line} (hl : l ∈ (acquireActs sc s).core.l1) :
    ∃ y ∈ s.core.l1, l.dirty = y.dirty ∧ l.cls = y.cls := by
  unfold acquireActs at hl
  split at hl
  · exact ⟨l, hl, rfl, rfl⟩
  · obtain ⟨y, hy, rfl⟩ := List.mem_map.mp (List.mem_of_mem_filter hl)
    refine ⟨y, hy, ?_⟩
    split <;> exact ⟨rfl, rfl⟩

theorem acquireActs_acquired {sc : Scope} (hsc : sc ≠ .core) (s : State) : Say.Acquired (acquireActs sc s) := by
  rw [acquireActs, if_neg hsc]
  exact acquired_invalidateShared s

/-- What a fence does before it retires. -/
def fenceActs (predW succR : Bool) (sc : Scope) (s : State) : State :=
  if succR then acquireActs sc (fenced predW sc s) else fenced predW sc s

/-- It is the write-back but for L1. -/
theorem fenceActs_keeps (predW succR : Bool) (sc : Scope) (s : State) :
    ∃ ls, fenceActs predW succR sc s = modCore (fun c => { c with l1 := ls }) (fenced predW sc s) := by
  unfold fenceActs
  split
  · exact acquireActs_keeps ..
  · exact ⟨(fenced predW sc s).core.l1, rfl⟩

theorem fenceActs_l1 {predW succR : Bool} {sc : Scope} {s : State} {l : L1Line} (hl : l ∈ (fenceActs predW succR sc s).core.l1) :
    ∃ y ∈ (fenced predW sc s).core.l1, l.dirty = y.dirty ∧ l.cls = y.cls := by
  unfold fenceActs at hl
  split at hl
  · exact acquireActs_l1 hl
  · exact ⟨l, hl, rfl, rfl⟩

/-- An instruction whose meaning is `fenceStep` is a fence. -/
theorem fences_of_fenceStep {i : Instr} {predW succR : Bool} {sc : Scope} {s : State}
    (hexec : exec i s = .next (orTrap (fenceStep predW succR sc s) s)) : Say.Fences i predW succR sc s := by
  refine ⟨fun hpred hout => ?_, fun hout => ?_⟩
  · subst hpred
    rw [hexec, fenceStep_waits succR hout, orTrap]
    rfl
  · refine ⟨adv (fenceActs predW succR sc s), by rw [hexec, fenceStep_done succR hout]; rfl, ?_⟩
    have hcx : (fenced predW sc s).core.cx = s.core.cx := fenced_cx hout
    have hmem : (fenced predW sc s).mem = s.mem := (flushed_fenced predW sc s).toSentLines.mem
    have hnum : (fenced predW sc s).core.num = s.core.num := (flushed_fenced predW sc s).toSentLines.coreNum
    obtain ⟨ls, hls⟩ := fenceActs_keeps predW succR sc s
    refine ⟨by rw [hls]; exact hmem, ?_, fun hpred => ?_, fun hpred hsc l hl hcls => ?_, fun hsucc hsc => ?_⟩
    · rw [hls]
      simp only [adv, modCx, modCore, hcx]
    · obtain ⟨hlate, hwrites, hheld⟩ := (storesOut_false (s := fenced predW sc s)).mp (hout hpred)
      rw [hls]
      exact ⟨by simp [adv, Ctx.retire, hlate], hnum ▸ hwrites, hheld⟩
    · obtain ⟨y, hy, hdirty, hyc⟩ := fenceActs_l1 hl
      exact hdirty.trans (fenced_clean hpred hsc hy (hyc ▸ hcls))
    · rw [fenceActs, if_pos hsucc]
      exact acquireActs_acquired hsc _

theorem exec_fence_some (fm : BitVec 4) {p q : BitVec 4} (hp : p ≠ 0) (hq : q ≠ 0) (rs1 rd : RegNo) (s : State) :
    exec (.fence fm p q rs1 rd) s = .next (orTrap (fenceStep (p.getLsbD 0 || p.getLsbD 2) (q.getLsbD 1 || q.getLsbD 3) .pkg s) s) := by
  rw [exec_fence, execFence, if_neg (not_or.mpr ⟨hp, hq⟩)]

theorem exec_fences_some {p q : BitVec 2} (hp : p ≠ 0) (hq : q ≠ 0) (sc : Scope) (s : State) :
    exec (.fences p q sc) s = .next (orTrap (fenceStep (p.getLsbD 0) (q.getLsbD 1) sc s) s) := by
  rw [exec_fences, execFences, if_neg (not_or.mpr ⟨hp, hq⟩)]

theorem fencesAndDrains : Say.FencesAndDrains := by
  intro fm p q pr su sc imm rs1 rd s
  refine ⟨fun h => ?_, fun hp hq => fences_of_fenceStep (exec_fence_some fm hp hq rs1 rd s), fences_of_fenceStep (exec_fenceTso s rs1 rd),
    fun h => ?_, fun hp hq => fences_of_fenceStep (exec_fences_some hp hq sc s), fun hout i hi => ?_, fun hout => ⟨?_, ?_⟩⟩
  · rw [exec_fence, execFence, if_pos h]
  · rw [exec_fences, execFences, if_pos h]
  · rcases List.mem_pair.mp hi with rfl | rfl
    · simp [exec_fenceI, execFenceI, fenceIStep, drained, hout, orTrap]
    · simp [exec_drains, execDrains, drainsStep, drained, hout, orTrap]
  · simp [exec_fenceI, execFenceI, fenceIStep, drained, hout, orTrap]
  · simp [exec_drains, execDrains, drainsStep, drained, hout, orTrap, Ctx.pend]

/-- What an instruction's end leaves of a context does not depend on the requests that it awaits. -/
theorem bare_adv {s t : State} (h : Say.bare t.core.cx = Say.bare s.core.cx) : Say.bare (adv t).core.cx = Say.bare (adv s).core.cx := by
  have hretired := congrArg (fun x : Ctx => Say.bare { x.retire with pc := x.pc + 4 }) h
  exact hretired

/-! ### CFLUSH and CINV -/

section CacheOp
variable {s : State} {rs1 : RegNo} {p : Place} (drop : Bool)

theorem cacheStep_window (hwindow : inWindow (readX s rs1) = true) : cacheStep drop rs1 s = .ok (adv s) := by
  simp [cacheStep, hwindow]

variable (hwindow : inWindow (readX s rs1) = false)
include hwindow

theorem cacheStep_host (hplace : resolve s (readX s rs1) 1 .read = .ok p) (hhost : p.loc = .host) : cacheStep drop rs1 s = .ok (adv s) := by
  simp [cacheStep, hwindow, hplace, hhost]

theorem cacheStep_locked (hplace : resolve s (readX s rs1) 1 .read = .ok p) (hhost : p.loc ≠ .host)
    (hlock : locked s.core (BitVec.ofNat 64 ((readX s rs1).toNat / 128 * 128)) 128 = true) :
    cacheStep drop rs1 s = .error (.trap 0x20 (readX s rs1)) := by
  simp [cacheStep, hwindow, hplace, hhost, rangeLockCheck, hlock, bind, Except.bind, Except.mapError]

variable (hlock : locked s.core (BitVec.ofNat 64 ((readX s rs1).toNat / 128 * 128)) 128 = false) (hmiss : tlbMiss s (readX s rs1) .read = false)
include hlock hmiss

theorem cacheStep_fails {c : BitVec 8} (hplace : resolve s (readX s rs1) 1 .read = .error c) :
    cacheStep drop rs1 s = .error (.trap c (readX s rs1)) := by
  simp [cacheStep, hwindow, hplace, rangeLockCheck, hlock, resolveT, hmiss, bind, Except.bind, Except.mapError]

variable (hplace : resolve s (readX s rs1) 1 .read = .ok p) (hhost : p.loc ≠ .host)
include hplace hhost

theorem cacheStep_absent (hline : l1Find s.core (lineOf p.key) = none) : cacheStep drop rs1 s = .ok (adv s) := by
  simp [cacheStep, hwindow, hplace, hhost, rangeLockCheck, hlock, resolveT, hmiss, hline, bind, Except.bind, Except.mapError, pure, Except.pure]

/-- A line as CFLUSH and CINV leave it: clean and owed no longer, and after CINV without a valid byte. -/
def leftBy (drop : Bool) (x : L1Line) : L1Line := { x with dirty := 0, owed := none, valid := if drop then 0 else x.valid }

/-- What CFLUSH and CINV do with a line of L1. -/
def sentHome (drop : Bool) (x : L1Line) (s : State) : State :=
  sendBytes x x.dirty (modCore (fun c => { c with l1 := l1Replace (leftBy drop x) c.l1 }) s)

theorem cacheStep_present {x : L1Line} (hline : l1Find s.core (lineOf p.key) = some x) : cacheStep drop rs1 s = .ok (adv (sentHome drop x s)) := by
  simp [cacheStep, hwindow, hplace, hhost, rangeLockCheck, hlock, resolveT, hmiss, hline, bind, Except.bind, Except.mapError, pure, Except.pure,
    sentHome, leftBy]

end CacheOp

/-- What leaves of a line is one write of the core. -/
theorem writesOf_sendBytes (x : L1Line) (mask : BitVec 128) (s : State) :
    writesOf (sendBytes x mask s) s.core.num = if mask = 0 then writesOf s s.core.num
      else writesOf s s.core.num ++ [⟨x.line, x.data, mask, ⟨true, false, x.nt, x.bark⟩, false, x.poison, x.last⟩] := by
  unfold sendBytes
  split
  · rfl
  · exact (List.filterMap_append ..).trans (congrArg _ (by simp))

theorem sentLines_sentHome (drop : Bool) (x : L1Line) (s : State) : SentLines s (sentHome drop x s) :=
  .trans (t := modCore _ s) ⟨rfl, rfl, rfl, rfl, rfl, rfl⟩ (sentLines_sendBytes ..)

/-- Of a line that is sent home nothing dirty and nothing owed stays; of one that is dropped, nothing at all. -/
theorem sentHome_l1 {drop : Bool} {x l : L1Line} {s : State} (hl : l ∈ (sentHome drop x s).core.l1) (hline : l.line = x.line) :
    l.dirty = 0 ∧ l.owed = none ∧ drop = false := by
  rw [sentHome, sendBytes_l1] at hl
  obtain ⟨hmem, hvalid⟩ := List.mem_filter.mp hl
  obtain ⟨y, -, hy⟩ := List.mem_map.mp hmem
  have hleft : l = leftBy drop x := by
    split at hy
    · exact hy.symm
    · next hne => exact absurd (hy ▸ hline) hne
  subst hleft
  cases drop with
  | false => exact ⟨rfl, rfl, rfl⟩
  | true => simp [leftBy] at hvalid

/-- What CFLUSH or CINV makes of a line that L1 holds. -/
theorem sentHome_sends (drop : Bool) {x : L1Line} {line : Nat} {s : State} (hfind : l1Find s.core line = some x) :
    Say.bare (adv (sentHome drop x s)).core.cx = Say.bare (adv s).core.cx ∧ (adv (sentHome drop x s)).mem = s.mem
      ∧ (∀ l ∈ (adv (sentHome drop x s)).core.l1, l.line = line → l.dirty = 0 ∧ l.owed = none ∧ drop = false)
      ∧ writesOf (adv (sentHome drop x s)) s.core.num = if x.dirty = 0 then writesOf s s.core.num
          else writesOf s s.core.num ++ [⟨line, x.data, x.dirty, ⟨true, false, x.nt, x.bark⟩, false, x.poison, x.last⟩] := by
  have hline : x.line = line := beq_iff_eq.mp (List.find?_some (p := fun l : L1Line => l.line == line) hfind)
  have hsent := sentLines_sentHome drop x s
  have hwrites := writesOf_sendBytes x x.dirty (modCore (fun c => { c with l1 := l1Replace (leftBy drop x) c.l1 }) s)
  exact ⟨bare_adv hsent.cx, hsent.mem, fun l hl hl' => sentHome_l1 hl (hl'.trans hline.symm), hline ▸ hwrites⟩

/-! ### RLQ -/

/-- Three flags as the low bits of a number. -/
theorem flags_bits (a b c : Bool) : let v : Word := BitVec.ofNat 64 (a.toNat + 2 * b.toNat + 4 * c.toNat)
    v.getLsbD 0 = a ∧ v.getLsbD 1 = b ∧ v.getLsbD 2 = c ∧ v.toNat < 8 := by
  cases a <;> cases b <;> cases c <;> decide

theorem rlq_answers (rs2 rs1 rd : RegNo) (s : State) :
    ∃ t v, exec (.rlq rs2 rs1 rd) s = .next t ∧ Say.SetsX rd v s t
      ∧ let hit := fun (l : Lock) => touches (lockAddr s.core.num (readX s rs1)) (readX s rs2).toNat l.lo l.hi = true
        (v.getLsbD 0 = true ↔ ∃ l ∈ s.core.locks, hit l ∧ l.dst = false)
        ∧ (v.getLsbD 1 = true ↔ ∃ l ∈ s.core.locks, hit l ∧ l.dst = true)
        ∧ (v.getLsbD 2 = true ↔ ∃ l ∈ s.core.locks, hit l ∧ l.bank ≠ s.core.bank.num)
        ∧ v.toNat < 8 := by
  refine ⟨_, _, rfl, setsX_adv_writeX .., ?_⟩
  obtain ⟨hsrc, hdst, hbank, hlt⟩ := flags_bits
    ((s.core.locks.filter fun l => touches (lockAddr s.core.num (readX s rs1)) (readX s rs2).toNat l.lo l.hi).any fun l => !l.dst)
    ((s.core.locks.filter fun l => touches (lockAddr s.core.num (readX s rs1)) (readX s rs2).toNat l.lo l.hi).any fun l => l.dst)
    ((s.core.locks.filter fun l => touches (lockAddr s.core.num (readX s rs1)) (readX s rs2).toNat l.lo l.hi).any fun l => l.bank != s.core.bank.num)
  refine ⟨?_, ?_, ?_, hlt⟩
  · rw [hsrc]
    simp [List.any_eq_true]
  · rw [hdst]
    simp [List.any_eq_true]
  · rw [hbank]
    simp [List.any_eq_true]

theorem cacheOperationsAndLockQuery : Say.CacheOperationsAndLockQuery := by
  intro sc rs1 rs2 rd s p
  have hexec : ∀ i ∈ [Instr.cflush sc rs1, .cinv sc rs1], ∃ drop, (drop = false → i ≠ .cinv sc rs1)
      ∧ exec i s = .next (orTrap (cacheStep drop rs1 s) s) := fun i hi => by
    rcases List.mem_pair.mp hi with rfl | rfl
    · exact ⟨false, fun _ => Instr.noConfusion, rfl⟩
    · exact ⟨true, Bool.noConfusion, rfl⟩
  refine ⟨fun hw i hi => ?_, fun hw hp hh i hi => ?_, fun hw hp hh hl i hi => ?_, fun hw hl hm c hp i hi => ?_,
    fun hw hp hh hl hm => ⟨fun hline i hi => ?_, fun x hline i hi => ?_⟩, rlq_answers rs2 rs1 rd s⟩ <;> obtain ⟨drop, hdrop, hexec⟩ := hexec i hi
  · rw [hexec, cacheStep_window drop hw, orTrap]
  · rw [hexec, cacheStep_host drop hw hp hh, orTrap]
  · rw [hexec, cacheStep_locked drop hw hp hh hl, orTrap]
  · rw [hexec, cacheStep_fails drop hw hl hm hp, orTrap]
  · rw [hexec, cacheStep_absent drop hw hl hm hp hh hline, orTrap]
  · obtain ⟨hcx, hmem, hclean, hwrites⟩ := sentHome_sends drop hline
    refine ⟨_, by rw [hexec, cacheStep_present drop hw hl hm hp hh hline, orTrap], hcx, hmem, fun l hl hline => ?_, hwrites⟩
    obtain ⟨hdirty, howed, hkept⟩ := hclean l hl hline
    exact ⟨hdirty, howed, hdrop hkept⟩

end Sys2Proof.Machine
end

section
/-! PROOF. The fences and DRAINS, CFLUSH, CINV and RLQ (R210, R316, R318, R319, R321). -/

namespace Sys2Proof.Proofs
open Sys2Proof Sys2Proof.Machine

/-- Settles O17. -/
theorem fencesAndCacheOperations : Obligations.FencesAndCacheOperations := ⟨fencesAndDrains, cacheOperationsAndLockQuery⟩

end Sys2Proof.Proofs
end

section
/-! SUPPORT. Read-modify-writes at a place: the waits before them, what the release and the acquire do, and what the access writes
(R141, R142, R208, R210, R212, R280). -/

namespace Sys2Proof.Machine

/-! ### Reservations (R281) -/

@[simp] theorem setMeta_resv (block v : Nat) (s : State) : (setMeta block v s).resv = s.resv := rfl
@[simp] theorem poisonLines_resv (ls : List Nat) (s : State) : (poisonLines ls s).resv = s.resv := rfl

@[simp] theorem noteCode_resv (line code : Nat) (s : State) : (noteCode line code s).resv = s.resv := by
  unfold noteCode
  split <;> rfl

@[simp] theorem loseSector_resv (block : Nat) (s : State) : (loseSector block s).resv = s.resv :=
  (poisonLines_resv ..).trans (foldl_keeps State.resv (fun _ _ => setMeta_resv ..) _ s)

@[simp] theorem markWritten_resv (line : Nat) (s : State) : (markWritten line s).resv = s.resv := by
  unfold markWritten
  dsimp only
  split
  · simp
  · rfl

@[simp] theorem leaveSlice_resv (x y : Slice) (s : State) : (leaveSlice x y s).resv = s.resv := by
  refine foldl_keeps State.resv (fun s l => ?_) _ s
  have hnote : (if l.bark && l.code = 15 && x.num = homeSlice (l.line * 128) then noteCode l.line 15 s else s).resv = s.resv := by
    split <;> simp
  dsimp only
  generalize (if l.bark && l.code = 15 && x.num = homeSlice (l.line * 128) then noteCode l.line 15 s else s) = t at hnote ⊢
  (repeat' split) <;> simp [hnote]

@[simp] theorem wholeLine_resv (line : Nat) (s : State) : (wholeLine line s).resv = s.resv := by
  unfold wholeLine
  dsimp only
  split <;> simp

@[simp] theorem countFrame_resv (line die : Nat) (write : Bool) (s : State) : (countFrame line die write s).resv = s.resv := by
  unfold countFrame
  split <;> rfl

@[simp] theorem recode_resv (line : Nat) (how : Placing) (fetched : Bool) (s : State) : (recode line how fetched s).resv = s.resv := by
  unfold recode
  dsimp only
  split
  · rfl
  · split
    · rfl
    · exact leaveSlice_resv ..

/-- A write at a line ends every reservation of the line. -/
theorem performNow_resv (how : Placing) (k : Nat) (bs : List Byte) (s : State) : ∀ r ∈ (performNow how k bs s).resv, r.line ≠ lineOf k := by
  have hresv : (performNow how k bs s).resv = (disturb (lineOf k) (fetchNow (lineOf k) how s)).resv := by
    unfold performNow performFrom writeLine
    dsimp only
    generalize fetchNow (lineOf k) how s = u
    (repeat' split) <;> simp [disturb]
  rw [hresv]
  intro r hr
  simpa using (List.mem_filter.mp hr).2

/-! ### What a release does as it performs (R141) -/

/-- What the bookkeeping of a lazy release keeps: everything that an access and its result depend on. -/
structure OwedOnly (s t : State) : Prop where
  mem : t.mem = s.mem
  pkg : t.pkg = s.pkg
  ms : t.ms = s.ms
  poison : t.poison = s.poison
  cx : Say.bare t.core.cx = Say.bare s.core.cx

theorem OwedOnly.refl (s : State) : OwedOnly s s := ⟨rfl, rfl, rfl, rfl, rfl⟩

theorem OwedOnly.trans {s t u : State} (h : OwedOnly s t) (k : OwedOnly t u) : OwedOnly s u :=
  ⟨k.mem.trans h.mem, k.pkg.trans h.pkg, k.ms.trans h.ms, k.poison.trans h.poison, k.cx.trans h.cx⟩

theorem Flushed.owedOnly {s t : State} (h : Flushed s t) : OwedOnly s t :=
  ⟨h.toSentLines.mem, by rw [h.state], h.ms, by rw [h.state], h.cx⟩

theorem owedOnly_oweTo (line : Nat) (s : State) : OwedOnly s (oweTo line s) := by
  have htable : OwedOnly s (if s.core.relTab.contains line then s
      else match s.core.relTab with
        | o :: rest => if s.core.relTab.length < 8 then modCore (fun c => { c with relTab := c.relTab ++ [line] }) s
            else modCore (fun c => { c with relTab := rest ++ [line] }) (writeBackOwed o s)
        | [] => modCore (fun c => { c with relTab := [line] }) s) := by
    split
    · exact .refl s
    · split
      · split
        · exact ⟨rfl, rfl, rfl, rfl, rfl⟩
        · exact (flushed_writeBackWhere ..).owedOnly.trans ⟨rfl, rfl, rfl, rfl, rfl⟩
      · exact ⟨rfl, rfl, rfl, rfl, rfl⟩
  exact htable.trans ⟨rfl, rfl, rfl, rfl, rfl⟩

theorem owedOnly_releaseOwe (sc : Scope) (line : Nat) (s : State) : OwedOnly s (releaseOwe sc line s) := by
  unfold releaseOwe
  split
  · exact owedOnly_oweTo ..
  · exact .refl s

/-- What the record of a release keeps: memory, reservations and the core. -/
structure Recorded (s t : State) : Prop where
  mem : t.mem = s.mem
  resv : t.resv = s.resv
  core : t.core = s.core

theorem Recorded.refl (s : State) : Recorded s s := ⟨rfl, rfl, rfl⟩

theorem Recorded.trans {s t u : State} (h : Recorded s t) (k : Recorded t u) : Recorded s u :=
  ⟨k.mem.trans h.mem, k.resv.trans h.resv, k.core.trans h.core⟩

theorem recorded_foldl {β : Type} {f : State → β → State} (hf : ∀ s x, Recorded s (f s x)) : ∀ (l : List β) (s : State), Recorded s (l.foldl f s)
  | [], s => .refl s
  | x :: l, s => (hf s x).trans (recorded_foldl hf l _)

theorem recorded_startFlush (slice line : Nat) (s : State) : Recorded s (startFlush slice line s) := by
  unfold startFlush
  split
  · exact .refl s
  · split
    · exact .refl s
    · refine Recorded.trans (t := modSlice ..) ⟨rfl, rfl, rfl⟩ (recorded_foldl (fun _ _ => ?_) ..)
      exact ⟨rfl, rfl, rfl⟩

theorem recorded_recordRelease (line core : Nat) (s : State) : Recorded s (recordRelease line core s) := by
  have hmodSlice : ∀ (n : Nat) (f : Slice → Slice) (t : State), Recorded s t → Recorded s (modSlice n f t) := fun _ _ _ h => h.trans ⟨rfl, rfl, rfl⟩
  unfold recordRelease
  split
  · exact .refl s
  · dsimp only
    split
    · exact hmodSlice _ _ _ (.refl s)
    · refine hmodSlice _ _ _ ?_
      split
      · split
        · exact .refl s
        · exact hmodSlice _ _ _ (recorded_startFlush ..)
      · exact .refl s

theorem recorded_releaseDone (sc : Scope) (line : Nat) (s : State) : Recorded s (releaseDone sc line s) := by
  unfold releaseDone
  split
  · exact .refl s
  · exact .refl s
  · exact recorded_recordRelease ..

/-! ### The waits before a read-modify-write (R99, R141, R210) -/

theorem releaseGate_eq (sc : Scope) (line : Nat) (s : State) : releaseGate sc line s
    = if storesOut (Say.released (some sc) line s) then .error (.wait .stores (Say.released (some sc) line s))
      else .ok (Say.released (some sc) line s) := by
  by_cases hsc : sc = .core ∨ lazyAt sc line = true
  · simp only [releaseGate, Say.released, if_pos hsc]
    rw [if_pos (by simpa using hsc)]
    cases hout : storesOut s <;> simp [drained, hout, bind, Except.bind, pure, Except.pure]
  · simp only [releaseGate, Say.released, if_neg hsc]
    rw [if_neg (by simpa using hsc)]
    cases hout : storesOut (writeBackShared s) <;> simp [eagerRelease, drained, hout, bind, Except.bind, pure, Except.pure]

theorem flushed_released (rel : Option Scope) (line : Nat) (s : State) : Flushed s (Say.released rel line s) := by
  unfold Say.released
  split
  · exact .refl s
  · split
    · exact .refl s
    · exact flushed_writeBackWhere ..

section Ready
variable {p : Place} {va : Word} {acq : Bool} {rel : Option Scope} {s : State}

/-- What stands between the way to a place and the access there. -/
def rmwGates (p : Place) (va : Word) (acq : Bool) (s : State) : Res State := do
  if p.loc != .own then remoteGate [(0, va, p)] askHome s
  if acq then acquireGate p s
  inOrder p s
  replicaGate p s
  return s

theorem rmwReady_released (hans : s.core.cx.ans = none) (hout : rel ≠ none → storesOut (Say.released rel (lineOf p.key) s) = false) :
    rmwReady p va acq rel s = rmwGates p va acq (flushOwn p (Say.released rel (lineOf p.key) s)) := by
  cases rel with
  | none => simp [rmwReady, Say.released, rmwGates]
  | some sc =>
    have hdone : releaseGate sc (lineOf p.key) s = .ok (Say.released (some sc) (lineOf p.key) s) := by
      rw [releaseGate_eq, hout (by simp), if_neg (by simp)]
    simp only [rmwReady, hans, hdone]
    rfl

theorem rmwReady_waits (hans : s.core.cx.ans = none) (hrel : rel ≠ none) (hout : storesOut (Say.released rel (lineOf p.key) s) = true) :
    rmwReady p va acq rel s = .error (.wait .stores (Say.released rel (lineOf p.key) s)) := by
  cases rel with
  | none => exact absurd rfl hrel
  | some sc =>
    simp only [rmwReady, hans, releaseGate_eq, hout]
    rfl

theorem rmwReady_answered (hans : s.core.cx.ans ≠ none) : rmwReady p va acq rel s = rmwGates p va acq (flushOwn p s) := by
  obtain ⟨a, ha⟩ := Option.ne_none_iff_exists'.mp hans
  cases rel <;> simp only [rmwReady, ha] <;> rfl

/-- An access off the core is sent to its place first. -/
theorem rmwGates_asks (hans : s.core.cx.ans = none) (hown : p.loc ≠ .own) (hhost : p.loc ≠ .host) :
    rmwGates p va acq s = .error (.wait .remote (askHome p (Say.asking s))) := by
  simp [rmwGates, hown, remoteGate, hans, sendAll, hhost, bind, Except.bind, Say.asking]

/-- An access at the core's own pool, or one whose answer has come, is made once nothing holds it up. -/
theorem rmwGates_passes (hway : p.loc = .own ∨ s.core.cx.ans ≠ none) (hhost : p.loc ≠ .host) (hclear : Say.Clear acq p s) :
    rmwGates p va acq s = .ok s := by
  obtain ⟨hflush, hbehind, hheld, hdev⟩ := hclear
  have hremote : p.loc ≠ .own → remoteGate [(0, va, p)] askHome s = .ok () := fun hown => by
    obtain ⟨a, ha⟩ := Option.ne_none_iff_exists'.mp (hway.resolve_left hown)
    simp [remoteGate, ha, hhost]
  have hacquire : acq = true → acquireGate p s = .ok () := fun h => by simp [acquireGate, hflush h]
  have horder : inOrder p s = .ok () := by
    by_cases hty : p.ty = .device <;> simp_all [inOrder]
  have hreplica : replicaGate p s = .ok () := by simp [replicaGate, hheld]
  by_cases hown : p.loc = .own <;> cases acq <;>
    simp_all [rmwGates, bind, Except.bind, pure, Except.pure]

end Ready

/-! ### The access -/

/-- A write performed at a place, with the core's own copy of the line refreshed. -/
def wroteAt (p : Place) (bs : List Byte) (s : State) : State :=
  let t := performNow (placing p .dflt) p.key bs s
  if p.loc == .dram then refreshL1 p.key bs t else t

theorem wroteAt_writes (p : Place) (bs : List Byte) (s : State) : (wroteAt p bs s).core.cx = s.core.cx
    ∧ Say.Wrote (memWrite s.mem p.key bs) s (wroteAt p bs s) ∧ ∀ r ∈ (wroteAt p bs s).resv, r.line ≠ lineOf p.key := by
  have hwrote := wrote_performNow (placing p .dflt) p.key bs s
  have hsame := (sameCores_performNow (placing p .dflt) p.key bs s).core
  have hresv := performNow_resv (placing p .dflt) p.key bs s
  unfold wroteAt
  dsimp only
  generalize performNow (placing p .dflt) p.key bs s = t at hwrote hsame hresv
  have hrefresh : (refreshL1 p.key bs t).resv = t.resv := by
    unfold refreshL1 patchL1
    split <;> rfl
  obtain ⟨hmem, hcx⟩ := refreshL1_keeps p.key bs t
  split
  · exact ⟨hcx.trans (by rw [hsame]), wrote_congr hwrote rfl rfl rfl hmem, hrefresh ▸ hresv⟩
  · exact ⟨by rw [hsame], hwrote, hresv⟩

theorem rmwAt_done {p : Place} {n : Nat} {s : State} (va : Word) (f : Nat → Nat) (hpoison : poisoned s p.key n = false) :
    rmwAt p va n f s = .ok ⟨memNat s.mem p.key n, wroteAt p (bytesOfNat n (f (memNat s.mem p.key n))) s⟩ := by
  rw [rmwAt, hpoison, if_neg Bool.false_ne_true]
  rfl

/-- The state in which a read-modify-write is made, its dirty lines owed where it releases lazily. -/
def owing (rel : Option Scope) (line : Nat) (s : State) : State :=
  match rel with
  | some sc => releaseOwe sc line s
  | none => s

/-- The state after it: the release recorded, the acquire's actions taken. -/
def settled (acq rel : Option Scope) (line : Nat) (s : State) : State :=
  let t := match rel with
    | some sc => releaseDone sc line s
    | none => s
  match acq with
  | some sc => acquireActs sc t
  | none => t

theorem owedOnly_owing (rel : Option Scope) (line : Nat) (s : State) : OwedOnly s (owing rel line s) := by
  cases rel with
  | none => exact .refl s
  | some sc => exact owedOnly_releaseOwe ..

theorem settled_keeps (acq rel : Option Scope) (line : Nat) (s : State) : (settled acq rel line s).mem = s.mem
    ∧ (settled acq rel line s).resv = s.resv ∧ (settled acq rel line s).core.cx = s.core.cx
    ∧ ∀ sc, acq = some sc → sc ≠ .core → Say.Acquired (settled acq rel line s) := by
  have hrecorded : Recorded s (match rel with
      | some sc => releaseDone sc line s
      | none => s) := by
    cases rel with
    | none => exact .refl s
    | some sc => exact recorded_releaseDone ..
  unfold settled
  dsimp only
  generalize (match rel with
      | some sc => releaseDone sc line s
      | none => s) = t at hrecorded ⊢
  cases acq with
  | none => exact ⟨hrecorded.mem, hrecorded.resv, by rw [hrecorded.core], fun sc h => by cases h⟩
  | some sc =>
    obtain ⟨ls, hls⟩ := acquireActs_keeps sc t
    dsimp only
    refine ⟨?_, ?_, ?_, fun sc' h hsc => Option.some.inj h ▸ acquireActs_acquired (Option.some.inj h ▸ hsc) t⟩
    · rw [hls]
      exact hrecorded.mem
    · rw [hls]
      exact hrecorded.resv
    · rw [hls, ← hrecorded.core]
      rfl

theorem readyRmw_eq (p : Place) (va : Word) (n : Nat) (f : Nat → Nat) (acq rel : Option Scope) (s : State) : readyRmw p va n f acq rel s
    = (rmwAt p va n f (owing rel (lineOf p.key) s)).map fun o => ⟨o.old, settled acq rel (lineOf p.key) o.st⟩ := by
  have hmap : ∀ (r : Res Old) (g : State → State), (do let o ← r; return (⟨o.old, g o.st⟩ : Old)) = r.map fun o => ⟨o.old, g o.st⟩ := fun r _ => by
    cases r <;> rfl
  refine Eq.trans ?_ (hmap (rmwAt p va n f (owing rel (lineOf p.key) s)) (settled acq rel (lineOf p.key)))
  cases rel <;> cases acq <;> rfl

/-- A read-modify-write at its place has read the old value and written the new one. -/
structure Swapped (p : Place) (n : Nat) (f : Nat → Nat) (acq : Option Scope) (s t : State) : Prop where
  cx : Say.bare t.core.cx = Say.bare s.core.cx
  wrote : Say.Wrote (memWrite s.mem p.key (bytesOfNat n (f (memNat s.mem p.key n)))) s t
  resv : ∀ r ∈ t.resv, r.line ≠ lineOf p.key
  acquired : ∀ sc, acq = some sc → sc ≠ .core → Say.Acquired t

theorem readyRmw_swaps {p : Place} {n : Nat} {s : State} (va : Word) (f : Nat → Nat) (acq rel : Option Scope) (hpoison : poisoned s p.key n = false) :
    ∃ t, readyRmw p va n f acq rel s = .ok ⟨memNat s.mem p.key n, t⟩ ∧ Swapped p n f acq s t := by
  have howed := owedOnly_owing rel (lineOf p.key) s
  have hpoison' : poisoned (owing rel (lineOf p.key) s) p.key n = false := by
    unfold poisoned at hpoison ⊢
    rwa [howed.poison]
  have hexec := readyRmw_eq p va n f acq rel s
  rw [rmwAt_done va f hpoison'] at hexec
  rw [howed.mem] at hexec
  obtain ⟨hcx, hwrote, hresv⟩ := wroteAt_writes p (bytesOfNat n (f (memNat s.mem p.key n))) (owing rel (lineOf p.key) s)
  obtain ⟨hmem, hresv', hcx', hacquired⟩ := settled_keeps acq rel (lineOf p.key)
    (wroteAt p (bytesOfNat n (f (memNat s.mem p.key n))) (owing rel (lineOf p.key) s))
  rw [howed.mem] at hwrote
  exact ⟨_, hexec, (congrArg Say.bare (hcx'.trans hcx)).trans howed.cx,
    wrote_congr hwrote howed.pkg.symm (by rw [howed.ms]) howed.mem.symm hmem, hresv' ▸ hresv, hacquired⟩

/-! ### AMO and AMOX as read-modify-writes -/

/-- A read-modify-write of which rd takes the old value, sign-extended. -/
def swapStep (va : Word) (n : Nat) (f : Nat → Nat) (acq rel : Option Scope) (rd : RegNo) (s : State) : Res State := do
  if misaligned va n then throw (.trap 6 va)
  rangeLockCheck s va n
  let p ← resolveT s va n .amo
  let r ← orderedRmw p va n f acq rel s
  return adv (writeX rd (sextN r.old (8 * n)) r.st)

theorem swapStep_misaligned {va : Word} {n : Nat} (f : Nat → Nat) (acq rel : Option Scope) (rd : RegNo) {s : State} (h : va.toNat % n ≠ 0) :
    swapStep va n f acq rel rd s = .error (.trap 6 va) := by
  simp [swapStep, misaligned, h, bind, Except.bind, throw, throwThe, MonadExceptOf.throw]

theorem swapStep_locked {va : Word} {n : Nat} (f : Nat → Nat) (acq rel : Option Scope) (rd : RegNo) {s : State} (h : va.toNat % n = 0)
    (hlock : locked s.core va n = true) : swapStep va n f acq rel rd s = .error (.trap 0x20 va) := by
  simp [swapStep, misaligned, h, rangeLockCheck, hlock, bind, Except.bind]

section Swap
variable {p : Place} {va : Word} {n : Nat} {s : State} (f : Nat → Nat) (acq rel : Option Scope) (rd : RegNo)
  (halign : va.toNat % n = 0) (hlock : locked s.core va n = false) (hmiss : tlbMiss s va .amo = false) (hplace : resolve s va n .amo = .ok p)
include halign hlock hmiss hplace

theorem swapStep_placed : swapStep va n f acq rel rd s
    = (rmwReady p va acq.isSome rel s).bind fun t => (readyRmw p va n f acq rel t).map fun r => adv (writeX rd (sextN r.old (8 * n)) r.st) := by
  have hmap : ∀ r : Res State, (r >>= fun t => (do
      let r ← readyRmw p va n f acq rel t
      return adv (writeX rd (sextN r.old (8 * n)) r.st)))
      = r.bind fun t => (readyRmw p va n f acq rel t).map fun r => adv (writeX rd (sextN r.old (8 * n)) r.st) := fun r => by
    refine congrArg r.bind (funext fun t => ?_)
    cases readyRmw p va n f acq rel t <;> rfl
  rw [← hmap]
  simp [swapStep, misaligned, halign, rangeLockCheck, hlock, resolveT, hmiss, hplace, orderedRmw]
  rfl

variable (hhost : p.loc ≠ .host)
include hhost

/-- Where nothing holds the access up, it is made in one step. -/
theorem swapStep_swaps {x : State} (hready : rmwReady p va acq.isSome rel s = rmwGates p va acq.isSome x) (hflushed : Flushed s x)
    (hway : p.loc = .own ∨ x.core.cx.ans ≠ none) (hpoison : poisoned s p.key n = false) (hclear : Say.Clear acq.isSome p x) :
    ∃ t, swapStep va n f acq rel rd s = .ok (adv (writeX rd ((BitVec.ofNat (8 * n) (memNat s.mem p.key n)).signExtend 64) t))
      ∧ Swapped p n f acq s t := by
  obtain ⟨t, hexec, hcx, hwrote, hresv, hacquired⟩ := readyRmw_swaps va f acq rel ((hflushed.poisoned p.key n).trans hpoison)
  rw [hflushed.toSentLines.mem] at hexec hwrote
  refine ⟨t, ?_, hcx.trans hflushed.cx, wrote_congr hwrote (by rw [hflushed.state]) (by rw [hflushed.ms]) hflushed.toSentLines.mem.symm rfl, hresv, hacquired⟩
  rw [swapStep_placed f acq rel rd halign hlock hmiss hplace, hready, rmwGates_passes hway hhost hclear]
  simp only [Except.bind, hexec]
  rfl

end Swap

/-- A retired write of an x register leaves memory, reservations and L1 as they are, and of the context what it makes of one that is the same but
for the requests that it awaits. -/
theorem swapped_retires {p : Place} {n : Nat} {f : Nat → Nat} {acq : Option Scope} {s t : State} (h : Swapped p n f acq s t) (rd : RegNo) (v : Word) :
    Say.bare (adv (writeX rd v t)).core.cx = Say.bare (adv (writeX rd v s)).core.cx
      ∧ Say.Wrote (memWrite s.mem p.key (bytesOfNat n (f (memNat s.mem p.key n)))) s (adv (writeX rd v t))
      ∧ (∀ r ∈ (adv (writeX rd v t)).resv, r.line ≠ lineOf p.key)
      ∧ ∀ sc, acq = some sc → sc ≠ .core → Say.Acquired (adv (writeX rd v t)) := by
  obtain ⟨hcx, hwrote, hresv, hacquired⟩ := h
  refine ⟨?_, wrote_congr hwrote rfl rfl rfl ?_, ?_, fun sc h hsc => ?_⟩
  · rw [adv_writeX_cx, adv_writeX_cx, bare_retireX, hcx, ← bare_retireX]
  · rw [writeX_frame]
    rfl
  · rw [writeX_frame]
    exact hresv
  · rw [writeX_frame]
    exact hacquired sc h hsc

/-- What `swapStep` does is what the statement says of a read-modify-write. -/
theorem swaps_of_swapStep {i : Instr} {va : Word} {n : Nat} {f g : Nat → Nat} {acq rel : Option Scope} {rd : RegNo} {s : State}
    (hexec : exec i s = .next (orTrap (swapStep va n f acq rel rd s) s)) (hfg : ∀ m, m < 256 ^ n → f m = g m) :
    Say.Swaps i s va n acq rel g rd := by
  intro p halign hlock hmiss hplace hhost
  have hdone : ∀ x, rmwReady p va acq.isSome rel s = rmwGates p va acq.isSome x → Flushed s x → (p.loc = .own ∨ x.core.cx.ans ≠ none) →
      poisoned s p.key n = false → Say.Clear acq.isSome p x → ∃ u, exec i s = .next u
        ∧ Say.bare u.core.cx = Say.bare (adv (writeX rd ((BitVec.ofNat (8 * n) (memNat s.mem p.key n)).signExtend 64) s)).core.cx
        ∧ Say.Wrote (memWrite s.mem p.key (bytesOfNat n (g (memNat s.mem p.key n)))) s u ∧ (∀ r ∈ u.resv, r.line ≠ lineOf p.key)
        ∧ (∀ sc, acq = some sc → sc ≠ .core → Say.Acquired u) := fun x hready hflushed hway hpoison hclear => by
    obtain ⟨t, ht, hswapped⟩ := swapStep_swaps f acq rel rd halign hlock hmiss hplace hhost hready hflushed hway hpoison hclear
    rw [← hfg _ (memNat_lt ..)]
    exact ⟨_, by rw [hexec, ht, orTrap], swapped_retires hswapped ..⟩
  have hstep := swapStep_placed f acq rel rd halign hlock hmiss hplace
  have hreleased := flushed_released rel (lineOf p.key) s
  refine ⟨fun hans hrel hout => ?_, fun hans hout => ⟨fun hown => ?_, fun hown hpoison hclear => ?_⟩, fun hans hpoison hclear => ?_⟩
  · rw [hexec, hstep, rmwReady_waits hans hrel hout]
    rfl
  · have hflushed := hreleased.trans (flushed_flushOwn p _)
    have hans' : (flushOwn p (Say.released rel (lineOf p.key) s)).core.cx.ans = none :=
      (hflushed.toSentLines.cx_part (part := Ctx.ans) fun _ => rfl).trans hans
    rw [hexec, hstep, rmwReady_released hans hout, rmwGates_asks hans' hown hhost]
    rfl
  · have hflushOwn : flushOwn p (Say.released rel (lineOf p.key) s) = Say.released rel (lineOf p.key) s := by simp [flushOwn, hown]
    exact hdone _ ((rmwReady_released hans hout).trans (by rw [hflushOwn])) hreleased (.inl hown) hpoison hclear
  · have hflushed := flushed_flushOwn p s
    exact hdone _ (rmwReady_answered hans) hflushed
      (.inr fun h => hans ((hflushed.toSentLines.cx_part (part := Ctx.ans) fun _ => rfl).symm.trans h)) hpoison hclear

/-! ### The values of AMO and AMOX (R280, R334) -/

theorem ite_smaller {α β : Type} [LinearOrder α] (a b : α) (x y : β) : (if b < a then y else x) = if a ≤ b then x else y := by
  by_cases h : a ≤ b
  · rw [if_pos h, if_neg (not_lt.mpr h)]
  · rw [if_neg h, if_pos (not_le.mp h)]

theorem ite_larger {α β : Type} [LinearOrder α] {a b : α} {x y : β} (heq : a = b → x = y) : (if a < b then y else x) = if a ≤ b then y else x := by
  rcases lt_trichotomy a b with h | h | h
  · rw [if_pos h, if_pos h.le]
  · rw [if_neg h.not_lt, if_pos h.le, heq h]
  · rw [if_neg h.not_gt, if_neg (not_le.mpr h)]

theorem toNat_smaller {α : Type} [LinearOrder α] {w : Nat} (a b : α) (x y : BitVec w) :
    (if b < a then y.toNat else x.toNat) = (if a ≤ b then x else y).toNat :=
  (ite_smaller a b x.toNat y.toNat).trans (apply_ite BitVec.toNat ..).symm

theorem toNat_larger {α : Type} [LinearOrder α] {w : Nat} {a b : α} {x y : BitVec w} (heq : a = b → x = y) :
    (if a < b then y.toNat else x.toNat) = (if a ≤ b then y else x).toNat :=
  (ite_larger fun h => congrArg BitVec.toNat (heq h)).trans (apply_ite BitVec.toNat ..).symm

/-- The standard operations as the statement gives them. -/
theorem amoVal_eq (op : AmoOp) (n : Nat) {m : Nat} (hm : m < 256 ^ n) (o : Word) : amoVal op (8 * n) m (o.toNat % 256 ^ n)
    = (Say.amoOf op (BitVec.ofNat (8 * n) m) (o.setWidth (8 * n))).toNat := by
  have hpow : 256 ^ n = 2 ^ (8 * n) := by rw [Nat.pow_mul]
  rw [hpow] at hm ⊢
  have hm' : (BitVec.ofNat (8 * n) m).toNat = m := by rw [BitVec.toNat_ofNat, Nat.mod_eq_of_lt hm]
  have ho : (o.setWidth (8 * n)).toNat = o.toNat % 2 ^ (8 * n) := BitVec.toNat_setWidth ..
  have ho' : BitVec.ofNat (8 * n) (o.toNat % 2 ^ (8 * n)) = o.setWidth (8 * n) := BitVec.eq_of_toNat_eq (by simp)
  unfold amoVal Say.amoOf
  dsimp only [sintN]
  rw [ho']
  generalize hx : BitVec.ofNat (8 * n) m = x at hm' ⊢
  generalize o.setWidth (8 * n) = y at ho ⊢
  rw [← ho, ← hm']
  cases op <;> simp only [BitVec.toNat_add, BitVec.toNat_xor, BitVec.toNat_and, BitVec.toNat_or, BitVec.sle_iff_toInt_le, BitVec.le_def]
  · exact toNat_smaller ..
  · exact toNat_larger BitVec.toInt_inj.mp
  · exact toNat_smaller ..
  · exact toNat_larger BitVec.toNat_inj.mp

/-- The AMOX operations as the statement gives them. -/
theorem amoxVal_eq (op : AmoxOp) {m o : Nat} (hm : m < 256 ^ amoxSize op) (ho : o < 256 ^ amoxSize op) (cmp : Nat) :
    amoxVal op m o cmp = Say.amoxOf op m o cmp := by
  have h32 : ∀ {v}, v < 256 ^ 4 → (BitVec.ofNat 32 v).toNat = v := fun h => Nat.mod_eq_of_lt h
  have h64 : ∀ {v}, v < 256 ^ 8 → (BitVec.ofNat 64 v).toNat = v := fun h => Nat.mod_eq_of_lt h
  cases op
  case addI32 | addI64 => simp [amoxVal, Say.amoxOf, amoxSize]
  case addF32 | addBf16x2 | swap32 | swap64 | cas64 | fminF32 | fmaxF32 => rfl
  case minI32 | minI64 =>
    simp only [amoxVal, Say.amoxOf, amoxSize, sintN, BitVec.sle_iff_toInt_le]
    exact ite_smaller ..
  case maxI32 =>
    simp only [amoxVal, Say.amoxOf, amoxSize, sintN, BitVec.sle_iff_toInt_le]
    exact ite_larger fun h => by rw [← h32 hm, ← h32 ho, BitVec.toInt_inj.mp h]
  case maxI64 =>
    simp only [amoxVal, Say.amoxOf, amoxSize, sintN, BitVec.sle_iff_toInt_le]
    exact ite_larger fun h => by rw [← h64 hm, ← h64 ho, BitVec.toInt_inj.mp h]
  case and64 | or64 | xor64 => simp only [amoxVal, Say.amoxOf, BitVec.toNat_and, BitVec.toNat_or, BitVec.toNat_xor, h64 hm, h64 ho]

theorem amoxBytes_eq (op : AmoxOp) : Say.amoxBytes op = amoxSize op := by cases op <;> rfl

end Sys2Proof.Machine
end

section
/-! PROOF. AMO and AMOX (R142, R280, R287, R334). -/

namespace Sys2Proof.Proofs
open Sys2Proof Sys2Proof.Machine

/-- Settles O13: both are one read-modify-write with the waits before it, whose values are those of the statement on what memory holds. -/
theorem atomicReadModifyWrites : Obligations.AtomicReadModifyWrites := by
  intro op ox dbl aq rl sc rd rs1 rs2 s n a amo amox
  have hamo : exec amo s = .next (orTrap (swapStep a n (fun m => amoVal op (8 * n) m ((readX s rs2).toNat % 256 ^ n)) (bitScope aq) (bitScope rl) rd s) s) := rfl
  have hamox : exec amox s = .next (orTrap (swapStep a (amoxSize ox)
    (fun m => amoxVal ox m ((readX s rs2).toNat % 256 ^ amoxSize ox) (readX s rd).toNat) (some sc) (some sc) rd s) s) := rfl
  rw [amoxBytes_eq]
  refine ⟨swaps_of_swapStep hamo fun m hm => amoVal_eq op n hm _,
    swaps_of_swapStep hamox fun m hm => amoxVal_eq ox hm (Nat.mod_lt _ (Nat.pow_pos (by decide))) _, fun h => ?_, fun h => ?_, fun h hlock => ?_, fun h hlock => ?_⟩
  · rw [hamo, swapStep_misaligned _ _ _ _ h, orTrap]
  · rw [hamox, swapStep_misaligned _ _ _ _ h, orTrap]
  · rw [hamo, swapStep_locked _ _ _ _ h hlock, orTrap]
  · rw [hamox, swapStep_locked _ _ _ _ h hlock, orTrap]

end Sys2Proof.Proofs
end

section
/-! SUPPORT. Scalar loads: what keeps one from its place, what it sends, and the bytes that it reads (R99, R140, R145, R247, R282). -/

namespace Sys2Proof.Machine

/-! ### The destination (R282) -/

theorem loadBytes_eq (k : LoadKind) : Say.loadBytes k = loadSize k := by cases k <;> rfl

/-- The value that a load's kind makes of its bytes. -/
theorem loadWrite_eq (k : LoadKind) (rd : RegNo) {v : Nat} (hv : v < 256 ^ loadSize k) (s : State) : loadWrite k rd v s = Say.loaded k rd v s := by
  have hzero : ∀ {w : Nat}, v < 2 ^ w → BitVec.ofNat 64 v = (BitVec.ofNat w v).zeroExtend 64 := fun h =>
    BitVec.eq_of_toNat_eq (by simp [Nat.mod_eq_of_lt h])
  cases k
  case lb | lh | lw | ld | fld => rfl
  case lbu | lhu | lwu => exact congrArg (writeX rd · s) (hzero hv)
  case flw =>
    refine congrArg (writeF rd · s) ?_
    rw [hzero (w := 32) hv, BitVec.append_def]
    rfl

/-- A load writes its context alone, and makes of it what the context was. -/
theorem loaded_keeps (k : LoadKind) (rd : RegNo) (v : Nat) {s t : State} (hcx : t.core.cx = s.core.cx) :
    (adv (Say.loaded k rd v t)).mem = t.mem ∧ (adv (Say.loaded k rd v t)).core.bank = t.core.bank
      ∧ (adv (Say.loaded k rd v t)).core.cx = (adv (Say.loaded k rd v s)).core.cx := by
  have hX : ∀ w : Word, (adv (writeX rd w t)).mem = t.mem ∧ (adv (writeX rd w t)).core.bank = t.core.bank
      ∧ (adv (writeX rd w t)).core.cx = (adv (writeX rd w s)).core.cx := fun w =>
    ⟨by simp, by simp, by rw [adv_writeX_cx, adv_writeX_cx, hcx]⟩
  have hF : ∀ w : Word, (adv (writeF rd w t)).mem = t.mem ∧ (adv (writeF rd w t)).core.bank = t.core.bank
      ∧ (adv (writeF rd w t)).core.cx = (adv (writeF rd w s)).core.cx := fun w =>
    ⟨rfl, rfl, by simp only [adv, writeF, modCx, hcx]⟩
  cases k
  case flw | fld => exact hF _
  case lb | lbu | lh | lhu | lw | lwu | ld => exact hX _

/-! ### What comes before the place (R135, R144) -/

section Access
variable {p : Place} {va : Word} {n : Nat} {s : State}

theorem rangeLockCheck_locked (h : locked s.core va n = true) : rangeLockCheck s va n = .error (.trap 0x20 va) := by
  rw [rangeLockCheck, if_pos h]

theorem rangeLockCheck_free (h : locked s.core va n = false) : rangeLockCheck s va n = .ok () := by
  rw [rangeLockCheck, h, if_neg Bool.false_ne_true]

theorem resolveT_waits {acc : Acc} (hmiss : tlbMiss s va acc = true) (hans : s.core.cx.ans = none) :
    resolveT s va n acc = .error (.wait (.walk va) (enterWalk va s)) := by
  simp [resolveT, hmiss, hans]

theorem resolveT_fails {acc : Acc} {c : BitVec 8} (hready : tlbMiss s va acc = false ∨ s.core.cx.ans ≠ none)
    (hplace : resolve s va n acc = .error c) : resolveT s va n acc = .error (.trap c va) := by
  rcases hready with hmiss | hans
  · simp [resolveT, hmiss, hplace]
  · simp [resolveT, hans, hplace]

theorem resolveT_leads {acc : Acc} (hmiss : tlbMiss s va acc = false) (hplace : resolve s va n acc = .ok p) : resolveT s va n acc = .ok p := by
  simp [resolveT, hmiss, hplace]

/-! ### The requests of a load (R99, R140) -/

theorem inOrder_passes (hbehind : (bankOfKey p.key).isSome = true → behind s (lineOf p.key) = false) (hdev : p.ty = .device → devBusy s = false)
    (hhost : p.loc = .host → hostBusy s = false) : inOrder p s = .ok () := by
  rw [inOrder, if_neg]
  simp only [Bool.or_eq_true, Bool.and_eq_true, beq_iff_eq]
  rintro ((⟨hbank, hb⟩ | ⟨hty, hb⟩) | ⟨hloc, hb⟩)
  · exact absurd hb (by simp [hbehind hbank])
  · exact absurd hb (by simp [hdev hty])
  · exact absurd hb (by simp [hhost hloc])

theorem loadGate_stays (h : Hint) (hstays : leaves s p n = false) : loadGate n h [(0, va, p)] s = .ok () := by
  simp [loadGate, hstays]

theorem sendAll_load (h : Hint) : sendAll [(0, va, p)] (fun p t => askLoad true p h t) s
    = .error (.wait (if p.loc = .host then .host else .remote) (askLoad true p h (Say.asking s))) := by
  by_cases hloc : p.loc = .host <;> simp [sendAll, hloc, Say.asking]

theorem loadGate_holds (h : Hint) (hleaves : leaves s p n = true) (hans : s.core.cx.ans = none) (horder : inOrder p s = .error (.wait .stores s)) :
    loadGate n h [(0, va, p)] s = .error (.wait .stores s) := by
  simp [loadGate, hleaves, hans, horder, bind, Except.bind]

theorem loadGate_sends (h : Hint) (hleaves : leaves s p n = true) (hans : s.core.cx.ans = none) (horder : inOrder p s = .ok ()) :
    loadGate n h [(0, va, p)] s = .error (.wait (if p.loc = .host then .host else .remote) (askLoad true p h (Say.asking s))) := by
  simp [loadGate, hleaves, hans, horder, bind, Except.bind, pure, Except.pure, sendAll_load]

/-- A line of DRAM that has not come is asked for again. -/
theorem loadGate_asksAgain (h : Hint) (hleaves : leaves s p n = true) (hans : s.core.cx.ans ≠ none) (hloc : p.loc = .dram)
    (hgot : gotLine s (lineOf p.key) = none) : loadGate n h [(0, va, p)] s = .error (.wait .remote (askLoad true p h (Say.asking s))) := by
  simp [loadGate, hleaves, hans, hloc, hgot, sendAll_load]

theorem loadGate_answered (h : Hint) (hans : s.core.cx.ans ≠ none) (hgot : p.loc = .dram → gotLine s (lineOf p.key) ≠ none) :
    loadGate n h [(0, va, p)] s = .ok () := by
  by_cases hloc : p.loc = .dram
  · cases hleaves : leaves s p n <;> simp [loadGate, hleaves, hans, hloc, hgot hloc]
  · cases hleaves : leaves s p n <;> simp [loadGate, hleaves, hans, hloc]

/-! ### The bytes that a load reads (R137, R140, R151) -/

/-- A byte of a line. -/
theorem vbyte_eq (v : VReg) (b : Nat) : vbyte v b = Say.byteOf v b := by
  rw [vbyte, elemAt_eq, BitVec.ofNat_toNat, BitVec.setWidth_eq]
  rfl

/-- The bytes of an access that crosses no line stand one after the other in it. -/
theorem offset_oneLine {k i : Nat} (hfit : k % 128 + n ≤ 128) (hi : i < n) : (k + i) % 128 = k % 128 + i := by omega

theorem map_oneLine {k : Nat} {f g : Nat → Byte} (hfit : k % 128 + n ≤ 128) (h : ∀ i, i < n → f (k % 128 + i) = g i) :
    (List.range n).map (fun i => f ((k + i) % 128)) = (List.range n).map g :=
  List.map_congr_left fun i hi => by
    have hi := List.mem_range.mp hi
    rw [offset_oneLine hfit hi, h i hi]

/-- A load whose bytes all stand in L1 is made there. -/
theorem loadAt_hit (i : Nat) (hloc : p.loc = .dram) (hty : p.ty = .cached) (hhit : l1Hit s p.key n = true)
    (hpoison : l1Poison s p.key = false) : loadAt i p va n .dflt s = .ok ⟨l1Bytes s p.key n, l1Touch (lineOf p.key) s⟩ := by
  simp [loadAt, hloc, hty, hhit, hpoison]

theorem l1Bytes_seen (hloc : p.loc = .dram) (hhit : l1Hit s p.key n = true) (hfit : p.key % 128 + n ≤ 128) :
    l1Bytes s p.key n = Say.seen s p n := by
  unfold l1Hit at hhit
  unfold l1Bytes Say.seen
  rw [hloc]
  cases hfind : l1Find s.core (lineOf p.key) with
  | none => simp [hfind] at hhit
  | some x => exact map_oneLine hfit fun i _ => vbyte_eq ..

/-- Not in L1: the load is made at its place. -/
theorem loadAt_far {h : Hint} (i : Nat) (hmiss : ¬(p.loc = .dram ∧ p.ty = .cached ∧ l1Hit s p.key n = true))
    (hhost : p.loc = .host → hostErr s i = false) (hpoison : poisoned s p.key n = false)
    (hpoison' : p.loc = .dram → p.ty = .cached → l1Poison s p.key = false) :
    loadAt i p va n h s = match p.loc, gotLine s (lineOf p.key) with
      | .dram, some d => .ok ⟨if p.ty == .cached then underDirty s p.key n fun j => vbyte d ((p.key + j) % 128)
          else (List.range n).map fun j => vbyte d ((p.key + j) % 128), s⟩
      | _, _ => (inOrder p s).map fun _ => ⟨memRead s.mem p.key n, s⟩ := by
  have hbits : (p.loc == .dram && p.ty == .cached && l1Hit s p.key n) = false :=
    Bool.eq_false_iff.mpr fun h => hmiss (by simpa [and_assoc] using h)
  have hhost' : (p.loc == .host && hostErr s i) = false := by
    by_cases hloc : p.loc = .host <;> simp [hloc, hhost]
  have hpoison'' : (poisoned s p.key n || (p.loc == .dram && p.ty == .cached && l1Poison s p.key)) = false := by
    by_cases hloc : p.loc = .dram <;> by_cases hty : p.ty = .cached <;> simp_all
  simp only [loadAt, hbits, hhost', hpoison'']
  cases hloc : p.loc <;> cases hgot : gotLine s (lineOf p.key) <;> cases inOrder p s <;> rfl

/-- At a place that no slice holds, or that of a line that has not come, what stands there is read. -/
theorem loadAt_place {h : Hint} {i : Nat} (hmiss : ¬(p.loc = .dram ∧ p.ty = .cached ∧ l1Hit s p.key n = true))
    (hhost : p.loc = .host → hostErr s i = false) (hpoison : poisoned s p.key n = false)
    (hpoison' : p.loc = .dram → p.ty = .cached → l1Poison s p.key = false) (hfar : p.loc ≠ .dram ∨ gotLine s (lineOf p.key) = none)
    (horder : inOrder p s = .ok ()) : loadAt i p va n h s = .ok ⟨memRead s.mem p.key n, s⟩ := by
  rw [loadAt_far i hmiss hhost hpoison hpoison', horder]
  split
  · next hloc hgot => simp [hloc, hgot] at hfar
  · rfl

theorem sent_cached {d : BitVec 1024} (hty : p.ty = .cached) (hfit : p.key % 128 + n ≤ 128) :
    underDirty s p.key n (fun j => vbyte d ((p.key + j) % 128)) = Say.sent s p n d := by
  unfold underDirty Say.sent
  rw [hty]
  cases hfind : l1Find s.core (lineOf p.key) with
  | none => exact map_oneLine hfit fun i _ => vbyte_eq ..
  | some x =>
    refine map_oneLine (f := fun j => if x.dirty.getLsbD j then vbyte x.data j else vbyte d j) hfit fun i _ => ?_
    dsimp only
    split <;> exact vbyte_eq ..

theorem sent_uncached {d : BitVec 1024} (hty : p.ty ≠ .cached) (hfit : p.key % 128 + n ≤ 128) :
    (List.range n).map (fun j => vbyte d ((p.key + j) % 128)) = Say.sent s p n d := by
  unfold Say.sent
  refine map_oneLine hfit fun i _ => ?_
  cases hp : p.ty <;> simp_all [vbyte_eq]

/-- The line that a slice has sent is read under the core's own dirty bytes. -/
theorem loadAt_sent {h : Hint} {d : BitVec 1024} (i : Nat) (hmiss : ¬(p.loc = .dram ∧ p.ty = .cached ∧ l1Hit s p.key n = true))
    (hpoison : poisoned s p.key n = false) (hpoison' : p.loc = .dram → p.ty = .cached → l1Poison s p.key = false) (hloc : p.loc = .dram)
    (hgot : gotLine s (lineOf p.key) = some d) (hfit : p.key % 128 + n ≤ 128) : loadAt i p va n h s = .ok ⟨Say.sent s p n d, s⟩ := by
  rw [loadAt_far i hmiss (by simp [hloc]) hpoison hpoison', hloc, hgot]
  dsimp only
  by_cases hty : p.ty = .cached
  · rw [if_pos (beq_iff_eq.mpr hty), sent_cached hty hfit]
  · rw [if_neg (mt beq_iff_eq.mp hty), sent_uncached hty hfit]

@[simp] theorem length_seen (s : State) (p : Place) (n : Nat) : (Say.seen s p n).length = n := by
  unfold Say.seen
  split <;> simp

theorem seen_pool (hloc : p.loc ≠ .dram) : Say.seen s p n = memRead s.mem p.key n := by
  unfold Say.seen
  split
  · contradiction
  · rfl

theorem own_of_stays (hstays : leaves s p n = false) (hmiss : ¬(p.loc = .dram ∧ p.ty = .cached ∧ l1Hit s p.key n = true)) : p.loc = .own := by
  cases hloc : p.loc <;> simp_all [leaves]

theorem miss_of_leaves (hleaves : leaves s p n = true) : ¬(p.loc = .dram ∧ p.ty = .cached ∧ l1Hit s p.key n = true) := by
  rintro ⟨hloc, hty, hhit⟩
  simp [leaves, hloc, hty, hhit] at hleaves

theorem leaves_host (hloc : p.loc = .host) : leaves s p n = true := by
  rw [leaves, hloc]

end Access

section Load
variable (k : LoadKind) (rd rs1 : RegNo) (imm : BitVec 12) (s : State)

theorem exec_load_crosses (hcross : ¬(scalarAddr s rs1 imm).toNat % 128 + loadSize k ≤ 128) :
    exec (.load k rd rs1 imm) s = .next (takeTrap 4 (scalarAddr s rs1 imm) s) := by
  have hcross' : crossesLine (scalarAddr s rs1 imm) (loadSize k) = true := decide_eq_true (Nat.lt_of_not_le hcross)
  simp [exec_load, execLoad, loadStep, hcross', bind, Except.bind, throw, throwThe, MonadExceptOf.throw, orTrap]

variable {k rs1 imm s} (hfit : (scalarAddr s rs1 imm).toNat % 128 + loadSize k ≤ 128)
include hfit

theorem loadStep_fits : loadStep k rd rs1 imm s
    = (memLoad (scalarAddr s rs1 imm) (loadSize k) .dflt s).map fun g => adv (loadWrite k rd (natOfBytes g.bytes) g.st) := by
  have hfit' : crossesLine (scalarAddr s rs1 imm) (loadSize k) = false := decide_eq_false (Nat.not_lt_of_le hfit)
  have hmap : ∀ r : Res Got, (do let g ← r; return adv (loadWrite k rd (natOfBytes g.bytes) g.st))
      = r.map fun g => adv (loadWrite k rd (natOfBytes g.bytes) g.st) := fun r => by cases r <;> rfl
  simp only [loadStep, hfit']
  exact hmap _

/-- What holds a load up, or makes it trap, does so to its instruction. -/
theorem exec_load_waits {w : Wait} {t : State} (h : memLoad (scalarAddr s rs1 imm) (loadSize k) .dflt s = .error (.wait w t)) :
    exec (.load k rd rs1 imm) s = .next (waitFor w t) := by
  rw [exec_load, execLoad, loadStep_fits rd hfit, h]
  rfl

theorem exec_load_traps {c : BitVec 8} {tval : Word} (h : memLoad (scalarAddr s rs1 imm) (loadSize k) .dflt s = .error (.trap c tval)) :
    exec (.load k rd rs1 imm) s = .next (takeTrap c tval s) := by
  rw [exec_load, execLoad, loadStep_fits rd hfit, h]
  rfl

/-- A load that has its bytes writes its destination. -/
theorem exec_load_loads {g : Got} (h : memLoad (scalarAddr s rs1 imm) (loadSize k) .dflt s = .ok g) (hlen : g.bytes.length = loadSize k)
    (hmem : g.st.mem = s.mem) (hbank : g.st.core.bank = s.core.bank) (hcx : g.st.core.cx = s.core.cx) :
    ∃ u, exec (.load k rd rs1 imm) s = .next u ∧ u.mem = s.mem ∧ u.core.bank = s.core.bank
      ∧ u.core.cx = (adv (Say.loaded k rd (natOfBytes g.bytes) s)).core.cx := by
  obtain ⟨hmem', hbank', hcx'⟩ := loaded_keeps k rd (natOfBytes g.bytes) hcx
  refine ⟨adv (Say.loaded k rd (natOfBytes g.bytes) g.st), ?_, hmem'.trans hmem, hbank'.trans hbank, hcx'⟩
  rw [exec_load, execLoad, loadStep_fits rd hfit, h, ← loadWrite_eq k rd (hlen ▸ natOfBytes_lt g.bytes)]
  rfl

end Load

section Way
variable {p : Place} {va : Word} {n : Nat} {s : State}

theorem memLoad_locked (hlock : locked s.core va n = true) (h : Hint) : memLoad va n h s = .error (.trap 0x20 va) := by
  rw [memLoad, rangeLockCheck_locked hlock]
  rfl

theorem memLoad_lost {e : Brk} (hlock : locked s.core va n = false) (hway : resolveT s va n .read = .error e) (h : Hint) :
    memLoad va n h s = .error e := by
  rw [memLoad, rangeLockCheck_free hlock, hway]
  rfl

variable (hlock : locked s.core va n = false) (hmiss : tlbMiss s va .read = false) (hplace : resolve s va n .read = .ok p)
include hlock hmiss hplace

theorem memLoad_held {h : Hint} {e : Brk} (hgate : loadGate n h [(0, va, p)] s = .error e) : memLoad va n h s = .error e := by
  rw [memLoad, rangeLockCheck_free hlock, resolveT_leads hmiss hplace]
  simp only [bind, Except.bind, hgate]

theorem memLoad_passes {h : Hint} (hgate : loadGate n h [(0, va, p)] s = .ok ()) : memLoad va n h s = loadAt 0 p va n h s := by
  rw [memLoad, rangeLockCheck_free hlock, resolveT_leads hmiss hplace]
  simp only [bind, Except.bind, hgate]

end Way

theorem inOrder_of_open {s : State} {va : Word} {n : Nat} {acc : Acc} {p : Place} (h : Say.Open s va n acc p) : inOrder p s = .ok () := by
  obtain ⟨-, -, hhost, -, -, hbehind, hdev, -⟩ := h
  exact inOrder_passes (fun _ => hbehind) hdev fun hloc => absurd hloc hhost

theorem l1Touch_keeps (line : Nat) (s : State) : (l1Touch line s).mem = s.mem ∧ (l1Touch line s).core.bank = s.core.bank
    ∧ (l1Touch line s).core.cx = s.core.cx := by
  unfold l1Touch
  split <;> exact ⟨rfl, rfl, rfl⟩

/-- A scalar load gives its destination these bytes, and changes nothing else of memory, bank and context. -/
def Loads (k : LoadKind) (rd rs1 : RegNo) (imm : BitVec 12) (s : State) (bs : List Byte) : Prop :=
  ∃ u, exec (.load k rd rs1 imm) s = .next u ∧ u.mem = s.mem ∧ u.core.bank = s.core.bank
    ∧ u.core.cx = (adv (Say.loaded k rd (natOfBytes bs) s)).core.cx

section ScalarLoad
variable {k : LoadKind} (rd : RegNo) {rs1 : RegNo} {imm : BitVec 12} {s : State} {p : Place}

theorem loads_of_memLoad {bs : List Byte} (hfit : (scalarAddr s rs1 imm).toNat % 128 + loadSize k ≤ 128) (hlen : bs.length = loadSize k)
    (h : memLoad (scalarAddr s rs1 imm) (loadSize k) .dflt s = .ok ⟨bs, s⟩) : Loads k rd rs1 imm s bs :=
  exec_load_loads (g := ⟨bs, s⟩) rd hfit h hlen rfl rfl rfl

variable (hplace : resolve s (scalarAddr s rs1 imm) (loadSize k) .read = .ok p)
include hplace

theorem loads_here (hopen : Say.Open s (scalarAddr s rs1 imm) (loadSize k) .read p) (hstays : leaves s p (loadSize k) = false) :
    Loads k rd rs1 imm s (Say.seen s p (loadSize k)) := by
  obtain ⟨hlock, hmiss, hhost, hpoison, hl1, -, -, hline, hfit⟩ := id hopen
  have hpasses := memLoad_passes hlock hmiss hplace (loadGate_stays .dflt hstays)
  by_cases hhit : p.loc = .dram ∧ p.ty = .cached ∧ l1Hit s p.key (loadSize k) = true
  · obtain ⟨hloc, hty, hhit⟩ := hhit
    rw [loadAt_hit 0 hloc hty hhit (hl1 hloc hty), l1Bytes_seen hloc hhit hline] at hpasses
    obtain ⟨hmem, hbank, hcx⟩ := l1Touch_keeps (lineOf p.key) s
    exact exec_load_loads (g := ⟨_, l1Touch (lineOf p.key) s⟩) rd hfit hpasses (length_seen ..) hmem hbank hcx
  · have hown := own_of_stays hstays hhit
    rw [loadAt_place hhit (fun h => absurd h hhost) hpoison hl1 (.inl (by simp [hown])) (inOrder_of_open hopen), ← seen_pool (by simp [hown])] at hpasses
    exact loads_of_memLoad rd hfit (length_seen ..) hpasses

/-- On its first pass a load off the core asks for its bytes. -/
theorem load_asks (hopen : Say.Open s (scalarAddr s rs1 imm) (loadSize k) .read p) (hleaves : leaves s p (loadSize k) = true)
    (hwait : s.core.cx.ans = none ∨ p.loc = .dram ∧ gotLine s (lineOf p.key) = none) :
    exec (.load k rd rs1 imm) s = .next (waitFor .remote (askLoad true p .dflt (Say.asking s))) := by
  obtain ⟨hlock, hmiss, hhost, -, -, -, -, -, hfit⟩ := id hopen
  refine exec_load_waits rd hfit (memLoad_held hlock hmiss hplace ?_)
  by_cases hans : s.core.cx.ans = none
  · rw [loadGate_sends .dflt hleaves hans (inOrder_of_open hopen), if_neg hhost]
  · obtain ⟨hloc, hgot⟩ := hwait.resolve_left hans
    exact loadGate_asksAgain .dflt hleaves hans hloc hgot

theorem loads_sent (hopen : Say.Open s (scalarAddr s rs1 imm) (loadSize k) .read p) (hleaves : leaves s p (loadSize k) = true)
    (hans : s.core.cx.ans ≠ none) (hloc : p.loc = .dram) {d : BitVec 1024} (hgot : gotLine s (lineOf p.key) = some d) :
    Loads k rd rs1 imm s (Say.sent s p (loadSize k) d) := by
  obtain ⟨hlock, hmiss, -, hpoison, hl1, -, -, hline, hfit⟩ := id hopen
  have hpasses := memLoad_passes hlock hmiss hplace (loadGate_answered .dflt hans fun _ => by simp [hgot])
  rw [loadAt_sent 0 (miss_of_leaves hleaves) hpoison hl1 hloc hgot hline] at hpasses
  exact loads_of_memLoad rd hfit (by simp [Say.sent]) hpasses

theorem loads_far (hopen : Say.Open s (scalarAddr s rs1 imm) (loadSize k) .read p) (hleaves : leaves s p (loadSize k) = true)
    (hans : s.core.cx.ans ≠ none) (hloc : p.loc ≠ .dram) : Loads k rd rs1 imm s (memRead s.mem p.key (loadSize k)) := by
  obtain ⟨hlock, hmiss, hhost, hpoison, hl1, -, -, -, hfit⟩ := id hopen
  have hpasses := memLoad_passes hlock hmiss hplace (loadGate_answered .dflt hans fun h => absurd h hloc)
  rw [loadAt_place (miss_of_leaves hleaves) (fun h => absurd h hhost) hpoison hl1 (.inl hloc) (inOrder_of_open hopen)] at hpasses
  exact loads_of_memLoad rd hfit (by simp) hpasses

variable (hfit : (scalarAddr s rs1 imm).toNat % 128 + loadSize k ≤ 128) (hlock : locked s.core (scalarAddr s rs1 imm) (loadSize k) = false)
  (hmiss : tlbMiss s (scalarAddr s rs1 imm) .read = false)
include hfit hlock hmiss

theorem load_poisoned (hown : p.loc = .own) (hpoison : poisoned s p.key (loadSize k) = true) :
    exec (.load k rd rs1 imm) s = .next (takeTrap 0x25 (scalarAddr s rs1 imm) s) := by
  refine exec_load_traps rd hfit ((memLoad_passes hlock hmiss hplace (loadGate_stays .dflt (by simp [leaves, hown]))).trans ?_)
  simp [loadAt, hown, hpoison, bind, Except.bind, throw, throwThe, MonadExceptOf.throw]

variable (hhost : p.loc = .host)
include hhost

theorem load_awaitsStores (hans : s.core.cx.ans = none) (hbusy : hostBusy s = true) : exec (.load k rd rs1 imm) s = .next (waitFor .stores s) :=
  exec_load_waits rd hfit (memLoad_held hlock hmiss hplace (loadGate_holds .dflt (leaves_host hhost) hans (by simp [inOrder, hhost, hbusy])))

theorem load_refused {e : BitVec 128} (hans : s.core.cx.ans = some e) (herr : e.getLsbD 0 = true) :
    exec (.load k rd rs1 imm) s = .next (takeTrap 5 (scalarAddr s rs1 imm) s) := by
  refine exec_load_traps rd hfit ((memLoad_passes hlock hmiss hplace (loadGate_answered .dflt (by simp [hans]) (by simp [hhost]))).trans ?_)
  simp [loadAt, hhost, hostErr, hans, herr, bind, Except.bind, throw, throwThe, MonadExceptOf.throw]

variable (hbusy : hostBusy s = false) (hbank : bankOfKey p.key = none) (hdev : p.ty = .device → devBusy s = false)
include hbusy hbank hdev

theorem load_asksHost (hans : s.core.cx.ans = none) :
    exec (.load k rd rs1 imm) s = .next (waitFor .host (askLoad true p .dflt (Say.asking s))) := by
  refine exec_load_waits rd hfit (memLoad_held hlock hmiss hplace ?_)
  rw [loadGate_sends .dflt (leaves_host hhost) hans (inOrder_passes (by simp [hbank]) hdev fun _ => hbusy), if_pos hhost]

theorem loads_host {e : BitVec 128} (hans : s.core.cx.ans = some e) (herr : e.getLsbD 0 = false) (hpoison : poisoned s p.key (loadSize k) = false) :
    Loads k rd rs1 imm s (memRead s.mem p.key (loadSize k)) := by
  have hpasses := memLoad_passes hlock hmiss hplace (loadGate_answered .dflt (by simp [hans]) (by simp [hhost]))
  rw [loadAt_place (by simp [hhost]) (fun _ => by simpa [hostErr, hans] using herr) hpoison (by simp [hhost]) (.inl (by simp [hhost]))
    (inOrder_passes (by simp [hbank]) hdev fun _ => hbusy)] at hpasses
  exact loads_of_memLoad rd hfit (by simp) hpasses

end ScalarLoad

theorem scalarLoads : Say.ScalarLoads := by
  intro k rd rs1 imm s p
  dsimp only
  rw [loadBytes_eq]
  refine ⟨loads_here rd, fun hplace hopen hleaves => ⟨fun hans => load_asks rd hplace hopen hleaves (.inl hans), fun hans hloc =>
      ⟨fun d hgot => loads_sent rd hplace hopen hleaves hans hloc hgot, fun hgot => load_asks rd hplace hopen hleaves (.inr ⟨hloc, hgot⟩)⟩,
      loads_far rd hplace hopen hleaves⟩,
    fun hcross => exec_load_crosses k rd rs1 imm s (Nat.not_le_of_lt hcross),
    fun hfit hlock => exec_load_traps rd hfit (memLoad_locked hlock .dflt), fun hfit hlock => ⟨fun hmiss hans => ?_, fun hready c hplace => ?_,
      fun hmiss hplace hown hpoison => load_poisoned rd hplace hfit hlock hmiss hown hpoison, fun hmiss hplace hhost =>
        ⟨load_awaitsStores rd hplace hfit hlock hmiss hhost, fun hans hbusy hbank hdev =>
          load_asksHost rd hplace hfit hlock hmiss hhost hbusy hbank hdev hans, fun e hans =>
        ⟨load_refused rd hplace hfit hlock hmiss hhost hans, fun herr hbank hdev hbusy hpoison => ?_⟩⟩⟩⟩
  · exact exec_load_waits rd hfit (memLoad_lost hlock (resolveT_waits hmiss hans) .dflt)
  · exact exec_load_traps rd hfit (memLoad_lost hlock (resolveT_fails hready hplace) .dflt)
  · obtain ⟨u, hexec, hmem, -, hcx⟩ := loads_host rd hplace hfit hlock hmiss hhost hbusy hbank hdev hans herr hpoison
    exact ⟨u, hexec, hmem, hcx⟩

end Sys2Proof.Machine
end

section
/-! SUPPORT. Scalar stores: what keeps one from its place, and what it leaves there (R74, R140, R145, R208, R247, R282). -/

namespace Sys2Proof.Machine

/-! ### Bytes in a line (R139) -/

theorem natOfBytes_byte : ∀ (bs : List Byte) (i : Nat), natOfBytes bs / 256 ^ i % 256 = (bs.getD i 0).toNat
  | [], i => by simp [natOfBytes]
  | b :: bs, 0 => by simp [natOfBytes, Nat.mod_eq_of_lt b.isLt]
  | b :: bs, i + 1 => by
    have hrest : (b.toNat + 256 * natOfBytes bs) / 256 = natOfBytes bs := by have := b.isLt; omega
    rw [natOfBytes, Nat.pow_succ', ← Nat.div_div_eq_div_mul, hrest, natOfBytes_byte bs i, List.getD_cons_succ]

theorem byteOf_toNat (d : BitVec 1024) (j : Nat) : (Say.byteOf d j).toNat = d.toNat / 256 ^ j % 256 := by
  rw [Say.byteOf, BitVec.extractLsb'_toNat, Nat.shiftRight_eq_div_pow, Nat.pow_mul]

/-- The bytes of an access stand in its line from its offset on. -/
theorem byteOf_lineData {k : Nat} {bs : List Byte} (hfit : k % 128 + bs.length ≤ 128) (i : Nat) :
    Say.byteOf (lineData k bs) (k % 128 + i) = bs.getD i 0 := by
  have hbound : natOfBytes bs * 256 ^ (k % 128) < 2 ^ 1024 := calc
    natOfBytes bs * 256 ^ (k % 128) < 256 ^ bs.length * 256 ^ (k % 128) := Nat.mul_lt_mul_of_pos_right (natOfBytes_lt bs) (Nat.pow_pos (by decide))
    _ = 256 ^ (k % 128 + bs.length) := by rw [← Nat.pow_add, Nat.add_comm]
    _ ≤ 256 ^ 128 := Nat.pow_le_pow_right (by decide) hfit
    _ = 2 ^ 1024 := (Nat.pow_mul 2 8 128).symm
  refine BitVec.eq_of_toNat_eq ?_
  rw [byteOf_toNat, lineData, BitVec.toNat_ofNat, Nat.mod_eq_of_lt hbound, Nat.pow_add, ← Nat.div_div_eq_div_mul,
    Nat.mul_div_cancel _ (Nat.pow_pos (by decide)), natOfBytes_byte]

theorem spanMask_getLsbD {off n j : Nat} (hfit : off + n ≤ 128) : (spanMask off n).getLsbD j = (decide (off ≤ j) && decide (j < off + n)) := by
  rw [spanMask, BitVec.getLsbD_ofNat, Nat.testBit_mul_two_pow, Nat.testBit_two_pow_sub_one]
  by_cases hlo : off ≤ j
  · by_cases hhi : j < off + n
    · simp [hlo, hhi, show j < 128 by omega, show j - off < n by omega]
    · simp [hlo, hhi, show ¬j - off < n by omega]
  · simp [hlo]

/-- The bytes of the mask are the new ones. -/
theorem byteOf_mergeV (old v : VReg) {m : PReg} {j : Nat} (hm : m.getLsbD j = true) (hj : j < 128) : Say.byteOf (mergeV old v m) j = Say.byteOf v j := by
  refine BitVec.eq_of_getLsbD_eq fun b hb => ?_
  have hbyte : (8 * j + b) / 8 = j := by omega
  simp only [Say.byteOf, BitVec.getLsbD_extractLsb', hb, decide_true, Bool.true_and]
  rw [mergeV_getLsbD _ _ _ (by omega), hbyte, if_pos hm]

theorem inside_or (x m : BitVec 128) : (x ||| m) &&& m = m := by
  ext i
  simpa using Or.inr

theorem outside_or (x m : BitVec 128) : m &&& ~~~(x ||| m) = 0 := by
  ext i
  cases hm : m[i] <;> simp [hm]

/-! ### A store into L1 (R140) -/

/-- A line of L1 that holds the bytes of an access, dirty. -/
structure HoldsDirty (k : Nat) (bs : List Byte) (x : L1Line) : Prop where
  line : x.line = lineOf k
  valid : spanMask (k % 128) bs.length &&& ~~~x.valid = 0
  dirty : x.dirty &&& spanMask (k % 128) bs.length = spanMask (k % 128) bs.length
  bytes : ∀ i, i < bs.length → Say.byteOf x.data (k % 128 + i) = bs.getD i 0

theorem range_getD : ∀ bs : List Byte, (List.range bs.length).map (fun i => bs.getD i 0) = bs := fun bs => by
  refine List.ext_getElem (by simp) fun i hi _ => ?_
  rw [List.getElem_map, List.getElem_range, List.getD_eq_getElem _ _ (by simpa using hi)]

/-- Where such a line is the most recently used one, a read finds the bytes in L1. -/
theorem HoldsDirty.seen {p : Place} {bs : List Byte} {x : L1Line} {ls : List L1Line} {t : State} (h : HoldsDirty p.key bs x) (hl1 : t.core.l1 = x :: ls)
    (hloc : p.loc = .dram) : l1Hit t p.key bs.length = true ∧ Say.seen t p bs.length = bs
      ∧ ∃ x, l1Find t.core (lineOf p.key) = some x ∧ x.dirty &&& spanMask (p.key % 128) bs.length = spanMask (p.key % 128) bs.length := by
  have hfind : l1Find t.core (lineOf p.key) = some x := by simp [l1Find, hl1, h.line]
  refine ⟨by simp [l1Hit, hfind, h.valid], ?_, x, hfind, h.dirty⟩
  rw [Say.seen, hloc, hfind]
  exact (List.map_congr_left fun i hi => h.bytes i (List.mem_range.mp hi)).trans (range_getD bs)

theorem sentLines_l1Evict (line : Nat) (s : State) : SentLines s (l1Evict line s) := by
  unfold l1Evict
  dsimp only
  split
  · exact .refl s
  · split
    · exact .refl s
    · split
      · exact .refl s
      · exact .trans (t := modCore _ s) ⟨rfl, rfl, rfl, rfl, rfl, rfl⟩ (sentLines_sendBytes ..)

theorem l1Store_keeps (p : Place) (bs : List Byte) (who : StoreOf) (s : State) : SentLines s (l1Store p .dflt bs who s) := by
  unfold l1Store
  dsimp only
  split
  · exact ⟨rfl, rfl, rfl, rfl, rfl, rfl⟩
  · exact (sentLines_l1Evict ..).trans ⟨rfl, rfl, rfl, rfl, rfl, rfl⟩

theorem l1Find_line {c : Core} {line : Nat} {x : L1Line} (h : l1Find c line = some x) : x.line = line := by
  unfold l1Find at h
  simpa using List.find?_some h

theorem l1Store_holds {p : Place} {bs : List Byte} (hfit : p.key % 128 + bs.length ≤ 128) (who : StoreOf) (s : State) :
    ∃ x ls, (l1Store p .dflt bs who s).core.l1 = x :: ls ∧ HoldsDirty p.key bs x := by
  have hin : ∀ i, i < bs.length → (spanMask (p.key % 128) bs.length).getLsbD (p.key % 128 + i) = true := fun i hi => by
    rw [spanMask_getLsbD hfit]
    simp [hi]
  unfold l1Store
  dsimp only
  split
  · next x hfind =>
    refine ⟨_, _, rfl, (l1Find_line hfind : x.line = lineOf p.key), outside_or .., inside_or .., fun i hi => ?_⟩
    rw [byteOf_mergeV _ _ (hin i hi) (by omega), byteOf_lineData hfit]
  · exact ⟨_, _, rfl, rfl, by simp, by simp, fun i _ => byteOf_lineData hfit i⟩

/-! ### Where a store leads (R117, R137) -/

/-- A place in the core's own pool is no line of DRAM. -/
theorem own_not_dram {s : State} {va : Word} {n : Nat} {acc : Acc} {p : Place} (hplace : resolve s va n acc = .ok p) (hown : p.loc = .own) :
    isDramKey (lineOf p.key * 128) = false := by
  have hpa : ∀ {sl pa t}, placeOfPa sl pa t acc ≠ .ok p := fun {sl pa t} h => by
    unfold placeOfPa at h
    split at h
    · cases h
    · split at h
      · split at h
        · cases h
        · split at h <;> cases h
          cases hown
      · cases h
        cases hown
  have hpool : ∀ core off, isDramKey (lineOf (poolKey core off) * 128) = false := fun core off =>
    decide_eq_false (by unfold lineOf poolKey; omega)
  unfold resolve at hplace
  split at hplace
  · unfold resolveWindow at hplace
    dsimp only at hplace
    split at hplace
    · (repeat' split at hplace) <;> cases hplace
      exact hpool ..
    · split at hplace
      · (repeat' split at hplace) <;> cases hplace <;> exact hpool ..
      · (repeat' split at hplace) <;> cases hplace
        cases hown
  · split at hplace
    · unfold resolveM at hplace
      split at hplace
      · cases hplace
      · exact absurd hplace hpa
    · unfold resolvePage at hplace
      dsimp only at hplace
      split at hplace
      · cases hplace
      · split at hplace
        · cases hplace
        · cases hplace
        · split at hplace
          · exact absurd hplace hpa
          · cases hplace

/-! ### A store at its place (R145, R208) -/

/-- What a store leaves of the contexts and, but in the core's own pool, of memory. -/
structure StoreKeeps (s t : State) : Prop where
  cx : Say.bare t.core.cx = Say.bare s.core.cx
  ctxs : t.core.bank.ctxs.map Say.bare = s.core.bank.ctxs.map Say.bare

theorem SentLines.storeKeeps {s t : State} (h : SentLines s t) : StoreKeeps s t := ⟨h.cx, h.ctxs⟩

theorem StoreKeeps.trans {s t u : State} (h : StoreKeeps s t) (k : StoreKeeps t u) : StoreKeeps s u := ⟨k.cx.trans h.cx, k.ctxs.trans h.ctxs⟩

theorem sentLines_sendWrite (w : WriteBack) (s : State) : SentLines s (sendWrite w s) :=
  (sentLines_staleAsks w.line s).trans ⟨rfl, rfl, rfl, rfl, rfl, rfl⟩

theorem writesOf_sendWrite (w : WriteBack) (s : State) : writesOf (sendWrite w s) s.core.num = writesOf s s.core.num ++ [w] := by
  simp [writesOf, sendWrite, countSent, inject, staleAsks, Core.mapCtxs, modFab, modBank, modCore]

theorem sentLines_updateL1 (k : Nat) (bs : List Byte) (s : State) : SentLines s (updateL1 k bs s) := by
  have hpatch : SentLines s (patchL1 false k bs s) := by
    unfold patchL1
    split
    · exact .refl s
    · exact ⟨rfl, rfl, rfl, rfl, rfl, rfl⟩
  unfold updateL1
  dsimp only
  split
  · exact hpatch
  · exact hpatch.trans ⟨rfl, rfl, rfl, rfl, rfl, rfl⟩

theorem updateL1_fab (k : Nat) (bs : List Byte) (s : State) : (updateL1 k bs s).fab = s.fab := by
  have hpatch : (patchL1 false k bs s).fab = s.fab := by
    unfold patchL1
    split <;> rfl
  unfold updateL1
  dsimp only
  split <;> exact hpatch

/-- The write that leaves for the slice of a place, and the state from which it leaves. -/
def storeWrite (p : Place) (bs : List Byte) (r : Rec) (s : State) : WriteBack :=
  ⟨lineOf p.key, lineData p.key bs, spanMask (p.key % 128) bs.length, placing p .dflt, p.ty == .device, false, some (storeOf r s)⟩

theorem storeAt_dram {p : Place} {bs : List Byte} {r : Rec} {s : State} (hloc : p.loc = .dram) (hty : p.ty = .cached) :
    storeAt p bs .dflt r s = l1Store p .dflt bs (storeOf r s) s := by
  simp [storeAt, hloc, entersL1, hty]

/-- A store that enters no L1 leaves for its slice. -/
theorem storeAt_leaves {p : Place} {bs : List Byte} {r : Rec} {s : State} (hown : p.loc ≠ .own) (hhost : p.loc ≠ .host)
    (hty : ¬(p.loc = .dram ∧ p.ty = .cached)) :
    ∃ u, storeAt p bs .dflt r s = sendWrite (storeWrite p bs r s) u ∧ SentLines s u ∧ u.fab = s.fab := by
  cases hloc : p.loc with
  | own => exact absurd hloc hown
  | host => exact absurd hloc hhost
  | grove c => exact ⟨s, by simp [storeAt, hloc, storeWrite], .refl s, rfl⟩
  | scratch i => exact ⟨s, by simp [storeAt, hloc, storeWrite], .refl s, rfl⟩
  | dram =>
    have hty : p.ty ≠ .cached := fun h => hty ⟨hloc, h⟩
    exact ⟨updateL1 p.key bs s, by simp [storeAt, hloc, storeWrite, entersL1, hty], sentLines_updateL1 .., updateL1_fab ..⟩

theorem fetchNow_pool {line : Nat} (how : Placing) {s : State} (hdram : isDramKey (line * 128) = false) : fetchNow line how s = s := by
  rw [fetchNow, if_pos (by simp [hdram])]

/-- A write in a pool changes memory, and ends the reservations of its line. -/
theorem performNow_pool {k : Nat} {bs : List Byte} (how : Placing) (s : State) (hdram : isDramKey (lineOf k * 128) = false) :
    (performNow how k bs s).mem = memWrite s.mem k bs ∧ (performNow how k bs s).resv = s.resv.filter fun r => r.line != lineOf k := by
  unfold performNow performFrom writeLine
  simp only [fetchNow_pool how hdram, wholeLine, hdram, Bool.not_false, if_true, Bool.false_eq_true, if_false]
  constructor <;> split <;> rfl

/-- A store off the host keeps the contexts; one off the core keeps memory too. -/
theorem storeAt_keeps {p : Place} {bs : List Byte} {r : Rec} {s : State} (hhost : p.loc ≠ .host) :
    StoreKeeps s (storeAt p bs .dflt r s) ∧ (p.loc ≠ .own → (storeAt p bs .dflt r s).mem = s.mem ∧ (storeAt p bs .dflt r s).resv = s.resv) := by
  have hsent : ∀ {t}, SentLines s t → StoreKeeps s t ∧ (p.loc ≠ .own → t.mem = s.mem ∧ t.resv = s.resv) := fun h =>
    ⟨h.storeKeeps, fun _ => ⟨by rw [h.state], by rw [h.state]⟩⟩
  by_cases hown : p.loc = .own
  · have hsame := (sameCores_perform p.key bs s).core
    rw [show storeAt p bs .dflt r s = perform p.key bs s by simp [storeAt, hown]]
    exact ⟨⟨by rw [hsame], by rw [hsame]⟩, fun h => absurd hown h⟩
  · by_cases hty : p.loc = .dram ∧ p.ty = .cached
    · rw [storeAt_dram hty.1 hty.2]
      exact hsent (l1Store_keeps ..)
    · obtain ⟨u, hu, hkeeps, -⟩ := storeAt_leaves (bs := bs) (r := r) (s := s) hown hhost hty
      rw [hu]
      exact hsent (hkeeps.trans (sentLines_sendWrite ..))

/-! ### The instruction (R247) -/

/-- What a walk for an access that does not wait for it leaves: everything but the core's walks. -/
theorem walkBehind_frame (va : Word) (acc : Acc) (s : State) : ∃ ws, walkBehind va acc s = modCore (fun c => { c with walks := ws }) s := by
  unfold walkBehind enterWalk
  split
  · simp only [modCore]
    split
    · exact ⟨s.core.walks, rfl⟩
    · exact ⟨_, rfl⟩
  · exact ⟨s.core.walks, rfl⟩

theorem storeBytes_eq (k : StoreKind) : Say.storeBytes k = storeSize k := by cases k <;> rfl
theorem stored_eq (s : State) (k : StoreKind) (rs2 : RegNo) : Say.stored s k rs2 = storeData s k rs2 := by cases k <;> rfl
theorem storeSize_pos (k : StoreKind) : 0 < storeSize k ∧ storeSize k ≤ 8 := by cases k <;> decide

section Store
variable {k : StoreKind} {rs2 rs1 : RegNo} {imm : BitVec 12} {s : State} {p : Place}

theorem exec_store_crosses (hcross : ¬(scalarAddr s rs1 imm).toNat % 128 + storeSize k ≤ 128) :
    exec (.store k rs2 rs1 imm) s = .next (takeTrap 6 (scalarAddr s rs1 imm) s) := by
  have hcross' : crossesLine (scalarAddr s rs1 imm) (storeSize k) = true := decide_eq_true (Nat.lt_of_not_le hcross)
  simp [exec_store, execStore, storeStep, hcross', bind, Except.bind, throw, throwThe, MonadExceptOf.throw, orTrap]

variable (hfit : (scalarAddr s rs1 imm).toNat % 128 + storeSize k ≤ 128)
include hfit

theorem exec_store_fits : exec (.store k rs2 rs1 imm) s
    = .next (orTrap (memStore (scalarAddr s rs1 imm) (storeSize k) (storeData s k rs2).toNat .dflt 0 s (adv s)) s) := by
  have hfit' : crossesLine (scalarAddr s rs1 imm) (storeSize k) = false := decide_eq_false (Nat.not_lt_of_le hfit)
  simp only [exec_store, execStore, storeStep, hfit']
  rfl

theorem exec_store_locked (hlock : locked s.core (scalarAddr s rs1 imm) (storeSize k) = true) :
    exec (.store k rs2 rs1 imm) s = .next (takeTrap 0x20 (scalarAddr s rs1 imm) s) := by
  rw [exec_store_fits hfit, memStore, rangeLockCheck_locked hlock]
  rfl

variable (hlock : locked s.core (scalarAddr s rs1 imm) (storeSize k) = false)
include hlock

/-- The record that a scalar store makes if it fails. -/
def scalarRec (k : StoreKind) (rs2 rs1 : RegNo) (imm : BitVec 12) (s : State) (c : BitVec 8) : Rec :=
  storeRec s (scalarAddr s rs1 imm) (storeSize k) (BitVec.ofNat 64 ((storeData s k rs2).toNat % 256 ^ storeSize k)) c 0

theorem exec_store_recorded {c : BitVec 8} (hplace : storePlace s (scalarAddr s rs1 imm) (storeSize k) = .error c) :
    exec (.store k rs2 rs1 imm) s = .next (addLate ⟨some (0, scalarRec k rs2 rs1 imm s c), []⟩ (adv s)) := by
  rw [exec_store_fits hfit, memStore, rangeLockCheck_free hlock]
  simp only [hplace, bind, Except.bind]
  rfl

variable (hplace : storePlace s (scalarAddr s rs1 imm) (storeSize k) = .ok p)
include hplace

theorem exec_store_placed : exec (.store k rs2 rs1 imm) s = .next (orTrap (do
    deviceGate p s
    let bs := bytesOfNat (storeSize k) (storeData s k rs2).toNat
    if p.loc == .host then return addHostStore ⟨none, [hostElem 0 (scalarRec k rs2 rs1 imm s 7) p bs]⟩ p.key (adv s)
    else return storeAt p bs .dflt (scalarRec k rs2 rs1 imm s 0x25) (walkBehind (scalarAddr s rs1 imm) .write (adv s))) s) := by
  rw [exec_store_fits hfit, memStore, rangeLockCheck_free hlock]
  simp only [hplace]
  rfl

theorem exec_store_stalls (hgate : deviceGate p s = .error .stall) : exec (.store k rs2 rs1 imm) s = .next s := by
  rw [exec_store_placed hfit hlock hplace, hgate]
  rfl

theorem exec_store_host (hgate : deviceGate p s = .ok ()) (hhost : p.loc = .host) : exec (.store k rs2 rs1 imm) s
    = .next (addHostStore ⟨none, [hostElem 0 (scalarRec k rs2 rs1 imm s 7) p (bytesOfNat (storeSize k) (storeData s k rs2).toNat)]⟩ p.key (adv s)) := by
  rw [exec_store_placed hfit hlock hplace, hgate]
  simp [hhost, bind, Except.bind, pure, Except.pure, orTrap]

theorem exec_store_stores (hgate : deviceGate p s = .ok ()) (hhost : p.loc ≠ .host) : exec (.store k rs2 rs1 imm) s
    = .next (storeAt p (bytesOfNat (storeSize k) (storeData s k rs2).toNat) .dflt (scalarRec k rs2 rs1 imm s 0x25)
        (walkBehind (scalarAddr s rs1 imm) .write (adv s))) := by
  rw [exec_store_placed hfit hlock hplace, hgate]
  simp [hhost, bind, Except.bind, pure, Except.pure, orTrap]

end Store

theorem storePlace_fails {s : State} {va : Word} {n : Nat} {c : BitVec 8} (h : resolve s va n .write = .error c) : storePlace s va n = .error c := by
  rw [storePlace, h]

theorem storePlace_poisoned {s : State} {va : Word} {n : Nat} {p : Place} (h : resolve s va n .write = .ok p) (hn : n < 128)
    (hpoison : poisoned s p.key n = true) : storePlace s va n = .error 0x25 := by
  simp [storePlace, h, storePoison, hn, hpoison]

theorem storePlace_leads {s : State} {va : Word} {n : Nat} {p : Place} (h : resolve s va n .write = .ok p)
    (hpoison : poisoned s p.key n = false) (hl1 : p.loc = .dram → p.ty = .cached → l1Poison s p.key = false) : storePlace s va n = .ok p := by
  have hclear : (p.loc == .dram && p.ty == .cached && l1Poison s p.key) = false := by
    by_cases hloc : p.loc = .dram <;> by_cases hty : p.ty = .cached <;> simp_all
  simp [storePlace, h, storePoison, hpoison, hclear]

theorem deviceGate_stalls {p : Place} {s : State} (hty : p.ty = .device)
    (hhost : p.loc = .host → (∃ w ∈ writesOf s s.core.num, w.dev = true) ∨ s.ms.heldW ≠ []) (hslice : p.loc ≠ .host → hostBusy s = true) :
    deviceGate p s = .error .stall := by
  by_cases hloc : p.loc = .host
  · have hbusy : ((writesOf s s.core.num).any (·.dev) || !s.ms.heldW.isEmpty) = true := by simpa using hhost hloc
    simp only [deviceGate, hty, hloc, hbusy]
    rfl
  · simp [deviceGate, hty, hloc, hslice hloc]

theorem deviceGate_passes {p : Place} {s : State} (hdev : p.ty = .device → devBusy s = false) : deviceGate p s = .ok () := by
  by_cases hty : p.ty = .device
  · have hbusy := hdev hty
    simp only [devBusy, Bool.or_eq_false_iff] at hbusy
    obtain ⟨⟨hwrites, hheld⟩, hhost⟩ := hbusy
    by_cases hloc : p.loc = .host <;> simp only [deviceGate, hty, hloc, hwrites, hheld, hhost] <;> simp
  · simp [deviceGate, hty]

/-- What a store at a place off host space leaves behind it. -/
structure Stored (p : Place) (bs : List Byte) (r : Rec) (s t : State) : Prop where
  keeps : StoreKeeps s t
  own : p.loc = .own → isDramKey (lineOf p.key * 128) = false → lineHeld s (lineOf p.key) = false →
    t.mem = memWrite s.mem p.key bs ∧ t.resv = s.resv.filter fun r => r.line != lineOf p.key
  off : p.loc ≠ .own → t.mem = s.mem ∧ t.resv = s.resv
  l1 : p.loc = .dram → p.ty = .cached → l1Hit t p.key bs.length = true ∧ Say.seen t p bs.length = bs
    ∧ ∃ x, l1Find t.core (lineOf p.key) = some x ∧ x.dirty &&& spanMask (p.key % 128) bs.length = spanMask (p.key % 128) bs.length
  sent : p.loc ≠ .own → ¬(p.loc = .dram ∧ p.ty = .cached) → writesOf t s.core.num = writesOf s s.core.num ++ [storeWrite p bs r s]

theorem stored_storeAt {p : Place} {bs : List Byte} (r : Rec) (s : State) (hhost : p.loc ≠ .host) (hne : bs ≠ []) (hfit : p.key % 128 + bs.length ≤ 128) :
    Stored p bs r s (storeAt p bs .dflt r s) where
  keeps := (storeAt_keeps hhost).1
  off := (storeAt_keeps hhost).2
  own := fun hown hdram hheld => by
    rw [show storeAt p bs .dflt r s = perform p.key bs s by simp [storeAt, hown], perform, performHow_oneLine _ hne hfit hheld]
    exact performNow_pool _ s hdram
  l1 := fun hloc hty => by
    rw [storeAt_dram hloc hty]
    obtain ⟨x, ls, hl1, hx⟩ := l1Store_holds hfit (storeOf r s) s
    exact hx.seen hl1 hloc
  sent := fun hown hty => by
    obtain ⟨u, hu, hkeeps, hfab⟩ := storeAt_leaves (bs := bs) (r := r) (s := s) hown hhost hty
    have hnum : u.core.num = s.core.num := by rw [hkeeps.core]
    rw [hu, ← hnum, writesOf_sendWrite, hnum]
    simp only [writesOf, hfab]

section StoreStep
variable {k : StoreKind} {rs2 rs1 : RegNo} {imm : BitVec 12} {s : State} {p : Place}
  (hfit : (scalarAddr s rs1 imm).toNat % 128 + storeSize k ≤ 128) (hlock : locked s.core (scalarAddr s rs1 imm) (storeSize k) = false)
  (hplace : storePlace s (scalarAddr s rs1 imm) (storeSize k) = .ok p)
include hfit hlock hplace

/-- A store off host space is made in the state after its instruction, which is the state before but for the context. -/
theorem exec_store_stored (hgate : deviceGate p s = .ok ()) (hhost : p.loc ≠ .host) (hline : p.key % 128 + storeSize k ≤ 128) :
    ∃ u t, exec (.store k rs2 rs1 imm) s = .next t ∧ u.mem = s.mem ∧ u.resv = s.resv ∧ u.ms = s.ms ∧ u.core.num = s.core.num
      ∧ u.core.bank = s.core.bank ∧ u.core.cx = (adv s).core.cx ∧ u.fab = s.fab
      ∧ Stored p (bytesOfNat (storeSize k) (storeData s k rs2).toNat) (scalarRec k rs2 rs1 imm s 0x25) u t := by
  obtain ⟨ws, hws⟩ := walkBehind_frame (scalarAddr s rs1 imm) .write (adv s)
  have hpos := (storeSize_pos k).1
  refine ⟨walkBehind (scalarAddr s rs1 imm) .write (adv s), _, exec_store_stores hfit hlock hplace hgate hhost, ?_, ?_, ?_, ?_, ?_, ?_, ?_,
    stored_storeAt _ _ hhost (List.ne_nil_of_length_pos (by simpa using hpos)) (by simpa using hline)⟩
  all_goals rw [hws]; rfl

end StoreStep

theorem scalarStores : Say.ScalarStores := by
  intro k rs2 rs1 imm s p
  dsimp only
  rw [storeBytes_eq, stored_eq]
  obtain ⟨hpos, hle⟩ := storeSize_pos k
  refine ⟨fun hcross => exec_store_crosses (Nat.not_le_of_lt hcross), exec_store_locked, fun hfit hlock => ⟨fun c hplace => ?_,
    fun hplace hpoison => ?_, fun hplace hpoison hl1 => ?_⟩⟩
  · exact exec_store_recorded hfit hlock (storePlace_fails hplace)
  · exact exec_store_recorded hfit hlock (storePlace_poisoned hplace (by omega) hpoison)
  · have hleads := storePlace_leads hplace hpoison hl1
    refine ⟨fun hty hhost hslice => exec_store_stalls hfit hlock hleads (deviceGate_stalls hty hhost hslice), fun hdev hline => ?_⟩
    have hgate := deviceGate_passes hdev
    by_cases hhost : p.loc = .host
    · refine ⟨_, exec_store_host hfit hlock hleads hgate hhost, rfl, fun h => absurd hhost h, fun h => ?_, fun _ => ⟨rfl, rfl⟩, fun h => ?_,
        fun _ h => absurd hhost h, fun _ => ?_⟩
      · simp [hhost] at h
      · simp [hhost] at h
      · simp only [hostElem, length_bytesOfNat]
        rfl
    · obtain ⟨u, t, hexec, hmem, hresv, hms, hnum, hbank, hcx, hfab, hstored⟩ := exec_store_stored (rs2 := rs2) hfit hlock hleads hgate hhost hline
      have hlen : (bytesOfNat (storeSize k) (storeData s k rs2).toNat).length = storeSize k := length_bytesOfNat ..
      obtain ⟨hkeeps, hown, hoff, hl1, hsent⟩ := hstored
      rw [hlen] at hl1
      rw [hmem, hresv, lineHeld_congr hms] at hown
      rw [hmem, hresv] at hoff
      refine ⟨t, hexec, hbank ▸ hkeeps.ctxs, fun _ => hkeeps.cx.trans (by rw [hcx]), fun h => hown h (own_not_dram hplace h), hoff, hl1,
        fun h _ h' => ?_, fun h => absurd h hhost⟩
      have hwrites := hsent h h'
      rw [hnum] at hwrites
      rw [hwrites]
      simp only [writesOf, hfab, storeWrite, storeOf, hbank, hcx, hlen]
      rfl

end Sys2Proof.Machine
end

section
/-! PROOF. Scalar loads and stores (R140, R206, R246, R247, R282). -/

namespace Sys2Proof.Proofs
open Sys2Proof Sys2Proof.Machine

/-- Settles O16: the loads by what holds one up and by where its bytes are read, the stores by where they leave theirs. -/
theorem scalarLoadsAndStores : Obligations.ScalarLoadsAndStores := ⟨scalarLoads, scalarStores⟩

end Sys2Proof.Proofs
end

section
/-! PROOF. Requests of a slice, miss registers and flushes (R141, R148 to R151). -/

namespace Sys2Proof.Proofs
open Sys2Proof Sys2Proof.Machine

/-- Line 0x200 at its slice, in two sectors. -/
def grownLine : L2Line := { line := 0x200, code := 4, sectors := 2, once := false, dirty := false, bark := false, wr := false }

/-- A POISON line of a bark page in the same set of the slice, entered with all sectors of the set but one. -/
def poisonedNeighbour : L2Line := { line := 0x200 + 2 ^ 26, code := 15, sectors := 127, once := false, dirty := false, bark := true, wr := false }

/-- A write of the first 31 words of the line: 0x40000000 and on. -/
def wordsWrite : WriteBack :=
  { line := 0x200, data := BitVec.ofNat 1024 (natOfBytes ((List.range 31).flatMap fun i => bytesOfNat 4 (0x40000000 + i))), mask := spanMask 0 124
    how := Placing.dflt, dev := false, bad := false, who := none }

/-- It is on its way to slice 2. -/
def wordsPacket : Packet := ⟨.req, 0, 2, .write 0 wordsWrite⟩

/-- Memory with two faults of form: its first entry is a byte of the neighbour's metadata that holds what an unlisted address reads as, and the
last word of the line stands behind it, so that a read of that word does not find it. -/
def unsortedMem : List Host.Cell :=
  (metaKey (blockOf poisonedNeighbour.line), 0x77) :: (List.range 4).map fun i => (0x1007C + i, (bytesOfNat 4 0x4000001F).getD i 0)

/-- At S3, the write of the line about to merge. -/
def outgrowing : State :=
  { State.reset with
    mem := unsortedMem
    pkg := { Pkg.reset with sl := 3 }
    fab := { Fab.reset with net := [wordsPacket] }
    ms := { MemSys.reset with slices := [{ sliceReset 2 with lines := [grownLine, poisonedNeighbour] }] } }

/-- The sectors of line 0x200 as memory has it after a move, and the lines of slice 2. -/
def sectorsAndLines (i : Instr) (s : State) : Option (Nat × Nat) :=
  match exec i s with
  | .next t => some ((lineCode t 0x200).2, (getSlice t 2).lines.length)
  | _ => none

theorem sectorsAndLines_of_next {i : Instr} {s t : State} (h : exec i s = .next t) :
    sectorsAndLines i s = some ((lineCode t 0x200).2, (getSlice t 2).lines.length) := by
  unfold sectorsAndLines
  rw [h]

/-- The line outgrows its sectors, the neighbour leaves for it and leaves code 0xF in its metadata; that write of memory takes the entry of the
byte 0x77 away, the last word of the line is read from then on, and the line takes two sectors again. -/
theorem outgrowing_leaves : sectorsAndLines .writebackMerge outgrowing = some (2, 1) := by decide +kernel

/-- Refutes O48: the clause of a write hit names the line's code by the memory after the step, and asks no canonical form of memory. In
`outgrowing`, whose memory is unsorted and lists a byte with its default value, the metadata of the victim changes what the line reads as: by the
memory after the step the line does not outgrow its sectors, but a line has left the slice for it. No reachable memory is of this kind (O60). -/
theorem not_slicesAndFlushes : ¬Obligations.SlicesAndFlushes := by
  intro h
  obtain ⟨-, -, hwrite, -⟩ := h outgrowing 2 ⟨0, Placing.dflt, none⟩ [] grownLine
    ⟨0, 0, 0, false, false, false, false, []⟩ [] wordsPacket wordsWrite [] [] ⟨0, 0, []⟩ 0 rfl
  have hplain : ∀ i, i < 128 → Say.plain outgrowing (wordsWrite.line * 128 + i) := fun i hi => plain_of_offset (by
    show (0x200 * 128 + i) % 2 ^ 37 < 0x1FE0000000
    omega) _
  obtain ⟨t, ht, hkeeps, -⟩ := hwrite (.inl (by decide +kernel)) (by decide +kernel) (by decide +kernel) (by decide +kernel) rfl (by decide +kernel)
    (by decide +kernel) (.inl (by decide)) rfl hplain
  have hmodel := (sectorsAndLines_of_next ht).symm.trans outgrowing_leaves
  obtain ⟨hsectors, hlines⟩ := Prod.mk.inj (Option.some.inj hmodel)
  have hslice := hkeeps (Nat.le_of_eq hsectors)
  rw [hslice] at hlines
  have hstays : ∀ z : L2Line, (z :: (getSlice outgrowing 2).lines.filter fun q => q.line != wordsWrite.line).length = 2 := fun z => by
    rw [List.length_cons]
    decide +kernel
  exact absurd ((hstays _).symm.trans hlines) (by decide)

end Sys2Proof.Proofs
end

section
/-! PROOF. Fills, write-backs, replicas, walks, frame modes and metadata (R140 to R144, R154, R158). -/

namespace Sys2Proof.Proofs
open Sys2Proof Sys2Proof.Machine

/-- A write of byte 1 of line 0x200, which a store of context 0 of bank 1 has made; no slice holds the line. -/
def spilledStoresWrite : WriteBack :=
  { line := 0x200, data := 0x5566, mask := 2, how := ⟨false, false, false, false⟩, dev := false, bad := false
    who := some { bank := true, ctx := 0, fail := ⟨0x10001, 0x55, 0x1000, 0x25, 1, 0, 0, 0, 0, false⟩, base := 0 } }

/-- It is on its way to slice 2. -/
def spilledStoresPacket : Packet := ⟨.req, 0, 2, .write 0 spilledStoresWrite⟩

/-- Bank 1 has been spilled to its save area at 0x100000 since, and the line is POISON. -/
def spilledStorer : State :=
  { State.reset with
    core := { Core.reset 0 with dsave1 := 0x100000, shadow := { Bank.reset true with ctxs := [Ctx.reset 0], spilled := true } }
    poison := [0x200]
    fab := { Fab.reset with net := [spilledStoresPacket] } }

/-- The write is dropped, and its record enters the save area, which is memory. -/
theorem spilledStorer_mem : memAfter .writebackMerge spilledStorer ≠ some spilledStorer.mem := by decide +kernel

/-- Refutes O47: memory does not stay as it is where part of a POISON line is dropped, when the bank whose store it was has been spilled
meanwhile. The store's record enters the queue of its context, and the save area of the spilled bank, which is memory, shows that queue with
PEND and the number of its records (R157, R247, R258). -/
theorem not_memorySystem : ¬Obligations.MemorySystem := by
  intro h
  obtain ⟨-, -, -, hmerge, -⟩ := h spilledStorer ⟨0, .priv, false, false⟩ [] spilledStoresPacket spilledStoresWrite
    ⟨0, 0, 0, 0, Placing.dflt, [], none⟩ 0 0 0 ⟨0, .queued⟩ [] [] ⟨0, 0⟩
  obtain ⟨-, hhere⟩ := hmerge (.inl (by decide +kernel))
  obtain ⟨t, ht, -, -, hdropped, -⟩ := hhere (fun haway => absurd haway.2.1 (by decide)) (by decide) rfl
  have hmem := hdropped (by decide +kernel) (by decide) (by decide)
  exact spilledStorer_mem ((memAfter_of_next ht).trans (congrArg some hmem))

end Sys2Proof.Proofs
end

section
/-! SUPPORT. What the engines' reads and writes leave behind them: memory, replicas, and the core that the engine belongs to
(R148, R154, R257, R377, R378). -/

namespace Sys2Proof.Machine

/-! ### Replicas and page modes that writes keep (R154) -/

/-- What is noted of replicas and frames. -/
def replicas (s : State) : List Sharers × List Frame := (s.ms.sharers, s.ms.frames)

theorem setMeta_replicas (block v : Nat) (s : State) : replicas (setMeta block v s) = replicas s := rfl
theorem poisonLines_replicas (ls : List Nat) (s : State) : replicas (poisonLines ls s) = replicas s := rfl
theorem modSlice_replicas (n : Nat) (f : Slice → Slice) (s : State) : replicas (modSlice n f s) = replicas s := rfl

theorem noteCode_replicas (line code : Nat) (s : State) : replicas (noteCode line code s) = replicas s := by
  unfold noteCode
  split
  · rfl
  · exact setMeta_replicas ..

theorem loseSector_replicas (block : Nat) (s : State) : replicas (loseSector block s) = replicas s :=
  (poisonLines_replicas ..).trans (foldl_keeps replicas (fun _ _ => setMeta_replicas ..) _ s)

theorem markWritten_replicas (line : Nat) (s : State) : replicas (markWritten line s) = replicas s := by
  unfold markWritten
  dsimp only
  split
  · exact (loseSector_replicas ..).trans rfl
  · rfl

theorem leaveSlice_replicas (x y : Slice) (s : State) : replicas (leaveSlice x y s) = replicas s := by
  refine foldl_keeps replicas (fun s l => ?_) _ s
  have hnote : replicas (if l.bark && l.code = 15 && x.num = homeSlice (l.line * 128) then noteCode l.line 15 s else s) = replicas s := by
    split
    · exact noteCode_replicas ..
    · rfl
  dsimp only
  generalize (if l.bark && l.code = 15 && x.num = homeSlice (l.line * 128) then noteCode l.line 15 s else s) = t at hnote ⊢
  split
  · exact hnote
  · split
    · exact hnote
    · split
      · exact (markWritten_replicas ..).trans hnote
      · split
        · exact hnote
        · exact (poisonLines_replicas ..).trans hnote

theorem setSlice_replicas (x y : Slice) (s : State) : replicas (setSlice x y s) = replicas s :=
  (leaveSlice_replicas ..).trans (modSlice_replicas ..)

theorem fillMiss_replicas (slice : Nat) (m : Miss) (s : State) : replicas ((fillMiss slice m s).getD (waitRoom s)) = replicas s := by
  unfold fillMiss
  dsimp only
  cases installLine s slice (getSlice s slice) m with
  | none => rfl
  | some y => exact (foldl_keeps replicas (f := fun s w => answer slice m.line w s) (fun _ _ => rfl) _ _).trans (setSlice_replicas ..)

theorem fetchNow_replicas (line : Nat) (how : Placing) (s : State) : replicas (fetchNow line how s) = replicas s := by
  unfold fetchNow
  dsimp only
  split
  · rfl
  · split
    · exact fillMiss_replicas ..
    · split
      · rfl
      · exact fillMiss_replicas ..

theorem wholeLine_replicas (line : Nat) (s : State) : replicas (wholeLine line s) = replicas s := by
  unfold wholeLine
  dsimp only
  split
  · exact (markWritten_replicas ..).trans rfl
  · rfl

theorem recode_replicas (line : Nat) (how : Placing) (fetched : Bool) (s : State) : replicas (recode line how fetched s) = replicas s := by
  unfold recode
  dsimp only
  split
  · rfl
  · split
    · rfl
    · exact setSlice_replicas ..

/-- No frame enters REPL mode, and no replica of a line in another mode comes or goes. -/
structure KeepsModes (s t : State) : Prop where
  sharers : ∀ l, isRepl s l = false → sharersOf t l = sharersOf s l
  repl : ∀ l, isRepl s l = false → isRepl t l = false

theorem KeepsModes.refl (s : State) : KeepsModes s s := ⟨fun _ _ => rfl, fun _ h => h⟩

theorem KeepsModes.trans {s t u : State} (h : KeepsModes s t) (k : KeepsModes t u) : KeepsModes s u :=
  ⟨fun l hl => (k.sharers l (h.repl l hl)).trans (h.sharers l hl), fun l hl => k.repl l (h.repl l hl)⟩

theorem keepsModes_of {s t : State} (h : replicas t = replicas s) : KeepsModes s t := by
  obtain ⟨hsharers, hframes⟩ := Prod.mk.inj h
  refine ⟨fun l _ => ?_, fun l hl => ?_⟩
  · rw [sharersOf, sharersOf, hsharers]
  · rwa [isRepl, hframes]

theorem keepsModes_countFrame (line die : Nat) (write : Bool) (s : State) : KeepsModes s (countFrame line die write s) := by
  unfold countFrame
  split
  · exact .refl s
  refine ⟨fun _ _ => rfl, fun l hl => ?_⟩
  simp only [isRepl, List.any_eq_false, Bool.and_eq_true, beq_iff_eq, not_and, Bool.not_eq_true] at hl ⊢
  have hold : (frameOf s (line / 512)).num = l / 512 → (frameOf s (line / 512)).repl = false := fun hnum => by
    unfold frameOf at hnum ⊢
    cases hfind : s.ms.frames.find? fun f => f.num == line / 512 with
    | none => rfl
    | some f =>
      rw [hfind] at hnum
      exact hl f (List.mem_of_find?_eq_some hfind) hnum
  intro f hf hnum
  rcases List.mem_cons.mp hf with rfl | hf
  · cases write <;> exact hold hnum
  · exact hl f (List.mem_of_mem_filter hf) hnum

theorem keepsModes_writeLine (how : Placing) (die line : Nat) (whole : Bool) (f : List Host.Cell → List Host.Cell) (s : State) :
    KeepsModes s (writeLine how die line whole f s) := by
  have hfetch := fetchNow_replicas line how s
  unfold writeLine
  dsimp only
  generalize fetchNow line how s = u at hfetch
  have hdisturb : replicas (disturb line { u with mem := f u.mem }) = replicas s := hfetch
  generalize disturb line { u with mem := f u.mem } = v at hdisturb ⊢
  have hwhole : replicas (if whole then wholeLine line v else v) = replicas s := by
    split
    · exact (wholeLine_replicas ..).trans hdisturb
    · exact hdisturb
  generalize (if whole then wholeLine line v else v) = w at hwhole ⊢
  split
  · exact keepsModes_of hwhole
  · refine ((keepsModes_of hwhole).trans (keepsModes_countFrame line die true w)).trans (keepsModes_of ((recode_replicas ..).trans ?_))
    split
    · exact noteCode_replicas ..
    · rfl

theorem keepsModes_performNow (how : Placing) (k : Nat) (bs : List Byte) (s : State) : KeepsModes s (performNow how k bs s) := by
  unfold performNow performFrom
  exact keepsModes_writeLine ..

/-- A replica is noted of lines of REPL frames alone. -/
theorem keepsModes_shareRead (line : Nat) (s : State) : KeepsModes s (shareRead line s) := by
  unfold shareRead
  dsimp only
  split
  · next hrepl =>
    unfold addSharer
    dsimp only
    split
    · exact .refl s
    · refine ⟨fun l hl => ?_, fun _ hl => hl⟩
      have hne : line ≠ l := by
        rintro rfl
        simp [hl] at hrepl
      unfold sharersOf
      simp only [modMs]
      rw [List.find?_cons_of_neg (by simpa using hne), List.find?_filter]
      congr 3
      funext x
      by_cases hx : x.line = l <;> simp [hx, hne.symm]
  · exact .refl s

/-! ### The state but for L1 and the banks -/

/-- What an engine's access does not count in: the core without L1 and banks. -/
def engView (s : State) : State := modCore (fun c => { c with l1 := [], bank := Bank.reset false, shadow := Bank.reset true }) s

theorem engPlace_engView (s : State) (va : Word) (n : Nat) (acc : Acc) : engPlace (engView s) va n acc = engPlace s va n acc := by
  have hpool1 : ∀ i, (getCore (engView s) i).dpoolb1 = (getCore s i).dpoolb1 := fun i => by
    unfold getCore engView modCore
    dsimp only
    split <;> rfl
  have hpool2 : ∀ i, (getCore (engView s) i).dpoolb2 = (getCore s i).dpoolb2 := fun i => by
    unfold getCore engView modCore
    dsimp only
    split <;> rfl
  have hpresent : ∀ i, present (engView s) i = present s i := fun _ => rfl
  have hgrove : ∀ c g, groveAllowed (engView s) c g = groveAllowed s c g := fun _ _ => rfl
  have hscratch : ∀ i, scratchSize (engView s) i = scratchSize s i := fun _ => rfl
  have hhome : ∀ i o m, inHome (engView s) i o m = inHome s i o m := fun _ _ _ => rfl
  have hlookup : ∀ asid a, lookup (engView s) asid a = lookup s asid a := fun asid a => by
    have hwalk : ∀ asid a, walk (engView s) asid a = walk s asid a := fun asid a => by
      unfold walk
      simp only [walkFrom_congr (s := engView s) (t := s) rfl]
      rfl
    unfold lookup
    rw [hwalk]
    rfl
  unfold engPlace resolveWindow resolvePage
  simp only [hpool1, hpool2, hpresent, hgrove, hscratch, hhome, hlookup]
  rfl

theorem Lands.engView {g : Nat → Byte → Byte} {s t : State} (h : Lands g s t) : Lands g (engView s) (engView t) :=
  ⟨⟨congrArg (fun c : Core => { c with l1 := [], bank := Bank.reset false, shadow := Bank.reset true }) h.core, h.cores, h.pkg, h.fab, h.io, h.root,
    h.heldW, h.twigTlb⟩, h.listed, h.poison, h.bytes⟩

/-! ### What an engine's accesses do -/

/-- An engine has written: a byte `a` that read `v` reads `g a v`, the bark metadata apart; contexts, queues and locks stay, and no line that
has no replica gets one. -/
structure Engine (g : Nat → Byte → Byte) (s t : State) : Prop where
  lands : Lands g (engView s) (engView t)
  ctxs : t.core.bank.ctxs = s.core.bank.ctxs
  modes : KeepsModes s t

/-- Accesses that write nothing. -/
abbrev EngineReads (s t : State) : Prop := Engine (fun _ v => v) s t

theorem Engine.refl (s : State) : EngineReads s s := ⟨.refl _, rfl, .refl s⟩

theorem Engine.trans {g k : Nat → Byte → Byte} {s t u : State} (h : Engine g s t) (h' : Engine k t u) : Engine (fun a v => k a (g a v)) s u :=
  ⟨h.lands.trans h'.lands, h'.ctxs.trans h.ctxs, h.modes.trans h'.modes⟩

theorem Engine.congr {g k : Nat → Byte → Byte} {s t : State} (h : Engine g s t) (he : ∀ a v, g a v = k a v) : Engine k s t :=
  ⟨h.lands.congr he, h.ctxs, h.modes⟩

theorem engine_of_lands {g : Nat → Byte → Byte} {s t : State} (h : Lands g s t) (hmodes : KeepsModes s t) : Engine g s t :=
  ⟨h.engView, by rw [h.core], hmodes⟩

theorem engineReads_of_view {s t : State} (h : engView t = engView s) (hctxs : t.core.bank.ctxs = s.core.bank.ctxs) : EngineReads s t := by
  have hms : (engView t).ms = (engView s).ms := by rw [h]
  exact ⟨h ▸ .refl _, hctxs, keepsModes_of (by unfold replicas; exact hms ▸ rfl)⟩

/-- Accesses made one after another. -/
theorem engine_foldl {β : Type} {f : State → β → State} {g : β → Nat → Byte → Byte} {s : State} :
    ∀ {l : List β} {h : Nat → Byte → Byte} {t : State}, (∀ x ∈ l, ∀ h t, Engine h s t → Engine (g x) t (f t x)) → Engine h s t →
      Engine (fun a v => l.foldl (fun v x => g x a v) v) t (l.foldl f t)
  | [], _, t, _, _ => .refl t
  | x :: l, h, t, hf, ht => by
    have hx := hf x List.mem_cons_self h t ht
    exact hx.trans (engine_foldl (fun y hy => hf y (List.mem_cons_of_mem _ hy)) (ht.trans hx))

section Transport
variable {g : Nat → Byte → Byte} {s t : State} (h : Engine g s t)
include h

theorem Engine.place (va : Word) (n : Nat) (acc : Acc) : engPlace t va n acc = engPlace { s with mem := t.mem } va n acc := by
  rw [← engPlace_engView t, engPlace_of_apart (s := engView s) (t := engView t) h.lands.toApart]
  exact engPlace_engView { s with mem := t.mem } va n acc

theorem Engine.pkg : t.pkg = s.pkg := h.lands.pkg

theorem Engine.heldW : t.ms.heldW = s.ms.heldW := h.lands.heldW

theorem Engine.lineHeld {l : Nat} (hrepl : isRepl s l = false) : lineHeld t l = lineHeld s l := by
  unfold Machine.lineHeld writeHeld
  rw [h.modes.sharers l hrepl, h.heldW]

/-- The core stays but for L1 and banks. -/
theorem Engine.core : t.core = { s.core with l1 := t.core.l1, bank := t.core.bank, shadow := t.core.shadow } :=
  congrArg (fun c : Core => { c with l1 := t.core.l1, bank := t.core.bank, shadow := t.core.shadow }) h.lands.core

/-- A range that is to be written lies where it lay. -/
theorem Engine.flat (hlist : s.ms.poisonList = []) {va : Word} {n k : Nat} (hf : Say.Flat s va n .write k) : Say.Flat t va n .write k := by
  obtain ⟨hparts, hbytes⟩ := hf
  refine ⟨fun p hp m => ?_, fun i hi => ?_⟩
  · obtain ⟨q, hq, hkey, hpoison, hhost⟩ := hparts p hp m
    have hplace : engPlace { t with mem := m } (va + BitVec.ofNat 64 p.1) p.2 .write = .ok q := by
      have hm : Engine (fun _ v => v) { s with mem := m } { t with mem := m } :=
        ⟨⟨⟨h.lands.core, h.lands.cores, h.lands.pkg, h.lands.fab, h.lands.io, h.lands.root, h.lands.heldW, h.lands.twigTlb⟩,
          h.lands.listed, h.lands.poison,
          fun _ hwf => ⟨hwf, fun _ _ => rfl⟩⟩, h.ctxs, h.modes.sharers, h.modes.repl⟩
      rw [hm.place]
      exact hq
    refine ⟨q, hplace, hkey, ?_, ?_⟩
    · refine List.any_eq_false.mpr fun l hl => ?_
      exact List.any_eq_false.mp hpoison l (h.lands.poison hlist l hl)
    · unfold hostFails at hhost ⊢
      rw [h.core]
      exact hhost
  · obtain ⟨hplain, hheld, hrepl⟩ := hbytes i hi
    exact ⟨(plain_congr h.pkg _).mpr hplain, (h.lineHeld (hrepl rfl)).trans hheld, fun hacc => h.modes.repl _ (hrepl hacc)⟩

end Transport

/-! ### Writes of an engine (R215, R221, R377) -/

theorem engine_performChunk {how : Placing} {k : Nat} {bs : List Byte} {s : State} (hheld : lineHeld s (lineOf k) = false) :
    Engine (overwrite k bs) s (performChunk how k bs s) := by
  rw [performChunk, hheld, if_neg Bool.false_ne_true]
  exact engine_of_lands (lands_performFrom ..) (keepsModes_performNow ..)

/-- A chunk of a run begins inside it. -/
theorem chunksF_within : ∀ {n k : Nat} {bs : List Byte} {c : Nat × List Byte}, c ∈ chunksF n k bs → k ≤ c.1 ∧ c.1 < k + bs.length
  | 0, _, _, _, h => absurd h (by simp [chunksF])
  | _ + 1, _, [], _, h => absurd h (by simp [chunksF])
  | n + 1, k, b :: bs, c, h => by
    rw [chunksF] at h
    rcases List.mem_cons.mp h with rfl | h
    · exact ⟨Nat.le_refl _, by simp⟩
    · obtain ⟨hlo, hhi⟩ := chunksF_within h
      rw [List.length_drop] at hhi
      exact ⟨by omega, by omega⟩

/-- A run none of whose lines is held or in a REPL frame is performed. -/
theorem engine_performHow {how : Placing} {k : Nat} {bs : List Byte} {s : State}
    (hfree : ∀ i, i < bs.length → lineHeld s (lineOf (k + i)) = false ∧ isRepl s (lineOf (k + i)) = false) :
    Engine (overwrite k bs) s (performHow how k bs s) := by
  refine (engine_foldl (fun c hc h t ht => ?_) (.refl s)).congr (foldl_overwrite_chunksF _ k bs le_rfl)
  obtain ⟨hlo, hhi⟩ := chunksF_within hc
  obtain ⟨i, hi⟩ := Nat.exists_eq_add_of_le hlo
  obtain ⟨hheld, hrepl⟩ := hfree i (by omega)
  rw [← hi] at hheld hrepl
  exact engine_performChunk ((ht.lineHeld hrepl).trans hheld)

theorem dropL1_view (k n : Nat) (s : State) : engView (dropL1 k n s) = engView s ∧ (dropL1 k n s).core.bank = s.core.bank := by
  unfold dropL1
  split <;> exact ⟨rfl, rfl⟩

theorem engine_engLand {q : Place} {bs : List Byte} {s : State}
    (hfree : ∀ i, i < bs.length → lineHeld s (lineOf (q.key + i)) = false ∧ isRepl s (lineOf (q.key + i)) = false) :
    Engine (overwrite q.key bs) s (engLand q bs s) := by
  unfold engLand
  split
  · obtain ⟨hview, hbank⟩ := dropL1_view q.key bs.length (performHow ⟨inSlice q, false, false, q.bark⟩ q.key bs s)
    exact (engine_performHow hfree).trans (engineReads_of_view hview (by rw [hbank]))
  · exact engine_performHow hfree

theorem engineReads_visitLine (line : Nat) (s : State) : EngineReads s (visitLine line s) := by
  unfold visitLine
  split
  · exact .refl s
  · exact engine_of_lands (landsNothing_visit ..) (keepsModes_of rfl)

theorem engineReads_countSent (s : State) : EngineReads s (countSent s) := engineReads_of_view rfl rfl
theorem engineReads_countRecv (s : State) : EngineReads s (countRecv s) := engineReads_of_view rfl rfl

theorem engine_engPutAt {q : Place} {bs : List Byte} {s : State}
    (hfree : ∀ i, i < bs.length → lineHeld s (lineOf (q.key + i)) = false ∧ isRepl s (lineOf (q.key + i)) = false) :
    Engine (overwrite q.key bs) s (engPutAt q bs s) := by
  unfold engPutAt
  have hsent : EngineReads s (if q.loc == .own then s else countSent (visitLine (lineOf q.key) s)) := by
    split
    · exact .refl s
    · exact (engineReads_visitLine ..).trans (engineReads_countSent _)
  generalize (if q.loc == .own then s else countSent (visitLine (lineOf q.key) s)) = t at hsent
  refine hsent.trans (engine_engLand fun i hi => ?_)
  obtain ⟨hheld, hrepl⟩ := hfree i hi
  exact ⟨(hsent.lineHeld hrepl).trans hheld, hsent.modes.repl _ hrepl⟩

theorem Consecutive.within {hi : Nat} : ∀ {ps : List (Nat × Nat)} {lo : Nat} {p : Nat × Nat},
    Consecutive lo ps hi → p ∈ ps → lo ≤ p.1 ∧ p.1 + p.2 ≤ hi
  | q :: ps, lo, p, ⟨hlo, _, h⟩, hp => by
    rcases List.mem_cons.mp hp with rfl | hp
    · exact ⟨Nat.le_of_eq hlo.symm, hlo ▸ h.le⟩
    · obtain ⟨hl, hr⟩ := h.within hp
      exact ⟨by omega, hr⟩

/-- A write to a flat range lands there. -/
theorem engine_engPut {va : Word} {k : Nat} {bs : List Byte} {s : State} (hf : Say.Flat s va bs.length .write k) :
    Engine (overwrite k bs) s (engPut va bs s) := by
  obtain ⟨hparts, hbytes⟩ := hf
  refine (engine_foldl (g := fun p => overwrite (k + p.1) ((bs.drop p.1).take p.2)) (fun p hp h t ht => ?_) (.refl s)).congr fun a v =>
    foldl_overwrite_consecutive k bs a rfl (consecutive_lineParts va bs.length) v
  obtain ⟨q, hq, hkey, -⟩ := hparts p hp t.mem
  obtain ⟨-, hhi⟩ := (consecutive_lineParts va bs.length).within hp
  rw [ht.place, hq, ← hkey]
  refine engine_engPutAt fun i hi => ?_
  have hlen : ((bs.drop p.1).take p.2).length ≤ p.2 := List.length_take_le ..
  obtain ⟨-, hheld, hrepl⟩ := hbytes (p.1 + i) (by omega)
  rw [hkey, Nat.add_assoc]
  exact ⟨(ht.lineHeld (hrepl rfl)).trans hheld, ht.modes.repl _ (hrepl rfl)⟩

/-! ### Reads of an engine (R148, R154, R257, R377) -/

theorem engineReads_enterRead (line : Nat) (how : Placing) (s : State) : EngineReads s (enterRead line how s) := by
  have hcount : ∀ die, EngineReads s (if readSlice s line = homeSlice (line * 128) then countFrame line die false s else s) := fun die => by
    split
    · exact engine_of_lands (landsNothing_countFrame ..) (keepsModes_countFrame ..)
    · exact .refl s
  unfold enterRead enterReadAt
  split
  · exact .refl s
  · dsimp only
    split
    · exact (hcount _).trans (engine_of_lands (landsNothing_modSlice ..) (keepsModes_of rfl))
    · exact hcount _

theorem engineReads_shareRead (line : Nat) (s : State) : EngineReads s (shareRead line s) := by
  refine engine_of_lands ?_ (keepsModes_shareRead ..)
  unfold shareRead
  dsimp only
  split
  · unfold addSharer
    dsimp only
    split
    · exact .refl s
    · exact landsNothing_modMs rfl rfl rfl
  · exact .refl s

theorem engineReads_noteLine (q : Place) (once : Bool) (s : State) : EngineReads s (noteLine q once s) := by
  have hcounted : EngineReads s (countRecv (countSent s)) := (engineReads_countSent s).trans (engineReads_countRecv _)
  unfold noteLine
  split
  · exact .refl s
  · dsimp only
    split
    · exact ((hcounted.trans (engine_of_lands (landsNothing_visit ..) (keepsModes_of rfl))).trans (engineReads_shareRead ..)).trans (engineReads_enterRead ..)
    · exact hcounted.trans (engineReads_visitLine ..)

theorem engineReads_noteRead (va : Word) (n : Nat) (once : Bool) (s : State) : EngineReads s (noteRead va n once s) := by
  have hparts := engine_foldl (g := fun _ _ v => v) (l := lineParts va n) (f := fun s p => match engPlace s (va + BitVec.ofNat 64 p.1) p.2 .read with
    | .error _ => s
    | .ok q => noteLine q once s) (fun p _ h t _ => by
      split
      · exact .refl t
      · exact engineReads_noteLine ..) (.refl s)
  exact hparts.congr fun a v => by simp

end Sys2Proof.Machine
end

section
/-! SUPPORT. Runs of bytes that an engine moves: where they go, what of them overlaps, and the checksum over them (R340, R377, R378, R382,
R384, R385). -/

namespace Sys2Proof.Machine

/-! ### Runs written one after another -/

/-- What a byte reads as after `l` runs have been written, one after another. -/
def overwriteRuns (kd : Nat → Nat) (bs : Nat → List Byte) (l a : Nat) (v : Byte) : Byte :=
  (List.range l).foldl (fun v r => overwrite (kd r) (bs r) a v) v

section Runs
variable {kd : Nat → Nat} {bs : Nat → List Byte}

theorem overwriteRuns_succ (l a : Nat) (v : Byte) :
    overwriteRuns kd bs (l + 1) a v = overwrite (kd l) (bs l) a (overwriteRuns kd bs l a v) := by
  simp [overwriteRuns, List.range_succ]

theorem overwriteRuns_out {a : Nat} (v : Byte) : ∀ {l : Nat}, (∀ r, r < l → a < kd r ∨ kd r + (bs r).length ≤ a) → overwriteRuns kd bs l a v = v
  | 0, _ => rfl
  | l + 1, h => by
    rw [overwriteRuns_succ, overwrite_out (h l (Nat.lt_succ_self l)), overwriteRuns_out v fun r hr => h r (Nat.lt_succ_of_lt hr)]

theorem overwriteRuns_in {r i : Nat} (v : Byte) (hi : i < (bs r).length) : ∀ {l : Nat}, r < l →
    (∀ q, q < l → q ≠ r → kd r + i < kd q ∨ kd q + (bs q).length ≤ kd r + i) → overwriteRuns kd bs l (kd r + i) v = (bs r).getD i 0
  | l + 1, hr, h => by
    rw [overwriteRuns_succ]
    by_cases hl : r = l
    · rw [← hl, overwrite_in hi]
    · rw [overwrite_out (h l (Nat.lt_succ_self l) (Ne.symm hl)),
        overwriteRuns_in v hi (by omega) fun q hq => h q (Nat.lt_succ_of_lt hq)]

/-- Runs of `n` bytes at places apart from one another stand there, and every byte elsewhere as before. -/
theorem Engine.moved {l n : Nat} {s t : State} (h : Engine (overwriteRuns kd bs l) s t) (hlist : s.ms.poisonList = []) (hwf : Memory.wf s.mem = true)
    (hlen : ∀ r, r < l → (bs r).length = n) (hplain : ∀ r x, r < l → x < n → Say.plain s (kd r + x))
    (hapart : ∀ r q, r < l → q < l → r ≠ q → kd r + n ≤ kd q ∨ kd q + n ≤ kd r) :
    (∀ r x, r < l → x < n → memGet t.mem (kd r + x) = (bs r).getD x 0)
      ∧ ∀ a, Say.plain s a → (∀ r, r < l → a < kd r ∨ kd r + n ≤ a) → memGet t.mem a = memGet s.mem a := by
  obtain ⟨-, hbytes⟩ := h.lands.bytes hlist hwf
  have hbytes : ∀ a, Say.plain s a → memGet t.mem a = overwriteRuns kd bs l a (memGet s.mem a) := hbytes
  refine ⟨fun r x hr hx => ?_, fun a ha hout => ?_⟩
  · rw [hbytes _ (hplain r x hr hx), overwriteRuns_in _ (by rwa [hlen r hr]) hr fun q hq hne => ?_]
    rw [hlen q hq]
    have := hapart r q hr hq (Ne.symm hne)
    omega
  · rw [hbytes a ha, overwriteRuns_out _ fun r hr => ?_]
    rw [hlen r hr]
    exact hout r hr

end Runs

/-! ### Bytes that are source and destination at once (R382) -/

/-- The parts of a flat range lie within its keys. -/
theorem engPlaces_within {s : State} {va : Word} {n k : Nat} {acc : Acc} (hf : Say.Flat s va n acc k) {w : Place × Nat}
    (hw : w ∈ engPlaces s va n acc) : k ≤ w.1.key ∧ w.1.key + w.2 ≤ k + n := by
  obtain ⟨p, hp, hplace⟩ := List.mem_filterMap.mp hw
  obtain ⟨q, hq, hkey, -⟩ := hf.1 p hp s.mem
  have hq : engPlace s _ _ _ = .ok q := hq
  obtain ⟨-, hhi⟩ := (consecutive_lineParts va n).within hp
  rw [hq] at hplace
  cases hplace
  dsimp only
  omega

/-- Parts that do not overlap have none in common. -/
theorem commonParts_eq_nil {ws rs : List (Place × Nat)} (h : ∀ w ∈ ws, ∀ r ∈ rs, w.1.key + w.2 ≤ r.1.key ∨ r.1.key + r.2 ≤ w.1.key) :
    commonParts ws rs = [] := by
  unfold commonParts
  rw [List.flatMap_eq_nil_iff]
  intro w hw
  rw [List.filterMap_eq_nil_iff]
  intro r hr
  have := h w hw r hr
  dsimp only
  rw [if_neg (by omega)]

theorem scramble_nil (s : State) : scramble [] s = s := rfl

/-! ### The byte that dinject changes (R340) -/

@[simp] theorem length_injectBytes (e : Entry) (at_ : Nat) (bs : List Byte) : (injectBytes e at_ bs).length = bs.length := by
  unfold injectBytes
  split
  · rfl
  · simp

/-- A byte that is read, dinject's bit inverted. -/
theorem getD_injectBytes (e : Entry) (at_ : Nat) {bs : List Byte} {x : Nat} (hx : x < bs.length) :
    (injectBytes e at_ bs).getD x 0 = bs.getD x 0 ^^^ Say.flip e (at_ + x) := by
  unfold injectBytes Say.flip
  cases e.inject with
  | none => simp
  | some i =>
    simp only [List.getD_eq_getElem?_getD, List.getElem?_mapIdx, List.getElem?_eq_getElem hx, Option.map_some, Option.getD_some]
    split
    · rfl
    · simp

theorem getD_memRead (m : List Host.Cell) (k : Nat) {n x : Nat} (hx : x < n) : (memRead m k n).getD x 0 = memGet m (k + x) := by
  simp [memRead, hx]

theorem engineReads_modBankOf (b : Bool) {f : Bank → Bank} (hctxs : ∀ k, (f k).ctxs = k.ctxs) (s : State) :
    EngineReads s (modCore (·.modBankOf b f) s) := by
  unfold modCore Core.modBankOf
  dsimp only
  split
  · exact engineReads_of_view rfl (hctxs _)
  · exact engineReads_of_view rfl rfl

theorem engineReads_fireInject (e : Entry) (at_ n : Nat) (s : State) : EngineReads s (fireInject e at_ n s) := by
  unfold fireInject
  split
  · exact .refl s
  · split
    · refine engineReads_modBankOf e.bank ?_ s
      exact fun _ => rfl
    · exact .refl s

/-! ### A transfer in segments (R378) -/

theorem segsBad_eq_none {s : State} {gen : BitVec 8} : ∀ {l : List (Word × List Byte)} {off : Nat},
    (∀ x ∈ l, engBad s x.1 x.2.length gen = none) → segsBad s gen off l = none
  | [], _, _ => rfl
  | x :: l, off, h => by
    obtain ⟨hx, hl⟩ := List.forall_mem_cons.mp h
    rw [segsBad, hx]
    exact segsBad_eq_none hl

/-- Runs of bytes that are stored at flat places. -/
theorem engine_engStoreSegsTo {dst : Nat → Word} {bs : Nat → List Byte} {kd : Nat → Nat} {l : Nat} {gen : BitVec 8} {s t : State}
    (hlist : s.ms.poisonList = []) (hread : EngineReads s t) (hflat : ∀ r, r < l → Say.Flat s (dst r) (bs r).length .write (kd r)) :
    ∃ u, engStoreSegsTo ((List.range l).map fun r => (dst r, bs r)) none gen t = (Result.ok, u) ∧ Engine (overwriteRuns kd bs l) s u := by
  have hgood : segsBad t gen 0 ((List.range l).map fun r => (dst r, bs r)) = none := segsBad_eq_none fun x hx => by
    obtain ⟨r, hr, rfl⟩ := List.mem_map.mp hx
    exact engBad_of_flat (hread.flat hlist (hflat r (List.mem_range.mp hr))) gen
  unfold engStoreSegsTo
  rw [hgood]
  refine ⟨_, rfl, ?_⟩
  rw [List.foldl_map]
  have hput : Engine (fun a v => (List.range l).foldl (fun v r => overwrite (kd r) (bs r) a v) v) t
      ((List.range l).foldl (fun s r => engPut (dst r) (bs r) s) t) :=
    engine_foldl (h := fun _ v => v) (s := s) (g := fun r => overwrite (kd r) (bs r)) (fun r hr h u hu =>
      engine_engPut (hu.flat hlist (hflat r (List.mem_range.mp hr)))) hread
  exact hread.trans hput

/-! ### What a repeat reads (R382, R384, R385) -/

/-- The bytes of repeat `r`, of `n` bytes at memory key `k`, as they are moved. -/
def runBytes (e : Entry) (s : State) (n : Nat) (ks : Nat → Nat) (r : Nat) : List Byte := injectBytes e (r * n) (memRead s.mem (ks r) n)

@[simp] theorem length_runBytes (e : Entry) (s : State) (n : Nat) (ks : Nat → Nat) (r : Nat) : (runBytes e s n ks r).length = n := by
  simp [runBytes]

theorem getD_runBytes (e : Entry) (s : State) {n x : Nat} (ks : Nat → Nat) (r : Nat) (hx : x < n) :
    (runBytes e s n ks r).getD x 0 = memGet s.mem (ks r + x) ^^^ Say.flip e (r * n + x) := by
  rw [runBytes, getD_injectBytes _ _ (by simpa using hx), getD_memRead _ _ hx]

theorem runBytes_clean {e : Entry} (h : e.inject = none) (s : State) (n : Nat) (ks : Nat → Nat) (r : Nat) :
    runBytes e s n ks r = memRead s.mem (ks r) n := injectBytes_none h ..

/-- `l` repeats of a copy of `n` bytes. -/
def repeats (src : Nat → Word) (dest : Nat → Option Word) (n : Nat) (conv : List Byte → List Byte) (total : Nat) (once : Bool) (l : Nat) :
    List (Nat × CopyRep) :=
  (List.range l).map fun r => (r * n, ⟨src r, dest r, n, conv, total, once⟩)

theorem repeats_succ (src : Nat → Word) (dest : Nat → Option Word) (n : Nat) (conv : List Byte → List Byte) (total : Nat) (once : Bool) (l : Nat) :
    repeats src dest n conv total once (l + 1)
      = repeats src dest n conv total once l ++ [(l * n, ⟨src l, dest l, n, conv, total, once⟩)] := by
  simp [repeats, List.range_succ]

/-- Sources and destinations of `l` repeats, in memory; no destination overlaps a source or another destination. -/
structure Moves (s : State) (src dst : Nat → Word) (n m l : Nat) (ks kd : Nat → Nat) : Prop where
  src : ∀ r, r < l → Say.Flat s (src r) n .read (ks r)
  dst : ∀ r, r < l → Say.Flat s (dst r) m .write (kd r)
  apart : ∀ r q, r < l → q < l → (r ≠ q → kd r + m ≤ kd q ∨ kd q + m ≤ kd r) ∧ (kd r + m ≤ ks q ∨ ks q + n ≤ kd r)

section Moves
variable {s : State} {src dst : Nat → Word} {n m l : Nat} {ks kd : Nat → Nat} (h : Moves s src dst n m l ks kd)
include h

/-- Nothing that was written is a source. -/
theorem Moves.common {ws rs : List (Place × Nat)} (hws : ∀ w ∈ ws, ∃ r, r < l ∧ kd r ≤ w.1.key ∧ w.1.key + w.2 ≤ kd r + m)
    (hrs : ∀ w ∈ rs, ∃ r, r < l ∧ ks r ≤ w.1.key ∧ w.1.key + w.2 ≤ ks r + n) : commonParts ws rs = [] :=
  commonParts_eq_nil fun w hw v hv => by
    obtain ⟨r, hr, hlo, hhi⟩ := hws w hw
    obtain ⟨q, hq, hlo', hhi'⟩ := hrs v hv
    obtain ⟨-, hapart⟩ := h.apart r q hr hq
    omega

/-- The parts of the sources lie within their keys. -/
theorem Moves.sources {dest : Nat → Option Word} {conv : List Byte → List Byte} {total : Nat} {once : Bool} {w : Place × Nat}
    (hw : w ∈ (repeats src dest n conv total once l).flatMap fun p => engPlaces s p.2.src p.2.len .read) :
    ∃ r, r < l ∧ ks r ≤ w.1.key ∧ w.1.key + w.2 ≤ ks r + n := by
  rw [repeats, List.flatMap_map] at hw
  obtain ⟨r, hr, hw⟩ := List.mem_flatMap.mp hw
  have hr := List.mem_range.mp hr
  exact ⟨r, hr, engPlaces_within (h.src r hr) hw⟩

/-- What was moved stands at the destinations, and all other memory as before. -/
theorem Moves.memory {bs : Nat → List Byte} {t : State} (ht : Engine (overwriteRuns kd bs l) s t) (hlist : s.ms.poisonList = [])
    (hwf : Memory.wf s.mem = true) (hlen : ∀ r, r < l → (bs r).length = m) :
    (∀ r x, r < l → x < m → memGet t.mem (kd r + x) = (bs r).getD x 0)
      ∧ ∀ a, Say.plain s a → (∀ r, r < l → a < kd r ∨ kd r + m ≤ a) → memGet t.mem a = memGet s.mem a :=
  ht.moved hlist hwf hlen (fun r x hr hx => ((h.dst r hr).2 x hx).1) fun r q hr hq => (h.apart r q hr hq).1

end Moves

/-! ### CPY, repeat by repeat (R382) -/

/-- A CPY has done its first `j` repeats. -/
structure RepsDone (s : State) (kd : Nat → Nat) (out : Nat → List Byte) (m j : Nat) (x : CopyRun) : Prop where
  res : x.res = Result.ok
  st : Engine (overwriteRuns kd out j) s x.st
  wrote : ∀ w ∈ x.wrote, ∃ r, r < j ∧ kd r ≤ w.1.key ∧ w.1.key + w.2 ≤ kd r + m

/-- One more repeat. -/
theorem RepsDone.next {e : Entry} {s : State} {out : Nat → List Byte} {kd ks : Nat → Nat} {n m j : Nat} {x : CopyRun} {src dst : Word}
    {conv : List Byte → List Byte} {once : Bool} (hx : RepsDone s kd out m j x) (hlist : s.ms.poisonList = []) (hsrc : Say.Flat s src n .read (ks j))
    (hdst : Say.Flat s dst m .write (kd j)) (hout : conv (runBytes e s n ks j) = out j) (hlen : (out j).length = m) :
    RepsDone s kd out m (j + 1) (copyRep s e (j * n) noSum ⟨src, some dst, n, conv, m, once⟩ x) := by
  have hread : EngineReads x.st (fireInject e (j * n) (runBytes e s n ks j).length (noteRead src (runBytes e s n ks j).length once x.st)) :=
    (engineReads_noteRead ..).trans (engineReads_fireInject ..)
  have hgoing : x.going = true := by rw [CopyRun.going, hx.res]; rfl
  unfold copyRep
  simp only [hgoing, Bool.not_true, Bool.false_eq_true, if_false, engRead_of_flat hsrc]
  rw [← runBytes]
  generalize fireInject e (j * n) _ _ = t at hread ⊢
  have ht := hx.st.trans hread
  have hflat : Say.Flat t dst m .write (kd j) := ht.flat hlist hdst
  have hstore : engStore dst (out j) m none 0x71 t = (Result.ok, engPut dst (out j) t) := by
    unfold engStore engStoreTo
    rw [engBad_of_flat hflat]
  rw [hout, hstore]
  refine ⟨rfl, (ht.trans (engine_engPut (hlen ▸ hflat))).congr fun a v => (overwriteRuns_succ j a v).symm, fun w hw => ?_⟩
  rcases List.mem_append.mp hw with hw | hw
  · obtain ⟨r, hr, hkeys⟩ := hx.wrote w hw
    exact ⟨r, Nat.lt_succ_of_lt hr, hkeys⟩
  · rw [hlen] at hw
    exact ⟨j, Nat.lt_succ_self j, engPlaces_within hflat hw⟩

/-- A CPY whose repeats do not overlap. -/
theorem repsDone_copyRun {e : Entry} {s : State} {src dst : Nat → Word} {n m l : Nat} {ks kd : Nat → Nat} {conv : List Byte → List Byte}
    {once : Bool} (h : Moves s src dst n m l ks kd) (hlist : s.ms.poisonList = [])
    (hlen : ∀ r, r < l → (conv (runBytes e s n ks r)).length = m) :
    RepsDone s kd (fun r => conv (runBytes e s n ks r)) m l (copyRun e noSum 0 (repeats src (fun r => some (dst r)) n conv m once l) s) := by
  have hreps : ∀ j, j ≤ l → RepsDone s kd (fun r => conv (runBytes e s n ks r)) m j
      ((repeats src (fun r => some (dst r)) n conv m once j).foldl (fun x p => copyRep s e p.1 noSum p.2 x) ⟨s, Result.ok, [], 0⟩) := by
    intro j
    induction j with
    | zero => exact fun _ => ⟨rfl, .refl s, fun w hw => absurd hw List.not_mem_nil⟩
    | succ j ih =>
      intro hj
      rw [repeats_succ, List.foldl_append]
      exact (ih (by omega)).next hlist (h.src j hj) (h.dst j hj) rfl (hlen j hj)
  have hx := hreps l le_rfl
  have hcommon := h.common hx.wrote fun w hw => h.sources (dest := fun r => some (dst r)) (conv := conv) (total := m) (once := once) hw
  unfold copyRun
  dsimp only
  rw [hcommon, scramble_nil]
  exact hx

/-! ### CPYS and CPYK: one transfer (R384, R385) -/

/-- The checksum over the first `j` repeats. -/
def sumRuns (sum : W32 → List Byte → W32) (ck : W32) (bs : Nat → List Byte) (j : Nat) : W32 := (List.range j).foldl (fun v r => sum v (bs r)) ck

/-- Where the first `j` repeats go. -/
def segments (dest : Nat → Option Word) (bs : Nat → List Byte) (j : Nat) : List (Word × List Byte) :=
  (List.range j).flatMap fun r => ((dest r).map fun d => (d, bs r)).toList

/-- The first repeats of a transfer have been read. -/
structure Gathers (s : State) (segs : List (Word × List Byte)) (ck : W32) (x : Gathered) : Prop where
  segs : x.segs = segs
  fail : x.fail = none
  st : EngineReads s x.st
  mem : x.st.mem = s.mem
  ck : x.ck = ck

theorem gathers_foldl {e : Entry} {s : State} {src : Nat → Word} {dest : Nat → Option Word} {n l : Nat} {ks : Nat → Nat}
    {sum : W32 → List Byte → W32} {ck : W32} {once : Bool} (hsrc : ∀ r, r < l → Say.Flat s (src r) n .read (ks r)) :
    Gathers s (segments dest (runBytes e s n ks) l) (sumRuns sum ck (runBytes e s n ks) l)
      ((repeats src dest n id n once l).foldl (gatherRep s e sum) ⟨[], none, s, ck⟩) := by
  have hreps : ∀ j, j ≤ l → Gathers s (segments dest (runBytes e s n ks) j) (sumRuns sum ck (runBytes e s n ks) j)
      ((repeats src dest n id n once j).foldl (gatherRep s e sum) ⟨[], none, s, ck⟩) := by
    intro j
    induction j with
    | zero => exact fun _ => ⟨rfl, rfl, .refl s, rfl, rfl⟩
    | succ j ih =>
      intro hj
      obtain ⟨hsegs, hfail, hst, hmem, hck⟩ := ih (by omega)
      rw [repeats_succ, List.foldl_append]
      generalize List.foldl (gatherRep s e sum) _ _ = x at hsegs hfail hst hmem hck ⊢
      simp only [List.foldl_cons, List.foldl_nil, gatherRep, hfail, Option.isSome_none, Bool.false_eq_true, if_false,
        engRead_of_flat (hsrc j hj)]
      rw [← runBytes]
      refine ⟨?_, rfl, (hst.trans (engineReads_noteRead ..)).trans (engineReads_fireInject ..), ?_, ?_⟩
      · dsimp only
        rw [hsegs]
        simp [segments, List.range_succ]
      · exact (fireInject_mem ..).trans ((noteRead_mem ..).trans hmem)
      · dsimp only
        rw [hck]
        simp [sumRuns, List.range_succ]
  exact hreps l le_rfl

/-- A transfer whose repeats do not overlap. -/
theorem runCopy_moves {e : Entry} {s : State} {src dst : Nat → Word} {n l : Nat} {ks kd : Nat → Nat} {sum : W32 → List Byte → W32} {ck : W32}
    {once : Bool} (h : Moves s src dst n n l ks kd) (hlist : s.ms.poisonList = []) :
    let x := runCopy e sum ck (repeats src (fun r => some (dst r)) n id n once l) s
    x.res = Result.ok ∧ Engine (overwriteRuns kd (runBytes e s n ks) l) s x.st ∧ x.ck = sumRuns sum ck (runBytes e s n ks) l := by
  obtain ⟨hsegs, hfail, hst, -, hck⟩ := gathers_foldl (e := e) (dest := fun r => some (dst r)) (sum := sum) (ck := ck) (once := once) h.src
  have hsegments : segments (fun r => some (dst r)) (runBytes e s n ks) l = (List.range l).map fun r => (dst r, runBytes e s n ks r) := by
    simp [segments, List.map_eq_flatMap]
  have hflat : ∀ r, r < l → Say.Flat s (dst r) (runBytes e s n ks r).length .write (kd r) := fun r hr => by
    rw [length_runBytes]
    exact h.dst r hr
  unfold runCopy
  dsimp only
  generalize List.foldl (gatherRep s e sum) _ _ = x at hsegs hfail hst hck ⊢
  obtain ⟨u, hu, hwrote⟩ := engine_engStoreSegsTo (gen := 0x71) hlist hst hflat
  rw [hsegments] at hsegs
  rw [hsegs, hfail, hu]
  have hcommon := h.common (ws := ((List.range l).map fun r => (dst r, runBytes e s n ks r)).flatMap fun p => engPlaces s p.1 p.2.length .write)
    (fun w hw => by
      rw [List.flatMap_map] at hw
      obtain ⟨r, hr, hw⟩ := List.mem_flatMap.mp hw
      rw [length_runBytes] at hw
      have hr := List.mem_range.mp hr
      exact ⟨r, hr, engPlaces_within (h.dst r hr) hw⟩)
    fun w hw => h.sources (dest := fun r => some (dst r)) (conv := id) (total := n) (once := once) hw
  dsimp only
  rw [hcommon, scramble_nil]
  exact ⟨rfl, hwrote, hck⟩

/-- A transfer that writes nothing. -/
theorem runCopy_reads {e : Entry} {s : State} {src : Nat → Word} {n l : Nat} {ks : Nat → Nat} {sum : W32 → List Byte → W32} {ck : W32}
    {once : Bool} (hsrc : ∀ r, r < l → Say.Flat s (src r) n .read (ks r)) :
    let x := runCopy e sum ck (repeats src (fun _ => none) n id n once l) s
    x.res = Result.ok ∧ EngineReads s x.st ∧ x.st.mem = s.mem ∧ x.ck = sumRuns sum ck (runBytes e s n ks) l := by
  obtain ⟨hsegs, hfail, hst, hmem, hck⟩ := gathers_foldl (e := e) (dest := fun _ => none) (sum := sum) (ck := ck) (once := once) hsrc
  have hsegments : segments (fun _ => none) (runBytes e s n ks) l = [] := by simp [segments]
  unfold runCopy
  dsimp only
  generalize List.foldl (gatherRep s e sum) _ _ = x at hsegs hfail hst hmem hck ⊢
  rw [hsegs, hsegments, hfail]
  exact ⟨rfl, hst, hmem, hck⟩

/-! ### Checksums over runs (R385) -/

theorem crc32c_append (v : W32) (a b : List Byte) : crc32c v (a ++ b) = crc32c (crc32c v a) b := by
  simp [crc32c, List.foldl_append]

/-- One byte of Adler-32. -/
def adlerByte (p : Nat × Nat) (x : Byte) : Nat × Nat := ((p.1 + x.toNat) % 65521, (p.2 + (p.1 + x.toNat) % 65521) % 65521)

theorem adler_eq (v : W32) (bs : List Byte) :
    adler v bs = (let p := bs.foldl adlerByte (v.toNat % 65536, v.toNat / 65536); BitVec.ofNat 32 (p.2 * 65536 + p.1)) := rfl

theorem foldl_adlerByte_lt : ∀ (bs : List Byte) {p : Nat × Nat}, p.1 < 65536 → p.2 < 65536 →
    (bs.foldl adlerByte p).1 < 65536 ∧ (bs.foldl adlerByte p).2 < 65536
  | [], _, h1, h2 => ⟨h1, h2⟩
  | x :: bs, p, _, _ => foldl_adlerByte_lt bs (by unfold adlerByte; dsimp only; omega) (by unfold adlerByte; dsimp only; omega)

theorem adler_append (v : W32) (a b : List Byte) : adler v (a ++ b) = adler (adler v a) b := by
  have hv := v.isLt
  obtain ⟨h1, h2⟩ := foldl_adlerByte_lt a (p := (v.toNat % 65536, v.toNat / 65536)) (by omega) (by omega)
  rw [adler_eq v (a ++ b), adler_eq (adler v a) b, adler_eq v a, List.foldl_append]
  generalize List.foldl adlerByte (v.toNat % 65536, v.toNat / 65536) a = p at h1 h2
  obtain ⟨x, y⟩ := p
  dsimp only at h1 h2 ⊢
  rw [BitVec.toNat_ofNat, show (y * 65536 + x) % 2 ^ 32 % 65536 = x by omega, show (y * 65536 + x) % 2 ^ 32 / 65536 = y by omega]

theorem adler_nil (v : W32) : adler v [] = v := by
  have hv := v.isLt
  refine BitVec.eq_of_toNat_eq ?_
  rw [adler_eq, BitVec.toNat_ofNat]
  dsimp only [List.foldl_nil]
  omega

/-- The checksum over the repeats one after another is that over all their bytes. -/
theorem sumRuns_ckSum (c : Cmd) (v : W32) (bs : Nat → List Byte) (j : Nat) :
    sumRuns (ckSum c) v bs j = Say.checksum c v ((List.range j).flatMap bs) := by
  have hsum : ∀ w xs, ckSum c w xs = Say.checksum c w xs := fun w xs => by
    unfold ckSum Say.checksum
    split <;> rfl
  have hnil : ∀ w, Say.checksum c w [] = w := fun w => by
    unfold Say.checksum
    split
    · simp [crc32c]
    · exact adler_nil w
  have happend : ∀ w xs ys, Say.checksum c w (xs ++ ys) = Say.checksum c (Say.checksum c w xs) ys := fun w xs ys => by
    unfold Say.checksum
    split
    · exact crc32c_append ..
    · exact adler_append ..
  induction j with
  | zero => exact (hnil v).symm
  | succ j ih =>
    unfold sumRuns at ih ⊢
    rw [List.range_succ, List.foldl_append, ih, List.flatMap_append, happend, List.flatMap_singleton]
    exact hsum ..

/-! ### A command that its engine has carried out (R135, R252, R257) -/

/-- An entry as its engine leaves it. -/
def workedWith (r : Result) (x : Entry) : Entry :=
  { x with st := .worked, status := r.status, tval := r.tval, seqField := r.seqField, srcBad := r.status != 0 && r.srcBad }

theorem work_runs {q : Queue} {opc : Nat} {e : Entry} {s : State} (h : Say.Runs q opc e s) (f : Entry → State → Result × State) :
    work q opc e.bank e.seq f s = .next (modEntry q e.ord (workedWith (f e s).1) (creditBank e.bank s (f e s).2)) := by
  obtain ⟨hclaim, hloose, -⟩ := h
  have hfind := findEntry_single (single_of_claimed hclaim)
  obtain ⟨-, hst, hcancel, -, hopc, hgo, -⟩ := hclaim
  unfold work throughLoose
  simp [hfind, hst, hcancel, hopc, hgo, hloose]
  rfl

theorem engineReads_creditBank (b : Bool) (s t : State) : EngineReads t (creditBank b s t) := by
  unfold creditBank
  split
  · exact .refl t
  · exact engineReads_of_view rfl rfl

theorem creditBank_queue (b : Bool) (s t : State) (q : Queue) : (creditBank b s t).core.queue q = t.core.queue q := by
  unfold creditBank
  split
  · rfl
  · cases q <;> rfl

/-- What an engine leaves of its command and of the core. -/
theorem Engine.done {g : Nat → Byte → Byte} {s t : State} (h : Engine g s t) (q : Queue) (e : Entry) {r : Result} (hseq : r.seqField = none) :
    Say.Done q e r.status r.tval s (modEntry q e.ord (workedWith r) (creditBank e.bank s t)) := by
  have hcredit := h.trans (engineReads_creditBank e.bank s t)
  generalize creditBank e.bank s t = u at hcredit
  have hcore := hcredit.core
  have hqueue : ∀ p, u.core.queue p = s.core.queue p := fun p => by
    rw [hcore]
    cases p <;> rfl
  refine ⟨⟨r.status != 0 && r.srcBad, fun h0 => by simp [h0], ?_⟩, fun p hp => ?_, ?_, ?_, ?_⟩
  · rw [queue_modEntry, hqueue]
    unfold workedWith
    rw [hseq]
  · rw [queue_modEntry_other hp, hqueue]
  · have hcx : u.core.cx = s.core.cx := by rw [hcore]
    rw [← hcx]
    cases q <;> rfl
  · rw [← hcredit.ctxs]
    cases q <;> rfl
  · have hlocks : u.core.locks = s.core.locks := by rw [hcore]
    rw [modEntry_locks, hlocks]

/-- A command that its engine carries out ends with the engine's result, and leaves the memory that the engine leaves. -/
theorem work_ends {q : Queue} {opc : Nat} {e : Entry} {s t : State} {f : Entry → State → Result × State} {r : Result} {g : Nat → Byte → Byte}
    (h : Say.Runs q opc e s) (hf : f e s = (r, t)) (ht : Engine g s t) (hseq : r.seqField = none) :
    ∃ u, work q opc e.bank e.seq f s = .next u ∧ Say.Done q e r.status r.tval s u ∧ u.mem = t.mem := by
  refine ⟨_, work_runs h f, ?_, ?_⟩
  · rw [hf]
    exact ht.done q e hseq
  · rw [hf, modEntry_mem, creditBank_mem]

end Sys2Proof.Machine
end

section
/-! PROOF. Copy commands (R153, R189, R340, R382, R384 to R386). -/

namespace Sys2Proof.Proofs
open Sys2Proof Sys2Proof.Machine

section Engines
variable {e : Entry} {s : State}

/-! ### CPY (R382) -/

theorem exec_cpy_work (h : Say.Runs .cq 0x40 e s) (hfmt : e.cmd.fmtA ≠ 6) :
    exec (.cpy e.bank e.seq) s = work .cq 0x40 e.bank e.seq cpyWork s := by
  rw [exec_cpy, execCpy, findEntry_single (single_of_claimed h.1)]
  exact if_neg hfmt

theorem moves_of_copies {src dst : Nat → Word} {n m l : Nat} {ks kd : Nat → Nat}
    (hflat : ∀ r, r < l → Say.Flat s (src r) n .read (ks r) ∧ Say.Flat s (dst r) m .write (kd r))
    (hapart : ∀ r q, r < l → q < l → (r ≠ q → kd r + m ≤ kd q ∨ kd q + m ≤ kd r) ∧ (kd r + m ≤ ks q ∨ ks q + n ≤ kd r)) :
    Moves s src dst n m l ks kd :=
  ⟨fun r hr => (hflat r hr).1, fun r hr => (hflat r hr).2, hapart⟩

/-- A command that has moved bytes unconverted. -/
theorem moved_runBytes {src dst : Nat → Word} {n l : Nat} {ks kd : Nat → Nat} {t u : State} (h : Moves s src dst n n l ks kd)
    (ht : Engine (overwriteRuns kd (runBytes e s n ks) l) s t) (hu : u.mem = t.mem) (hlist : s.ms.poisonList = []) (hwf : Memory.wf s.mem = true) :
    (∀ r x, r < l → x < n → memGet u.mem (kd r + x) = memGet s.mem (ks r + x) ^^^ Say.flip e (r * n + x))
      ∧ ∀ a, Say.plain s a → (∀ r, r < l → a < kd r ∨ kd r + n ≤ a) → memGet u.mem a = memGet s.mem a := by
  obtain ⟨hin, hout⟩ := h.memory ht hlist hwf fun r _ => length_runBytes ..
  refine ⟨fun r x hr hx => ?_, fun a ha hapart => ?_⟩
  · rw [hu, hin r x hr hx, getD_runBytes e s ks r hx]
  · rw [hu, hout a ha hapart]

theorem copies_cpy (h : Say.Runs .cq 0x40 e s) (hfmt : e.cmd.fmtA = 0) :
    Say.Copies (.cpy e.bank e.seq) e e.cmd.c.toNat e.cmd.reps (Say.at e.cmd.b e.cmd.f) (Say.at e.cmd.a e.cmd.e) s (Say.Done .cq e 0 0 s) := by
  intro ks kd hwf hflat hapart
  have hmoves := moves_of_copies hflat hapart
  have hreps : cpyReps e.cmd = repeats (Say.at e.cmd.b e.cmd.f) (fun r => some (Say.at e.cmd.a e.cmd.e r)) e.cmd.c.toNat id e.cmd.c.toNat
      (e.cmd.flags.getLsbD 3) e.cmd.reps := by
    have hconv : cpyConv e.cmd = id := funext fun bs => if_pos hfmt
    unfold cpyReps
    dsimp only
    rw [hconv, if_pos hfmt]
    rfl
  obtain ⟨hres, hst, -⟩ := repsDone_copyRun (e := e) (conv := id) (once := e.cmd.flags.getLsbD 3) hmoves h.2.2 fun r _ => length_runBytes ..
  rw [← hreps] at hres hst
  obtain ⟨u, hu, hdone, hmem⟩ := work_ends h (Prod.ext hres rfl : cpyWork e s = (Result.ok, _)) hst rfl
  exact ⟨u, (exec_cpy_work h (by rw [hfmt]; decide)).trans hu, hdone, moved_runBytes hmoves hst hmem h.2.2 hwf⟩

/-! ### CPY with conversion (R189, R382) -/

theorem take_drop_flatMap_range {α : Type} {w : Nat} {f : Nat → List α} (hlen : ∀ i, (f i).length = w) {x : Nat} : ∀ {k : Nat}, x < k →
    (((List.range k).flatMap f).drop (w * x)).take w = f x
  | k + 1, hx => by
    have htotal : ∀ j, ((List.range j).flatMap f).length = w * j := fun j => by
      simp [List.length_flatMap, hlen, Nat.mul_comm]
    rw [List.range_succ, List.flatMap_append, List.flatMap_singleton]
    obtain rfl | hlt := (Nat.lt_succ_iff_lt_or_eq.mp hx).symm
    · rw [List.drop_left' (htotal x), List.take_of_length_le (hlen x).le]
    · have hle : w * x + w ≤ w * k := by rw [← Nat.mul_succ]; exact Nat.mul_le_mul_left w hlt
      rw [List.drop_append_of_le_length (by rw [htotal]; omega),
        List.take_append_of_le_length (by rw [List.length_drop, htotal]; omega)]
      exact take_drop_flatMap_range hlen hlt

/-- The elements that CPY writes for those of `n` bytes in memory. -/
theorem cpyConv_memRead {c : Cmd} (hfmt : c.fmtA ≠ 0) (m : List Host.Cell) (k n : Nat) :
    cpyConv c (memRead m k n) = (List.range (n / fmtWidth c.fmtA.toNat)).flatMap fun x => bytesOfNat (fmtWidth c.fmtB.toNat)
      (fmtConv c.fmtB.toNat (cpyMode c) (c.flags.getLsbD 2)
        (fmtDecode c.fmtA.toNat (natOfBytes (((memRead m k n).drop (fmtWidth c.fmtA.toNat * x)).take (fmtWidth c.fmtA.toNat))))) := by
  rw [cpyConv, if_neg hfmt, elemsIn, List.flatMap_map, length_memRead]

theorem memRead_eq_of_getD {m : List Host.Cell} {k : Nat} {bs : List Byte} (h : ∀ x, x < bs.length → memGet m (k + x) = bs.getD x 0) :
    memRead m k bs.length = bs :=
  List.ext_getElem (length_memRead ..) fun i hi hi' => by
    rw [getElem_memRead, h i hi', List.getD_eq_getElem _ _ hi']

theorem cpy_converts {ks kd : Nat → Nat} {n ws wd : Nat} (h : Say.Runs .cq 0x40 e s) (h0 : e.cmd.fmtA ≠ 0) (h6 : e.cmd.fmtA ≠ 0x06)
    (hinject : e.inject = none) (hwf : Memory.wf s.mem = true) (hn : e.cmd.c.toNat = n) (hws : fmtWidth e.cmd.fmtA.toNat = ws)
    (hwd : fmtWidth e.cmd.fmtB.toNat = wd)
    (hmoves : Moves s (Say.at e.cmd.b e.cmd.f) (Say.at e.cmd.a e.cmd.e) n (n / ws * wd) e.cmd.reps ks kd) :
    ∃ t, exec (.cpy e.bank e.seq) s = .next t ∧ Say.Done .cq e 0 0 s t
      ∧ (∀ r x, r < e.cmd.reps → x < n / ws → memNat t.mem (kd r + wd * x) wd
            = fmtConv e.cmd.fmtB.toNat (cpyMode e.cmd) (e.cmd.flags.getLsbD 2) (fmtDecode e.cmd.fmtA.toNat (memNat s.mem (ks r + ws * x) ws))
                % 256 ^ wd)
      ∧ ∀ a, Say.plain s a → (∀ r, r < e.cmd.reps → a < kd r ∨ kd r + n / ws * wd ≤ a) → memGet t.mem a = memGet s.mem a := by
  have hconv : ∀ m k, cpyConv e.cmd (memRead m k n) = (List.range (n / ws)).flatMap fun x => bytesOfNat wd (fmtConv e.cmd.fmtB.toNat (cpyMode e.cmd)
      (e.cmd.flags.getLsbD 2) (fmtDecode e.cmd.fmtA.toNat (natOfBytes (((memRead m k n).drop (ws * x)).take ws)))) := fun m k => by
    rw [cpyConv_memRead h0, hws, hwd]
  have hlen : ∀ r, r < e.cmd.reps → (cpyConv e.cmd (runBytes e s n ks r)).length = n / ws * wd := fun r _ => by
    rw [runBytes_clean hinject, hconv]
    simp [List.length_flatMap]
  have hreps : cpyReps e.cmd = repeats (Say.at e.cmd.b e.cmd.f) (fun r => some (Say.at e.cmd.a e.cmd.e r)) n (cpyConv e.cmd) (n / ws * wd)
      (e.cmd.flags.getLsbD 3) e.cmd.reps := by
    unfold cpyReps
    dsimp only
    rw [if_neg h0, hn, hws, hwd]
    rfl
  obtain ⟨hres, hst, -⟩ := repsDone_copyRun (e := e) (once := e.cmd.flags.getLsbD 3) hmoves h.2.2 hlen
  rw [← hreps] at hres hst
  obtain ⟨hin, hout⟩ := hmoves.memory hst h.2.2 hwf hlen
  obtain ⟨u, hu, hdone, hmem⟩ := work_ends h (Prod.ext hres rfl : cpyWork e s = (Result.ok, (copyRun e noSum 0 (cpyReps e.cmd) s).st)) hst rfl
  refine ⟨u, (exec_cpy_work h h6).trans hu, hdone, fun r x hr hx => ?_, fun a ha hapart => ?_⟩
  · have hread := memRead_eq_of_getD (k := kd r) (bs := cpyConv e.cmd (runBytes e s n ks r)) fun y hy => hin r y hr (by rwa [hlen r hr] at hy)
    rw [hlen r hr] at hread
    have hfit : wd * x + wd ≤ n / ws * wd := by
      rw [← Nat.mul_succ, Nat.mul_comm]
      exact Nat.mul_le_mul_right _ hx
    have hfits : ws * x + ws ≤ n := by
      rw [← Nat.mul_succ]
      exact (Nat.mul_le_mul_left _ hx).trans (Nat.mul_div_le ..)
    rw [hmem, memNat, ← memRead_drop_take _ (Nat.le_sub_of_add_le' hfit), hread, runBytes_clean hinject, hconv,
      take_drop_flatMap_range (fun _ => length_bytesOfNat ..) hx, natOfBytes_bytesOfNat, memRead_drop_take _ (Nat.le_sub_of_add_le' hfits), memNat]
  · rw [hmem]
    exact hout a ha hapart

/-! ### CPY from host space (R378) -/

theorem landsNothing_free (s : State) (k : Nat) : LandsNothing s { s with free := k } :=
  ⟨⟨rfl, rfl, rfl, rfl, rfl, rfl, rfl, rfl⟩, id, fun _ _ h => h, fun _ h => ⟨h, fun _ _ => rfl⟩⟩

/-- A read whose first line the host completes with an error. -/
theorem engRead_hostFails {va : Word} {n : Nat} {p : Place} (hn : 0 < n) (hplace : engPlace s va (min n (128 - va.toNat % 128)) .read = .ok p)
    (hfails : hostFails s p.key = true) (gen : BitVec 8) : engRead s va n gen = ⟨[], some (0x76, va)⟩ := by
  obtain ⟨ps, hps⟩ := lineParts_cons va hn
  have hstay : ∀ ps : List (Nat × Nat), ps.foldl (fun (r : EngRead) p => match r.fail with
      | some _ => r
      | none =>
        let x := engReadPart s (va + BitVec.ofNat 64 p.1) p.2 gen
        ⟨r.bytes ++ x.bytes, x.fail⟩) ⟨[], some (0x76, va)⟩ = ⟨[], some (0x76, va)⟩ := fun ps => by
    induction ps with
    | nil => rfl
    | cons p ps ih => exact ih
  have hpart : engReadPart s va (min n (128 - va.toNat % 128)) gen = ⟨[], some (0x76, va)⟩ := by
    unfold engReadPart
    rw [hplace]
    exact if_pos hfails
  unfold engRead
  rw [hps, List.foldl_cons]
  dsimp only
  rw [BitVec.add_zero, hpart]
  exact hstay ps

/-- A store of nothing, whose source has failed, writes nothing. -/
theorem engStore_unread (va : Word) (n : Nat) (f gen) (s : State) :
    engStore va [] n (some f) gen s = (Result.fault f.1 f.2, { s with free := s.free + 1 }) := by
  have hnone : (engBad s va n gen).filter (fun d => decide (d.1 < ([] : List Byte).length)) = none := by
    cases engBad s va n gen with
    | none => rfl
    | some d => simp [Option.filter]
  unfold engStore engStoreTo
  dsimp only
  rw [hnone]
  simp [freeBound, freeW, engPut]

/-- A first repeat that reads nothing ends the copy, and nothing is written. -/
theorem copyRun_unread {src dst : Word} {n : Nat} {once : Bool} {f : BitVec 8 × Word} (hread : engRead s src n 0x70 = ⟨[], some f⟩)
    (hinject : e.inject = none) (hf : f.1 ≠ 0) (ps : List (Nat × CopyRep)) :
    copyRun e noSum 0 ((0, ⟨src, some dst, n, id, n, once⟩) :: ps) s
      = ⟨{ s with free := s.free + 1 }, Result.fault f.1 f.2, [], 0⟩ := by
  have hfirst : copyRep s e 0 noSum ⟨src, some dst, n, id, n, once⟩ ⟨s, Result.ok, [], 0⟩
      = ⟨{ s with free := s.free + 1 }, Result.fault f.1 f.2, [], 0⟩ := by
    unfold copyRep
    dsimp only
    rw [hread, injectBytes_none hinject, fireInject_none hinject]
    simp [CopyRun.going, Result.ok, noteRead, engStore_unread, engPlaces, noSum]
  have hstay : ∀ ps : List (Nat × CopyRep), ps.foldl (fun x p => copyRep s e p.1 noSum p.2 x)
      ⟨{ s with free := s.free + 1 }, Result.fault f.1 f.2, [], 0⟩ = ⟨{ s with free := s.free + 1 }, Result.fault f.1 f.2, [], 0⟩ := by
    intro ps
    induction ps with
    | nil => rfl
    | cons p ps ih =>
      rw [List.foldl_cons, copyRep, if_pos (by simpa [CopyRun.going, Result.fault] using hf)]
      exact ih
  unfold copyRun
  rw [List.foldl_cons, hfirst, hstay]
  rfl

theorem cpy_hostFails {p : Place} (h : Say.Runs .cq 0x40 e s) (hfmt : e.cmd.fmtA = 0) (hn : 0 < e.cmd.c.toNat) (hl : 0 < e.cmd.reps)
    (hinject : e.inject = none) (hplace : engPlace s e.cmd.b (min e.cmd.c.toNat (128 - e.cmd.b.toNat % 128)) .read = .ok p)
    (hfails : hostFails s p.key = true) :
    ∃ t, exec (.cpy e.bank e.seq) s = .next t ∧ Say.Done .cq e 0x76 e.cmd.b s t ∧ t.mem = s.mem := by
  obtain ⟨k, hk⟩ := Nat.exists_eq_add_of_lt hl
  have hreps : ∃ ps, cpyReps e.cmd = (0, ⟨e.cmd.b, some e.cmd.a, e.cmd.c.toNat, id, e.cmd.c.toNat, e.cmd.flags.getLsbD 3⟩) :: ps := by
    have hconv : cpyConv e.cmd = id := funext fun bs => if_pos hfmt
    unfold cpyReps
    dsimp only
    rw [hconv, if_pos hfmt, hk, Nat.zero_add, List.range_succ_eq_map, List.map_cons]
    exact ⟨_, congrArg₂ List.cons (by simp [strided]) rfl⟩
  obtain ⟨ps, hps⟩ := hreps
  have hrun := copyRun_unread (dst := e.cmd.a) (once := e.cmd.flags.getLsbD 3) (engRead_hostFails hn hplace hfails 0x70) hinject (by simp) ps
  rw [← hps] at hrun
  obtain ⟨u, hu, hdone, hmem⟩ := work_ends h (show cpyWork e s = (Result.fault 0x76 e.cmd.b, { s with free := s.free + 1 }) by rw [cpyWork, hrun])
    (engine_of_lands (landsNothing_free s _) (keepsModes_of rfl)) rfl
  exact ⟨u, (exec_cpy_work h (by rw [hfmt]; decide)).trans hu, hdone, hmem⟩

/-- CPY is carried out whatever the host answers. -/
theorem exec_cpy_next (h : Say.Runs .cq 0x40 e s) (hfmt : e.cmd.fmtA = 0) : ∃ t, exec (.cpy e.bank e.seq) s = .next t :=
  ⟨_, (exec_cpy_work h (by rw [hfmt]; decide)).trans (work_runs h cpyWork)⟩

/-! ### CPYS (R384) -/

theorem copies_cpys (h : Say.Runs .cq 0x41 e s) :
    Say.Copies (.cpys e.bank e.seq) e e.cmd.c.toNat e.cmd.reps (Say.at e.cmd.b e.cmd.c) (Say.at e.cmd.a e.cmd.c) s (Say.Done .cq e 0 0 s) := by
  intro ks kd hwf hflat hapart
  have hmoves := moves_of_copies hflat hapart
  obtain ⟨hres, hst, -⟩ := runCopy_moves (e := e) (sum := noSum) (ck := 0) (once := e.cmd.flags.getLsbD 3) hmoves h.2.2
  obtain ⟨u, hu, hdone, hmem⟩ := work_ends h (Prod.ext hres rfl : cpysWork e s = (Result.ok, _)) hst rfl
  exact ⟨u, hu, hdone, moved_runBytes hmoves hst hmem h.2.2 hwf⟩

/-! ### CPYK (R385) -/

theorem exec_cpyk_work {v : W32} (h : Say.Runs .cq 0x42 e s) (hv : e.ckStart = some v) (hlocal : e.cmd.flags.getLsbD 4 = false) :
    exec (.cpyk e.bank e.seq) s = work .cq 0x42 e.bank e.seq (cpykWork v) s := by
  rw [exec_cpyk, execCpyk, findEntry_single (single_of_claimed h.1)]
  dsimp only
  rw [hv]
  dsimp only
  rw [hlocal]
  rfl

/-- A CPYK that has worked holds its checksum. -/
theorem worked_cpyk {v ck : W32} {u : State} (h : Say.Runs .cq 0x42 e s)
    (hv : cpykWork v e s = (Result.ok, modEntry .cq e.ord (fun y => { y with ck := ck }) u)) :
    ∃ t, work .cq 0x42 e.bank e.seq (cpykWork v) s = .next t ∧ t.mem = u.mem
      ∧ ∀ x ∈ t.core.queue .cq, x.ord = e.ord → x.st = .worked ∧ x.status = 0 ∧ x.ck = ck := by
  refine ⟨_, work_runs h (cpykWork v), ?_, fun x hx hord => ?_⟩
  · rw [modEntry_mem, creditBank_mem, hv, modEntry_mem]
  · rw [hv, queue_modEntry, creditBank_queue, queue_modEntry, List.map_map] at hx
    obtain ⟨y, -, rfl⟩ := List.mem_map.mp hx
    by_cases hy : y.ord = e.ord
    · simp [hy, workedWith, Result.ok]
    · simp [hy] at hord

/-- The bytes that CPYK sums up are those of its sources. -/
theorem sumRuns_cpyk {ks ks' : Nat → Nat} {n l : Nat} {src : Nat → Word} {v : W32} (hinject : e.inject = none)
    (hsrc : ∀ r, r < l → Say.Flat s (src r) n .read (ks r)) (hsrc' : ∀ r, r < l → Say.Flat s (src r) n .read (ks' r)) :
    sumRuns (ckSum e.cmd) v (runBytes e s n ks') l = Say.checksum e.cmd v ((List.range l).flatMap fun r => memRead s.mem (ks r) n) := by
  rw [sumRuns_ckSum]
  congr 1
  refine List.flatMap_congr fun r hr => ?_
  have hr := List.mem_range.mp hr
  have hsame := (engRead_of_flat (hsrc' r hr) 0x70).symm.trans (engRead_of_flat (hsrc r hr) 0x70)
  rw [runBytes_clean hinject]
  exact congrArg EngRead.bytes hsame

theorem copies_cpyk {v : W32} {ks : Nat → Nat} (h : Say.Runs .cq 0x42 e s) (hv : e.ckStart = some v) (hlocal : e.cmd.flags.getLsbD 4 = false)
    (hdst : e.cmd.flags.getLsbD 3 = false) (hinject : e.inject = none)
    (hsrc : ∀ r, r < e.cmd.reps → Say.Flat s (Say.at e.cmd.b e.cmd.c r) e.cmd.c.toNat .read (ks r)) :
    Say.Copies (.cpyk e.bank e.seq) e e.cmd.c.toNat e.cmd.reps (Say.at e.cmd.b e.cmd.c) (Say.at e.cmd.a e.cmd.c) s fun t =>
      ∀ x ∈ t.core.queue .cq, x.ord = e.ord → x.st = .worked ∧ x.status = 0
        ∧ x.ck = Say.checksum e.cmd v ((List.range e.cmd.reps).flatMap fun r => memRead s.mem (ks r) e.cmd.c.toNat) := by
  intro ks' kd hwf hflat hapart
  have hmoves := moves_of_copies hflat hapart
  obtain ⟨hres, hst, hck⟩ := runCopy_moves (e := e) (sum := ckSum e.cmd) (ck := v) (once := false) hmoves h.2.2
  rw [sumRuns_cpyk hinject hsrc hmoves.src] at hck
  obtain ⟨t, ht, hmem, hworked⟩ := worked_cpyk h (show cpykWork v e s = _ by
    unfold cpykWork runReps
    rw [hdst]
    exact Prod.ext hres rfl)
  refine ⟨t, (exec_cpyk_work h hv hlocal).trans ht, fun x hx hord => ?_, moved_runBytes hmoves hst hmem h.2.2 hwf⟩
  obtain ⟨hst, hstatus, hxck⟩ := hworked x hx hord
  exact ⟨hst, hstatus, hxck.trans hck⟩

theorem cpyk_reads {v : W32} {ks : Nat → Nat} (h : Say.Runs .cq 0x42 e s) (hv : e.ckStart = some v) (hlocal : e.cmd.flags.getLsbD 4 = false)
    (hnodst : e.cmd.flags.getLsbD 3 = true) (hinject : e.inject = none)
    (hsrc : ∀ r, r < e.cmd.reps → Say.Flat s (Say.at e.cmd.b e.cmd.c r) e.cmd.c.toNat .read (ks r)) :
    ∃ t, exec (.cpyk e.bank e.seq) s = .next t ∧ t.mem = s.mem ∧ ∀ x ∈ t.core.queue .cq, x.ord = e.ord → x.st = .worked ∧ x.status = 0
        ∧ x.ck = Say.checksum e.cmd v ((List.range e.cmd.reps).flatMap fun r => memRead s.mem (ks r) e.cmd.c.toNat) := by
  obtain ⟨hres, -, hread, hck⟩ := runCopy_reads (e := e) (sum := ckSum e.cmd) (ck := v) (once := false) hsrc
  rw [sumRuns_cpyk hinject hsrc hsrc] at hck
  obtain ⟨t, ht, hmem, hworked⟩ := worked_cpyk h (show cpykWork v e s = _ by
    unfold cpykWork runReps
    rw [hnodst]
    exact Prod.ext hres rfl)
  refine ⟨t, (exec_cpyk_work h hv hlocal).trans ht, hmem.trans hread, fun x hx hord => ?_⟩
  obtain ⟨hst, hstatus, hxck⟩ := hworked x hx hord
  exact ⟨hst, hstatus, hxck.trans hck⟩

/-! ### CFILL (R386) -/

theorem bytesOfNat_eq_map : ∀ n v : Nat, bytesOfNat n v = (List.range n).map fun i => BitVec.ofNat 8 (v / 256 ^ i)
  | 0, _ => rfl
  | n + 1, v => by
    rw [bytesOfNat, bytesOfNat_eq_map n, List.range_succ_eq_map, List.map_cons, List.map_map]
    simp [Function.comp_def, Nat.pow_succ', Nat.div_div_eq_div_mul]

/-- A byte of a bit vector. -/
theorem extractLsb'_byte {w : Nat} (v : BitVec w) (i : Nat) : v.extractLsb' (8 * i) 8 = BitVec.ofNat 8 (v.toNat / 256 ^ i) := by
  refine BitVec.eq_of_toNat_eq ?_
  rw [BitVec.extractLsb'_toNat, BitVec.toNat_ofNat, Nat.shiftRight_eq_div_pow, Nat.pow_mul]

/-- The bytes of a repeat of CFILL repeat its pattern. -/
theorem getD_fillBytes {c : Cmd} {x : Nat} (hx : x < c.c.toNat) : (fillBytes c).getD x 0 = (match c.vpat with
    | some v => v.extractLsb' (8 * (x % 128)) 8
    | none => c.b.extractLsb' (8 * (x % 8)) 8) := by
  have hpattern : ∀ p : List Byte, ((List.range c.c.toNat).map fun i => p.getD (i % p.length) 0).getD x 0 = p.getD (x % p.length) 0 := fun p => by
    simp [hx]
  unfold fillBytes
  dsimp only
  rw [hpattern]
  cases c.vpat with
  | some v =>
    have hlen : (vBytes 128 v).length = 128 := by simp [vBytes]
    have hlt : x % 128 < 128 := Nat.mod_lt _ (by decide)
    have hget : (vBytes 128 v).getD (x % 128) 0 = vbyte v (x % 128) := by simp [vBytes, hlt]
    dsimp only
    rw [hlen, extractLsb'_byte, hget, vbyte, elemAt, Nat.shiftRight_eq_div_pow, Nat.pow_mul]
    exact BitVec.eq_of_toNat_eq (by simp)
  | none =>
    have hlt : x % 8 < 8 := Nat.mod_lt _ (by decide)
    dsimp only
    rw [length_bytesOfNat, extractLsb'_byte, bytesOfNat_eq_map]
    simp [hlt]

theorem cfill_fills {kd : Nat → Nat} (h : Say.Runs .cq 0x43 e s) (hwf : Memory.wf s.mem = true)
    (hdst : ∀ r, r < e.cmd.reps → Say.Flat s (Say.at e.cmd.a e.cmd.e r) e.cmd.c.toNat .write (kd r))
    (hapart : ∀ r q, r < e.cmd.reps → q < e.cmd.reps → r ≠ q → kd r + e.cmd.c.toNat ≤ kd q ∨ kd q + e.cmd.c.toNat ≤ kd r) :
    ∃ t, exec (.cfill e.bank e.seq) s = .next t ∧ Say.Done .cq e 0 0 s t
      ∧ (∀ r x, r < e.cmd.reps → x < e.cmd.c.toNat → memGet t.mem (kd r + x) = (match e.cmd.vpat with
          | some v => v.extractLsb' (8 * (x % 128)) 8
          | none => e.cmd.b.extractLsb' (8 * (x % 8)) 8))
      ∧ ∀ a, Say.plain s a → (∀ r, r < e.cmd.reps → a < kd r ∨ kd r + e.cmd.c.toNat ≤ a) → memGet t.mem a = memGet s.mem a := by
  have hlen : (fillBytes e.cmd).length = e.cmd.c.toNat := by simp [fillBytes]
  obtain ⟨u, hu, hst⟩ := engine_engStoreSegsTo (bs := fun _ => fillBytes e.cmd) (gen := 0x71) h.2.2 (.refl s) fun r hr => by
    rw [hlen]
    exact hdst r hr
  obtain ⟨hin, hout⟩ := hst.moved h.2.2 hwf (fun _ _ => hlen) (fun r x hr hx => ((hdst r hr).2 x hx).1) hapart
  obtain ⟨t, ht, hdone, hmem⟩ := work_ends (f := cfillWork) h hu hst rfl
  refine ⟨t, ht, hdone, fun r x hr hx => ?_, fun a ha hapart => ?_⟩
  · rw [hmem, hin r x hr hx, getD_fillBytes hx]
  · rw [hmem, hout a ha hapart]

end Engines

/-- Settles O35: a simulation of each engine by the bytes that it overwrites. -/
theorem copyCommands : Obligations.CopyCommands := by
  unfold Obligations.CopyCommands
  intro e s
  refine ⟨copies_cpy, fun q h hfmt hn hl hinject hplace _ => ?_, copies_cpys, fun v h hv hlocal hdst hinject ks hsrc => ?_,
    fun v h hv hlocal hnodst hinject ks hsrc => ?_, fun ks kd h h0 h6 hinject hwf _ _ hflat hapart => ?_, fun kd h hwf hdst hapart => ?_⟩
  · by_cases hfails : hostFails s q.key = true
    · obtain ⟨t, ht, hends⟩ := cpy_hostFails h hfmt hn hl hinject hplace hfails
      exact ⟨t, ht, fun _ => hends⟩
    · obtain ⟨t, ht⟩ := exec_cpy_next h hfmt
      exact ⟨t, ht, fun hyes => absurd hyes hfails⟩
  · exact copies_cpyk h hv hlocal hdst hinject hsrc
  · exact cpyk_reads h hv hlocal hnodst hinject hsrc
  · exact cpy_converts h h0 h6 hinject hwf rfl rfl rfl (moves_of_copies hflat hapart)
  · exact cfill_fills h hwf hdst hapart

end Sys2Proof.Proofs
end
